-- ==== Sys2Proof/Word.lean ====
section
/-! DEFINITION. The word types of the GL-960 (R7, R8, R10): registers are 64 bits, bytes 8 bits, addresses bit vectors
while they are computed. -/

namespace Sys2Proof

/-- A 64-bit register value (R10). -/
abbrev Word := BitVec 64

/-- One byte of memory (R7). -/
abbrev Byte := BitVec 8

/-- A 32-bit value: a vector lane, a mark count, a binary32 number. -/
abbrev Lane := BitVec 32

end Sys2Proof
end

