-- ==== Sys2Proof/Syntax.lean ====
section
/-! DEFINITION. The syntax of the commands: the fields of Zwiol instruction words (R74), what each event carries, and
`Instr`, one constructor per row of the operation table. -/

namespace Sys2Proof

/-- A task context: a core and one of its two resident context slots (R70). Cores 0 to 127 are the control cores of the
logical clusters (R19); cores 128 to 131 are copyists 0 to 3 (R491). -/
structure Hart where
  core : Nat
  ctx : Nat
  deriving DecidableEq, Repr

/-- The fields of a Form T word below the group and op (R74). -/
structure FormT where
  dst : BitVec 6
  src1 : BitVec 6
  src2 : BitVec 6
  mask : BitVec 4
  ext : BitVec 30
  deriving DecidableEq, Repr

/-- The fields of a Form K word below the group and op (R74). -/
structure FormK where
  dst : BitVec 6
  src : BitVec 6
  mask : BitVec 4
  ctl : BitVec 5
  imm : BitVec 32
  deriving DecidableEq, Repr

/-- The fields of a Form D word below the group and op (R74). -/
structure FormD where
  slot : BitVec 4
  queue : BitVec 3
  mark : BitVec 10
  areg : BitVec 6
  mask : BitVec 4
  sig : BitVec 1
  ctl : BitVec 5
  imm : BitVec 20
  deriving DecidableEq, Repr

/-- What the firmware makes of a page fault (R104): it writes the page-table entry, or it cannot. -/
inductive PageFix where
  | mapped (pteAddr : Nat) (pte : Word)
  | denied
  deriving DecidableEq, Repr

/-- What befalls an operation of an engine as it completes, beside its own effect (R151, R171 to R175, R202, R203, R232, R255): nothing, or an
error of the hardware that a checker may find. -/
inductive OpCheck where
  | ok
  /-- single-bit errors corrected on the way -/
  | corrected (n : Nat)
  /-- the two copies of a duplicated stage differ -/
  | mismatch
  /-- double-bit error in a protected buffer -/
  | doubleBit
  /-- result `i`, `j` of the datapath comes out as `v`: row and column of an array, or a lane; the checks of the datapath decide whether it
  is found -/
  | upset (i j v : Nat)
  deriving DecidableEq, Repr

/-- The units of a Quill (R162). -/
inductive QlUnit where
  | weight
  | array
  | drain
  deriving DecidableEq, Repr

/-- The units of a Stipple (R230). -/
inductive SpUnit where
  | load
  | lanes
  | port
  | comp
  deriving DecidableEq, Repr

/-- The end of a Quill operation (R162, R171 to R174): the unit that executes it, and what befell it. -/
structure QuillEnd where
  unit : QlUnit
  check : OpCheck
  deriving DecidableEq, Repr

/-- The end of a Stipple operation (R230, R232). -/
structure StippleEnd where
  unit : SpUnit
  check : OpCheck
  deriving DecidableEq, Repr

/-- The end of a repair pass of a cluster's Stipple (R227, R232). -/
structure RepairEnd where
  cluster : Nat
  check : OpCheck
  deriving DecidableEq, Repr

/-- The two engines whose owner state can be swapped (R312). -/
inductive Engine where
  | quill
  | stipple
  deriving DecidableEq, Repr

/-- One part of an energy update (R314, R478): nJ attributed to a context, or µJ to a domain. -/
structure EnergySample where
  hart : Hart
  nj : Nat
  dom : Nat
  uj : Nat
  deriving DecidableEq, Repr

/-- Which half of a register an access names (R10). -/
inductive RegHalf where
  | full
  | low
  | high
  deriving DecidableEq, Repr

/-- What arrives at a core's caches (R344, R346, R349): the line of the data cache's demand miss, an instruction line that a fetch waits for,
or a line that a stride prefetch has asked for. -/
inductive FillOf where
  | miss
  | fetch (pa : Nat)
  | prefetch (line : Nat)
  deriving DecidableEq, Repr

/-- What the cache scrubber reads (R356, R357): a line, and what its parity shows. -/
inductive ScrubRead where
  | good
  /-- the line it reads is good; an upset strikes another line of the data cache, its bytes or its tag and state, before anything reads it -/
  | strikes (line : Nat) (tag : Bool)
  | instrError (line : Nat)
  | dataError (line : Nat)
  | tagError (line : Nat)
  deriving DecidableEq, Repr

/-- An error that a demand read meets (R365): the word's physical address, how many bits are wrong, whether the address fold disagrees,
the Reservoir channel. -/
structure MemErr where
  pa : Nat
  chan : Nat
  bits : Nat
  addrMismatch : Bool
  deriving DecidableEq, Repr

/-- The end of a Stroke request (R135, R365): whether its CRC is good, and the errors that its read meets. -/
structure RequestEnd where
  crcOk : Bool
  errs : List MemErr
  deriving DecidableEq, Repr

/-- What befalls a request near memory (R255, R264, R365): a check of its units, a map entry that its lookup finds uncorrectable, and the
errors that its reads meet. -/
structure NearEnd where
  check : OpCheck
  bad : Option Nat
  errs : List MemErr
  deriving DecidableEq, Repr

/-- A partial as it reaches the return unit (R244, R255): the entry of its pool, whether its CRC is good, and a check of the unit. -/
structure PartialEnd where
  entry : Nat
  crcOk : Bool
  check : OpCheck
  deriving DecidableEq, Repr

/-- The end of a hot copy (R264, R268): the row's home, and whether its map entry is uncorrectable. -/
structure CopyEnd where
  home : Nat
  bad : Bool
  deriving DecidableEq, Repr

/-- A fill that arrives (R344, R346, R349, R365): the context or core, what it brings, and the errors that its read meets. -/
structure FillEnd where
  hart : Hart
  what : FillOf
  errs : List MemErr
  deriving DecidableEq, Repr

/-- A repair that the power-up self-test rebuilds (R18, R361, R373): a bank row of a physical region, by its offset; a whole bank, which the
spare bank of its bank group replaces; a channel's row in a bank of a Reservoir group. -/
inductive Repair where
  | bankRow (p off : Nat)
  | bank (p bg n : Nat)
  | channel (g b chan : Nat)
  deriving DecidableEq, Repr

/-- An error that a patrol read meets (R364, R365): the word of the granule or slot, how many bits are wrong, whether the
address fold disagrees, the Reservoir group and channel. -/
structure WordErr where
  group : Nat
  chan : Nat
  word : Nat
  bits : Nat
  addrMismatch : Bool
  deriving DecidableEq, Repr

/-- A Lanine flit as the receiver's FEC decoder hands it on (R376, R378): its 256 bytes, the bytes corrected, and whether every interleave
decoded. -/
structure Flit where
  bytes : List Byte
  fecCorrected : Nat
  fecOk : Bool
  deriving DecidableEq, Repr

/-- How a link training ended (R396, R397, R399, R406): lanes to be replaced in each direction, or failure. -/
structure TrainResult where
  failed : Bool
  rxBad : List Nat
  txBad : List Nat
  deriving DecidableEq, Repr

/-- The Lanine link as it comes up (R383, R396, R397): its training, and the credits that the host advertises. -/
structure LinkUp where
  train : TrainResult
  credits : List Nat
  deriving DecidableEq, Repr

/-- The result of the power-up self-test (R18, R19): which slots of each group pass, and the repairs it rebuilds. -/
structure SelfTest where
  pass : List (List Bool)
  fix : List Repair
  deriving DecidableEq, Repr

/-- A Carbon frame of 4,096 bytes (R405). -/
structure Frame where
  bytes : List Byte
  deriving DecidableEq, Repr

/-- A commit record of the journal without its CRC (R44). -/
structure CommitRec where
  csn : Word
  subject : Word
  parent : Word
  kind : Nat
  job : Nat
  origin : Nat
  ring : Nat
  count : Nat
  time : Word
  deriving DecidableEq, Repr

/-- A PAIR record (R401, R407). -/
structure PairRec where
  identity : List Byte
  letter : Nat
  role : Nat
  recorded : Word
  sealedCsn : Word
  takeovers : Word
  folio : Word
  record : Option CommitRec
  diverged : Bool
  deriving DecidableEq, Repr

/-- A DELTA (R412): the words of the row that changed, as new xor old. -/
structure DeltaRec where
  table : Nat
  row : Nat
  epoch : Word
  xors : List (Nat × BitVec 32)
  deriving DecidableEq, Repr

/-- A staged edition segment of a folio-class tensor (R414). -/
structure SegData where
  index : Nat
  bytes : List Byte
  deriving DecidableEq, Repr

/-- A changed 64 B unit of a folio image (R418): its physical address and bytes. -/
structure UnitData where
  addr : Nat
  bytes : List Byte
  deriving DecidableEq, Repr

/-- A SEAL record (R407, R420). -/
structure SealRec where
  folio : Nat
  covered : Word
  ptrs : List (Nat × Nat)
  pub : Option CommitRec
  deriving DecidableEq, Repr

/-- A TRANSFER record (R432). -/
structure XferRec where
  num : Nat
  job : Nat
  va : Word
  handle : Nat
  inc : Nat
  bytes : List Byte
  deriving DecidableEq, Repr

/-- What an Ethernet frame is (R434). -/
inductive EthKind where
  | roce
  | ingest
  | arpNd
  | icmpEcho
  | other
  | badFcs
  | fragment
  deriving DecidableEq, Repr

/-- An inbound RDMA message (R436). -/
structure RdmaMsg where
  rkey : BitVec 32
  va : Word
  len : Nat
  bytes : List Byte
  psn : BitVec 24
  icrcOk : Bool
  ce : Bool
  deriving DecidableEq, Repr

/-- An answer to an outbound RDMA operation (R438, R439). -/
inductive RdmaAck where
  | ack (psn : BitVec 24)
  | nakSequence (psn : BitVec 24)
  | nakOther (syndrome : Nat)
  | readData (psn : BitVec 24) (bytes : List Byte)
  deriving DecidableEq, Repr

/-- A SLICE_REQ (R443). -/
structure SliceReq where
  table : Nat
  edition : Nat
  pool : Nat
  targets : Nat
  adj : Word
  result : Word
  handle : Nat
  slice : Nat
  deriving DecidableEq, Repr

/-- A unit as a fault record names it (R471). -/
structure UnitId where
  kind : Nat
  index : Nat
  deriving DecidableEq, Repr

/-- A detector report (R451, R471). `sourceLost` is the finding of R463 about the failed region. -/
structure Report where
  code : Nat
  unit : UnitId
  addr : Nat
  detail : Word
  job : Option Nat
  sourceLost : Bool
  deriving DecidableEq, Repr

/-- A 10 µs input sample (R477): V_IN and V_HU in 10 mV, I_IN in 10 mA. -/
structure PowerSample where
  vin : Nat
  vhu : Nat
  iin : Nat
  deriving DecidableEq, Repr

/-- The header of a consumed submission entry (R501). -/
structure EntryHdr where
  ring : Nat
  ordered : Bool
  job : Nat
  tag : BitVec 32
  zeroOk : Bool
  deriving DecidableEq, Repr

/-- A job image as the firmware applies it at load (R550, R403): settings registers, memory, the initial task, and the
figures that R410, R466 and R497 need. -/
structure JobImage where
  hash : BitVec 256
  regs : List (Nat × Word)
  cells : List (Nat × Byte)
  captured : List (Nat × Nat)
  exchange : List Nat
  iwUnits : Nat
  capturedBytes : Nat
  usesInkwell : Bool
  task : List Byte
  deriving DecidableEq, Repr, Inhabited

/-- A firmware image: the header of R493, and the digests and signature checks that R494 compares. -/
structure FwImage where
  formOk : Bool
  svn : BitVec 32
  version : Word
  length : Nat
  payHash : BitVec 256
  runHash : BitVec 256
  payDigest : BitVec 256
  runDigest : BitVec 256
  vendorPkHash : BitVec 256
  vendorSigOk : Bool
  ownerPkHash : BitVec 256
  ownerSigOk : Bool
  deriving DecidableEq, Repr

/-- An MCTP packet (R520). -/
structure MctpPacket where
  pecOk : Bool
  som : Bool
  eom : Bool
  seq : BitVec 2
  tag : Nat
  ty : Nat
  bytes : List Byte
  deriving DecidableEq, Repr

/-- The side-band inputs (R532). -/
inductive SidePin where
  | resetN
  | throtN
  | twinHb
  deriving DecidableEq, Repr

/-- The commands of the GL-960: one constructor per row of the operation table, in the table's order.
A Zwiol row names the issuing context and the fields of its instruction word (R74); an event row carries what arrives
with the event. -/
inductive Instr where
  /-- ADD (R78). -/
  | add (h : Hart) (f : FormT)
  /-- SUB (R78). -/
  | sub (h : Hart) (f : FormT)
  /-- AND (R78). -/
  | and (h : Hart) (f : FormT)
  /-- OR (R78). -/
  | or (h : Hart) (f : FormT)
  /-- XOR (R78). -/
  | xor (h : Hart) (f : FormT)
  /-- ANDN (R78). -/
  | andn (h : Hart) (f : FormT)
  /-- SLL (R78). -/
  | sll (h : Hart) (f : FormT)
  /-- SRL (R78). -/
  | srl (h : Hart) (f : FormT)
  /-- SRA (R78). -/
  | sra (h : Hart) (f : FormT)
  /-- SLT (R78). -/
  | slt (h : Hart) (f : FormT)
  /-- SLTU (R78). -/
  | sltu (h : Hart) (f : FormT)
  /-- MIN (R78). -/
  | min (h : Hart) (f : FormT)
  /-- MAX (R78). -/
  | max (h : Hart) (f : FormT)
  /-- MINU (R78). -/
  | minu (h : Hart) (f : FormT)
  /-- MAXU (R78). -/
  | maxu (h : Hart) (f : FormT)
  /-- MUL (R78). -/
  | mul (h : Hart) (f : FormT)
  /-- MULH (R78). -/
  | mulh (h : Hart) (f : FormT)
  /-- MULHU (R78). -/
  | mulhu (h : Hart) (f : FormT)
  /-- DIV (R79). -/
  | div (h : Hart) (f : FormT)
  /-- DIVU (R79). -/
  | divu (h : Hart) (f : FormT)
  /-- REM (R79). -/
  | rem (h : Hart) (f : FormT)
  /-- REMU (R79). -/
  | remu (h : Hart) (f : FormT)
  /-- CLZ (R78). -/
  | clz (h : Hart) (f : FormT)
  /-- CTZ (R78). -/
  | ctz (h : Hart) (f : FormT)
  /-- POPC (R78). -/
  | popc (h : Hart) (f : FormT)
  /-- ADDI (R80). -/
  | addi (h : Hart) (f : FormK)
  /-- ANDI (R80). -/
  | andi (h : Hart) (f : FormK)
  /-- ORI (R80). -/
  | ori (h : Hart) (f : FormK)
  /-- XORI (R80). -/
  | xori (h : Hart) (f : FormK)
  /-- SLLI (R80). -/
  | slli (h : Hart) (f : FormK)
  /-- SRLI (R80). -/
  | srli (h : Hart) (f : FormK)
  /-- SRAI (R80). -/
  | srai (h : Hart) (f : FormK)
  /-- SLTI (R80). -/
  | slti (h : Hart) (f : FormK)
  /-- SLTIU (R80). -/
  | sltiu (h : Hart) (f : FormK)
  /-- MOVI (R80). -/
  | movi (h : Hart) (f : FormK)
  /-- MOVHI (R80). -/
  | movhi (h : Hart) (f : FormK)
  /-- AUIPC (R80). -/
  | auipc (h : Hart) (f : FormK)
  /-- FADD (R81). -/
  | fadd (h : Hart) (f : FormT)
  /-- FSUB (R81). -/
  | fsub (h : Hart) (f : FormT)
  /-- FMUL (R81). -/
  | fmul (h : Hart) (f : FormT)
  /-- FDIV (R81). -/
  | fdiv (h : Hart) (f : FormT)
  /-- FSQRT (R81). -/
  | fsqrt (h : Hart) (f : FormT)
  /-- FMA (R81). -/
  | fma (h : Hart) (f : FormT)
  /-- FMIN (R82). -/
  | fmin (h : Hart) (f : FormT)
  /-- FMAX (R82). -/
  | fmax (h : Hart) (f : FormT)
  /-- FEQ (R82). -/
  | feq (h : Hart) (f : FormT)
  /-- FLT (R82). -/
  | flt (h : Hart) (f : FormT)
  /-- FLE (R82). -/
  | fle (h : Hart) (f : FormT)
  /-- FCVT_I (R82). -/
  | fcvtI (h : Hart) (f : FormT)
  /-- FCVT_F (R81). -/
  | fcvtF (h : Hart) (f : FormT)
  /-- FCVT_P (R81). -/
  | fcvtP (h : Hart) (f : FormT)
  /-- FCLASS (R83). -/
  | fclass (h : Hart) (f : FormT)
  /-- BEQ (R85). -/
  | beq (h : Hart) (f : FormK)
  /-- BNE (R85). -/
  | bne (h : Hart) (f : FormK)
  /-- BLT (R85). -/
  | blt (h : Hart) (f : FormK)
  /-- BGE (R85). -/
  | bge (h : Hart) (f : FormK)
  /-- BLTU (R85). -/
  | bltu (h : Hart) (f : FormK)
  /-- BGEU (R85). -/
  | bgeu (h : Hart) (f : FormK)
  /-- BMANY (R85). -/
  | bmany (h : Hart) (f : FormK)
  /-- BMNONE (R85). -/
  | bmnone (h : Hart) (f : FormK)
  /-- JAL (R85). -/
  | jal (h : Hart) (f : FormK)
  /-- JALR (R86). -/
  | jalr (h : Hart) (f : FormK)
  /-- LD_B (R87). -/
  | ldB (h : Hart) (f : FormK)
  /-- LD_H (R87). -/
  | ldH (h : Hart) (f : FormK)
  /-- LD_W (R87). -/
  | ldW (h : Hart) (f : FormK)
  /-- LD_D (R87). -/
  | ldD (h : Hart) (f : FormK)
  /-- LD_BU (R87). -/
  | ldBu (h : Hart) (f : FormK)
  /-- LD_HU (R87). -/
  | ldHu (h : Hart) (f : FormK)
  /-- LD_WU (R87). -/
  | ldWu (h : Hart) (f : FormK)
  /-- ST_B (R87). -/
  | stB (h : Hart) (f : FormK)
  /-- ST_H (R87). -/
  | stH (h : Hart) (f : FormK)
  /-- ST_W (R87). -/
  | stW (h : Hart) (f : FormK)
  /-- ST_D (R87). -/
  | stD (h : Hart) (f : FormK)
  /-- DS_LD (R87). -/
  | dsLd (h : Hart) (f : FormK)
  /-- DS_ST (R89). -/
  | dsSt (h : Hart) (f : FormK)
  /-- DS_CLR (R89). -/
  | dsClr (h : Hart) (f : FormK)
  /-- C_ZERO (R350). -/
  | cZero (h : Hart) (f : FormK)
  /-- C_CLEAN (R351). -/
  | cClean (h : Hart) (f : FormK)
  /-- C_FLUSH (R351). -/
  | cFlush (h : Hart) (f : FormK)
  /-- I_SYNC (R90). -/
  | iSync (h : Hart) (f : FormK)
  /-- FENCE (R91). -/
  | fence (h : Hart) (f : FormT)
  /-- AMO_SWAP (R92). -/
  | amoSwap (h : Hart) (f : FormT)
  /-- AMO_ADD (R92). -/
  | amoAdd (h : Hart) (f : FormT)
  /-- AMO_AND (R92). -/
  | amoAnd (h : Hart) (f : FormT)
  /-- AMO_OR (R92). -/
  | amoOr (h : Hart) (f : FormT)
  /-- AMO_XOR (R92). -/
  | amoXor (h : Hart) (f : FormT)
  /-- AMO_MIN (R92). -/
  | amoMin (h : Hart) (f : FormT)
  /-- AMO_MAX (R92). -/
  | amoMax (h : Hart) (f : FormT)
  /-- AMO_MINU (R92). -/
  | amoMinu (h : Hart) (f : FormT)
  /-- AMO_MAXU (R92). -/
  | amoMaxu (h : Hart) (f : FormT)
  /-- AMO_CAS (R92). -/
  | amoCas (h : Hart) (f : FormT)
  /-- M_AND (R94). -/
  | mAnd (h : Hart) (f : FormT)
  /-- M_OR (R94). -/
  | mOr (h : Hart) (f : FormT)
  /-- M_XOR (R94). -/
  | mXor (h : Hart) (f : FormT)
  /-- M_ANDN (R94). -/
  | mAndn (h : Hart) (f : FormT)
  /-- M_NOT (R94). -/
  | mNot (h : Hart) (f : FormT)
  /-- M_FROMA (R94). -/
  | mFroma (h : Hart) (f : FormT)
  /-- M_TOA (R94). -/
  | mToa (h : Hart) (f : FormT)
  /-- M_POPC (R94). -/
  | mPopc (h : Hart) (f : FormT)
  /-- M_FIRST (R94). -/
  | mFirst (h : Hart) (f : FormT)
  /-- NOP (R95). -/
  | nop (h : Hart) (f : FormK)
  /-- END (R95). -/
  | endTask (h : Hart) (f : FormK)
  /-- YIELD (R95). -/
  | yield (h : Hart) (f : FormK)
  /-- SRR (R96). -/
  | srr (h : Hart) (f : FormK)
  /-- SRW (R96). -/
  | srw (h : Hart) (f : FormK)
  /-- TRAP (R95). -/
  | trap (h : Hart) (f : FormK)
  /-- BREAK (R101). -/
  | breakI (h : Hart) (f : FormK)
  /-- RETX (R96). -/
  | retx (h : Hart) (f : FormK)
  /-- WAITI (R107). -/
  | waiti (h : Hart) (f : FormK)
  /-- TLB_INV (R95). -/
  | tlbInv (h : Hart) (f : FormK)
  /-- TLB_INVJ (R95). -/
  | tlbInvj (h : Hart) (f : FormK)
  /-- FW_KICK (R492). -/
  | fwKick (h : Hart) (v : Word)
  /-- ENGINE_EXCEPTION (R103). -/
  | engineException (h : Hart)
  /-- PAGE_FAULT_RESOLVE (R104). -/
  | pageFaultResolve (h : Hart) (r : PageFix)
  /-- SK_LOAD (R114). -/
  | skLoad (h : Hart) (f : FormD)
  /-- SK_STORE (R114). -/
  | skStore (h : Hart) (f : FormD)
  /-- SK_COPY (R114). -/
  | skCopy (h : Hart) (f : FormD)
  /-- SK_SWAP (R125). -/
  | skSwap (h : Hart) (f : FormD)
  /-- SK_SWAP_COMPLETE (R125). -/
  | skSwapComplete (c : Nat)
  /-- SK_CANCEL (R116). -/
  | skCancel (h : Hart) (f : FormD)
  /-- SK_CANCEL_COMPLETE (R116). -/
  | skCancelComplete (h : Hart)
  /-- INNER_OP_START (R129). -/
  | innerOpStart (c : Nat) (n : Nat)
  /-- STROKE_REQUEST_COMPLETE (R135). -/
  | strokeRequestComplete (c : Nat) (n : Nat) (r : RequestEnd)
  /-- DEADLINE_MISS (R131). -/
  | deadlineMiss (c : Nat) (n : Nat)
  /-- SK_RESUME (R138). -/
  | skResume (c : Nat) (v : Word)
  /-- SK_ABORT (R138). -/
  | skAbort (c : Nat) (v : Word)
  /-- SK_QCFG_WRITE (R144). -/
  | skQcfgWrite (c : Nat) (q : Nat) (v : Word)
  /-- QL_LDW (R163). -/
  | qlLdw (h : Hart) (f : FormT)
  /-- QL_MMA (R163). -/
  | qlMma (h : Hart) (f : FormT)
  /-- QL_WB (R168). -/
  | qlWb (h : Hart) (f : FormT)
  /-- QL_SAVE (R170). -/
  | qlSave (h : Hart) (f : FormT)
  /-- QL_RESTORE (R170). -/
  | qlRestore (h : Hart) (f : FormT)
  /-- QL_ACCADD (R158). -/
  | qlAccadd (h : Hart) (f : FormT)
  /-- QL_FILL (R156). -/
  | qlFill (h : Hart) (f : FormT)
  /-- QL_SWAP (R164). -/
  | qlSwap (h : Hart) (f : FormT)
  /-- QL_SIG (R158). -/
  | qlSig (h : Hart) (f : FormK)
  /-- QL_SEED (R169). -/
  | qlSeed (h : Hart) (f : FormK)
  /-- QL_RDFL (R158). -/
  | qlRdfl (h : Hart) (f : FormK)
  /-- QL_OP_COMPLETE (R175). -/
  | qlOpComplete (c : Nat) (r : QuillEnd)
  /-- BR_ADD (R179). -/
  | brAdd (h : Hart) (f : FormT)
  /-- BR_SUB (R179). -/
  | brSub (h : Hart) (f : FormT)
  /-- BR_MUL (R179). -/
  | brMul (h : Hart) (f : FormT)
  /-- BR_FMA (R179). -/
  | brFma (h : Hart) (f : FormT)
  /-- BR_MIN (R179). -/
  | brMin (h : Hart) (f : FormT)
  /-- BR_MAX (R179). -/
  | brMax (h : Hart) (f : FormT)
  /-- BR_ABS (R179). -/
  | brAbs (h : Hart) (f : FormT)
  /-- BR_NEG (R179). -/
  | brNeg (h : Hart) (f : FormT)
  /-- BR_DIV (R179). -/
  | brDiv (h : Hart) (f : FormT)
  /-- BR_SQRT (R179). -/
  | brSqrt (h : Hart) (f : FormT)
  /-- BR_EXP2 (R184). -/
  | brExp2 (h : Hart) (f : FormT)
  /-- BR_LOG2 (R184). -/
  | brLog2 (h : Hart) (f : FormT)
  /-- BR_AND (R179). -/
  | brAnd (h : Hart) (f : FormT)
  /-- BR_OR (R179). -/
  | brOr (h : Hart) (f : FormT)
  /-- BR_XOR (R179). -/
  | brXor (h : Hart) (f : FormT)
  /-- BR_SLL (R179). -/
  | brSll (h : Hart) (f : FormT)
  /-- BR_SRL (R179). -/
  | brSrl (h : Hart) (f : FormT)
  /-- BR_SRA (R179). -/
  | brSra (h : Hart) (f : FormT)
  /-- BR_CEQ (R185). -/
  | brCeq (h : Hart) (f : FormT)
  /-- BR_CLT (R185). -/
  | brClt (h : Hart) (f : FormT)
  /-- BR_CLE (R185). -/
  | brCle (h : Hart) (f : FormT)
  /-- BR_SEL (R185). -/
  | brSel (h : Hart) (f : FormT)
  /-- BR_MOV (R180). -/
  | brMov (h : Hart) (f : FormT)
  /-- BR_BCAST (R180). -/
  | brBcast (h : Hart) (f : FormT)
  /-- BR_PERM (R180). -/
  | brPerm (h : Hart) (f : FormT)
  /-- BR_TOA (R195). -/
  | brToa (h : Hart) (f : FormT)
  /-- BR_FROMA (R180). -/
  | brFroma (h : Hart) (f : FormT)
  /-- BR_CVTN (R186). -/
  | brCvtn (h : Hart) (f : FormT)
  /-- BR_CVTW (R186). -/
  | brCvtw (h : Hart) (f : FormT)
  /-- BR_ITOF (R187). -/
  | brItof (h : Hart) (f : FormT)
  /-- BR_FTOI (R187). -/
  | brFtoi (h : Hart) (f : FormT)
  /-- BR_MXS (R188). -/
  | brMxs (h : Hart) (f : FormT)
  /-- BR_MXQ (R189). -/
  | brMxq (h : Hart) (f : FormT)
  /-- BR_GATH (R190). -/
  | brGath (h : Hart) (f : FormT)
  /-- BR_SCAT (R190). -/
  | brScat (h : Hart) (f : FormT)
  /-- BR_LD (R191). -/
  | brLd (h : Hart) (f : FormK)
  /-- BR_ST (R191). -/
  | brSt (h : Hart) (f : FormK)
  /-- BR_ADDI (R192). -/
  | brAddi (h : Hart) (f : FormK)
  /-- BR_MULI (R192). -/
  | brMuli (h : Hart) (f : FormK)
  /-- BR_MINI (R192). -/
  | brMini (h : Hart) (f : FormK)
  /-- BR_MAXI (R192). -/
  | brMaxi (h : Hart) (f : FormK)
  /-- BR_MOVI (R192). -/
  | brMovi (h : Hart) (f : FormK)
  /-- BR_SEED (R183). -/
  | brSeed (h : Hart) (f : FormK)
  /-- BR_RDFL (R190). -/
  | brRdfl (h : Hart) (f : FormK)
  /-- RS_SUM (R193). -/
  | rsSum (h : Hart) (f : FormT)
  /-- RS_MAX (R193). -/
  | rsMax (h : Hart) (f : FormT)
  /-- RS_MIN (R193). -/
  | rsMin (h : Hart) (f : FormT)
  /-- RS_ARGMAX (R193). -/
  | rsArgmax (h : Hart) (f : FormT)
  /-- RS_SCAN (R194). -/
  | rsScan (h : Hart) (f : FormT)
  /-- RS_DOT (R193). -/
  | rsDot (h : Hart) (f : FormT)
  /-- SM_SOFTMAX (R196). -/
  | smSoftmax (h : Hart) (f : FormT)
  /-- SM_LSE (R196). -/
  | smLse (h : Hart) (f : FormT)
  /-- BR_OP_COMPLETE (R203). -/
  | brOpComplete (c : Nat) (r : OpCheck)
  /-- SP_LDB (R230). -/
  | spLdb (h : Hart) (f : FormT)
  /-- SP_MMA (R217). -/
  | spMma (h : Hart) (f : FormT)
  /-- SP_KADD (R220). -/
  | spKadd (h : Hart) (f : FormT)
  /-- SP_DRAIN (R223). -/
  | spDrain (h : Hart) (f : FormT)
  /-- SP_CMP (R212). -/
  | spCmp (h : Hart) (f : FormT)
  /-- SP_SIG (R230). -/
  | spSig (h : Hart) (f : FormK)
  /-- SP_SEED (R229). -/
  | spSeed (h : Hart) (f : FormK)
  /-- SP_RDFL (R215). -/
  | spRdfl (h : Hart) (f : FormK)
  /-- SP_CLR (R219). -/
  | spClr (h : Hart) (f : FormK)
  /-- SP_REPAIR_PASS (R226). -/
  | spRepairPass (r : RepairEnd)
  /-- SP_OP_COMPLETE (R232). -/
  | spOpComplete (c : Nat) (r : StippleEnd)
  /-- NB_POOL (R249). -/
  | nbPool (h : Hart) (f : FormD)
  /-- NB_RDFL (R253). -/
  | nbRdfl (h : Hart) (f : FormD)
  /-- NB_REQUEST_SERVE (R246). -/
  | nbRequestServe (k : Nat) (r : NearEnd)
  /-- NB_PARTIAL_RETURN (R244). -/
  | nbPartialReturn (c : Nat) (r : PartialEnd)
  /-- LG_GATHER (R260). -/
  | lgGather (h : Hart) (f : FormD)
  /-- HM_PIN (R270). -/
  | hmPin (h : Hart) (f : FormK)
  /-- HM_UNPIN (R270). -/
  | hmUnpin (h : Hart) (f : FormK)
  /-- HM_UNPINALL (R270). -/
  | hmUnpinall (h : Hart) (f : FormK)
  /-- HM_LOOK (R270). -/
  | hmLook (h : Hart) (f : FormK)
  /-- HM_COPY_COMPLETE (R268). -/
  | hmCopyComplete (r : CopyEnd)
  /-- HM_RATE_TICK (R267). -/
  | hmRateTick
  /-- LOAD_WINDOW_END (R263). -/
  | loadWindowEnd
  /-- NB_HOTAREA_WRITE (R265). -/
  | nbHotareaWrite (k : Nat) (v : Word)
  /-- HM_CFG_WRITE (R267). -/
  | hmCfgWrite (v : Word)
  /-- HM_PINQ_WRITE (R270). -/
  | hmPinqWrite (j : Nat) (v : Word)
  /-- TB_UPDATE (R275). -/
  | tbUpdate (h : Hart) (f : FormD)
  /-- NB_UPDATE_ADMIT (R276). -/
  | nbUpdateAdmit (k : Nat)
  /-- NB_UPDATE_ACK (R276). -/
  | nbUpdateAck (c : Nat) (n : Nat) (k : Nat)
  /-- TB_BUILD (R284). -/
  | tbBuild (h : Hart) (f : FormD)
  /-- NB_BUILD_COMPLETE (R285). -/
  | nbBuildComplete (c : Nat) (n : Nat)
  /-- TB_PUBLISH (R287). -/
  | tbPublish (h : Hart) (f : FormD)
  /-- TB_EDADDR (R290). -/
  | tbEdaddr (h : Hart) (f : FormD)
  /-- WIDE_HOLD_EXPIRE (R293). -/
  | wideHoldExpire (j : Nat) (t : Nat)
  /-- NB_TBDIR_WRITE (R272). -/
  | nbTbdirWrite (j : Nat) (v : Word)
  /-- DX_SPAWN (R299). -/
  | dxSpawn (h : Hart) (f : FormD)
  /-- DX_SLEEP (R300). -/
  | dxSleep (h : Hart) (f : FormD)
  /-- DX_STEPEND (R301). -/
  | dxStepend (h : Hart) (f : FormD)
  /-- DX_RDE (R298). -/
  | dxRde (h : Hart) (f : FormD)
  /-- STEPEND_REQUEST (R301). -/
  | stependRequest (j : Nat)
  /-- DEVQ_FORWARD (R303). -/
  | devqForward (c : Nat)
  /-- SPILL_REFILL (R304). -/
  | spillRefill
  /-- TASK_DISPATCH (R307). -/
  | taskDispatch (c : Nat)
  /-- PREEMPT (R309). -/
  | preempt (c : Nat)
  /-- OWNER_SWAP (R312). -/
  | ownerSwap (c : Nat) (e : Engine)
  /-- DELAY_TICK (R306). -/
  | delayTick
  /-- ENERGY_UPDATE (R314). -/
  | energyUpdate (e : List EnergySample)
  /-- FOLD_SWAP (R321). -/
  | foldSwap (g : Nat)
  /-- DX_POLICY_WRITE (R320). -/
  | dxPolicyWrite (v : Word)
  /-- DX_SPILL_WRITE (R304). -/
  | dxSpillWrite (v : Word)
  /-- DX_OWNAREA_WRITE (R312). -/
  | dxOwnareaWrite (j : Nat) (v : Word)
  /-- MK_SIG (R328). -/
  | mkSig (h : Hart) (f : FormK)
  /-- MK_WAIT (R332). -/
  | mkWait (h : Hart) (f : FormK)
  /-- MK_WAITDEC (R332). -/
  | mkWaitdec (h : Hart) (f : FormK)
  /-- MK_TEST (R327). -/
  | mkTest (h : Hart) (f : FormK)
  /-- MK_SET (R330). -/
  | mkSet (h : Hart) (f : FormK)
  /-- MARK_UPDATE (R330). -/
  | markUpdate (n : Nat)
  /-- WAIT_HANG (R336). -/
  | waitHang (h : Hart)
  /-- MK_MARK_WRITE (R334). -/
  | mkMarkWrite (n : Nat) (half : RegHalf) (v : Word)
  /-- MK_MAP_WRITE (R333). -/
  | mkMapWrite (j : Nat) (k : Nat) (v : Word)
  /-- CC_DINV (R354). -/
  | ccDinv (c : Nat)
  /-- CC_IINV (R354). -/
  | ccIinv (c : Nat)
  /-- CC_CLEAN (R354). -/
  | ccClean (c : Nat)
  /-- CC_FLUSH (R354). -/
  | ccFlush (c : Nat)
  /-- CC_DEN (R353). -/
  | ccDen (c : Nat) (on : Bool)
  /-- CC_IEN (R352). -/
  | ccIen (c : Nat) (on : Bool)
  /-- CC_CMD_COMPLETE (R354). -/
  | ccCmdComplete (c : Nat)
  /-- CC_DRAIN_COMPLETE (R353). -/
  | ccDrainComplete (c : Nat)
  /-- CC_CFG_WRITE (R347). -/
  | ccCfgWrite (c : Nat) (v : Word)
  /-- CACHE_FILL_COMPLETE (R344). -/
  | cacheFillComplete (r : FillEnd)
  /-- EVB_WRITE_ACK (R347). -/
  | evbWriteAck (c : Nat)
  /-- CACHE_SCRUB (R357). -/
  | cacheScrub (c : Nat) (r : ScrubRead)
  /-- PATROL_INKWELL (R369). -/
  | patrolInkwell (k : Nat) (e : List WordErr)
  /-- PATROL_RESERVOIR (R370). -/
  | patrolReservoir (i : Nat) (e : List WordErr) (overdue : Bool)
  /-- PPR_COMPLETE (R373). -/
  | pprComplete (i : Nat) (g : Nat) (b : Nat)
  /-- FLIT_RECEIVE (R379). -/
  | flitReceive (f : Flit)
  /-- NAK_TIMEOUT (R379). -/
  | nakTimeout
  /-- RD_SHR (R385). -/
  | rdShr (tag : Nat) (line : Nat)
  /-- RD_OWN (R385). -/
  | rdOwn (tag : Nat) (line : Nat)
  /-- RD_CUR (R385). -/
  | rdCur (tag : Nat) (line : Nat)
  /-- WR_LINE (R385). -/
  | wrLine (tag : Nat) (line : Nat) (d : List Byte) (pmask : Byte)
  /-- WR_PTL (R385). -/
  | wrPtl (tag : Nat) (line : Nat) (be : Word) (d : List Byte) (pmask : Byte)
  /-- WB_DIRTY (R385). -/
  | wbDirty (tag : Nat) (line : Nat) (d : List Byte) (pmask : Byte)
  /-- EVICT_CLEAN (R385). -/
  | evictClean (tag : Nat) (line : Nat)
  /-- RG_RD (R394). -/
  | rgRd (tag : Nat) (line : Nat) (off : Nat) (wide : Bool)
  /-- RG_WR (R394). -/
  | rgWr (tag : Nat) (line : Nat) (off : Nat) (wide : Bool) (v : Word)
  /-- SNP_INV (R390). -/
  | snpInv (tag : Nat) (line : Nat)
  /-- SNP_SHR (R390). -/
  | snpShr (tag : Nat) (line : Nat)
  /-- DATA (R391). -/
  | data (tag : Nat) (st : Nat) (d : List Byte) (pmask : Byte)
  /-- CMP (R391). -/
  | cmp (tag : Nat)
  /-- SRSP (R388). -/
  | srsp (tag : Nat) (line : Nat) (st : Nat)
  /-- SRSP_DATA (R386). -/
  | srspData (tag : Nat) (line : Nat) (st : Nat) (d : List Byte) (pmask : Byte)
  /-- ERR (R391). -/
  | err (tag : Nat) (code : Nat)
  /-- DOORBELL (R394). -/
  | doorbell (r : Nat) (tail : Nat)
  /-- PAGE_DONE (R392). -/
  | pageDone (id : Nat) (st : Nat)
  /-- SNOOP_TIMEOUT (R389). -/
  | snoopTimeout (tag : Nat)
  /-- LANINE_REQUEST_TIMEOUT (R391). -/
  | lanineRequestTimeout (tag : Nat)
  /-- LANE_ERROR_WINDOW (R397). -/
  | laneErrorWindow (rx : List Nat) (tx : List Nat)
  /-- LANINE_RETRAIN (R396). -/
  | lanineRetrain
  /-- LANINE_RETRAIN_END (R396). -/
  | lanineRetrainEnd (r : TrainResult)
  /-- LANINE_LINK_DOWN (R398). -/
  | lanineLinkDown
  /-- LANINE_LINK_UP (R399). -/
  | lanineLinkUp (r : LinkUp)
  /-- INTR_HOLDOFF_EXPIRE (R395). -/
  | intrHoldoffExpire (r : Nat)
  /-- LN_PGREQ_SEND (R392). -/
  | lnPgreqSend (v : Word)
  /-- LN_PGRES_POP (R392). -/
  | lnPgresPop
  /-- PAGE_DONE_TIMEOUT (R392). -/
  | pageDoneTimeout (id : Nat)
  /-- CARBON_FRAME_RECEIVE (R406). -/
  | carbonFrameReceive (f : Frame)
  /-- CARBON_NAK_TIMEOUT (R406). -/
  | carbonNakTimeout
  /-- CARBON_LINK_UP (R401). -/
  | carbonLinkUp
  /-- CARBON_LINK_DOWN (R406). -/
  | carbonLinkDown
  /-- PAIR (R401). -/
  | pair (p : PairRec)
  /-- COMMIT (R408). -/
  | commit (r : CommitRec) (e : List Byte)
  /-- COMMIT_ACK (R40). -/
  | commitAck (csn : Nat)
  /-- DELTA (R413). -/
  | delta (j : Nat) (d : DeltaRec)
  /-- BUILD (R414). -/
  | build (j : Nat) (t : Nat) (step : Word) (segs : List SegData)
  /-- FOLIO_DATA (R418). -/
  | folioData (n : Nat) (off : Nat) (units : List UnitData)
  /-- SEAL (R420). -/
  | seal (s : SealRec)
  /-- SEAL_ACK (R420). -/
  | sealAck (n : Nat)
  /-- ROLLBACK (R415). -/
  | rollback (j : Nat) (n : Nat)
  /-- LOG_FULL (R413). -/
  | logFull (j : Nat)
  /-- DEPART (R427). -/
  | depart (cause : Nat)
  /-- RESYNC (R430). -/
  | resync (pa : Nat) (d : List Byte)
  /-- TRANSFER (R432). -/
  | transfer (x : XferRec)
  /-- XFER_ACK (R432). -/
  | xferAck (n : Nat) (st : Nat)
  /-- FIRMWARE (R407). -/
  | firmware (d : List Byte)
  /-- LEASE_HALF_EXPIRE (R426). -/
  | leaseHalfExpire
  /-- LEASE_EXPIRE (R426). -/
  | leaseExpire
  /-- TAKEOVER_RESTORE_END (R428). -/
  | takeoverRestoreEnd
  /-- PAIRING_TIMEOUT (R401). -/
  | pairingTimeout
  /-- RESYNC_COPY_END (R430). -/
  | resyncCopyEnd
  /-- FOLIO_INTERVAL_EXPIRE (R422). -/
  | folioIntervalExpire
  /-- FOLIO_QUIESCE_END (R456). -/
  | folioQuiesceEnd
  /-- FOLIO_CAPTURE_END (R420). -/
  | folioCaptureEnd (changed : Nat) (stopUs : Nat)
  /-- CB_ORDER_FOLIO (R416). -/
  | cbOrderFolio
  /-- CB_ORDER_TAKEOVER (R427). -/
  | cbOrderTakeover
  /-- CB_ORDER_DEPART (R427). -/
  | cbOrderDepart
  /-- CB_CFG_WRITE (R425). -/
  | cbCfgWrite (v : Word)
  /-- CB_FOLIOCFG_WRITE (R424). -/
  | cbFoliocfgWrite (v : Word)
  /-- PUBLICATION_START (R49). -/
  | publicationStart (j : Nat)
  /-- ETH_FRAME_RECEIVE (R434). -/
  | ethFrameReceive (p : Nat) (k : EthKind)
  /-- RDMA_WRITE (R436). -/
  | rdmaWrite (q : Nat) (m : RdmaMsg)
  /-- RDMA_WRITE_IMM (R437). -/
  | rdmaWriteImm (q : Nat) (m : RdmaMsg) (imm : BitVec 32)
  /-- RDMA_READ (R436). -/
  | rdmaRead (q : Nat) (m : RdmaMsg)
  /-- RDMA_ACK (R438). -/
  | rdmaAck (q : Nat) (a : RdmaAck)
  /-- RDMA_ACK_TIMEOUT (R439). -/
  | rdmaAckTimeout (q : Nat)
  /-- QP_DOORBELL (R438). -/
  | qpDoorbell (q : Nat) (v : Word)
  /-- CNP_RECEIVE (R440). -/
  | cnpReceive (q : Nat)
  /-- CC_TIMER_EXPIRE (R440). -/
  | ccTimerExpire (q : Nat)
  /-- MARK_DROPPED (R437). -/
  | markDropped (q : Nat) (handle : Nat) (psn : Nat)
  /-- SLICE_REQ (R443). -/
  | sliceReq (q : Nat) (r : SliceReq)
  /-- SLICE_RSP (R293). -/
  | sliceRsp (q : Nat) (ed : Word) (st : Nat)
  /-- ETH_FOLIO_REQ (R444). -/
  | ethFolioReq (j : Nat) (src : Nat)
  /-- FOLIO_AT (R444). -/
  | folioAt (j : Nat) (step : Word)
  /-- SEALED (R444). -/
  | sealed (j : Nat) (rank : Nat) (n : Nat) (step : Word)
  /-- RESTART (R445). -/
  | restart (j : Nat) (rank : Nat) (n : Nat)
  /-- RESTART_ACK (R445). -/
  | restartAck (j : Nat) (rank : Nat) (n : Nat)
  /-- INGEST_DATAGRAM (R447). -/
  | ingestDatagram (r : Nat) (seq : Word) (len : Nat) (rsv : Bool) (d : List Byte)
  /-- BLOTTER_REPORT (R451). -/
  | blotterReport (r : Report)
  /-- HEARTBEAT_CHECK (R452). -/
  | heartbeatCheck (missed : List UnitId)
  /-- FILL_COMPLETE (R462). -/
  | fillComplete (ok : Bool)
  /-- IMAGE_RESTORE_COMPLETE (R464). -/
  | imageRestoreComplete
  /-- BL_ORDER_FENCE (R451). -/
  | blOrderFence (v : Word)
  /-- BL_IWHWM_WRITE (R467). -/
  | blIwhwmWrite (v : Word)
  /-- POWER_SAMPLE (R477). -/
  | powerSample (p : PowerSample)
  /-- TEMP_SAMPLE (R488). -/
  | tempSample (t : List (BitVec 16)) (dom : List (BitVec 16))
  /-- PHASE_SPARE_IN (R476). -/
  | phaseSpareIn (ph : Nat)
  /-- IWSAVE_COMPLETE (R483). -/
  | iwsaveComplete
  /-- WARM_RESET (R485). -/
  | warmReset
  /-- PW_SHEDTHR_WRITE (R487). -/
  | pwShedthrWrite (v : Word)
  /-- FERRULE_POWER_ON (R518). -/
  | ferrulePowerOn
  /-- POWER_UP (R539). -/
  | powerUp
  /-- SELF_TEST_COMPLETE (R539). -/
  | selfTestComplete (r : SelfTest)
  /-- BOOT_IMAGE_LOADED (R494). -/
  | bootImageLoaded
  /-- RING_ENTRY_CONSUME (R500). -/
  | ringEntryConsume (r : Nat)
  /-- IDENTIFY (R504). -/
  | identify (e : EntryHdr)
  /-- RING_CREATE (R499). -/
  | ringCreate (e : EntryHdr) (pair : Nat) (cls : Nat) (sqlog : Nat) (cqlog : Nat)
  /-- RING_DELETE (R504). -/
  | ringDelete (e : EntryHdr) (pair : Nat)
  /-- JOB_LOAD (R504). -/
  | jobLoad (e : EntryHdr) (img : JobImage)
  /-- JOB_UNLOAD (R504). -/
  | jobUnload (e : EntryHdr)
  /-- JOB_STOP (R504). -/
  | jobStop (e : EntryHdr)
  /-- TASK_SUBMIT (R504). -/
  | taskSubmit (e : EntryHdr) (d : List Byte)
  /-- PUBLISH (R287). -/
  | publish (e : EntryHdr) (buf : Nat)
  /-- GEN_HOLD (R292). -/
  | genHold (e : EntryHdr)
  /-- GEN_RELEASE (R292). -/
  | genRelease (e : EntryHdr) (gen : Nat)
  /-- STATE_READ (R504). -/
  | stateRead (e : EntryHdr) (t : Nat) (first : Nat) (rows : Nat) (buf : Nat)
  /-- CONFIG_WRITE (R504). -/
  | configWrite (e : EntryHdr) (off : Nat) (v : Word)
  /-- LEDGER_WRITE (R516). -/
  | ledgerWrite (e : EntryHdr) (entry : Nat) (val : List Byte) (sig : List Byte)
  /-- LEDGER_READ (R504). -/
  | ledgerRead (e : EntryHdr) (entry : Nat) (buf : Nat)
  /-- LOG_READ (R517). -/
  | logRead (e : EntryHdr) (nonce : List Byte) (buf : Nat)
  /-- ATTEST (R498). -/
  | attest (e : EntryHdr) (nonce : List Byte) (buf : Nat)
  /-- QP_CONNECT (R435). -/
  | qpConnect (e : EntryHdr) (q : Nat) (ctx : List Byte)
  /-- QP_RESET (R439). -/
  | qpReset (e : EntryHdr) (q : Nat)
  /-- INGEST_CFG (R504). -/
  | ingestCfg (e : EntryHdr) (r : Nat) (v : Word) (mk : Word)
  /-- FW_STAGE (R513). -/
  | fwStage (e : EntryHdr) (slot : Nat) (img : FwImage)
  /-- FW_ACTIVATE (R513). -/
  | fwActivate (e : EntryHdr) (slot : Nat)
  /-- DEBUG_ATTACH (R504). -/
  | debugAttach (e : EntryHdr)
  /-- DEBUG_DETACH (R504). -/
  | debugDetach (e : EntryHdr)
  /-- DEBUG_HAND_SET (R334). -/
  | debugHandSet (e : EntryHdr) (handle : Nat) (v : BitVec 32)
  /-- FOLIO_REQ (R504). -/
  | folioReq (e : EntryHdr)
  /-- ROLE_ORDER_DEPART (R427). -/
  | roleOrderDepart (e : EntryHdr)
  /-- ROLE_ORDER_TAKEOVER (R427). -/
  | roleOrderTakeover (e : EntryHdr)
  /-- FW_WATCHDOG_EXPIRE (R509). -/
  | fwWatchdogExpire (p : Nat)
  /-- FW_RESTART_COMPLETE (R511). -/
  | fwRestartComplete
  /-- MCTP_PACKET (R520). -/
  | mctpPacket (p : MctpPacket)
  /-- MCTP_REASSEMBLY_TIMEOUT (R520). -/
  | mctpReassemblyTimeout (tag : Nat)
  /-- REG_READ (R522). -/
  | regRead (off : Nat)
  /-- REG_WRITE (R522). -/
  | regWrite (off : Nat) (v : Word)
  /-- MGMT_LEDGER_READ (R521). -/
  | mgmtLedgerRead (entry : Nat)
  /-- MGMT_LEDGER_WRITE (R516). -/
  | mgmtLedgerWrite (entry : Nat) (val : List Byte) (sig : List Byte)
  /-- MGMT_LOG_READ (R517). -/
  | mgmtLogRead (nonce : List Byte)
  /-- BLOG_READ (R521). -/
  | blogRead (first : Nat) (count : Nat)
  /-- ENTDAA (R519). -/
  | entdaa (addr : Nat)
  /-- SETDASA (R519). -/
  | setdasa (st : Nat) (addr : Nat)
  /-- RSTDAA (R519). -/
  | rstdaa
  /-- ENEC (R519). -/
  | enec
  /-- DISEC (R519). -/
  | disec
  /-- GETPID (R519). -/
  | getpid
  /-- GETBCR (R519). -/
  | getbcr
  /-- GETDCR (R519). -/
  | getdcr
  /-- GETMWL (R519). -/
  | getmwl
  /-- GETMRL (R519). -/
  | getmrl
  /-- GETSTATUS (R519). -/
  | getstatus
  /-- SET_ENDPOINT_ID (R520). -/
  | setEndpointId (eid : Nat)
  /-- GET_ENDPOINT_ID (R520). -/
  | getEndpointId
  /-- GET_ENDPOINT_UUID (R520). -/
  | getEndpointUuid
  /-- GET_MCTP_VERSION_SUPPORT (R520). -/
  | getMctpVersionSupport
  /-- GET_MESSAGE_TYPE_SUPPORT (R520). -/
  | getMessageTypeSupport
  /-- GET_VENDOR_MESSAGE_SUPPORT (R520). -/
  | getVendorMessageSupport
  /-- GETTID (R524). -/
  | gettid
  /-- SETTID (R524). -/
  | settid (tid : Nat)
  /-- GETPLDMVERSION (R524). -/
  | getpldmversion (ty : Nat)
  /-- GETPLDMTYPES (R524). -/
  | getpldmtypes
  /-- GETPLDMCOMMANDS (R524). -/
  | getpldmcommands (ty : Nat)
  /-- GETPDRREPOSITORYINFO (R524). -/
  | getpdrrepositoryinfo
  /-- GETPDR (R524). -/
  | getpdr (rec : Nat)
  /-- GETSENSORREADING (R524). -/
  | getsensorreading (id : Nat)
  /-- GETSTATESENSORREADINGS (R524). -/
  | getstatesensorreadings (id : Nat)
  /-- REQUESTUPDATE (R526). -/
  | requestupdate (maxXfer : Nat)
  /-- REQUESTFIRMWAREDATA (R525). -/
  | requestfirmwaredata (off : Nat) (last : Option FwImage)
  /-- ACTIVATEFIRMWARE (R525). -/
  | activatefirmware
  /-- CANCELUPDATE (R526). -/
  | cancelupdate
  /-- UPDATE_DATA_TIMEOUT (R526). -/
  | updateDataTimeout
  /-- GET_VERSION (R527). -/
  | getVersion
  /-- GET_CAPABILITIES (R527). -/
  | getCapabilities
  /-- NEGOTIATE_ALGORITHMS (R527). -/
  | negotiateAlgorithms
  /-- GET_DIGESTS (R527). -/
  | getDigests
  /-- GET_CERTIFICATE (R527). -/
  | getCertificate (copy1Ok : Bool)
  /-- GET_MEASUREMENTS (R527). -/
  | getMeasurements (nonce : List Byte)
  /-- FE_ORDER_WARM (R523). -/
  | feOrderWarm
  /-- FE_ALERT_CLEAR (R528). -/
  | feAlertClear (v : Word)
  /-- FE_ALERTEN_WRITE (R528). -/
  | feAlertenWrite (v : Word)
  /-- RESET_N_ASSERT (R535). -/
  | resetNAssert
  /-- RESET_N_RELEASE (R535). -/
  | resetNRelease
  /-- THROT_N_CHANGE (R535). -/
  | throtNChange (asserted : Bool)
  /-- TWIN_HB_CHANGE (R426). -/
  | twinHbChange (asserted : Bool)
  /-- CHATTER_DECLARE (R534). -/
  | chatterDeclare (p : SidePin)
  /-- CHATTER_CLEAR (R534). -/
  | chatterClear (p : SidePin) (asserted : Bool)
  /-- REFCLK_LOSS (R531). -/
  | refclkLoss
  /-- REGISTER_WRITE (R10). -/
  | registerWrite (off : Nat) (size : Nat) (v : Word)
  /-- ETH_PORT_LINK_CHANGE (R433). -/
  | ethPortLinkChange (p : Nat) (st : Nat) (fault : Bool)
  /-- REFCLK_RETURN (R531). -/
  | refclkReturn
  /-- CARBON_RETRAIN_END (R406). -/
  | carbonRetrainEnd (r : TrainResult)
  /-- STANDBY_BUILD_COMPLETE (R414). -/
  | standbyBuildComplete (j : Nat) (t : Nat)
  /-- LG_TILE_COMPLETE (R261). -/
  | lgTileComplete (c : Nat) (n : Nat) (r : NearEnd)
  /-- CARBON_FRAME_SEND (R405). -/
  | carbonFrameSend
  /-- ATOMIC_COMPLETE (R93). -/
  | atomicComplete (h : Hart)
  /-- DOMAIN_SWITCH_COMPLETE (R479). -/
  | domainSwitchComplete (d : Nat)
  /-- FOLD_SWAP_COMPLETE (R322). -/
  | foldSwapComplete (g : Nat)
  deriving DecidableEq, Repr

end Sys2Proof
end

