-- ==== Sys2Proof/Decode.lean ====
section
/-! DEFINITION. Words of the operation table. -/

namespace Sys2Proof

/-- The command that a word spells by the operation table's bits: no row of the table gives bits, so no word spells one. The words of
Zwiol instructions are put together in Machine/Operands.lean (R74). -/
def decodeTableWord (_nbits _w : Nat) : Option Instr := none

end Sys2Proof
end

