-- ==== Sys2Proof/Config.lean ====
section
/-! DEFINITION. What the spec leaves to an implementation, and the values it leaves open: constants without a body, so
that nothing proved about the model can rest on what they are. Where a value may differ from one time to the next, the
constant is applied to the free-value counter of the state. -/

namespace Sys2Proof.Config

/-- A fresh free word, for the n-th open value of a run. -/
opaque freeWord : Nat → Word

/-- The next state of a 64-bit shift-register generator: its taps are not given (R169, R183, R277). -/
opaque lfsrNext : Word → Word

/-- The random bits a generator state yields: which bits are drawn is not given (R169, R183, R277). -/
opaque lfsrBits : Word → BitVec 32

/-- The seed that the update generator takes from a row and a step: the function is not given (R277). -/
opaque updateSeed : Word → Word → Word

/-- Which number within the bound BR.EXP2 gives where the result is not exact (R184). -/
opaque exp2 : BitVec 32 → BitVec 32

/-- Which number within the bound BR.LOG2 gives where the result is not exact (R184). -/
opaque log2 : BitVec 32 → BitVec 32

/-- Which number within the bound a lane of SM.SOFTMAX holds off the stated cases: of the row's elements in order and the lane's own (R197). -/
opaque softmaxLane : List (BitVec 32) → Nat → BitVec 32

/-- Which number within the bound SM.LSE gives off the stated cases (R197). -/
opaque logSumExp : List (BitVec 32) → BitVec 32

/-- Whether a signature over a message verifies under the key with this hash: the algorithm lies outside the spec's
rules on the module's state (R494, R515). -/
opaque signatureOk : List Byte → List Byte → Bool

/-- A signature or certificate block that the module makes (R516, R527). -/
opaque signatureOf : List Byte → List Byte

/-- The rank of this module in the group of a job, by the hash of the job image: where it stands is not given (R441). -/
opaque groupRank : List Byte → Nat

/-- The control queue pair that leads to a rank of the group of a job image (R443, R444). -/
opaque groupPair : List Byte → Nat → Nat

/-- The bus characteristics byte that GETBCR answers (R519). -/
opaque i3cBcr : Nat

/-- The device characteristics byte that GETDCR answers (R519). -/
opaque i3cDcr : Nat

/-- The endpoint UUID, 16 bytes (R520). -/
opaque endpointUuid : List Byte

/-- The version bytes of a PLDM type (R524). -/
opaque pldmVersion : Nat → List Byte

/-- The certificate chain in a flash copy, 1 or 2 (R527). -/
opaque certChain : Nat → List Byte

/-- The two check bytes that Lanine's code puts over the 62 bytes of one interleave: the spec names the kind of code and no generator
(R378). -/
opaque fecCheck : List Byte → Nat

end Sys2Proof.Config
end

