-- ==== Sys2Proof/Machine/Bits.lean ====
section
/-! DEFINITION. Bit fields, sign extension, byte order and the CRC that the tables of the spec use (R7, R8). -/

namespace Sys2Proof.Machine

/-- The field [hi:lo] of a word as a number (R8). -/
def fld (v : Word) (hi lo : Nat) : Nat := (v.toNat >>> lo) % 2 ^ (hi - lo + 1)

/-- One bit of a word. -/
def bitOf (v : Word) (n : Nat) : Bool := v.getLsbD n

/-- The mask of the field [hi:lo]. -/
def fldMask (hi lo : Nat) : Word := BitVec.ofNat 64 ((2 ^ (hi - lo + 1) - 1) <<< lo)

/-- A word with the field [hi:lo] replaced. -/
def setFld (v : Word) (hi lo : Nat) (x : Nat) : Word :=
  (v &&& ~~~ fldMask hi lo) ||| BitVec.ofNat 64 ((x % 2 ^ (hi - lo + 1)) <<< lo)

/-- A word with one bit written. -/
def setBit (v : Word) (n : Nat) (b : Bool) : Word := setFld v n n (if b then 1 else 0)

/-- 1 for true. -/
def b2n (b : Bool) : Nat := if b then 1 else 0

/-- 1 for true, as a word. -/
def b2w (b : Bool) : Word := if b then 1#64 else 0#64

/-- Little-endian value of bytes (R7). -/
def leNat : List Byte → Nat
  | [] => 0
  | b :: r => b.toNat + 256 * leNat r

/-- The `n` little-endian bytes of a number (R7). -/
def leBytes : Nat → Nat → List Byte
  | 0, _ => []
  | n + 1, x => BitVec.ofNat 8 x :: leBytes n (x / 256)

/-- Little-endian value as a word. -/
def leWord (bs : List Byte) : Word := BitVec.ofNat 64 (leNat bs)

/-- The `n` bytes at offset `off` of a block. -/
def sliceB (bs : List Byte) (off n : Nat) : List Byte := (bs.drop off).take n

/-- The little-endian doubleword at byte `off` of a block. -/
def wordAt (bs : List Byte) (off : Nat) : Word := leWord (sliceB bs off 8)

/-- A block padded with zeros to `n` bytes, and cut there. -/
def padB (n : Nat) (bs : List Byte) : List Byte := (bs ++ List.replicate (n - bs.length) 0#8).take n

/-- Sign-extend the low `w` bits of a number to 64 bits. -/
def sext (w : Nat) (x : Nat) : Word := (BitVec.ofNat w x).signExtend 64

/-- The constant imm32 of Form K, sign-extended (R80). -/
def simm (i : BitVec 32) : Word := i.signExtend 64

/-- One bit step of the reflected CRC-32C register. -/
def crcBit (c : BitVec 32) : BitVec 32 :=
  if c.getLsbD 0 then (c >>> 1) ^^^ 0x82F63B78#32 else c >>> 1

/-- One byte step of CRC-32C. -/
def crcByte (c : BitVec 32) (b : Byte) : BitVec 32 :=
  crcBit (crcBit (crcBit (crcBit (crcBit (crcBit (crcBit (crcBit (c ^^^ b.setWidth 32))))))))

/-- CRC-32C (Castagnoli) over bytes: R44, R135, R471. -/
def crc32c (bs : List Byte) : BitVec 32 := ~~~ (bs.foldl crcByte 0xFFFFFFFF#32)

/-- Does a range [a, a + n) meet a range [b, b + m)? -/
def overlap (a n b m : Nat) : Bool := decide (a < b + m ∧ b < a + n)

/-- Round down to a multiple. -/
def alignDown (a n : Nat) : Nat := a - a % n

/-- The lowest set bit at or above `i`, looking at `fuel` bits; `i + fuel` when none is set. -/
def firstSet (v : Nat) : Nat → Nat → Nat
  | 0, i => i
  | k + 1, i => if v.testBit i then i else firstSet v k (i + 1)

/-- The number of set bits among the lowest `n`. -/
def popCount (v : Nat) : Nat → Nat
  | 0 => 0
  | n + 1 => popCount v n + b2n (v.testBit n)

/-- The list 0, 1, …, n - 1. -/
def upto (n : Nat) : List Nat := List.range n


end Sys2Proof.Machine
end

