-- ==== Sys2Proof/Machine/Sparse.lean ====
section
/-! DEFINITION. Sparse tables: a list of key and value pairs with strictly rising keys in which no entry holds what an
unlisted key reads as. Memory, the register file and every numbered collection of the state are kept in this one form,
so equal contents are equal data. -/

namespace Sys2Proof

/-- A table from numbers to values. What an unlisted key reads as is given where the table is read. -/
abbrev SMap (β : Type) := List (Nat × β)

/-- The value at a key; `d` says what an unlisted key reads as. -/
def smapGet {β : Type} (d : Nat → β) : SMap β → Nat → β
  | [], k => d k
  | (k', v) :: r, k => if k = k' then v else smapGet d r k

/-- The table without the key. -/
def smapErase {β : Type} : SMap β → Nat → SMap β
  | [], _ => []
  | (k', v) :: r, k => if k = k' then smapErase r k else (k', v) :: smapErase r k

/-- The table with the pair in its place. -/
def smapPut {β : Type} : SMap β → Nat → β → SMap β
  | [], k, v => [(k, v)]
  | (k', v') :: r, k, v =>
    if k < k' then (k, v) :: (k', v') :: r
    else if k = k' then (k, v) :: r
    else (k', v') :: smapPut r k v

/-- Write a value: an entry that would repeat what an unlisted key reads as is removed. -/
def smapSet {β : Type} [DecidableEq β] (d : Nat → β) (m : SMap β) (k : Nat) (v : β) : SMap β :=
  if v = d k then smapErase m k else smapPut m k v

/-- Every key of the table is above `b`, keys rise strictly, and no entry holds its default. -/
def smapOk {β : Type} [DecidableEq β] (d : Nat → β) : Option Nat → SMap β → Bool
  | _, [] => true
  | b, (k, v) :: r =>
    (match b with
     | none => true
     | some x => decide (x < k)) && decide (v ≠ d k) && smapOk d (some k) r

/-- The canonical form of a table. -/
abbrev SMapWf {β : Type} [DecidableEq β] (d : Nat → β) (m : SMap β) : Prop := smapOk d none m = true

/-- Apply a function to every listed value, dropping entries that come to hold their default. -/
def smapMap {β : Type} [DecidableEq β] (d : Nat → β) (f : Nat → β → β) : SMap β → SMap β
  | [] => []
  | (k, v) :: r => if f k v = d k then smapMap d f r else (k, f k v) :: smapMap d f r

end Sys2Proof
end

