-- ==== Sys2Proof/Machine/Registers.lean ====
section
/-! DEFINITION. The register tables of the spec (R9 to R15, R543 to R548): for every register its block, its offset, how it
repeats, the masks of its access codes and its reset value. The register file is kept under one number for each
register: the offset in register space, except that the blocks of a cluster window are kept under the physical cluster
that carries them (R546), the DX_ cluster block under its logical cluster, and the doorbell tails under their ring. -/

namespace Sys2Proof.Machine

/-- The register blocks of R545 and R546. -/
inductive Blk where
  | scribe
  | sk
  | ql
  | br
  | sp
  | dxCluster
  | dx
  | cc
  | nbRegion
  | nb
  | iw
  | hm
  | lg
  | rv
  | ln
  | cb
  | bl
  | mk
  | fw
  | en
  | pw
  | ld
  | fe
  deriving DecidableEq, Repr

/-- One row of the register index: `step`, `count` for the first index letter, `step2`, `count2` for the second; the bits
of each access code (R12); the reset value, by index where it differs. -/
structure RegDesc where
  name : String
  blk : Blk
  off : Nat
  step : Nat
  count : Nat
  step2 : Nat
  count2 : Nat
  rw : Nat
  w1c : Nat
  w1s : Nat
  ro : Nat
  reset : Nat
  resets : List Nat
  deriving DecidableEq, Repr

/-- The registers of the scribe block. -/
def regsScribe : List RegDesc := [
  ⟨"SC_GROUP_MAP", .scribe, 0x100, 0x8, 16, 0x0, 1, 0x0, 0x0, 0x0, 0x400fffffffff, 0x876543210, []⟩,
  ⟨"SC_JOB_PTBR", .scribe, 0x200, 0x8, 16, 0x0, 1, 0xfffffffff001, 0x0, 0x0, 0x0, 0x0, []⟩]

/-- The registers of the sk block. -/
def regsSk : List RegDesc := [
  ⟨"SK_QCFG", .sk, 0x0, 0x8, 8, 0x0, 1, 0x83ff007f, 0x0, 0x0, 0x0, 0x0, [0x80800010, 0x80800010, 0x80400008, 0x80400008, 0x200004, 0x200004, 0x200004, 0x200004]⟩,
  ⟨"SK_STATUS", .sk, 0x40, 0x0, 1, 0x0, 1, 0x0, 0x4, 0x0, 0x3, 0x0, []⟩,
  ⟨"SK_HALF", .sk, 0x48, 0x0, 1, 0x0, 1, 0x0, 0x0, 0x0, 0x7f, 0x0, []⟩,
  ⟨"SK_OPSTATE", .sk, 0x100, 0x8, 32, 0x0, 1, 0x0, 0x0, 0x0, 0xffffffff00000007, 0x0, []⟩,
  ⟨"SK_OPFAULT", .sk, 0x200, 0x8, 32, 0x0, 1, 0x0, 0x0, 0x0, 0xffffffffffff, 0x0, []⟩,
  ⟨"SK_RESUME", .sk, 0x300, 0x0, 1, 0x0, 1, 0x0, 0x0, 0xffffffff, 0x0, 0x0, []⟩,
  ⟨"SK_ABORT", .sk, 0x308, 0x0, 1, 0x0, 1, 0x0, 0x0, 0xffffffff, 0x0, 0x0, []⟩,
  ⟨"SK_DEADLINE_MISS", .sk, 0x50, 0x0, 1, 0x0, 1, 0x0, 0x0, 0x0, 0xffffffffffffffff, 0x0, []⟩,
  ⟨"SK_CRC_RETRY", .sk, 0x58, 0x0, 1, 0x0, 1, 0x0, 0x0, 0x0, 0xffffffffffffffff, 0x0, []⟩,
  ⟨"SK_RATE_WAIT", .sk, 0x60, 0x0, 1, 0x0, 1, 0x0, 0x0, 0x0, 0xffffffffffffffff, 0x0, []⟩,
  ⟨"SK_SMALL_SLOT", .sk, 0x68, 0x0, 1, 0x0, 1, 0x0, 0x0, 0x0, 0xffffffffffffffff, 0x0, []⟩,
  ⟨"SK_PAGE_HALT", .sk, 0x70, 0x0, 1, 0x0, 1, 0x0, 0x0, 0x0, 0xffffffffffffffff, 0x0, []⟩]

/-- The registers of the ql block. -/
def regsQl : List RegDesc := [
  ⟨"QL_STATUS", .ql, 0x0, 0x0, 1, 0x0, 1, 0x0, 0x0, 0x0, 0xff, 0x0, []⟩,
  ⟨"QL_FLAGS", .ql, 0x8, 0x0, 1, 0x0, 1, 0x0, 0x0, 0x0, 0xf, 0x0, []⟩,
  ⟨"QL_CHK_FAIL", .ql, 0x10, 0x0, 1, 0x0, 1, 0x0, 0x0, 0x0, 0xffffffffffffffff, 0x0, []⟩,
  ⟨"QL_CHK_SKIP", .ql, 0x18, 0x0, 1, 0x0, 1, 0x0, 0x0, 0x0, 0xffffffffffffffff, 0x0, []⟩,
  ⟨"QL_ACC_CORR", .ql, 0x20, 0x0, 1, 0x0, 1, 0x0, 0x0, 0x0, 0xffffffffffffffff, 0x0, []⟩,
  ⟨"QL_PASSES", .ql, 0x28, 0x0, 1, 0x0, 1, 0x0, 0x0, 0x0, 0xffffffffffffffff, 0x0, []⟩]

/-- The registers of the br block. -/
def regsBr : List RegDesc := [
  ⟨"BR_STATUS", .br, 0x0, 0x0, 1, 0x0, 1, 0x0, 0x0, 0x0, 0x3f, 0x0, []⟩,
  ⟨"BR_FLAGS0", .br, 0x8, 0x0, 1, 0x0, 1, 0x0, 0x0, 0x0, 0x1ff, 0x0, []⟩,
  ⟨"BR_FLAGS1", .br, 0x10, 0x0, 1, 0x0, 1, 0x0, 0x0, 0x0, 0x1ff, 0x0, []⟩,
  ⟨"BR_RES_FAIL", .br, 0x18, 0x0, 1, 0x0, 1, 0x0, 0x0, 0x0, 0xffffffffffffffff, 0x0, []⟩,
  ⟨"BR_RANGE", .br, 0x20, 0x0, 1, 0x0, 1, 0x0, 0x0, 0x0, 0xffffffffffffffff, 0x0, []⟩,
  ⟨"BR_SM_EMPTY", .br, 0x28, 0x0, 1, 0x0, 1, 0x0, 0x0, 0x0, 0xffffffffffffffff, 0x0, []⟩,
  ⟨"BR_SM_INVALID", .br, 0x30, 0x0, 1, 0x0, 1, 0x0, 0x0, 0x0, 0xffffffffffffffff, 0x0, []⟩,
  ⟨"BR_OPS", .br, 0x38, 0x0, 1, 0x0, 1, 0x0, 0x0, 0x0, 0xffffffffffffffff, 0x0, []⟩]

/-- The registers of the sp block. -/
def regsSp : List RegDesc := [
  ⟨"SP_STATUS", .sp, 0x0, 0x0, 1, 0x0, 1, 0x0, 0x0, 0x0, 0x1ff, 0x0, []⟩,
  ⟨"SP_FLAGS", .sp, 0x8, 0x0, 1, 0x0, 1, 0x0, 0x0, 0x0, 0x3f, 0x0, []⟩,
  ⟨"SP_PRUNED", .sp, 0x10, 0x0, 1, 0x0, 1, 0x0, 0x0, 0x0, 0xffffffffffffffff, 0x0, []⟩,
  ⟨"SP_OOB", .sp, 0x18, 0x0, 1, 0x0, 1, 0x0, 0x0, 0x0, 0xffffffffffffffff, 0x0, []⟩,
  ⟨"SP_STEALS", .sp, 0x20, 0x0, 1, 0x0, 1, 0x0, 0x0, 0x0, 0xffffffffffffffff, 0x0, []⟩,
  ⟨"SP_BBUF_STALL", .sp, 0x28, 0x0, 1, 0x0, 1, 0x0, 0x0, 0x0, 0xffffffffffffffff, 0x0, []⟩,
  ⟨"SP_BAB_STALL", .sp, 0x30, 0x0, 1, 0x0, 1, 0x0, 0x0, 0x0, 0xffffffffffffffff, 0x0, []⟩,
  ⟨"SP_KEY_OVF", .sp, 0x38, 0x0, 1, 0x0, 1, 0x0, 0x0, 0x0, 0xffffffffffffffff, 0x0, []⟩,
  ⟨"SP_PRED_SKIP", .sp, 0x40, 0x0, 1, 0x0, 1, 0x0, 0x0, 0x0, 0xffffffffffffffff, 0x0, []⟩,
  ⟨"SP_PRED_MISS", .sp, 0x48, 0x0, 1, 0x0, 1, 0x0, 0x0, 0x0, 0xffffffffffffffff, 0x0, []⟩,
  ⟨"SP_PRED_OFF", .sp, 0x50, 0x0, 1, 0x0, 1, 0x0, 0x0, 0x0, 0xffffffffffffffff, 0x0, []⟩,
  ⟨"SP_RES_FAIL", .sp, 0x58, 0x0, 1, 0x0, 1, 0x0, 0x0, 0x0, 0xffffffffffffffff, 0x0, []⟩,
  ⟨"SP_BAB_CORR", .sp, 0x60, 0x0, 1, 0x0, 1, 0x0, 0x0, 0x0, 0xffffffffffffffff, 0x0, []⟩,
  ⟨"SP_OPS", .sp, 0x68, 0x0, 1, 0x0, 1, 0x0, 0x0, 0x0, 0xffffffffffffffff, 0x0, []⟩]

/-- The registers of the dxCluster block. -/
def regsDxCluster : List RegDesc := [
  ⟨"DX_CLQ", .dxCluster, 0x0, 0x0, 1, 0x0, 1, 0x0, 0x0, 0x0, 0x3ffffffffffffff, 0x0, []⟩,
  ⟨"DX_CLQF", .dxCluster, 0x8, 0x0, 1, 0x0, 1, 0x0, 0x0, 0x0, 0xffffffffffffff, 0x0, []⟩,
  ⟨"DX_CLDELAY", .dxCluster, 0x10, 0x0, 1, 0x0, 1, 0x0, 0x0, 0x0, 0x7ff, 0x0, []⟩]

/-- The registers of the cc block. -/
def regsCc : List RegDesc := [
  ⟨"CC_CTL", .cc, 0x0, 0x0, 1, 0x0, 1, 0x3, 0x0, 0xf0, 0x0, 0x0, []⟩,
  ⟨"CC_CFG", .cc, 0x8, 0x0, 1, 0x0, 1, 0x1f3, 0x0, 0x0, 0x0, 0x42, []⟩,
  ⟨"CC_STATUS", .cc, 0x10, 0x0, 1, 0x0, 1, 0x0, 0x1c0, 0x0, 0x3f, 0x0, []⟩,
  ⟨"CC_DMISS", .cc, 0x20, 0x0, 1, 0x0, 1, 0x0, 0x0, 0x0, 0xffffffffffffffff, 0x0, []⟩,
  ⟨"CC_IMISS", .cc, 0x28, 0x0, 1, 0x0, 1, 0x0, 0x0, 0x0, 0xffffffffffffffff, 0x0, []⟩,
  ⟨"CC_DIRTY_EVICT", .cc, 0x30, 0x0, 1, 0x0, 1, 0x0, 0x0, 0x0, 0xffffffffffffffff, 0x0, []⟩,
  ⟨"CC_EVB_FULL", .cc, 0x38, 0x0, 1, 0x0, 1, 0x0, 0x0, 0x0, 0xffffffffffffffff, 0x0, []⟩,
  ⟨"CC_PF_ISSUE", .cc, 0x40, 0x0, 1, 0x0, 1, 0x0, 0x0, 0x0, 0xffffffffffffffff, 0x0, []⟩,
  ⟨"CC_PF_DROP", .cc, 0x48, 0x0, 1, 0x0, 1, 0x0, 0x0, 0x0, 0xffffffffffffffff, 0x0, []⟩,
  ⟨"CC_RECALL", .cc, 0x50, 0x0, 1, 0x0, 1, 0x0, 0x0, 0x0, 0xffffffffffffffff, 0x0, []⟩,
  ⟨"CC_PAR_CLEAN", .cc, 0x58, 0x0, 1, 0x0, 1, 0x0, 0x0, 0x0, 0xffffffffffffffff, 0x0, []⟩,
  ⟨"CC_PAR_DIRTY", .cc, 0x60, 0x0, 1, 0x0, 1, 0x0, 0x0, 0x0, 0xffffffffffffffff, 0x0, []⟩]

/-- The registers of the nbRegion block. -/
def regsNbRegion : List RegDesc := [
  ⟨"NB_HOTAREA", .nbRegion, 0x0, 0x0, 1, 0x0, 1, 0x1ff000001ff, 0x0, 0x0, 0x0, 0x0, []⟩,
  ⟨"NB_RSTATUS", .nbRegion, 0x8, 0x0, 1, 0x0, 1, 0x0, 0x0, 0x0, 0xff, 0x0, []⟩,
  ⟨"NB_FLAGS0", .nbRegion, 0x10, 0x0, 1, 0x0, 1, 0x0, 0x0, 0x0, 0x3f, 0x0, []⟩,
  ⟨"NB_FLAGS1", .nbRegion, 0x18, 0x0, 1, 0x0, 1, 0x0, 0x0, 0x0, 0x3f, 0x0, []⟩,
  ⟨"NB_BGLOAD", .nbRegion, 0x40, 0x8, 8, 0x0, 1, 0x0, 0x0, 0x0, 0xffffffffffffffff, 0x0, []⟩,
  ⟨"NB_EMPTY", .nbRegion, 0x80, 0x0, 1, 0x0, 1, 0x0, 0x0, 0x0, 0xffffffffffffffff, 0x0, []⟩,
  ⟨"NB_OOB", .nbRegion, 0x88, 0x0, 1, 0x0, 1, 0x0, 0x0, 0x0, 0xffffffffffffffff, 0x0, []⟩,
  ⟨"NB_REMOTE", .nbRegion, 0x90, 0x0, 1, 0x0, 1, 0x0, 0x0, 0x0, 0xffffffffffffffff, 0x0, []⟩,
  ⟨"NB_RES_FAIL", .nbRegion, 0x98, 0x0, 1, 0x0, 1, 0x0, 0x0, 0x0, 0xffffffffffffffff, 0x0, []⟩,
  ⟨"NB_OPS", .nbRegion, 0xa0, 0x0, 1, 0x0, 1, 0x0, 0x0, 0x0, 0xffffffffffffffff, 0x0, []⟩]

/-- The registers of the iw block. -/
def regsIw : List RegDesc := [
  ⟨"IW_STATUS", .iw, 0x0, 0x0, 1, 0x0, 1, 0x0, 0x1, 0x0, 0x1fff0, 0x10000, []⟩,
  ⟨"IW_PATROL", .iw, 0x8, 0x0, 1, 0x0, 1, 0x0, 0x0, 0x0, 0xffffffff0007ffff, 0x0, []⟩,
  ⟨"IW_ERRADDR", .iw, 0x10, 0x0, 1, 0x0, 1, 0x0, 0x0, 0x0, 0xc000000001fffff8, 0x0, []⟩,
  ⟨"IW_CE", .iw, 0x18, 0x0, 1, 0x0, 1, 0x0, 0x0, 0x0, 0xffffffffffffffff, 0x0, []⟩,
  ⟨"IW_UE", .iw, 0x20, 0x0, 1, 0x0, 1, 0x0, 0x0, 0x0, 0xffffffffffffffff, 0x0, []⟩,
  ⟨"IW_POISON_RD", .iw, 0x28, 0x0, 1, 0x0, 1, 0x0, 0x0, 0x0, 0xffffffffffffffff, 0x0, []⟩,
  ⟨"IW_POISON_SEEN", .iw, 0x30, 0x0, 1, 0x0, 1, 0x0, 0x0, 0x0, 0xffffffffffffffff, 0x0, []⟩,
  ⟨"IW_ROW_SPARE", .iw, 0x38, 0x0, 1, 0x0, 1, 0x0, 0x0, 0x0, 0xffffffffffffffff, 0x0, []⟩,
  ⟨"IW_WB_ABANDON", .iw, 0x40, 0x0, 1, 0x0, 1, 0x0, 0x0, 0x0, 0xffffffffffffffff, 0x0, []⟩]

/-- The registers of the dx block. -/
def regsDx : List RegDesc := [
  ⟨"DX_CFG", .dx, 0x0, 0x0, 1, 0x0, 1, 0x1ff, 0x0, 0x0, 0x0, 0x14, []⟩,
  ⟨"DX_SPILL", .dx, 0x8, 0x0, 1, 0x0, 1, 0xfffffc000001, 0x0, 0x0, 0x0, 0x0, []⟩,
  ⟨"DX_POLICY", .dx, 0x10, 0x0, 1, 0x0, 1, 0xff000003ff, 0x0, 0x0, 0x0, 0x5f00000258, []⟩,
  ⟨"DX_EDEFAULT", .dx, 0x18, 0x0, 1, 0x0, 1, 0xffffffff, 0x0, 0x0, 0x0, 0x2710, []⟩,
  ⟨"DX_STATUS", .dx, 0x20, 0x0, 1, 0x0, 1, 0x0, 0x1, 0x0, 0x7fffffffe00006, 0x0, []⟩,
  ⟨"DX_GOVSTATE", .dx, 0x28, 0x0, 1, 0x0, 1, 0x0, 0x0, 0x0, 0xffffffff001f, 0x0, []⟩,
  ⟨"DX_OWNAREA", .dx, 0x100, 0x8, 16, 0x0, 1, 0x1ff0001, 0x0, 0x0, 0x0, 0x0, []⟩,
  ⟨"DX_ADMIT", .dx, 0x200, 0x0, 1, 0x0, 1, 0x0, 0x0, 0x0, 0xffffffffffffffff, 0x0, []⟩,
  ⟨"DX_ADMIT_WAIT", .dx, 0x208, 0x0, 1, 0x0, 1, 0x0, 0x0, 0x0, 0xffffffffffffffff, 0x0, []⟩,
  ⟨"DX_GOV_CONFLICT", .dx, 0x210, 0x0, 1, 0x0, 1, 0x0, 0x0, 0x0, 0xffffffffffffffff, 0x0, []⟩,
  ⟨"DX_POL_CLAMP", .dx, 0x218, 0x0, 1, 0x0, 1, 0x0, 0x0, 0x0, 0xffffffffffffffff, 0x0, []⟩,
  ⟨"DX_EST_CLAMP", .dx, 0x220, 0x0, 1, 0x0, 1, 0x0, 0x0, 0x0, 0xffffffffffffffff, 0x0, []⟩,
  ⟨"DX_EST_OVER", .dx, 0x228, 0x0, 1, 0x0, 1, 0x0, 0x0, 0x0, 0xffffffffffffffff, 0x0, []⟩,
  ⟨"DX_PREEMPT", .dx, 0x230, 0x0, 1, 0x0, 1, 0x0, 0x0, 0x0, 0xffffffffffffffff, 0x0, []⟩,
  ⟨"DX_OWNSWAP", .dx, 0x238, 0x0, 1, 0x0, 1, 0x0, 0x0, 0x0, 0xffffffffffffffff, 0x0, []⟩,
  ⟨"DX_SPILLS", .dx, 0x240, 0x0, 1, 0x0, 1, 0x0, 0x0, 0x0, 0xffffffffffffffff, 0x0, []⟩,
  ⟨"DX_STALL", .dx, 0x248, 0x0, 1, 0x0, 1, 0x0, 0x0, 0x0, 0xffffffffffffffff, 0x0, []⟩,
  ⟨"DX_STEP_HOLD", .dx, 0x250, 0x0, 1, 0x0, 1, 0x0, 0x0, 0x0, 0xffffffffffffffff, 0x0, []⟩,
  ⟨"DX_STEP_REJ", .dx, 0x258, 0x0, 1, 0x0, 1, 0x0, 0x0, 0x0, 0xffffffffffffffff, 0x0, []⟩,
  ⟨"DX_FOLDSWAP", .dx, 0x260, 0x0, 1, 0x0, 1, 0x0, 0x0, 0x0, 0xffffffffffffffff, 0x0, []⟩]

/-- The registers of the nb block. -/
def regsNb : List RegDesc := [
  ⟨"NB_TBDIR", .nb, 0x0, 0x8, 16, 0x0, 1, 0xfffffffc0001, 0x0, 0x0, 0x0, 0x0, []⟩,
  ⟨"NB_UNDO", .nb, 0x80, 0x8, 16, 0x0, 1, 0xfffffffffff00000, 0x0, 0x0, 0x0, 0x0, []⟩,
  ⟨"NB_EDGEN", .nb, 0x100, 0x8, 16, 0x0, 1, 0x0, 0x0, 0x0, 0xffffffffffffffff, 0x0, []⟩,
  ⟨"NB_WIDEHOLD", .nb, 0x180, 0x0, 1, 0x0, 1, 0xffff, 0x0, 0x0, 0x0, 0x32, []⟩,
  ⟨"NB_DSTATUS", .nb, 0x188, 0x0, 1, 0x0, 1, 0x0, 0x3, 0x0, 0x0, 0x0, []⟩,
  ⟨"NB_UPD_SKIP", .nb, 0x200, 0x0, 1, 0x0, 1, 0x0, 0x0, 0x0, 0xffffffffffffffff, 0x0, []⟩,
  ⟨"NB_UPD_DUP", .nb, 0x208, 0x0, 1, 0x0, 1, 0x0, 0x0, 0x0, 0xffffffffffffffff, 0x0, []⟩,
  ⟨"NB_UNDO_FORCE", .nb, 0x210, 0x0, 1, 0x0, 1, 0x0, 0x0, 0x0, 0xffffffffffffffff, 0x0, []⟩,
  ⟨"NB_UNDO_STALL", .nb, 0x218, 0x0, 1, 0x0, 1, 0x0, 0x0, 0x0, 0xffffffffffffffff, 0x0, []⟩,
  ⟨"NB_BUILD_WAIT", .nb, 0x220, 0x0, 1, 0x0, 1, 0x0, 0x0, 0x0, 0xffffffffffffffff, 0x0, []⟩,
  ⟨"NB_ED_WAIT", .nb, 0x228, 0x0, 1, 0x0, 1, 0x0, 0x0, 0x0, 0xffffffffffffffff, 0x0, []⟩,
  ⟨"NB_ED_RECLAIM", .nb, 0x230, 0x0, 1, 0x0, 1, 0x0, 0x0, 0x0, 0xffffffffffffffff, 0x0, []⟩,
  ⟨"NB_WIDE_GONE", .nb, 0x238, 0x0, 1, 0x0, 1, 0x0, 0x0, 0x0, 0xffffffffffffffff, 0x0, []⟩,
  ⟨"NB_UPD_ROWS", .nb, 0x240, 0x0, 1, 0x0, 1, 0x0, 0x0, 0x0, 0xffffffffffffffff, 0x0, []⟩]

/-- The registers of the hm block. -/
def regsHm : List RegDesc := [
  ⟨"HM_CFG", .hm, 0x0, 0x0, 1, 0x0, 1, 0x80001fff, 0x0, 0x0, 0x0, 0x80000820, []⟩,
  ⟨"HM_STATUS", .hm, 0x8, 0x0, 1, 0x0, 1, 0x0, 0x3, 0x0, 0x0, 0x0, []⟩,
  ⟨"HM_PINQ", .hm, 0x100, 0x8, 16, 0x0, 1, 0xffff, 0x0, 0x0, 0xffff00000000, 0x0, []⟩,
  ⟨"HM_LOOKUPS", .hm, 0x10, 0x0, 1, 0x0, 1, 0x0, 0x0, 0x0, 0xffffffffffffffff, 0x0, []⟩,
  ⟨"HM_HITS", .hm, 0x18, 0x0, 1, 0x0, 1, 0x0, 0x0, 0x0, 0xffffffffffffffff, 0x0, []⟩,
  ⟨"HM_PROMOTE", .hm, 0x20, 0x0, 1, 0x0, 1, 0x0, 0x0, 0x0, 0xffffffffffffffff, 0x0, []⟩,
  ⟨"HM_MOVE", .hm, 0x28, 0x0, 1, 0x0, 1, 0x0, 0x0, 0x0, 0xffffffffffffffff, 0x0, []⟩,
  ⟨"HM_EVICT", .hm, 0x30, 0x0, 1, 0x0, 1, 0x0, 0x0, 0x0, 0xffffffffffffffff, 0x0, []⟩,
  ⟨"HM_MIG_ABORT", .hm, 0x38, 0x0, 1, 0x0, 1, 0x0, 0x0, 0x0, 0xffffffffffffffff, 0x0, []⟩,
  ⟨"HM_DEFER", .hm, 0x40, 0x0, 1, 0x0, 1, 0x0, 0x0, 0x0, 0xffffffffffffffff, 0x0, []⟩,
  ⟨"HM_SPACE", .hm, 0x48, 0x0, 1, 0x0, 1, 0x0, 0x0, 0x0, 0xffffffffffffffff, 0x0, []⟩,
  ⟨"HM_PIN_REFUSE", .hm, 0x50, 0x0, 1, 0x0, 1, 0x0, 0x0, 0x0, 0xffffffffffffffff, 0x0, []⟩,
  ⟨"HM_PIN_LOST", .hm, 0x58, 0x0, 1, 0x0, 1, 0x0, 0x0, 0x0, 0xffffffffffffffff, 0x0, []⟩,
  ⟨"HM_COPY_DROP", .hm, 0x60, 0x0, 1, 0x0, 1, 0x0, 0x0, 0x0, 0xffffffffffffffff, 0x0, []⟩,
  ⟨"HM_CHLOAD", .hm, 0x200, 0x8, 64, 0x0, 1, 0x0, 0x0, 0x0, 0xffffffffffffffff, 0x0, []⟩]

/-- The registers of the lg block. -/
def regsLg : List RegDesc := [
  ⟨"LG_STATUS", .lg, 0x0, 0x0, 1, 0x0, 1, 0x0, 0x0, 0x0, 0x3f, 0x0, []⟩,
  ⟨"LG_CHUNKS", .lg, 0x8, 0x0, 1, 0x0, 1, 0x0, 0x0, 0x0, 0xffffffffffffffff, 0x0, []⟩,
  ⟨"LG_EDGES", .lg, 0x10, 0x0, 1, 0x0, 1, 0x0, 0x0, 0x0, 0xffffffffffffffff, 0x0, []⟩,
  ⟨"LG_OOB", .lg, 0x18, 0x0, 1, 0x0, 1, 0x0, 0x0, 0x0, 0xffffffffffffffff, 0x0, []⟩,
  ⟨"LG_UNSORTED", .lg, 0x20, 0x0, 1, 0x0, 1, 0x0, 0x0, 0x0, 0xffffffffffffffff, 0x0, []⟩,
  ⟨"LG_EMPTY", .lg, 0x28, 0x0, 1, 0x0, 1, 0x0, 0x0, 0x0, 0xffffffffffffffff, 0x0, []⟩,
  ⟨"LG_RES_FAIL", .lg, 0x30, 0x0, 1, 0x0, 1, 0x0, 0x0, 0x0, 0xffffffffffffffff, 0x0, []⟩]

/-- The registers of the rv block. -/
def regsRv : List RegDesc := [
  ⟨"RV_STATUS", .rv, 0x0, 0x0, 1, 0x0, 1, 0x0, 0x0, 0x0, 0x7, 0x0, []⟩,
  ⟨"RV_PATROL", .rv, 0x8, 0x0, 1, 0x0, 1, 0x0, 0x0, 0x0, 0xffffffff0fffffff, 0x0, []⟩,
  ⟨"RV_ERRADDR", .rv, 0x10, 0x0, 1, 0x0, 1, 0x0, 0x0, 0x0, 0xc00007fffffffff8, 0x0, []⟩,
  ⟨"RV_CE", .rv, 0x18, 0x0, 1, 0x0, 1, 0x0, 0x0, 0x0, 0xffffffffffffffff, 0x0, []⟩,
  ⟨"RV_UE", .rv, 0x20, 0x0, 1, 0x0, 1, 0x0, 0x0, 0x0, 0xffffffffffffffff, 0x0, []⟩,
  ⟨"RV_POISON_RD", .rv, 0x28, 0x0, 1, 0x0, 1, 0x0, 0x0, 0x0, 0xffffffffffffffff, 0x0, []⟩,
  ⟨"RV_POISON_SEEN", .rv, 0x30, 0x0, 1, 0x0, 1, 0x0, 0x0, 0x0, 0xffffffffffffffff, 0x0, []⟩,
  ⟨"RV_PPR", .rv, 0x38, 0x0, 1, 0x0, 1, 0x0, 0x0, 0x0, 0xffffffffffffffff, 0x0, []⟩,
  ⟨"RV_PPR_EXHAUST", .rv, 0x40, 0x0, 1, 0x0, 1, 0x0, 0x0, 0x0, 0xffffffffffffffff, 0x0, []⟩,
  ⟨"RV_PATROL_URGENT", .rv, 0x48, 0x0, 1, 0x0, 1, 0x0, 0x0, 0x0, 0xffffffffffffffff, 0x0, []⟩,
  ⟨"RV_WB_ABANDON", .rv, 0x50, 0x0, 1, 0x0, 1, 0x0, 0x0, 0x0, 0xffffffffffffffff, 0x0, []⟩]

/-- The registers of the ln block. -/
def regsLn : List RegDesc := [
  ⟨"LN_STATUS", .ln, 0x0, 0x0, 1, 0x0, 1, 0x0, 0x0, 0x0, 0xf0f, 0x0, []⟩,
  ⟨"LN_CFG", .ln, 0x8, 0x0, 1, 0x0, 1, 0x8000ffffffffffff, 0x0, 0x0, 0x0, 0x8000000a006403e8, []⟩,
  ⟨"LN_LANECFG", .ln, 0x10, 0x0, 1, 0x0, 1, 0xffff, 0x0, 0x0, 0x0, 0x3e8, []⟩,
  ⟨"LN_LANEMAP", .ln, 0x18, 0x0, 1, 0x0, 1, 0x0, 0x0, 0x0, 0x3f3f3f3f, 0x3f3f3f3f, []⟩,
  ⟨"LN_VISTAB", .ln, 0x20, 0x0, 1, 0x0, 1, 0xfffffc000001, 0x0, 0x0, 0x0, 0x0, []⟩,
  ⟨"LN_PGREQ", .ln, 0x28, 0x0, 1, 0x0, 1, 0xfffffffffffff003, 0x0, 0x800, 0x0, 0x0, []⟩,
  ⟨"LN_PGRES", .ln, 0x30, 0x0, 1, 0x0, 1, 0x0, 0x1, 0x0, 0xffff0000000000f0, 0x0, []⟩,
  ⟨"LN_INTCOAL", .ln, 0x100, 0x8, 64, 0x0, 1, 0xffff00ff, 0x0, 0x0, 0x0, 0x1, []⟩,
  ⟨"LN_FEC_CORR", .ln, 0x40, 0x0, 1, 0x0, 1, 0x0, 0x0, 0x0, 0xffffffffffffffff, 0x0, []⟩,
  ⟨"LN_CRC_ERR", .ln, 0x48, 0x0, 1, 0x0, 1, 0x0, 0x0, 0x0, 0xffffffffffffffff, 0x0, []⟩,
  ⟨"LN_REPLAY", .ln, 0x50, 0x0, 1, 0x0, 1, 0x0, 0x0, 0x0, 0xffffffffffffffff, 0x0, []⟩,
  ⟨"LN_RETRAIN", .ln, 0x58, 0x0, 1, 0x0, 1, 0x0, 0x0, 0x0, 0xffffffffffffffff, 0x0, []⟩,
  ⟨"LN_LANE_SPARE", .ln, 0x60, 0x0, 1, 0x0, 1, 0x0, 0x0, 0x0, 0xffffffffffffffff, 0x0, []⟩,
  ⟨"LN_BACKINV", .ln, 0x68, 0x0, 1, 0x0, 1, 0x0, 0x0, 0x0, 0xffffffffffffffff, 0x0, []⟩,
  ⟨"LN_ERR_RSP", .ln, 0x70, 0x0, 1, 0x0, 1, 0x0, 0x0, 0x0, 0xffffffffffffffff, 0x0, []⟩,
  ⟨"LN_TIMEOUT", .ln, 0x78, 0x0, 1, 0x0, 1, 0x0, 0x0, 0x0, 0xffffffffffffffff, 0x0, []⟩,
  ⟨"LN_DOORBELL", .ln, 0x80, 0x0, 1, 0x0, 1, 0x0, 0x0, 0x0, 0xffffffffffffffff, 0x0, []⟩,
  ⟨"LN_INTR", .ln, 0x88, 0x0, 1, 0x0, 1, 0x0, 0x0, 0x0, 0xffffffffffffffff, 0x0, []⟩,
  ⟨"LN_LINKDOWN", .ln, 0x90, 0x0, 1, 0x0, 1, 0x0, 0x0, 0x0, 0xffffffffffffffff, 0x0, []⟩]

/-- The registers of the cb block. -/
def regsCb : List RegDesc := [
  ⟨"CB_STATUS", .cb, 0x0, 0x0, 1, 0x0, 1, 0x0, 0x2010, 0x0, 0x1fe7, 0x0, []⟩,
  ⟨"CB_CFG", .cb, 0x8, 0x0, 1, 0x0, 1, 0x8000ffff00000fff, 0x0, 0x0, 0x0, 0x8000000a000007d0, []⟩,
  ⟨"CB_FOLIOCFG", .cb, 0x10, 0x0, 1, 0x0, 1, 0x800003ff03ff03ff, 0x0, 0x0, 0x0, 0x8000003c02580001, []⟩,
  ⟨"CB_MTBF", .cb, 0x18, 0x0, 1, 0x0, 1, 0xffffffff, 0x0, 0x0, 0x0, 0x7d0, []⟩,
  ⟨"CB_FOLIOST", .cb, 0x20, 0x0, 1, 0x0, 1, 0x0, 0x0, 0x0, 0xffff0000ffffffff, 0x3c000000000000, []⟩,
  ⟨"CB_SEALED", .cb, 0x28, 0x0, 1, 0x0, 1, 0x0, 0x0, 0x0, 0xffffffffffffffff, 0x0, []⟩,
  ⟨"CB_FOLIOAREA", .cb, 0x30, 0x0, 1, 0x0, 1, 0xffffc0000003, 0x0, 0x0, 0x0, 0x0, []⟩,
  ⟨"CB_TXQ", .cb, 0x38, 0x0, 1, 0x0, 1, 0xfffff0000001, 0x0, 0x0, 0x0, 0x0, []⟩,
  ⟨"CB_ORDER", .cb, 0x40, 0x0, 1, 0x0, 1, 0x0, 0x0, 0x7, 0x0, 0x0, []⟩,
  ⟨"CB_MIRMAP", .cb, 0x100, 0x8, 16, 0x0, 1, 0xfffffffffc01, 0x0, 0x0, 0x0, 0x0, []⟩,
  ⟨"CB_FOLIOS", .cb, 0x200, 0x0, 1, 0x0, 1, 0x0, 0x0, 0x0, 0xffffffffffffffff, 0x0, []⟩,
  ⟨"CB_FOLIO_FORCED", .cb, 0x208, 0x0, 1, 0x0, 1, 0x0, 0x0, 0x0, 0xffffffffffffffff, 0x0, []⟩,
  ⟨"CB_FOLIO_ABANDON", .cb, 0x210, 0x0, 1, 0x0, 1, 0x0, 0x0, 0x0, 0xffffffffffffffff, 0x0, []⟩,
  ⟨"CB_POL_CLAMP", .cb, 0x218, 0x0, 1, 0x0, 1, 0x0, 0x0, 0x0, 0xffffffffffffffff, 0x0, []⟩,
  ⟨"CB_TX_STALL", .cb, 0x220, 0x0, 1, 0x0, 1, 0x0, 0x0, 0x0, 0xffffffffffffffff, 0x0, []⟩,
  ⟨"CB_PLOG_FULL", .cb, 0x228, 0x0, 1, 0x0, 1, 0x0, 0x0, 0x0, 0xffffffffffffffff, 0x0, []⟩,
  ⟨"CB_SEAL_WAIT", .cb, 0x230, 0x0, 1, 0x0, 1, 0x0, 0x0, 0x0, 0xffffffffffffffff, 0x0, []⟩,
  ⟨"CB_CLASS_MISS", .cb, 0x238, 0x0, 1, 0x0, 1, 0x0, 0x0, 0x0, 0xffffffffffffffff, 0x0, []⟩,
  ⟨"CB_CRC_ERR", .cb, 0x240, 0x0, 1, 0x0, 1, 0x0, 0x0, 0x0, 0xffffffffffffffff, 0x0, []⟩,
  ⟨"CB_REPLAY", .cb, 0x248, 0x0, 1, 0x0, 1, 0x0, 0x0, 0x0, 0xffffffffffffffff, 0x0, []⟩,
  ⟨"CB_RETRAIN", .cb, 0x250, 0x0, 1, 0x0, 1, 0x0, 0x0, 0x0, 0xffffffffffffffff, 0x0, []⟩,
  ⟨"CB_LANE_SPARE", .cb, 0x258, 0x0, 1, 0x0, 1, 0x0, 0x0, 0x0, 0xffffffffffffffff, 0x0, []⟩,
  ⟨"CB_LINK_LOSS", .cb, 0x260, 0x0, 1, 0x0, 1, 0x0, 0x0, 0x0, 0xffffffffffffffff, 0x0, []⟩,
  ⟨"CB_TAKEOVER", .cb, 0x268, 0x0, 1, 0x0, 1, 0x0, 0x0, 0x0, 0xffffffffffffffff, 0x0, []⟩,
  ⟨"CB_ORDER_REJ", .cb, 0x270, 0x0, 1, 0x0, 1, 0x0, 0x0, 0x0, 0xffffffffffffffff, 0x0, []⟩,
  ⟨"CB_RESYNC", .cb, 0x278, 0x0, 1, 0x0, 1, 0x0, 0x0, 0x0, 0xffffffffffffffff, 0x0, []⟩,
  ⟨"CB_TX_SPILL", .cb, 0x280, 0x0, 1, 0x0, 1, 0x0, 0x0, 0x0, 0xffffffffffffffff, 0x0, []⟩]

/-- The registers of the bl block. -/
def regsBl : List RegDesc := [
  ⟨"BL_STATUS", .bl, 0x0, 0x0, 1, 0x0, 1, 0x0, 0x120, 0x0, 0xdf, 0x0, []⟩,
  ⟨"BL_CFG", .bl, 0x8, 0x0, 1, 0x0, 1, 0x3, 0x0, 0x0, 0x0, 0x1, []⟩,
  ⟨"BL_ORDER", .bl, 0x10, 0x0, 1, 0x0, 1, 0xffff0000, 0x0, 0x1, 0x0, 0x0, []⟩,
  ⟨"BL_IWHWM", .bl, 0x18, 0x0, 1, 0x0, 1, 0x3ff, 0x0, 0x0, 0x0, 0x300, []⟩,
  ⟨"BL_FILL", .bl, 0x20, 0x0, 1, 0x0, 1, 0x0, 0x0, 0x0, 0xf0ffff0000007fff, 0x0, []⟩,
  ⟨"BL_LOGPTR", .bl, 0x28, 0x0, 1, 0x0, 1, 0x0, 0x0, 0x0, 0xffffffffffffffff, 0x0, []⟩,
  ⟨"BL_FENCED0", .bl, 0x40, 0x0, 1, 0x0, 1, 0x0, 0x0, 0x0, 0xffffffffffffffff, 0x0, []⟩,
  ⟨"BL_FENCED1", .bl, 0x48, 0x0, 1, 0x0, 1, 0x0, 0x0, 0x0, 0xffffffffffffffff, 0x0, []⟩,
  ⟨"BL_FENCED2", .bl, 0x50, 0x0, 1, 0x0, 1, 0x0, 0x0, 0x0, 0xffff, 0x0, []⟩,
  ⟨"BL_LOG", .bl, 0x1000, 0x40, 256, 0x8, 8, 0x0, 0x0, 0x0, 0xffffffffffffffff, 0x0, []⟩,
  ⟨"BL_FAULTS", .bl, 0x200, 0x0, 1, 0x0, 1, 0x0, 0x0, 0x0, 0xffffffffffffffff, 0x0, []⟩,
  ⟨"BL_CORRECTED", .bl, 0x208, 0x0, 1, 0x0, 1, 0x0, 0x0, 0x0, 0xffffffffffffffff, 0x0, []⟩,
  ⟨"BL_FENCES", .bl, 0x210, 0x0, 1, 0x0, 1, 0x0, 0x0, 0x0, 0xffffffffffffffff, 0x0, []⟩,
  ⟨"BL_XING_DISCARD", .bl, 0x218, 0x0, 1, 0x0, 1, 0x0, 0x0, 0x0, 0xffffffffffffffff, 0x0, []⟩,
  ⟨"BL_SPARES", .bl, 0x220, 0x0, 1, 0x0, 1, 0x0, 0x0, 0x0, 0xffffffffffffffff, 0x0, []⟩,
  ⟨"BL_FOLDS", .bl, 0x228, 0x0, 1, 0x0, 1, 0x0, 0x0, 0x0, 0xffffffffffffffff, 0x0, []⟩,
  ⟨"BL_RESTARTS", .bl, 0x230, 0x0, 1, 0x0, 1, 0x0, 0x0, 0x0, 0xffffffffffffffff, 0x0, []⟩,
  ⟨"BL_SECOND", .bl, 0x238, 0x0, 1, 0x0, 1, 0x0, 0x0, 0x0, 0xffffffffffffffff, 0x0, []⟩,
  ⟨"BL_FILL_TWIN", .bl, 0x240, 0x0, 1, 0x0, 1, 0x0, 0x0, 0x0, 0xffffffffffffffff, 0x0, []⟩,
  ⟨"BL_JOB_LOST", .bl, 0x248, 0x0, 1, 0x0, 1, 0x0, 0x0, 0x0, 0xffffffffffffffff, 0x0, []⟩,
  ⟨"BL_HB_MISS", .bl, 0x250, 0x0, 1, 0x0, 1, 0x0, 0x0, 0x0, 0xffffffffffffffff, 0x0, []⟩,
  ⟨"BL_TAG_RETIRE", .bl, 0x258, 0x0, 1, 0x0, 1, 0x0, 0x0, 0x0, 0xffffffffffffffff, 0x0, []⟩,
  ⟨"BL_POISON_ED", .bl, 0x260, 0x0, 1, 0x0, 1, 0x0, 0x0, 0x0, 0xffffffffffffffff, 0x0, []⟩]

/-- The registers of the mk block. -/
def regsMk : List RegDesc := [
  ⟨"MK_STATUS", .mk, 0x0, 0x0, 1, 0x0, 1, 0x0, 0x1, 0x0, 0x3ffe, 0x0, []⟩,
  ⟨"MK_HANGLIM", .mk, 0x8, 0x0, 1, 0x0, 1, 0xffffffff, 0x0, 0x0, 0x0, 0x186a0, []⟩,
  ⟨"MK_JOBSTAT", .mk, 0x100, 0x8, 16, 0x0, 1, 0x0, 0x2, 0x0, 0x1, 0x0, []⟩,
  ⟨"MK_MARK", .mk, 0x10000, 0x8, 4096, 0x0, 1, 0xff00ffffffff, 0x4000000000000000, 0x0, 0xbfff00ff00000000, 0xff0000000000, []⟩,
  ⟨"MK_MAP", .mk, 0x20000, 0x800, 16, 0x8, 256, 0xcfffcfffcfffcfff, 0x0, 0x0, 0x0, 0x0, []⟩,
  ⟨"MK_OVF", .mk, 0x10, 0x0, 1, 0x0, 1, 0x0, 0x0, 0x0, 0xffffffffffffffff, 0x0, []⟩,
  ⟨"MK_HANDSET", .mk, 0x18, 0x0, 1, 0x0, 1, 0x0, 0x0, 0x0, 0xffffffffffffffff, 0x0, []⟩,
  ⟨"MK_LINK_DROP", .mk, 0x20, 0x0, 1, 0x0, 1, 0x0, 0x0, 0x0, 0xffffffffffffffff, 0x0, []⟩,
  ⟨"MK_HANGS", .mk, 0x28, 0x0, 1, 0x0, 1, 0x0, 0x0, 0x0, 0xffffffffffffffff, 0x0, []⟩]

/-- The registers of the fw block. -/
def regsFw : List RegDesc := [
  ⟨"FW_STATUS", .fw, 0x0, 0x0, 1, 0x0, 1, 0x0, 0x0, 0x0, 0xfb, 0xc0, []⟩,
  ⟨"FW_BOOT", .fw, 0x8, 0x0, 1, 0x0, 1, 0x0, 0x0, 0x0, 0xffffffff0000ffff, 0x0, []⟩,
  ⟨"FW_WDOG", .fw, 0x10, 0x0, 1, 0x0, 1, 0x1f, 0x0, 0x0, 0x0, 0xa, []⟩,
  ⟨"FW_RING0", .fw, 0x18, 0x0, 1, 0x0, 1, 0x0, 0x0, 0x0, 0xffffffffffc1, 0x0, []⟩,
  ⟨"FW_JOURNAL", .fw, 0x20, 0x0, 1, 0x0, 1, 0x0, 0x0, 0x0, 0xfffffffff001, 0x0, []⟩,
  ⟨"FW_MEAS", .fw, 0x400, 0x20, 8, 0x8, 4, 0x0, 0x0, 0x0, 0xffffffffffffffff, 0x0, []⟩,
  ⟨"FW_RESTARTS", .fw, 0x200, 0x0, 1, 0x0, 1, 0x0, 0x0, 0x0, 0xffffffffffffffff, 0x0, []⟩,
  ⟨"FW_CMDS", .fw, 0x208, 0x0, 1, 0x0, 1, 0x0, 0x0, 0x0, 0xffffffffffffffff, 0x0, []⟩,
  ⟨"FW_EVENTS", .fw, 0x210, 0x0, 1, 0x0, 1, 0x0, 0x0, 0x0, 0xffffffffffffffff, 0x0, []⟩,
  ⟨"FW_EVT_DROP", .fw, 0x218, 0x0, 1, 0x0, 1, 0x0, 0x0, 0x0, 0xffffffffffffffff, 0x0, []⟩,
  ⟨"FW_RING_ERR", .fw, 0x220, 0x0, 1, 0x0, 1, 0x0, 0x0, 0x0, 0xffffffffffffffff, 0x0, []⟩,
  ⟨"FW_DBTAIL", .fw, 0x100, 0x8, 64, 0x0, 1, 0x0, 0x0, 0x0, 0xffffffff, 0x0, []⟩]

/-- The registers of the en block. -/
def regsEn : List RegDesc := [
  ⟨"EN_STATUS", .en, 0x0, 0x0, 1, 0x0, 1, 0x0, 0x40, 0x0, 0x3f, 0x0, []⟩,
  ⟨"EN_CFG", .en, 0x10, 0x8, 2, 0x0, 1, 0x800f003fffff0000, 0x0, 0x0, 0x0, 0x8003001a00400000, []⟩,
  ⟨"EN_CC", .en, 0x20, 0x0, 1, 0x0, 1, 0xffffffffffff, 0x0, 0x0, 0x0, 0x800050037, []⟩,
  ⟨"EN_INGBASE", .en, 0x28, 0x0, 1, 0x0, 1, 0xffff, 0x0, 0x0, 0x0, 0x7530, []⟩,
  ⟨"EN_QPTAB", .en, 0x30, 0x0, 1, 0x0, 1, 0xfffffffc0000, 0x0, 0x0, 0x0, 0x0, []⟩,
  ⟨"EN_ING", .en, 0x800, 0x20, 64, 0x0, 1, 0xf8ff800fffffffff, 0x0, 0x0, 0x0, 0x0, []⟩,
  ⟨"EN_INGMK", .en, 0x808, 0x20, 64, 0x0, 1, 0xffff83ff, 0x0, 0x0, 0x0, 0x10000, []⟩,
  ⟨"EN_INGPROD", .en, 0x810, 0x20, 64, 0x0, 1, 0x0, 0x0, 0x0, 0xffffffffffffffff, 0x0, []⟩,
  ⟨"EN_INGREL", .en, 0x818, 0x20, 64, 0x0, 1, 0x0, 0x0, 0x0, 0xffffffffffffffff, 0x0, []⟩,
  ⟨"EN_QPDB", .en, 0x400000, 0x1000, 1024, 0x0, 1, 0xffffffff, 0x0, 0x0, 0x0, 0x0, []⟩,
  ⟨"EN_FCS_ERR", .en, 0x200, 0x0, 1, 0x0, 1, 0x0, 0x0, 0x0, 0xffffffffffffffff, 0x0, []⟩,
  ⟨"EN_DROP", .en, 0x208, 0x0, 1, 0x0, 1, 0x0, 0x0, 0x0, 0xffffffffffffffff, 0x0, []⟩,
  ⟨"EN_RACC", .en, 0x210, 0x0, 1, 0x0, 1, 0x0, 0x0, 0x0, 0xffffffffffffffff, 0x0, []⟩,
  ⟨"EN_QPERR", .en, 0x218, 0x0, 1, 0x0, 1, 0x0, 0x0, 0x0, 0xffffffffffffffff, 0x0, []⟩,
  ⟨"EN_RETRY", .en, 0x220, 0x0, 1, 0x0, 1, 0x0, 0x0, 0x0, 0xffffffffffffffff, 0x0, []⟩,
  ⟨"EN_CNP_RX", .en, 0x228, 0x0, 1, 0x0, 1, 0x0, 0x0, 0x0, 0xffffffffffffffff, 0x0, []⟩,
  ⟨"EN_CNP_TX", .en, 0x230, 0x0, 1, 0x0, 1, 0x0, 0x0, 0x0, 0xffffffffffffffff, 0x0, []⟩,
  ⟨"EN_MARK_NOTE", .en, 0x238, 0x0, 1, 0x0, 1, 0x0, 0x0, 0x0, 0xffffffffffffffff, 0x0, []⟩,
  ⟨"EN_ING_LATE", .en, 0x240, 0x0, 1, 0x0, 1, 0x0, 0x0, 0x0, 0xffffffffffffffff, 0x0, []⟩,
  ⟨"EN_ING_FULL", .en, 0x248, 0x0, 1, 0x0, 1, 0x0, 0x0, 0x0, 0xffffffffffffffff, 0x0, []⟩,
  ⟨"EN_ING_DUP", .en, 0x250, 0x0, 1, 0x0, 1, 0x0, 0x0, 0x0, 0xffffffffffffffff, 0x0, []⟩,
  ⟨"EN_ING_BAD", .en, 0x258, 0x0, 1, 0x0, 1, 0x0, 0x0, 0x0, 0xffffffffffffffff, 0x0, []⟩]

/-- The registers of the pw block. -/
def regsPw : List RegDesc := [
  ⟨"PW_STATUS", .pw, 0x0, 0x0, 1, 0x0, 1, 0x0, 0x8000, 0x0, 0x7ffe, 0x0, []⟩,
  ⟨"PW_INPUT", .pw, 0x8, 0x0, 1, 0x0, 1, 0x0, 0x0, 0x0, 0xffffffffffffffff, 0x0, []⟩,
  ⟨"PW_SHEDTHR", .pw, 0x10, 0x0, 1, 0x0, 1, 0x3ffffffffffff, 0x0, 0x0, 0x0, 0x1a46417c5a12c, []⟩,
  ⟨"PW_IWSAVE", .pw, 0x18, 0x0, 1, 0x0, 1, 0xffffc0000001, 0x0, 0x0, 0x0, 0x0, []⟩,
  ⟨"PW_PHASE", .pw, 0x20, 0x0, 1, 0x0, 1, 0x0, 0x0, 0x0, 0x3f03ffffffffff, 0x28000000000000, []⟩,
  ⟨"PW_TEMP", .pw, 0x40, 0x8, 16, 0x0, 1, 0x0, 0x0, 0x0, 0xffffffffffffffff, 0x0, []⟩,
  ⟨"PW_DOMST", .pw, 0xc0, 0x8, 6, 0x0, 1, 0x0, 0x0, 0x0, 0xffffffffffffffff, 0x0, []⟩,
  ⟨"PW_DOMI", .pw, 0xa00, 0x8, 176, 0x0, 1, 0x0, 0x0, 0x0, 0xffff, 0x0, []⟩,
  ⟨"PW_L1", .pw, 0x200, 0x0, 1, 0x0, 1, 0x0, 0x0, 0x0, 0xffffffffffffffff, 0x0, []⟩,
  ⟨"PW_L2", .pw, 0x208, 0x0, 1, 0x0, 1, 0x0, 0x0, 0x0, 0xffffffffffffffff, 0x0, []⟩,
  ⟨"PW_L3", .pw, 0x210, 0x0, 1, 0x0, 1, 0x0, 0x0, 0x0, 0xffffffffffffffff, 0x0, []⟩,
  ⟨"PW_L4", .pw, 0x218, 0x0, 1, 0x0, 1, 0x0, 0x0, 0x0, 0xffffffffffffffff, 0x0, []⟩,
  ⟨"PW_L5", .pw, 0x220, 0x0, 1, 0x0, 1, 0x0, 0x0, 0x0, 0xffffffffffffffff, 0x0, []⟩,
  ⟨"PW_THERM", .pw, 0x228, 0x0, 1, 0x0, 1, 0x0, 0x0, 0x0, 0xffffffffffffffff, 0x0, []⟩,
  ⟨"PW_OVP", .pw, 0x230, 0x0, 1, 0x0, 1, 0x0, 0x0, 0x0, 0xffffffffffffffff, 0x0, []⟩,
  ⟨"PW_PHASE_SPARE", .pw, 0x238, 0x0, 1, 0x0, 1, 0x0, 0x0, 0x0, 0xffffffffffffffff, 0x0, []⟩,
  ⟨"PW_IWSAVE_ABANDON", .pw, 0x240, 0x0, 1, 0x0, 1, 0x0, 0x0, 0x0, 0xffffffffffffffff, 0x0, []⟩,
  ⟨"PW_EIN", .pw, 0x280, 0x0, 1, 0x0, 1, 0x0, 0x0, 0x0, 0xffffffffffffffff, 0x0, []⟩,
  ⟨"PW_ECLASS0", .pw, 0x288, 0x0, 1, 0x0, 1, 0x0, 0x0, 0x0, 0xffffffffffffffff, 0x0, []⟩,
  ⟨"PW_ECLASS1", .pw, 0x290, 0x0, 1, 0x0, 1, 0x0, 0x0, 0x0, 0xffffffffffffffff, 0x0, []⟩,
  ⟨"PW_EJOB", .pw, 0x300, 0x8, 16, 0x0, 1, 0x0, 0x0, 0x0, 0xffffffffffffffff, 0x0, []⟩,
  ⟨"PW_EDOM", .pw, 0x400, 0x8, 176, 0x0, 1, 0x0, 0x0, 0x0, 0xffffffffffffffff, 0x0, []⟩]

/-- The registers of the ld block. -/
def regsLd : List RegDesc := [
  ⟨"LD_STATUS", .ld, 0x0, 0x0, 1, 0x0, 1, 0x0, 0x3, 0x0, 0x1ffc, 0x10, []⟩,
  ⟨"LD_CNT", .ld, 0x108, 0x8, 10, 0x0, 1, 0x0, 0x0, 0x0, 0xffffffffffff, 0x0, [0x100000001, 0x100000001, 0x400000000, 0x2000000000, 0x1000000000, 0x10000000000, 0x8000000000, 0x1000000000, 0x2000000000, 0x1800000000]⟩,
  ⟨"LD_WRITES", .ld, 0x200, 0x0, 1, 0x0, 1, 0x0, 0x0, 0x0, 0xffffffffffffffff, 0x0, []⟩,
  ⟨"LD_REFUSED", .ld, 0x208, 0x0, 1, 0x0, 1, 0x0, 0x0, 0x0, 0xffffffffffffffff, 0x0, []⟩]

/-- The registers of the fe block. -/
def regsFe : List RegDesc := [
  ⟨"FE_STATUS", .fe, 0x0, 0x0, 1, 0x0, 1, 0x0, 0x0, 0x0, 0xff01ff, 0x0, []⟩,
  ⟨"FE_ORDER", .fe, 0x8, 0x0, 1, 0x0, 1, 0x0, 0x0, 0x1, 0x0, 0x0, []⟩,
  ⟨"FE_ALERT", .fe, 0x10, 0x0, 1, 0x0, 1, 0x0, 0x3f, 0x0, 0x0, 0x0, []⟩,
  ⟨"FE_ALERTEN", .fe, 0x18, 0x0, 1, 0x0, 1, 0x3f, 0x0, 0x0, 0x0, 0x3f, []⟩,
  ⟨"FE_PINS", .fe, 0x20, 0x0, 1, 0x0, 1, 0x0, 0x0, 0x0, 0x3f3f, 0x0, []⟩,
  ⟨"FE_MCTP_RX", .fe, 0x200, 0x0, 1, 0x0, 1, 0x0, 0x0, 0x0, 0xffffffffffffffff, 0x0, []⟩,
  ⟨"FE_MCTP_ERR", .fe, 0x208, 0x0, 1, 0x0, 1, 0x0, 0x0, 0x0, 0xffffffffffffffff, 0x0, []⟩,
  ⟨"FE_WRITES", .fe, 0x210, 0x0, 1, 0x0, 1, 0x0, 0x0, 0x0, 0xffffffffffffffff, 0x0, []⟩,
  ⟨"FE_UPDATES", .fe, 0x218, 0x0, 1, 0x0, 1, 0x0, 0x0, 0x0, 0xffffffffffffffff, 0x0, []⟩,
  ⟨"FE_ATTEST", .fe, 0x220, 0x0, 1, 0x0, 1, 0x0, 0x0, 0x0, 0xffffffffffffffff, 0x0, []⟩,
  ⟨"FE_CHATTER", .fe, 0x228, 0x0, 1, 0x0, 1, 0x0, 0x0, 0x0, 0xffffffffffffffff, 0x0, []⟩]

/-- The registers of a block. -/
def Blk.regs : Blk → List RegDesc
  | .scribe => regsScribe
  | .sk => regsSk
  | .ql => regsQl
  | .br => regsBr
  | .sp => regsSp
  | .dxCluster => regsDxCluster
  | .dx => regsDx
  | .cc => regsCc
  | .nbRegion => regsNbRegion
  | .nb => regsNb
  | .iw => regsIw
  | .hm => regsHm
  | .lg => regsLg
  | .rv => regsRv
  | .ln => regsLn
  | .cb => regsCb
  | .bl => regsBl
  | .mk => regsMk
  | .fw => regsFw
  | .en => regsEn
  | .pw => regsPw
  | .ld => regsLd
  | .fe => regsFe

/-- The number under which a register of a cluster window is kept: by physical cluster (R546). -/
def winKey (p off : Nat) : Nat := 0x20000000 + 0x10000 * p + off

/-- The number under which a register of the DX_ cluster block is kept: by logical cluster (R321, R546). -/
def dxcKey (k off : Nat) : Nat := 0x10000000 + 0x10000 * k + 0x4000 + off

/-- The number under which the doorbell tail of ring `r` is kept (R500). -/
def dbTailKey (r : Nat) : Nat := 0x30000000 + 8 * r

/-- SC_GROUP_MAP (R20). -/
def regScGroupMap (i : Nat) : Nat := 0x100 + 8 * i
/-- SC_JOB_PTBR (R100). -/
def regScJobPtbr (i : Nat) : Nat := 0x200 + 8 * i
/-- SK_QCFG (R143). -/
def regSkQcfg (p i : Nat) : Nat := winKey p (0x0 + 8 * i)
/-- SK_STATUS (R144). -/
def regSkStatus (p : Nat) : Nat := winKey p (0x40)
/-- SK_HALF (R144). -/
def regSkHalf (p : Nat) : Nat := winKey p (0x48)
/-- SK_OPSTATE (R144). -/
def regSkOpstate (p i : Nat) : Nat := winKey p (0x100 + 8 * i)
/-- SK_OPFAULT (R137). -/
def regSkOpfault (p i : Nat) : Nat := winKey p (0x200 + 8 * i)
/-- SK_RESUME (R138). -/
def regSkResume (p : Nat) : Nat := winKey p (0x300)
/-- SK_ABORT (R138). -/
def regSkAbort (p : Nat) : Nat := winKey p (0x308)
/-- QL_STATUS (R177). -/
def regQlStatus (p : Nat) : Nat := winKey p (0x1000)
/-- QL_FLAGS (R177). -/
def regQlFlags (p : Nat) : Nat := winKey p (0x1008)
/-- BR_STATUS (R204). -/
def regBrStatus (p : Nat) : Nat := winKey p (0x2000)
/-- BR_FLAGS0 (R204). -/
def regBrFlags0 (p : Nat) : Nat := winKey p (0x2008)
/-- BR_FLAGS1 (R204). -/
def regBrFlags1 (p : Nat) : Nat := winKey p (0x2010)
/-- SP_STATUS (R234). -/
def regSpStatus (p : Nat) : Nat := winKey p (0x3000)
/-- SP_FLAGS (R234). -/
def regSpFlags (p : Nat) : Nat := winKey p (0x3008)
/-- DX_CLQ (R324). -/
def regDxClq (k : Nat) : Nat := dxcKey k (0x0)
/-- DX_CLQF (R305). -/
def regDxClqf (k : Nat) : Nat := dxcKey k (0x8)
/-- DX_CLDELAY (R306). -/
def regDxCldelay (k : Nat) : Nat := dxcKey k (0x10)
/-- CC_CTL (R357). -/
def regCcCtl (p : Nat) : Nat := winKey p (0x5000)
/-- CC_CFG (R357). -/
def regCcCfg (p : Nat) : Nat := winKey p (0x5008)
/-- CC_STATUS (R357). -/
def regCcStatus (p : Nat) : Nat := winKey p (0x5010)
/-- NB_HOTAREA (R271). -/
def regNbHotarea (p : Nat) : Nat := winKey p (0x6000)
/-- NB_RSTATUS (R271). -/
def regNbRstatus (p : Nat) : Nat := winKey p (0x6008)
/-- NB_FLAGS0 (R271). -/
def regNbFlags0 (p : Nat) : Nat := winKey p (0x6010)
/-- NB_FLAGS1 (R271). -/
def regNbFlags1 (p : Nat) : Nat := winKey p (0x6018)
/-- IW_STATUS (R373). -/
def regIwStatus (p : Nat) : Nat := winKey p (0x7000)
/-- IW_PATROL (R373). -/
def regIwPatrol (p : Nat) : Nat := winKey p (0x7008)
/-- IW_ERRADDR (R373). -/
def regIwErraddr (p : Nat) : Nat := winKey p (0x7010)
/-- DX_CFG (R324). -/
def regDxCfg : Nat := 0x3000000
/-- DX_SPILL (R324). -/
def regDxSpill : Nat := 0x3000008
/-- DX_POLICY (R324). -/
def regDxPolicy : Nat := 0x3000010
/-- DX_EDEFAULT (R295). -/
def regDxEdefault : Nat := 0x3000018
/-- DX_STATUS (R324). -/
def regDxStatus : Nat := 0x3000020
/-- DX_GOVSTATE (R324). -/
def regDxGovstate : Nat := 0x3000028
/-- DX_OWNAREA (R324). -/
def regDxOwnarea (i : Nat) : Nat := 0x3000100 + 8 * i
/-- NB_TBDIR (R294). -/
def regNbTbdir (i : Nat) : Nat := 0x3010000 + 8 * i
/-- NB_UNDO (R294). -/
def regNbUndo (i : Nat) : Nat := 0x3010080 + 8 * i
/-- NB_EDGEN (R288). -/
def regNbEdgen (i : Nat) : Nat := 0x3010100 + 8 * i
/-- NB_WIDEHOLD (R294). -/
def regNbWidehold : Nat := 0x3010180
/-- NB_DSTATUS (R294). -/
def regNbDstatus : Nat := 0x3010188
/-- HM_CFG (R271). -/
def regHmCfg : Nat := 0x3020000
/-- HM_STATUS (R271). -/
def regHmStatus : Nat := 0x3020008
/-- HM_PINQ (R271). -/
def regHmPinq (i : Nat) : Nat := 0x3020100 + 8 * i
/-- LG_STATUS (R271). -/
def regLgStatus (n : Nat) : Nat := 0x3030000 + 0x1000 * n
/-- RV_STATUS (R373). -/
def regRvStatus (n : Nat) : Nat := 0x3040000 + 0x1000 * n
/-- RV_PATROL (R373). -/
def regRvPatrol (n : Nat) : Nat := 0x3040008 + 0x1000 * n
/-- RV_ERRADDR (R373). -/
def regRvErraddr (n : Nat) : Nat := 0x3040010 + 0x1000 * n
/-- LN_STATUS (R399). -/
def regLnStatus : Nat := 0x3050000
/-- LN_CFG (R399). -/
def regLnCfg : Nat := 0x3050008
/-- LN_LANECFG (R397). -/
def regLnLanecfg : Nat := 0x3050010
/-- LN_LANEMAP (R399). -/
def regLnLanemap : Nat := 0x3050018
/-- LN_VISTAB (R399). -/
def regLnVistab : Nat := 0x3050020
/-- LN_PGREQ (R399). -/
def regLnPgreq : Nat := 0x3050028
/-- LN_PGRES (R399). -/
def regLnPgres : Nat := 0x3050030
/-- LN_INTCOAL (R399). -/
def regLnIntcoal (i : Nat) : Nat := 0x3050100 + 8 * i
/-- CB_STATUS (R432). -/
def regCbStatus : Nat := 0x3060000
/-- CB_CFG (R432). -/
def regCbCfg : Nat := 0x3060008
/-- CB_FOLIOCFG (R432). -/
def regCbFoliocfg : Nat := 0x3060010
/-- CB_MTBF (R423). -/
def regCbMtbf : Nat := 0x3060018
/-- CB_FOLIOST (R432). -/
def regCbFoliost : Nat := 0x3060020
/-- CB_SEALED (R420). -/
def regCbSealed : Nat := 0x3060028
/-- CB_FOLIOAREA (R432). -/
def regCbFolioarea : Nat := 0x3060030
/-- CB_TXQ (R432). -/
def regCbTxq : Nat := 0x3060038
/-- CB_ORDER (R432). -/
def regCbOrder : Nat := 0x3060040
/-- CB_MIRMAP (R432). -/
def regCbMirmap (i : Nat) : Nat := 0x3060100 + 8 * i
/-- BL_STATUS (R472). -/
def regBlStatus : Nat := 0x3070000
/-- BL_CFG (R472). -/
def regBlCfg : Nat := 0x3070008
/-- BL_ORDER (R472). -/
def regBlOrder : Nat := 0x3070010
/-- BL_IWHWM (R472). -/
def regBlIwhwm : Nat := 0x3070018
/-- BL_FILL (R472). -/
def regBlFill : Nat := 0x3070020
/-- BL_LOGPTR (R471). -/
def regBlLogptr : Nat := 0x3070028
/-- BL_FENCED0 (R457). -/
def regBlFenced0 : Nat := 0x3070040
/-- BL_FENCED1 (R457). -/
def regBlFenced1 : Nat := 0x3070048
/-- BL_FENCED2 (R457). -/
def regBlFenced2 : Nat := 0x3070050
/-- BL_LOG (R471). -/
def regBlLog (i j : Nat) : Nat := 0x3071000 + 64 * i + 8 * j
/-- MK_STATUS (R340). -/
def regMkStatus : Nat := 0x3100000
/-- MK_HANGLIM (R336). -/
def regMkHanglim : Nat := 0x3100008
/-- MK_JOBSTAT (R340). -/
def regMkJobstat (i : Nat) : Nat := 0x3100100 + 8 * i
/-- MK_MARK (R340). -/
def regMkMark (i : Nat) : Nat := 0x3110000 + 8 * i
/-- MK_MAP (R333). -/
def regMkMap (i j : Nat) : Nat := 0x3120000 + 2048 * i + 8 * j
/-- FW_STATUS (R517). -/
def regFwStatus : Nat := 0x3200000
/-- FW_BOOT (R517). -/
def regFwBoot : Nat := 0x3200008
/-- FW_WDOG (R509). -/
def regFwWdog : Nat := 0x3200010
/-- FW_RING0 (R499). -/
def regFwRing0 : Nat := 0x3200018
/-- FW_JOURNAL (R549). -/
def regFwJournal : Nat := 0x3200020
/-- FW_MEAS (R497). -/
def regFwMeas (i j : Nat) : Nat := 0x3200400 + 32 * i + 8 * j
/-- EN_STATUS (R448). -/
def regEnStatus : Nat := 0x4000000
/-- EN_CFG (R448). -/
def regEnCfg (i : Nat) : Nat := 0x4000010 + 8 * i
/-- EN_CC (R448). -/
def regEnCc : Nat := 0x4000020
/-- EN_INGBASE (R446). -/
def regEnIngbase : Nat := 0x4000028
/-- EN_QPTAB (R440). -/
def regEnQptab : Nat := 0x4000030
/-- EN_ING (R448). -/
def regEnIng (i : Nat) : Nat := 0x4000800 + 32 * i
/-- EN_INGMK (R448). -/
def regEnIngmk (i : Nat) : Nat := 0x4000808 + 32 * i
/-- EN_INGPROD (R447). -/
def regEnIngprod (i : Nat) : Nat := 0x4000810 + 32 * i
/-- EN_INGREL (R448). -/
def regEnIngrel (i : Nat) : Nat := 0x4000818 + 32 * i
/-- EN_QPDB (R438). -/
def regEnQpdb (i : Nat) : Nat := 0x4400000 + 4096 * i
/-- PW_STATUS (R490). -/
def regPwStatus : Nat := 0xf000000
/-- PW_INPUT (R490). -/
def regPwInput : Nat := 0xf000008
/-- PW_SHEDTHR (R490). -/
def regPwShedthr : Nat := 0xf000010
/-- PW_IWSAVE (R490). -/
def regPwIwsave : Nat := 0xf000018
/-- PW_PHASE (R490). -/
def regPwPhase : Nat := 0xf000020
/-- PW_TEMP (R490). -/
def regPwTemp (i : Nat) : Nat := 0xf000040 + 8 * i
/-- PW_DOMST (R490). -/
def regPwDomst (i : Nat) : Nat := 0xf0000c0 + 8 * i
/-- PW_DOMI (R477). -/
def regPwDomi (i : Nat) : Nat := 0xf000a00 + 8 * i
/-- LD_STATUS (R517). -/
def regLdStatus : Nat := 0xf010000
/-- LD_CNT (R517). -/
def regLdCnt (i : Nat) : Nat := 0xf010108 + 8 * i
/-- FE_STATUS (R528). -/
def regFeStatus : Nat := 0xf020000
/-- FE_ORDER (R523). -/
def regFeOrder : Nat := 0xf020008
/-- FE_ALERT (R528). -/
def regFeAlert : Nat := 0xf020010
/-- FE_ALERTEN (R528). -/
def regFeAlerten : Nat := 0xf020018
/-- FE_PINS (R542). -/
def regFePins : Nat := 0xf020020
/-- SK_DEADLINE_MISS (R131). -/
def regSkDeadlineMiss (p : Nat) : Nat := winKey p (0x50)
/-- SK_CRC_RETRY (R135). -/
def regSkCrcRetry (p : Nat) : Nat := winKey p (0x58)
/-- SK_RATE_WAIT (R129). -/
def regSkRateWait (p : Nat) : Nat := winKey p (0x60)
/-- SK_SMALL_SLOT (R118). -/
def regSkSmallSlot (p : Nat) : Nat := winKey p (0x68)
/-- SK_PAGE_HALT (R137). -/
def regSkPageHalt (p : Nat) : Nat := winKey p (0x70)
/-- QL_CHK_FAIL (R175). -/
def regQlChkFail (p : Nat) : Nat := winKey p (0x1010)
/-- QL_CHK_SKIP (R173). -/
def regQlChkSkip (p : Nat) : Nat := winKey p (0x1018)
/-- QL_ACC_CORR (R151). -/
def regQlAccCorr (p : Nat) : Nat := winKey p (0x1020)
/-- QL_PASSES (R177). -/
def regQlPasses (p : Nat) : Nat := winKey p (0x1028)
/-- BR_RES_FAIL (R203). -/
def regBrResFail (p : Nat) : Nat := winKey p (0x2018)
/-- BR_RANGE (R190). -/
def regBrRange (p : Nat) : Nat := winKey p (0x2020)
/-- BR_SM_EMPTY (R196). -/
def regBrSmEmpty (p : Nat) : Nat := winKey p (0x2028)
/-- BR_SM_INVALID (R196). -/
def regBrSmInvalid (p : Nat) : Nat := winKey p (0x2030)
/-- BR_OPS (R204). -/
def regBrOps (p : Nat) : Nat := winKey p (0x2038)
/-- SP_PRUNED (R211,R214). -/
def regSpPruned (p : Nat) : Nat := winKey p (0x3010)
/-- SP_OOB (R211,R222). -/
def regSpOob (p : Nat) : Nat := winKey p (0x3018)
/-- SP_STEALS (R217). -/
def regSpSteals (p : Nat) : Nat := winKey p (0x3020)
/-- SP_BBUF_STALL (R234). -/
def regSpBbufStall (p : Nat) : Nat := winKey p (0x3028)
/-- SP_BAB_STALL (R221). -/
def regSpBabStall (p : Nat) : Nat := winKey p (0x3030)
/-- SP_KEY_OVF (R220). -/
def regSpKeyOvf (p : Nat) : Nat := winKey p (0x3038)
/-- SP_PRED_SKIP (R225). -/
def regSpPredSkip (p : Nat) : Nat := winKey p (0x3040)
/-- SP_PRED_MISS (R225). -/
def regSpPredMiss (p : Nat) : Nat := winKey p (0x3048)
/-- SP_PRED_OFF (R227). -/
def regSpPredOff (p : Nat) : Nat := winKey p (0x3050)
/-- SP_RES_FAIL (R232). -/
def regSpResFail (p : Nat) : Nat := winKey p (0x3058)
/-- SP_BAB_CORR (R234). -/
def regSpBabCorr (p : Nat) : Nat := winKey p (0x3060)
/-- SP_OPS (R234). -/
def regSpOps (p : Nat) : Nat := winKey p (0x3068)
/-- NB_BGLOAD (R263). -/
def regNbBgload (p i : Nat) : Nat := winKey p (0x6040 + 8 * i)
/-- NB_EMPTY (R242). -/
def regNbEmpty (p : Nat) : Nat := winKey p (0x6080)
/-- NB_OOB (R241). -/
def regNbOob (p : Nat) : Nat := winKey p (0x6088)
/-- NB_REMOTE (R249). -/
def regNbRemote (p : Nat) : Nat := winKey p (0x6090)
/-- NB_RES_FAIL (R255). -/
def regNbResFail (p : Nat) : Nat := winKey p (0x6098)
/-- NB_OPS (R271). -/
def regNbOps (p : Nat) : Nat := winKey p (0x60a0)
/-- LG_CHUNKS (R261). -/
def regLgChunks (n : Nat) : Nat := 0x3030008 + 0x1000 * n
/-- LG_EDGES (R261). -/
def regLgEdges (n : Nat) : Nat := 0x3030010 + 0x1000 * n
/-- LG_OOB (R260). -/
def regLgOob (n : Nat) : Nat := 0x3030018 + 0x1000 * n
/-- LG_UNSORTED (R260). -/
def regLgUnsorted (n : Nat) : Nat := 0x3030020 + 0x1000 * n
/-- LG_EMPTY (R260). -/
def regLgEmpty (n : Nat) : Nat := 0x3030028 + 0x1000 * n
/-- LG_RES_FAIL (R255). -/
def regLgResFail (n : Nat) : Nat := 0x3030030 + 0x1000 * n
/-- HM_LOOKUPS (R271). -/
def regHmLookups : Nat := 0x3020010
/-- HM_HITS (R271). -/
def regHmHits : Nat := 0x3020018
/-- HM_PROMOTE (R266). -/
def regHmPromote : Nat := 0x3020020
/-- HM_MOVE (R266). -/
def regHmMove : Nat := 0x3020028
/-- HM_EVICT (R266). -/
def regHmEvict : Nat := 0x3020030
/-- HM_MIG_ABORT (R268). -/
def regHmMigAbort : Nat := 0x3020038
/-- HM_DEFER (R267). -/
def regHmDefer : Nat := 0x3020040
/-- HM_SPACE (R266). -/
def regHmSpace : Nat := 0x3020048
/-- HM_PIN_REFUSE (R270). -/
def regHmPinRefuse : Nat := 0x3020050
/-- HM_PIN_LOST (R271). -/
def regHmPinLost : Nat := 0x3020058
/-- HM_COPY_DROP (R256,R264). -/
def regHmCopyDrop : Nat := 0x3020060
/-- HM_CHLOAD (R263). -/
def regHmChload (i : Nat) : Nat := 0x3020200 + 8 * i
/-- NB_UPD_SKIP (R278). -/
def regNbUpdSkip : Nat := 0x3010200
/-- NB_UPD_DUP (R278). -/
def regNbUpdDup : Nat := 0x3010208
/-- NB_UNDO_FORCE (R282). -/
def regNbUndoForce : Nat := 0x3010210
/-- NB_UNDO_STALL (R282). -/
def regNbUndoStall : Nat := 0x3010218
/-- NB_BUILD_WAIT (R285). -/
def regNbBuildWait : Nat := 0x3010220
/-- NB_ED_WAIT (R284). -/
def regNbEdWait : Nat := 0x3010228
/-- NB_ED_RECLAIM (R291). -/
def regNbEdReclaim : Nat := 0x3010230
/-- NB_WIDE_GONE (R293). -/
def regNbWideGone : Nat := 0x3010238
/-- NB_UPD_ROWS (R294). -/
def regNbUpdRows : Nat := 0x3010240
/-- DX_ADMIT (R315). -/
def regDxAdmit : Nat := 0x3000200
/-- DX_ADMIT_WAIT (R315). -/
def regDxAdmitWait : Nat := 0x3000208
/-- DX_GOV_CONFLICT (R320). -/
def regDxGovConflict : Nat := 0x3000210
/-- DX_POL_CLAMP (R320). -/
def regDxPolClamp : Nat := 0x3000218
/-- DX_EST_CLAMP (R315). -/
def regDxEstClamp : Nat := 0x3000220
/-- DX_EST_OVER (R314). -/
def regDxEstOver : Nat := 0x3000228
/-- DX_PREEMPT (R309). -/
def regDxPreempt : Nat := 0x3000230
/-- DX_OWNSWAP (R312). -/
def regDxOwnswap : Nat := 0x3000238
/-- DX_SPILLS (R304). -/
def regDxSpills : Nat := 0x3000240
/-- DX_STALL (R304). -/
def regDxStall : Nat := 0x3000248
/-- DX_STEP_HOLD (R301). -/
def regDxStepHold : Nat := 0x3000250
/-- DX_STEP_REJ (R302). -/
def regDxStepRej : Nat := 0x3000258
/-- DX_FOLDSWAP (R321). -/
def regDxFoldswap : Nat := 0x3000260
/-- MK_OVF (R331). -/
def regMkOvf : Nat := 0x3100010
/-- MK_HANDSET (R334). -/
def regMkHandset : Nat := 0x3100018
/-- MK_LINK_DROP (R339). -/
def regMkLinkDrop : Nat := 0x3100020
/-- MK_HANGS (R336). -/
def regMkHangs : Nat := 0x3100028
/-- CC_DMISS (R344). -/
def regCcDmiss (p : Nat) : Nat := winKey p (0x5020)
/-- CC_IMISS (R346). -/
def regCcImiss (p : Nat) : Nat := winKey p (0x5028)
/-- CC_DIRTY_EVICT (R347). -/
def regCcDirtyEvict (p : Nat) : Nat := winKey p (0x5030)
/-- CC_EVB_FULL (R347). -/
def regCcEvbFull (p : Nat) : Nat := winKey p (0x5038)
/-- CC_PF_ISSUE (R348). -/
def regCcPfIssue (p : Nat) : Nat := winKey p (0x5040)
/-- CC_PF_DROP (R349). -/
def regCcPfDrop (p : Nat) : Nat := winKey p (0x5048)
/-- CC_RECALL (R343). -/
def regCcRecall (p : Nat) : Nat := winKey p (0x5050)
/-- CC_PAR_CLEAN (R356). -/
def regCcParClean (p : Nat) : Nat := winKey p (0x5058)
/-- CC_PAR_DIRTY (R356). -/
def regCcParDirty (p : Nat) : Nat := winKey p (0x5060)
/-- IW_CE (R365). -/
def regIwCe (p : Nat) : Nat := winKey p (0x7018)
/-- IW_UE (R365). -/
def regIwUe (p : Nat) : Nat := winKey p (0x7020)
/-- IW_POISON_RD (R368). -/
def regIwPoisonRd (p : Nat) : Nat := winKey p (0x7028)
/-- IW_POISON_SEEN (R371). -/
def regIwPoisonSeen (p : Nat) : Nat := winKey p (0x7030)
/-- IW_ROW_SPARE (R361). -/
def regIwRowSpare (p : Nat) : Nat := winKey p (0x7038)
/-- IW_WB_ABANDON (R366). -/
def regIwWbAbandon (p : Nat) : Nat := winKey p (0x7040)
/-- RV_CE (R365). -/
def regRvCe (n : Nat) : Nat := 0x3040018 + 0x1000 * n
/-- RV_UE (R365). -/
def regRvUe (n : Nat) : Nat := 0x3040020 + 0x1000 * n
/-- RV_POISON_RD (R368). -/
def regRvPoisonRd (n : Nat) : Nat := 0x3040028 + 0x1000 * n
/-- RV_POISON_SEEN (R371). -/
def regRvPoisonSeen (n : Nat) : Nat := 0x3040030 + 0x1000 * n
/-- RV_PPR (R373). -/
def regRvPpr (n : Nat) : Nat := 0x3040038 + 0x1000 * n
/-- RV_PPR_EXHAUST (R373). -/
def regRvPprExhaust (n : Nat) : Nat := 0x3040040 + 0x1000 * n
/-- RV_PATROL_URGENT (R370). -/
def regRvPatrolUrgent (n : Nat) : Nat := 0x3040048 + 0x1000 * n
/-- RV_WB_ABANDON (R366). -/
def regRvWbAbandon (n : Nat) : Nat := 0x3040050 + 0x1000 * n
/-- LN_FEC_CORR (R378). -/
def regLnFecCorr : Nat := 0x3050040
/-- LN_CRC_ERR (R379,R382). -/
def regLnCrcErr : Nat := 0x3050048
/-- LN_REPLAY (R380). -/
def regLnReplay : Nat := 0x3050050
/-- LN_RETRAIN (R396). -/
def regLnRetrain : Nat := 0x3050058
/-- LN_LANE_SPARE (R397). -/
def regLnLaneSpare : Nat := 0x3050060
/-- LN_BACKINV (R386). -/
def regLnBackinv : Nat := 0x3050068
/-- LN_ERR_RSP (R393). -/
def regLnErrRsp : Nat := 0x3050070
/-- LN_TIMEOUT (R391). -/
def regLnTimeout : Nat := 0x3050078
/-- LN_DOORBELL (R394). -/
def regLnDoorbell : Nat := 0x3050080
/-- LN_INTR (R395). -/
def regLnIntr : Nat := 0x3050088
/-- LN_LINKDOWN (R398). -/
def regLnLinkdown : Nat := 0x3050090
/-- CB_FOLIOS (R416). -/
def regCbFolios : Nat := 0x3060200
/-- CB_FOLIO_FORCED (R416,R424). -/
def regCbFolioForced : Nat := 0x3060208
/-- CB_FOLIO_ABANDON (R421). -/
def regCbFolioAbandon : Nat := 0x3060210
/-- CB_POL_CLAMP (R424). -/
def regCbPolClamp : Nat := 0x3060218
/-- CB_TX_STALL (R411). -/
def regCbTxStall : Nat := 0x3060220
/-- CB_PLOG_FULL (R413). -/
def regCbPlogFull : Nat := 0x3060228
/-- CB_SEAL_WAIT (R414). -/
def regCbSealWait : Nat := 0x3060230
/-- CB_CLASS_MISS (R409). -/
def regCbClassMiss : Nat := 0x3060238
/-- CB_CRC_ERR (R406). -/
def regCbCrcErr : Nat := 0x3060240
/-- CB_REPLAY (R406). -/
def regCbReplay : Nat := 0x3060248
/-- CB_RETRAIN (R406). -/
def regCbRetrain : Nat := 0x3060250
/-- CB_LANE_SPARE (R406). -/
def regCbLaneSpare : Nat := 0x3060258
/-- CB_LINK_LOSS (R425). -/
def regCbLinkLoss : Nat := 0x3060260
/-- CB_TAKEOVER (R428). -/
def regCbTakeover : Nat := 0x3060268
/-- CB_ORDER_REJ (R427). -/
def regCbOrderRej : Nat := 0x3060270
/-- CB_RESYNC (R430). -/
def regCbResync : Nat := 0x3060278
/-- CB_TX_SPILL (R411). -/
def regCbTxSpill : Nat := 0x3060280
/-- EN_FCS_ERR (R434). -/
def regEnFcsErr : Nat := 0x4000200
/-- EN_DROP (R434). -/
def regEnDrop : Nat := 0x4000208
/-- EN_RACC (R436). -/
def regEnRacc : Nat := 0x4000210
/-- EN_QPERR (R439). -/
def regEnQperr : Nat := 0x4000218
/-- EN_RETRY (R439). -/
def regEnRetry : Nat := 0x4000220
/-- EN_CNP_RX (R440). -/
def regEnCnpRx : Nat := 0x4000228
/-- EN_CNP_TX (R440). -/
def regEnCnpTx : Nat := 0x4000230
/-- EN_MARK_NOTE (R437). -/
def regEnMarkNote : Nat := 0x4000238
/-- EN_ING_LATE (R447). -/
def regEnIngLate : Nat := 0x4000240
/-- EN_ING_FULL (R447). -/
def regEnIngFull : Nat := 0x4000248
/-- EN_ING_DUP (R447). -/
def regEnIngDup : Nat := 0x4000250
/-- EN_ING_BAD (R447). -/
def regEnIngBad : Nat := 0x4000258
/-- BL_FAULTS (R451). -/
def regBlFaults : Nat := 0x3070200
/-- BL_CORRECTED (R451). -/
def regBlCorrected : Nat := 0x3070208
/-- BL_FENCES (R457). -/
def regBlFences : Nat := 0x3070210
/-- BL_XING_DISCARD (R26). -/
def regBlXingDiscard : Nat := 0x3070218
/-- BL_SPARES (R462). -/
def regBlSpares : Nat := 0x3070220
/-- BL_FOLDS (R466). -/
def regBlFolds : Nat := 0x3070228
/-- BL_RESTARTS (R464). -/
def regBlRestarts : Nat := 0x3070230
/-- BL_SECOND (R470). -/
def regBlSecond : Nat := 0x3070238
/-- BL_FILL_TWIN (R459). -/
def regBlFillTwin : Nat := 0x3070240
/-- BL_JOB_LOST (R469). -/
def regBlJobLost : Nat := 0x3070248
/-- BL_HB_MISS (R452). -/
def regBlHbMiss : Nat := 0x3070250
/-- BL_TAG_RETIRE (R461). -/
def regBlTagRetire : Nat := 0x3070258
/-- BL_POISON_ED (R468). -/
def regBlPoisonEd : Nat := 0x3070260
/-- PW_L1 (R482). -/
def regPwL1 : Nat := 0xf000200
/-- PW_L2 (R482). -/
def regPwL2 : Nat := 0xf000208
/-- PW_L3 (R482). -/
def regPwL3 : Nat := 0xf000210
/-- PW_L4 (R482). -/
def regPwL4 : Nat := 0xf000218
/-- PW_L5 (R482). -/
def regPwL5 : Nat := 0xf000220
/-- PW_THERM (R488). -/
def regPwTherm : Nat := 0xf000228
/-- PW_OVP (R474). -/
def regPwOvp : Nat := 0xf000230
/-- PW_PHASE_SPARE (R476). -/
def regPwPhaseSpare : Nat := 0xf000238
/-- PW_IWSAVE_ABANDON (R483). -/
def regPwIwsaveAbandon : Nat := 0xf000240
/-- PW_EIN (R490). -/
def regPwEin : Nat := 0xf000280
/-- PW_ECLASS0 (R490). -/
def regPwEclass0 : Nat := 0xf000288
/-- PW_ECLASS1 (R490). -/
def regPwEclass1 : Nat := 0xf000290
/-- PW_EJOB (R490). -/
def regPwEjob (i : Nat) : Nat := 0xf000300 + 8 * i
/-- PW_EDOM (R490). -/
def regPwEdom (i : Nat) : Nat := 0xf000400 + 8 * i
/-- FW_RESTARTS (R512). -/
def regFwRestarts : Nat := 0x3200200
/-- FW_CMDS (R504). -/
def regFwCmds : Nat := 0x3200208
/-- FW_EVENTS (R506). -/
def regFwEvents : Nat := 0x3200210
/-- FW_EVT_DROP (R507). -/
def regFwEvtDrop : Nat := 0x3200218
/-- FW_RING_ERR (R500). -/
def regFwRingErr : Nat := 0x3200220
/-- LD_WRITES (R516). -/
def regLdWrites : Nat := 0xf010200
/-- LD_REFUSED (R515,R516). -/
def regLdRefused : Nat := 0xf010208
/-- FE_MCTP_RX (R520). -/
def regFeMctpRx : Nat := 0xf020200
/-- FE_MCTP_ERR (R520). -/
def regFeMctpErr : Nat := 0xf020208
/-- FE_WRITES (R522). -/
def regFeWrites : Nat := 0xf020210
/-- FE_UPDATES (R525). -/
def regFeUpdates : Nat := 0xf020218
/-- FE_ATTEST (R527). -/
def regFeAttest : Nat := 0xf020220
/-- FE_CHATTER (R534). -/
def regFeChatter : Nat := 0xf020228

/-- The block and the offset within it that a register number names. -/
def keyBlk (key : Nat) : Option (Blk × Nat) :=
  if key ≥ 0x30000000 then none
  else if key ≥ 0x20000000 then
    let w := (key - 0x20000000) % 0x10000
    let off := w % 0x1000
    match w / 0x1000 with
    | 0 => some (.sk, off)
    | 1 => some (.ql, off)
    | 2 => some (.br, off)
    | 3 => some (.sp, off)
    | 5 => some (.cc, off)
    | 6 => some (.nbRegion, off)
    | 7 => some (.iw, off)
    | _ => none
  else if key ≥ 0x10000000 then
    let w := (key - 0x10000000) % 0x10000
    if w / 0x1000 = 4 then some (.dxCluster, w % 0x1000) else none
  else if key < 0x1000 then some (.scribe, key)
  else if 0x2000000 ≤ key ∧ key < 0x2004000 then some (.cc, key % 0x1000)
  else if 0x3000000 ≤ key ∧ key < 0x3001000 then some (.dx, key % 0x1000)
  else if 0x3010000 ≤ key ∧ key < 0x3011000 then some (.nb, key % 0x1000)
  else if 0x3020000 ≤ key ∧ key < 0x3021000 then some (.hm, key % 0x1000)
  else if 0x3030000 ≤ key ∧ key < 0x3034000 then some (.lg, key % 0x1000)
  else if 0x3040000 ≤ key ∧ key < 0x3044000 then some (.rv, key % 0x1000)
  else if 0x3050000 ≤ key ∧ key < 0x3051000 then some (.ln, key % 0x1000)
  else if 0x3060000 ≤ key ∧ key < 0x3061000 then some (.cb, key % 0x1000)
  else if 0x3070000 ≤ key ∧ key < 0x3078000 then some (.bl, key - 0x3070000)
  else if 0x3100000 ≤ key ∧ key < 0x3140000 then some (.mk, key - 0x3100000)
  else if 0x3200000 ≤ key ∧ key < 0x3201000 then some (.fw, key % 0x1000)
  else if 0x4000000 ≤ key ∧ key < 0x4800000 then some (.en, key - 0x4000000)
  else if 0xF000000 ≤ key ∧ key < 0xF001000 then some (.pw, key % 0x1000)
  else if 0xF010000 ≤ key ∧ key < 0xF011000 then some (.ld, key % 0x1000)
  else if 0xF020000 ≤ key ∧ key < 0xF021000 then some (.fe, key % 0x1000)
  else none

/-- Does the row hold a register at this offset, and under which indices? -/
def RegDesc.at? (d : RegDesc) (off : Nat) : Option (Nat × Nat) :=
  if off < d.off then none
  else
    let i := if d.count ≤ 1 then 0 else (off - d.off) / d.step
    let r := off - d.off - i * d.step
    let j := if d.count2 ≤ 1 then 0 else r / d.step2
    if i < d.count ∧ j < d.count2 ∧ r = j * d.step2 then some (i, j) else none

/-- The row of a list that holds a register at this offset. -/
def findReg (off : Nat) : List RegDesc → Option (RegDesc × Nat × Nat)
  | [] => none
  | d :: r => match d.at? off with
    | some (i, j) => some (d, i, j)
    | none => findReg off r

/-- The row of the register index that a register number names, with its indices. -/
def regAt (key : Nat) : Option (RegDesc × Nat × Nat) :=
  match keyBlk key with
  | some (b, off) => findReg off b.regs
  | none => none

/-- The value a register holds after module reset (R12): what the register file reads where nothing is listed. -/
def resetOf (key : Nat) : Word :=
  match regAt key with
  | some (d, i, _) => BitVec.ofNat 64 (d.resets.getD i d.reset)
  | none => 0#64

end Sys2Proof.Machine
end

