-- ==== Sys2Proof/Machine/State.lean ====
section
/-! DEFINITION. The state of the GL-960 as plain data: every register, memory, queue, counter and mode the spec gives the
module, the queue of waiting commands, and the state after reset. -/

namespace Sys2Proof.Machine

/-- Why a step stops. -/
inductive Fault where
  /-- Raised by POWER_SAMPLE: V_IN stands above its absolute maximum of 65.0 V, where no behaviour is stated (R473,
  R537). Safe: the model stops where the spec says nothing. -/
  | aboveAbsoluteMaximum
  deriving DecidableEq, Repr

/-- Why a command is turned away without a meaning. -/
inductive Refusal where
  /-- Raised by an arm of `exec` whose meaning is not written. Safe: the model stops. -/
  | notModelled (mnemonic : String)
  deriving DecidableEq, Repr

/-- Exception codes of R101. -/
inductive XCode where
  | illegal
  | misalignedFetch
  | misalignedData
  | pageFault
  | access
  | privileged
  | trap
  | brk
  | slotEmpty
  | mark
  | engine
  deriving DecidableEq, Repr

/-- The code number of R101. -/
def XCode.num : XCode → Nat
  | .illegal => 1
  | .misalignedFetch => 2
  | .misalignedData => 3
  | .pageFault => 4
  | .access => 5
  | .privileged => 6
  | .trap => 7
  | .brk => 8
  | .slotEmpty => 9
  | .mark => 10
  | .engine => 11

/-- What an access does with memory (R98 to R100). -/
inductive AccKind where
  | load
  | store
  | fetch
  | either            -- R or W is enough (R351)
  | both              -- R and W are needed: an atomic (R92)
  deriving DecidableEq, Repr

/-- A core access that waits for its line or for the host (R87, R344). -/
inductive CoreOp where
  | load (dst : Nat) (bytes : Nat) (signed : Bool)
  | store (bytes : Nat) (v : Word)
  | slotLoad (slot : Nat)
  | slotStore (bytes : List Byte)
  | lineZero
  deriving DecidableEq, Repr

/-- What a context waits for (R107). -/
inductive Wait where
  | fill (pa : Nat) (op : CoreOp)              -- a data-cache miss (R344)
  | host (tag : Nat) (pa : Nat) (va : Word) (op : CoreOp)  -- an access homed at the host (R342)
  | atomic (dst : Nat) (v : Word)              -- an atomic performed at its home (R93)
  | mark (phys : Nat)                          -- a mark instruction at its mark's home (R330, R332)
  | interrupt                                  -- WAITI
  | sleep (expiry : Nat)                       -- DX.SLEEP waiting in place (R300)
  | stepEnd                                    -- DX.STEPEND until the commit is recorded (R301)
  | swap                                       -- SK.SWAP (R125)
  | cancel                                     -- SK.CANCEL (R116)
  | dead                                       -- an access that met poison and never completes (R368)
  deriving DecidableEq, Repr

/-- Whether a context holds a task and whether it may issue (R70, R104, R105). -/
inductive Run where
  | idle
  | ready
  | waiting (w : Wait)
  | suspended (va : Word) (store : Bool)       -- a page fault with the firmware (R104)
  | halted                                     -- halted for the debugger (R103)
  deriving DecidableEq, Repr

/-- A task as Ductus knows it: the descriptor of R295, its submitter's value and its place in time. -/
structure Task where
  job : Nat := 0
  num : Nat := 0
  fair : Bool := false
  prio : Nat := 0
  any : Bool := false
  half : Bool := false
  sp : Bool := false
  ql : Bool := false
  target : Nat := 0
  entry : Word := 0
  a1 : Word := 0
  a2 : Word := 0
  a3 : Word := 0
  estimate : Nat := 0
  mark : Option Nat := none        -- physical mark signalled at END (R299)
  delay : Option Nat := none       -- delay in µs of a DLY spawn, or its expiry once listed
  arrival : Nat := 0
  gen : Nat := 0                   -- publication generation sampled at dispatch (R298)
  src : Nat := 0                   -- who submitted it: a cluster, 128 + a ring pair, 192 the copyists (R304)
  deriving DecidableEq, Repr

/-- A report of an engine that waits to be raised as ENGINE (R103). -/
structure EngReport where
  group : Nat
  val : Word
  deriving DecidableEq, Repr

/-- One task context with its registers (R70 to R72, R97). -/
structure Ctx where
  task : Task := {}
  run : Run := .idle
  pc : Word := 0
  a : SMap Word := []
  v : SMap Lane := []              -- lane l of V[r] at 64 r + l
  m : SMap Word := []
  sd : SMap (List Byte) := []      -- empty slot: no bytes (R89)
  fflags : Word := 0
  xpc : Word := 0
  xcause : Word := 0
  xval : Word := 0
  xactive : Bool := false
  brFlags : Word := 0              -- Brush flags (R181)
  brGen : Word := 0                -- Brush generator (R183)
  gaFlags : Word := 0              -- gather flags (R254)
  energy : Nat := 0                -- nJ attributed so far (R314)
  reports : List EngReport := []
  dispatched : Nat := 0            -- order of dispatch (R309)
  yields : Bool := false           -- its instruction waits, so that the other context may issue (R107, R308)
  since : Word := 0                -- when its wait on a mark began (R336)
  deriving DecidableEq, Repr

/-- A translation a core holds (R99): the leaf entry, where it stands, and the page it maps. -/
structure TlbEntry where
  core : Nat
  job : Nat
  vbase : Nat
  size : Nat
  pteAddr : Nat
  pte : Word
  deriving DecidableEq, Repr

/-- An update, or a wait that is itself tested in order, on its way to a mark's home (R330, R332). -/
inductive MarkOp where
  | signal (inc : Nat)
  | set (v : Nat)
  | wait (h : Hart) (dst : Nat) (target : Nat)
  | waitDec (h : Hart) (dst : Nat) (target : Nat)
  deriving DecidableEq, Repr

/-- The order of R330 among updates that reach a mark together: home core, home engines, Baseline, Carbon, Ethernet. -/
structure MarkUpd where
  cls : Nat
  op : MarkOp
  deriving DecidableEq, Repr

/-- What a mark's home holds beside MK_MARKn: updates under way and waits in arrival order. -/
structure MarkRt where
  inflight : List MarkUpd := []
  waits : List MarkOp := []
  deriving DecidableEq, Repr

/-- A delay-list entry (R306). -/
inductive DelayWhat where
  | spawn (t : Task)
  | sleeper (slot : Nat)           -- the save record of the cluster that holds the task
  deriving DecidableEq, Repr

structure DelayEnt where
  cluster : Nat
  expiry : Nat
  what : DelayWhat
  deriving DecidableEq, Repr

/-- A saved context (R310): a save record of a cluster's Sheet; `sleeping` while the delay list holds it. -/
structure Saved where
  ctx : Ctx
  sleeping : Bool
  deriving DecidableEq, Repr

/-- A step-end commit under way (R301, R40). -/
structure StepReq where
  job : Nat
  hart : Hart
  dst : Nat
  step : Word
  mark : Option Nat
  csn : Option Nat                 -- assigned once the record has left (R36)
  crec : Option CommitRec := none  -- the record that has left
  gone : Bool := false             -- its task was stopped after the record left (R457)
  deriving DecidableEq, Repr

/-- A folded pair (R321, R466). -/
structure Fold where
  group : Nat
  host : Nat                       -- logical cluster that carries the other
  guest : Nat
  active : Nat                     -- the one the slot serves
  swapping : Bool
  base : Nat                       -- where the guest's region contents begin in the host slot's region
  deriving DecidableEq, Repr

/-- A reason why Draft admission or issue is stopped or throttled (R318). -/
structure Gov where
  padmit : Bool := false
  pthr : Bool := false
  pstop : Bool := false
  hot : Bool := false
  ext : Bool := false
  tstop : BitVec 16 := 0
  tthr : BitVec 16 := 0
  deriving DecidableEq, Repr, Inhabited

/-- Device-level Ductus and the clusters' shares of it. -/
structure Ductus where
  buf : List Task := []            -- spawn buffers (R299), oldest first; at most 8 of one cluster
  devq : List Task := []           -- on-die entries, oldest first (R303)
  expired : List Task := []        -- expired spawn entries waiting for their level (R306)
  spill : List Task := []          -- the spill ring (R304)
  clq : List Task := []            -- every cluster's levels, oldest first (R305)
  delay : List DelayEnt := []      -- every cluster's delay list, by insertion (R306)
  saved : SMap (Option Saved) := []  -- save record r of cluster k at 4 k + r; records of restored tasks at 3
  restored : List Ctx := []        -- contexts held in a restored image (R324)
  nextNum : SMap Nat := []         -- TASK counter of each job (R298)
  arrivals : Nat := 0
  stalled : List Nat := []         -- sources counted as stalled: cluster numbers, then 128 + ring
  em : List (Nat × Nat) := []      -- (time in µs, nJ) of Draft energy in the trailing 10 ms (R314)
  rem : SMap Nat := []             -- nJ below the next µJ: class c at c, job j at 16 + j (R478)
  steps : List StepReq := []        -- one whose record has left stays until it is recorded
  prevStep : SMap (Word × Word) := []  -- last step end of a job: its SUBJECT and its CSN
  folds : List Fold := []
  gov : Gov := {}
  stopped : Bool := false          -- dispatch stopped for a folio (R323)
  stopAt : Nat := 0                -- time in µs at which the folio stop began (R323)
  lastAdmit : Nat := 127           -- the cluster last admitted (R316)
  deriving DecidableEq, Repr, Inhabited

/-- One way of a data-cache set (R341): the line and whether it is dirty; `backing` is what memory held before the line
became dirty, which a lost dirty line leaves behind (R356). -/
structure CLine where
  line : Nat
  dirty : Bool
  backing : List Byte
  bad : Option Bool := none        -- an upset that no read has met: of its bytes, or of its tag and state (R356)
  deriving DecidableEq, Repr

/-- A set of a data cache: its ways and its tree pseudo-LRU bits (R341). -/
structure CSet where
  ways : List (Option CLine) := []
  plru : BitVec 7 := 0
  deriving DecidableEq, Repr

/-- A stride-prefetch stream (R348). -/
structure Stream where
  slot : Nat
  pc : Word
  last : Nat
  stride : Int
  run : Nat
  deriving DecidableEq, Repr

/-- A set of an instruction cache: four ways and their tree pseudo-LRU bits (R341). -/
structure ISet where
  ways : List (Option Nat) := []
  plru : BitVec 3 := 0
  deriving DecidableEq, Repr

/-- The demand miss of a data cache (R344): its line, and whether its wait for the eviction buffer has been counted (R347). -/
structure Miss where
  line : Nat
  full : Bool
  deriving DecidableEq, Repr

/-- The caches of one core beside its registers (R341 to R357). The instruction cache keeps the lines that have been
fetched; their bytes are the command stream's. -/
structure CacheRt where
  evb : List CLine := []           -- eviction buffer, oldest first (R347)
  cmd : Option Nat := none         -- the running whole-cache commands, as CC_CTL bits (R354)
  thenOff : Bool := false          -- disable once the command is done (R354)
  isets : SMap ISet := []          -- the instruction cache, by set (R341)
  miss : Option Miss := none       -- the one demand miss (R344)
  pf : List Nat := []              -- lines that prefetches are bringing (R349)
  streams : List Stream := []      -- most recently used first
  deriving DecidableEq, Repr

/-- A Reservoir bank held for repair (R373). -/
structure Ppr where
  ctl : Nat
  group : Nat
  bank : Nat
  row : Nat
  chan : Nat
  deriving DecidableEq, Repr

/-- Memory-tier state beside the registers (R358 to R373). -/
structure Tiers where
  spare : SMap Nat := []           -- spare rows used by bank 128 r + 16 b + n of a region: key 256 p + 16 b + n
  seen : List (Nat × Nat) := []    -- (row, pass): bank rows corrected in a pass (R361, R373)
  remapped : List Nat := []
  ppr : List Ppr := []
  pprUsed : List Nat := []         -- channel banks whose repair resource is spent
  banks : List (Nat × Nat) := []   -- spare banks brought in: 8 p + bank group, and the bank each replaces (R361)
  deriving DecidableEq, Repr

/-- A task named by its job and number, with the context that issued: the owner of an engine, the issuer of an
operation (R123, R161, R229). -/
structure Owner where
  job : Nat
  num : Nat
  hart : Hart
  deriving DecidableEq, Repr

/-- What a Stroke operation entry carries (R110, R115): stream operations here, and the near-memory operations that hold
entries (R96). -/
inductive SkKind where
  | load
  | store
  | copy
  | pool
  | gather
  | update
  | build
  | publish
  deriving DecidableEq, Repr

/-- A Stroke operation entry (R115). `pos` is the position of the next request as bytes from the start of the pattern,
which stands for the five loop indices and the byte offset of R137. -/
structure SkOp where
  n : Nat
  kind : SkKind
  own : Owner
  fair : Bool
  desc : List Byte
  areg : Word
  queue : Nat
  mark : Option Nat := none
  tsig : Bool := false
  ctl : Nat := 0
  imm : Nat := 0
  state : Nat := 1                 -- SK_OPSTATEn.STATE (R144)
  saved : Nat := 0                 -- state to return to after a folio pause (R140)
  tiles : Nat := 0                 -- tiles completed
  assigned : Nat := 1              -- tiles assigned to a half so far (R124, R125)
  pos : Nat := 0
  retried : Bool := false          -- the current request has failed its CRC once (R135)
  rateWait : Bool := false         -- counted in SK_RATE_WAIT (R129)
  held : Bool := false             -- held by a step end (R301)
  seq : Nat := 0                   -- order of issue
  wait : List Nat := []            -- owners whose acknowledgement is outstanding (R276)
  gen : Nat := 0                   -- publication generation that the task sampled (R289)
  tot : List Nat := []             -- neighbours of each target over the partials combined so far (R244)
  gfl : Nat := 0                   -- gather flags of the operation (R253)
  hl : List (Nat × List Byte) := []  -- host lines that have come for the current request (R390)
  bank : SMap Nat := []            -- row bytes read at bank group g of region k, at 8 k + g (R251)
  park : Bool := false             -- a restored operation whose halves wait for their task (R324)
  tag : Bool := false              -- the current request holds a tag (R119)
  deriving DecidableEq, Repr

/-- A Quill operation with what it captured at issue (R155, R156, R162). -/
inductive QlKind where
  | ldw (addr cnt : Word) (trans : Bool) (wbuf fmt : Nat)
  | mma (addr cnt : Word) (mask : Word) (start : Bool) (wbuf semi fmt acc : Nat)
  | wb (addr cnt : Word) (mask : Word) (sr clear : Bool) (fmt acc : Nat)
  | save (addr cnt : Word) (acc : Nat)
  | restore (addr cnt : Word) (acc : Nat)
  | accadd (addr cnt : Word) (mask : Word) (full : Bool) (semi acc : Nat)
  | fill (cnt : Word) (mask : Word) (semi acc : Nat)
  | swap
  | sig (mark : Nat)
  | seed (v : Word)
  deriving DecidableEq, Repr

structure QlOp where
  slot : Nat
  group : Nat
  own : Owner
  half : Nat                       -- physical half that was front at issue (R122)
  kind : QlKind
  role : Bool := false             -- the roles as it left the command queue (R164)
  deriving DecidableEq, Repr

/-- A loaded weight block (R160): its format, its elements by row and column, its scales. -/
structure WBuf where
  fmt : Nat
  elems : List Nat                 -- K rows of 32 raw elements
  scales : List Nat                -- scale of block b of column j at 32 b + j
  deriving DecidableEq, Repr

/-- The Quill of one cluster (R161). -/
structure Quill where
  owner : Option Owner := none
  role : Bool := false             -- true: P1 holds the front role (R164)
  acc : SMap Word := []            -- entry c of row r of set p at 65536 p + 32 r + c: e in the high half (R151)
  w0 : Option WBuf := none
  w1 : Option WBuf := none
  gen : Word := 0                  -- stochastic-rounding generator (R169)
  queue : List QlOp := []          -- the command queue (R162)
  weight : Option QlOp := none     -- what the three units execute (R162)
  array : Option QlOp := none
  drain : Option QlOp := none
  nextSlot : Nat := 0
  failed : Bool := false           -- a check failed (R175)
  dead : List (Nat × Nat) := []    -- tasks whose later operations are discarded (R167)
  flags : Word := 0                -- the owner's sticky flags, shown in QL_FLAGS (R170)
  deriving DecidableEq, Repr

/-- A Brush or reduction operation with what it captured at issue (R190, R198). -/
structure BrOp where
  own : Owner
  half : Nat
  group : Nat
  op : Nat
  dst : Nat
  s1 : Nat
  s2 : Nat
  ext : Nat                        -- ext of Form T; ctl of Form K
  imm : BitVec 32
  a1 : Word                        -- A[src1] or A[src]
  a2 : Word                        -- A[src2]
  masks : List Word                -- masks of the row's vectors, the first for the operation
  deriving DecidableEq, Repr

/-- A Stipple operation with what it captured at issue (R230). -/
inductive SpKind where
  | ldb (addr cnt : Word) (bbuf fmt : Nat)
  | mma (tile : Word) (pred : Word) (usePred trans start : Bool) (bbuf semi fmt row : Nat) (mask : Word)
  | kadd (block : Word) (semi fmt : Nat) (mask : Word)
  | drain (dst : Nat) (addr cnt : Word) (relu clear sr : Bool) (semi fmt row : Nat) (mask : Word)
  | cmp (dst : Nat) (dest : Word) (addr cnt : Word) (kind semi fmt kdim4 : Nat)
  | sig (mark : Nat)
  | seed (v : Word)
  | clr (mode rows first semi : Nat)
  deriving DecidableEq, Repr

structure SpOp where
  slot : Nat
  group : Nat
  own : Owner
  half : Nat
  kind : SpKind
  seq : Nat := 0                   -- order of issue
  deriving DecidableEq, Repr

/-- A B buffer of the Stipple (R216). -/
structure BBuf where
  fmt : Nat
  rows : Nat
  elems : List Nat                 -- rows of 32 raw elements
  deriving DecidableEq, Repr

/-- An occupied keyed entry (R220): its place, set * 4 + way or 2048 + overflow index, and its key. -/
structure KeyEnt where
  place : Nat
  row : Nat
  cb : Nat
  deriving DecidableEq, Repr

/-- The Stipple of one cluster (R229). -/
structure Stipple where
  owner : Option Owner := none
  keyed : Bool := false
  buf : SMap Word := []            -- column c of entry r at 32 r + c; keyed overflow entries from 2048
  keys : List KeyEnt := []
  b0 : Option BBuf := none
  b1 : Option BBuf := none
  skipped : List Nat := []         -- rows marked skipped (R225)
  gen : Word := 0
  queue : List SpOp := []          -- the command queue (R230)
  load : Option SpOp := none       -- what the four units execute (R230)
  lanes : Option SpOp := none
  port : Option SpOp := none
  comp : Option SpOp := none
  count : Nat := 0                 -- operations issued
  nextSlot : Nat := 0
  repair : List Nat := []          -- rows of the lanes' operation waiting for repair (R225)
  repairing : Bool := false
  failed : Bool := false
  dead : List (Nat × Nat) := []
  flags : Word := 0                -- the owner's sticky flags, shown in SP_FLAGS (R229)
  deriving DecidableEq, Repr

/-- The engines of one logical cluster. -/
structure Cluster where
  sk : List SkOp := []             -- Stroke operation entries in use, by issue
  skLast : SMap Word := []         -- SK_OPSTATEn of freed entries
  halfOwner : Option Owner := none
  front : Nat := 0                 -- 0: half A is front (R122)
  filled : Bool := false           -- the front half holds a filled tile (R124)
  backFilled : Bool := false       -- the back half holds one
  fills : Bool := false            -- the half owner has issued a tiled fill
  swap : Option Hart := none       -- the context whose SK.SWAP waits (R125)
  cancel : List (Hart × Option Nat) := []  -- contexts whose SK.CANCEL waits, with the queue named
  ql : Quill := {}
  br : List BrOp := []
  brFailed : Bool := false
  sp : Stipple := {}
  deriving DecidableEq, Repr

/-- A job context beside its registers (R97, R550). -/
structure Job where
  loaded : Bool := false
  xvec : Word := 0
  debug : Bool := false
  held : Bool := false             -- its tasks and entries are held by a fault (R457)
  stopped : Bool := false          -- stopped under R105
  captured : List (Nat × Nat) := []  -- physical ranges that a folio captures for it (R410, R417)
  capturedBytes : Nat := 0
  iwUnits : Nat := 0               -- its share of BL_IWHWM in units of 32 KiB (R466)
  exchange : List Nat := []        -- its Exchange pages (R64)
  usesInkwell : Bool := false      -- needs Inkwell contents that no folio restores (R463, R485)
  image : List Byte := []          -- hash of the image it was loaded from (R497)
  loading : Bool := false          -- its JOB_LOAD waits for its folio (R504)
  covered : Bool := false          -- a sealed folio has captured it while it loads
  epochSteps : Nat := 0            -- step ends in this epoch (R409)
  lost : Bool := false             -- lost under R469
  resume : Word := 0               -- resume CSN of its last restart (R67)
  gone : List (Nat × Nat) := []    -- CSNs above the first and up to the second are not of its present steps (R66)
  boundary : Bool := false         -- stands at a step boundary whose reads have not run (R63, R301)
  deriving DecidableEq, Repr

/-- An event for the completion ring of ring pair 0 (R506). -/
structure Event where
  code : Nat
  job : Nat
  cause : Nat
  csn : Word
  result : List Byte
  deriving DecidableEq, Repr
/-- A module request to host home that awaits its answer (R390, R391). -/
inductive HostOp where
  | rdShr
  | rdOwn
  | rdCur
  | write
  | wbDirty
  | evict
  deriving DecidableEq, Repr

/-- Who made a request to host home. -/
inductive HostWho where
  | core (h : Hart)
  | stroke (k n : Nat)
  | cache (core : Nat)
  deriving DecidableEq, Repr

structure HostReq where
  tag : Nat
  line : Nat                       -- host physical address of the 64 B line
  op : HostOp
  who : HostWho
  deriving DecidableEq, Repr

/-- A gradient record on its way to a row: its row, column block and 32 binary32 values (R222, R275). -/
structure GradRec where
  row : Nat
  cb : Nat
  vals : List Nat
  deriving DecidableEq, Repr

/-- An owner's share of a TB.UPDATE (R275, R276). -/
structure Share where
  job : Nat
  table : Nat
  desc : List Byte
  recs : List GradRec
  fmt : Nat                        -- FORMAT of its block (R222)
  admitted : Bool := false
  applied : Bool := false
  held : Bool := false             -- counted in NB_BUILD_WAIT (R285)
  stalled : Bool := false          -- counted in NB_UNDO_STALL (R282)
  txWait : Bool := false           -- counted in CB_TX_STALL (R411)
  deriving DecidableEq, Repr

/-- A request at a region: a fan entry of a pool, or a share of an update (R246, R275). -/
structure NbReq where
  region : Nat
  c : Nat
  n : Nat
  cls : Nat                        -- 0 inner, 1 Fair-copy, 2 Draft
  idx : Nat
  share : Option Share := none
  deriving DecidableEq, Repr

/-- A pooled partial in an owner's result buffer (R246). -/
structure NbPart where
  region : Nat
  c : Nat
  n : Nat
  idx : Nat
  counts : List Nat
  vals : List Nat
  flags : Nat
  deriving DecidableEq, Repr

/-- A copy under way for a hot-row map entry (R268). -/
structure HotPend where
  target : Nat
  pin : Option Nat                 -- the job whose pin waits for it (R270)
  deriving DecidableEq, Repr

/-- An entry of the hot-row map (R264): V is `copy`, PIN is `pin`, PEND is `pend`. -/
structure HotEnt where
  home : Nat
  units : Nat
  way : Nat
  copy : Option Nat
  heat : Nat
  pin : Option Nat
  pend : Option HotPend
  due : Bool := false              -- pinned by a copy that HM.PIN still waits for
  lost : Bool := false             -- pinned, and its region is fenced: copied again once that is filled (R269)
  deriving DecidableEq, Repr

/-- A row in a slice's candidate table (R266). -/
structure HotCand where
  home : Nat
  units : Nat
  owner : Nat
  count : Nat
  deferred : Bool                  -- waits for the rate cap, counted in HM_DEFER (R267)
  deriving DecidableEq, Repr

/-- A row looked up by an operation in progress: cluster, order of issue there, home of the row (R268). -/
structure HotLook where
  c : Nat
  seq : Nat
  home : Nat
  deriving DecidableEq, Repr

/-- Space that a copy has left, and the operations that looked its row up before (R268). -/
structure HotFreed where
  pa : Nat
  bytes : Nat
  ops : List (Nat × Nat)
  deriving DecidableEq, Repr

/-- The hot-row map beside its registers. -/
structure Hot where
  ents : List HotEnt := []
  cand : List HotCand := []
  spent : SMap Nat := []           -- promotions and moves a slice started in this microsecond (R267)
  moves : List Nat := []           -- homes whose move waits for the rate cap
  bg : SMap Nat := []              -- bytes at bank group g of region k in this window, at 8 k + g (R263)
  ch : SMap Nat := []              -- bytes at Reservoir channel c in this window
  looks : List HotLook := []       -- rows that operations in progress have looked up (R268)
  freed : List HotFreed := []      -- space that waits for such operations
  deriving DecidableEq, Repr

/-- The role of an edition slot (chapter 9, Building an edition). -/
inductive EdRole where
  | staging
  | active
  | retired
  deriving DecidableEq, Repr

/-- An edition slot in use. -/
structure EdSlot where
  slot : Nat
  role : EdRole
  step : Word                      -- the build's step (R284)
  cleared : List Nat               -- dirty bits the build cleared (R284, R286)
  first : Nat                      -- generations during which it was active (R291)
  last : Nat
  wide : Bool                      -- kept by NB_WIDEHOLD (R293)
  deriving DecidableEq, Repr

/-- A build under way (R284, R285). -/
structure Build where
  c : Nat
  n : Nat
  waited : Bool                    -- counted in NB_ED_WAIT
  slot : Option Nat                -- the edition slot it has taken (R284)
  deriving DecidableEq, Repr

/-- A registered table beside its descriptor, table t of job j at 4096 j + t. -/
structure TableRt where
  slots : List EdSlot := []
  dirty : List Nat := []           -- segments whose dirty bit is set (R284)
  lastStep : Word := 0             -- STEP of the last acknowledged update
  build : Option Build := none
  epochBytes : Nat := 0            -- bytes written to a carbon-mirrored table in this epoch (R409)
  deriving DecidableEq, Repr

/-- A first-touch undo record: its generation, its row, and where it stands in the job's ring (R281). -/
structure UndoRec where
  gen : Nat
  table : Nat
  row : Nat
  off : Nat
  len : Nat
  deriving DecidableEq, Repr

/-- The undo area of a job (R281, R282). -/
structure UndoRt where
  gen : Nat := 0
  recs : List UndoRec := []        -- oldest first
  head : Nat := 0
  forced : Bool := false           -- a folio has been requested for space
  deriving DecidableEq, Repr

/-- A publication in a job's queue (R287). -/
structure PubEnt where
  job : Nat
  tables : List Nat
  step : Word
  result : Nat                     -- physical address of the list's result word
  host : Option (Nat × Nat)        -- ring pair and TAG of a host PUBLISH
  task : Option (Nat × Nat)        -- cluster and entry of a waiting TB.PUBLISH
  started : Bool := false          -- its folio runs (R49)
  deriving DecidableEq, Repr

/-- A generation held for a host (R292). -/
structure GenHold where
  job : Nat
  gen : Nat
  ring : Nat
  deriving DecidableEq, Repr

/-- A device line that the host holds (R386). -/
structure DirEnt where
  line : Nat
  owned : Bool
  deriving DecidableEq, Repr

/-- A snoop to the host that awaits its answer (R386 to R389). -/
structure Snoop where
  tag : Nat
  line : Nat
  inv : Bool
  wbp : Bool                       -- answered WBP: the write-back carries the data (R388)
  deriving DecidableEq, Repr

/-- Where a message of the module goes. -/
inductive Chan where
  | lanine
  | carbon
  | ether (port : Nat)
  | mctp
  | i3c
  | alert
  deriving DecidableEq, Repr

/-- A message the module has sent: its channel, its opcode or type, its numbers and its bytes. -/
structure Out where
  chan : Chan
  code : Nat
  args : List Nat
  data : List Byte
  deriving DecidableEq, Repr


/-! ### Commits, rings and the firmware -/

/-- A completion that waits to be written (R504, R507, R508). -/
structure Compl where
  status : Nat                     -- DONE 0x00, NOT_DONE 0x10 (R54)
  reason : Nat
  csn : Word
  result : List Byte
  deriving DecidableEq, Repr

/-- An ordered or waiting host command as its entry holds it while its effect is under way (R504). -/
inductive HostCmd where
  | ringCreate (pair cls sqlog cqlog : Nat)
  | ringDelete (pair : Nat)
  | jobLoad (job : Nat) (img : JobImage)
  | jobUnload (job : Nat)
  | jobStop (job : Nat)
  | publish (job buf : Nat)
  | stateRead (job t first rows buf : Nat)
  | configWrite (off : Nat) (v : Word)
  | ledgerWrite (entry : Nat) (val sig : List Byte)
  | qpConnect (q : Nat) (ctx : List Byte)
  | qpReset (q : Nat)
  | ingestCfg (r : Nat) (v mk : Word)
  | fwStage (slot : Nat) (img : FwImage)
  | fwActivate (slot : Nat)
  | debugAttach (job : Nat)
  | debugDetach (job : Nat)
  | debugHandSet (job handle : Nat) (v : BitVec 32)
  | roleOrderDepart
  | roleOrderTakeover
  deriving DecidableEq, Repr

/-- A submission entry that the firmware has consumed and not completed (R501, R508). -/
structure RingEnt where
  seq : Word
  bytes : List Byte                -- the 64 B entry
  cmd : Option HostCmd := none       -- its command, once executed, while its effect is under way
  commit : Option CommitRec := none  -- the commit record assigned to it (R503)
  compl : Option Compl := none     -- its effect record (R508)
  deriving DecidableEq, Repr

/-- A ring pair beside its control block and rings in memory (R499). -/
structure Ring where
  created : Bool := false
  cb : Nat := 0                    -- physical address of the control block
  opened : List RingEnt := []      -- consumed entries without a completion written, oldest first
  produced : Nat := 0              -- completion entries written
  tail : Nat := 0                  -- the last valid submission tail (R500)
  deleting : Bool := false         -- RING_DELETE waits for its entries
  deriving DecidableEq, Repr

/-- Owner state of an engine that an owner swap has moved out (R312): the cluster, the owner, and what it held. -/
structure OwnerSave where
  cluster : Nat
  own : Owner
  ql : Option Quill
  sp : Option Stipple
  br : List BrOp := []             -- Brush operations of a restored context
  halves : Option Cluster := none  -- Sheet half ownership of a restored context that another task's stands against
  cells : List Host.Cell := []     -- what those halves held
  deriving DecidableEq, Repr

/-- What a folio holds (R417): memory, contexts, engines, queues, marks, pins, positions. -/
structure Image where
  num : Nat := 0
  covered : Word := 0              -- the CSN that its seal covers (R420)
  jobs : List Nat := []
  mem : List Host.Cell := []
  poison : List Nat := []
  ctxs : SMap Ctx := []
  clu : SMap Cluster := []
  dx : Ductus := {}
  marks : SMap MarkRt := []
  regs : SMap Word := []           -- mark, mapping and ingest registers
  pins : List (Nat × Nat × Nat) := []  -- job, home, units
  nbq : List NbReq := []
  parts : List NbPart := []
  pubq : List PubEnt := []
  swaps : List OwnerSave := []
  rings : List (Nat × Word) := []  -- CONSUMED of ingest ring r (R448)
  lasts : List (Nat × Word) := []  -- STEP of the last update of table t of job j, by 4096 j + t
  jhead : List Byte := []          -- the journal header (R44, R417)
  gone : List (Nat × List (Nat × Nat)) := []  -- CSNs that are not of a job's present steps (R66)
  deriving DecidableEq, Repr, Inhabited

/-- A folio under way beside CB_STATUS.FOLIO (R416 to R421). -/
structure FolioRt where
  forced : Bool := false
  next : Bool := false             -- a later forced request (R416)
  waits : Option Bool := none      -- a request that waits for the roles, and whether it is forced
  num : Nat := 0
  covered : Word := 0
  cap : Option Image := none       -- captured and not sealed
  toTwin : Bool := false           -- its image goes to the twin
  pub : Option CommitRec := none   -- the publication it is taken for (R49)
  costs : List Nat := []           -- stops of the last 8 folios in µs, newest first (R422)
  stop : Nat := 0
  sealing : Bool := false          -- sealed, and the publication's COMMIT_ACK is awaited
  beat : Bool := false             -- every unit has sent a heartbeat since the quiesce began (R456)
  deriving DecidableEq, Repr

/-- A record on its way to the twin (R407). -/
structure CbRec where
  ty : Nat
  job : Nat
  args : List Nat
  data : List Byte
  size : Nat                       -- bytes on the link, the header among them
  spill : Bool := false            -- in the Reservoir part of the send queue (R411)
  deriving DecidableEq, Repr

/-- A delta in a standby's pending log (R413). -/
structure PLogEnt where
  job : Nat
  d : DeltaRec
  size : Nat
  marked : Bool                    -- covered by a seal, to be applied
  deriving DecidableEq, Repr

/-- A transfer that awaits XFER_ACK, with the sender's own mark (R432, R340). -/
structure Xfer where
  num : Nat
  mark : Option Nat
  deriving DecidableEq, Repr

/-- The Carbon link and this member's part in its pair, beside CB_STATUS. -/
structure Twin where
  lapsed : Bool := false           -- the lease has lapsed (R425)
  discarded : Bool := false        -- state given up for a resync that has not ended (R430)
  sendq : List CbRec := []         -- records that wait to be sent, oldest first
  txSeq : Nat := 0                 -- SEQ of the next frame
  rxSeq : Nat := 65535             -- SEQ of the last frame accepted
  replay : List (Nat × List Byte) := []  -- frames not acknowledged, by SEQ and bytes, oldest first
  resend : List (Nat × List Byte) := []  -- frames of a replay still to be sent
  txPart : List Byte := []         -- the rest of a record that spans into the next frame (R407)
  rxPart : List Byte := []         -- the bytes of a record of which more is to come
  credit : Nat := 128              -- receive buffers of the other side (R406)
  freed : Nat := 0                 -- own buffers freed since the last frame
  nakDue : Bool := false           -- the next frame carries NAK
  nakOpen : Bool := false          -- a NAK was sent and no replay has come
  naks : Nat := 0                  -- consecutive NAKs
  retraining : Bool := false
  retrains : List Nat := []        -- module times of retrains in the last second
  keep : Bool := false             -- the link is up again with a role kept, and no frame has come yet (R426)
  plog : List PLogEnt := []
  heldDelta : Option (Nat × DeltaRec) := none
  units : List UnitData := []      -- the standby's spare image
  sealedUnits : List UnitData := []  -- its sealed image
  sealedNum : Nat := 0
  pubSeal : Option SealRec := none -- a publication's SEAL whose COMMIT has not come (R428)
  ackHeld : Option SealRec := none -- a SEAL held for standby builds (R414)
  builds : List (Nat × Nat × Word × List SegData) := []  -- standby builds under way: job, table, step
  xfers : List Xfer := []
  fwMsgs : List (List Byte) := []  -- FIRMWARE records received (R407)
  rxBad : List Nat := []           -- lanes out of service: the first has the spare (R406)
  txBad : List Nat := []
  naksOut : Nat := 0               -- NAKs sent for the frame expected
  jheld : List UnitData := []      -- bytes of a resync for the own journal window, which stays readable until the end (R401)
  paired : Bool := false           -- PAIR was sent and is not answered
  ahead : Nat := 0                 -- ns by which a standby's count is ahead of its partner's (R46)
  restoring : Bool := false        -- a takeover restores the image (R428)
  folioAll : Bool := false         -- the next folio sends every unit (R418, R430)
  since : Word := 0                -- when the pairing, or module time, began (R423)
  faults : Nat := 0                -- local restarts and takeovers since pairing (R423)
  deriving DecidableEq, Repr

/-- An entry of the Settings Ledger (R514). -/
structure LedgerEnt where
  value : List Byte
  count : Nat
  deriving DecidableEq, Repr

/-- A log record of the Ledger (R517). -/
structure LogRec where
  seq : Nat
  entry : Nat
  writer : Nat
  count : Nat
  time : Word
  value : List Byte                -- 16 bytes
  chain : List Byte                -- 32 bytes
  deriving DecidableEq, Repr

/-- The firmware beside its registers. -/
structure Fw where
  slotA : Option FwImage := none   -- flash slots (R493)
  slotB : Option FwImage := none
  trying : Option Nat := none      -- the slot that the boot ROM reads
  tried : List Nat := []
  kicks : SMap Word := []          -- module time of the last kick of a copyist
  restarts : List Word := []       -- module times of restarts (R512)
  cause : Nat := 0                 -- cause of the restart under way (R509, R513)
  version : Word := 0              -- VERSION of the running image
  eventNo : Word := 0              -- events posted since boot
  kept : SMap Word := []           -- job settings that it keeps in Reservoir through a warm reset (R485, R549)
  inkLost : Bool := false          -- a warm reset has lost Inkwell contents that no save restores (R485)
  deferred : List Nat := []        -- rings served by the next turn, for round-robin (R500)
  prefDone : Bool := false         -- BOOT_PREF was written before the restart under way (R525)
  counts : List (List Byte × List (Nat × Nat)) := []  -- COUNTs read into the images of unloaded jobs, by handle (R327)
  deriving DecidableEq, Repr

/-- A message in the replay buffer of Lanine with the SEQ of its flit (R380); one message goes in a flit. -/
structure LanFlit where
  seq : Nat
  msg : Out
  bytes : List Byte                -- as it was sent (R376)
  deriving DecidableEq, Repr

/-- The Lanine link beside its registers. -/
structure Lan where
  rxSeq : Nat := 1023              -- SEQ of the last flit accepted (R379)
  txSeq : Nat := 0                 -- SEQ of the next flit
  replay : List LanFlit := []      -- flits not acknowledged, oldest first (R380)
  waiting : List Out := []         -- messages that wait for a credit or for the replay buffer, oldest first (R383)
  reqCr : Nat := 512               -- credits of the host's buffers: request headers, data lines, snoops, messages (R383)
  datCr : Nat := 256
  snpCr : Nat := 128
  msgCr : Nat := 64
  nakOpen : Bool := false          -- a NAK was sent and no replay has come
  naks : Nat := 0                  -- NAKs that the oldest flit has drawn (R380, R396)
  msgFails : Nat := 0              -- failures of R382 of the flit expected
  retrains : List Word := []       -- module times of retrains
  rxHot : List (Nat × Nat) := []   -- receive lanes over THRESH and for how many windows in succession (R397)
  txHot : List (Nat × Nat) := []
  rxBad : List Nat := []           -- lanes marked for sparing
  txBad : List Nat := []
  rxDead : List Nat := []          -- lanes out of service without a spare (R397)
  txDead : List Nat := []
  naksOut : Nat := 0               -- NAKs sent for the flit expected (R380)
  wire : List (List Byte) := []    -- flits of 256 B that the last sending put on the lanes, oldest first (R376)
  rxData : List Bool := []         -- data slots that the message under way still has, and whether their upper half must be 0 (R381)
  pgreq : List Nat := []           -- IDs of page requests without an answer (R392)
  pgres : List (Nat × Nat) := []   -- PAGE_DONE answers, ID and STATUS, oldest first
  intr : SMap Nat := []            -- entries pending for vector r (R395)
  deriving DecidableEq, Repr

/-! ### Faults, power, the management port, Ethernet -/

/-- A fill or fold that the Blotter has decided (R462, R466, R470). -/
structure FillItem where
  group : Nat
  logicals : List Nat              -- logical clusters that the failed slot carried
  fold : Bool
  deriving DecidableEq, Repr

/-- The Blotter beside its registers (R449 to R472). -/
structure Blot where
  fills : List FillItem := []      -- the one that runs first, then those that wait
  jobs : List (Nat × Nat × Nat) := []  -- jobs that wait to restart: job, detector code, record SEQ
  restoring : Bool := false        -- the image is being restored
  missed : List UnitId := []       -- units that missed the last heartbeat (R452)
  folds : SMap Nat := []           -- folds of a group so far (R466)
  clog : List (UnitId × Word) := []  -- time of the last class C record of a unit (R471)
  units : List UnitId := []        -- fenced units
  readTo : Nat := 0                -- records that firmware or manager have read past (R471)
  tags : SMap Nat := []            -- spare tag entries used, by the engine's unit word (R461)
  deriving DecidableEq, Repr

/-- The power-stage controller beside its registers (R473 to R490). -/
structure Power where
  low : SMap Nat := []             -- consecutive samples below threshold i, 1 to 5, and 6 for the reset level
  exitOk : Nat := 0                -- consecutive samples at or above the exit level of the present step
  high : Nat := 0                  -- consecutive samples of V_IN at or above 42.5 V
  ovp : Nat := 0                   -- consecutive samples above 61.0 V
  hot3 : Nat := 0                  -- consecutive temperature samples at 105 °C or more
  hot4 : Nat := 0
  cool : Nat := 0                  -- consecutive temperature samples with every sensor at 100 °C or less
  pins : List Nat := []            -- P_IN of the last samples in 0.1 W, newest first (R318)
  done : Nat := 0                  -- deepest ladder step whose actions have been performed (R482)
  saving : Bool := false           -- an Inkwell save runs (R483)
  saveDue : Bool := false          -- the emergency folio has been asked for and its seal starts the save
  target : SMap Nat := []          -- state that a switching domain moves to (R479)
  switchq : List (Nat × Nat) := [] -- changes that wait to start: domain and state (R35, R479, R480)
  started : Nat := 0               -- changes started since the last sample of R477 (R479)
  orderWarm : Bool := false        -- a warm reset ordered through FE_ORDER waits for its begin
  full : Bool := true              -- the next start is a full power-up: Reservoir holds nothing
  booting : Bool := false          -- between the start of a power-up or warm reset and the end of the self-test
  refLost : Bool := false          -- the reference is absent (R531)
  deriving DecidableEq, Repr

/-- A message under reassembly (R520). -/
structure MctpAsm where
  tag : Nat
  next : Nat                       -- sequence number of the next packet
  ty : Nat
  bytes : List Byte
  deriving DecidableEq, Repr

/-- A manager update (R525, R526). -/
structure MgrUpd where
  slot : Nat
  off : Nat                        -- bytes received
  img : Option FwImage             -- the whole image, once received
  deriving DecidableEq, Repr

/-- The management port beside its registers (R518 to R528). -/
structure Mgr where
  asm : List MctpAsm := []
  held : Nat := 0                  -- requests held, at most four
  ibi : Bool := false              -- in-band interrupts enabled by ENEC
  tid : Nat := 0                   -- PLDM terminus ID
  upd : Option MgrUpd := none
  protErr : Bool := false          -- a packet was dropped since the last GETSTATUS
  deriving DecidableEq, Repr

/-- A dyadic number num / 2 ^ exp. -/
structure Dyadic where
  num : Nat
  exp : Nat
  deriving DecidableEq, Repr

/-- A send entry that awaits acknowledgement (R438, R439). -/
structure QpEnt where
  opc : Nat
  psn : Nat                        -- PSN of its first packet
  packets : Nat
  done : Nat                       -- packets acknowledged or received
  len : Nat
  lva : Word
  rva : Word
  sig : Option Nat                 -- local mark handle
  deriving DecidableEq, Repr

/-- A queue pair beside its context in memory (R435 to R440). -/
structure QpRt where
  sent : List QpEnt := []          -- unacknowledged entries, oldest first
  taken : Nat := 0                 -- entries taken from the ring
  retries : Nat := 0
  rate : Dyadic := ⟨800, 0⟩        -- Gb/s (R440)
  alpha : Dyadic := ⟨1, 0⟩
  cnpAt : Option Word := none      -- time of the last CNP sent
  slices : List (Nat × SliceReq) := []  -- slice requests whose adjacency block is being read, by PSN (R443)
  waits : List SliceReq := []      -- slice requests for an edition that is not yet active (R293)
  deriving DecidableEq, Repr

/-- A data-parallel group as this member knows it (R441 to R445). -/
structure GroupRt where
  folioAt : Option Word := none    -- step S after which the group folio is taken
  forced : Bool := false           -- a forced source of this member has asked for it
  mine : Option (Nat × Word) := none  -- own folio of the group, sealed here: number and step
  mineImg : Option Image := none
  mineGen : Nat := 0               -- undo generation that began at its capture
  sealed : List (Nat × Nat × Word) := []  -- SEALED received: rank, folio, step
  last : Nat := 0                  -- own number of the last folio that all members have sealed
  img : Option Image := none       -- its image
  acks : Option (Nat × List Nat) := none  -- a restart to folio F: ranks that have rolled back
  deriving DecidableEq, Repr

/-- The state of the module. -/
structure State where
  pending : List Instr := []       -- the commands that wait, first in, first out
  free : Nat := 0                  -- the model's own: how many open values have been drawn
  time : Word := 0                 -- module time in ns (R46)
  cycScribe : Word := 0            -- SC_CYCLE of the control cores (R552)
  cycCopyist : Word := 0           -- SC_CYCLE of the copyists (R552)
  regs : SMap Word := []           -- the register file, where it differs from reset (R9 to R15)
  mem : List Host.Cell := []       -- Reservoir, Inkwell and Sheets by physical address (R543)
  poison : List Nat := []          -- poisoned words (R367)
  tlb : List TlbEntry := []
  ctxs : SMap Ctx := []            -- resident context s of core c at 2 c + s (R70)
  jobs : SMap Job := []
  marks : SMap MarkRt := []
  clu : SMap Cluster := []         -- the engines of logical cluster k
  dx : Ductus := {}
  sets : SMap CSet := []           -- set i of the data cache of core c at 128 c + i
  caches : SMap CacheRt := []      -- the caches of core c
  tiers : Tiers := {}
  hreqs : List HostReq := []       -- requests outstanding to host home (R384, R390)
  nbq : List NbReq := []           -- requests at the regions, in order of arrival (R246)
  parts : List NbPart := []        -- partials in the result buffers
  lgq : List (Nat × Nat) := []     -- gathers at the Ligatures by cluster and entry, in order of arrival (R262)
  nbFailed : List Nat := []        -- regions whose Nib engines failed a check (R255)
  hot : Hot := {}
  tables : SMap TableRt := []
  undo : SMap UndoRt := []
  pubq : List PubEnt := []         -- publication queues, each job's in order (R287)
  holds : List GenHold := []
  hdir : List DirEnt := []         -- host directory, most recently used first (R386)
  snoops : List Snoop := []
  out : List Out := []             -- messages sent, newest first
  rings : SMap Ring := []          -- ring pair r (R499)
  folio : FolioRt := {}
  sealedImg : Option Image := none  -- the last sealed folio (R420)
  twin : Twin := {}
  fw : Fw := {}
  ledger : SMap LedgerEnt := []    -- entries written, by number (R514)
  ledlog : List LogRec := []       -- oldest first
  lan : Lan := {}
  swaps : List OwnerSave := []     -- owner state held in owner save areas (R312)
  blot : Blot := {}
  power : Power := {}
  mgr : Mgr := {}
  qps : SMap QpRt := []            -- queue pair q
  groups : SMap GroupRt := []      -- group job j
  ingest : SMap (List Nat) := []   -- SEQs at or above PRODUCER that ring r holds (R447)
  reports : List Report := []      -- detector reports on their way to the Blotter (R450)
  events : List Event := []        -- events that wait for room in the ring, oldest first (R506, R507)
  deriving DecidableEq, Repr

/-- The machine right after a Ferrule island reset (R12, R46): every register at its reset value, every domain OFF,
no command waiting. -/
def State.reset : State := {}

end Sys2Proof.Machine
end

