-- ==== Sys2Proof/Machine/Ops.lean ====
section
/-! DEFINITION. The named operations over registers, memory, contexts and clusters, address translation, reports and
events, and the one operation that takes an exception (R10 to R15, R19, R70 to R72, R98 to R108, R358 to R368). -/

namespace Sys2Proof.Machine

/-! ### The register file -/

/-- A register of the file (R12). -/
def State.reg (s : State) (k : Nat) : Word := smapGet resetOf s.regs k

/-- The module sets a register. -/
def State.setReg (s : State) (k : Nat) (v : Word) : State := { s with regs := smapSet resetOf s.regs k v }

/-- The field [hi:lo] of a register. -/
def State.rfld (s : State) (k hi lo : Nat) : Nat := fld (s.reg k) hi lo

/-- The module sets a field of a register. -/
def State.setRfld (s : State) (k hi lo x : Nat) : State := s.setReg k (setFld (s.reg k) hi lo x)

/-- One bit of a register. -/
def State.rbit (s : State) (k n : Nat) : Bool := bitOf (s.reg k) n

/-- The module sets one bit of a register. -/
def State.setRbit (s : State) (k n : Nat) (b : Bool) : State := s.setReg k (setBit (s.reg k) n b)

/-- A counter counts up by `n`. -/
def State.bumpBy (s : State) (k n : Nat) : State := s.setReg k (s.reg k + BitVec.ofNat 64 n)

/-- A counter counts one event. -/
def State.bump (s : State) (k : Nat) : State := s.bumpBy k 1

/-- The value a software write of the whole register leaves: RW fields take it, W1C bits written 1 clear, every other bit
keeps its value and RSV bits store 0 (R12, R13). -/
def swWrite (d : RegDesc) (old v : Word) : Word :=
  let rw := BitVec.ofNat 64 d.rw
  let w1c := BitVec.ofNat 64 d.w1c
  (old &&& ~~~ rw &&& ~~~ (w1c &&& v)) ||| (v &&& rw)

/-- A plain software write of a register: its access codes applied and nothing else (R12). -/
def State.swReg (s : State) (k : Nat) (v : Word) : State :=
  match regAt k with
  | some (d, _, _) => s.setReg k (swWrite d (s.reg k) v)
  | none => s

/-- Draw a fresh free word: the n-th value the spec leaves open. -/
def State.draw (s : State) : Word × State := (Config.freeWord s.free, { s with free := s.free + 1 })

/-- A counter of events that depend on timing alone takes a free increase. -/
def State.bumpFree (s : State) (k : Nat) : State :=
  let (w, t) := s.draw
  t.setReg k (t.reg k + w)

/-- Count a number of events that the spec bounds and does not fix. -/
def State.bumpUpTo (s : State) (k bound : Nat) : State :=
  if bound = 0 then s
  else
    let (w, t) := s.draw
    t.bumpBy k (w.toNat % (bound + 1))

/-- The effective shed step (PW_STATUS.STEP). -/
def State.shed (s : State) : Nat := s.rfld regPwStatus 4 2

/-- May the island begin a write: V_HU at 30.5 V or more (R486)? -/
def State.ledPower (s : State) : Bool := decide (s.rfld regPwInput 63 48 ≥ 3050)

/-! ### Contexts, jobs, clusters -/

/-- The number of a context. -/
def hartKey (h : Hart) : Nat := 2 * h.core + h.ctx % 2

def State.ctx (s : State) (h : Hart) : Ctx := smapGet (fun _ => {}) s.ctxs (hartKey h)
def State.setCtx (s : State) (h : Hart) (c : Ctx) : State :=
  { s with ctxs := smapSet (fun _ => {}) s.ctxs (hartKey h) c }
def State.modCtx (s : State) (h : Hart) (f : Ctx → Ctx) : State := s.setCtx h (f (s.ctx h))
def State.job (s : State) (j : Nat) : Job := smapGet (fun _ => {}) s.jobs j
def State.setJob (s : State) (j : Nat) (x : Job) : State := { s with jobs := smapSet (fun _ => {}) s.jobs j x }
def State.cl (s : State) (k : Nat) : Cluster := smapGet (fun _ => {}) s.clu k
def State.setCl (s : State) (k : Nat) (c : Cluster) : State := { s with clu := smapSet (fun _ => {}) s.clu k c }
def State.modCl (s : State) (k : Nat) (f : Cluster → Cluster) : State := s.setCl k (f (s.cl k))
def State.markRt (s : State) (n : Nat) : MarkRt := smapGet (fun _ => {}) s.marks n
def State.setMarkRt (s : State) (n : Nat) (m : MarkRt) : State :=
  { s with marks := smapSet (fun _ => {}) s.marks n m }
def State.cache (s : State) (c : Nat) : CacheRt := smapGet (fun _ => {}) s.caches c
def State.setCache (s : State) (c : Nat) (x : CacheRt) : State :=
  { s with caches := smapSet (fun _ => {}) s.caches c x }

/-- Cores from 128 up are the copyists (R491). -/
def isCopyist (core : Nat) : Bool := decide (128 ≤ core)

/-- The slot of its group that carries logical cluster k (R19). -/
def State.slotOf (s : State) (k : Nat) : Nat := (s.reg (regScGroupMap (k / 8)) >>> (4 * (k % 8))).toNat % 16

/-- The physical cluster that carries logical cluster k (R19). -/
def State.phys (s : State) (k : Nat) : Nat := 9 * (k / 8) + s.slotOf k

/-- The logical cluster that a physical cluster carries, the lowest when two are folded onto it. -/
def State.logicalOf (s : State) (p : Nat) : Option Nat :=
  ((upto 8).map (fun i => 8 * (p / 9) + i)).find? (fun k => s.phys k == p)

/-- The state of a power domain: 0 OFF, 1 ON-ISOLATED, 2 ON-JOINED, 3 switching (R33). -/
def State.dom (s : State) (d : Nat) : Nat := s.rfld (regPwDomst (d / 32)) (2 * (d % 32) + 1) (2 * (d % 32))
def State.setDom (s : State) (d x : Nat) : State :=
  s.setRfld (regPwDomst (d / 32)) (2 * (d % 32) + 1) (2 * (d % 32)) x
def State.joined (s : State) (d : Nat) : Bool := s.dom d == 2

/-- Is the physical cluster fenced (R457)? -/
def State.fenced (s : State) (p : Nat) : Bool := s.rbit (if p < 64 then regBlFenced0 else if p < 128 then regBlFenced1 else regBlFenced2) (p % 64)

/-- The fold that a logical cluster takes part in (R321). -/
def State.foldOf (s : State) (k : Nat) : Option Fold := s.dx.folds.find? (fun f => f.host == k || f.guest == k)

/-- Is a logical cluster served by its slot now (R321)? -/
def State.active (s : State) (k : Nat) : Bool :=
  match s.foldOf k with
  | some f => f.active == k && !f.swapping
  | none => true

/-- May a core issue: its domain is joined, its cluster is not fenced and is being served (R33, R321, R457); a firmware restart
holds the copyists in reset (R509). -/
def State.coreLive (s : State) (core : Nat) : Bool :=
  if isCopyist core then s.joined (163 + (core - 128)) && !s.rbit regFwStatus 5
  else s.joined (s.phys core) && !s.fenced (s.phys core) && s.active core

/-- The power domain that a core's window registers are kept under: its physical cluster. -/
def State.winOf (s : State) (k : Nat) : Nat := s.phys k

/-- The CC_ register of a core at an offset (R545, R546). -/
def State.ccKey (s : State) (core off : Nat) : Nat :=
  if isCopyist core then 0x2000000 + 0x1000 * (core - 128) + off else winKey (s.phys core) (0x5000 + off)

/-! ### Registers of a context -/

/-- A0 reads 0 (Registers of chapter 3). -/
def Ctx.getA (c : Ctx) (r : Nat) : Word := if r = 0 then 0 else smapGet (fun _ => 0) c.a r
/-- A write to A0 is discarded. -/
def Ctx.setA (c : Ctx) (r : Nat) (v : Word) : Ctx :=
  if r = 0 then c else { c with a := smapSet (fun _ => 0) c.a r v }
/-- M0 reads all ones. -/
def Ctx.getM (c : Ctx) (r : Nat) : Word := if r = 0 then BitVec.allOnes 64 else smapGet (fun _ => 0) c.m r
/-- A write to M0 is discarded. -/
def Ctx.setM (c : Ctx) (r : Nat) (v : Word) : Ctx :=
  if r = 0 then c else { c with m := smapSet (fun _ => 0) c.m r v }
def Ctx.getV (c : Ctx) (r l : Nat) : Lane := smapGet (fun _ => 0) c.v (64 * r + l)
def Ctx.setV (c : Ctx) (r l : Nat) (x : Lane) : Ctx := { c with v := smapSet (fun _ => 0) c.v (64 * r + l) x }
/-- A descriptor slot: no bytes while it is empty (R89). -/
def Ctx.getSd (c : Ctx) (r : Nat) : List Byte := smapGet (fun _ => []) c.sd r
def Ctx.setSd (c : Ctx) (r : Nat) (b : List Byte) : Ctx := { c with sd := smapSet (fun _ => []) c.sd r b }

/-- The pc is 48 bits wide (Registers of chapter 3): a JALR target, SC_XPC and SC_XVEC lose the bits above it (DESIGN CHOICE,
log 81). -/
def pc48 (v : Word) : Word := v &&& 0xFFFFFFFFFFFF#64
/-- The task goes on at an address. -/
def Ctx.goto (c : Ctx) (t : Word) : Ctx := { c with pc := pc48 t, run := .ready, yields := false }
/-- The next instruction of the task. -/
def Ctx.next (c : Ctx) : Ctx := c.goto (c.pc + 8)

/-- SC_TASKID (R97): the identity of the running task. -/
def taskId (h : Hart) (c : Ctx) : Word :=
  BitVec.ofNat 64 (h.core * 2 ^ 40 + c.task.job % 16 * 2 ^ 36 + b2n c.task.fair * 2 ^ 35 + h.ctx * 2 ^ 34 + c.task.num % 2 ^ 32)

def ownerOf (h : Hart) (c : Ctx) : Owner := ⟨c.task.job, c.task.num, h⟩
/-- Do two owners name the same task? -/
def Owner.same (a b : Owner) : Bool := a.job == b.job && a.num == b.num

/-! ### Memory -/

/-- What an address of device physical space holds (R543, R544, R358). -/
inductive Place where
  | reservoir
  | inkwell (k off : Nat)
  | sheet (k off : Nat)
  | regs (off : Nat)
  | hole
  deriving DecidableEq, Repr

/-- The address map of R543. -/
def placeOf (pa : Nat) : Place :=
  if pa < 0x10000000000 then .reservoir
  else if pa < 0x10100000000 then
    let o := pa - 0x10000000000
    if o % 0x2000000 < 0x1800000 then .inkwell (o / 0x2000000) (o % 0x2000000) else .hole
  else if 0x11000000000 ≤ pa ∧ pa < 0x11010000000 then
    let o := pa - 0x11000000000
    if o % 0x200000 < 0x180000 then .sheet (o / 0x200000) (o % 0x200000) else .hole
  else if 0x1F000000000 ≤ pa ∧ pa < 0x1F010000000 then .regs (pa - 0x1F000000000)
  else .hole

def sheetBase (k : Nat) : Nat := 0x11000000000 + k * 0x200000
def inkwellBase (k : Nat) : Nat := 0x10000000000 + k * 0x2000000

/-- What a byte that nothing has written reads as (DESIGN CHOICE, log 2). -/
def emptyByte (_ : Nat) : Byte := 0#8

/-- The canonical form of memory: addresses strictly rising, no entry equal to what an unlisted address reads as. -/
abbrev Memory.wf (m : List Host.Cell) : Prop := SMapWf emptyByte m

/-- One byte of memory. -/
def State.rd (s : State) (pa : Nat) : Byte := smapGet emptyByte s.mem pa

/-- Write one byte of memory. -/
def State.wr (s : State) (pa : Nat) (b : Byte) : State := { s with mem := smapSet emptyByte s.mem pa b }

/-- `n` bytes of memory. -/
def State.rdN (s : State) (pa n : Nat) : List Byte := (upto n).map (fun i => s.rd (pa + i))

/-- Write bytes to memory; poison is left as it is. -/
def State.wrRaw (s : State) (pa : Nat) : List Byte → State
  | [] => s
  | b :: r => (s.wr pa b).wrRaw (pa + 1) r

/-- A little-endian number in memory. -/
def State.rdLe (s : State) (pa n : Nat) : Nat := leNat (s.rdN pa n)

/-- Is a word of the range poisoned (R367)? -/
def State.poisoned (s : State) (pa n : Nat) : Bool := s.poison.any (fun w => overlap pa n w 8)

/-- The first poisoned word of a range. -/
def State.firstPoison (s : State) (pa n : Nat) : Option Nat := s.poison.find? (fun w => overlap pa n w 8)

/-- Write bytes to memory: a write of a whole 8 B word clears its poison, a shorter one leaves it (R366, R367). -/
def State.wrN (s : State) (pa : Nat) (bs : List Byte) : State :=
  let t := s.wrRaw pa bs
  { t with poison := t.poison.filter (fun w => !(decide (pa ≤ w ∧ w + 8 ≤ pa + bs.length))) }

/-- Poison a word (R367). -/
def State.addPoison (s : State) (w : Nat) : State :=
  if s.poison.contains w then s else { s with poison := w :: s.poison }

/-- The group that serves a Reservoir address (R363). -/
def rvGroup (pa : Nat) : Nat :=
  ((pa >>> 8) % 16) ^^^ ((pa >>> 16) % 16) ^^^ ((pa >>> 24) % 16) ^^^ ((pa >>> 32) % 16)
def rvBank (pa : Nat) : Nat := ((pa >>> 12) % 16) ^^^ ((pa >>> 20) % 16)
def rvRow (pa : Nat) : Nat := pa >>> 21
/-- The bank group and bank of a region offset (R359). -/
def iwBankGroup (off : Nat) : Nat := ((off >>> 12) % 8) ^^^ ((off >>> 15) % 8) ^^^ ((off >>> 18) % 8)
def iwBank (off : Nat) : Nat := (off >>> 15) % 16

/-! ### Load counts (R263) -/

def State.modHot (s : State) (f : Hot → Hot) : State := { s with hot := f s.hot }

/-- Add to a count. -/
def addAt (m : SMap Nat) (k n : Nat) : SMap Nat := smapSet (fun _ => 0) m k (smapGet (fun _ => 0) m k + n)

/-- A range cut at multiples of 256 B: Reservoir slots, which no bank-group granule splits (R359, R362). -/
def slotCuts (pa n : Nat) : List (Nat × Nat) :=
  if n = 0 then [] else
    (upto ((pa % 256 + n + 255) / 256)).map (fun i =>
      let lo := if i = 0 then pa else alignDown pa 256 + 256 * i
      (lo, min (pa + n) (alignDown pa 256 + 256 * (i + 1)) - lo))

/-- Bytes read or written in one slot's span: at its bank group, or as one burst of 256 B on a Reservoir group, whose four channels carry
equal shares (R118, R263, R360, R362). -/
def Hot.count (h : Hot) (pa n : Nat) : Hot :=
  match placeOf pa with
  | .inkwell k off => { h with bg := addAt h.bg (8 * k + iwBankGroup off) n }
  | .reservoir => { h with ch := (upto 4).foldl (fun m i => addAt m (4 * rvGroup pa + i) 64) h.ch }
  | _ => h

/-- Bytes moved at a memory range count where each of them lies (R263). -/
def State.countLoad (s : State) (pa n : Nat) : State := s.modHot (fun h => (slotCuts pa n).foldl (fun h p => h.count p.1 p.2) h)

/-! ### Reports and events -/

/-- The unit number of the UNIT field of R471. -/
def unitWord (u : UnitId) : Nat := u.kind * 4096 + u.index

/-- A detector reports to the Blotter (R450); BLOTTER_REPORT takes it there. -/
def State.report (s : State) (r : Report) : State := { s with reports := s.reports ++ [r] }

/-- The unit that holds a word (R471): the cluster-region of an Inkwell word, the group of a Reservoir word. -/
def State.wordUnit (s : State) (pa : Nat) : UnitId :=
  match placeOf pa with
  | .inkwell k _ => ⟨0, s.phys k⟩
  | .sheet k _ => ⟨0, s.phys k⟩
  | _ => ⟨4, rvGroup pa⟩

/-- A demand read meets a poisoned word: counted, shown and reported with its requester (R368, R471). -/
def State.poisonedRead (s : State) (pa : Nat) (who : UnitId) (job : Nat) : State :=
  let t := match placeOf pa with
    | .inkwell k off =>
      let p := s.phys k
      (s.bump (regIwPoisonRd p)).setReg (regIwErraddr p) (BitVec.ofNat 64 (3 * 2 ^ 62 + alignDown off 8))
    | _ =>
      let i := rvGroup pa / 4
      (s.bump (regRvPoisonRd i)).setReg (regRvErraddr i) (BitVec.ofNat 64 (3 * 2 ^ 62 + alignDown pa 8))
  t.report ⟨0x0B, s.wordUnit pa, alignDown pa 8, BitVec.ofNat 64 (unitWord who), some job, false⟩

/-- Post an event for the completion ring of pair 0 (R506, R507): only WAIT_HANG and QP_ERROR are dropped when the queue
of 65,536 is full. -/
def State.post (s : State) (e : Event) : State :=
  if s.events.length ≥ 65536 ∧ (e.code = 4 ∨ e.code = 5) then s.bump regFwEvtDrop
  else { s with events := s.events ++ [e] }.bump regFwEvents

/-- The 32 RESULT bytes of an event: pieces at their offsets. -/
def resultBytes (parts : List (Nat × List Byte)) : List Byte :=
  parts.foldl (fun acc p => acc.take p.1 ++ p.2 ++ acc.drop (p.1 + p.2.length)) (List.replicate 32 0#8)

/-! ### Address translation -/

/-- What a translation gives (R98, R99). -/
inductive Tr where
  | ok (pa : Nat) (host : Bool)
  | pageFault
  | access
  | poisoned (pa : Nat)
  deriving DecidableEq, Repr

/-- The bytes a leaf at a level maps; level 0 has none (R98). -/
def pageSize (level : Nat) : Nat := 2 ^ (39 - 9 * level)

/-- The reserved bits of a page-table entry (R98). -/
def pteReserved : Word := 0xFF7F000000000F02#64

/-- May the page be accessed in this way? -/
def ptePerm (pte : Word) : AccKind → Bool
  | .load => bitOf pte 2
  | .store => bitOf pte 3
  | .fetch => bitOf pte 4
  | .either => bitOf pte 2 || bitOf pte 3
  | .both => bitOf pte 2 && bitOf pte 3

/-- What a walk finds: a leaf entry with its place and the size of its page. -/
inductive Walk where
  | leaf (addr : Nat) (pte : Word) (size : Nat)
  | fault
  | poisoned (pa : Nat)
  deriving DecidableEq, Repr

/-- The walk of four levels (R98, R99). `n` levels are left. -/
def State.walk (s : State) (va : Nat) : Nat → Nat → Walk
  | 0, _ => .fault
  | n + 1, table =>
    let level := 3 - n
    let addr := table + 8 * ((va >>> (39 - 9 * level)) % 512)
    if s.poisoned addr 8 then .poisoned addr
    else
      let pte := BitVec.ofNat 64 (s.rdLe addr 8)
      if !bitOf pte 0 || decide (pte &&& pteReserved ≠ 0) then .fault
      else if bitOf pte 7 then
        if level = 0 then .fault
        else if (fld pte 47 12 * 4096) % pageSize level ≠ 0 then .fault
        else .leaf addr pte (pageSize level)
      else s.walk va n (fld pte 47 12 * 4096)

/-! ### Stopping a job and taking an exception -/

/-- Remove the waits of contexts from every mark (R324). -/
def State.dropWaits (s : State) (gone : Hart → Bool) : State :=
  let keep : MarkOp → Bool
    | .wait h _ _ => !gone h
    | .waitDec h _ _ => !gone h
    | _ => true
  { s with marks := smapMap (fun _ => {}) (fun _ m =>
      { inflight := m.inflight.filter (fun u => keep u.op), waits := m.waits.filter keep }) s.marks }

/-- The Quill operations of a cluster that have not completed: under way in the units, and in the command queue (R162). -/
def Quill.ops (q : Quill) : List QlOp := q.weight.toList ++ q.array.toList ++ q.drain.toList ++ q.queue

/-- The Stipple operations of a cluster that have not completed (R230). -/
def Stipple.ops (q : Stipple) : List SpOp := q.load.toList ++ q.lanes.toList ++ q.port.toList ++ q.comp.toList ++ q.queue

/-- The engines of a cluster after every operation of some tasks is cancelled and its results discarded (R105, R324); `lost` names the
contexts of those tasks. -/
def Cluster.drop (c : Cluster) (gone : Owner → Bool) (lost : Hart → Bool) : Cluster :=
  { c with
    sk := c.sk.filter (fun o => !gone o.own)
    halfOwner := c.halfOwner.filter (fun o => !gone o)
    swap := c.swap.filter (fun h => !lost h)
    cancel := c.cancel.filter (fun x => !lost x.1)
    ql := { c.ql with
      queue := c.ql.queue.filter (fun o => !gone o.own)
      weight := c.ql.weight.filter (fun o => !gone o.own)
      array := c.ql.array.filter (fun o => !gone o.own)
      drain := c.ql.drain.filter (fun o => !gone o.own)
      owner := c.ql.owner.filter (fun o => !gone o) }
    br := c.br.filter (fun o => !gone o.own)
    sp := { c.sp with
      queue := c.sp.queue.filter (fun o => !gone o.own)
      owner := c.sp.owner.filter (fun o => !gone o)
      load := c.sp.load.filter (fun o => !gone o.own)
      lanes := c.sp.lanes.filter (fun o => !gone o.own)
      port := c.sp.port.filter (fun o => !gone o.own)
      comp := c.sp.comp.filter (fun o => !gone o.own)
      repair := if (c.sp.lanes.filter (fun o => !gone o.own)).isSome then c.sp.repair else []
      repairing := (c.sp.lanes.filter (fun o => !gone o.own)).isSome && c.sp.repairing } }

/-- Discard every task of a job: resident, saved, queued or delayed, its engine operations and ownerships (R105, R324). -/
def State.dropTasks (s : State) (j : Nat) : State :=
  let lost (h : Hart) : Bool := (s.ctx h).run ≠ .idle && (s.ctx h).task.job == j
  let t := s.dropWaits lost
  { t with
    ctxs := smapMap (fun _ => {}) (fun _ c => if c.run ≠ .idle ∧ c.task.job = j then {} else c) t.ctxs
    clu := smapMap (fun _ => {}) (fun _ c => c.drop (fun o => o.job == j) lost) t.clu
    dx := { t.dx with
      buf := t.dx.buf.filter (fun x => x.job != j)
      stalled := t.dx.stalled.filter (fun x => decide (128 ≤ x ∧ x < 192) || t.dx.buf.any (fun y => y.job != j && y.src == x))
      devq := t.dx.devq.filter (fun x => x.job != j)
      expired := t.dx.expired.filter (fun x => x.job != j)
      spill := t.dx.spill.filter (fun x => x.job != j)
      clq := t.dx.clq.filter (fun x => x.job != j)
      delay := t.dx.delay.filter (fun d => match d.what with
        | .spawn x => x.job != j
        | .sleeper r => match smapGet (fun _ => none) t.dx.saved (4 * d.cluster + r) with
          | some sv => sv.ctx.task.job != j
          | none => false)
      saved := smapMap (fun _ => none) (fun _ r => r.filter (fun sv => sv.ctx.task.job != j)) t.dx.saved
      restored := t.dx.restored.filter (fun c => c.task.job != j)
      steps := (t.dx.steps.filter (fun r => r.job != j || r.csn.isSome)).map (fun r => if r.job = j then { r with gone := true } else r) }
    swaps := t.swaps.filter (fun x => x.own.job != j) }

/-- The staging editions of a job are discarded: their segments are freed and the dirty bits they cleared are set again
(R286). -/
def TableRt.discard (t : TableRt) : TableRt :=
  let back := (t.slots.filter (fun e => e.role = .staging)).flatMap (fun e => e.cleared)
  { t with slots := t.slots.filter (fun e => e.role ≠ .staging)
           dirty := t.dirty ++ back.filter (fun x => !t.dirty.contains x)
           build := none }

/-- Every pin of a job ends (R271). -/
def State.endPins (s : State) (j : Nat) : State :=
  let t : State := { s with hot := { s.hot with ents := (s.hot.ents.filter (fun e => !(e.lost && e.pin == some j))).map (fun e =>
    { e with pin := e.pin.filter (fun i => i != j), due := e.due && e.pin != some j
             pend := e.pend.map (fun p => { p with pin := p.pin.filter (fun i => i != j) }) }) } }
  t.setRfld (regHmPinq j) 47 32 0

/-- Is a task of a job loaded: is the job loaded (R550)? -/
def State.tasksIn (s : State) (j : Nat) : Bool := (s.job j).loaded

/-- Requests, partials and publications whose operation is gone (R105, R254). -/
def State.dropNear (s : State) : State :=
  let live (c n : Nat) : Bool := (s.cl c).sk.any (fun o => o.n == n)
  { s with nbq := s.nbq.filter (fun r => live r.c r.n)
           parts := s.parts.filter (fun p => live p.c p.n)
           hreqs := s.hreqs.filter (fun r => match r.who with
             | .stroke k n => live k n
             | _ => true) }

/-- A stop under R105: the job's tasks end, its operations are cancelled, TAINT clears (R335), and JOB_STOPPED is
posted with the exception code, SC_XVAL and the task. -/
def State.stopJob (s : State) (j : Nat) (code : Nat) (xval tid : Word) : State :=
  let u := ((s.dropTasks j).dropNear).endPins j
  let t : State := { u with
    tables := smapMap (fun _ => {}) (fun k t => if k / 4096 = j then t.discard else t) u.tables
    pubq := u.pubq.filter (fun p => p.job != j || p.task.isNone) }
  let t := t.setRbit (regMkJobstat j) 0 false
  (t.setJob j { t.job j with stopped := true }).post
    ⟨2, j, 0, 0, resultBytes [(0, leBytes 1 code), (8, leBytes 8 xval.toNat), (16, leBytes 8 tid.toNat)]⟩

/-- The value of SC_XCAUSE (R97). -/
def xcauseWord (code : XCode) (trap eng : Nat) : Word :=
  BitVec.ofNat 64 ((if code = .engine then 2 ^ 63 else 0) + eng * 2 ^ 32 + trap * 2 ^ 16 + code.num)

/-- ALERT_N is asserted while an enabled bit of FE_ALERT is set (R528). -/
def State.alertOn (s : State) : Bool := s.reg regFeAlert &&& s.reg regFeAlerten ≠ 0

/-- A change of FE_ALERT or FE_ALERTEN drives ALERT_N; where the enabled set rises from empty, one in-band interrupt goes out if
ENEC has enabled it (R528; that the set rises as a whole is DEDUCED, log 44). -/
def State.alertMove (s : State) (g : State → State) : State :=
  let t := g s
  let u := t.setRbit regFePins 9 t.alertOn
  if u.mgr.ibi && !s.alertOn && t.alertOn then { u with out := ⟨.i3c, 0x02, [], []⟩ :: u.out } else u

/-- An event sets its FE_ALERT bit (R528). -/
def State.alert (s : State) (b : Nat) : State := s.alertMove (fun s => s.setRbit regFeAlert b true)

/-- The firmware crashes: its working copyists are held in reset, and everything it was running on them is gone (R509, R510). -/
def State.fwHalt (s : State) (cause : Nat) : State :=
  let t := (s.setRbit regFwStatus 5 true).setRbit regFwStatus 0 false
  ({ t with fw := { t.fw with cause := cause }, ctxs := t.ctxs.filter (fun x => decide (x.1 < 256)) } : State).alert 4

/-- The number under which the copyists' shared exception vector is kept: the firmware is no job (DESIGN CHOICE, log 38). -/
def fwJob : Nat := 16

/-- Handler entry, or the stop of the job where there is no handler or one is active (R101 to R105). The firmware has no job to
stop: a trap without a handler is its crash, cause 4 (R509). -/
def State.enter (s : State) (h : Hart) (code : XCode) (val : Word) (trap eng : Nat) : State :=
  let c := s.ctx h
  let vec := (s.job c.task.job).xvec
  if vec = 0 ∨ c.xactive = true then
    if isCopyist h.core then s.fwHalt 4 else s.stopJob c.task.job code.num val (taskId h c)
  else s.setCtx h { c with
    xpc := c.pc, xcause := xcauseWord code trap eng, xval := val, xactive := true, pc := pc48 vec, run := .ready }

/-- Taking an exception at the instruction the context stands on (R101 to R105): a page fault suspends the task for the
firmware, a break halts it for an attached debugger, every other exception enters the handler. -/
def State.raise (s : State) (h : Hart) (code : XCode) (val : Word) : State :=
  match code with
  | .brk => if (s.job (s.ctx h).task.job).debug then s.modCtx h (fun c => { c with run := .halted })
            else s.enter h .brk val 0 0
  | c => s.enter h c val 0 0

/-- A page fault of a core access (R104). -/
def State.pageFault (s : State) (h : Hart) (va : Word) (store : Bool) : State :=
  s.modCtx h (fun c => { c with run := .suspended va store })

/-- Return from the handler (R95, R96). -/
def State.retx (s : State) (h : Hart) : State :=
  s.modCtx h (fun c => { (c.goto c.xpc) with xactive := false })

/-- Change the context of a task of a cluster, resident or saved. -/
def State.modTask (s : State) (k : Nat) (o : Owner) (f : Ctx → Ctx) : State :=
  let mine (c : Ctx) : Bool := c.run ≠ .idle && c.task.job == o.job && c.task.num == o.num
  if mine (s.ctx ⟨k, 0⟩) then s.modCtx ⟨k, 0⟩ f
  else if mine (s.ctx ⟨k, 1⟩) then s.modCtx ⟨k, 1⟩ f
  else { s with dx := { s.dx with
    restored := s.dx.restored.map (fun c => if c.task.target = k ∧ c.task.job = o.job ∧ c.task.num = o.num then f c else c)
    saved := smapMap (fun _ => none) (fun i r =>
      if i / 4 = k then r.map (fun sv =>
        if sv.ctx.task.job = o.job ∧ sv.ctx.task.num = o.num then { sv with ctx := f sv.ctx } else sv) else r) s.dx.saved } }

/-- The first due report is raised as ENGINE (R103). -/
def State.takeReport (s : State) (h : Hart) (r : EngReport) (rest : List EngReport) : State :=
  (s.modCtx h (fun c => { c with reports := rest })).enter h .engine r.val 0 r.group

/-- An engine report for a task: raised as ENGINE at an instruction boundary of the task (R103). -/
def State.engReport (s : State) (k : Nat) (o : Owner) (group : Nat) (val : Word) : State :=
  s.modTask k o (fun c => { c with reports := c.reports ++ [⟨group, val⟩] })

end Sys2Proof.Machine
end

