-- ==== Sys2Proof/Machine/Operands.lean ====
section
/-! DEFINITION. Instruction words put together again from their fields, the checks of R75 on them, and the one way in which
a control core issues an instruction (R71 to R77, R106, R195, R319). -/

namespace Sys2Proof.Machine

/-! ### Words and field checks (R74, R75) -/

/-- The Form T word of a group and op. -/
def wordT (group op : Nat) (f : FormT) : Word :=
  BitVec.ofNat 64 (group * 2 ^ 59 + op * 2 ^ 52 + f.dst.toNat * 2 ^ 46 + f.src1.toNat * 2 ^ 40 + f.src2.toNat * 2 ^ 34
    + f.mask.toNat * 2 ^ 30 + f.ext.toNat)

/-- The Form K word of a group and op. -/
def wordK (group op : Nat) (f : FormK) : Word :=
  BitVec.ofNat 64 (group * 2 ^ 59 + op * 2 ^ 53 + f.dst.toNat * 2 ^ 47 + f.src.toNat * 2 ^ 41 + f.mask.toNat * 2 ^ 37
    + f.ctl.toNat * 2 ^ 32 + f.imm.toNat)

/-- The Form D word of a group and op. -/
def wordD (group op : Nat) (f : FormD) : Word :=
  BitVec.ofNat 64 (group * 2 ^ 59 + op * 2 ^ 53 + f.slot.toNat * 2 ^ 49 + f.queue.toNat * 2 ^ 46 + f.mark.toNat * 2 ^ 36
    + f.areg.toNat * 2 ^ 30 + f.mask.toNat * 2 ^ 26 + f.sig.toNat * 2 ^ 25 + f.ctl.toNat * 2 ^ 20 + f.imm.toNat)

/-- A field names an A register: 0 to 31 (R75). -/
def isA (r : BitVec 6) : Bool := decide (r.toNat < 32)
/-- A field names an M register or a descriptor slot: 0 to 15 (R75). -/
def isM (r : BitVec 6) : Bool := decide (r.toNat < 16)
/-- A field that is not used is 0 (R75). -/
def isZ {n : Nat} (x : BitVec n) : Bool := decide (x = 0)

/-- The field [hi:lo] of an ext or ctl value. -/
def exf {n : Nat} (x : BitVec n) (hi lo : Nat) : Nat := (x.toNat >>> lo) % 2 ^ (hi - lo + 1)

/-- Every bit of `x` outside the mask is 0. -/
def onlyBits {n : Nat} (x : BitVec n) (mask : Nat) : Bool := decide (x &&& ~~~ BitVec.ofNat n mask = 0)

/-- The bits of the field [hi:lo] as a number. -/
def bitsOf (hi lo : Nat) : Nat := (2 ^ (hi - lo + 1) - 1) <<< lo

/-! ### The scoreboard (R72, R195) -/

/-- The A register that a Brush or reduction operation writes. -/
def BrOp.writesA (o : BrOp) : Option Nat :=
  if (o.group = 0x0D ∧ o.op = 0x04) ∨ (o.group = 0x0F ∧ (o.op ≤ 3 ∨ o.op = 5 ∨ o.op = 9)) then some o.dst else none
/-- The M register that a Brush operation writes. -/
def BrOp.writesM (o : BrOp) : Option Nat :=
  if o.group = 0x0C ∧ 0x18 ≤ o.op ∧ o.op ≤ 0x1A then some o.dst else none
/-- The A register that a Stipple operation writes. -/
def SpOp.writesA (o : SpOp) : Option Nat :=
  match o.kind with
  | .drain dst _ _ _ _ _ _ _ _ _ => if dst = 0 then none else some dst
  | .cmp dst _ _ _ _ _ _ _ => some dst
  | _ => none

/-- The A registers of a context that results under way hold. -/
def State.heldA (s : State) (h : Hart) : List Nat :=
  (((s.cl h.core).br.filter (fun o => o.own.hart == h)).filterMap BrOp.writesA) ++
  (((s.cl h.core).sp.ops.filter (fun o => o.own.same (ownerOf h (s.ctx h)))).filterMap SpOp.writesA)
/-- The M registers of a context that results under way hold. -/
def State.heldM (s : State) (h : Hart) : List Nat :=
  ((s.cl h.core).br.filter (fun o => o.own.hart == h)).filterMap BrOp.writesM

/-- None of these registers is held: A0 and M0 never are. -/
def State.regsFree (s : State) (h : Hart) (as ms : List Nat) : Bool :=
  as.all (fun r => r == 0 || !(s.heldA h).contains r) && ms.all (fun r => r == 0 || !(s.heldM h).contains r)

/-! ### Issue -/

/-- Does a task outrank another (R307)? -/
def outranks (a : Task) (ares : Bool) (b : Task) (bres : Bool) : Bool :=
  if a.fair ≠ b.fair then a.fair
  else if a.prio ≠ b.prio then decide (b.prio < a.prio)
  else if ares ≠ bres then ares
  else decide (a.arrival < b.arrival)

/-- Could the context issue by itself: it holds a ready task, its core runs, no folio stop or fence holds it, and the governor has
not stopped Draft issue (R70, R104, R318, R319, R323, R457). -/
def State.canRun (s : State) (h : Hart) : Bool :=
  decide ((s.ctx h).run = .ready) && s.coreLive h.core && (isCopyist h.core || !s.dx.stopped) && !(s.job (s.ctx h).task.job).held
    && ((s.ctx h).task.fair || isCopyist h.core || !(s.dx.gov.pstop || s.dx.gov.hot))

/-- The other resident context of a core. -/
def otherHart (h : Hart) : Hart := ⟨h.core, 1 - h.ctx % 2⟩

/-- Does the other resident context keep the core: it could issue, outranks this one, and stands on no instruction that waits
(R308; log 72)? -/
def State.outranked (s : State) (h : Hart) : Bool :=
  s.canRun (otherHart h) && !(s.ctx (otherHart h)).yields && outranks (s.ctx (otherHart h)).task true (s.ctx h).task true

/-- May the context issue now: it could, no report of an engine is due at this boundary (R103), and the other resident context
does not keep the core (R308). -/
def State.canIssue (s : State) (h : Hart) : Bool := s.canRun h && (s.ctx h).reports.isEmpty && !s.outranked h

/-- The instruction waits: it has had no effect, the other resident context may issue, and it executes again (R107, R308). -/
def State.waits (s : State) (h : Hart) : State := s.modCtx h (fun c => { c with yields := true })

/-- Is the predicate on: bit 0 of the mask register (R76)? -/
def State.predOn (s : State) (h : Hart) (m : Nat) : Bool := bitOf ((s.ctx h).getM m) 0

/-- A core issues one instruction (copyists have no engines, and no group from 0x09 up: DESIGN CHOICE, log 32): nothing happens while the context may not issue or a register it names is
held; a misaligned pc and a word that R75 forbids raise their exceptions; with the predicate off the task goes on; else
`body` is the instruction's effect. -/
def State.issue (s : State) (h : Hart) (w : Word) (legal : Bool) (mask : Nat) (as ms : List Nat)
    (body : State → State) : State :=
  if !s.canIssue h then s
  else if decide ((s.ctx h).pc.toNat % 8 ≠ 0) then s.raise h .misalignedFetch (s.ctx h).pc
  else if !legal || (isCopyist h.core && decide (9 ≤ fld w 63 59)) then s.raise h .illegal w
  else if !s.regsFree h as (mask :: ms) then s
  else if !s.predOn h mask then s.modCtx h Ctx.next
  else body s

/-- A check at issue that reads operand values: a failed one raises ILLEGAL (R77). -/
def State.checked (s : State) (h : Hart) (w : Word) (ok : Bool) (g : State → State) : State :=
  if ok then g s else s.raise h .illegal w

/-- Everything that lets an instruction have its own effect (R75, R76, R106, R195). -/
def State.issues (s : State) (h : Hart) (legal : Bool) (mask : Nat) (as ms : List Nat) : Bool :=
  s.canIssue h && decide ((s.ctx h).pc.toNat % 8 = 0) && legal && !isCopyist h.core && s.regsFree h as (mask :: ms) && s.predOn h mask

/-- The physical mark that a job's handle names, and whether link signals are accepted (R326, R333). -/
def State.handle (s : State) (j hd : Nat) : Option (Nat × Bool) :=
  let e := (s.rfld (regMkMap j (hd / 4)) 63 0 >>> (16 * (hd % 4))) % 65536
  if e ≥ 32768 then some (e % 4096, (e >>> 14) % 2 == 1) else none

end Sys2Proof.Machine
end

