-- ==== Sys2Proof/Machine/Float.lean ====
section
/-! DEFINITION. Floating-point numbers as exact dyadic values, and the one rounding of a result to a format (R81 to R84,
R145 to R148, R179 to R189). Every operation computes the exact result first and rounds it once. -/

namespace Sys2Proof.Machine

/-- The family of a format: IEEE with infinities and NaNs; E4M3 with one NaN and no infinity; finite only (R145, R178). -/
inductive FmtKind where
  | ieee
  | nanOnly
  | finite
  deriving DecidableEq, Repr

/-- A binary floating-point format: exponent bits, fraction bits, family. -/
structure Fmt where
  ew : Nat
  mw : Nat
  kind : FmtKind
  deriving DecidableEq, Repr

def Fmt.bias (f : Fmt) : Nat := 2 ^ (f.ew - 1) - 1
def Fmt.width (f : Fmt) : Nat := 1 + f.ew + f.mw
/-- The lowest exponent of a unit in the last place. -/
def Fmt.emin (f : Fmt) : Int := 1 - (f.bias : Int) - (f.mw : Int)
def fmt64 : Fmt := ⟨11, 52, .ieee⟩
def fmt32 : Fmt := ⟨8, 23, .ieee⟩
def fmt16 : Fmt := ⟨5, 10, .ieee⟩
def fmtBf16 : Fmt := ⟨8, 7, .ieee⟩
def fmtE4M3 : Fmt := ⟨4, 3, .nanOnly⟩
def fmtE5M2 : Fmt := ⟨5, 2, .ieee⟩
def fmtE2M1 : Fmt := ⟨2, 1, .finite⟩

/-- A number read from its bits: a NaN (signalling or not), an infinity, or (-1)^neg * m * 2^e. -/
inductive Fp where
  | nan (sig : Bool)
  | inf (neg : Bool)
  | fin (neg : Bool) (m : Nat) (e : Int)
  deriving DecidableEq, Repr

/-- Exception flags of R84. -/
structure FFlags where
  nv : Bool := false
  dz : Bool := false
  of : Bool := false
  uf : Bool := false
  nx : Bool := false
  deriving DecidableEq, Repr

def FFlags.none : FFlags := {}
def FFlags.invalid : FFlags := { nv := true }
def FFlags.or (a b : FFlags) : FFlags :=
  ⟨a.nv || b.nv, a.dz || b.dz, a.of || b.of, a.uf || b.uf, a.nx || b.nx⟩

/-- Flags as the bits of SC_FFLAGS (R97). -/
def FFlags.bits (f : FFlags) : Nat := 16 * b2n f.nv + 8 * b2n f.dz + 4 * b2n f.of + 2 * b2n f.uf + b2n f.nx

/-- Rounding directions: R81 names four; the last takes a 16-bit random value and
rounds to the upper neighbour when the value is below the 16-bit fraction (R169). -/
inductive Rnd where
  | even
  | zero
  | down
  | up
  | away
  | stochastic (r : Nat)
  deriving DecidableEq, Repr

/-- Read a number from its bits. -/
def Fmt.unpack (f : Fmt) (x : Nat) : Fp :=
  let neg := x.testBit (f.ew + f.mw)
  let ex := (x >>> f.mw) % 2 ^ f.ew
  let fr := x % 2 ^ f.mw
  if f.kind = .ieee ∧ ex = 2 ^ f.ew - 1 then
    if fr = 0 then .inf neg else .nan (!fr.testBit (f.mw - 1))
  else if f.kind = .nanOnly ∧ ex = 2 ^ f.ew - 1 ∧ fr = 2 ^ f.mw - 1 then .nan false
  else if ex = 0 then .fin neg fr f.emin
  else .fin neg (2 ^ f.mw + fr) (f.emin + (ex : Int) - 1)

/-- The canonical quiet NaN (R82). -/
def Fmt.qnan (f : Fmt) : Nat :=
  match f.kind with
  | .ieee => (2 ^ f.ew - 1) * 2 ^ f.mw + 2 ^ (f.mw - 1)
  | _ => 2 ^ (f.ew + f.mw) - 1

def Fmt.signBit (f : Fmt) (neg : Bool) : Nat := if neg then 2 ^ (f.ew + f.mw) else 0

/-- The bits of an infinity, where the format has one. -/
def Fmt.infBits (f : Fmt) (neg : Bool) : Nat := f.signBit neg + (2 ^ f.ew - 1) * 2 ^ f.mw

/-- The largest finite magnitude. -/
def Fmt.maxBits (f : Fmt) : Nat :=
  match f.kind with
  | .ieee => (2 ^ f.ew - 1) * 2 ^ f.mw - 1
  | .nanOnly => 2 ^ (f.ew + f.mw) - 2
  | .finite => 2 ^ (f.ew + f.mw) - 1

/-- Drop `s` low bits of `m` in the given direction. -/
def roundShift (r : Rnd) (neg : Bool) (m s : Nat) : Nat :=
  let hi := m >>> s
  let rem := m % 2 ^ s
  if rem = 0 then hi
  else match r with
    | .even => if 2 * rem > 2 ^ s ∨ (2 * rem = 2 ^ s ∧ hi % 2 = 1) then hi + 1 else hi
    | .zero => hi
    | .down => if neg then hi + 1 else hi
    | .up => if neg then hi else hi + 1
    | .away => if 2 * rem ≥ 2 ^ s then hi + 1 else hi
    | .stochastic v =>
      if neg then (if v < ((2 ^ s - rem) * 65536) / 2 ^ s then hi else hi + 1)
      else (if v < (rem * 65536) / 2 ^ s then hi + 1 else hi)

/-- What a result above the largest finite number becomes: `sat` holds it at the largest magnitude (R168, R186). -/
def Fmt.overflow (f : Fmt) (r : Rnd) (sat : Bool) (neg : Bool) : Nat :=
  let big := f.signBit neg + f.maxBits
  let ovf := match f.kind with
    | .ieee => f.infBits neg
    | .nanOnly => f.signBit neg + f.qnan
    | .finite => big
  if sat then big
  else match r with
    | .zero => big
    | .down => if neg then ovf else big
    | .up => if neg then big else ovf
    | _ => ovf

/-- Round the exact value (-1)^neg * m * 2^e to the format: once, with gradual underflow detected after rounding
(R81, R97). -/
def Fmt.round (f : Fmt) (r : Rnd) (sat : Bool) (neg : Bool) (m : Nat) (e : Int) : Nat × FFlags :=
  if m = 0 then (f.signBit neg, .none)
  else
    let len : Int := (Nat.log2 m : Int) + 1
    let free := e + len - (f.mw + 1 : Int)          -- last place with an unbounded exponent
    let q := max free f.emin
    let mr := if q ≤ e then m <<< (e - q).toNat else roundShift r neg m (q - e).toNat
    let exact := decide (q ≤ e) || decide (m % 2 ^ (q - e).toNat = 0)
    let mu := if free ≤ e then m <<< (e - free).toNat else roundShift r neg m (free - e).toNat
    let tiny := decide (free < f.emin) && decide (free + (Nat.log2 mu : Int) < f.emin + (f.mw : Int))
    let (mr, q) := if mr = 2 ^ (f.mw + 1) then (2 ^ f.mw, q + 1) else (mr, q)
    let body : Nat :=
      if mr < 2 ^ f.mw then mr
      else (q - f.emin + 1).toNat * 2 ^ f.mw + (mr - 2 ^ f.mw)
    if body > f.maxBits then (f.overflow r sat neg, { of := true, nx := true })
    else (f.signBit neg + body, { uf := tiny && !exact, nx := !exact })

/-- An exact signed dyadic value. -/
structure Dy where
  m : Int
  e : Int
  deriving DecidableEq, Repr

def Dy.zero : Dy := ⟨0, 0⟩
def Dy.neg (a : Dy) : Dy := ⟨-a.m, a.e⟩
def Dy.add (a b : Dy) : Dy :=
  if a.e ≤ b.e then ⟨a.m + b.m * (2 ^ (b.e - a.e).toNat : Nat), a.e⟩
  else ⟨a.m * (2 ^ (a.e - b.e).toNat : Nat) + b.m, b.e⟩
def Dy.mul (a b : Dy) : Dy := ⟨a.m * b.m, a.e + b.e⟩
def Dy.lt (a b : Dy) : Bool := decide ((Dy.add b a.neg).m > 0)
def Dy.eq (a b : Dy) : Bool := decide ((Dy.add b a.neg).m = 0)
def Dy.le (a b : Dy) : Bool := decide ((Dy.add b a.neg).m ≥ 0)

def Fp.dy : Fp → Dy
  | .fin neg m e => ⟨if neg then -(m : Int) else (m : Int), e⟩
  | _ => .zero

def Fp.isNan : Fp → Bool
  | .nan _ => true
  | _ => false
def Fp.isSnan : Fp → Bool
  | .nan s => s
  | _ => false
def Fp.isInf : Fp → Bool
  | .inf _ => true
  | _ => false
def Fp.isZero : Fp → Bool
  | .fin _ m _ => decide (m = 0)
  | _ => false
def Fp.negative : Fp → Bool
  | .nan _ => false
  | .inf n => n
  | .fin n _ _ => n

/-- Round an exact signed value; `zneg` is the sign of an exact zero. -/
def Fmt.ofDy (f : Fmt) (r : Rnd) (sat : Bool) (zneg : Bool) (d : Dy) : Nat × FFlags :=
  if d.m = 0 then (f.signBit zneg, .none) else f.round r sat (decide (d.m < 0)) d.m.natAbs d.e

/-- Put a value into a format. -/
def Fmt.pack (f : Fmt) (r : Rnd) (sat : Bool) : Fp → Nat × FFlags
  | .nan s => (f.qnan, if s then .invalid else .none)
  | .inf n => match f.kind with
    | .ieee => if sat then (f.signBit n + f.maxBits, .none) else (f.infBits n, .none)
    | _ => (f.overflow r sat n, .none)
  | .fin n m e => f.round r sat n m e

/-- The sign of an exactly zero sum of two operands (IEEE 754-2019, named by R81). -/
def zeroSign (r : Rnd) (na nb : Bool) : Bool := if na = nb then na else r = .down

/-- src1 + src2 (R81). -/
def Fmt.add (f : Fmt) (r : Rnd) (x y : Nat) : Nat × FFlags :=
  let a := f.unpack x
  let b := f.unpack y
  let sn : FFlags := { nv := a.isSnan || b.isSnan }
  if a.isNan || b.isNan then (f.qnan, sn)
  else match a, b with
    | .inf n, .inf k => if n = k then (f.infBits n, .none) else (f.qnan, .invalid)
    | .inf n, _ => (f.infBits n, .none)
    | _, .inf n => (f.infBits n, .none)
    | _, _ =>
      let zs := if a.isZero && b.isZero then zeroSign r a.negative b.negative else r = .down
      f.ofDy r false zs (Dy.add a.dy b.dy)

/-- The bits with the sign turned. -/
def Fmt.negBits (f : Fmt) (x : Nat) : Nat := (x ^^^ 2 ^ (f.ew + f.mw)) % 2 ^ f.width

/-- src1 - src2 (R81). -/
def Fmt.sub (f : Fmt) (r : Rnd) (x y : Nat) : Nat × FFlags :=
  if (f.unpack y).isNan then f.add r x y else f.add r x (f.negBits y)

/-- src1 * src2 (R81). -/
def Fmt.mul (f : Fmt) (r : Rnd) (x y : Nat) : Nat × FFlags :=
  let a := f.unpack x
  let b := f.unpack y
  let sg := a.negative != b.negative
  if a.isNan || b.isNan then (f.qnan, { nv := a.isSnan || b.isSnan })
  else if (a.isInf && b.isZero) || (a.isZero && b.isInf) then (f.qnan, .invalid)
  else if a.isInf || b.isInf then (f.infBits sg, .none)
  else f.ofDy r false sg (Dy.mul a.dy b.dy)

/-- c + a * b, rounded once (R81). A product of 0 and an infinity raises NV also beside a quiet NaN addend, where IEEE 754 leaves it open
(DESIGN CHOICE, log 80). -/
def Fmt.fma (f : Fmt) (r : Rnd) (c x y : Nat) : Nat × FFlags :=
  let a := f.unpack x
  let b := f.unpack y
  let d := f.unpack c
  let sg := a.negative != b.negative
  let badMul := (a.isInf && b.isZero) || (a.isZero && b.isInf)
  if a.isNan || b.isNan || d.isNan then
    (f.qnan, { nv := a.isSnan || b.isSnan || d.isSnan || badMul })
  else if badMul then (f.qnan, .invalid)
  else if a.isInf || b.isInf then
    if d.isInf && (d.negative != sg) then (f.qnan, .invalid) else (f.infBits sg, .none)
  else if d.isInf then (f.infBits d.negative, .none)
  else
    let p := Dy.mul a.dy b.dy
    let zs := if d.isZero && decide (p.m = 0) then zeroSign r d.negative sg else r = .down
    f.ofDy r false zs (Dy.add d.dy p)

/-- src1 / src2 (R81): enough quotient bits are kept, with a sticky bit below them, to round once. -/
def Fmt.div (f : Fmt) (r : Rnd) (x y : Nat) : Nat × FFlags :=
  let a := f.unpack x
  let b := f.unpack y
  let sg := a.negative != b.negative
  if a.isNan || b.isNan then (f.qnan, { nv := a.isSnan || b.isSnan })
  else match a, b with
    | .inf _, .inf _ => (f.qnan, .invalid)
    | .inf _, _ => (f.infBits sg, .none)
    | _, .inf _ => (f.signBit sg, .none)
    | .fin _ m e, .fin _ m' e' =>
      if m' = 0 then
        if m = 0 then (f.qnan, .invalid) else (f.infBits sg, { dz := true })
      else
        let k := f.mw + 4 + Nat.log2 m'
        let n := m <<< k
        f.round r false sg (2 * (n / m') + b2n (decide (n % m' ≠ 0))) (e - e' - (k : Int) - 1)
    | _, _ => (f.qnan, .none)

/-- The integer square root, bit by bit from bit `k - 1` down. -/
def isqrtGo (n : Nat) : Nat → Nat → Nat
  | 0, r => r
  | k + 1, r => let c := r + 2 ^ k; isqrtGo n k (if c * c ≤ n then c else r)

/-- Square root of src1 (R81). -/
def Fmt.sqrt (f : Fmt) (r : Rnd) (x : Nat) : Nat × FFlags :=
  match f.unpack x with
  | .nan s => (f.qnan, { nv := s })
  | .inf n => if n then (f.qnan, .invalid) else (f.infBits false, .none)
  | .fin n m e =>
    if m = 0 then (f.signBit n, .none)
    else if n then (f.qnan, .invalid)
    else
      let k := 2 * (f.mw + 3) + (if e % 2 = 0 then 0 else 1)
      let v := m <<< k
      let q := isqrtGo v (Nat.log2 v / 2 + 1) 0
      f.round r false false (2 * q + b2n (decide (q * q ≠ v))) ((e - (k : Int)) / 2 - 1)

/-- Ordering of two numbers that are not NaN; zeros are equal. -/
def Fp.lt (a b : Fp) : Bool :=
  match a, b with
  | .inf n, .inf k => n && !k
  | .inf n, _ => n
  | _, .inf k => !k
  | _, _ => Dy.lt a.dy b.dy

def Fp.eq (a b : Fp) : Bool :=
  match a, b with
  | .inf n, .inf k => n = k
  | .inf _, _ => false
  | _, .inf _ => false
  | _, _ => Dy.eq a.dy b.dy

/-- FMIN and FMAX: a single NaN gives the other operand, two give the canonical NaN, -0 is less than +0 (R82). -/
def Fmt.minmax (f : Fmt) (wantMax : Bool) (x y : Nat) : Nat × FFlags :=
  let a := f.unpack x
  let b := f.unpack y
  let fl : FFlags := { nv := a.isSnan || b.isSnan }
  if a.isNan && b.isNan then (f.qnan, fl)
  else if a.isNan then (y, fl)
  else if b.isNan then (x, fl)
  else
    let less := Fp.lt a b || (Fp.eq a b && a.negative && !b.negative)
    (if less != wantMax then x else y, fl)

/-- Round an exact value to an integer. -/
def roundInt (r : Rnd) (neg : Bool) (m : Nat) (e : Int) : Int :=
  let a : Nat := if e ≥ 0 then m <<< e.toNat else roundShift r neg m (-e).toNat
  if neg then -(a : Int) else (a : Int)

/-- Conversion to a signed integer of `w` bits with saturation (R82, R187). -/
def Fmt.toInt (f : Fmt) (w : Nat) (r : Rnd) (x : Nat) : Int × FFlags :=
  match f.unpack x with
  | .nan _ => (0, .invalid)
  | .inf n => (if n then -(2 ^ (w - 1) : Int) else 2 ^ (w - 1) - 1, .invalid)
  | .fin n m e =>
    let i := roundInt r n m e
    if i < -(2 ^ (w - 1) : Int) then (-(2 ^ (w - 1) : Int), .invalid)
    else if i > 2 ^ (w - 1) - 1 then (2 ^ (w - 1) - 1, .invalid)
    else (i, { nx := decide (e < 0) && decide (m % 2 ^ (-e).toNat ≠ 0) })

/-- Conversion of an integer (R81). -/
def Fmt.ofInt (f : Fmt) (r : Rnd) (i : Int) : Nat × FFlags := f.ofDy r false false ⟨i, 0⟩

/-- Conversion between formats (R81). -/
def Fmt.convert (src dst : Fmt) (r : Rnd) (x : Nat) : Nat × FFlags := dst.pack r false (src.unpack x)

/-- The one-hot class of R83. -/
def Fmt.classify (f : Fmt) (x : Nat) : Nat :=
  match f.unpack x with
  | .inf n => if n then 1 else 128
  | .nan s => if s then 256 else 512
  | .fin n m _ =>
    if m = 0 then (if n then 8 else 16)
    else if m < 2 ^ f.mw then (if n then 4 else 32)
    else (if n then 2 else 64)

/-- The value of a binary32 number turned to another scale of two, exactly. -/
def Dy.scale (d : Dy) (k : Int) : Dy := ⟨d.m, d.e + k⟩

end Sys2Proof.Machine
end

