-- ==== Sys2Proof/Machine/Flags.lean ====
section
/-! DEFINITION. The scalar results and flags: integer operations, floating point with SC_FFLAGS, and comparisons
(R78 to R84, R92). -/

namespace Sys2Proof.Machine

/-- Add exception flags to SC_FFLAGS; they stay until software clears them (R84, R97). -/
def Ctx.flag (c : Ctx) (f : FFlags) : Ctx := { c with fflags := c.fflags ||| BitVec.ofNat 64 f.bits }

/-- The low 64 bits of a signed number. -/
def ofI (i : Int) : Word := BitVec.ofInt 64 i

/-- High half of a signed product (R78). -/
def mulh (a b : Word) : Word := ofI ((a.toInt * b.toInt) / 2 ^ 64)
def mulhu (a b : Word) : Word := BitVec.ofNat 64 ((a.toNat * b.toNat) / 2 ^ 64)
/-- Signed quotient toward zero; all ones for a zero divisor; the overflow case wraps (R78, R79). -/
def divS (a b : Word) : Word := if b = 0 then BitVec.allOnes 64 else ofI (a.toInt.tdiv b.toInt)
def divU (a b : Word) : Word := if b = 0 then BitVec.allOnes 64 else BitVec.ofNat 64 (a.toNat / b.toNat)
/-- Signed remainder with the sign of the dividend; the dividend for a zero divisor (R78, R79). -/
def remS (a b : Word) : Word := if b = 0 then a else ofI (a.toInt.tmod b.toInt)
def remU (a b : Word) : Word := if b = 0 then a else BitVec.ofNat 64 (a.toNat % b.toNat)
def clz (a : Word) : Word := BitVec.ofNat 64 (if a = 0 then 64 else 63 - Nat.log2 a.toNat)
def ctz (a : Word) : Word := BitVec.ofNat 64 (firstSet a.toNat 64 0)
def popc (a : Word) : Word := BitVec.ofNat 64 (popCount a.toNat 64)
def minS (a b : Word) : Word := if a.toInt ≤ b.toInt then a else b
def maxS (a b : Word) : Word := if a.toInt ≤ b.toInt then b else a
def minU (a b : Word) : Word := if a.toNat ≤ b.toNat then a else b
def maxU (a b : Word) : Word := if a.toNat ≤ b.toNat then b else a

/-- The operand format that ext[0] selects (R81). -/
def precOf (ext : BitVec 30) : Fmt := if ext.getLsbD 0 then fmt64 else fmt32
/-- The rounding that ext[3:1] selects (R81). -/
def rndOf : Nat → Rnd
  | 1 => .zero
  | 2 => .down
  | 3 => .up
  | _ => .even
/-- ext of a floating-point word: rounding 0 to 3, the rest 0 (R81). -/
def fpExtOk (ext : BitVec 30) : Bool := decide (ext.toNat < 8)
/-- An operand in a format: bits above it are ignored (R81). -/
def fpIn (f : Fmt) (a : Word) : Nat := a.toNat % 2 ^ f.width

end Sys2Proof.Machine
end

