-- ==== Sys2Proof/Machine/ScalarInt.lean ====
section
/-! DEFINITION. Scalar integer instructions, groups 0x01 and 0x02 (R78 to R80). -/

namespace Sys2Proof.Machine

/-- An outcome of a command. -/
abbrev Res := Host.Outcome State Fault Refusal

/-- The effect of A[dst] := g A[src1] A[src2] (R78). -/
def State.intEff (h : Hart) (f : FormT) (g : Word → Word → Word) (s : State) : State :=
  s.modCtx h (fun c => (c.setA f.dst.toNat (g (c.getA f.src1.toNat) (c.getA f.src2.toNat))).next)

/-- The words of group 0x01 that R75 and R78 allow; `two`: src2 is used. -/
def intLegal (f : FormT) (two : Bool) : Bool :=
  isA f.dst && isA f.src1 && (if two then isA f.src2 else isZ f.src2) && isZ f.ext

def intRegs (f : FormT) : List Nat := [f.dst.toNat, f.src1.toNat, f.src2.toNat]

/-- Group 0x01: A[dst] := g A[src1] A[src2] (R78). -/
def State.intOp (s : State) (op : Nat) (two : Bool) (h : Hart) (f : FormT) (g : Word → Word → Word) : Res :=
  .next (s.issue h (wordT 0x01 op f) (intLegal f two) f.mask.toNat (intRegs f) [] (State.intEff h f g))

/-- The effect of A[dst] := g A[src] (R80). -/
def State.immEff (h : Hart) (f : FormK) (g : Word → Word → Word) (s : State) : State :=
  s.modCtx h (fun c => (c.setA f.dst.toNat (g (c.getA f.src.toNat) c.pc)).next)

/-- The words of group 0x02 that R75 and R80 allow. -/
def immLegal (f : FormK) (shift noSrc : Bool) : Bool :=
  isA f.dst && (if noSrc then isZ f.src else isA f.src) && isZ f.ctl && (!shift || decide (f.imm.toNat < 64))

/-- Group 0x02: A[dst] := g A[src] pc (R80). -/
def State.immOp (s : State) (op : Nat) (shift noSrc : Bool) (h : Hart) (f : FormK) (g : Word → Word → Word) : Res :=
  .next (s.issue h (wordK 0x02 op f) (immLegal f shift noSrc) f.mask.toNat [f.dst.toNat, f.src.toNat] []
    (State.immEff h f g))

/-- ADD: sum modulo 2^64 (R78). -/
def execAdd (h : Hart) (f : FormT) (s : State) : Res := s.intOp 0x00 true h f (fun a b => a + b)

/-- SUB: difference (R78). -/
def execSub (h : Hart) (f : FormT) (s : State) : Res := s.intOp 0x01 true h f (fun a b => a - b)

/-- AND: and (R78). -/
def execAnd (h : Hart) (f : FormT) (s : State) : Res := s.intOp 0x02 true h f (fun a b => a &&& b)

/-- OR: or (R78). -/
def execOr (h : Hart) (f : FormT) (s : State) : Res := s.intOp 0x03 true h f (fun a b => a ||| b)

/-- XOR: exclusive or (R78). -/
def execXor (h : Hart) (f : FormT) (s : State) : Res := s.intOp 0x04 true h f (fun a b => a ^^^ b)

/-- ANDN: src1 and not src2 (R78). -/
def execAndn (h : Hart) (f : FormT) (s : State) : Res := s.intOp 0x05 true h f (fun a b => a &&& ~~~ b)

/-- SLL: shift left by A[src2][5:0] (R78). -/
def execSll (h : Hart) (f : FormT) (s : State) : Res := s.intOp 0x06 true h f (fun a b => a <<< (b.toNat % 64))

/-- SRL: logical shift right (R78). -/
def execSrl (h : Hart) (f : FormT) (s : State) : Res := s.intOp 0x07 true h f (fun a b => a >>> (b.toNat % 64))

/-- SRA: arithmetic shift right (R78). -/
def execSra (h : Hart) (f : FormT) (s : State) : Res := s.intOp 0x08 true h f (fun a b => a.sshiftRight (b.toNat % 64))

/-- SLT: signed less than (R78). -/
def execSlt (h : Hart) (f : FormT) (s : State) : Res := s.intOp 0x09 true h f (fun a b => b2w (a.slt b))

/-- SLTU: unsigned less than (R78). -/
def execSltu (h : Hart) (f : FormT) (s : State) : Res := s.intOp 0x0A true h f (fun a b => b2w (a.ult b))

/-- MIN: signed minimum (R78). -/
def execMin (h : Hart) (f : FormT) (s : State) : Res := s.intOp 0x0B true h f (fun a b => minS a b)

/-- MAX: signed maximum (R78). -/
def execMax (h : Hart) (f : FormT) (s : State) : Res := s.intOp 0x0C true h f (fun a b => maxS a b)

/-- MINU: unsigned minimum (R78). -/
def execMinu (h : Hart) (f : FormT) (s : State) : Res := s.intOp 0x0D true h f (fun a b => minU a b)

/-- MAXU: unsigned maximum (R78). -/
def execMaxu (h : Hart) (f : FormT) (s : State) : Res := s.intOp 0x0E true h f (fun a b => maxU a b)

/-- MUL: low half of the product (R78). -/
def execMul (h : Hart) (f : FormT) (s : State) : Res := s.intOp 0x10 true h f (fun a b => a * b)

/-- MULH: high half, signed (R78). -/
def execMulh (h : Hart) (f : FormT) (s : State) : Res := s.intOp 0x11 true h f (fun a b => mulh a b)

/-- MULHU: high half, unsigned (R78). -/
def execMulhu (h : Hart) (f : FormT) (s : State) : Res := s.intOp 0x12 true h f (fun a b => mulhu a b)

/-- DIV: signed quotient (R78, R79). -/
def execDiv (h : Hart) (f : FormT) (s : State) : Res := s.intOp 0x13 true h f (fun a b => divS a b)

/-- DIVU: unsigned quotient (R78, R79). -/
def execDivu (h : Hart) (f : FormT) (s : State) : Res := s.intOp 0x14 true h f (fun a b => divU a b)

/-- REM: signed remainder (R78, R79). -/
def execRem (h : Hart) (f : FormT) (s : State) : Res := s.intOp 0x15 true h f (fun a b => remS a b)

/-- REMU: unsigned remainder (R78, R79). -/
def execRemu (h : Hart) (f : FormT) (s : State) : Res := s.intOp 0x16 true h f (fun a b => remU a b)

/-- CLZ: leading zeros (R78). -/
def execClz (h : Hart) (f : FormT) (s : State) : Res := s.intOp 0x18 false h f (fun a _ => clz a)

/-- CTZ: trailing zeros (R78). -/
def execCtz (h : Hart) (f : FormT) (s : State) : Res := s.intOp 0x19 false h f (fun a _ => ctz a)

/-- POPC: set bits (R78). -/
def execPopc (h : Hart) (f : FormT) (s : State) : Res := s.intOp 0x1A false h f (fun a _ => popc a)

/-- ADDI (R80). -/
def execAddi (h : Hart) (f : FormK) (s : State) : Res :=
  s.immOp 0x00 false false h f (fun a _ => a + simm f.imm)

/-- ANDI (R80). -/
def execAndi (h : Hart) (f : FormK) (s : State) : Res :=
  s.immOp 0x02 false false h f (fun a _ => a &&& simm f.imm)

/-- ORI (R80). -/
def execOri (h : Hart) (f : FormK) (s : State) : Res :=
  s.immOp 0x03 false false h f (fun a _ => a ||| simm f.imm)

/-- XORI (R80). -/
def execXori (h : Hart) (f : FormK) (s : State) : Res :=
  s.immOp 0x04 false false h f (fun a _ => a ^^^ simm f.imm)

/-- SLLI (R80). -/
def execSlli (h : Hart) (f : FormK) (s : State) : Res :=
  s.immOp 0x06 true false h f (fun a _ => a <<< f.imm.toNat)

/-- SRLI (R80). -/
def execSrli (h : Hart) (f : FormK) (s : State) : Res :=
  s.immOp 0x07 true false h f (fun a _ => a >>> f.imm.toNat)

/-- SRAI (R80). -/
def execSrai (h : Hart) (f : FormK) (s : State) : Res :=
  s.immOp 0x08 true false h f (fun a _ => a.sshiftRight f.imm.toNat)

/-- SLTI (R80). -/
def execSlti (h : Hart) (f : FormK) (s : State) : Res :=
  s.immOp 0x09 false false h f (fun a _ => b2w (a.slt (simm f.imm)))

/-- SLTIU (R80). -/
def execSltiu (h : Hart) (f : FormK) (s : State) : Res :=
  s.immOp 0x0A false false h f (fun a _ => b2w (a.ult (simm f.imm)))

/-- MOVI (R80). -/
def execMovi (h : Hart) (f : FormK) (s : State) : Res :=
  s.immOp 0x10 false true h f (fun _ _ => simm f.imm)

/-- MOVHI (R80). -/
def execMovhi (h : Hart) (f : FormK) (s : State) : Res :=
  s.immOp 0x11 false false h f (fun a _ => BitVec.ofNat 64 (f.imm.toNat * 2 ^ 32 + a.toNat % 2 ^ 32))

/-- AUIPC (R80). -/
def execAuipc (h : Hart) (f : FormK) (s : State) : Res :=
  s.immOp 0x12 false true h f (fun _ pc => pc + simm f.imm)

end Sys2Proof.Machine
end

