-- ==== Sys2Proof/Machine/Cache.lean ====
section
/-! DEFINITION. The control-core caches: line states, coherence with every other requester, replacement, eviction buffer,
stride prefetch, whole-cache commands and parity (R341 to R357). Memory holds the coherent bytes; a dirty line keeps the
bytes it would leave behind if it were lost. -/

namespace Sys2Proof.Machine

/-- The line that holds an address. -/
def lineOf (pa : Nat) : Nat := alignDown pa 64
/-- The set of a line in a core's data cache: index PA[12:6] (R341). -/
def setKey (core line : Nat) : Nat := 128 * core + (line / 64) % 128
def State.cset (s : State) (key : Nat) : CSet := smapGet (fun _ => {}) s.sets key
def State.setCset (s : State) (key : Nat) (x : CSet) : State := { s with sets := smapSet (fun _ => {}) s.sets key x }

/-- Host memory has addresses of its own; the module's copies of host lines are kept above device space (R342). -/
def hostPa (pa : Nat) : Nat := 2 ^ 48 + pa

/-- Are the lines of an address cached: Reservoir, Inkwell and host memory (R341, R342)? -/
def cacheable (pa : Nat) : Bool :=
  if pa ≥ 2 ^ 48 then true
  else match placeOf pa with
    | .reservoir => true
    | .inkwell _ _ => true
    | _ => false

/-- CC_STATUS.DACT: is the core's data cache in use? -/
def State.dact (s : State) (core : Nat) : Bool := s.rbit (s.ccKey core 0x10) 0
def State.draining (s : State) (core : Nat) : Bool := s.rbit (s.ccKey core 0x10) 2

/-- The unit that a core's detectors name (R471). -/
def State.coreUnit (s : State) (core : Nat) : UnitId := if isCopyist core then ⟨6, core - 128⟩ else ⟨0, s.phys core⟩

def wayHas (line : Nat) (w : Option CLine) : Bool := (w.map (fun l => l.line == line)).getD false
def CSet.has (x : CSet) (line : Nat) : Bool := x.ways.any (wayHas line)
def CSet.find (x : CSet) (line : Nat) : Option CLine := (x.ways.find? (wayHas line)).join
def CSet.mapLine (x : CSet) (line : Nat) (f : CLine → Option CLine) : CSet :=
  { x with ways := x.ways.map (fun (w : Option CLine) => if wayHas line w then w.bind f else w) }

/-- Does a core hold a line, in the array or in the eviction buffer (R343)? -/
def State.lineHeld (s : State) (core line : Nat) : Bool :=
  (s.cset (setKey core line)).has line || (s.cache core).evb.any (fun l => l.line == line)

/-- Is a line in a core's data cache proper: does an access to it hit? -/
def State.lineIn (s : State) (core line : Nat) : Bool := (s.cset (setKey core line)).has line

/-- Point the pseudo-LRU tree away from a way (R341; the tree's shape is DESIGN CHOICE, log 7). -/
def plruTouch (t : BitVec 7) (w : Nat) : BitVec 7 :=
  let b2 := (w / 4) % 2
  let b1 := (w / 2) % 2
  let b0 := w % 2
  let set (v : Nat) (i b : Nat) : Nat := if b = 0 then v ||| 2 ^ i else v &&& (127 - 2 ^ i)
  BitVec.ofNat 7 (set (set (set t.toNat 0 b2) (1 + b2) b1) (3 + 2 * b2 + b1) b0)

/-- The way the tree points at. -/
def plruVictim (t : BitVec 7) : Nat :=
  let b2 := b2n (t.getLsbD 0)
  let b1 := b2n (t.getLsbD (1 + b2))
  let b0 := b2n (t.getLsbD (3 + 2 * b2 + b1))
  4 * b2 + 2 * b1 + b0

/-- The eight ways of a set. -/
def CSet.full (x : CSet) : List (Option CLine) := (x.ways ++ List.replicate 8 none).take 8

/-- The way a fill takes: the lowest invalid one, else the victim of the tree. -/
def CSet.place (x : CSet) : Nat :=
  match x.full.findIdx? (fun (w : Option CLine) => w.isNone) with
  | some i => i
  | none => plruVictim x.plru

/-- A dirty line is lost: memory falls back to what it held before (R356). -/
def State.loseLine (s : State) (core line : Nat) : State :=
  let k := setKey core line
  match (s.cset k).find line with
  | some l => (if l.dirty then s.wrRaw line l.backing else s).setCset k ((s.cset k).mapLine line (fun _ => none))
  | none =>
    match (s.cache core).evb.find? (fun l => l.line == line) with
    | some l => (s.wrRaw line l.backing).setCache core
        { s.cache core with evb := (s.cache core).evb.filter (fun l => l.line != line) }
    | none => s

/-! ### Parity (R356, R357) -/

/-- The line as a core holds it: in the array, else in the eviction buffer. -/
def State.lineAt (s : State) (core line : Nat) : Option CLine :=
  match (s.cset (setKey core line)).find line with
  | some l => some l
  | none => (s.cache core).evb.find? (fun l => l.line == line)

/-- A data line that fails its parity: clean ones are dropped and refetched, dirty ones are a fault; a tag or state error
is treated as dirty. -/
def State.parity (s : State) (core line : Nat) (tag : Bool) : State :=
  match s.lineAt core line with
  | none => s
  | some l =>
    if tag || l.dirty then
      ((s.loseLine core line).bump (s.ccKey core 0x60)).report ⟨0x0C, s.coreUnit core, 0, BitVec.ofNat 64 line, none, false⟩
    else
      ((s.loseLine core line).bump (s.ccKey core 0x58)).report ⟨0x42, s.coreUnit core, 0, BitVec.ofNat 64 line, none, false⟩

/-- Does a core hold a line whose next read finds an error that is a fault? -/
def State.faulty (s : State) (core line : Nat) : Bool :=
  match s.lineAt core line with
  | some l => l.bad == some true || (l.bad.isSome && l.dirty)
  | none => false

/-- A core's line is read by an access, an eviction, a snoop or a recall: its parity is checked (R356). -/
def State.checkLine (s : State) (core line : Nat) : State :=
  match (s.lineAt core line).bind (fun l => l.bad) with
  | some tag => s.parity core line tag
  | none => s

/-- An upset strikes a line; the read that meets it first finds it. -/
def State.strike (s : State) (core line : Nat) (tag : Bool) : State :=
  let k := setKey core line
  let hit (l : CLine) : CLine := if l.line = line then { l with bad := some tag } else l
  if (s.cset k).has line then s.setCset k ((s.cset k).mapLine line (fun l => some (hit l)))
  else s.setCache core { s.cache core with evb := (s.cache core).evb.map hit }

/-! ### Coherence (R343) -/

/-- The cores but one that hold a line modified, in the array or in the eviction buffer, which answers as the array does. -/
def State.holders (s : State) (keep line : Nat) : List Nat :=
  let arr := (s.sets.filter (fun (e : Nat × CSet) => e.2.ways.any (fun (w : Option CLine) =>
    (w.map (fun l => l.line == line && l.dirty)).getD false))).map (fun e => e.1 / 128)
  let buf := (s.caches.filter (fun (e : Nat × CacheRt) => e.2.evb.any (fun l => l.line == line && l.dirty))).map (fun e => e.1)
  (arr ++ buf).dedup.filter (fun c => c != keep)

/-- Modified copies of a line are read for another requester: their parity is checked, and each counts. -/
def State.recall (s : State) (keep line : Nat) : State :=
  (s.holders keep line).foldl (fun t c => (t.checkLine c line).bump (t.ccKey c 0x50)) s

/-- A line leaves every cache but one core's: another requester writes it. A modified copy is recalled first. -/
def State.invalidate (s : State) (keep : Nat) (line : Nat) : State :=
  let t := s.recall keep line
  { t with
    sets := smapMap (fun _ => {}) (fun k x => if k / 128 = keep then x else x.mapLine line (fun _ => none)) t.sets
    caches := smapMap (fun _ => {}) (fun c x => if c = keep then x else
      { x with evb := x.evb.filter (fun l => l.line != line) }) t.caches }

/-- A read of a line that another cache holds modified: it is served by a snoop and becomes shared. -/
def State.snoop (s : State) (keep : Nat) (line : Nat) : State :=
  let t := s.recall keep line
  { t with
    sets := smapMap (fun _ => {}) (fun k x => if k / 128 = keep then x else
      x.mapLine line (fun l => some { l with dirty := false, backing := [] })) t.sets
    caches := smapMap (fun _ => {}) (fun c x => if c = keep then x else
      { x with evb := x.evb.map (fun l => if l.line = line then { l with dirty := false, backing := [] } else l) }) t.caches }

/-- The lines that a range touches. -/
def linesOf (pa n : Nat) : List Nat := (upto ((pa % 64 + n + 63) / 64)).map (fun i => lineOf pa + 64 * i)

/-- No core number: a requester that is no control core. -/
def noCore : Nat := 1000

/-- A write by an engine, a link or the module: every cached copy of its lines goes first (R343); its bytes count (R263). -/
def State.memWrite (s : State) (pa : Nat) (bs : List Byte) : State :=
  (((linesOf pa bs.length).foldl (fun t l => t.invalidate noCore l) s).wrN pa bs).countLoad pa bs.length

/-- The module reads for an engine or a link: modified copies are snooped (R343). -/
def State.memSnoop (s : State) (pa n : Nat) : State := (linesOf pa n).foldl (fun t l => t.snoop noCore l) s

/-- A read by the module: modified copies are snooped, and its bytes count (R263, R343). -/
def State.memRead (s : State) (pa n : Nat) : State := (s.memSnoop pa n).countLoad pa n

/-! ### A core's own lines -/

/-- A core store to a line it holds makes it dirty; the bytes memory held stay behind. -/
def State.dirtyLine (s : State) (core line : Nat) : State :=
  let k := setKey core line
  let bytes := s.rdN line 64
  s.setCset k ((s.cset k).mapLine line (fun l =>
    if l.dirty then some l else some { l with dirty := true, backing := bytes }))

/-- Write a dirty line back and keep it. -/
def State.cleanLine (s : State) (core line : Nat) : State :=
  let k := setKey core line
  s.setCset k ((s.cset k).mapLine line (fun l => some { l with dirty := false, backing := [] }))

/-- Remove a line from a core's data cache; a dirty one has been written back. -/
def State.dropLine (s : State) (core line : Nat) : State :=
  let k := setKey core line
  s.setCset k ((s.cset k).mapLine line (fun _ => none))

/-- Mark a hit for the replacement tree. -/
def State.touch (s : State) (core line : Nat) : State :=
  let k := setKey core line
  let x := s.cset k
  match x.ways.findIdx? (wayHas line) with
  | some i => s.setCset k { x with plru := plruTouch x.plru i }
  | none => s

/-- A dirty victim must wait for room in the eviction buffer (R347). -/
def State.fillBlocked (s : State) (core line : Nat) : Bool :=
  let x := s.cset (setKey core line)
  !s.rbit (s.ccKey core 0x08) 8 && decide ((s.cache core).evb.length ≥ 8) &&
    (((x.full.getD x.place none).map (fun l => l.dirty)).getD false)

/-- Allocate a line; a dirty victim, whose parity is checked, leaves as CC_CFG.EVM chooses (R347, R356). -/
def State.allocate (s0 : State) (core line : Nat) : State :=
  let k := setKey core line
  let i := (s0.cset k).place
  let s := match (s0.cset k).full.getD i none with
    | some v => if v.dirty then s0.checkLine core v.line else s0
    | none => s0
  let x := s.cset k
  let s1 := match x.full.getD i none with
    | some v =>
      if v.dirty then
        let t := s.bump (s.ccKey core 0x30)
        if s.rbit (s.ccKey core 0x08) 8 then t.countLoad v.line 64
        else t.setCache core { t.cache core with evb := (t.cache core).evb ++ [v] }
      else s
    | none => s
  s1.setCset k { ways := x.full.set i (some { line := line, dirty := false, backing := [] }), plru := plruTouch x.plru i }

/-- Every line of a core's data cache is lost with the rest of its state at a fence (R355). -/
def State.loseCaches (s : State) (core : Nat) : State :=
  let lines := (s.sets.filter (fun e => e.1 / 128 == core)).flatMap (fun e => e.2.ways.filterMap id)
  let t := (lines ++ (s.cache core).evb).foldl (fun t l => if l.dirty then t.wrRaw l.line l.backing else t) s
  { t with sets := t.sets.filter (fun e => e.1 / 128 != core), caches := smapErase t.caches core }

/-- The line as it stands after a write-back. -/
def CLine.cleaned (l : CLine) : CLine := { l with dirty := false, backing := [] }
/-- A set with every line written back. -/
def CSet.cleaned (x : CSet) : CSet := { x with ways := x.ways.map (fun w => w.map CLine.cleaned) }

/-- Every dirty line of a core is written back and kept; what the buffer holds is written first (R353). -/
def State.cleanAll (s0 : State) (core : Nat) : State :=
  let dirty := (s0.sets.filter (fun e => e.1 / 128 == core)).flatMap (fun e => (e.2.ways.filterMap id).filter (fun l => l.dirty))
  let s := ((s0.cache core).evb ++ dirty).foldl (fun t l => (t.checkLine core l.line).countLoad l.line 64) s0
  let t := { s with sets := smapMap (fun _ => {}) (fun k x => if k / 128 = core then x.cleaned else x) s.sets }
  t.setCache core { t.cache core with evb := [] }

/-- Every line of a core's data cache becomes invalid. -/
def State.dropAll (s : State) (core : Nat) : State := { s with sets := s.sets.filter (fun e => e.1 / 128 != core) }

/-- Does a core hold any dirty line? -/
def State.anyDirty (s : State) (core : Nat) : Bool :=
  !(s.cache core).evb.isEmpty ||
  s.sets.any (fun e => e.1 / 128 == core && e.2.ways.any (fun (w : Option CLine) => (w.map (fun l => l.dirty)).getD false))

/-! ### Stride prefetch (R348, R349) -/

/-- Train the stream of (context, pc): the entry after the access, and the addresses it prefetches. -/
def trainStream (old : Option Stream) (slot : Nat) (pc : Word) (a pfd : Nat) : Stream × List Int :=
  match old with
  | none => (⟨slot, pc, a, 0, 1⟩, [])
  | some o =>
    let st : Int := (a : Int) - (o.last : Int)
    let ok := decide (st ≠ 0) && decide (st.natAbs ≤ 2048)
    let n := if !ok then 1 else if st = o.stride then o.run + 1 else 2
    let e : Stream := ⟨slot, pc, a, if ok then st else 0, n⟩
    if n < 3 then (e, [])
    else if st.natAbs < 64 then
      (e, (upto pfd).map (fun d => (lineOf a : Int) + (if st < 0 then -1 else 1) * (64 * ((d : Int) + 1))))
    else (e, (upto pfd).map (fun d => (a : Int) + ((d : Int) + 1) * st))

/-- Does a core hold the translation of an address with R or W, and of no host page: its physical address? Copyists use physical addresses. -/
def State.present (s : State) (core job : Nat) (va : Nat) : Option Nat :=
  if isCopyist core then some va
  else (s.tlb.find? (fun e => e.core == core && e.job == job && decide (e.vbase ≤ va ∧ va < e.vbase + e.size))).bind (fun e =>
    if ptePerm e.pte .either && !bitOf e.pte 55 then some (fld e.pte 47 12 * 4096 + va % e.size) else none)

/-- One prefetch: issued when its translation is present and its line lies in Reservoir or Inkwell, is not held and has an invalid or clean
way to go to, at most 4 at a time; else dropped and counted (R349; a fifth counts as dropped, DESIGN CHOICE, log 104). -/
def State.prefetch (s : State) (core job : Nat) (a : Int) : State :=
  let drop := s.bump (s.ccKey core 0x48)
  match (if a < 0 then none else s.present core job a.toNat) with
  | none => drop
  | some pa =>
    let line := lineOf pa
    let x := s.cset (setKey core line)
    if line ≥ 2 ^ 48 ∨ cacheable line = false then drop
    else if s.lineHeld core line || (s.cache core).pf.contains line then s
    else if (s.cache core).pf.length ≥ 4 ∨ x.full.all (fun (w : Option CLine) => (w.map (fun l => l.dirty)).getD false) = true then drop
    else (s.bump (s.ccKey core 0x40)).setCache core { s.cache core with pf := (s.cache core).pf ++ [line] }

/-- The way a prefetch takes: an invalid one, else the first clean one from the tree's victim on (R349). -/
def CSet.cleanWay (x : CSet) : Option Nat :=
  let ok (i : Nat) : Bool := match x.full.getD i none with
    | some l => !l.dirty
    | none => true
  match x.full.findIdx? (fun (w : Option CLine) => w.isNone) with
  | some i => some i
  | none => ((upto 8).map (fun i => (plruVictim x.plru + i) % 8)).find? ok

/-- An access of a load or store at a virtual address trains its stream and issues its prefetches (R348). Sixteen streams a core, the least
recently used replaced. -/
def State.stride (s : State) (h : Hart) (pc : Word) (va : Nat) : State :=
  if !s.dact h.core || s.draining h.core then s
  else
    let cr := s.cache h.core
    let mine (e : Stream) : Bool := e.slot == h.ctx && e.pc == pc
    let r := trainStream (cr.streams.find? mine) h.ctx pc va (s.rfld (s.ccKey h.core 0x08) 7 4)
    let t := s.setCache h.core { cr with streams := (r.1 :: cr.streams.filter (fun e => !mine e)).take 16 }
    r.2.foldl (fun t x => t.prefetch h.core (s.ctx h).task.job x) t

/-! ### The register of whole-cache commands (R352 to R354) -/

/-- The disable begins: a drain while dirty lines remain, else at once. -/
def State.startDisable (s : State) (core : Nat) : State :=
  let st := s.ccKey core 0x10
  if s.anyDirty core then s.setRbit st 2 true
  else ((s.setRbit st 0 false).setRbit st 4 false).dropAll core

/-- A write of CC_CTL: `bits` [7:4] the commands, `den`, `ien` the enables written. -/
def State.ccWrite (s : State) (core bits : Nat) (den ien : Bool) : State :=
  let ctl := s.ccKey core 0
  let st := s.ccKey core 0x10
  let dact := s.rbit st 0
  let drain := s.rbit st 2
  let curD := s.rbit ctl 0
  let curI := s.rbit ctl 1
  let busy := s.rbit st 5
  let bad (b : Nat) : Bool := if b = 6 then curD || dact || drain else if b = 7 then false else !dact
  let want := [7, 6, 5, 4].filter (fun b => bits.testBit b && !(b == 5 && bits.testBit 4))
  let good := if busy then [] else want.filter (fun b => !bad b)
  let s1 := if good.length < want.length then s.setRbit st 7 true else s
  let s2 := if good.isEmpty then s1
    else ((good.foldl (fun t b => t.setRbit ctl b true) s1).setRbit st 5 true).setCache core
      { s1.cache core with cmd := some (good.foldl (fun n b => n + 2 ^ b) 0) }
  let s3 :=
    if den && !curD then
      if drain || !s.rbit st 4 then s2.setRbit st 6 true else (s2.setRbit ctl 0 true).setRbit st 0 true
    else if !den && curD then
      let t := s2.setRbit ctl 0 false
      if good.isEmpty then t.startDisable core else t.setCache core { t.cache core with thenOff := true }
    else s2
  if ien && !curI then
    if s.rbit st 3 then (s3.setRbit ctl 1 true).setRbit st 1 true else s3.setRbit st 6 true
  else if !ien && curI then ((s3.setRbit ctl 1 false).setRbit st 1 false).setRbit st 3 false
  else s3

/-- The enables as CC_CTL holds them. -/
def State.denNow (s : State) (core : Nat) : Bool := s.rbit (s.ccKey core 0) 0
def State.ienNow (s : State) (core : Nat) : Bool := s.rbit (s.ccKey core 0) 1

/-- A running whole-cache command completes (R354). -/
def State.ccComplete (s : State) (core : Nat) : State :=
  match (s.cache core).cmd with
  | none => s
  | some bits =>
    let st := s.ccKey core 0x10
    let t1 := if bits.testBit 5 || bits.testBit 4 then s.cleanAll core else s
    let t2 := if bits.testBit 4 || bits.testBit 6 then t1.dropAll core else t1
    let t3 := if bits.testBit 6 then t2.setRbit st 4 true else t2
    let t4 := if bits.testBit 7 then (t3.setCache core { t3.cache core with isets := [] }).setRbit st 3 true else t3
    let off := (s.cache core).thenOff
    let t5 := (t4.setRfld (s.ccKey core 0) 7 4 0).setRbit st 5 false
    let t6 := t5.setCache core { t5.cache core with cmd := none, thenOff := false }
    if off then t6.startDisable core else t6

/-- The disable drain ends (R353). -/
def State.drainDone (s : State) (core : Nat) : State :=
  let st := s.ccKey core 0x10
  if s.rbit st 2 then
    ((((s.cleanAll core).dropAll core).setRbit st 2 false).setRbit st 0 false).setRbit st 4 false
  else s

/-- A write of CC_CFG (R347, R348): discarded while the cache is enabled; PFD above 8 is stored as 8. -/
def State.ccCfgWrite (s : State) (core : Nat) (v : Word) : State :=
  let st := s.ccKey core 0x10
  if s.denNow core || s.rbit st 0 || s.rbit st 2 then s.setRbit st 8 true
  else s.setReg (s.ccKey core 0x08)
    (setFld (v &&& 0x1F3#64) 7 4 (min (fld v 7 4) 8))

/-! ### Translation by a core (R98, R99) -/

/-- The leaf a core holds or walks to; with SC_JOB_PTBRj.EN at 0 every access page-faults (R98). -/
def State.leafOf (s : State) (core job : Nat) (va : Nat) : Walk × Bool :=
  let root := s.reg (regScJobPtbr job)
  if !bitOf root 0 then (.fault, false)
  else match s.tlb.find? (fun e => e.core == core && e.job == job && decide (e.vbase ≤ va ∧ va < e.vbase + e.size)) with
    | some e => (.leaf e.pteAddr e.pte e.size, true)
    | none => (s.walk va 4 (fld root 47 12 * 4096), false)

/-- The entries that a walk reads. -/
def State.walkAddrs (s : State) (va : Nat) : Nat → Nat → List Nat
  | 0, _ => []
  | n + 1, table =>
    let addr := table + 8 * ((va >>> (39 - 9 * (3 - n))) % 512)
    let pte := BitVec.ofNat 64 (s.rdLe addr 8)
    if !bitOf pte 0 || bitOf pte 7 then [addr] else addr :: s.walkAddrs va n (fld pte 47 12 * 4096)

/-- Translate an address a task issues, setting A and D at the entry's home and keeping the translation (R98, R99). The walk's reads snoop
modified copies of its entries, and the home's write of A and D invalidates every cached copy (R343). -/
def State.translate (s0 : State) (core job : Nat) (va : Word) (k : AccKind) : Tr × State :=
  if fld va 63 48 ≠ 0 then (.access, s0)
  else
    let v := va.toNat
    let root := s0.reg (regScJobPtbr job)
    let s := if !bitOf root 0 || (s0.leafOf core job v).2 then s0
      else (s0.walkAddrs v 4 (fld root 47 12 * 4096)).foldl (fun t a => t.memRead a 8) s0
    match s.leafOf core job v with
    | (.fault, _) => (.pageFault, s)
    | (.poisoned pa, _) => (.poisoned pa, s)
    | (.leaf addr pte size, held) =>
      if !ptePerm pte k then (.access, s)
      else
        let pte' := setBit (if k = .store ∨ k = .both then setBit pte 6 true else pte) 5 true
        let s1 := if pte' = pte ∧ held then s
          else
            let m := s.rdLe addr 8
            let new := BitVec.ofNat 64 m ||| (pte' &&& 0x60#64)
            let t := if new = BitVec.ofNat 64 m then s else (s.invalidate noCore (lineOf addr)).wrRaw addr (leBytes 8 new.toNat)
            { t with tlb := ⟨core, job, alignDown v size, size, addr, pte'⟩ ::
                t.tlb.filter (fun e => !(e.core == core && e.job == job && e.vbase == alignDown v size)) }
        (.ok (fld pte 47 12 * 4096 + v % size) (bitOf pte 55), s1)

end Sys2Proof.Machine
end

