-- ==== Sys2Proof/Machine/Tiers.lean ====
section
/-! DEFINITION. Inkwell and Reservoir: patrol scrub, corrections, remaps, repairs and poison (R358 to R373). -/

namespace Sys2Proof.Machine

/-- The bank of a region offset in the spare-row table: 256 physical cluster + 16 bank group + bank (R359, R361). -/
def iwBankKey (p off : Nat) : Nat := 256 * p + 16 * iwBankGroup off + iwBank off
/-- The 128 B bank row of a region offset, told apart by region. -/
def iwRowId (p off : Nat) : Nat := p * 0x2000000 + alignDown off 128
/-- The 8 KiB group row and channel of a Reservoir word (R362, R363). -/
def rvRowId (pa : Nat) : Nat := 2 ^ 60 + (rvGroup pa * 16 + rvBank pa) * 2 ^ 19 + rvRow pa

def State.setTiers (s : State) (t : Tiers) : State := { s with tiers := t }

/-- Spare rows left in a bank: 32 at power-up (R361). -/
def State.sparesLeft (s : State) (key : Nat) : Nat := 32 - smapGet (fun _ => 0) s.tiers.spare key

/-- MINSPARE, MINBG and MINBANK show the bank with the fewest spare rows left, the lowest on a tie (registers of ch. 13). -/
def State.showMin (s : State) (p : Nat) : State :=
  let best := (upto 128).foldl (fun b i => if s.sparesLeft (256 * p + i) < s.sparesLeft (256 * p + b) then i else b) 0
  let r := regIwStatus p
  ((s.setRfld r 16 11 (s.sparesLeft (256 * p + best))).setRfld r 10 8 (best / 16)).setRfld r 7 4 (best % 16)

/-- Remap one Inkwell bank row to a spare row, or tell the Blotter that its bank has none left (R361). -/
def State.remapRow (s : State) (p off : Nat) : State :=
  let key := iwBankKey p off
  if s.tiers.remapped.contains (iwRowId p off) then s
  else if s.sparesLeft key = 0 then
    (s.setRbit (regIwStatus p) 0 true).report ⟨0x32, ⟨0, p⟩, 0, BitVec.ofNat 64 off, none, false⟩
  else
    let t := s.setTiers { s.tiers with
      spare := smapSet (fun _ => 0) s.tiers.spare key (smapGet (fun _ => 0) s.tiers.spare key + 1)
      remapped := iwRowId p off :: s.tiers.remapped }
    ((t.bump (regIwRowSpare p)).showMin p).report ⟨0x44, ⟨0, p⟩, 0, BitVec.ofNat 64 off, none, false⟩

/-- Was the row corrected in another patrol pass (R361)? The row and pass are noted. -/
def State.noteRow (s : State) (row pass : Nat) : Bool × State :=
  let before := s.tiers.seen.any (fun e => e.1 == row && e.2 != pass)
  (before, if s.tiers.seen.contains (row, pass) then s
    else s.setTiers { s.tiers with seen := (row, pass) :: s.tiers.seen })

/-- A word read with 1 or 2 bits wrong: corrected, written back, counted and reported; its row is remapped or repaired
under R361 and R373. `pass` is the patrol pass, none for a demand read. -/
def State.corrected (s : State) (pa bits chan : Nat) (pass : Option Nat) : State :=
  match placeOf pa with
  | .inkwell k off =>
    let p := s.phys k
    let t := ((s.bump (regIwCe p)).setReg (regIwErraddr p) (BitVec.ofNat 64 (2 ^ 62 + alignDown off 8))).report
      ⟨0x40, ⟨0, p⟩, alignDown pa 8, 0, none, false⟩
    let (twice, u) := match pass with
      | some n => t.noteRow (iwRowId p off) n
      | none => (false, t)
    if bits = 2 || twice then u.remapRow p off else u
  | .reservoir =>
    let i := rvGroup pa / 4
    let t := ((s.bump (regRvCe i)).setReg (regRvErraddr i) (BitVec.ofNat 64 (2 ^ 62 + chan % 8 * 2 ^ 40 + alignDown pa 8))).report
      ⟨0x40, ⟨4, rvGroup pa⟩, alignDown pa 8, 0, none, false⟩
    let (twice, u) := match pass with
      | some n => t.noteRow (rvRowId pa) n
      | none => (false, t)
    if !(bits = 2 || twice) then u
    else
      let unit := (rvGroup pa * 16 + rvBank pa) * 8 + chan % 8
      if u.tiers.pprUsed.contains unit then
        (u.bump (regRvPprExhaust i)).report ⟨0x32, ⟨4, rvGroup pa⟩, alignDown pa 8, 0, none, false⟩
      else if u.tiers.ppr.any (fun x => x.group == rvGroup pa && x.bank == rvBank pa) then u
      else (u.setTiers { u.tiers with ppr := u.tiers.ppr ++ [⟨i, rvGroup pa, rvBank pa, rvRow pa, chan % 8⟩] }).setRbit (regRvStatus i) 1 true
  | _ => s

/-- A word found uncorrectable is poisoned in place, counted and shown (R365, R367). -/
def State.poisonWord (s : State) (pa chan : Nat) : State :=
  let w := alignDown pa 8
  match placeOf pa with
  | .inkwell k off =>
    let p := s.phys k
    ((s.addPoison w).bump (regIwUe p)).setReg (regIwErraddr p) (BitVec.ofNat 64 (2 * 2 ^ 62 + alignDown off 8))
  | .reservoir =>
    let i := rvGroup pa / 4
    ((s.addPoison w).bump (regRvUe i)).setReg (regRvErraddr i) (BitVec.ofNat 64 (2 * 2 ^ 62 + chan % 8 * 2 ^ 40 + w))
  | _ => s

/-- An uncorrectable word that the patrol finds is reported once, code 0x0A; the read that finds one on demand is a poisoned read. -/
def State.uncorrectable (s : State) (pa chan code : Nat) : State :=
  let t := s.poisonWord pa chan
  match placeOf pa with
  | .inkwell k _ => t.report ⟨code, ⟨0, s.phys k⟩, alignDown pa 8, 0, none, false⟩
  | .reservoir => t.report ⟨code, ⟨4, rvGroup pa⟩, alignDown pa 8, 0, none, false⟩
  | _ => s

/-- Errors that a demand read meets in memory (R361, R365, R367): words with one or two wrong bits are corrected, others are poisoned, which
the read then finds (R368); words poisoned before are no further error. -/
def State.demandErrs (s : State) (e : List MemErr) : State :=
  e.foldl (fun t x =>
    if t.poison.contains (alignDown x.pa 8) || decide (x.bits = 0) && !x.addrMismatch then t
    else if x.bits ≥ 3 || x.addrMismatch then t.poisonWord x.pa x.chan
    else t.corrected x.pa x.bits x.chan none) s

/-- The errors of a read of some ranges: words outside them are not read. -/
def errsIn (spans : List (Nat × Nat)) (e : List MemErr) : List MemErr :=
  e.filter (fun x => spans.any (fun p => overlap p.1 p.2 (alignDown x.pa 8) 8))

/-- A word the patrol meets with an error (R365, R371). -/
def State.patrolWord (s : State) (pa bits chan pass : Nat) (mismatch : Bool) : State :=
  if bits ≥ 3 || mismatch then s.uncorrectable pa chan 0x0A
  else if bits = 0 then s
  else s.corrected pa bits chan (some pass)

/-- One repair of the power-up self-test (R18, R361, R373); repairs are no events and count nowhere but in the spare fields (DESIGN CHOICE,
log 105). -/
def State.selfRepair (s : State) (x : Repair) : State :=
  match x with
  | .bankRow p off =>
    let key := iwBankKey p off
    if p ≥ 144 ∨ s.tiers.remapped.contains (iwRowId p off) ∨ s.sparesLeft key = 0 then s
    else s.setTiers { s.tiers with
      spare := smapSet (fun _ => 0) s.tiers.spare key (smapGet (fun _ => 0) s.tiers.spare key + 1)
      remapped := iwRowId p off :: s.tiers.remapped }
  | .bank p bg n =>
    if p ≥ 144 ∨ bg ≥ 8 ∨ n ≥ 16 ∨ s.tiers.banks.any (fun y => y.1 == 8 * p + bg) then s
    else s.setTiers { s.tiers with banks := s.tiers.banks ++ [(8 * p + bg, n)] }
  | .channel g b chan =>
    let unit := (g * 16 + b) * 8 + chan
    if g ≥ 16 ∨ b ≥ 16 ∨ chan ≥ 5 ∨ s.tiers.pprUsed.contains unit then s
    else s.setTiers { s.tiers with pprUsed := unit :: s.tiers.pprUsed }

/-- The repair maps are rebuilt from nothing, and the spare fields show them. -/
def State.selfRepairs (s : State) (fix : List Repair) : State :=
  (upto 144).foldl (fun t p => t.showMin p) (fix.foldl (fun t x => t.selfRepair x) (s.setTiers {}))

/-- The patrol reads the next granule of a region (R369): words found poisoned are counted, errors are settled, and the
position moves on. Only regions that are joined are walked. -/
def execPatrolInkwell (k : Nat) (e : List WordErr) (s : State) : Res :=
  .next (
    if k ≥ 128 ∨ !s.joined (s.phys k) ∨ !s.joined 162 then s
    else
      let p := s.phys k
      let r := regIwPatrol p
      let pos := s.rfld r 18 0
      let base := inkwellBase k + 64 * pos
      let pois := ((upto 8).filter (fun i => s.poison.contains (base + 8 * i))).length
      let t := s.bumpBy (regIwPoisonSeen p) pois
      let u := e.foldl (fun t x => if x.word ≥ 8 ∨ s.poison.contains (base + 8 * x.word) then t
        else t.patrolWord (base + 8 * x.word) x.bits x.chan (s.rfld r 63 32) x.addrMismatch) t
      if pos + 1 ≥ 393216 then (u.setRfld r 18 0 0).setRfld r 63 32 (u.rfld r 63 32 + 1)
      else u.setRfld r 18 0 (pos + 1))

/-- The address of the slot at a patrol position of a group: position counts slots in address order (R363, R370). -/
def rvPatrolAddr (g pos : Nat) : Nat :=
  let hi := pos * 4096
  hi + 256 * (g ^^^ ((hi >>> 16) % 16) ^^^ ((hi >>> 24) % 16) ^^^ ((hi >>> 32) % 16))

/-- The patrol reads the next slot in each of a controller's four groups (R370). An overdue read is raised above every
other class: URGENT is set and counted; a read on schedule clears it. In self-refresh the patrol stands still. -/
def execPatrolReservoir (i : Nat) (e : List WordErr) (overdue : Bool) (s : State) : Res :=
  .next (
    if i ≥ 4 ∨ !s.joined (152 + i) ∨ !s.joined 162 ∨ s.rbit (regRvStatus i) 2 then s
    else
      let r := regRvPatrol i
      let pos := s.rfld r 27 0
      let s0 := if overdue then (s.setRbit (regRvStatus i) 0 true).bump (regRvPatrolUrgent i)
        else s.setRbit (regRvStatus i) 0 false
      let words := (upto 4).flatMap (fun g => (upto 32).map (fun w => rvPatrolAddr (4 * i + g) pos + 8 * w))
      let pois := (words.filter (fun a => s.poison.contains a)).length
      let t := s0.bumpBy (regRvPoisonSeen i) pois
      let u := e.foldl (fun t x =>
        let a := rvPatrolAddr (4 * i + x.group % 4) pos + 8 * x.word
        if x.word ≥ 32 ∨ s.poison.contains a then t
        else t.patrolWord a x.bits x.chan (s.rfld r 63 32) x.addrMismatch) t
      if pos + 1 ≥ 268435456 then (u.setRfld r 27 0 0).setRfld r 63 32 (u.rfld r 63 32 + 1)
      else u.setRfld r 27 0 (pos + 1))

/-- A post-package repair ends: the row is rewritten, the bank released and its channel's resource spent (R373). -/
def execPprComplete (i g b : Nat) (s : State) : Res :=
  .next (match s.tiers.ppr.find? (fun x => x.ctl == i && x.group == g && x.bank == b) with
    | none => s
    | some x =>
      let t := s.setTiers { s.tiers with
        ppr := s.tiers.ppr.erase x
        pprUsed := ((g * 16 + b) * 8 + x.chan) :: s.tiers.pprUsed }
      let u := (t.bump (regRvPpr i)).report ⟨0x44, ⟨4, g⟩, 0, BitVec.ofNat 64 (x.row * 16 + b), none, false⟩
      u.setRbit (regRvStatus i) 1 (u.tiers.ppr.any (fun y => y.ctl == i)))

end Sys2Proof.Machine
end

