-- ==== Sys2Proof/Machine/Home.lean ====
section
/-! DEFINITION. Accesses of engines at the homes of their addresses: lines the host holds are snooped first, host pages are
reached over Lanine, poison and holes are met (R98, R99, R366 to R368, R386, R387, R390, R391). -/

namespace Sys2Proof.Machine

/-! ### Messages that leave the module (R380, R383) -/

/-- The credit class of an opcode of Lanine: 0 REQ, 2 SNP, 3 MSG, 4 RSP (R382, R383). -/
def lanClass (code : Nat) : Nat :=
  if code < 0x20 then 0 else if code < 0x30 then 2 else if code < 0x40 then 4 else 3

/-- Does a message carry a data line that takes a credit? -/
def lanData (code : Nat) : Bool := code == 0x14 || code == 0x15 || code == 0x16

/-- Are there credits for a message? -/
def Lan.room (l : Lan) (code : Nat) : Bool :=
  decide (l.replay.length < 512) && (match lanClass code with
    | 0 => decide (0 < l.reqCr) && (!lanData code || decide (0 < l.datCr))
    | 2 => decide (0 < l.snpCr)
    | 3 => decide (0 < l.msgCr)
    | _ => true)

/-- The check bytes of the four interleaves: byte k lies in interleave k mod 4 (R378). -/
def fecBytes (b : List Byte) : List Byte :=
  (upto 4).flatMap (fun i => leBytes 2 (Config.fecCheck ((upto 62).map (fun j => b.getD (4 * j + i) 0#8)) % 65536))

/-- A flit of 256 bytes: header, 15 slots, CRC-32C over bytes 0 to 243, FEC (R376). -/
def flitBytes (hdr : Nat) (slots : List Byte) : List Byte :=
  let b := leBytes 4 hdr ++ padB 240 slots
  let c := b ++ leBytes 4 (crc32c b).toNat
  c ++ fecBytes c

/-- The flit header (R377). Credits that the module returns are not shown (DESIGN CHOICE, log 106). -/
def flitHdr (seq ack ftype : Nat) (nak : Bool) : Nat := seq % 1024 * 2 ^ 22 + ack % 1024 * 2 ^ 12 + b2n nak * 2 ^ 11 + ftype * 2 ^ 9

/-- The header slot of a message (R381). -/
def msgSlot (opc tag st laddr pmask spec : Nat) : Nat :=
  opc * 2 ^ 120 + tag % 16384 * 2 ^ 106 + st % 16 * 2 ^ 102 + laddr / 64 % 2 ^ 42 * 2 ^ 60 + pmask % 256 * 2 ^ 52 + spec % 2 ^ 52

/-- The header slot of a message that the module sends (R381, R382, R392). -/
def Out.slot (m : Out) : Nat :=
  let a (i : Nat) : Nat := m.args.getD i 0
  match m.code with
  | 0x31 => msgSlot m.code (a 0) 0 0 0 0
  | 0x32 => msgSlot m.code (a 0) (a 1) 0 0 0
  | 0x33 => msgSlot m.code (a 0) (a 2) (a 1) 0 0
  | 0x34 => msgSlot m.code (a 0) (a 2) (a 1) (a 3) 0
  | 0x35 => msgSlot m.code (a 0) (a 1) 0 0 0
  | 0x36 => msgSlot m.code (a 0) 0 0 0 0
  | 0x42 => msgSlot m.code 0 0 0 0 (a 0 * 2 ^ 46)
  | 0x43 => msgSlot m.code 0 0 (a 0) 0 (a 1 % 65536 * 2 ^ 36 + a 2 % 4 * 2 ^ 34)
  | c => msgSlot c (a 0) 0 (a 1) 0 0

/-- The slots of a message: its header and its data in slots of 16 B. -/
def Out.slots (m : Out) : List Byte := leBytes 16 m.slot ++ padB (16 * ((m.data.length + 15) / 16)) m.data

/-- The data slots of D_WR_PTL: the byte enables in bytes 0 to 7 of the first, then the line (R382). -/
def ptlData (off : Nat) (bs : List Byte) : List Byte :=
  leBytes 16 ((2 ^ bs.length - 1) * 2 ^ off) ++ padB 64 (List.replicate off 0#8 ++ bs)

/-- The opcode and data of a write of part of a host line, or of the whole (R390). -/
def lineWrite (off : Nat) (bs : List Byte) : Nat × List Byte := if bs.length = 64 then (0x14, bs) else (0x15, ptlData off bs)

/-- A message crosses in a flit of its own and stays in the replay buffer until it is acknowledged (R380). -/
def State.lanEmit (s : State) (m : Out) : State :=
  let l := s.lan
  let b := flitBytes (flitHdr l.txSeq l.rxSeq 0 false) m.slots
  let l1 := match lanClass m.code with
    | 0 => { l with reqCr := l.reqCr - 1, datCr := l.datCr - (if lanData m.code then 1 else 0) }
    | 2 => { l with snpCr := l.snpCr - 1 }
    | 3 => { l with msgCr := l.msgCr - 1 }
    | _ => l
  { s with lan := { l1 with replay := l1.replay ++ [⟨l1.txSeq, m, b⟩], txSeq := (l1.txSeq + 1) % 1024, wire := [b] }, out := m :: s.out }

/-- A message for the host: it waits for its credit behind the earlier ones of its class; nothing crosses a link that is
down, and during a retrain messages wait (R383, R396, R398). -/
def State.lanSend (s : State) (m : Out) : State :=
  if s.rfld regLnStatus 1 0 ≠ 2 then s
  else if s.rbit regLnStatus 2 || !s.lan.room m.code || s.lan.waiting.any (fun x => lanClass x.code == lanClass m.code) then
    { s with lan := { s.lan with waiting := s.lan.waiting ++ [m] } }
  else s.lanEmit m

/-- A message leaves the module. -/
def State.send (s : State) (c : Chan) (code : Nat) (args : List Nat) (data : List Byte) : State :=
  match c with
  | .lanine => s.lanSend ⟨c, code, args, data⟩
  | _ => { s with out := ⟨c, code, args, data⟩ :: s.out }

/-- The lowest number that a list does not hold, up to `n`. -/
def freshTag (used : List Nat) (n : Nat) : Nat := ((upto n).find? (fun t => !used.contains t)).getD 0

/-- The home snoops the host for a line, unless such a snoop is under way (R386). -/
def State.sendSnoop (s : State) (line : Nat) (inv : Bool) : State :=
  if s.snoops.any (fun q => q.line == line && (q.inv || !inv)) then s
  else
    let tag := freshTag (s.snoops.map (fun q => q.tag)) 16384
    let t : State := { s with snoops := s.snoops ++ [⟨tag, line, inv, false⟩] }
    t.send .lanine (if inv then 0x21 else 0x22) [tag, line] []

/-- Lines of a range that the host holds. -/
def State.hostHeld (s : State) (pa n : Nat) (owned : Bool) : List Nat :=
  (linesOf pa n).filter (fun l => s.hdir.any (fun e => e.line == l && (e.owned || !owned)))

/-- A write at its home: no copy may stand at the host, so the write waits for the snoops it sends (R386, R387). -/
def State.homeWrite (s : State) (pa n : Nat) (g : State → State) : State :=
  match s.hostHeld pa n false with
  | [] => g s
  | ls => ls.foldl (fun t l => t.sendSnoop l true) s

/-- A write inside a step that holds its own wait for the host: the copies leave in the same step. -/
def State.homeForce (s : State) (pa : Nat) (bs : List Byte) : State :=
  let ls := s.hostHeld pa bs.length false
  let t := ls.foldl (fun t l => t.send .lanine 0x21 [0, l] []) s
  let u : State := { t with hdir := t.hdir.filter (fun e => !ls.contains e.line) }
  u.memWrite pa bs

/-! ### Virtual ranges -/

/-- The parts of a virtual range, cut at 4 KiB boundaries. -/
def pieces (va n : Nat) : List (Nat × Nat) :=
  if n = 0 then [] else
    (upto ((va % 4096 + n + 4095) / 4096)).map (fun i =>
      let lo := if i = 0 then va else alignDown va 4096 + 4096 * i
      let hi := min (va + n) (alignDown va 4096 + 4096 * (i + 1))
      (lo, hi - lo))

/-- One part of a resolved range: a physical address, whether it is host memory, its length. -/
structure Part where
  pa : Nat
  host : Bool
  n : Nat
  deriving DecidableEq, Repr

/-- What a translation of a range gives: its parts, or why an access ends (R98, R99, R358). -/
inductive Span where
  | ok (ps : List Part)
  | fault (va : Nat)
  | access
  | poison (pa : Nat)
  deriving DecidableEq, Repr

/-- Is an address one that engines reach: memory, not register space and not a hole (R358)? -/
def isMem (pa : Nat) : Bool := match placeOf pa with
  | .regs _ => false
  | .hole => false
  | _ => true

/-- Does a buffer at a physical address lie whole in memory: Reservoir, one cluster's region, or one Sheet (R543)? -/
def bufOk (pa n : Nat) : Bool :=
  match placeOf pa with
  | .reservoir => decide (pa + n ≤ 0x10000000000)
  | .inkwell _ off => decide (off + n ≤ 0x1800000)
  | .sheet _ off => decide (off + n ≤ 0x180000)
  | _ => false

/-- Translate every part of a range with the tables of a job. -/
def State.resolve (s : State) (core job : Nat) (k : AccKind) : List (Nat × Nat) → State × Span
  | [] => (s, .ok [])
  | (va, n) :: r =>
    match s.translate core job (BitVec.ofNat 64 va) k with
    | (.pageFault, t) => (t, .fault va)
    | (.access, t) => (t, .access)
    | (.poisoned pa, t) => (t, .poison pa)
    | (.ok pa host, t) =>
      if !host && !isMem pa then (t, .access)
      else match t.resolve core job k r with
        | (u, .ok ps) => (u, .ok (⟨pa, host, n⟩ :: ps))
        | (u, e) => (u, e)

/-- What a read or a write of an engine gives: its bytes, a wait for the host, poison. -/
inductive Got where
  | bytes (b : List Byte)
  | wait
  | poison (pa : Nat)
  deriving DecidableEq, Repr

/-- Ask host home for a line or give it one, unless that request is under way; the module holds at most 8,192 (R384,
R390). -/
def State.hostAsk (s : State) (who : HostWho) (op : HostOp) (code line : Nat) (data : List Byte) : State :=
  if s.hreqs.any (fun r => r.line == line && r.op == op && r.who == who) || decide (s.hreqs.length ≥ 8192) then s
  else
    let tag := freshTag (s.hreqs.map (fun r => r.tag)) 8192
    let t : State := { s with hreqs := s.hreqs ++ [⟨tag, line, op, who⟩] }
    t.send .lanine code [tag, line] data

/-- A dirty host line of a core goes back with D_WB_DIRTY, which gives it up; D_RD_SHR takes it again where the core keeps it
(R342, R390; log 43). `line` is the key under which the module holds it. -/
def State.hostBack (s : State) (core line : Nat) (keep : Bool) : State :=
  let t := s.hostAsk (.cache core) .wbDirty 0x16 (line - 2 ^ 48) (s.rdN line 64)
  if keep then t.hostAsk (.cache core) .rdShr 0x11 (line - 2 ^ 48) [] else t

/-- Dirty host lines of a core. -/
def State.dirtyHost (s : State) (core : Nat) : List Nat :=
  (s.sets.filter (fun e => e.1 / 128 == core)).flatMap (fun e => e.2.ways.filterMap (fun (w : Option CLine) =>
    match w with
    | some l => if l.dirty ∧ 2 ^ 48 ≤ l.line then some l.line else none
    | none => none))

/-- Every dirty host line of a core goes back. -/
def State.hostBackAll (s : State) (core : Nat) (keep : Bool) : State :=
  (s.dirtyHost core).foldl (fun t l => t.hostBack core l keep) s

/-- Host lines of a range that have not come yet. -/
def missingLines (hl : List (Nat × List Byte)) (pa n : Nat) : List Nat :=
  (linesOf pa n).filter (fun l => !hl.any (fun x => x.1 == l))

/-- The key under which an operation notes that the host has completed its write of a line. -/
def ackKey (line : Nat) : Nat := line + 2 ^ 60

/-- Host lines of a range whose writes have not been completed. -/
def missingAcks (hl : List (Nat × List Byte)) (pa n : Nat) : List Nat :=
  (linesOf pa n).filter (fun l => !hl.any (fun x => x.1 == ackKey l))

/-- Bytes of a host range whose lines have come. -/
def hostBytes (hl : List (Nat × List Byte)) (pa n : Nat) : List Byte :=
  (upto n).map (fun i => match hl.find? (fun x => x.1 == lineOf (pa + i)) with
    | some x => x.2.getD ((pa + i) % 64) 0
    | none => 0)

/-- Read resolved parts for an operation entry; host lines are asked for with D_RD_CUR (R390). -/
def State.readParts (s : State) (who : HostWho) (hl : List (Nat × List Byte)) : List Part → State × Got
  | [] => (s, .bytes [])
  | p :: r =>
    if p.host then
      match missingLines hl p.pa p.n with
      | [] => match s.readParts who hl r with
        | (t, .bytes b) => (t, .bytes (hostBytes hl p.pa p.n ++ b))
        | (t, e) => (t, e)
      | ls => (ls.foldl (fun t l => t.hostAsk who .rdCur 0x13 l []) s, .wait)
    else match s.firstPoison p.pa p.n with
      | some w => (s, .poison w)
      | none => match s.hostHeld p.pa p.n true with
        | [] => match (s.memSnoop p.pa p.n).readParts who hl r with
          | (t, .bytes b) => (t, .bytes (s.rdN p.pa p.n ++ b))
          | (t, e) => (t, e)
        | ls => (ls.foldl (fun t l => t.sendSnoop l false) s, .wait)

/-- May every part be written now: device lines free of host copies, host writes acknowledged? -/
def State.writeReady (s : State) (hl : List (Nat × List Byte)) (ps : List Part) : Bool :=
  ps.all (fun p => if p.host then (missingAcks hl p.pa p.n).isEmpty else (s.hostHeld p.pa p.n false).isEmpty)

/-- Send what a write waits for: snoops to the host, D_WR_LINE and D_WR_PTL with their data. -/
def State.writeAsk (s : State) (who : HostWho) (hl : List (Nat × List Byte)) : List Part → List Byte → State
  | [], _ => s
  | p :: r, bs =>
    let t := if p.host then
        (missingAcks hl p.pa p.n).foldl (fun t l =>
          let lo := max l p.pa
          let hi := min (l + 64) (p.pa + p.n)
          let w := lineWrite (lo - l) (sliceB bs (lo - p.pa) (hi - lo))
          t.hostAsk who .write w.1 l w.2) s
      else (s.hostHeld p.pa p.n false).foldl (fun t l => t.sendSnoop l true) s
    t.writeAsk who hl r (bs.drop p.n)

/-- The ranges of the parts that lie in the module's memory. -/
def partSpans (ps : List Part) : List (Nat × Nat) := (ps.filter (fun p => !p.host)).map (fun p => (p.pa, p.n))

/-- The bytes of a range count where they lie (R263). -/
def State.countParts (s : State) (ps : List Part) : State := ps.foldl (fun t p => if p.host then t else t.countLoad p.pa p.n) s

/-- Write the device parts. -/
def State.writeParts (s : State) : List Part → List Byte → State
  | [], _ => s
  | p :: r, bs => (if p.host then s else s.memWrite p.pa (bs.take p.n)).writeParts r (bs.drop p.n)

/-- An access reads a line that its core may hold: where its parity shows a fault the access does not complete, else it goes on (R356). -/
def State.onLine (s : State) (h : Hart) (line : Nat) (g : State → State) : State :=
  if s.dact h.core && s.faulty h.core line then
    (s.checkLine h.core line).modCtx h (fun c => { c with run := .waiting .dead })
  else g (if s.dact h.core then s.checkLine h.core line else s)

end Sys2Proof.Machine
end

