-- ==== Sys2Proof/Machine/MarkOps.lean ====
section
/-! DEFINITION. What happens at a mark's home: updates in the order of R330, saturation, waits re-tested, restores and hand
sets (R325 to R340). -/

namespace Sys2Proof.Machine

/-- COUNT, HOME, OVF and MAPPED of a mark (registers of chapter 11). -/
def State.markCount (s : State) (n : Nat) : Nat := s.rfld (regMkMark n) 31 0
def State.markHome (s : State) (n : Nat) : Nat := s.rfld (regMkMark n) 47 40
def State.markMapped (s : State) (n : Nat) : Bool := s.rbit (regMkMark n) 63
def State.markJob (s : State) (n : Nat) : Nat := s.rfld (regMkMark n) 61 58
def State.setCount (s : State) (n c : Nat) : State := s.setRfld (regMkMark n) 31 0 c
/-- The mark's runtime, with WAITERS kept equal to its pending waits, saturating at 255. -/
def State.putMark (s : State) (n : Nat) (m : MarkRt) : State :=
  (s.setMarkRt n m).setRfld (regMkMark n) 39 32 (min m.waits.length 255)

/-- The class of R330 of an update from a core or an engine of logical cluster k. -/
def State.updClass (s : State) (n k : Nat) (engine : Bool) : Nat :=
  if s.markHome n = k then (if engine then 3 else 2) else 4

/-- An update sets out for the mark's home. -/
def State.sendMark (s : State) (n : Nat) (u : MarkUpd) : State :=
  s.putMark n { s.markRt n with inflight := (s.markRt n).inflight ++ [u] }

/-- An engine operation of a cluster signals a mark by one (R329). -/
def State.engSignal (s : State) (k : Nat) (mark : Option Nat) : State :=
  match mark with
  | some n => s.sendMark n ⟨s.updClass n k true, .signal 1⟩
  | none => s

/-- A waiting mark instruction completes with a count (R332). -/
def State.wakeMark (s : State) (n : Nat) (h : Hart) (dst count : Nat) : State :=
  if (s.ctx h).run = .waiting (.mark n) then
    s.modCtx h (fun c => (c.setA dst (BitVec.ofNat 64 count)).next)
  else s

/-- Test one wait against the count: the state after it, and whether it goes on waiting. -/
def State.tryWait (s : State) (n : Nat) : MarkOp → State × Bool
  | .wait h dst t =>
    if t ≤ s.markCount n then (s.wakeMark n h dst (s.markCount n), false) else (s, true)
  | .waitDec h dst t =>
    if t ≤ s.markCount n then
      let c := s.markCount n - t
      ((s.setCount n c).wakeMark n h dst c, false)
    else (s, true)
  | _ => (s, false)

/-- Re-test pending waits in arrival order, each after what the ones before it did (R332). -/
def State.retest (s : State) (n : Nat) : List MarkOp → State × List MarkOp
  | [] => (s, [])
  | w :: r =>
    let (s1, stays) := s.tryWait n w
    let (s2, rest) := s1.retest n r
    (s2, if stays then w :: rest else rest)

/-- Re-test every pending wait of a mark. -/
def State.retestAll (s : State) (n : Nat) : State :=
  let (s1, rest) := s.retest n (s.markRt n).waits
  s1.putMark n { s1.markRt n with waits := rest }

/-- Apply one update at the home (R330, R331): a signal saturates and then counts in MK_OVF and sets OVF. -/
def State.applyMark (s : State) (n : Nat) (o : MarkOp) : State :=
  match o with
  | .signal i =>
    let c := s.markCount n + i
    if c > 0xFFFFFFFF then (((s.setCount n 0xFFFFFFFF).setRbit (regMkMark n) 62 true).bump regMkOvf).retestAll n
    else (s.setCount n c).retestAll n
  | .set v => (s.setCount n v).retestAll n
  | w =>
    let (s1, stays) := s.tryWait n w
    if stays then s1.putMark n { s1.markRt n with waits := (s1.markRt n).waits ++ [w] }
    else s1.retestAll n

/-- The first update of the lowest class, and the rest (R330). -/
def pickUpd (l : List MarkUpd) : Option (MarkUpd × List MarkUpd) :=
  match l.find? (fun u => l.all (fun v => decide (u.cls ≤ v.cls))) with
  | some u => some (u, l.erase u)
  | none => none

/-- The home applies its next update. -/
def State.markStep (s : State) (n : Nat) : State :=
  match pickUpd (s.markRt n).inflight with
  | some (u, rest) => (s.putMark n { s.markRt n with inflight := rest }).applyMark n u.op
  | none => s

/-- An inbound link signal by handle: applied when the handle is mapped with LINK at 1, else dropped and counted (R339). -/
def State.linkSignal (s : State) (j hd inc cls : Nat) : Bool × State :=
  match s.handle j hd with
  | some (n, true) => (true, s.sendMark n ⟨cls, .signal inc⟩)
  | _ => (false, s.bump regMkLinkDrop)

/-- Discard a write of the MK_ block. -/
def State.mkReject (s : State) : State := s.setRbit regMkStatus 0 true

/-- How many marks a logical cluster homes (R325). -/
def State.homedAt (s : State) (k : Nat) : Nat :=
  ((upto 4096).filter (fun n => s.markHome n == k)).length

/-- MAPPED and FULL of MK_STATUS after the number of mapped marks changes. -/
def State.mapCount (s : State) : State :=
  let n := ((upto 4096).filter (fun i => s.markMapped i)).length
  (s.setRfld regMkStatus 12 1 (n % 4096)).setRbit regMkStatus 13 (n == 4096)

/-- Does a write of HOME name a value that R325 discards whole? -/
def State.homeBarred (s : State) (n home : Nat) : Bool :=
  decide (s.markHome n ≠ home) && decide (home ≠ 0xFF) && decide (home ≥ 128 ∨ s.homedAt home ≥ 64)

/-- A write of MK_MARKn.HOME: only while the mark is unmapped, to the directory or to a cluster with room (R325). -/
def State.writeHome (s : State) (n home : Nat) : State :=
  if s.markHome n = home then s
  else if s.markMapped n then s.mkReject
  else if home = 0xFF then s.setRfld (regMkMark n) 47 40 home
  else if home ≥ 128 ∨ s.homedAt home ≥ 64 then s.mkReject
  else s.setRfld (regMkMark n) 47 40 home

/-- A write of MK_MARKn.COUNT: a restore while the owning job is not loaded, else a hand set, accepted only under a
debugger (R327, R334). Both are updates of class 1: the home applies them at once. -/
def State.writeCount (s : State) (n v : Nat) : State :=
  let j := s.markJob n
  if s.markMapped n && (s.job j).loaded then
    if (s.job j).debug then
      ((s.bump regMkHandset).setRbit (regMkJobstat j) 0 true).applyMark n (.set v)
    else s.mkReject
  else s.applyMark n (.set v)

/-- A write of MK_MARKn (R10, R325, R334): OVF by W1C; HOME when the high half is named; COUNT when the low half is. -/
def State.writeMark (s : State) (n : Nat) (half : RegHalf) (v : Word) : State :=
  let home := fld v 47 40
  let hi (t : State) : State :=
    (if bitOf v 62 then t.setRbit (regMkMark n) 62 false else t).writeHome n home
  let lo (t : State) : State := t.writeCount n (fld v 31 0)
  if half ≠ .low ∧ s.homeBarred n home then s.mkReject
  else match half with
  | .full => lo (hi s)
  | .high => hi s
  | .low => lo s

/-- The four entries of a map register, bits [13:12] stored as 0 (R333). -/
def mapEntries (v : Word) : List Nat := (upto 4).map (fun i => ((v.toNat >>> (16 * i)) % 65536) &&& 0xCFFF)
def entryPhys (e : Nat) : Option Nat := if e ≥ 32768 then some (e % 4096) else none

/-- Is a mark idle: no wait pending and no signal in flight (R333)? -/
def State.markIdle (s : State) (n : Nat) : Bool := (s.markRt n).inflight.isEmpty && (s.markRt n).waits.isEmpty

/-- A write of MK_MAPj_k: discarded whole where it would unmap a busy mark or map one already mapped (R326, R327, R333). -/
def State.writeMap (s : State) (j k : Nat) (v : Word) : State :=
  let old := mapEntries (s.reg (regMkMap j k))
  let new := mapEntries v
  let oldP := old.filterMap entryPhys
  let newP := new.filterMap entryPhys
  let gone := oldP.filter (fun p => !newP.contains p)
  let busy := (upto 4).any (fun i =>
    match entryPhys (old.getD i 0), entryPhys (new.getD i 0) with
    | some a, some b => decide (a ≠ b) && (!s.markIdle a)
    | some a, none => !s.markIdle a
    | _, _ => false)
  let taken := (upto 4).any (fun i => match entryPhys (new.getD i 0) with
    | some b => entryPhys (old.getD i 0) != some b && s.markMapped b
    | none => false)
  let dup := decide (newP.dedup.length ≠ newP.length)
  if busy || dup || taken then s.mkReject
  else
    let t := gone.foldl (fun t p => t.setReg (regMkMark p) (t.reg (regMkMark p) &&& 0x4000FF00FFFFFFFF#64)) s
    let u := (upto 4).foldl (fun t i => match entryPhys (new.getD i 0) with
      | some p =>
        if entryPhys (old.getD i 0) = some p then t
        else t.setReg (regMkMark p) (BitVec.ofNat 64 (2 ^ 63 + j * 2 ^ 58 + (4 * k + i) * 2 ^ 48 + t.markHome p * 2 ^ 40))
      | none => t) t
    (u.setReg (regMkMap j k) (BitVec.ofNat 64 (new.getD 0 0 + new.getD 1 0 * 65536 + new.getD 2 0 * 2 ^ 32 + new.getD 3 0 * 2 ^ 48))).mapCount

/-- Restore a mark to what a folio captured (R337). -/
def State.restoreMark (s : State) (n count : Nat) (ovf : Bool) : State :=
  ((s.setCount n count).setRbit (regMkMark n) 62 ovf).setMarkRt n {}

end Sys2Proof.Machine
end

