-- ==== Sys2Proof/Machine/Open.lean ====
section
/-! DEFINITION. Open values whose types need the state: what the spec leaves without a layout or a place (chapters 16
and 20). Constants without a body. -/

namespace Sys2Proof.Config

/-- The queues, contexts and positions that the fixed part of a folio image encodes: the image's layout is not given
(R417, R418). -/
opaque imageParts : List UnitData → Machine.Image

/-- The job image that FIRMWARE records have carried: their layout is not given (R407, R503). -/
opaque jobImageOf : List (List Byte) → JobImage

/-- The bytes of an entry in the spill ring: 64 B each, their layout not given (R304). -/
opaque spillByte : Machine.Task → Nat → Byte

/-- The bytes of a Quill owner state in an owner save area: their order is not given (R312). -/
opaque quillByte : Machine.Quill → Nat → Byte

/-- The bytes of a Stipple owner state in an owner save area: their order is not given (R312). -/
opaque stippleByte : Machine.Stipple → Nat → Byte

/-- The bytes of a folded cluster's state in the fold area: engines and Sheet, their order not given (R321). -/
opaque foldByte : Machine.Cluster → List Host.Cell → Nat → Byte

end Sys2Proof.Config
end

