-- ==== Sys2Proof/Machine/Numeric.lean ====
section
/-! DEFINITION. The operand formats of the engines, pass sums, accumulation and writeback (R145 to R153, R168, R169), shared
by the Quill, the Brush and the Stipple. -/

namespace Sys2Proof.Machine

/-- Bits of an element of a format code (R145). -/
def elemBits : Nat → Nat
  | 0 => 16 | 1 => 16 | 2 => 8 | 3 => 8 | 4 => 8 | 5 => 8 | 6 => 8 | 7 => 6 | 8 => 6 | 9 => 4 | _ => 32
/-- Values of an operand row, K (R145). -/
def fmtK : Nat → Nat
  | 0 => 32 | 1 => 32 | 9 => 128 | 10 => 32 | _ => 64
/-- Formats with MX block scales. -/
def isMx (f : Nat) : Bool := decide (5 ≤ f ∧ f ≤ 9)
/-- The floating format of a code; INT8 has none. -/
def fmtOf : Nat → Fmt
  | 0 => fmtBf16
  | 1 => fmt16
  | 2 => fmtE4M3
  | 3 => fmtE5M2
  | 5 => fmtE4M3
  | 6 => fmtE5M2
  | 7 => ⟨3, 2, .finite⟩
  | 8 => ⟨2, 3, .finite⟩
  | 9 => fmtE2M1
  | _ => fmt32

/-- The value of a raw element (R145). -/
def elemFp (f raw : Nat) : Fp :=
  if f = 4 then
    let i := (BitVec.ofNat 8 raw).toInt
    .fin (decide (i < 0)) i.natAbs 0
  else (fmtOf f).unpack raw

/-- Element i of little-endian packed bytes (R145). -/
def elemAt (f : Nat) (bs : List Byte) (i : Nat) : Nat := (leNat bs >>> (i * elemBits f)) % 2 ^ elemBits f

/-- `n` elements of packed bytes. -/
def elemsOf (f : Nat) (bs : List Byte) (n : Nat) : List Nat :=
  let v := leNat bs
  (upto n).map (fun i => (v >>> (i * elemBits f)) % 2 ^ elemBits f)

/-- A value under an E8M0 scale: 0xFF makes its block NaN (R147). -/
def Fp.scaled (x : Fp) (sc : Nat) : Fp :=
  if sc = 255 then .nan false
  else match x with
    | .fin n m e => .fin n m (e + (sc : Int) - 127)
    | y => y

/-- Engine flags beside IEEE's: saturation (R168). -/
structure EFlags where
  f : FFlags := {}
  sat : Bool := false
  deriving DecidableEq, Repr

def EFlags.or (a b : EFlags) : EFlags := ⟨a.f.or b.f, a.sat || b.sat⟩
/-- As the bits NV, OF, UF, SAT of QL_FLAGS and SP_FLAGS. -/
def EFlags.bits (e : EFlags) : Nat := 8 * b2n e.f.nv + 4 * b2n e.f.of + 2 * b2n e.f.uf + b2n e.sat

/-- The product of two operands. -/
def Fp.mulFp (a b : Fp) : Fp :=
  if a.isNan || b.isNan then .nan false
  else if (a.isInf && b.isZero) || (a.isZero && b.isInf) then .nan false
  else if a.isInf || b.isInf then .inf (a.negative != b.negative)
  else
    let p := Dy.mul a.dy b.dy
    .fin (decide (p.m < 0)) p.m.natAbs p.e

/-- The pass sum of semiring 0: products summed exactly and rounded once to binary32 (R146, R147). An exact zero is +0 (DESIGN CHOICE,
log 91). -/
def passSum0 (ps : List Fp) : Nat × FFlags :=
  if ps.any Fp.isNan then (fmt32.qnan, .invalid)
  else
    let pos := ps.any (fun p => p.isInf && !p.negative)
    let neg := ps.any (fun p => p.isInf && p.negative)
    if pos && neg then (fmt32.qnan, .invalid)
    else if pos || neg then (fmt32.infBits neg, .none)
    else fmt32.ofDy .even false false (ps.foldl (fun d p => Dy.add d p.dy) Dy.zero)

/-- A value as binary32 bits; every 16-bit format widens exactly. -/
def Fp.to32 (x : Fp) : Nat := (fmt32.pack .even false x).1

def one32 : Nat := 0x3F800000
def inf32 (neg : Bool) : Nat := fmt32.infBits neg
def isNan32 (x : Nat) : Bool := (fmt32.unpack x).isNan
def isZero32 (x : Nat) : Bool := (fmt32.unpack x).isZero

/-- The identity of a semiring (R149). -/
def semiId : Nat → Nat
  | 1 => inf32 false
  | 2 => inf32 true
  | 3 => inf32 true
  | _ => 0

/-- min or max of binary32 numbers where a NaN stays a NaN (R150). -/
def mm32 (wantMax : Bool) (a b : Nat) : Nat :=
  if isNan32 a || isNan32 b then fmt32.qnan else (fmt32.minmax wantMax a b).1

/-- The pass sum of a semiring over pairs of operands (R149, R150). -/
def passSum (semi : Nat) (ps : List (Fp × Fp)) : Nat × FFlags :=
  match semi with
  | 0 => let r := passSum0 (ps.map (fun p => Fp.mulFp p.1 p.2)); (r.1, { nv := r.2.nv, of := r.2.of })
  | 4 =>
    (if ps.any (fun p => !p.1.isZero && !p.2.isZero) then one32 else 0, .none)
  | _ =>
    let terms := ps.map (fun p =>
      if semi = 3 then fmt32.mul .even p.1.to32 p.2.to32 else fmt32.add .even p.1.to32 p.2.to32)
    let r := terms.foldl (fun acc t => mm32 (semi ≠ 1) acc t.1) (semiId semi)
    let bad := terms.any (fun t => isNan32 t.1)
    (if bad then fmt32.qnan else r, { nv := bad, of := terms.any (fun t => t.2.of) })

/-- An accumulator entry: error term in the high half, sum in the low half (R151). -/
def accEntry (sum err : Nat) : Word := BitVec.ofNat 64 (err * 2 ^ 32 + sum)
def accS (w : Word) : Nat := w.toNat % 2 ^ 32
def accE (w : Word) : Nat := w.toNat / 2 ^ 32

def isFin32 (x : Nat) : Bool := match fmt32.unpack x with
  | .fin _ _ _ => true
  | _ => false
def add32 (a b : Nat) : Nat := (fmt32.add .even a b).1
def sub32 (a b : Nat) : Nat := (fmt32.sub .even a b).1

/-- Compensated addition of a pass sum (R152); overflow of the sum sets OF (R153). -/
def accAdd (w : Word) (p : Nat) : Word × FFlags :=
  let sm := accS w
  let t := fmt32.add .even sm p
  if isFin32 t.1 then
    let z := sub32 t.1 sm
    let err := add32 (sub32 sm (sub32 t.1 z)) (sub32 p z)
    (accEntry t.1 (add32 (accE w) err), .none)
  else (accEntry t.1 0, { of := t.2.of })

/-- Combine a pass sum into an entry by the ⊕ of a semiring (R149, R150, R152). -/
def accCombine (semi : Nat) (w : Word) (p : Nat) : Word × FFlags :=
  match semi with
  | 0 => accAdd w p
  | 1 => (accEntry (mm32 false (accS w) p) 0, .none)
  | 4 => (accEntry (if isZero32 (accS w) && isZero32 p then 0 else one32) 0, .none)
  | _ => (accEntry (mm32 true (accS w) p) 0, .none)

/-- Add a row accumulator, sum and error term, into an entry (R158, R206). -/
def accMerge (semi : Nat) (w src : Word) : Word × FFlags :=
  let r := accCombine semi w (accS src)
  (if semi = 0 then accEntry (accS r.1) (add32 (accE r.1) (accE src)) else r.1, r.2)

/-- Cut a list into pieces of n; the last may be shorter. `fuel` is at least the length. -/
def chunks {α : Type} (n : Nat) : Nat → List α → List (List α)
  | 0, _ => []
  | _, [] => []
  | k + 1, l => l.take n :: chunks n k (l.drop n)

/-- A number on its way out of an accumulator or a lane: NaN, infinity, or an exact value with the sign of its zero. -/
inductive OutVal where
  | nan
  | inf (neg : Bool)
  | val (d : Dy) (zneg : Bool)
  deriving DecidableEq, Repr

/-- s + e, formed exactly (R152, R168); a zero is negative only where both parts are (DESIGN CHOICE, log 91). -/
def entryVal (w : Word) : OutVal :=
  let a := fmt32.unpack (accS w)
  let b := fmt32.unpack (accE w)
  if a.isNan || b.isNan then .nan
  else if a.isInf then .inf a.negative
  else if b.isInf then .inf b.negative
  else .val (Dy.add a.dy b.dy) (a.isZero && a.negative && b.isZero && b.negative)

/-- The value of a binary32 lane. -/
def laneVal (x : Nat) : OutVal :=
  match fmt32.unpack x with
  | .nan _ => .nan
  | .inf n => .inf n
  | .fin n m e => .val (Fp.dy (.fin n m e)) (n && m == 0)

/-- Round to an output format by the table of R168. -/
def narrow (f : Nat) (r : Rnd) (v : OutVal) : Nat × EFlags :=
  match f, v with
  | 4, .nan => (0, { f := .invalid })
  | 4, .inf n => (if n then 0x80 else 0x7F, { sat := true })
  | 4, .val d _ =>
    let i := roundInt r (decide (d.m < 0)) d.m.natAbs d.e
    if i < -128 then (0x80, { sat := true })
    else if i > 127 then (0x7F, { sat := true })
    else ((BitVec.ofInt 8 i).toNat, { f := { nx := decide (d.e < 0) && decide (d.m.natAbs % 2 ^ (-d.e).toNat ≠ 0) } })
  | 2, .nan => (0x7F, {})
  | 2, .inf _ => (0x7F, { f := .invalid })
  | 3, .nan => (0x7E, {})
  | _, .nan => ((fmtOf f).qnan, {})
  | _, .inf n => ((fmtOf f).infBits n, {})
  | _, .val d z =>
    let sat := f == 2 || f == 3
    let x := (fmtOf f).ofDy r sat z d
    (x.1, { f := x.2, sat := sat && x.2.of })

/-- The residue of a floating-point number: of its signed significand, and of its exponent. -/
def floatRes (f : Fmt) (x : Nat) : List Nat :=
  let e := x / 2 ^ f.mw % 2 ^ f.ew
  let m : Int := ((if e = 0 then 0 else 2 ^ f.mw) + x % 2 ^ f.mw : Nat)
  [((if x / 2 ^ (f.mw + f.ew) % 2 = 1 then -m else m) % 7).toNat, e % 7]

/-- The 16-bit value a generator yields and its next state (R169). -/
def genNext (g : Word) : Nat × Word := ((Config.lfsrBits g).toNat % 65536, Config.lfsrNext g)

/-- A seed of 0 becomes 1 (R169). -/
def seedOf (v : Word) : Word := if v = 0 then 1 else v

/-! ### Sheet words (R155, R156) -/

def adrStride (w : Word) : Nat := fld w 47 32
def adrOff (w : Word) : Nat := fld w 20 0
def cntRows (w : Word) : Nat := fld w 11 0
def cntScale (w : Word) : Nat := fld w 44 24

/-- The control area that job instructions may name ends below the save area (R310). -/
def ctlEnd : Nat := 0x170000

/-- Does [off, off + n) lie in the front half or in the control area (R155, R310)? -/
def inRegion (off n : Nat) : Bool :=
  decide (off + n ≤ 0xA0000) || decide (0x140000 ≤ off ∧ off + n ≤ ctlEnd)

/-- Is an offset inside a region at all? -/
def offOk (off : Nat) : Bool := decide (off < 0xA0000) || decide (0x140000 ≤ off ∧ off < ctlEnd)

/-- The physical Sheet address of an offset, the half resolved at issue (R122). -/
def sheetPa (k half off : Nat) : Nat := sheetBase k + (if off < 0xA0000 then half * 0xA0000 + off else off)

/-- An address word without reserved bits, aligned and in range; `rows` rows of `rb` bytes stay in their region (R155,
R159). -/
def adrOk (w : Word) (rows rb : Nat) : Bool :=
  decide (fld w 63 48 = 0) && decide (fld w 31 21 = 0) && decide (adrStride w % 16 = 0) && decide (adrOff w % 16 = 0)
    && offOk (adrOff w) && inRegion (adrOff w) ((rows - 1) * adrStride w + rb)

/-- A count word: reserved bits 0, a SCALE only where the format has scales, even and in range (R156, R159). -/
def cntOk (w : Word) (mx : Bool) : Bool :=
  decide (fld w 63 45 = 0) && decide (fld w 23 12 = 0) && decide (cntScale w % 2 = 0)
    && (if mx then offOk (cntScale w) else decide (cntScale w = 0))

end Sys2Proof.Machine
end

