-- ==== Sys2Proof/Machine/Approx.lean ====
section
/-! DEFINITION. Powers, logarithms and exponentials to within a number of units in the last place of the exact value (R184, R197): the exact
value to far more places than binary32 has, and a free choice among the binary32 numbers that the bound admits. -/

namespace Sys2Proof.Machine

/-- Places after the point in which the exact values are formed. -/
def fixP : Nat := 200

/-- ln 2, as the sum of 1 / (n 2ⁿ). -/
def ln2Fix : Nat := ((upto 220).map (fun i => 2 ^ fixP / ((i + 1) * 2 ^ (i + 1)))).sum

/-- The exponential of t / 2^P for t below 2^P, by its series: `n` terms are left, `k` is the next, `term` the last. -/
def expSeries (t : Nat) : Nat → Nat → Nat → Nat
  | 0, _, _ => 0
  | n + 1, k, term => term + expSeries t n (k + 1) (term * t / ((k + 1) * 2 ^ fixP))

def expFix (t : Nat) : Nat := expSeries t 64 0 (2 ^ fixP)

/-- 2 to the power of a number, below 2^-300 held there. -/
def exp2Dy (d : Dy) : Dy :=
  let i := max (-300) (roundInt .down (decide (d.m < 0)) d.m.natAbs d.e)
  let f := Dy.add d ⟨-i, 0⟩
  let t := if f.m < 0 then 0 else if 0 ≤ f.e then 0 else f.m.natAbs * 2 ^ fixP / 2 ^ (-f.e).toNat
  ⟨expFix (t * ln2Fix / 2 ^ fixP), i - fixP⟩

/-- Binary places of the logarithm of y / 2^P in [1, 2), one by one. -/
def logBits : Nat → Nat → Nat → Nat
  | 0, _, acc => acc
  | n + 1, y, acc =>
    let z := y * y / 2 ^ fixP
    if z ≥ 2 ^ (fixP + 1) then logBits n (z / 2) (2 * acc + 1) else logBits n z (2 * acc)

/-- The base-2 logarithm of a positive number. -/
def log2Dy (d : Dy) : Dy :=
  let l := Nat.log2 d.m.natAbs
  ⟨((l : Int) + d.e) * (2 ^ 100 : Nat) + logBits 100 (d.m.natAbs * 2 ^ fixP / 2 ^ l) 0, -100⟩

/-- The exponential of a number that is not positive: e^d = 2^(d / ln 2). -/
def expDy (d : Dy) : Dy :=
  if d.m = 0 then ⟨1, 0⟩
  else if Dy.lt d ⟨-400, 0⟩ then ⟨1, -500⟩
  else exp2Dy ⟨d.m * (2 ^ (2 * fixP) / ln2Fix : Nat), d.e - fixP⟩

/-- The natural logarithm of a positive number. -/
def lnDy (d : Dy) : Dy := let l := log2Dy d; ⟨l.m * ln2Fix, l.e - fixP⟩

/-- One binary32 number within 2 units in the last place of an exact value: the free number picks which, and the nearest stands where the pick
lies outside the bound (R184, R197). -/
def nearUlp (d : Dy) (free : Nat) : Nat :=
  let n := (fmt32.ofDy .even false false d).1
  let sign := n / 2 ^ 31 * 2 ^ 31
  let c := sign + (n % 2 ^ 31 + free % 9 - 4)
  let u : Int := if d.m = 0 then -149 else max (-149) ((Nat.log2 d.m.natAbs : Int) + d.e - 23)
  match fmt32.unpack c with
  | .fin _ _ _ =>
    let x := Dy.add (fmt32.unpack c).dy d.neg
    if c / 2 ^ 31 * 2 ^ 31 = sign ∧ Dy.le ⟨x.m.natAbs, x.e⟩ ⟨2 ^ 41 + 1, u - 40⟩ then c else n
  | _ => n

end Sys2Proof.Machine
end

