-- ==== Sys2Proof/Machine/BrushOps.lean ====
section
/-! DEFINITION. What the Brush and its reduction side unit compute: lane arithmetic, comparisons, conversions, block scales,
gathers, reductions and softmax (R178 to R203). -/

namespace Sys2Proof.Machine

/-- The flag bits of a Brush operation: SAT, RANGE, EMPTY and INVALID beside IEEE's (BR_FLAGS). -/
def brSat : Nat := 32
def brRangeBit : Nat := 64
def brEmpty : Nat := 128
def brInvalid : Nat := 256

/-- Add to the task's Brush flags (R181). -/
def Ctx.brFlag (c : Ctx) (bits : Nat) : Ctx := { c with brFlags := c.brFlags ||| BitVec.ofNat 64 bits }

/-- The rounding that an RM value selects (R182). -/
def rmOf : Nat → Rnd
  | 1 => .zero
  | 2 => .down
  | 3 => .up
  | _ => .even

/-! ### Lane arithmetic -/

/-- A NaN result is the canonical NaN; the sign operations set no flag (R82, R179). -/
def signOp (f : Fmt) (x : Nat) (neg : Bool) : Nat :=
  if (f.unpack x).isNan then f.qnan else if neg then f.negBits x else x % 2 ^ (f.ew + f.mw)

/-- A result whose magnitude is below the normal range and is not exact (BR_FLAGS.UF). -/
def tiny32 (x : Nat) : Bool := match fmt32.unpack x with
  | .fin _ m _ => decide (m < 2 ^ 23)
  | _ => false

/-- BR.EXP2: exact at integers; elsewhere a number within 2 units in the last place of the exact value, which one is open (R184). -/
def exp2Lane (x : Nat) : Nat × FFlags :=
  match fmt32.unpack x with
  | .nan sig => (fmt32.qnan, { nv := sig })
  | .inf n => (if n then 0 else inf32 false, .none)
  | .fin n m e =>
    let i := roundInt .down n m e
    if Dy.eq (Fp.dy (.fin n m e)) ⟨i, 0⟩ then fmt32.round .even false false 1 i
    else if i ≥ 128 then (inf32 false, { of := true, nx := true })
    else
      let r := nearUlp (exp2Dy (Fp.dy (.fin n m e))) (Config.exp2 (BitVec.ofNat 32 x)).toNat
      (r, { nx := true, uf := tiny32 r })

/-- BR.LOG2: exact at powers of two; elsewhere a number within 2 units in the last place of the exact value (R184). -/
def log2Lane (x : Nat) : Nat × FFlags :=
  match fmt32.unpack x with
  | .nan sig => (fmt32.qnan, { nv := sig })
  | .inf n => if n then (fmt32.qnan, .invalid) else (inf32 false, .none)
  | .fin n m e =>
    if m = 0 then (inf32 true, { dz := true })
    else if n then (fmt32.qnan, .invalid)
    else if m = 2 ^ Nat.log2 m then fmt32.ofInt .even ((Nat.log2 m : Int) + e)
    else (nearUlp (log2Dy ⟨m, e⟩) (Config.log2 (BitVec.ofNat 32 x)).toNat, { nx := true })

/-- A floating-point operation of group 0x0C on one element (R179, R184). -/
def brFloat (op : Nat) (f : Fmt) (r : Rnd) (d a b : Nat) : Nat × FFlags :=
  match op with
  | 0x00 => f.add r a b
  | 0x01 => f.sub r a b
  | 0x02 => f.mul r a b
  | 0x03 => f.fma r d a b
  | 0x04 => f.minmax false a b
  | 0x05 => f.minmax true a b
  | 0x06 => (signOp f a false, .none)
  | 0x07 => (signOp f a true, .none)
  | 0x08 => f.div r a b
  | 0x09 => f.sqrt r a
  | 0x0A => exp2Lane a
  | _ => log2Lane a

/-- An integer operation of group 0x0C on one lane (R179). -/
def brInt (op : Nat) (signed : Bool) (d a b : Lane) : Lane :=
  match op with
  | 0x00 => a + b
  | 0x01 => a - b
  | 0x02 => a * b
  | 0x03 => d + a * b
  | 0x04 => if signed then (if a.slt b then a else b) else (if a.ult b then a else b)
  | 0x05 => if signed then (if a.slt b then b else a) else (if a.ult b then b else a)
  | 0x06 => if a.slt 0 then -a else a
  | 0x07 => -a
  | 0x10 => a &&& b
  | 0x11 => a ||| b
  | 0x12 => a ^^^ b
  | 0x13 => a <<< (b.toNat % 32)
  | 0x14 => a >>> (b.toNat % 32)
  | _ => a.sshiftRight (b.toNat % 32)

/-- Both elements of a packed lane. -/
def packed (g : Nat → Nat → Nat → Nat × FFlags) (d a b : Lane) : Lane × FFlags :=
  let lo (x : Lane) : Nat := x.toNat % 65536
  let hi (x : Lane) : Nat := x.toNat / 65536
  let p := g (lo d) (lo a) (lo b)
  let q := g (hi d) (hi a) (hi b)
  (BitVec.ofNat 32 (q.1 * 65536 + p.1), p.2.or q.2)

/-- The 16-bit format of a packed type (R178). -/
def packFmt (ty : Nat) : Fmt := if ty = 3 then fmtBf16 else fmt16

/-- One lane of an operation of group 0x0C in an element type (R178, R179). -/
def brLane (op ty : Nat) (r : Rnd) (d a b : Lane) : Lane × FFlags :=
  match ty with
  | 0 => let x := brFloat op fmt32 r d.toNat a.toNat b.toNat; (BitVec.ofNat 32 x.1, x.2)
  | 1 => (brInt op true d a b, .none)
  | 2 => (brInt op false d a b, .none)
  | _ => packed (brFloat op (packFmt ty) r) d a b

/-- A comparison of one lane (R82, R185). -/
def brCompare (op ty : Nat) (a b : Lane) : Bool × FFlags :=
  match ty with
  | 0 =>
    let x := fmt32.unpack a.toNat
    let y := fmt32.unpack b.toNat
    if x.isNan || y.isNan then (false, { nv := op != 0x18 || x.isSnan || y.isSnan })
    else (match op with
      | 0x18 => Fp.eq x y
      | 0x19 => Fp.lt x y
      | _ => Fp.lt x y || Fp.eq x y, .none)
  | 1 => (match op with
      | 0x18 => a == b
      | 0x19 => a.slt b
      | _ => a.sle b, .none)
  | _ => (match op with
      | 0x18 => a == b
      | 0x19 => a.ult b
      | _ => a.ule b, .none)

/-- The exact sum of two numbers, with the sign of a zero. -/
def Fp.addFp (r : Rnd) (a b : Fp) : Fp :=
  if a.isNan || b.isNan then .nan (a.isSnan || b.isSnan)
  else match a, b with
    | .inf n, .inf k => if n = k then .inf n else .nan true
    | .inf n, _ => .inf n
    | _, .inf k => .inf k
    | _, _ =>
      let d := Dy.add a.dy b.dy
      let zs := if a.isZero && b.isZero then zeroSign r a.negative b.negative else r = .down
      .fin (if d.m = 0 then zs else decide (d.m < 0)) d.m.natAbs d.e

/-- The exact product, an invalid one marked as signalling. -/
def Fp.mulSig (a b : Fp) : Fp :=
  if a.isNan || b.isNan then .nan (a.isSnan || b.isSnan)
  else if (a.isInf && b.isZero) || (a.isZero && b.isInf) then .nan true
  else match Fp.mulFp a b with
    | .fin _ m e => .fin (a.negative != b.negative) m e
    | y => y

/-- The smaller or the larger of two numbers (R82). -/
def Fp.pick (wantMax : Bool) (a b : Fp) : Fp :=
  if a.isNan && b.isNan then .nan (a.isSnan || b.isSnan)
  else if a.isNan then b
  else if b.isNan then a
  else
    let less := Fp.lt a b || (Fp.eq a b && a.negative && !b.negative)
    if less != wantMax then a else b

/-- An element against a binary32 constant, rounded once to the element's format (R192). -/
def brConst (op : Nat) (f : Fmt) (r : Rnd) (x c : Nat) : Nat × FFlags :=
  let a := f.unpack x
  let b := fmt32.unpack c
  match op with
  | 0x04 => f.pack r false (Fp.addFp r a b)
  | 0x05 => f.pack r false (Fp.mulSig a b)
  | 0x06 => let p := f.pack r false (Fp.pick false a b); (p.1, { p.2 with nv := p.2.nv || a.isSnan || b.isSnan })
  | 0x07 => let p := f.pack r false (Fp.pick true a b); (p.1, { p.2 with nv := p.2.nv || a.isSnan || b.isSnan })
  | _ => f.pack r false b

/-- One lane of BR.ADDI to BR.MOVI (R192). -/
def brImm (op ty : Nat) (r : Rnd) (a c : Lane) : Lane × FFlags :=
  let i (signed : Bool) : Lane := match op with
    | 0x04 => a + c
    | 0x05 => a * c
    | 0x06 => brInt 0x04 signed 0 a c
    | 0x07 => brInt 0x05 signed 0 a c
    | _ => c
  match ty with
  | 0 => if op = 0x08 then (c, .none)
    else let x := brConst op fmt32 r a.toNat c.toNat; (BitVec.ofNat 32 x.1, x.2)
  | 1 => (i true, .none)
  | 2 => (i false, .none)
  | _ => packed (fun _ x _ => brConst op (packFmt ty) r x c.toNat) 0 a 0

/-! ### Fields of an operation -/

def BrOp.ty (o : BrOp) : Nat := (o.ext >>> 12) % 16
def BrOp.rm (o : BrOp) : Nat := (o.ext >>> 16) % 8
def BrOp.zm (o : BrOp) : Bool := (o.ext >>> 19) % 2 == 1
def BrOp.fmt (o : BrOp) : Nat := (o.ext >>> 8) % 16
def BrOp.part (o : BrOp) : Nat := (o.ext >>> 6) % 4
def BrOp.low (o : BrOp) : Nat := o.ext % 64
def BrOp.mask (o : BrOp) (j : Nat) : Word := o.masks.getD j 0

/-- Write lanes of V[dst]: an enabled lane takes its result and flags, a disabled one is kept or zeroed (R180). -/
def Ctx.lanes (c : Ctx) (dst : Nat) (mask : Word) (zm : Bool) (g : Nat → Lane × FFlags) : Ctx :=
  (upto 64).foldl (fun c l =>
    if bitOf mask l then
      let x := g l
      (c.setV dst l x.1).brFlag x.2.bits
    else if zm then c.setV dst l 0 else c) c

/-- Write a whole V register from bytes, higher bytes 0. -/
def Ctx.setBytes (c : Ctx) (dst : Nat) (bs : List Byte) : Ctx :=
  (upto 64).foldl (fun c l => c.setV dst l (BitVec.ofNat 32 (leNat (sliceB bs (4 * l) 4)))) c

/-- The bytes of a V register. -/
def Ctx.vBytes (c : Ctx) (r : Nat) : List Byte := (upto 64).flatMap (fun l => leBytes 4 (c.getV r l).toNat)

/-! ### Conversions -/

/-- Elements packed from byte 0 (R145). -/
def packElems (f : Nat) (es : List Nat) : List Byte :=
  leBytes (es.length * elemBits f / 8) (es.zipIdx.foldl (fun a (e : Nat × Nat) => a + e.1 * 2 ^ (e.2 * elemBits f)) 0)

/-- Narrow 64 elements in order, the generator stepped for every element under stochastic rounding (R183, R186). -/
def narrowAll (rm : Nat) (one : Nat → Rnd → Nat × Nat) : List Nat → Word → List Nat × Nat × Word
  | [], g => ([], 0, g)
  | l :: r, g =>
    let (rv, g') := genNext g
    let x := one l (if rm = 4 then .stochastic rv else rmOf rm)
    let (es, fl, g2) := narrowAll rm one r (if rm = 4 then g' else g)
    (x.1 :: es, x.2 ||| fl, g2)

/-- The Brush flags of a narrowing. -/
def narrowBits (e : EFlags) : Nat := e.f.bits + (if e.sat then brSat else 0)

/-- BR.CVTN (R186). -/
def Ctx.cvtn (c : Ctx) (o : BrOp) : Ctx :=
  let r := narrowAll o.rm (fun l rnd =>
    if bitOf (o.mask 0) l then
      let x := narrow o.fmt rnd (laneVal (c.getV o.s1 l).toNat)
      (x.1, narrowBits x.2)
    else (0, 0)) (upto 64) c.brGen
  { (c.setBytes o.dst (packElems o.fmt r.1)).brFlag r.2.1 with brGen := r.2.2 }

/-- BR.CVTW: widening is exact (R186). -/
def Ctx.cvtw (c : Ctx) (o : BrOp) : Ctx :=
  let bs := c.vBytes o.s1
  c.lanes o.dst (o.mask 0) o.zm (fun l =>
    let x := fmt32.pack .even false (elemFp o.fmt (elemAt o.fmt bs (64 * o.part + l)))
    (BitVec.ofNat 32 x.1, x.2))

/-- BR.FTOI: saturation to the integer type (R187). -/
def ftoi (signed : Bool) (r : Rnd) (x : Nat) : Lane × FFlags :=
  let lo : Int := if signed then -2147483648 else 0
  let hi : Int := if signed then 2147483647 else 4294967295
  match fmt32.unpack x with
  | .nan _ => (0, .invalid)
  | .inf n => (BitVec.ofInt 32 (if n then lo else hi), .invalid)
  | .fin n m e =>
    let i := roundInt r n m e
    if i < lo then (BitVec.ofInt 32 lo, .invalid)
    else if i > hi then (BitVec.ofInt 32 hi, .invalid)
    else (BitVec.ofInt 32 i, { nx := decide (e < 0) && decide (m % 2 ^ (-e).toNat ≠ 0) })

/-- The largest exponent of an element format (R188). -/
def mxEmax : Nat → Int
  | 5 => 8
  | 6 => 15
  | 7 => 4
  | _ => 2

/-- The largest value of an element format, as its bits without the sign (R189). -/
def mxMax (f : Nat) : Nat := (fmtOf f).maxBits

/-- The scale byte of one block, and whether NV is set (R188). -/
def mxScale (f : Nat) (xs : List Fp) : Nat × Bool :=
  if xs.any (fun x => x.isNan || x.isInf) then (0xFF, true)
  else
    let exps := xs.filterMap (fun x => match x with
      | .fin _ m e => if m = 0 then none else some ((Nat.log2 m : Int) + e)
      | _ => none)
    match exps with
    | [] => (0, false)
    | e :: r =>
      let x := r.foldl max e - mxEmax f
      ((max (-127) (min 127 x) + 127).toNat, false)

/-- BR.MXS (R188). -/
def Ctx.mxs (c : Ctx) (o : BrOp) : Ctx :=
  let block (b : Nat) : Nat × Bool :=
    mxScale o.fmt (((upto 32).filter (fun i => bitOf (o.mask 0) (32 * b + i))).map (fun i =>
      fmt32.unpack (c.getV o.s1 (32 * b + i)).toNat))
  let b0 := block 0
  let b1 := block 1
  (c.setBytes o.dst [BitVec.ofNat 8 b0.1, BitVec.ofNat 8 b1.1]).brFlag (if b0.2 || b1.2 then 16 else 0)

/-- One element of BR.MXQ under a scale; a NaN has no code in the formats without one, and its value is open (R189). -/
def mxElem (f : Nat) (nanRaw : Nat) (rnd : Rnd) (sc : Nat) (x : Fp) : Nat × Nat :=
  match x with
  | .nan _ => (if f = 5 then 0x7F else if f = 6 then 0x7E else nanRaw % 2 ^ elemBits f, 0)
  | .inf n => ((fmtOf f).signBit n + mxMax f, brSat)
  | .fin n m e =>
    let r := (fmtOf f).round rnd true n m (e - ((sc : Int) - 127))
    (r.1, r.2.bits + (if r.2.of then brSat else 0))

/-- BR.MXQ (R189). -/
def Ctx.mxq (c : Ctx) (o : BrOp) (nanRaw : Nat) : Ctx :=
  let sc (l : Nat) : Nat := ((c.getV o.s2 0).toNat >>> (8 * (l / 32))) % 256
  let r := narrowAll o.rm (fun l rnd =>
    if bitOf (o.mask 0) l && sc l != 255 then mxElem o.fmt nanRaw rnd (sc l) (fmt32.unpack (c.getV o.s1 l).toNat)
    else (0, 0)) (upto 64) c.brGen
  { (c.setBytes o.dst (packElems o.fmt r.1)).brFlag r.2.1 with brGen := r.2.2 }

/-! ### Reductions -/

/-- The values of the enabled lanes, with their lane numbers. -/
def BrOp.enabled (o : BrOp) : List Nat := (upto 64).filter (fun l => bitOf (o.mask 0) l)

/-- An exact sum rounded once to nearest even (R193). -/
def sumFp (ps : List Fp) : Nat × FFlags := passSum0 ps

/-- The largest or smallest of some binary32 lanes; the infinity that loses when there is none (R193). -/
def extremeF (wantMax : Bool) : List Nat → Nat × FFlags
  | [] => (inf32 wantMax, .none)
  | x :: r =>
    let y := r.foldl (fun (a : Nat × FFlags) b => let m := fmt32.minmax wantMax a.1 b; (m.1, a.2.or m.2))
      (x, { nv := (fmt32.unpack x).isSnan })
    (if isNan32 y.1 then fmt32.qnan else y.1, y.2)

/-- The largest or smallest of some integer lanes; the type's own extreme when there is none (R193). -/
def extremeI (signed wantMax : Bool) (xs : List Lane) : Lane :=
  let seed : Lane := match signed, wantMax with
    | true, true => 0x80000000#32
    | true, false => 0x7FFFFFFF#32
    | false, true => 0
    | false, false => 0xFFFFFFFF#32
  xs.foldl (fun a b => brInt (if wantMax then 0x05 else 0x04) signed 0 a b) seed

/-- A lane value as a scalar result of an integer type. -/
def laneWord (signed : Bool) (x : Lane) : Word := if signed then x.signExtend 64 else x.setWidth 64

/-- The scalar of RS.SUM to RS.ARGMAX and RS.DOT, and its flags (R193). -/
def Ctx.reduce (c : Ctx) (o : BrOp) : Word × FFlags :=
  let ls := o.enabled
  let xs := ls.map (fun l => c.getV o.s1 l)
  let signed := o.ty == 1
  let wantMax := o.op != 0x02
  match o.op with
  | 0x00 =>
    if o.ty = 0 then let r := sumFp (xs.map (fun x => fmt32.unpack x.toNat)); (BitVec.ofNat 64 r.1, r.2)
    else (xs.foldl (fun a x => a + laneWord signed x) 0, .none)
  | 0x05 =>
    let r := sumFp (ls.map (fun l => Fp.mulSig (fmt32.unpack (c.getV o.s1 l).toNat) (fmt32.unpack (c.getV o.s2 l).toNat)))
    (BitVec.ofNat 64 r.1, r.2)
  | _ =>
    let best : Lane × FFlags := if o.ty = 0 then
        let r := extremeF wantMax (xs.map (fun x => x.toNat)); (BitVec.ofNat 32 r.1, r.2)
      else (extremeI signed wantMax xs, .none)
    if o.op = 0x03 then (BitVec.ofNat 64 ((ls.find? (fun l => c.getV o.s1 l == best.1)).getD 64), best.2)
    else (if o.ty = 0 then best.1.setWidth 64 else laneWord signed best.1, best.2)

/-- RS.SCAN: lane l sums the enabled lanes from the start of its segment (R193, R194). -/
def Ctx.scan (c : Ctx) (o : BrOp) : Ctx :=
  let starts (l : Nat) : Nat := ((upto (l + 1)).filter (fun i => i == 0 || bitOf (o.mask 1) i)).getLastD 0
  (upto 64).foldl (fun (t : Ctx) l =>
    let ls := (upto (l + 1)).filter (fun i => decide (starts l ≤ i) && bitOf (o.mask 0) i)
    if o.ty = 0 then
      let r := sumFp (ls.map (fun i => fmt32.unpack (c.getV o.s1 i).toNat))
      (t.setV o.dst l (BitVec.ofNat 32 r.1)).brFlag r.2.bits
    else t.setV o.dst l (ls.foldl (fun a i => a + c.getV o.s1 i) 0)) c

/-! ### Softmax and log-sum-exp -/

/-- How a row settles (R196). -/
inductive SmCase where
  | invalid
  | empty
  | infs (k : Nat)
  | row (xs : List Nat)
  deriving DecidableEq, Repr

/-- A value put into a list that rises. -/
def insertNat (x : Nat) : List Nat → List Nat
  | [] => [x]
  | y :: r => if x ≤ y then x :: y :: r else y :: insertNat x r

/-- The elements in an order of their own: the result depends on no lane order (R197). -/
def sortNat (l : List Nat) : List Nat := l.foldl (fun a x => insertNat x a) []

/-- An element under the scale factor (chapter 6, Softmax). -/
def smScaled (s x : Nat) : Nat := (fmt32.mul .even x s).1

/-- The element at position p of the row, none when it is disabled. -/
def Ctx.smElem (c : Ctx) (o : BrOp) (sf p : Nat) : Option Nat :=
  if bitOf (o.mask (p / 64)) (p % 64) then some (smScaled sf (c.getV (o.s1 + p / 64) (p % 64)).toNat) else none

/-- The case of R196 that applies first. -/
def smCase (sf : Nat) (xs : List Nat) : SmCase :=
  let sOk := match fmt32.unpack sf with
    | .fin n m _ => !n && m != 0
    | _ => false
  if !sOk || xs.any isNan32 then .invalid
  else if xs.all (fun x => x == inf32 true) then .empty
  else
    let k := (xs.filter (fun x => x == inf32 false)).length
    if k ≠ 0 then .infs k else .row (sortNat xs)

/-- The exponentials of a row's elements less the largest, and their sum; an element at -∞ contributes nothing (R196). -/
def smExp (m x : Nat) : Dy := match fmt32.unpack x with
  | .fin _ _ _ => expDy (Dy.add (fmt32.unpack x).dy (fmt32.unpack m).dy.neg)
  | _ => Dy.zero
def smMax (xs : List Nat) : Nat := (extremeF true xs).1
def smSum (xs : List Nat) : Dy := (xs.map (smExp (smMax xs))).foldl Dy.add Dy.zero

/-- One output of a row in case 4, within 2 units in the last place (R197). The quotient is formed to 300 places. -/
def smLane (xs : List Nat) (v : Nat) : Nat :=
  let a := smExp (smMax xs) v
  let b := smSum xs
  nearUlp ⟨(a.m.natAbs * 2 ^ 300 / b.m.natAbs : Nat), a.e - b.e - 300⟩ (Config.softmaxLane (xs.map (BitVec.ofNat 32)) v).toNat

/-- The log-sum-exp of a row in case 4, within 2 units in the last place (R197). -/
def smLse (xs : List Nat) : Nat :=
  nearUlp (Dy.add (fmt32.unpack (smMax xs)).dy (lnDy (smSum xs))) (Config.logSumExp (xs.map (BitVec.ofNat 32))).toNat

/-- SM.SOFTMAX and SM.LSE on one row (R196, R197). -/
def State.softmax (s : State) (k : Nat) (o : BrOp) : State :=
  let c := s.ctx o.own.hart
  let nv := o.low + 1
  let sf := if o.s2 = 0 then one32 else o.a2.toNat % 2 ^ 32
  let els := (upto (64 * nv)).map (fun p => c.smElem o sf p)
  let cs := smCase sf (els.filterMap id)
  let out (x : Option Nat) : Nat := match cs, x with
    | .invalid, _ => fmt32.qnan
    | .empty, _ => 0
    | .infs n, some v => if v = inf32 false then (fmt32.div .even one32 (fmt32.ofInt .even n).1).1 else 0
    | .row xs, some v => if v = inf32 true then 0 else smLane xs v
    | _, none => 0
  let lse : Nat := match cs with
    | .invalid => fmt32.qnan
    | .empty => inf32 true
    | .infs _ => inf32 false
    | .row xs => smLse xs
  let c1 := if o.op = 0x08 then
      els.zipIdx.foldl (fun (c : Ctx) (e : Option Nat × Nat) =>
        c.setV (o.dst + e.2 / 64) (e.2 % 64) (BitVec.ofNat 32 (out e.1))) c
    else c.setA o.dst (BitVec.ofNat 64 lse)
  let c2 := match cs with
    | .invalid => c1.brFlag brInvalid
    | .empty => c1.brFlag brEmpty
    | _ => c1
  let t := s.setCtx o.own.hart c2
  match cs with
  | .invalid => t.bump (regBrSmInvalid (s.phys k))
  | .empty => t.bump (regBrSmEmpty (s.phys k))
  | _ => t

/-! ### Sheet access -/

/-- The 4 B of a gather lane, none when it lies outside the base's region (R190). -/
def gatherOff (base : Word) (idx : Lane) : Option Nat :=
  let off := base.toNat + 4 * idx.toNat
  if base.toNat < 0xA0000 then (if off + 4 ≤ 0xA0000 then some off else none)
  else if off + 4 ≤ ctlEnd then some off else none

/-- A gather or scatter: lanes outside their region set RANGE and are counted (R190). -/
def State.brGather (s : State) (k : Nat) (o : BrOp) (scatter : Bool) : State :=
  let c := s.ctx o.own.hart
  (upto 64).foldl (fun (t : State) l =>
    if bitOf (o.mask 0) l then
      match gatherOff o.a1 (c.getV o.s2 l) with
      | some off =>
        if scatter then t.wrN (sheetPa k o.half off) (leBytes 4 (c.getV o.dst l).toNat)
        else t.modCtx o.own.hart (fun x => x.setV o.dst l (BitVec.ofNat 32 (t.rdLe (sheetPa k o.half off) 4)))
      | none =>
        let u := (t.modCtx o.own.hart (fun x => x.brFlag brRangeBit)).bump (regBrRange (s.phys k))
        if scatter then u else u.modCtx o.own.hart (fun x => x.setV o.dst l 0)
    else if o.zm && !scatter then t.modCtx o.own.hart (fun x => x.setV o.dst l 0) else t) s

/-- The lengths of R191; none for another code. -/
def brLen : Nat → Option Nat
  | 0 => some 256 | 1 => some 2 | 2 => some 4 | 3 => some 8 | 4 => some 16
  | 5 => some 32 | 6 => some 48 | 7 => some 64 | 8 => some 128 | _ => none

/-- The Sheet offset of BR.LD and BR.ST (R191): A[src][20:0] + imm32. -/
def brOff (o : BrOp) : Nat := fld o.a1 20 0 + o.imm.toNat

/-- BR.LD (R191). -/
def State.brLoad (s : State) (k : Nat) (o : BrOp) : State :=
  let n := (brLen (o.ext % 16)).getD 0
  s.modCtx o.own.hart (fun c => c.setBytes o.dst (s.rdN (sheetPa k o.half (brOff o)) n))

/-- BR.ST (R191): with 256 B the mask is honoured lane by lane. -/
def State.brStore (s : State) (k : Nat) (o : BrOp) : State :=
  let n := (brLen (o.ext % 16)).getD 0
  let bs := (s.ctx o.own.hart).vBytes o.dst
  if n = 256 then
    (upto 64).foldl (fun (t : State) l => if bitOf (o.mask 0) l then
      t.wrN (sheetPa k o.half (brOff o + 4 * l)) (sliceB bs (4 * l) 4) else t) s
  else s.wrN (sheetPa k o.half (brOff o)) (bs.take n)

/-! ### One operation -/

/-- Group 0x0C (R184, R185). -/
def Ctx.brArith (c : Ctx) (o : BrOp) : Ctx :=
  let a (l : Nat) : Lane := c.getV o.s1 l
  let b (l : Nat) : Lane := c.getV o.s2 l
  if o.op = 0x1C then
    (upto 64).foldl (fun t l => t.setV o.dst l (if bitOf (o.mask 0) l then a l else b l)) c
  else if 0x18 ≤ o.op then
    let rs := (upto 64).map (fun l => if bitOf (o.mask 0) l then brCompare o.op o.ty (a l) (b l) else (false, .none))
    let w := rs.zipIdx.foldl (fun n (r : (Bool × FFlags) × Nat) => n + b2n r.1.1 * 2 ^ r.2) 0
    (c.setM o.dst (BitVec.ofNat 64 w)).brFlag (rs.foldl (fun f r => f.or r.2) FFlags.none).bits
  else c.lanes o.dst (o.mask 0) o.zm (fun l => brLane o.op o.ty (rmOf o.rm) (c.getV o.dst l) (a l) (b l))

/-- Group 0x0D (R180, R186 to R190). -/
def State.brMove (s : State) (k : Nat) (o : BrOp) : State :=
  let c := s.ctx o.own.hart
  let put (x : Ctx) : State := s.setCtx o.own.hart x
  let each (g : Nat → Lane) : State := put (c.lanes o.dst (o.mask 0) o.zm (fun l => (g l, .none)))
  match o.op with
  | 0x00 => each (fun l => c.getV o.s1 l)
  | 0x01 => each (fun _ => o.a1.setWidth 32)
  | 0x02 => each (fun l => c.getV o.s1 ((c.getV o.s2 l).toNat % 64))
  | 0x04 =>
    if bitOf (o.mask 0) o.low then put (c.setA o.dst ((c.getV o.s1 o.low).setWidth 64))
    else if o.zm then put (c.setA o.dst 0) else s
  | 0x05 => put (c.setV o.dst o.low (o.a1.setWidth 32))
  | 0x08 => put (c.cvtn o)
  | 0x09 => put (c.cvtw o)
  | 0x0A => put (c.lanes o.dst (o.mask 0) o.zm (fun l =>
      let x := c.getV o.s1 l
      let r := fmt32.ofInt (rmOf o.rm) (if o.ty = 1 then x.toInt else (x.toNat : Int))
      (BitVec.ofNat 32 r.1, r.2)))
  | 0x0B => put (c.lanes o.dst (o.mask 0) o.zm (fun l => ftoi (o.ty == 1) (rmOf o.rm) (c.getV o.s1 l).toNat))
  | 0x0C => put (c.mxs o)
  | 0x0D =>
    let d := s.draw
    (if 7 ≤ o.fmt then d.2 else s).setCtx o.own.hart (c.mxq o d.1.toNat)
  | 0x10 => s.brGather k o false
  | _ => s.brGather k o true

/-- Group 0x0E (R183, R191, R192). -/
def State.brSheet (s : State) (k : Nat) (o : BrOp) : State :=
  match o.op with
  | 0x00 => s.brLoad k o
  | 0x01 => s.brStore k o
  | 0x10 => s.modCtx o.own.hart (fun c => { c with brGen := seedOf o.a1 })
  | op => s.modCtx o.own.hart (fun c => c.lanes o.dst (o.mask 0) false (fun l =>
      brImm op (o.ext % 8) (rmOf (o.ext / 8)) (c.getV o.s1 l) o.imm))

/-- Group 0x0F (R193 to R197). -/
def State.brReduce (s : State) (k : Nat) (o : BrOp) : State :=
  if 0x08 ≤ o.op then s.softmax k o
  else s.modCtx o.own.hart (fun c =>
    if o.op = 0x04 then c.scan o
    else let r := c.reduce o; (c.setA o.dst r.1).brFlag r.2.bits)

/-- The effect of a Brush or reduction operation. -/
def State.brRun (s : State) (k : Nat) (o : BrOp) : State :=
  match o.group with
  | 0x0C => s.modCtx o.own.hart (fun c => c.brArith o)
  | 0x0D => s.brMove k o
  | 0x0E => s.brSheet k o
  | _ => s.brReduce k o

/-! ### Residue checking (R202, R203) -/

/-- The residue of a converted element: of its significand path (R202). -/
def elemRes (f x : Nat) : List Nat := if f = 4 then [x % 7] else (floatRes (fmtOf f) x).take 1

/-- The residue of a lane of an element type. -/
def laneRes (ty x : Nat) : List Nat :=
  if ty = 0 then floatRes fmt32 x
  else if ty ≤ 2 then [x % 7]
  else floatRes (packFmt ty) (x % 65536) ++ floatRes (packFmt ty) (x / 65536)

/-- What an operation carries a residue on. -/
inductive ResKind where
  | nothing
  | bit                            -- the bit of a lane in M[dst]
  | lane (ty : Nat)                -- a lane of V[dst]
  | sig                            -- a lane of V[dst] on its significand path
  | elem (f : Nat)                 -- an element packed into V[dst]
  | scalar                         -- A[dst]
  deriving DecidableEq, Repr

/-- Which results carry a residue: every lane operation, conversions on their significand paths, moved data (R202). -/
def BrOp.resKind (o : BrOp) : ResKind :=
  match o.group, o.op with
  | 0x0C, op => if op = 0x1C then .lane 2 else if 0x18 ≤ op then .bit else .lane o.ty
  | 0x0D, 0x04 => .scalar
  | 0x0D, 0x08 => .elem o.fmt
  | 0x0D, 0x09 => .sig
  | 0x0D, 0x0A => .sig
  | 0x0D, 0x0C => .elem 4
  | 0x0D, 0x0D => .elem o.fmt
  | 0x0D, 0x11 => .nothing
  | 0x0D, _ => .lane 2
  | 0x0E, op => if op ≤ 1 ∨ op = 0x10 then .nothing else .lane (o.ext % 8)
  | _, _ => .nothing

/-- The result at index i, where it carries a residue: an enabled lane, and the one lane of BR.TOA and BR.FROMA. -/
def Ctx.resultAt (c : Ctx) (o : BrOp) (i : Nat) : Option Nat :=
  let on := decide (i < 64) && (bitOf (o.mask 0) i || (o.group == 0x0C && o.op == 0x1C))
    && (o.group != 0x0D || (o.op != 0x04 && o.op != 0x05) || i == o.low)
  match o.resKind with
  | .nothing => none
  | .bit => if on then some (b2n (bitOf (c.getM o.dst) i)) else none
  | .lane _ => if on then some (c.getV o.dst i).toNat else none
  | .sig => if on then some (c.getV o.dst i).toNat else none
  | .elem f => if on then some (elemAt f (c.vBytes o.dst) i) else none
  | .scalar => if on then some (c.getA o.dst).toNat else none

/-- The residues that stand beside a result. -/
def BrOp.residues (o : BrOp) (x : Nat) : List Nat :=
  match o.resKind with
  | .lane ty => laneRes ty x
  | .sig => (floatRes fmt32 x).take 1
  | .elem f => elemRes f x
  | _ => [x % 7]

/-- A result that a fault changed and the check passed stands as it came out (R203). -/
def Ctx.putResult (c : Ctx) (o : BrOp) (i v : Nat) : Ctx :=
  match o.resKind with
  | .nothing => c
  | .bit => c.setM o.dst ((c.getM o.dst &&& ~~~(BitVec.ofNat 64 (2 ^ i))) ||| BitVec.ofNat 64 (v % 2 * 2 ^ i))
  | .lane _ => c.setV o.dst i (BitVec.ofNat 32 v)
  | .sig => c.setV o.dst i (BitVec.ofNat 32 v)
  | .elem f => c.setBytes o.dst (packElems f (((upto 64).map (elemAt f (c.vBytes o.dst))).set i (v % 2 ^ elemBits f)))
  | .scalar => c.setA o.dst (BitVec.ofNat 64 (v % 2 ^ 32))

/-- Does the check of an operation fail? The residue predicted from the inputs is that of the right result; the reduction and softmax units are
duplicated and compared bit for bit (R202). `c` is the issuer's context after the operation. -/
def BrOp.fails (o : BrOp) (c : Ctx) (r : OpCheck) : Bool :=
  match r with
  | .mismatch => o.group == 0x0F
  | .upset i _ v =>
    if o.group = 0x0F then true
    else match c.resultAt o i with
      | some x => o.residues v != o.residues x
      | none => false
  | _ => false

/-- The issuer's context with what a fault that passed its check left in the result. -/
def BrOp.spoil (o : BrOp) (r : OpCheck) (c : Ctx) : Ctx :=
  match r with
  | .upset i _ v => if (c.resultAt o i).isSome then c.putResult o i v else c
  | _ => c

/-- BR_OP_COMPLETE: the oldest operation completes and passes or fails its check; after a failure none completes (R198, R203). Every engine of a
cluster works on while its cluster runs and the job is not held; in a folio stop the queue stands (R33, R200, R321, R457). -/
def State.brComplete (s : State) (k : Nat) (r : OpCheck) : State :=
  match (s.cl k).br with
  | [] => s
  | o :: _ =>
    if !(decide (k < 128) && s.coreLive k) || (s.cl k).brFailed || (s.job o.own.job).held || s.dx.stopped then s
    else
      let t := s.brRun k o
      if o.fails (t.ctx o.own.hart) r then
        ((s.bump (regBrResFail (s.phys k))).modCl k (fun c => { c with brFailed := true })).report
          ⟨0x05, ⟨0, s.phys k⟩, 0, 0, none, false⟩
      else ((t.modCtx o.own.hart (o.spoil r)).modCl k (fun c => { c with br := c.br.tail })).bump (regBrOps (s.phys k))

/-- A Brush operation enters the queue of 16; a full queue stalls issue (R77, R198). -/
def State.brIssue (s : State) (h : Hart) (o : BrOp) : State :=
  if (s.cl h.core).br.length ≥ 16 then s
  else (s.modCtx h Ctx.next).modCl h.core (fun c => { c with br := c.br ++ [o] })

/-- Have the task's Brush and reduction operations completed? -/
def State.brDone (s : State) (h : Hart) : Bool := !(s.cl h.core).br.any (fun o => o.own.hart == h)

end Sys2Proof.Machine
end

