-- ==== Sys2Proof/Machine/QuillOps.lean ====
section
/-! DEFINITION. The Quill: weight blocks, streamed rows, the accumulator sets and writeback (R145 to R177). -/

namespace Sys2Proof.Machine

/-- Update the Quill of a cluster. -/
def State.modQl (s : State) (k : Nat) (f : Quill → Quill) : State := s.modCl k (fun c => { c with ql := f c.ql })

/-- Add to QL_FLAGS (R177). -/
def State.qlFlag (s : State) (k : Nat) (e : EFlags) : State :=
  s.modQl k (fun q => { q with flags := q.flags ||| BitVec.ofNat 64 e.bits })

/-- Bytes of a stored row of `n` elements. -/
def rowBytes (f n : Nat) : Nat := n * elemBits f / 8

/-- Rows that QL.LDW reads and the elements of each (R159): K rows of 32, or 32 rows of K when transposed. -/
def ldwShape (f : Nat) (trans : Bool) : Nat × Nat := if trans then (32, fmtK f) else (fmtK f, 32)

/-- Rows of elements of an operand in a Sheet, row after row (R155). -/
def State.sheetRows (s : State) (k half : Nat) (addr : Word) (f rows n : Nat) : List (List Nat) :=
  (upto rows).map (fun r =>
    elemsOf f (s.rdN (sheetPa k half (adrOff addr + r * adrStride addr)) (rowBytes f n)) n)

/-- The scale of block b of stored row r: scale bytes follow one another row by row (DEDUCED, log 21). -/
def State.scaleAt (s : State) (k half : Nat) (cnt : Word) (f n r b : Nat) : Nat :=
  if isMx f then (s.rd (sheetPa k half (cntScale cnt + r * (n / 32) + b))).toNat else 127

/-- The block that QL.LDW loads: elements and scales by row of K and column. -/
def State.loadWeights (s : State) (k half : Nat) (addr cnt : Word) (trans : Bool) (f : Nat) : WBuf :=
  let (rows, n) := ldwShape f trans
  let raw := s.sheetRows k half addr f rows n
  let pick (kk j : Nat) : Nat × Nat := if trans then (j, kk) else (kk, j)
  let idx := (upto (fmtK f)).flatMap (fun kk => (upto 32).map (fun j => pick kk j))
  { fmt := f
    elems := idx.map (fun p => (raw.getD p.1 []).getD p.2 0)
    scales := if isMx f then idx.map (fun p => s.scaleAt k half cnt f n p.1 (p.2 / 32)) else [] }

/-- Column j of a weight block as numbers. -/
def WBuf.col (w : WBuf) (j : Nat) : List Fp :=
  (upto (fmtK w.fmt)).map (fun kk =>
    let i := kk * 32 + j
    let x := elemFp w.fmt (w.elems.getD i 0)
    if isMx w.fmt then x.scaled (w.scales.getD i 127) else x)

/-- Do the operand and the weight formats meet (R160)? -/
def fmtMeet (a b : Nat) : Bool :=
  a == b || (a == 2 && b == 3) || (a == 3 && b == 2) || (a == 5 && b == 6) || (a == 6 && b == 5) ||
  (a == 7 && b == 8) || (a == 8 && b == 7)

/-- hi and lo of the three-pass split (R148). -/
def split32 (x : Fp) : Fp × Fp :=
  match x with
  | .fin n m e =>
    let hi := fmtBf16.unpack (fmtBf16.round .even false n m e).1
    match hi with
    | .fin _ _ _ =>
      let d := Dy.add (Fp.dy (.fin n m e)) hi.dy.neg
      (hi, fmtBf16.unpack (fmtBf16.ofDy .even false false d).1)
    | y => (y, .inf (!n))
  | y => (y, .fin false 0 0)

/-- The pairs of operands that the passes of one row against one column meet: one pass, or three in format 0xA (R146 to R148). A
non-finite binary32 operand gives the one pass sum of R147. -/
def passPairs (f : Nat) (row col : List Fp) : List (List (Fp × Fp)) :=
  let ps := row.zip col
  if f = 10 then
    if ps.any (fun p => p.1.isNan || p.1.isInf || p.2.isNan || p.2.isInf) then [ps]
    else
      let sp := ps.map (fun p => (split32 p.1, split32 p.2))
      [sp.map (fun q => (q.1.1, q.2.1)), sp.map (fun q => (q.1.1, q.2.2)), sp.map (fun q => (q.1.2, q.2.1))]
  else [ps]

/-- The pass sums of one row against one column (R146, R149); format 0xA runs semiring 0 alone (R159). -/
def passes (semi f : Nat) (row col : List Fp) : List (Nat × FFlags) :=
  (passPairs f row col).map (passSum (if f = 10 then 0 else semi))

/-- A pass sum that a fault of the array changed: that of row r, column j mod 32, pass j / 32. -/
def withUpset (up : Option (Nat × Nat × Nat)) (i c : Nat) (ps : List (Nat × FFlags)) : List (Nat × FFlags) :=
  match up with
  | some (r, j, v) => if r = i ∧ j % 32 = c then ps.set (j / 32) (v % 2 ^ 32, .none) else ps
  | none => ps

/-- The number of an accumulator row: its physical set and row, the SET bit resolved against the roles at the time (R73, R164). -/
def accKey (role : Bool) (acc i : Nat) : Nat :=
  let shadow := decide (acc ≥ 2048)
  65536 * b2n (role != shadow) + 32 * (acc % 2048 + i)

def Quill.getAcc (q : Quill) (key : Nat) : Word := smapGet (fun _ => 0) q.acc key
def Quill.setAcc (q : Quill) (key : Nat) (w : Word) : Quill := { q with acc := smapSet (fun _ => 0) q.acc key w }

/-- Is column c enabled (R157)? -/
def colOn (mask : Word) (c : Nat) : Bool := bitOf mask c

/-- Combine pass sums into one entry. -/
def combineAll (semi : Nat) (w : Word) (ps : List (Nat × FFlags)) : Word × FFlags :=
  ps.foldl (fun acc p => let r := accCombine semi acc.1 p.1; (r.1, (acc.2.or p.2).or r.2)) (w, .none)

/-- One row of QL.MMA into its accumulator row. -/
def Quill.mmaRow (q : Quill) (role : Bool) (semi f acc i : Nat) (mask : Word) (start : Bool) (row : List Fp) (cols : List (List Fp))
    (up : Option (Nat × Nat × Nat)) : Quill × FFlags × List Bool :=
  (upto 32).foldl (fun st c =>
    let ps := withUpset up i c (passes semi f row (cols.getD c []))
    let bad := ps.any (fun p => !isFin32 p.1)
    if colOn mask c then
      let key := accKey role acc i + c
      let w := if start then accEntry (semiId semi) 0 else st.1.getAcc key
      let r := combineAll semi w ps
      (st.1.setAcc key r.1, st.2.1.or r.2, st.2.2 ++ [bad])
    else (st.1, st.2.1, st.2.2 ++ [bad])) (q, .none, [])

/-- Rows and columns with ±∞ or NaN among their pass sums, which are not checksum-checked (R173). -/
def skipped (semi : Nat) (bad : List (List Bool)) : Nat :=
  if semi ≠ 0 then 0
  else (bad.filter (fun r => r.any id)).length +
    ((upto 32).filter (fun c => bad.any (fun r => r.getD c false))).length

/-- The operand rows of QL.MMA as numbers, scales applied (R146). -/
def State.mmaVals (s : State) (k half : Nat) (addr cnt : Word) (f : Nat) : List (List Fp) :=
  ((s.sheetRows k half addr f (cntRows cnt) (fmtK f)).zipIdx).map (fun x => (x.1.zipIdx).map (fun (e : Nat × Nat) =>
    let v := elemFp f e.1
    if isMx f then v.scaled (s.scaleAt k half cnt f (fmtK f) x.2 (e.2 / 32)) else v))

/-- QL.MMA (R145 to R160). -/
def State.qlMma (s : State) (k half : Nat) (role : Bool) (addr cnt mask : Word) (start : Bool) (w : WBuf) (semi f acc : Nat)
    (up : Option (Nat × Nat × Nat)) : State :=
  let cols := (upto 32).map (fun j => w.col j)
  let r := ((s.mmaVals k half addr cnt f).zipIdx).foldl (fun (st : Quill × FFlags × List (List Bool)) (x : List Fp × Nat) =>
    let y := st.1.mmaRow role semi f acc x.2 mask start x.1 cols up
    (y.1, st.2.1.or y.2.1, st.2.2 ++ [y.2.2])) ((s.cl k).ql, .none, [])
  let t := (s.modQl k (fun _ => r.1)).qlFlag k { f := r.2.1 }
  (t.bumpBy (regQlChkSkip (s.phys k)) (skipped semi r.2.2)).bump (regQlPasses (s.phys k))

/-! ### The checks of a tile (R171 to R174) -/

/-- The exact sum of the products of some pairs, and of their magnitudes. -/
def pairSums (ps : List (Fp × Fp)) : Dy × Dy :=
  ps.foldl (fun d p =>
    let x := Dy.mul p.1.dy p.2.dy
    (Dy.add d.1 x, Dy.add d.2 ⟨x.m.natAbs, x.e⟩)) (Dy.zero, Dy.zero)

/-- The exact sum of binary32 numbers. -/
def sum32 (xs : List Nat) : Dy := xs.foldl (fun d x => Dy.add d (fmt32.unpack x).dy) Dy.zero

/-- Does a sum of pass sums differ from its checksum by more than 2⁻¹⁸ of the sum of magnitudes; in INT8, at all (R171)? -/
def offSum (f : Nat) (got want mags : Dy) : Bool :=
  let d := Dy.add got want.neg
  if f = 4 then decide (d.m ≠ 0) else Dy.lt mags ⟨d.m.natAbs * 2 ^ 18, d.e⟩

/-- The row check: wₖ, vₖ, cᵣ and τᵣ from the row's pairs in every column, against its 32 pass sums (R171). c is rounded once to binary32;
in INT8 it is compared as it is, for a fault-free array never fails (R173; DEDUCED, log 90). -/
def rowOff (f : Nat) (pairs : List (List (Fp × Fp))) (sums : List Nat) : Bool :=
  let x := pairSums pairs.flatten
  let c := fmt32.ofDy .even false false x.1
  sums.all isFin32 && isFin32 c.1 && offSum f (sum32 sums) (if f = 4 then x.1 else (fmt32.unpack c.1).dy) x.2

/-- The column check over an operation's rows (R172). -/
def colOff (f : Nat) (pairs : List (List (Fp × Fp))) (sums : List Nat) : Bool :=
  let x := pairSums pairs.flatten
  sums.all isFin32 && offSum f (sum32 sums) x.1 x.2

/-- Do the checks of QL.MMA find a pass sum that a fault changed: both checksums of each pass in semiring 0, the checker column of the row in
the others (R171, R172, R174)? -/
def State.mmaFails (s : State) (k half : Nat) (addr cnt : Word) (w : WBuf) (semi f : Nat) (up : Nat × Nat × Nat) : Bool :=
  let vals := s.mmaVals k half addr cnt f
  let cols := (upto 32).map (fun j => w.col j)
  let pairs (r c t : Nat) : List (Fp × Fp) := (passPairs f (vals.getD r []) (cols.getD c [])).getD t []
  let sum (r c t : Nat) : Nat :=
    ((withUpset (some up) r c (passes semi f (vals.getD r []) (cols.getD c []))).getD t (0, .none)).1
  let r := up.1
  let c := up.2.1 % 32
  let t := up.2.1 / 32
  if vals.length ≤ r ∨ (passes semi f (vals.getD r []) (cols.getD c [])).length ≤ t then false
  else if sum r c t = ((passes semi f (vals.getD r []) (cols.getD c [])).getD t (0, .none)).1 then false
  else if semi = 0 then
    rowOff f ((upto 32).map (fun j => pairs r j t)) ((upto 32).map (fun j => sum r j t))
      || colOff f ((upto vals.length).map (fun i => pairs i c t)) ((upto vals.length).map (fun i => sum i c t))
  else decide (c = r % 32)

/-- Row bytes that QL.WB and SP.DRAIN write in an output format (R168). -/
def outBytes (f : Nat) : Nat := rowBytes f 32

/-- One entry of a writeback: its bytes, flags, and the generator after it (R168, R169). -/
def wbEntry (f : Nat) (sr : Bool) (gen : Word) (v : OutVal) : List Byte × EFlags × Word :=
  let (rv, g') := genNext gen
  let x := narrow f (if sr then .stochastic rv else .even) v
  (leBytes (elemBits f / 8) x.1, x.2, if sr then g' else gen)

/-- QL.WB: entries enabled by the mask are rounded and written; CLEAR empties the rows after reading (R156, R157). -/
def State.qlWb (s : State) (k half : Nat) (role : Bool) (addr cnt mask : Word) (sr clear : Bool) (f acc : Nat) : State :=
  let idx := (upto (cntRows cnt)).flatMap (fun i => (upto 32).map (fun c => (i, c)))
  idx.foldl (fun t p =>
    let q := (t.cl k).ql
    let key := accKey role acc p.1 + p.2
    let w := q.getAcc key
    let t1 := if colOn mask p.2 then
        let x := wbEntry f sr q.gen (entryVal w)
        ((t.wrN (sheetPa k half (adrOff addr + p.1 * adrStride addr + p.2 * (elemBits f / 8))) x.1).qlFlag k x.2.1).modQl k
          (fun q => { q with gen := x.2.2 })
      else t
    if clear then t1.modQl k (fun q => q.setAcc key 0) else t1) s

/-- QL.SAVE and QL.RESTORE move entries at full width, entry c at byte 8c (R170). -/
def State.qlSave (s : State) (k half : Nat) (role : Bool) (addr cnt : Word) (acc : Nat) : State :=
  (upto (cntRows cnt)).foldl (fun t i =>
    let q := (t.cl k).ql
    t.wrN (sheetPa k half (adrOff addr + i * adrStride addr))
      ((upto 32).flatMap (fun c => leBytes 8 (q.getAcc (accKey role acc i + c)).toNat))) s

def State.qlRestore (s : State) (k half : Nat) (role : Bool) (addr cnt : Word) (acc : Nat) : State :=
  (upto (cntRows cnt)).foldl (fun t i =>
    let pa := sheetPa k half (adrOff addr + i * adrStride addr)
    t.modQl k (fun q => (upto 32).foldl (fun q c =>
      q.setAcc (accKey role acc i + c) (BitVec.ofNat 64 (t.rdLe (pa + 8 * c) 8))) q)) s

/-- QL.ACCADD: source rows combined by ⊕; at full width in semiring 0 the error term is added too (R158). -/
def State.qlAccadd (s : State) (k half : Nat) (role : Bool) (addr cnt mask : Word) (full : Bool) (semi acc : Nat) : State :=
  let idx := (upto (cntRows cnt)).flatMap (fun i => (upto 32).map (fun c => (i, c)))
  idx.foldl (fun t p =>
    if !colOn mask p.2 then t
    else
      let pa := sheetPa k half (adrOff addr + p.1 * adrStride addr)
      let src := if full then BitVec.ofNat 64 (t.rdLe (pa + 8 * p.2) 8) else BitVec.ofNat 64 (t.rdLe (pa + 4 * p.2) 4)
      let q := (t.cl k).ql
      let key := accKey role acc p.1 + p.2
      let r := accCombine semi (q.getAcc key) (accS src)
      let w := if full && semi == 0 then accEntry (accS r.1) (add32 (accE r.1) (accE src)) else r.1
      (t.modQl k (fun q => q.setAcc key w)).qlFlag k { f := r.2 }) s

/-- QL.FILL: enabled columns take the identity, e = 0 (R149). -/
def State.qlFill (s : State) (k : Nat) (role : Bool) (cnt mask : Word) (semi acc : Nat) : State :=
  s.modQl k (fun q => (upto (cntRows cnt)).foldl (fun q i => (upto 32).foldl (fun q c =>
    if colOn mask c then q.setAcc (accKey role acc i + c) (accEntry (semiId semi) 0) else q) q) q)

/-- The task's later operations are discarded without effect (R167). -/
def State.qlDiscard (s : State) (k : Nat) (o : Owner) : State :=
  s.modQl k (fun q => { q with
    queue := q.queue.filter (fun x => !x.own.same o), dead := (o.job, o.num) :: q.dead })

/-- An operation stops with a status: ENGINE names its group, slot and status (R167). -/
def State.qlStop (s : State) (k : Nat) (o : Owner) (group slot status : Nat) : State :=
  (s.qlDiscard k o).engReport k o group (BitVec.ofNat 64 (status * 256 + slot))

/-! ### The command queue and the units (R162 to R164) -/

/-- The accumulator rows an operation touches: the first in its set, and their number. -/
def QlKind.rows : QlKind → Option (Nat × Nat)
  | .mma _ c _ _ _ _ _ acc => some (acc, cntRows c)
  | .wb _ c _ _ _ _ acc => some (acc, cntRows c)
  | .save _ c acc => some (acc, cntRows c)
  | .restore _ c acc => some (acc, cntRows c)
  | .accadd _ c _ _ _ acc => some (acc, cntRows c)
  | .fill c _ _ acc => some (acc, cntRows c)
  | _ => none

/-- Do two operations touch a common physical row (R163)? -/
def QlOp.meets (a b : QlOp) : Bool :=
  match a.kind.rows, b.kind.rows with
  | some (x, m), some (y, n) =>
    let p := accKey a.role x 0
    let q := accKey b.role y 0
    decide (p < q + 32 * n ∧ q < p + 32 * m)
  | _, _ => false

/-- The weight buffer an operation loads or uses. -/
def QlKind.buf : QlKind → Option Nat
  | .ldw _ _ _ b _ => some b
  | .mma _ _ _ _ b _ _ _ => some b
  | _ => none

/-- Does what a unit executes make an operation wait? -/
def waitsFor {α : Type} (u : Option α) (p : α → Bool) : Bool := (u.map p).getD false

/-- One step of the command queue: the operation at its head acts there, or its unit takes it up once it is idle and the waits of R163 are over;
the SET bit resolves as it leaves (R162, R164). None where it stays. A unit executes one operation at a time (DESIGN CHOICE, log 89). -/
def State.qlLeave (s : State) (k : Nat) : Option State :=
  let q := (s.cl k).ql
  match q.queue with
  | [] => none
  | o :: _ =>
    let o1 := { o with role := q.role }
    let pop (f : Quill → Quill) : Option State := some (s.modQl k (fun q => f { q with queue := q.queue.tail }))
    if q.failed || (s.job o.own.job).held || s.dx.stopped then none
    else match o.kind with
    | .swap => pop (fun q => { q with role := !q.role })
    | .seed v => if q.drain.isSome then none else pop (fun q => { q with gen := seedOf v })
    | .sig n =>
      let mine (x : QlOp) : Bool := x.own.same o.own
      if waitsFor q.weight mine || waitsFor q.array mine || waitsFor q.drain mine then none
      else (pop id).map (fun t => t.engSignal k (some n))
    | .ldw _ _ _ b _ =>
      if q.weight.isSome || waitsFor q.array (fun x => x.kind.buf == some b) then none
      else pop (fun q => { q with weight := some o1 })
    | .mma _ _ _ _ b _ f _ =>
      if q.array.isSome || waitsFor q.weight (fun x => x.kind.buf == some b) || waitsFor q.drain o1.meets then none
      else match (if b = 0 then q.w0 else q.w1) with
        | some w => if fmtMeet f w.fmt then pop (fun q => { q with array := some o1 }) else some (s.qlStop k o.own o.group o.slot 2)
        | none => some (s.qlStop k o.own o.group o.slot 2)
    | _ =>
      if q.drain.isSome || waitsFor q.array o1.meets then none
      else pop (fun q => { q with drain := some o1 })

/-- The command queue passes its operations on as far as they go. `n` bounds the steps. -/
def State.qlFlow (s : State) (k : Nat) : Nat → State
  | 0 => s
  | n + 1 => match s.qlLeave k with
    | none => s
    | some t => t.qlFlow k n

/-- The effect of an operation that a unit has executed; `up` is a pass sum that a fault changed (R156, R162). -/
def State.qlEffect (s : State) (k : Nat) (o : QlOp) (up : Option (Nat × Nat × Nat)) : State :=
  match o.kind with
  | .ldw addr cnt tr wb f =>
    let w := s.loadWeights k o.half addr cnt tr f
    s.modQl k (fun q => if wb = 0 then { q with w0 := some w } else { q with w1 := some w })
  | .mma addr cnt mask start wb semi f acc =>
    match (if wb = 0 then (s.cl k).ql.w0 else (s.cl k).ql.w1) with
    | some w => s.qlMma k o.half o.role addr cnt mask start w semi f acc up
    | none => s
  | .wb addr cnt mask sr clear f acc => s.qlWb k o.half o.role addr cnt mask sr clear f acc
  | .save addr cnt acc => s.qlSave k o.half o.role addr cnt acc
  | .restore addr cnt acc => s.qlRestore k o.half o.role addr cnt acc
  | .accadd addr cnt mask full semi acc => s.qlAccadd k o.half o.role addr cnt mask full semi acc
  | .fill cnt mask semi acc => s.qlFill k o.role cnt mask semi acc
  | _ => s

/-- A cluster whose engines run: joined, not fenced, served, its jobs not stopped (R33, R321, R457). -/
def State.cluLive (s : State) (k : Nat) : Bool := decide (k < 128) && s.coreLive k

/-- Does an operation read accumulator entries, so that their code can meet an error (R151)? -/
def QlKind.reads : QlKind → Bool
  | .mma _ _ _ start _ _ _ _ => !start
  | .wb _ _ _ _ _ _ _ => true
  | .save _ _ _ => true
  | .accadd _ _ _ _ _ _ => true
  | _ => false

/-- Does it pass a duplicated stage: the accumulate stage or the writeback conversion (R174)? -/
def QlKind.twice : QlKind → Bool
  | .mma _ _ _ _ _ _ _ _ => true
  | .wb _ _ _ _ _ _ _ => true
  | .accadd _ _ _ _ _ _ => true
  | _ => false

/-- Does a check fail as an operation completes (R171 to R174)? -/
def State.qlFails (s : State) (k : Nat) (o : QlOp) (r : OpCheck) : Bool :=
  match r, o.kind with
  | .mismatch, x => x.twice
  | .upset i j v, .mma addr cnt _ _ wb semi f _ =>
    (match (if wb = 0 then (s.cl k).ql.w0 else (s.cl k).ql.w1) with
      | some w => s.mmaFails k o.half addr cnt w semi f (i, j, v)
      | none => false)
  | _, _ => false

/-- What a unit executes. -/
def Quill.unit (q : Quill) : QlUnit → Option QlOp
  | .weight => q.weight
  | .array => q.array
  | .drain => q.drain

/-- A unit with its operation done. -/
def Quill.idle (q : Quill) : QlUnit → Quill
  | .weight => { q with weight := none }
  | .array => { q with array := none }
  | .drain => { q with drain := none }

/-- The Quill finds a failure: nothing completes any more, and the Blotter hears of it (R151, R175). -/
def State.qlFail (s : State) (k slot code : Nat) : State :=
  (s.modQl k (fun q => { q with failed := true })).report ⟨code, ⟨0, s.phys k⟩, 0, BitVec.ofNat 64 slot, none, false⟩

/-- An operation completes with what the checkers found: corrected errors are counted and reported, failures are faults after which the
engine completes nothing (R151, R175). -/
def State.qlDo (s : State) (k : Nat) (o : QlOp) (r : OpCheck) : State :=
  if s.qlFails k o r then (s.bump (regQlChkFail (s.phys k))).qlFail k o.slot 0x03
  else match r, o.kind.reads with
    | .doubleBit, true => s.qlFail k o.slot 0x04
    | .corrected n, true =>
      ((s.bumpBy (regQlAccCorr (s.phys k)) n).report ⟨0x43, ⟨0, s.phys k⟩, 0, 0, none, false⟩).qlEffect k o none
    | .upset i j v, _ => s.qlEffect k o (some (i, j, v))
    | _, _ => s.qlEffect k o none

/-- The operation that a unit executes completes (R162, R175). Those that have left the command queue complete in a folio stop too (R176). -/
def State.qlUnitDone (s : State) (k : Nat) (u : QlUnit) (r : OpCheck) : State :=
  match (s.cl k).ql.unit u with
  | none => s
  | some o =>
    if (s.job o.own.job).held || (s.cl k).ql.failed then s
    else
      let t := s.qlDo k o r
      if (t.cl k).ql.failed then t else t.modQl k (fun q => q.idle u)

/-- QL_OP_COMPLETE: what a unit executes completes, and the command queue moves on before and after it. -/
def State.qlComplete (s : State) (k : Nat) (u : QlUnit) (r : OpCheck) : State :=
  if !s.cluLive k then s
  else ((s.qlFlow k 16).qlUnitDone k u r).qlFlow k 16

/-! ### Issue -/

/-- The task becomes owner where none is: flags cleared, buffers not loaded (R160, R161, R177). -/
def State.qlClaim (s : State) (k : Nat) (o : Owner) : State :=
  match (s.cl k).ql.owner with
  | some _ => s
  | none => s.modQl k (fun q => { q with owner := some o, w0 := none, w1 := none, flags := 0 })

/-- Is the Quill owned by another task? -/
def State.qlBusy (s : State) (k : Nat) (o : Owner) : Bool :=
  match (s.cl k).ql.owner with
  | some w => !w.same o
  | none => false

/-- A Quill instruction of a task that does not own the Quill stops with ACC_BUSY (R161, R167). -/
def State.qlRefuse (s : State) (h : Hart) (group : Nat) : State :=
  let o := ownerOf h (s.ctx h)
  let slot := (s.cl h.core).ql.nextSlot
  (((s.modCtx h Ctx.next).modQl h.core (fun q => { q with nextSlot := (slot + 1) % 16 })).qlDiscard h.core o).engReport
    h.core o group (BitVec.ofNat 64 (0x100 + slot))

/-- Are the task's Quill operations discarded (R167)? -/
def State.qlDead (s : State) (k : Nat) (o : Owner) : Bool := (s.cl k).ql.dead.contains (o.job, o.num)

/-- A Quill operation enters the command queue; a full queue stalls issue (R77, R161, R162, R167). -/
def State.qlIssue (s : State) (h : Hart) (group : Nat) (kind : QlKind) : State :=
  let k := h.core
  let o := ownerOf h (s.ctx h)
  let q := (s.cl k).ql
  if s.qlDead k o then s.modCtx h Ctx.next
  else if s.qlBusy k o then s.qlRefuse h group
  else if q.queue.length ≥ 16 then s
  else
    (((s.qlClaim k o).modCtx h Ctx.next).modQl k (fun q => { q with
      queue := q.queue ++ [⟨q.nextSlot, group, o, (s.cl k).front, kind, false⟩], nextSlot := (q.nextSlot + 1) % 16 })).qlFlow k 16

/-- Has every Quill operation of the task completed? -/
def State.qlDone (s : State) (k : Nat) (o : Owner) : Bool := !(s.cl k).ql.ops.any (fun x => x.own.same o)

/-- The task gives up the Quill at its END (R161). -/
def Quill.release (q : Quill) (o : Owner) : Quill :=
  { q with owner := q.owner.filter (fun w => !w.same o), dead := q.dead.filter (fun d => !(d == (o.job, o.num))) }

/-- QL.RDFL waits for the task's earlier operations, then reads the flags and clears them when asked (R158). -/
def State.qlReadFlags (s : State) (h : Hart) (group dst : Nat) (clear : Bool) : State :=
  let k := h.core
  let o := ownerOf h (s.ctx h)
  if s.qlDead k o then s.modCtx h Ctx.next
  else if s.qlBusy k o then s.qlRefuse h group
  else if !s.qlDone k o then s.waits h
  else
    let t := s.qlClaim k o
    let u := t.modCtx h (fun c => (c.setA dst (t.cl k).ql.flags).next)
    if clear then u.modQl k (fun q => { q with flags := 0 }) else u

end Sys2Proof.Machine
end

