-- ==== Sys2Proof/Machine/StippleOps.lean ====
section
/-! DEFINITION. The Stipple: compressed tiles, pruning, products, keyed sums, drains and the activation predictor
(R205 to R232). -/

namespace Sys2Proof.Machine

def State.modSp (s : State) (k : Nat) (f : Stipple → Stipple) : State := s.modCl k (fun c => { c with sp := f c.sp })

/-- Add to SP_FLAGS: NV, OF, UF and SAT in bits 3 to 0, OOB 16, PRUNED 32. -/
def State.spFlag (s : State) (k bits : Nat) : State :=
  s.modSp k (fun q => { q with flags := q.flags ||| BitVec.ofNat 64 bits })

def spNv : Nat := 8
def spOobBit : Nat := 16
def spPrunedBit : Nat := 32

/-- `n` positions, pointers, rows or keys read as absent (R211, R222). -/
def State.spOob (s : State) (k n : Nat) : State :=
  if n = 0 then s else (s.spFlag k spOobBit).bumpBy (regSpOob (s.phys k)) n

/-- `n` groups or blocks lost values (R211 to R214). -/
def State.spPruned (s : State) (k n : Nat) : State :=
  if n = 0 then s else (s.spFlag k spPrunedBit).bumpBy (regSpPruned (s.phys k)) n

/-! ### Tiles (R207 to R211) -/

/-- A tile whose header has passed R210. -/
structure Tile where
  base : Nat
  kind : Nat
  fmt : Nat
  semi : Nat
  rows : Nat
  kdim : Nat
  val : Nat
  idx : Nat
  ptr : Nat
  stored : Nat
  deriving DecidableEq, Repr

/-- Bytes of a value. -/
def valBytes (f : Nat) : Nat := elemBits f / 8

/-- The largest KDIM of a format (R207). -/
def kdimMax (f : Nat) : Nat := if f ≤ 1 then 1024 else 2048

/-- The tile at a Sheet offset, none where R210 stops the operation. -/
def State.tileAt (s : State) (k half off : Nat) : Option Tile :=
  let base := sheetPa k half off
  let hd := s.rdN base 64
  let le (o n : Nat) : Nat := leNat (sliceB hd o n)
  let t : Tile := { base := base, kind := le 4 1, fmt := le 5 1, semi := le 6 1, rows := le 8 2, kdim := le 10 2
                    val := le 16 4, idx := le 20 4, ptr := le 24 4, stored := 0 }
  let bytes := le 0 4
  let okHead := decide (le 60 4 = (crc32c (hd.take 60)).toNat) && decide (1 ≤ t.kind ∧ t.kind ≤ 3) && decide (t.fmt ≤ 4)
    && decide (t.semi ≤ 4) && decide (1 ≤ t.rows ∧ t.rows ≤ 2048) && decide (t.kind ≠ 2 ∨ t.rows % 4 = 0)
    && decide (t.kdim % 4 = 0 ∧ 4 ≤ t.kdim ∧ t.kdim ≤ kdimMax t.fmt) && decide (le 7 1 = 0)
    && decide (leNat (sliceB hd 28 32) = 0) && decide (bytes % 16 = 0) && decide (64 ≤ bytes)
    && decide (t.val % 16 = 0 ∧ t.idx % 16 = 0 ∧ t.ptr % 16 = 0) && inRegion off bytes && inRegion off 64
  if !okHead then none
  else if t.kind = 3 then
    if t.ptr + 4 * (t.rows + 1) > bytes then none
    else
      let n := s.rdLe (base + t.ptr + 4 * t.rows) 4
      if t.idx + 2 * n ≤ bytes ∧ t.val + n * valBytes t.fmt ≤ bytes then some { t with stored := n } else none
  else if t.ptr ≠ 0 then none
  else if t.val + t.rows * t.kdim / 2 * valBytes t.fmt ≤ bytes ∧ t.idx + (t.rows * t.kdim / 4 + 1) / 2 ≤ bytes then
    some { t with stored := t.rows * t.kdim / 2 }
  else none

/-- The bits of the absent value of a semiring in a format (R206). -/
def absentRaw (f semi : Nat) : Nat :=
  match semi with
  | 1 => (fmtOf f).infBits false
  | 2 => (fmtOf f).infBits true
  | 3 => (fmtOf f).infBits true
  | _ => 0

/-- Is a value the absent one (R212)? -/
def isAbsent (f semi raw : Nat) : Bool :=
  if semi = 0 || semi = 4 then (elemFp f raw).isZero else raw == absentRaw f semi

/-- A stored value with its position; none where it contributes nothing. -/
abbrev Stored := Option (Nat × Nat)

/-- What a row of a tile reads as: its stored values in order, how many were out of bounds, how many groups were bad. -/
structure RowRead where
  vals : List Stored
  oob : Nat
  pruned : Nat
  deriving DecidableEq, Repr

def State.tileVal (s : State) (t : Tile) (i : Nat) : Nat := s.rdLe (t.base + t.val + i * valBytes t.fmt) (valBytes t.fmt)

/-- The index nibble of a group (R208). -/
def State.tileNib (s : State) (t : Tile) (g : Nat) : Nat :=
  ((s.rd (t.base + t.idx + g / 2)).toNat >>> (4 * (g % 2))) % 16

/-- A row of a kind 1 or 2 tile (R208, R211). -/
def State.rowGroups (s : State) (t : Tile) (r : Nat) : RowRead :=
  let gs := t.kdim / 4
  let one (i : Nat) : List Stored × Nat :=
    let g := r * gs + i
    let nib := s.tileNib t g
    let p := 4 * i + nib % 4
    let q := 4 * i + nib / 4
    if p = q then ([some (p, s.tileVal t (2 * g)), none], 1)
    else ([some (p, s.tileVal t (2 * g)), some (q, s.tileVal t (2 * g + 1))], 0)
  let all := (upto gs).map one
  ⟨all.flatMap (fun x => x.1), 0, (all.map (fun x => x.2)).sum⟩

/-- A row of a kind 3 tile (R209, R211). -/
def State.rowSparse (s : State) (t : Tile) (r : Nat) : RowRead :=
  let p (i : Nat) : Nat := s.rdLe (t.base + t.ptr + 4 * i) 4
  let lo := min (p r) t.stored
  let hi := min (p (r + 1)) t.stored
  let badPtr := b2n (decide (p (r + 1) > t.stored)) + (if r = 0 then b2n (decide (p 0 > t.stored)) else 0)
  if hi < lo then ⟨[], badPtr + 1, 0⟩
  else
    let vals := (upto (hi - lo)).map (fun j =>
      let pos := s.rdLe (t.base + t.idx + 2 * (lo + j)) 2
      if pos ≥ t.kdim then (none : Stored) else some (pos, s.tileVal t (lo + j)))
    ⟨vals, badPtr + (vals.filter (fun v => v.isNone)).length, 0⟩

/-- The magnitude order of R213: NaN first, then the larger magnitude. Is a strictly ahead of b? -/
def magAbove (a b : Fp) : Bool :=
  if a.isNan then !b.isNan
  else if b.isNan then false
  else if a.isInf then !b.isInf
  else if b.isInf then false
  else Dy.lt { b.dy with m := b.dy.m.natAbs } { a.dy with m := a.dy.m.natAbs }

/-- Put a value behind every value that is not strictly below it. -/
def magInsert (f : Nat) (x : Nat × Nat) : List (Nat × Nat) → List (Nat × Nat)
  | [] => [x]
  | y :: r => if magAbove (elemFp f x.2) (elemFp f y.2) then x :: y :: r else y :: magInsert f x r

/-- Values by magnitude, the earlier first among equals (R213). -/
def magSort (f : Nat) (l : List (Nat × Nat)) : List (Nat × Nat) := l.foldl (fun a x => magInsert f x a) []

/-- The two largest of a group, in order of position, and whether any was dropped (R212, R214). -/
def keepTwo (f : Nat) (l : List (Nat × Nat)) : List (Nat × Nat) × Bool :=
  if l.length ≤ 2 then (l, false)
  else
    let top := (magSort f l).take 2
    (l.filter (fun x => top.contains x), true)

/-- Column q of a kind 2 tile read transposed: position a of its group i is row 4i + a (R214). A nibble with two equal positions has no second
value; it counts with the first of the four columns that read it (R211). -/
def State.colGroups (s : State) (t : Tile) (q : Nat) : RowRead :=
  let gs := t.kdim / 4
  let cell (r : Nat) : Option Nat :=
    let g := r * gs + q / 4
    let nib := s.tileNib t g
    let v := if nib % 4 = q % 4 then some (s.tileVal t (2 * g))
      else if nib / 4 = q % 4 then some (s.tileVal t (2 * g + 1)) else none
    v.filter (fun x => !isAbsent t.fmt t.semi x)
  let one (i : Nat) : List Stored × Nat :=
    let present := (upto 4).filterMap (fun a => (cell (4 * i + a)).map (fun v => (4 * i + a, v)))
    let kept := keepTwo t.fmt present
    let same := (upto 4).filter (fun a =>
      let nib := s.tileNib t ((4 * i + a) * gs + q / 4)
      q % 4 == 0 && nib % 4 == nib / 4)
    ((kept.1.map (fun x => (some x : Stored)) ++ [none, none]).take 2, b2n kept.2 + same.length)
  let all := (upto (t.rows / 4)).map one
  ⟨all.flatMap (fun x => x.1), 0, (all.map (fun x => x.2)).sum⟩

/-- Output row r of a tile. -/
def State.tileRow (s : State) (t : Tile) (tr : Bool) (r : Nat) : RowRead :=
  if t.kind = 3 then s.rowSparse t r else if tr then s.colGroups t r else s.rowGroups t r

/-- Stored values of one pass (R205, R206). -/
def passLen (t : Tile) : Nat := (if t.kind = 3 then 1 else 2) * (if t.fmt ≤ 1 then 1 else 2)

/-! ### Products -/

/-- A value of the B buffer; rows that were not loaded hold an open value. -/
def BBuf.at (b : BBuf) (free : Nat) (p c : Nat) : Fp :=
  let i := p * 32 + c
  elemFp b.fmt (if p < b.rows then b.elems.getD i 0 else (Config.freeWord (free + i)).toNat % 2 ^ elemBits b.fmt)

/-- One segment against one column: a row accumulator (R206, R218). -/
def segSum (t : Tile) (semi : Nat) (b : BBuf) (free : Nat) (seg : List Stored) (c : Nat) : Word × FFlags :=
  (chunks (passLen t) seg.length seg).foldl (fun (a : Word × FFlags) ps =>
    let pairs := ps.filterMap (fun v => v.map (fun x => (elemFp t.fmt x.2, b.at free x.1 c)))
    let p := passSum semi pairs
    let r := accCombine semi a.1 p.1
    (r.1, (a.2.or p.2).or r.2)) (accEntry (semiId semi) 0, FFlags.none)

/-- Segments of 64 stored values that a row is cut into (R217). -/
def segCount (n : Nat) : Nat := (n + 63) / 64

/-- A lane of a running SP.MMA: its own segments that no lane has started, in row order, and the one it works on (R217). A segment is named by
its row and its number in it. -/
structure LaneRun where
  own : List (Nat × Nat)
  now : Option (Nat × Nat)
  deriving DecidableEq, Repr

/-- The lane that lane l steals from: the one with the most unstarted segments, the nearer in ring order on a tie (R217). -/
def stealFrom (ls : List LaneRun) (l : Nat) : Option Nat :=
  let n (v : Nat) : Nat := ((ls.map (fun x => x.own.length)).getD v 0)
  (upto 15).foldl (fun (b : Option Nat) i =>
    let v := (l + 1 + i) % 16
    match b with
    | none => if n v = 0 then none else some v
    | some w => if n v > n w then some v else b) none

/-- Lane l takes its next segment: its own in order, or else the last unstarted one of another; the Bool says that it stole (R217). -/
def laneTake (ls : List LaneRun) (l : Nat) : List LaneRun × Bool :=
  match ls[l]? with
  | none => (ls, false)
  | some x => match x.own with
    | g :: rest => (ls.set l ⟨rest, some g⟩, false)
    | [] => match stealFrom ls l with
      | none => (ls.set l ⟨[], none⟩, false)
      | some v => match ls[v]? with
        | none => (ls, false)
        | some y => ((ls.set v { y with own := y.own.dropLast }).set l ⟨[], y.own.getLast?⟩, true)

/-- The lanes at work: a free number says which finishes next. The segments in the order in which they end, and the steals (R217, R218). -/
def laneWork (seed : Nat → Nat) : Nat → List LaneRun → List (Nat × Nat) × Nat
  | 0, _ => ([], 0)
  | n + 1, ls =>
    let busy := (upto 16).filter (fun l => ((ls.map (fun x => x.now.isSome)).getD l false))
    match busy[seed n % busy.length]? with
    | none => ([], 0)
    | some l =>
      let t := laneTake ls l
      let r := laneWork seed n t.1
      (((ls.map LaneRun.now).getD l none).toList ++ r.1, b2n t.2 + r.2)

/-- The run of some rows with their numbers of segments: lane l owns the rows l, l + 16, … (R217). -/
def laneRun (seed : Nat → Nat) (rows : List (Nat × Nat)) : List (Nat × Nat) × Nat :=
  let own (l : Nat) : List (Nat × Nat) :=
    (rows.filter (fun r => r.1 % 16 == l)).flatMap (fun r => (upto r.2).map (fun j => (r.1, j)))
  let ready := (upto 16).foldl (fun (st : List LaneRun × Nat) l => let t := laneTake st.1 l; (t.1, st.2 + b2n t.2))
    ((upto 16).map (fun l => (⟨own l, none⟩ : LaneRun)), 0)
  let r := laneWork seed ((rows.map (fun x => x.2)).sum) ready.1
  (r.1, ready.2 + r.2)

/-- Rows in the order in which they are finished: those without a segment, then by their last segment. -/
def rowOrder (rows : List (Nat × Nat)) (done : List (Nat × Nat)) : List Nat :=
  ((rows.filter (fun r => r.2 == 0)).map (fun r => r.1)) ++
    (done.reverse.foldl (fun (l : List Nat) g => if l.contains g.1 then l else g.1 :: l) [])

/-- One row in full: its segments reach each enabled column in the order in which their lanes end them (R217, R218). -/
def Stipple.addRow (q : Stipple) (t : Tile) (semi : Nat) (b : BBuf) (free row : Nat) (mask : Word) (vals : List Stored)
    (ends : List Nat) : Stipple × FFlags :=
  let segs := chunks 64 vals.length vals
  let order := ends.map (fun j => segs.getD j [])
  (upto 32).foldl (fun (st : Stipple × FFlags) c =>
    let parts := order.map (fun sg => segSum t semi b free sg c)
    let fl := parts.foldl (fun f p => f.or p.2) st.2
    if bitOf mask c then
      let key := 32 * row + c
      let w := parts.foldl (fun (a : Word × FFlags) p => let r := accMerge semi a.1 p.1; (r.1, a.2.or r.2))
        (smapGet (fun _ => 0) st.1.buf key, fl)
      ({ st.1 with buf := smapSet (fun _ => 0) st.1.buf key w.1 }, w.2)
    else (st.1, fl)) (q, FFlags.none)

/-- Truncate to 4 significant bits (R224). -/
def trunc4 (x : Fp) : Dy :=
  match x with
  | .fin n m e =>
    let l := Nat.log2 m
    let v : Dy := if l < 4 then ⟨(m : Int), e⟩ else ⟨((m >>> (l - 3) : Nat) : Int), e + ((l - 3 : Nat) : Int)⟩
    if n then v.neg else v
  | _ => .zero

/-- The sign check of one column: the sums are formed exactly and rounded once to binary32 (R224; DESIGN CHOICE, log 30). -/
def signCheck (bias : Fp) (prods : List Dy) : Bool :=
  let y := fmt32.ofDy .even false false (prods.foldl Dy.add bias.dy)
  let beta := fmt32.ofDy .even false false (Dy.scale (prods.foldl (fun a p => Dy.add a { p with m := p.m.natAbs }) Dy.zero) (-1))
  match fmt32.unpack (add32 y.1 beta.1) with
  | .fin n m _ => n || m == 0
  | .inf n => n
  | .nan _ => false

/-- Is a predicted row verified zero (R224)? -/
def verified (t : Tile) (b : BBuf) (free : Nat) (mask : Word) (bias : List Fp) (vals : List Stored) : Bool :=
  let vs := vals.filterMap (fun v => v.map (fun x => (x.1, elemFp t.fmt x.2)))
  let odd (x : Fp) : Bool := x.isNan || x.isInf
  if bias.any odd || vs.any (fun v => odd v.2 || (upto 32).any (fun c => odd (b.at free v.1 c))) then false
  else (upto 32).all (fun c => !bitOf mask c ||
    signCheck (bias.getD c (.fin false 0 0)) (vs.map (fun v => Dy.mul (trunc4 v.2) (trunc4 (b.at free v.1 c)))))

/-- The bias values of a predictor word (R224). -/
def State.biasOf (s : State) (k half : Nat) (pred : Word) : List Nat :=
  (upto 32).map (fun c => s.rdLe (sheetPa k half (fld pred 44 24) + 4 * c) 4)

/-- Is output row r predicted zero? -/
def State.predicted (s : State) (k half : Nat) (pred : Word) (r : Nat) : Bool :=
  (s.rd (sheetPa k half (fld pred 20 0) + r / 8)).toNat.testBit (r % 8)

/-- A row computed in full, with the bias added when the predictor is on (R225). -/
def State.spFullRow (s : State) (k : Nat) (t : Tile) (tr : Bool) (semi : Nat) (b : BBuf) (free row r : Nat) (mask : Word)
    (bias ends : List Nat) : State :=
  let rd := s.tileRow t tr r
  let x := (s.cl k).sp.addRow t semi b free (row + r) mask rd.vals ends
  let y := bias.zipIdx.foldl (fun (st : Stipple × FFlags) (v : Nat × Nat) =>
    if bitOf mask v.2 then
      let key := 32 * (row + r) + v.2
      let w := accCombine semi (smapGet (fun _ => 0) st.1.buf key) v.1
      ({ st.1 with buf := smapSet (fun _ => 0) st.1.buf key w.1 }, st.2.or w.2)
    else st) x
  (((s.modSp k (fun _ => y.1)).spFlag k (EFlags.bits { f := { nv := y.2.nv, of := y.2.of } })).spOob k rd.oob).spPruned k rd.pruned

/-- The main pass with the predictor: predicted rows are checked, a verified row is marked skipped, a misprediction waits
for repair, and a full repair queue switches the predictor off (R224, R225, R227). The Bool says the predictor is on. -/
def State.spPredRow (s : State) (k half : Nat) (t : Tile) (tr : Bool) (semi : Nat) (b : BBuf) (free row : Nat) (mask pred : Word)
    (ends : List Nat) (on : Bool) (r : Nat) : State × Bool :=
  let bias := s.biasOf k half pred
  if on && s.predicted k half pred r then
    let rd := s.tileRow t tr r
    if verified t b free mask (bias.map fmt32.unpack) rd.vals then
      (((((s.bump (regSpPredSkip (s.phys k))).modSp k (fun q => { q with skipped := (row + r) :: q.skipped })).spOob k rd.oob).spPruned k
        rd.pruned), true)
    else
      let u := s.bump (regSpPredMiss (s.phys k))
      if (s.cl k).sp.repair.length < 64 then (u.modSp k (fun q => { q with repair := q.repair ++ [r] }), true)
      else (((u.bump (regSpPredOff (s.phys k))).spFullRow k t tr semi b free row r mask bias ends), false)
  else (s.spFullRow k t tr semi b free row r mask bias ends, on)

/-- Rows take the identity of a semiring in the enabled columns. -/
def Stipple.identity (q : Stipple) (semi first n : Nat) (mask : Word) : Stipple :=
  (upto n).foldl (fun q i => (upto 32).foldl (fun q c =>
    if bitOf mask c then { q with buf := smapSet (fun _ => 0) q.buf (32 * (first + i) + c) (accEntry (semiId semi) 0) } else q) q) q

/-! ### Stops -/

/-- The task's operations from number `seq` on are discarded, in the queue and in the units (R231). -/
def Stipple.discard (q : Stipple) (o : Owner) (seq : Nat) : Stipple :=
  let keep (x : SpOp) : Bool := !(x.own.same o && decide (seq ≤ x.seq))
  let lanes := q.lanes.filter keep
  { q with
    queue := q.queue.filter keep, load := q.load.filter keep, lanes := lanes, port := q.port.filter keep, comp := q.comp.filter keep
    dead := (o.job, o.num) :: q.dead
    repair := if lanes.isSome then q.repair else [], repairing := lanes.isSome && q.repairing }

/-- An operation stops with a status (R231). -/
def State.spStop (s : State) (k : Nat) (o : SpOp) (status : Nat) : State :=
  (s.modSp k (fun q => q.discard o.own o.seq)).engReport k o.own o.group (BitVec.ofNat 64 (status * 256 + o.slot))

/-- What a unit executes. -/
def Stipple.unit (q : Stipple) : SpUnit → Option SpOp
  | .load => q.load
  | .lanes => q.lanes
  | .port => q.port
  | .comp => q.comp

/-- A unit with its operation done. -/
def Stipple.idle (q : Stipple) : SpUnit → Stipple
  | .load => { q with load := none }
  | .lanes => { q with lanes := none, repair := [], repairing := false }
  | .port => { q with port := none }
  | .comp => { q with comp := none }

/-- The operation of a unit is complete. -/
def State.spPop (s : State) (k : Nat) (u : SpUnit) : State := (s.modSp k (fun q => q.idle u)).bump (regSpOps (s.phys k))

/-! ### SP.MMA -/

/-- Output rows of a product. -/
def outRows (t : Tile) (tr : Bool) : Nat := if tr then t.kdim else t.rows

/-- What SP.MMA checks before it changes anything (R210, R214, R216, R219, R228): a status, or the tile and B buffer. -/
def State.spMmaCheck (s : State) (k half : Nat) (off : Nat) (tr : Bool) (bbuf f row : Nat) : Nat ⊕ (Tile × BBuf) :=
  let q := (s.cl k).sp
  let pairOk (x y : Nat) : Bool := x == y || (x == 2 && y == 3) || (x == 3 && y == 2)
  match s.tileAt k half off with
  | none => .inl 2
  | some t =>
    if tr && t.kind ≠ 2 then .inl 2
    else if q.keyed then .inl 4
    else match (if bbuf = 0 then q.b0 else q.b1) with
      | none => .inl 3
      | some b =>
        if !(pairOk t.fmt b.fmt && pairOk f b.fmt) then .inl 3
        else if row + outRows t tr > 2048 then .inl 2
        else if (upto (outRows t tr)).any (fun r => q.skipped.contains (row + r)) then .inl 6
        else .inr (t, b)

/-- Free words that one SP.MMA may use: missing B rows, and which lane ends its segment next. -/
def spFree : Nat := 65536 + 2048 * 32

/-- Segments of some output rows (R217). -/
def State.spSegs (s : State) (t : Tile) (tr : Bool) (rows : List Nat) : List (Nat × Nat) :=
  rows.map (fun r => (r, segCount (s.tileRow t tr r).vals.length))

/-- Lane-cycles that a run may have stalled on a full conflict queue: only at a bank that ten updates reach, and each of them at most while the
other lanes' go first (R221; DEDUCED, log 95). -/
def stallBound (row : Nat) (segs : List (Nat × Nat)) : Nat :=
  ((upto 32).map (fun b =>
    let n := ((segs.filter (fun r => (row + r.1) % 32 == b)).map (fun r => r.2)).sum
    if 10 ≤ n then 16 * n else 0)).sum

/-- Some rows of a product over the lanes: `one` computes a row given the order in which its segments end. Steals are counted as they happen,
stalls where the spec allows any (R217, R221, R234). -/
def State.spLanes (s : State) (k : Nat) (t : Tile) (tr : Bool) (row : Nat) (rows : List Nat)
    (one : State × Bool → List Nat → Nat → State × Bool) : State :=
  let segs := s.spSegs t tr rows
  let run := laneRun (fun i => (Config.freeWord (s.free + 65536 + i)).toNat) segs
  let res := (rowOrder segs run.1).foldl (fun (a : State × Bool) r => one a ((run.1.filter (fun g => g.1 == r)).map (fun g => g.2)) r)
    (({ s with free := s.free + spFree } : State), true)
  let p := s.phys k
  let clash := if t.kind ≤ 2 ∧ (if tr then t.rows else t.kdim) % 64 = 0 then 0 else 16 * t.stored
  ((res.1.bumpBy (regSpSteals p) run.2).bumpUpTo (regSpBbufStall p) clash).bumpUpTo (regSpBabStall p) (stallBound row segs)

/-- The main pass of SP.MMA (R217, R224). -/
def State.spMma (s : State) (k : Nat) (o : SpOp) (t : Tile) (b : BBuf) (pred : Word) (usePred tr start : Bool)
    (semi row : Nat) (mask : Word) : State :=
  let n := outRows t tr
  let s0 := if start then s.modSp k (fun q => q.identity semi row n mask) else s
  let u := s0.spLanes k t tr row (upto n) (fun a ends r =>
    if usePred then a.1.spPredRow k o.half t tr semi b s.free row mask pred ends a.2 r
    else (a.1.spFullRow k t tr semi b s.free row r mask [] ends, false))
  if (u.cl k).sp.repair.isEmpty then u.spPop k .lanes else u.modSp k (fun q => { q with repairing := true })

/-! ### Record blocks (R220, R222) -/

/-- Bytes of a record in a format. -/
def recBytes (f : Nat) : Nat := if f = 10 then 144 else if f ≤ 1 then 80 else 48

/-- The format and number of records of a block whose header keeps the layout (R222). -/
def State.recHead (s : State) (k half off : Nat) : Option (Nat × Nat) :=
  let hd := s.rdN (sheetPa k half off) 16
  let le (o n : Nat) : Nat := leNat (sliceB hd o n)
  let f := le 8 1
  let n := le 4 4
  if le 12 4 = (crc32c (hd.take 12)).toNat ∧ le 9 1 = 4 ∧ le 10 2 = 0 ∧ (f ≤ 4 ∨ f = 10) ∧ le 0 4 = 16 + n * recBytes f
      ∧ inRegion off (le 0 4) = true then some (f, n) else none

/-- The set of a key (R220). -/
def keySet (row cb : Nat) : Nat :=
  let fold := (row % 512) ^^^ ((row >>> 9) % 512) ^^^ ((row >>> 18) % 512) ^^^ ((row >>> 27) % 512) ^^^
    ((row >>> 36) % 512) ^^^ ((row >>> 45) % 8)
  (fold + 32 * cb) % 512

/-- Where the record of a key goes: its entry, a free way, a free overflow entry, or nowhere (R220). -/
inductive KeyPlace where
  | held (place : Nat)
  | fresh (place : Nat) (ovf : Bool)
  | full
  deriving DecidableEq, Repr

def Stipple.place (q : Stipple) (row cb : Nat) : KeyPlace :=
  match q.keys.find? (fun e => e.row == row && e.cb == cb) with
  | some e => .held e.place
  | none =>
    let free (p : Nat) : Bool := !q.keys.any (fun e => e.place == p)
    match ((upto 4).map (fun w => 4 * keySet row cb + w)).find? free with
    | some p => .fresh p false
    | none => match ((upto 64).map (fun i => 2048 + i)).find? free with
      | some p => .fresh p true
      | none => .full

/-- Add the values of a record into its entry: an old one combines by the semiring, a new one starts from them (R220). -/
def Stipple.addRecord (q : Stipple) (semi : Nat) (mask : Word) (place : Nat) (fresh : Bool) (vals : List Fp) : Stipple × FFlags :=
  vals.zipIdx.foldl (fun (st : Stipple × FFlags) (v : Fp × Nat) =>
    let key := 32 * place + v.2
    let x := v.1.to32
    let nan := v.1.isNan && semi != 4
    let x' := if nan then fmt32.qnan else x
    let put (w : Word) : Stipple := { st.1 with buf := smapSet (fun _ => 0) st.1.buf key w }
    if bitOf mask v.2 then
      let w : Word × FFlags := if fresh then (accEntry x' 0, FFlags.none) else accCombine semi (smapGet (fun _ => 0) st.1.buf key) x'
      (put w.1, (st.2.or w.2).or { nv := nan })
    else if fresh then (put (accEntry (semiId semi) 0), st.2) else st) (q, FFlags.none)

/-- SP.KADD record by record; a record that finds no place stops the operation (R220, R222). One record a cycle never fills a conflict queue
(R221; DEDUCED, log 95). -/
def State.spKadd (s : State) (k : Nat) (o : SpOp) (semi f : Nat) (mask : Word) (pa : Nat) : Nat → State
  | 0 => s.spPop k .port
  | n + 1 =>
    let w := s.rdLe pa 8
    let rest (t : State) : State := t.spKadd k o semi f mask (pa + recBytes f) n
    if !w.testBit 63 then rest s
    else if (w >>> 52) % 2048 ≠ 0 then rest (s.spOob k 1)
    else
      let row := w % 2 ^ 48
      let cb := (w >>> 48) % 16
      let vals := (elemsOf f (s.rdN (pa + 8) (rowBytes f 32)) 32).map (elemFp f)
      let q := (s.cl k).sp
      let go (place : Nat) (fresh : Bool) (q : Stipple) (t : State) : State :=
        let r := q.addRecord semi mask place fresh vals
        rest ((t.modSp k (fun _ => r.1)).spFlag k (EFlags.bits { f := { nv := r.2.nv, of := r.2.of } }))
      match q.place row cb with
      | .held p => go p false q s
      | .fresh p ovf => go p true { q with keys := q.keys ++ [⟨p, row, cb⟩] } (if ovf then s.bump (regSpKeyOvf (s.phys k)) else s)
      | .full => s.spStop k o 5

/-! ### SP.DRAIN -/

/-- A result of a drain: RELU turns one below zero into +0 (R223). -/
def reluVal (relu : Bool) (v : OutVal) : OutVal :=
  match v with
  | .inf n => if relu && n then .val Dy.zero false else .inf n
  | .val d z => if relu && decide (d.m < 0) then .val Dy.zero false else .val d z
  | .nan => .nan

/-- Write 32 columns of an entry at a physical address, the generator stepped per entry written (R223). -/
def State.drainRow (s : State) (k pa f : Nat) (sr : Bool) (mask : Word) (vals : List OutVal) : State :=
  vals.zipIdx.foldl (fun (t : State) (v : OutVal × Nat) =>
    if bitOf mask v.2 then
      let n := elemBits f / 8
      let rv := genNext (t.cl k).sp.gen
      let x := narrow f (if sr then .stochastic rv.1 else .even) v.1
      ((t.wrN (pa + v.2 * n) (leBytes n x.1)).spFlag k x.2.bits).modSp k (fun q => { q with gen := if sr then rv.2 else q.gen })
    else t) s

/-- The values of an entry. -/
def Stipple.entry (q : Stipple) (place : Nat) (relu : Bool) : List OutVal :=
  (upto 32).map (fun c => reluVal relu (entryVal (smapGet (fun _ => 0) q.buf (32 * place + c))))

/-- Empty an entry: the identity of the semiring in every column. -/
def Stipple.empty (q : Stipple) (semi place : Nat) : Stipple := q.identity semi place 1 (BitVec.allOnes 64)

/-- Indexed SP.DRAIN (R223, R228). -/
def State.spDrainRows (s : State) (k : Nat) (o : SpOp) (addr cnt : Word) (relu clear sr : Bool) (semi f row : Nat)
    (mask : Word) : State :=
  (upto (cntRows cnt)).foldl (fun (t : State) i =>
    let q := (t.cl k).sp
    let r := row + i
    let pa := sheetPa k o.half (adrOff addr + i * adrStride addr)
    let skip := q.skipped.contains r
    let vals := if skip then List.replicate 32 (if relu then OutVal.val Dy.zero false else .nan) else q.entry r relu
    let t1 := t.drainRow k pa f sr mask vals
    let t2 := if skip && !relu then t1.spFlag k spNv else t1
    if clear then t2.modSp k (fun q => { q.empty semi r with skipped := q.skipped.filter (fun x => x != r) }) else t2) s

/-- Keyed SP.DRAIN: occupied entries by set and way, then the overflow table, at most ROWS of them (R223). -/
def State.spDrainKeys (s : State) (k : Nat) (o : SpOp) (dst : Nat) (addr cnt : Word) (relu clear sr : Bool) (semi f : Nat)
    (mask : Word) : State :=
  let q := (s.cl k).sp
  let es := ((upto 2112).filterMap (fun p => q.keys.find? (fun e => e.place == p))).take (cntRows cnt)
  let base := sheetPa k o.half (adrOff addr)
  let hd := leBytes 4 (16 + es.length * recBytes f) ++ leBytes 4 es.length ++ leBytes 1 f ++ leBytes 1 4 ++ leBytes 2 0
  let s1 := s.wrN base (hd ++ leBytes 4 (crc32c hd).toNat)
  let s2 := es.zipIdx.foldl (fun (t : State) (e : KeyEnt × Nat) =>
    let pa := base + 16 + e.2 * recBytes f
    let used := 8 + 32 * elemBits f / 8
    let t1 := t.wrN pa (leBytes 8 (2 ^ 63 + e.1.cb * 2 ^ 48 + e.1.row))
    let t2 := t1.drainRow k (pa + 8) f sr mask ((t1.cl k).sp.entry e.1.place relu)
    let t3 := t2.wrN (pa + used) (List.replicate (recBytes f - used) 0#8)
    if clear then t3.modSp k (fun q => { q.empty semi e.1.place with keys := q.keys.filter (fun x => x.place != e.1.place) })
    else t3) s1
  s2.modTask k o.own (fun c => c.setA dst (BitVec.ofNat 64 es.length))

/-! ### SP.CMP -/

/-- The stored form of a group of four: two values and its nibble (R208). -/
def groupPack (absent : Nat) (kept : List (Nat × Nat)) : List Nat × Nat :=
  let free := (upto 4).filter (fun a => !kept.any (fun x => x.1 == a))
  let two := (kept ++ free.map (fun a => (a, absent))).take 2
  (two.map (fun x => x.2), (two.getD 0 (0, 0)).1 + 4 * (two.getD 1 (0, 0)).1)

/-- The values a 4 by 4 block keeps, as places 4 row + position (R213). -/
def keepBlock (f : Nat) (present : List (Nat × Nat)) : List (Nat × Nat) × Bool :=
  let within (l : List (Nat × Nat)) : Bool :=
    (upto 4).all (fun i => decide ((l.filter (fun x => x.1 / 4 == i)).length ≤ 2) &&
      decide ((l.filter (fun x => x.1 % 4 == i)).length ≤ 2))
  if within present then (present, false)
  else
    let kept := (magSort f present).foldl (fun (a : List (Nat × Nat)) x =>
      if within (x :: a) then x :: a else a) []
    (present.filter (fun x => kept.contains x), true)

/-- The present values of a dense row: position and bits. -/
def presentOf (f semi : Nat) (row : List Nat) : List (Nat × Nat) :=
  (row.zipIdx.filter (fun x => !isAbsent f semi x.1)).map (fun x => (x.2, x.1))

/-- What pruning leaves of a dense source, row by row, and how many groups or blocks lost values (R212, R213). -/
def pruneRows (kind f : Nat) (kdim : Nat) (rows : List (List (Nat × Nat))) : List (List (Nat × Nat)) × Nat :=
  if kind = 3 then (rows, 0)
  else if kind = 1 then
    let out := rows.map (fun r => (upto (kdim / 4)).map (fun g => keepTwo f (r.filter (fun x => x.1 / 4 == g))))
    (out.map (fun r => r.flatMap (fun g => g.1)), (out.map (fun r => (r.filter (fun g => g.2)).length)).sum)
  else
    let blocks := (upto (rows.length / 4)).map (fun i => (upto (kdim / 4)).map (fun j =>
      keepBlock f ((upto 4).flatMap (fun a =>
        ((rows.getD (4 * i + a) []).filter (fun x => x.1 / 4 == j)).map (fun x => (4 * a + x.1 % 4, x.2))))))
    ((upto rows.length).map (fun r => ((blocks.getD (r / 4) []).zipIdx.flatMap (fun (b : (List (Nat × Nat) × Bool) × Nat) =>
        (b.1.1.filter (fun x => x.1 / 4 == r % 4)).map (fun x => (4 * b.2 + x.1 % 4, x.2))))),
      (blocks.map (fun r => (r.filter (fun b => b.2)).length)).sum)

/-- Round up to a multiple of 16. -/
def up16 (n : Nat) : Nat := (n + 15) / 16 * 16

/-- SP.CMP (R207 to R213): where the areas of kinds 1 and 2 stand is not given, and follows the order of the worked tile
(DESIGN CHOICE, log 31). -/
def State.spCmp (s : State) (k : Nat) (o : SpOp) (dst : Nat) (dest addr cnt : Word) (kind semi f kdim4 : Nat) : State :=
  let kdim := 4 * kdim4
  let rows := cntRows cnt
  let vb := valBytes f
  let dense := s.sheetRows k o.half addr f rows kdim
  let present := dense.map (presentOf f semi)
  let nnz := (present.map List.length).sum
  let kept := pruneRows kind f kdim present
  let absent := absentRaw f semi
  let packs := kept.1.map (fun r => (upto kdim4).map (fun g =>
    groupPack absent ((r.filter (fun x => x.1 / 4 == g)).map (fun x => (x.1 % 4, x.2)))))
  let nibs := packs.flatten.map (fun p => p.2)
  let vals := if kind = 3 then kept.1.flatten.map (fun x => x.2) else packs.flatten.flatMap (fun p => p.1)
  let idx := if kind = 3 then kept.1.flatten.flatMap (fun x => leBytes 2 x.1)
    else leBytes ((nibs.length + 1) / 2) (nibs.zipIdx.foldl (fun a (x : Nat × Nat) => a + x.1 * 16 ^ x.2) 0)
  let ptr := if kind = 3 then
      (upto (rows + 1)).flatMap (fun r => leBytes 4 ((kept.1.take r).map List.length).sum)
    else []
  let idxOff := 64 + up16 ptr.length
  let valOff := idxOff + up16 idx.length
  let bytes := up16 (valOff + vals.length * vb)
  let hd := leBytes 4 bytes ++ leBytes 1 kind ++ leBytes 1 f ++ leBytes 1 semi ++ [0#8] ++ leBytes 2 rows ++ leBytes 2 kdim ++
    leBytes 4 nnz ++ leBytes 4 valOff ++ leBytes 4 idxOff ++ leBytes 4 (if kind = 3 then 64 else 0) ++ List.replicate 32 0#8
  let base := sheetPa k o.half (fld dest 20 0)
  let t := (((s.wrN base (hd ++ leBytes 4 (crc32c hd).toNat)).wrN (base + 64) ptr).wrN (base + idxOff) idx).wrN (base + valOff)
    (vals.flatMap (leBytes vb))
  (t.spPruned k kept.2).modTask k o.own (fun c => c.setA dst (BitVec.ofNat 64 ((bytes / 16) % 65536 * 2 ^ 32 + nnz)))

/-! ### One operation -/

/-- SP.LDB (R216). -/
def State.spLdb (s : State) (k half : Nat) (addr cnt : Word) (bbuf f : Nat) : State :=
  let rows := cntRows cnt
  let b : BBuf := { fmt := f, rows := rows, elems := (upto rows).flatMap (fun r =>
    elemsOf f (s.rdN (sheetPa k half (adrOff addr + r * adrStride addr)) (4 * elemBits f)) 32) }
  s.modSp k (fun q => if bbuf = 0 then { q with b0 := some b } else { q with b1 := some b })

/-- SP.CLR (R219). -/
def Stipple.clr (q : Stipple) (mode rows first semi : Nat) : Stipple :=
  match mode with
  | 0 =>
    let n := min rows (2048 - first)
    { q.identity semi first n (BitVec.allOnes 64) with skipped := q.skipped.filter (fun r => !decide (first ≤ r ∧ r < first + n)) }
  | 1 => { q with keyed := false, buf := [], keys := [], skipped := [] }
  | _ => { q with keyed := true, buf := [], keys := [], skipped := [] }

/-- Does the bitmap of a predicted product stay in its region (R215)? -/
def bitmapIn (pred : Word) (rows : Nat) : Bool := inRegion (fld pred 20 0) ((rows + 7) / 8)

/-- What stops an operation as it leaves the command queue: its header, its buffer, the mode, its rows (R210, R216, R219, R222, R228). A bitmap
that leaves its region stops with FORMAT (DESIGN CHOICE, log 94). -/
def State.spRefusal (s : State) (k : Nat) (o : SpOp) : Option Nat :=
  match o.kind with
  | .mma tile pred usePred tr _ bbuf _ f row _ =>
    match s.spMmaCheck k o.half (fld tile 20 0) tr bbuf f row with
    | .inl st => some st
    | .inr (t, _) => if usePred && !bitmapIn pred (outRows t tr) then some 2 else none
  | .kadd block _ _ _ =>
    if (s.recHead k o.half (fld block 20 0)).isNone then some 2
    else if !(s.cl k).sp.keyed then some 4 else none
  | .drain dst _ cnt _ _ _ _ _ row _ =>
    if (s.cl k).sp.keyed != decide (dst ≠ 0) then some 4
    else if dst = 0 ∧ row + cntRows cnt > 2048 then some 2 else none
  | _ => none

/-- The effect of an operation that a unit has executed (R230, R231). -/
def State.spRun (s : State) (k : Nat) (o : SpOp) : State :=
  match s.spRefusal k o with
  | some st => s.spStop k o st
  | none => match o.kind with
    | .ldb addr cnt bbuf f => (s.spLdb k o.half addr cnt bbuf f).spPop k .load
    | .mma tile pred usePred tr start bbuf semi f row mask =>
      (match s.spMmaCheck k o.half (fld tile 20 0) tr bbuf f row with
        | .inl st => s.spStop k o st
        | .inr (t, b) => s.spMma k o t b pred usePred tr start semi row mask)
    | .kadd block semi _ mask =>
      (match s.recHead k o.half (fld block 20 0) with
        | none => s.spStop k o 2
        | some (f, n) => s.spKadd k o semi f mask (sheetPa k o.half (fld block 20 0) + 16) n)
    | .drain dst addr cnt relu clear sr semi f row mask =>
      if dst = 0 then (s.spDrainRows k o addr cnt relu clear sr semi f row mask).spPop k .port
      else (s.spDrainKeys k o dst addr cnt relu clear sr semi f mask).spPop k .port
    | .cmp dst dest addr cnt kind semi f kdim4 => (s.spCmp k o dst dest addr cnt kind semi f kdim4).spPop k .comp
    | .clr mode rows first semi => (s.modSp k (fun q => q.clr mode rows first semi)).spPop k .port
    | _ => s

/-! ### The command queue and the units (R230) -/

/-- The buffer rows an operation touches: the first and their number. -/
def State.spRows (s : State) (k : Nat) (o : SpOp) : Option (Nat × Nat) :=
  match o.kind with
  | .mma tile _ _ tr _ _ _ _ row _ => some (row, match s.tileAt k o.half (fld tile 20 0) with
    | some t => outRows t tr
    | none => 2048)
  | .drain dst _ cnt _ _ _ _ _ row _ => some (if dst = 0 then (row, cntRows cnt) else (0, 2048))
  | .clr mode rows first _ => some (if mode = 0 then (first, rows) else (0, 2048))
  | .kadd _ _ _ _ => some (0, 2048)
  | _ => none

/-- Are two operations ordered by the rows they touch; in keyed mode all are (R230)? -/
def State.spMeets (s : State) (k : Nat) (a b : SpOp) : Bool :=
  match s.spRows k a, s.spRows k b with
  | some (x, m), some (y, n) => (s.cl k).sp.keyed || decide (x < y + n ∧ y < x + m)
  | _, _ => false

/-- The B buffer an operation loads or uses. -/
def SpKind.buf : SpKind → Option Nat
  | .ldb _ _ b _ => some b
  | .mma _ _ _ _ _ b _ _ _ _ => some b
  | _ => none

/-- The unit that executes an operation; none for those that act in the queue (R230). -/
def SpKind.unit : SpKind → Option SpUnit
  | .ldb _ _ _ _ => some .load
  | .mma _ _ _ _ _ _ _ _ _ _ => some .lanes
  | .kadd _ _ _ _ => some .port
  | .drain _ _ _ _ _ _ _ _ _ _ => some .port
  | .clr _ _ _ _ => some .port
  | .cmp _ _ _ _ _ _ _ _ => some .comp
  | _ => none

/-- Must an operation wait for what the units execute (R230)? -/
def State.spWaits (s : State) (k : Nat) (o : SpOp) : Bool :=
  let q := (s.cl k).sp
  let mine (x : SpOp) : Bool := x.own.same o.own
  let same (x : SpOp) : Bool := x.kind.buf == o.kind.buf
  match o.kind with
  | .ldb _ _ _ _ => waitsFor q.lanes same
  | .mma _ _ _ _ _ _ _ _ _ _ => waitsFor q.load same || waitsFor q.port (s.spMeets k o) || waitsFor q.comp mine
  | .kadd _ _ _ _ => waitsFor q.lanes (s.spMeets k o) || waitsFor q.comp mine
  | .seed _ => q.port.isSome
  | .sig _ => waitsFor q.load mine || waitsFor q.lanes mine || waitsFor q.port mine || waitsFor q.comp mine
  | .cmp _ _ _ _ _ _ _ _ => false
  | _ => waitsFor q.lanes (s.spMeets k o)

/-- An operation in its unit. -/
def Stipple.put (q : Stipple) (u : SpUnit) (o : SpOp) : Stipple :=
  match u with
  | .load => { q with load := some o }
  | .lanes => { q with lanes := some o }
  | .port => { q with port := some o }
  | .comp => { q with comp := some o }

/-- One step of the command queue: the operation at its head acts there, or its unit takes it up once it is idle and the waits of R230 are over;
a repair pass goes ahead of every later operation (R226). None where it stays. A unit executes one operation at a time (DESIGN CHOICE,
log 89). -/
def State.spLeave (s : State) (k : Nat) : Option State :=
  let q := (s.cl k).sp
  match q.queue with
  | [] => none
  | o :: _ =>
    let pop : State := s.modSp k (fun q => { q with queue := q.queue.tail })
    if q.failed || q.repairing || (s.job o.own.job).held || s.dx.stopped || s.spWaits k o then none
    else match o.kind.unit with
      | some u =>
        if (q.unit u).isSome then none
        else match s.spRefusal k o with
          | some st => some (s.spStop k o st)
          | none => some (pop.modSp k (fun q => q.put u o))
      | none => some ((match o.kind with
        | .sig n => pop.engSignal k (some n)
        | .seed v => pop.modSp k (fun q => { q with gen := seedOf v })
        | _ => pop).bump (regSpOps (s.phys k)))

/-- The command queue passes its operations on as far as they go. `n` bounds the steps. -/
def State.spFlow (s : State) (k : Nat) : Nat → State
  | 0 => s
  | n + 1 => match s.spLeave k with
    | none => s
    | some t => t.spFlow k n

/-! ### Checks (R232) -/

/-- Does an operation read a protected buffer: B or the accumulator buffer (R232)? -/
def SpKind.reads : SpKind → Bool
  | .mma _ _ _ _ _ _ _ _ _ _ => true
  | .kadd _ _ _ _ => true
  | .drain _ _ _ _ _ _ _ _ _ _ => true
  | _ => false

/-- Does it use a duplicated part: the pruning selectors, the index and pointer decoders, the sign-check units (R232)? -/
def SpKind.twice : SpKind → Bool
  | .mma _ _ _ _ _ _ _ _ _ _ => true
  | .cmp _ _ _ _ _ _ _ _ => true
  | _ => false

/-- The entry that a changed sum falls into: an output row of a product, or a keyed place; none where the operation adds nothing there. -/
def State.spEntry (s : State) (k : Nat) (o : SpOp) (i j : Nat) : Option Nat :=
  match o.kind with
  | .mma tile _ _ tr _ _ _ _ row mask => match s.tileAt k o.half (fld tile 20 0) with
    | some t => if i < outRows t tr ∧ j < 32 ∧ bitOf mask j = true then some (32 * (row + i) + j) else none
    | none => none
  | .kadd _ _ _ mask => if i < 2112 ∧ j < 32 ∧ bitOf mask j = true then some (32 * i + j) else none
  | _ => none

/-- The Stipple finds a failure: it is counted, nothing completes any more, and the Blotter hears of it (R232). -/
def State.spFail (s : State) (k slot code : Nat) : State :=
  ((s.bump (regSpResFail (s.phys k))).modSp k (fun q => { q with failed := true })).report
    ⟨code, ⟨0, s.phys k⟩, 0, BitVec.ofNat 64 slot, none, false⟩

/-- Work of an operation, `go`, with what befell it: failures stop it; a changed sum is found by its residue, or stands (R202, R232). -/
def State.spChecked (s : State) (k : Nat) (o : SpOp) (r : OpCheck) (go : State → State) : State :=
  match r with
  | .mismatch => if o.kind.twice then s.spFail k o.slot 0x06 else go s
  | .doubleBit => if o.kind.reads then s.spFail k o.slot 0x04 else go s
  | .corrected n =>
    if o.kind.reads then go ((s.bumpBy (regSpBabCorr (s.phys k)) n).report ⟨0x43, ⟨0, s.phys k⟩, 0, 0, none, false⟩) else go s
  | .upset i j v =>
    let t := go s
    (match s.spEntry k o i j with
      | none => t
      | some key =>
        let w := smapGet (fun _ => 0) (t.cl k).sp.buf key
        if floatRes fmt32 (v % 2 ^ 32) ≠ floatRes fmt32 (accS w) then s.spFail k o.slot 0x06
        else t.modSp k (fun q => { q with buf := smapSet (fun _ => 0) q.buf key (accEntry (v % 2 ^ 32) (accE w)) }))
  | .ok => go s

/-- The operation that a unit executes completes, or its main pass does (R226, R232). Those that have left the command queue complete in a folio
stop too (R229). -/
def State.spUnitDone (s : State) (k : Nat) (u : SpUnit) (r : OpCheck) : State :=
  let q := (s.cl k).sp
  match q.unit u with
  | none => s
  | some o =>
    if (s.job o.own.job).held || q.failed || (u == .lanes && q.repairing) then s
    else s.spChecked k o r (fun t => t.spRun k o)

/-- SP_OP_COMPLETE: what a unit executes completes, and the command queue moves on before and after it. -/
def State.spComplete (s : State) (k : Nat) (u : SpUnit) (r : OpCheck) : State :=
  if !s.cluLive k then s
  else ((s.spFlow k 16).spUnitDone k u r).spFlow k 16

/-- The repair pass computes every queued row in full over the lanes; the operation is then complete (R226). -/
def State.spRepair (s : State) (k : Nat) (r : OpCheck) : State :=
  let q := (s.cl k).sp
  match q.lanes with
  | none => s
  | some o =>
    if !s.cluLive k || (s.job o.own.job).held || q.failed || !q.repairing then s
    else match o.kind with
      | .mma tile pred _ tr _ bbuf semi _ row mask =>
        (match s.tileAt k o.half (fld tile 20 0), (if bbuf = 0 then q.b0 else q.b1) with
          | some t, some b => (s.spChecked k o r (fun s1 => (s1.spLanes k t tr row q.repair (fun a ends i =>
              (a.1.spFullRow k t tr semi b s1.free row i mask (a.1.biasOf k o.half pred) ends, a.2))).spPop k .lanes)).spFlow k 16
          | _, _ => s.spStop k o 2)
      | _ => s

/-! ### Issue -/

/-- The task becomes owner where none is: indexed mode, everything cleared, buffers not loaded (R219, R229). -/
def State.spClaim (s : State) (k : Nat) (o : Owner) : State :=
  match (s.cl k).sp.owner with
  | some _ => s
  | none => s.modSp k (fun q => { q with
      owner := some o, keyed := false, buf := [], keys := [], b0 := none, b1 := none, skipped := [], flags := 0 })

/-- Is the Stipple owned by another task? -/
def State.spBusy (s : State) (k : Nat) (o : Owner) : Bool :=
  match (s.cl k).sp.owner with
  | some w => !w.same o
  | none => false

def State.spDead (s : State) (k : Nat) (o : Owner) : Bool := (s.cl k).sp.dead.contains (o.job, o.num)
def State.spDone (s : State) (k : Nat) (o : Owner) : Bool := !(s.cl k).sp.ops.any (fun x => x.own.same o)

/-- An instruction of a task that does not own the Stipple stops with OWN_BUSY (R229, R231). -/
def State.spRefuse (s : State) (h : Hart) (group : Nat) : State :=
  let o := ownerOf h (s.ctx h)
  let slot := (s.cl h.core).sp.nextSlot
  ((s.modCtx h Ctx.next).modSp h.core (fun q => { q with
    nextSlot := (slot + 1) % 16, dead := (o.job, o.num) :: q.dead })).engReport h.core o group (BitVec.ofNat 64 (0x100 + slot))

/-- A Stipple operation enters the command queue; a full queue stalls issue (R77, R229 to R231). -/
def State.spIssue (s : State) (h : Hart) (group : Nat) (kind : SpKind) : State :=
  let k := h.core
  let o := ownerOf h (s.ctx h)
  let q := (s.cl k).sp
  if s.spDead k o then s.modCtx h Ctx.next
  else if s.spBusy k o then s.spRefuse h group
  else if q.queue.length ≥ 16 then s
  else
    (((s.spClaim k o).modCtx h Ctx.next).modSp k (fun q => { q with
      queue := q.queue ++ [⟨q.nextSlot, group, o, (s.cl k).front, kind, q.count⟩], nextSlot := (q.nextSlot + 1) % 16
      count := q.count + 1 })).spFlow k 16

/-- The task gives up the Stipple at its END (R229). -/
def Stipple.release (q : Stipple) (o : Owner) : Stipple :=
  { q with owner := q.owner.filter (fun w => !w.same o), dead := q.dead.filter (fun d => !(d == (o.job, o.num))) }

/-- SP.RDFL waits for the task's earlier operations, then reads the flags and clears them when asked (R215). -/
def State.spReadFlags (s : State) (h : Hart) (group dst : Nat) (clear : Bool) : State :=
  let k := h.core
  let o := ownerOf h (s.ctx h)
  if s.spDead k o then s.modCtx h Ctx.next
  else if s.spBusy k o then s.spRefuse h group
  else if !s.spDone k o then s.waits h
  else
    let t := s.spClaim k o
    let u := t.modCtx h (fun c => (c.setA dst (t.cl k).sp.flags).next)
    if clear then u.modSp k (fun q => { q with flags := 0 }) else u

end Sys2Proof.Machine
end

