-- ==== Sys2Proof/Machine/StrokeOps.lean ====
section
/-! DEFINITION. The Stroke engine: descriptors, the request walk, queues and bookings, tiles and halves, halts, stops and
cancellation (R110 to R144). The entries also hold the near-memory operations of chapters 8 and 9. -/

namespace Sys2Proof.Machine

/-! ### Descriptors (R110, R111) -/

def skWord (d : List Byte) (i : Nat) : Word := wordAt d (8 * i)
def skBase (d : List Byte) : Nat := fld (skWord d 0) 47 0
def skDest (d : List Byte) : Nat := fld (skWord d 1) 47 0
def skRate (d : List Byte) : Nat := fld (skWord d 2) 63 48
def skTile (d : List Byte) : Nat := fld (skWord d 2) 47 40
def skNdim (d : List Byte) : Nat := fld (skWord d 2) 39 37
def skRun (d : List Byte) : Nat := fld (skWord d 2) 16 0
def skStride (d : List Byte) (i : Nat) : Int := (BitVec.ofNat 40 (fld (skWord d (3 + i)) 63 24)).toInt
/-- A count of an unused dimension is 1 (R111). -/
def skCount (d : List Byte) (i : Nat) : Nat := if i < skNdim d then fld (skWord d (3 + i)) 23 0 else 1

/-- Total bytes of the pattern (R111). -/
def skTotal (d : List Byte) : Nat := skRun d * skCount d 0 * skCount d 1 * skCount d 2 * skCount d 3 * skCount d 4

/-- The descriptor checks of R114. -/
def skDescOk (d : List Byte) (copy : Bool) : Bool :=
  decide (fld (skWord d 0) 63 48 = 0) && decide (fld (skWord d 1) 63 48 = 0) && decide (fld (skWord d 2) 36 17 = 0)
    && decide (skNdim d ≤ 5)
    && (upto 5).all (fun i => if i < skNdim d then decide (skCount d i ≠ 0) else decide (skWord d (3 + i) = 0))
    && decide (1 ≤ skRun d ∧ skRun d ≤ 65536) && decide (skTile d ≤ 160)
    && (decide (skTile d = 0) || (!copy && decide (skDest d + skTile d * 4096 ≤ 655360)))

/-- The memory-side address of byte `pos` of the pattern (R111); addresses wrap at 64 bits, where no page answers. -/
def SkOp.memVa (o : SkOp) (pos : Nat) : Nat :=
  let d := o.desc
  let r := pos / skRun d
  let i1 := r % skCount d 0
  let r1 := r / skCount d 0
  let i2 := r1 % skCount d 1
  let r2 := r1 / skCount d 1
  let i3 := r2 % skCount d 2
  let r3 := r2 / skCount d 2
  let i4 := r3 % skCount d 3
  let i5 := r3 / skCount d 3
  let a : Int := (skBase d : Int) + (o.areg.toNat : Int) + (i1 : Int) * skStride d 0 + (i2 : Int) * skStride d 1
    + (i3 : Int) * skStride d 2 + (i4 : Int) * skStride d 3 + (i5 : Int) * skStride d 4 + ((pos % skRun d : Nat) : Int)
  (BitVec.ofInt 64 a).toNat

/-- Bytes of a tile; an untiled operation is one tile (R112, R113). -/
def SkOp.tileLen (o : SkOp) : Nat := if skTile o.desc = 0 then skTotal o.desc else skTile o.desc * 4096
/-- Does the operation fill or drain Sheet halves (R112, R258)? -/
def SkOp.tiled (o : SkOp) : Bool := match o.kind with
  | .load => skTile o.desc != 0
  | .store => skTile o.desc != 0
  | .gather => true
  | _ => false
/-- Does it fill the back half? -/
def SkOp.isFill (o : SkOp) : Bool := o.tiled && decide (o.kind ≠ .store)

/-- The group whose number ENGINE names (R143, R252). -/
def SkOp.group (o : SkOp) : Nat := match o.kind with
  | .pool => 0x13
  | .gather => 0x14
  | .update => 0x16
  | .build => 0x16
  | .publish => 0x16
  | _ => 0x12

/-- SK_OPSTATEn for an entry (R144). -/
def SkOp.stateWord (o : SkOp) (state status : Nat) : Word :=
  BitVec.ofNat 64 (status * 2 ^ 56 + o.tiles % 65536 * 2 ^ 40 + o.own.job * 2 ^ 36 + o.own.hart.ctx * 2 ^ 35 + o.queue * 2 ^ 32
    + state)

/-! ### Entries -/

def State.skOp (s : State) (k n : Nat) : Option SkOp := (s.cl k).sk.find? (fun o => o.n == n)
def State.setSk (s : State) (k : Nat) (o : SkOp) : State :=
  s.modCl k (fun c => { c with sk := c.sk.map (fun x => if x.n = o.n then o else x) })

/-- The owner gives up the halves with its last tiled operation (R123). -/
def Cluster.releaseHalf (c : Cluster) : Cluster :=
  match c.halfOwner with
  | some w => if c.sk.any (fun o => o.tiled && o.own.same w) then c else { c with halfOwner := none, fills := false }
  | none => c

/-- What an entry leaves behind in the queues of chapters 8 and 9: a TB.PUBLISH that has not begun leaves its queue, one that has goes on
without its entry, and a TB.BUILD gives its table up (R116, R285, R287; log 84). -/
def State.dropEntry (s : State) (k : Nat) (o : SkOp) : State :=
  match o.kind with
  | .publish => { s with pubq := (s.pubq.filter (fun p => p.task != some (k, o.n) || p.started)).map (fun p =>
      if p.task = some (k, o.n) then { p with task := none } else p) }
  | .build => { s with tables := smapMap (fun _ => {}) (fun _ x =>
      if (x.build.map (fun b => b.c == k && b.n == o.n)).getD false then { x with build := none } else x) s.tables }
  | _ => s

/-- Free an entry, leaving SK_OPSTATEn behind (R115, R144). -/
def State.skFree (s : State) (k : Nat) (o : SkOp) (state status : Nat) : State :=
  let t := s.modCl k (fun c => ({ c with
    sk := c.sk.filter (fun x => x.n != o.n)
    skLast := smapSet (fun _ => 0) c.skLast o.n (o.stateWord state status) }).releaseHalf)
  ({ t with
    nbq := t.nbq.filter (fun r => !(r.c == k && r.n == o.n))
    parts := t.parts.filter (fun r => !(r.c == k && r.n == o.n))
    hreqs := t.hreqs.filter (fun r => r.who != .stroke k o.n) } : State).dropEntry k o

/-- An operation stops in error: ENGINE names its group, entry and status (R143, R252). -/
def State.skStop (s : State) (k : Nat) (o : SkOp) (status : Nat) : State :=
  (s.skFree k o 7 status).engReport k o.own o.group (BitVec.ofNat 64 (status * 256 + o.n))

/-- An operation stops as a fault: no exception, for the job restarts (R143). SK_OPSTATEn then shows STATE 7; R143 gives such a stop no
status code, and 0 stands there (DESIGN CHOICE, log 83). -/
def State.skFault (s : State) (k : Nat) (o : SkOp) : State := s.skFree k o 7 0

/-- An operation completes and signals its mark once (R113). -/
def State.skDone (s : State) (k : Nat) (o : SkOp) : State :=
  (s.engSignal k (if o.tsig then none else o.mark)).skFree k o 0 0

/-- A page fault halts an operation at its request (R137). -/
def State.skHalt (s : State) (k : Nat) (o : SkOp) (va : Nat) : State :=
  ((s.setSk k { o with state := 4, tag := false }).setReg (regSkOpfault (s.phys k) o.n) (BitVec.ofNat 64 (va % 2 ^ 48))).bump
    (regSkPageHalt (s.phys k))

/-- A read meets poison: nothing is delivered and the operation stops (R136, R368). -/
def State.skPoison (s : State) (k : Nat) (o : SkOp) (pa : Nat) : State :=
  (s.poisonedRead pa ⟨0, s.phys k⟩ o.own.job).skFault k o

/-- A data delivery fails its CRC: it is issued once more from its source, lines of the host among them, and a second failure is a
fault (R135). -/
def State.skCrc (s : State) (k : Nat) (o : SkOp) : State :=
  if o.retried then
    (s.report ⟨0x08, ⟨0, s.phys k⟩, 0, BitVec.ofNat 64 o.n, some o.own.job, false⟩).skFault k o
  else
    ((s.setSk k { o with retried := true, hl := [] }).bump (regSkCrcRetry (s.phys k))).report
      ⟨0x41, ⟨0, s.phys k⟩, 0, BitVec.ofNat 64 o.n, some o.own.job, false⟩

/-! ### Queues and bookings (R121, R127 to R129) -/

def State.qInner (s : State) (k q : Nat) : Bool := s.rbit (regSkQcfg (s.phys k) q) 31
def State.qWeight (s : State) (k q : Nat) : Nat := s.rfld (regSkQcfg (s.phys k) q) 6 0
def State.qTags (s : State) (k q : Nat) : Nat := s.rfld (regSkQcfg (s.phys k) q) 25 16

/-- RATE of an operation that can be inner (R110, R247). -/
def SkOp.rate (o : SkOp) : Nat := match o.kind with
  | .pool => fld (skWord o.desc 3) 63 48
  | _ => skRate o.desc

/-- Tags an inner operation needs: ceil(RATE * L / 64) with L in thirds of a nanosecond (R128, R250). -/
def tagNeed (rate l3 : Nat) : Nat := (rate * l3 + 191) / 192

/-- The fan entries of an NB.POOL, block address and owner: the list is copied behind the descriptor at issue (R247). -/
def SkOp.fanList (o : SkOp) : List (Nat × Nat) :=
  (upto (fld (skWord o.desc 0) 55 48)).map (fun i => (fld (skWord o.desc (8 + 2 * i)) 47 0, fld (skWord o.desc (9 + 2 * i)) 7 0))

/-- The fixed latency L of an inner operation in thirds of a nanosecond: 40 region cycles are 80 thirds (R128, R250). -/
def State.skLatency (s : State) (k : Nat) (o : SkOp) : Nat :=
  match o.kind with
  | .pool => if o.fanList.all (fun f => f.2 == k) then 180 else 540
  | _ => match (s.translate k o.own.job (BitVec.ofNat 64 (o.memVa 0)) .either).1 with
    | .ok pa false => (match placeOf pa with
      | .inkwell c _ => if c = k then 80 else 390
      | _ => 390)
    | _ => 390

/-- What booking says of an operation that wants to start (R129). -/
inductive Booking where
  | fits
  | waits
  | rateOver
  | tagsOver
  deriving DecidableEq, Repr

/-- Inner operations of a queue that are running: halted and paused ones keep their booking (R137, R140). -/
def State.booked (s : State) (k q : Nat) : List SkOp :=
  (s.cl k).sk.filter (fun o => o.queue == q && (o.state == 3 || o.state == 4 || o.state == 5))

def State.booking (s : State) (k : Nat) (o : SkOp) : Booking :=
  let g := 9 * s.qWeight k o.queue
  let need := tagNeed o.rate (s.skLatency k o)
  let run := s.booked k o.queue
  if o.rate > g then .rateOver
  else if need > s.qTags k o.queue then .tagsOver
  else if (run.map SkOp.rate).sum + o.rate ≤ g ∧
      (run.map (fun x => tagNeed x.rate (s.skLatency k x))).sum + need ≤ s.qTags k o.queue then .fits
  else .waits

/-! ### Requests of a stream operation (R117 to R121) -/

/-- The next request: memory-side address and length. It crosses no 1 KiB boundary, run end or tile end, and no page of
an untiled contiguous side. -/
def SkOp.nextReq (o : SkOp) : Nat × Nat :=
  let va := o.memVa o.pos
  let run := skRun o.desc - o.pos % skRun o.desc
  let tile := o.tileLen - o.pos % o.tileLen
  let side := if skTile o.desc = 0 then 4096 - (skDest o.desc + o.pos) % 4096 else 4096
  (va, min (min run (1024 - va % 1024)) (min tile side))

/-- Slot bytes of a request, by the kind of its memory (R118). -/
def slotBytes (host : Bool) (pa n : Nat) : Nat :=
  let sz := if host then 64 else match placeOf pa with
    | .reservoir => 256
    | _ => 64
  ((pa + n - 1) / sz - pa / sz + 1) * sz

/-- The Sheet address of the contiguous side of a tiled request: the back half (R112, R124). -/
def State.tileSide (s : State) (k : Nat) (o : SkOp) : Nat :=
  sheetPa k (1 - (s.cl k).front) (skDest o.desc + o.pos % o.tileLen)

/-- After a request's data is written and checked: tiles complete, marks are signalled, the operation may end (R113, R115,
R135). -/
def State.skAdvance (s : State) (k : Nat) (o : SkOp) (n : Nat) : State :=
  let pos := o.pos + n
  let tileEnd := pos % o.tileLen = 0 ∨ pos = skTotal o.desc
  let o1 := { o with pos := pos, retried := false, hl := [], tag := false, tiles := if tileEnd then o.tiles + 1 else o.tiles }
  let t := if tileEnd ∧ o.isFill then s.modCl k (fun c => { c with backFilled := true }) else s
  let u := if tileEnd ∧ o.tsig then t.engSignal k o.mark else t
  if pos = skTotal o.desc then (u.setSk k o1).skDone k o1 else u.setSk k o1

/-- Does a request itself break the rule of R121: pages mapped since the first one may lead elsewhere? -/
def State.skRoute (s : State) (k : Nat) (o : SkOp) (mem side : List Part) : Bool :=
  if s.qInner k o.queue then
    o.kind == .copy || skRate o.desc == 0 || decide (skRate o.desc > 576)
      || mem.any (fun p => p.host || (match placeOf p.pa with
        | .inkwell _ _ => false
        | _ => true))
      || side.any (fun p => p.host || (match placeOf p.pa with
        | .sheet c _ => c != k
        | _ => true))
  else skRate o.desc != 0

/-- May the entry make progress: its cluster runs, its job is not held, no step end and no folio stop holds it, and it does not wait for its
halves (R140, R301, R324, R457)? -/
def State.skLive (s : State) (k : Nat) (o : SkOp) : Bool :=
  decide (k < 128) && s.coreLive k && !(s.job o.own.job).held && !o.held && !s.dx.stopped && !o.park && decide (o.state = 3)

/-! ### Tags (R119) -/

/-- Requests of a queue that hold a tag. -/
def State.tagsHeld (s : State) (k q : Nat) : Nat := ((s.cl k).sk.filter (fun o => o.queue == q && o.tag)).length

/-- Does a stream operation have a tile, or a copy, whose request may be issued (R124)? -/
def SkOp.ready (o : SkOp) : Bool := match o.kind with
  | .copy => true
  | .load => decide (o.pos / o.tileLen < o.assigned)
  | .store => decide (o.pos / o.tileLen < o.assigned)
  | _ => false

/-- Requests of a queue that wait for a tag. -/
def State.tagsWanted (s : State) (k q : Nat) : Nat :=
  ((s.cl k).sk.filter (fun o => o.queue == q && !o.tag && o.ready && s.skLive k o)).length

/-- Is there a tag for a request of a queue: one reserved to it, or one of those left unreserved that no lower-numbered waiting queue takes
first (R119)? -/
def State.tagFree (s : State) (k q : Nat) : Bool :=
  decide (s.tagsHeld k q < s.qTags k q) ||
    (let pool := 512 - ((upto 8).map (fun p => s.qTags k p)).sum
     let used := ((upto 8).map (fun p => s.tagsHeld k p - s.qTags k p)).sum
     let first := ((upto 8).map (fun p => if p < q then s.tagsWanted k p - (s.qTags k p - s.tagsHeld k p) else 0)).sum
     decide (used + first < pool))

/-! ### One request -/

/-- Does an address of a job lie elsewhere than in the named parts? One that no page maps does not (R121). -/
def State.liesElsewhere (s : State) (k job va : Nat) (inside : Place → Bool) : Bool :=
  match (s.translate k job (BitVec.ofNat 64 va) .either).1 with
  | .ok pa host => host || !inside (placeOf pa)
  | _ => false

/-- Does an operation break the rule of R121, by its queue, its RATE, or any address of either side? It is tested at the first request,
before that request's own page fault or forbidden access (DESIGN CHOICE, log 85). -/
def State.skBreaks (s : State) (k : Nat) (o : SkOp) : Bool :=
  if s.qInner k o.queue then
    o.kind == .copy || skRate o.desc == 0 || decide (skRate o.desc > 576)
      || (upto (skTotal o.desc / skRun o.desc)).any (fun r =>
        (pieces (o.memVa (r * skRun o.desc)) (skRun o.desc)).any (fun p => s.liesElsewhere k o.own.job p.1 (fun x => match x with
          | .inkwell _ _ => true
          | _ => false)))
      || (!o.tiled && (pieces (skDest o.desc) (skTotal o.desc)).any (fun p => s.liesElsewhere k o.own.job p.1 (fun x => match x with
          | .sheet c _ => c == k
          | _ => false)))
  else skRate o.desc != 0

/-- Has a write of the operation's request gone out to the host: its check has passed (R135)? -/
def State.askedWrite (s : State) (k : Nat) (o : SkOp) (dst : List Part) : Bool :=
  dst.any (fun p => p.host) && (o.hl.any (fun x => decide (2 ^ 60 ≤ x.1))
    || s.hreqs.any (fun r => r.op == .write && r.who == .stroke k o.n))

/-- One request of a stream operation completes (R117, R119, R121, R135 to R137). Its data is checked before any of it is written. -/
def State.skRequest (s : State) (k : Nat) (o0 : SkOp) (crcOk : Bool) (e : List MemErr) : State :=
  let o := { o0 with tag := true }
  let (va, n) := o.nextReq
  let inStore := o.kind == .store
  if o.pos == 0 && s.skBreaks k o then s.skStop k o 4
  else if !o0.tag && !s.tagFree k o.queue then s
  else match (s.setSk k o).resolve k o.own.job (if inStore then .store else .load) (pieces va n) with
  | (t, .fault f) => t.skHalt k o f
  | (t, .access) => t.skStop k o 1
  | (t, .poison pa) => t.skPoison k o pa
  | (t, .ok mem) =>
    let (t1, side) : State × Span := if o.tiled then (t, .ok [⟨t.tileSide k o, false, n⟩])
      else t.resolve k o.own.job (if inStore then .load else .store) (pieces (skDest o.desc + o.pos) n)
    match side with
    | .fault f => t1.skHalt k o f
    | .access => t1.skStop k o 1
    | .poison pa => t1.skPoison k o pa
    | .ok side =>
      if t1.skRoute k o mem side then t1.skStop k o 4
      else
        let src := if inStore then side else mem
        let dst := if inStore then mem else side
        match (t1.demandErrs (errsIn (partSpans src) e)).readParts (.stroke k o.n) o.hl src with
        | (u, .wait) => u
        | (u, .poison pa) => u.skPoison k o pa
        | (u, .bytes b) =>
          if !crcOk && !u.askedWrite k o dst then u.skCrc k o
          else if !u.writeReady o.hl dst then u.writeAsk (.stroke k o.n) o.hl dst b
          else
            let small := mem.any (fun p => decide (slotBytes p.host p.pa p.n > p.n))
            let v := if small then u.bump (regSkSmallSlot (u.phys k)) else u
            ((v.countParts src).writeParts dst b).skAdvance k o n

/-- STROKE_REQUEST_COMPLETE for a stream operation: the tile of the request must have its half (R124, R125). -/
def State.skComplete (s : State) (k n : Nat) (crcOk : Bool) (e : List MemErr) : State :=
  match s.skOp k n with
  | none => s
  | some o =>
    if !s.skLive k o then s
    else if o.ready then s.skRequest k o crcOk e else s

/-! ### Start of an operation -/

/-- An inner operation starts when its bookings fit; one that can never fit stops (R129). A page fault at its first address
halts it (R137). -/
def State.skStart (s : State) (k : Nat) (o : SkOp) (go : State → SkOp → State) : State :=
  match s.booking k o with
  | .rateOver => s.skStop k o 2
  | .tagsOver => s.skStop k o 3
  | .fits => let o3 := { o with state := 3 }; go (s.setSk k o3) o3
  | .waits =>
    if o.rateWait then s
    else (s.setSk k { o with state := 2, rateWait := true }).bump (regSkRateWait (s.phys k))

/-- A free entry number: R115 names none of several, and the lowest is taken (DESIGN CHOICE, log 86). -/
def Cluster.freeEntry (c : Cluster) : Option Nat := (upto 32).find? (fun n => !c.sk.any (fun o => o.n == n))

/-- The order of issue over a cluster's entries. -/
def Cluster.nextSeq (c : Cluster) : Nat := (c.sk.map (fun o => o.seq + 1)).foldl max 0

/-- Is the cluster's half owner another task? -/
def State.halfBusy (s : State) (k : Nat) (o : Owner) : Bool :=
  match (s.cl k).halfOwner with
  | some w => !w.same o
  | none => false

/-- An operation that has passed its checks enters the engine: entries of R115, the halves of R123, the start of R129. A full
engine stalls issue. -/
def State.skEnter (s : State) (h : Hart) (o0 : SkOp) (start : State → SkOp → State) : State :=
  let k := h.core
  match (s.cl k).freeEntry with
  | none => s
  | some n =>
    let o := { o0 with n := n, seq := (s.cl k).nextSeq }
    let t := s.modCtx h Ctx.next
    if o.tiled && s.halfBusy k o.own then
      (t.modCl k (fun c => { c with skLast := smapSet (fun _ => 0) c.skLast n (o.stateWord 7 5) })).engReport k o.own o.group
        (BitVec.ofNat 64 (0x500 + n))
    else
      let u := t.modCl k (fun c => { c with
        sk := c.sk ++ [o]
        skLast := smapSet (fun _ => 0) c.skLast n 0
        halfOwner := if o.tiled then some o.own else c.halfOwner
        fills := c.fills || o.isFill })
      start u o

/-! ### Swap and cancel -/

def inHalf (off : Nat) : Bool := decide (off < 0xA0000)

/-- Does an operation that has not completed name the front half (R125)? -/
def QlOp.namesFront (o : QlOp) : Bool := match o.kind with
  | .ldw a c _ _ f => inHalf (adrOff a) || (isMx f && inHalf (cntScale c))
  | .mma a c _ _ _ _ f _ => inHalf (adrOff a) || (isMx f && inHalf (cntScale c))
  | .wb a _ _ _ _ _ _ => inHalf (adrOff a)
  | .save a _ _ => inHalf (adrOff a)
  | .restore a _ _ => inHalf (adrOff a)
  | .accadd a _ _ _ _ _ => inHalf (adrOff a)
  | _ => false
def BrOp.namesFront (o : BrOp) : Bool :=
  (decide (o.group = 0x0E ∧ o.op ≤ 1) && inHalf (brOff o)) || (decide (o.group = 0x0D ∧ 0x10 ≤ o.op) && inHalf o.a1.toNat)
def SpOp.namesFront (o : SpOp) : Bool := match o.kind with
  | .ldb a _ _ _ => inHalf (adrOff a)
  | .mma t p u _ _ _ _ _ _ _ => inHalf (fld t 20 0) || (u && (inHalf (fld p 44 24) || inHalf (fld p 20 0)))
  | .kadd b _ _ _ => inHalf (fld b 20 0)
  | .drain _ a _ _ _ _ _ _ _ _ => inHalf (adrOff a)
  | .cmp _ d a _ _ _ _ _ => inHalf (adrOff a) || inHalf (fld d 20 0)
  | _ => false
def SkOp.namesFront (o : SkOp) : Bool := match o.kind with
  | .pool => inHalf (fld (skWord o.desc 1) 20 0) || inHalf (fld (skWord o.desc 2) 20 0)
  | .update => inHalf (fld o.areg 20 0)
  | .publish => inHalf (fld o.areg 20 0)
  | _ => false

/-- May the halves be exchanged (R125)? -/
def Cluster.swapReady (c : Cluster) : Bool :=
  !c.ql.ops.any QlOp.namesFront && !c.br.any BrOp.namesFront && !c.sp.ops.any SpOp.namesFront
    && !c.sk.any SkOp.namesFront && c.sk.all (fun o => !o.tiled || decide (o.assigned ≤ o.tiles))

/-- Tiles of a stream operation. -/
def SkOp.tileCount (o : SkOp) : Nat := match o.kind with
  | .gather => o.tiles + 1
  | _ => (skTotal o.desc + o.tileLen - 1) / o.tileLen

/-- The exchange: fills take their next tile into the new back half, drains take the results of the tile just finished
(R124, R125; when a first drain is assigned is DEDUCED, log 33). -/
def Cluster.swapHalves (c : Cluster) : Cluster :=
  let drains := c.filled || !c.fills
  { c with
    front := 1 - c.front
    filled := c.backFilled
    backFilled := false
    swap := none
    sk := c.sk.map (fun o =>
      if !o.tiled then o
      else if o.assigned ≥ o.tileCount then o
      else if o.kind = .store then (if drains then { o with assigned := o.assigned + 1 } else o)
      else { o with assigned := o.assigned + 1 }) }

/-- Operations that SK.CANCEL names: those of the task, on one queue or on all (R116). -/
def cancels (o : Owner) (q : Option Nat) (x : SkOp) : Bool :=
  x.own.same o && (match q with
    | some n => x.queue == n
    | none => true)

/-- Every operation of the task on the queue stops issuing requests. -/
def State.skCancel (s : State) (h : Hart) (q : Option Nat) : State :=
  let o := ownerOf h (s.ctx h)
  (s.modCl h.core (fun c => { c with
    sk := c.sk.map (fun x => if cancels o q x then { x with state := 6 } else x)
    cancel := c.cancel ++ [(h, q)] })).modCtx h (fun c => { c with run := .waiting .cancel })

/-- Cancelled operations have stopped and drained: their entries are freed with status CANCELLED, no mark is signalled,
and the instruction returns (R116, R143). -/
def State.skCancelled (s : State) (h : Hart) : State :=
  if (s.ctx h).run = .waiting .cancel then
    let o := ownerOf h (s.ctx h)
    let gone := (s.cl h.core).sk.filter (fun x => x.own.same o && x.state == 6)
    let t := gone.foldl (fun t x => t.skFree h.core x 0 6) s
    (t.modCl h.core (fun c => { c with cancel := c.cancel.filter (fun x => x.1 != h) })).modCtx h Ctx.next
  else s

end Sys2Proof.Machine
end

