-- ==== Sys2Proof/Machine/Rows.lean ====
section
/-! DEFINITION. Registered tables, the place of a row, edition slots, and the hot-row map (R235 to R238, R263 to R274, R284,
R289 to R291). -/

namespace Sys2Proof.Machine

/-! ### Table descriptors (R272 to R274) -/

/-- A registered table's descriptor (R272). -/
structure Desc where
  kind : Nat
  home : Nat
  opt : Nat
  vfmt : Nat
  efmt : Nat
  shift : Nat
  rows : Nat
  width : Nat
  slice : Nat
  nsm1 : Nat
  base : Nat
  owners : Nat
  earea : Nat
  esegs : Nat
  deriving DecidableEq, Repr

def up64K (n : Nat) : Nat := (n + 65535) / 65536 * 65536

/-- Arrays of optimiser state (R274). -/
def optArrays : Nat → Nat
  | 0 => 0
  | 3 => 2
  | _ => 1

def Desc.valBytes (d : Desc) : Nat := (d.width * elemBits d.vfmt / 8 + 15) / 16 * 16
/-- RB of R274. -/
def Desc.rb (d : Desc) : Nat := (d.valBytes + optArrays d.opt * 4 * d.width + 16 + 63) / 64 * 64
/-- EB: bytes of an edition row. -/
def Desc.eb (d : Desc) : Nat := (d.width * elemBits d.efmt / 8 + 15) / 16 * 16
/-- Edition rows of a segment. -/
def Desc.rps (d : Desc) : Nat := 65536 / d.eb
def Desc.ownerList (d : Desc) : List Nat := (upto 128).filter (fun k => d.owners.testBit k)
/-- Segments that hold the table's rows. -/
def Desc.segs (d : Desc) : Nat := if d.kind = 1 then (d.rows * 64 + 65535) / 65536 else (d.rows + d.rps - 1) / d.rps

/-- The edition area: four directories, the dirty bitmap, then the segments of four slots (DESIGN CHOICE, log 34). -/
def Desc.dirBytes (d : Desc) : Nat := up64K (8 * d.esegs)
def Desc.dirAddr (d : Desc) (slot : Nat) : Nat := d.earea + slot * d.dirBytes
def Desc.poolAddr (d : Desc) : Nat := d.earea + 4 * d.dirBytes + up64K ((d.esegs + 7) / 8)
def Desc.areaBytes (d : Desc) : Nat := 4 * d.dirBytes + up64K ((d.esegs + 7) / 8) + 4 * d.esegs * 65536
/-- The block of a KIND 1 edition. -/
def Desc.blockAddr (d : Desc) (slot : Nat) : Nat := d.poolAddr + slot * d.esegs * 65536

/-- Read a descriptor's fields. -/
def parseDesc (b : List Byte) : Desc :=
  let w (i : Nat) : Word := wordAt b (8 * i)
  { kind := fld (w 0) 62 61, home := fld (w 0) 60 60, opt := fld (w 0) 59 58, vfmt := fld (w 0) 57 54, efmt := fld (w 0) 53 50
    shift := fld (w 0) 49 44, rows := fld (w 0) 39 0, width := fld (w 1) 63 54, slice := fld (w 1) 53 50, nsm1 := fld (w 1) 49 46
    base := fld (w 2) 47 0, owners := (w 3).toNat + (w 4).toNat * 2 ^ 64, earea := fld (w 5) 47 0, esegs := fld (w 6) 31 0 }

/-- How many local rows the fullest of n owners holds under the placement rule (R273): the first owner takes every n-th
group of 2^SHIFT rows, and the last group of all may be short. -/
def Desc.localRows (d : Desc) (n : Nat) : Nat :=
  if d.rows = 0 ∨ n = 0 then 0
  else
    let last := (d.rows - 1) / 2 ^ d.shift
    let q := last / n
    if q * n < last then (q + 1) * 2 ^ d.shift else q * 2 ^ d.shift + (d.rows - last * 2 ^ d.shift)

/-- The layout of R272, and areas that stay inside their memory. -/
def descOk (b : List Byte) : Bool :=
  let w (i : Nat) : Word := wordAt b (8 * i)
  let d := parseDesc b
  let n := d.ownerList.length
  let local_ := d.localRows n
  bitOf (w 0) 63 && decide (d.kind ≤ 1) && decide (d.kind = 0 ∨ d.home = 1) && (d.vfmt == 0 || d.vfmt == 1 || d.vfmt == 10)
    && (decide (d.efmt ≤ 3) || d.efmt == 10) && decide (d.shift ≤ 32) && decide (fld (w 0) 43 40 = 0)
    && decide (1 ≤ d.width ∧ d.width ≤ 512) && decide (fld (w 1) 45 0 = 0) && decide (d.slice ≤ d.nsm1 ∨ d.nsm1 = 0)
    && decide (fld (w 2) 63 48 = 0) && decide (d.base % 64 = 0) && decide (n ≠ 0)
    && decide (fld (w 5) 63 48 = 0) && decide (d.earea % 65536 = 0) && decide (fld (w 6) 63 32 = 0) && decide (w 7 = 0)
    && decide (d.earea + d.areaBytes ≤ 2 ^ 40)
    && (if d.kind = 1 then decide (d.base + d.rows * 64 ≤ 2 ^ 40)
        else if d.home = 1 then decide (d.base + d.rows * d.rb ≤ 2 ^ 40)
        else decide (d.base + local_ * d.rb ≤ 0x1800000))

/-- Where descriptor t of job j stands (NB_TBDIRj). -/
def State.descAddr (s : State) (j t : Nat) : Nat := s.rfld (regNbTbdir j) 47 18 * 2 ^ 18 + 64 * t

/-- A registered table of a job (R272). -/
def State.desc (s : State) (j t : Nat) : Option Desc :=
  if s.rbit (regNbTbdir j) 0 then
    let b := s.rdN (s.descAddr j t) 64
    if descOk b then some (parseDesc b) else none
  else none

/-- Owner of a row (R273). -/
def Desc.owner (d : Desc) (r : Nat) : Nat :=
  let o := d.ownerList
  o.getD ((r / 2 ^ d.shift) % o.length) 0

/-- The home of a row (R273). -/
def Desc.homeOf (d : Desc) (r : Nat) : Nat :=
  if d.home = 1 then d.base + r * d.rb
  else
    let n := d.ownerList.length
    inkwellBase (d.owner r) + d.base + ((r / 2 ^ d.shift / n) * 2 ^ d.shift + r % 2 ^ d.shift) * d.rb

def tabKey (j t : Nat) : Nat := 4096 * j + t
def State.table (s : State) (j t : Nat) : TableRt := smapGet (fun _ => {}) s.tables (tabKey j t)
def State.setTable (s : State) (j t : Nat) (x : TableRt) : State :=
  { s with tables := smapSet (fun _ => {}) s.tables (tabKey j t) x }

/-- The edition of a table at a generation (R289, R290). -/
def TableRt.editionAt (t : TableRt) (gen : Nat) : Option EdSlot :=
  t.slots.find? (fun e => (e.role = .active && decide (e.first ≤ gen)) || (e.role = .retired && decide (e.first ≤ gen ∧ gen ≤ e.last)))

/-- Where row r of an edition stands (chapter 9, Building an edition). -/
def State.editionRow (s : State) (d : Desc) (slot r : Nat) : Nat :=
  s.rdLe (d.dirAddr slot + 8 * (r / d.rps)) 8 / 65536 % 2 ^ 32 * 65536 + (r % d.rps) * d.eb

/-! ### The hot-row map (R264 to R269) -/

/-- The set of a home address (R264). -/
def hmSet (pa : Nat) : Nat := ((pa >>> 6) % 16384) ^^^ ((pa >>> 20) % 16384) ^^^ ((pa >>> 34) % 16384)
def hmSlice (pa : Nat) : Nat := hmSet pa % 4

def State.hotEnt (s : State) (home : Nat) : Option HotEnt := s.hot.ents.find? (fun e => e.home == home)
def State.setEnt (s : State) (e : HotEnt) : State :=
  s.modHot (fun h => { h with ents := h.ents.map (fun x => if x.home = e.home then e else x) })
/-- Does the operation that a cluster issued in some place of its order still run? -/
def State.inProgress (s : State) (c seq : Nat) : Bool := (s.cl c).sk.any (fun o => o.seq == seq)

/-- A place of a copy becomes free, once every operation that has looked its row up has completed (R268). -/
def State.hotRelease (s : State) (home pa bytes : Nat) : State :=
  let ops := (s.hot.looks.filter (fun l => l.home == home && s.inProgress l.c l.seq)).map (fun l => (l.c, l.seq))
  if ops.isEmpty then s else s.modHot (fun h => { h with freed := h.freed ++ [⟨pa, bytes, ops⟩] })

/-- An entry leaves the map: the place of its copy becomes free. -/
def State.delEnt (s : State) (home : Nat) : State :=
  let t := match s.hotEnt home with
    | some e => (match e.copy with
      | some p => s.hotRelease home p (64 * e.units)
      | none => s)
    | none => s
  t.modHot (fun h => { h with ents := h.ents.filter (fun x => x.home != home) })

/-- The hot area of a region: base and size in bytes (NB_HOTAREA). -/
def State.hotArea (s : State) (k : Nat) : Nat × Nat :=
  let r := regNbHotarea (s.phys k)
  (s.rfld r 8 0 * 65536, s.rfld r 40 32 * 65536)

/-- Ranges that copies hold, and those that wait for readers (R268). -/
def State.hotUsed (s : State) : List (Nat × Nat) :=
  s.hot.ents.flatMap (fun e =>
    (match e.copy with
      | some p => [(p, 64 * e.units)]
      | none => []) ++
    (match e.pend with
      | some p => [(p.target, 64 * e.units)]
      | none => []))
    ++ (s.hot.freed.filter (fun x => x.ops.any (fun o => s.inProgress o.1 o.2))).map (fun x => (x.pa, x.bytes))

/-- The lowest free place of a size in a slice's quarter of a region's hot area at one bank group: of the area's granules there, 8 KiB for
each 64 KiB unit, the slice has a quarter, so that its quarter spreads evenly over the bank groups; a copy crosses no granule (R265, R360).
Which quarter is whose, and the lowest place first, are DESIGN CHOICE, log 35. -/
def State.hotFree (s : State) (k slice g n : Nat) : Option Nat :=
  let (b, sz) := s.hotArea k
  let units := sz / 65536
  let used := s.hotUsed
  let gran := (upto (16 * units)).filter (fun i => iwBankGroup (b + 4096 * i) == g)
  ((upto units).map (fun u => slice * units + u)).findSome? (fun u =>
    ((upto 32).map (fun j => inkwellBase k + b + 4096 * gran.getD (u / 2) 0 + 2048 * (u % 2) + 64 * j)).find? (fun pa =>
      decide (pa % 2048 + n ≤ 2048 ∨ (pa % 4096 + n ≤ 4096 ∧ u + 1 < (slice + 1) * units)) && !used.any (fun u => overlap pa n u.1 u.2)))

/-- Bank groups by the load of the last window, the lowest number first on a tie (R265). -/
def State.hotGroups (s : State) (k : Nat) : List Nat :=
  let load (g : Nat) : Nat := (s.reg (regNbBgload (s.phys k) g)).toNat
  (upto 8).foldl (fun (l : List Nat) g => l.filter (fun x => decide (load x ≤ load g)) ++ [g] ++ l.filter (fun x => decide (load g < load x))) []

/-- Where a new copy goes (R265): nowhere in a region that is fenced (R269). -/
def State.hotPlace (s : State) (k slice n : Nat) : Option Nat :=
  if s.fenced (s.phys k) then none else (s.hotGroups k).findSome? (fun g => s.hotFree k slice g n)

def State.hotSpent (s : State) (slice : Nat) : Nat := smapGet (fun _ => 0) s.hot.spent slice
def State.hotSpend (s : State) (slice : Nat) : State :=
  s.modHot (fun h => { h with spent := smapSet (fun _ => 0) h.spent slice (smapGet (fun _ => 0) h.spent slice + 1) })
def State.hotOn (s : State) : Bool := s.rbit regHmCfg 31

/-- A way for a new entry of a set: a free one, else the unpinned one of lowest heat below a bound (R266); none in a slice that
is fenced (R461). -/
def State.hotWay (s : State) (home : Nat) (bound : Option Nat) : Option (Nat × Option HotEnt) :=
  if s.blot.units.contains ⟨3, hmSlice home⟩ then none else
  let es := s.hot.ents.filter (fun e => hmSet e.home == hmSet home)
  match (upto 8).find? (fun w => !es.any (fun e => e.way == w)) with
  | some w => some (w, none)
  | none =>
    let cand := ((upto 8).filterMap (fun w => es.find? (fun e => e.way == w))).filter (fun e => e.pin.isNone && e.pend.isNone)
    match cand.find? (fun e => cand.all (fun x => decide (e.heat ≤ x.heat))) with
    | some e => (match bound with
      | some b => if e.heat < b then some (e.way, some e) else none
      | none => some (e.way, some e))
    | none => none

/-- Start a copy of a row into the map (R266, R268); a victim leaves first. -/
def State.hotStart (s : State) (home units way target : Nat) (victim : Option HotEnt) (pin : Option Nat) : State :=
  let t := match victim with
    | some e => (s.delEnt e.home).bump regHmEvict
    | none => s
  t.modHot (fun h => { h with
    ents := h.ents ++ [⟨home, units, way, none, 0, none, some ⟨target, pin⟩, false, false⟩]
    cand := h.cand.filter (fun c => c.home != home) })

/-- Promote a candidate whose count has reached the threshold (R266, R267). -/
def State.hotPromote (s : State) (c : HotCand) : State :=
  let slice := hmSlice c.home
  if !s.hotOn || (s.hotEnt c.home).isSome then s
  else if s.hotSpent slice ≥ s.rfld regHmCfg 12 8 then
    if c.deferred then s
    else (s.modHot (fun h => { h with cand := h.cand.map (fun x => if x.home = c.home then { x with deferred := true } else x) })).bump
      regHmDefer
  else match s.hotWay c.home (some c.count) with
    | none => s
    | some (way, victim) =>
      match s.hotPlace c.owner slice (64 * c.units) with
      | none => s.bump regHmSpace
      | some target => (s.hotSpend slice).hotStart c.home c.units way target victim none

/-- A lookup that misses counts its row in the slice's candidate table of 2,048 (R266). -/
def State.hotMiss (s : State) (home units owner : Nat) : State :=
  if units > 32 then s
  else
    let slice := hmSlice home
    let mine := s.hot.cand.filter (fun c => hmSlice c.home == slice)
    let c : HotCand := match mine.find? (fun c => c.home == home) with
      | some c => { c with count := min 255 (c.count + 1) }
      | none => ⟨home, units, owner, 1, false⟩
    let low := mine.find? (fun x => mine.all (fun y => decide (x.count ≤ y.count)))
    let keep := s.hot.cand.filter (fun x => x.home != home &&
      !(decide (mine.length ≥ 2048) && !mine.any (fun y => y.home == home) && (low.map (fun l => l.home == x.home)).getD false))
    let t := s.modHot (fun h => { h with cand := keep ++ [c] })
    if c.count ≥ s.rfld regHmCfg 7 0 then t.hotPromote c else t

/-- An operation in progress has looked a row up (R268). -/
def State.noteLook (s : State) (who : Option (Nat × Nat)) (home : Nat) : State :=
  match who with
  | none => s
  | some (c, seq) => s.modHot (fun h => { h with
      looks := h.looks.filter (fun l => s.inProgress l.c l.seq && !(l.c == c && l.seq == seq && l.home == home)) ++ [⟨c, seq, home⟩] })

/-- An entry is found bad, itself or its copy: it is invalidated and counted, and a pinned row is installed again, elsewhere in its quarter
where that has room (R256, R264). -/
def State.hotBad (s : State) (e : HotEnt) : State :=
  let t := s.bump regHmCopyDrop
  match e.pin, e.copy with
  | none, _ => t.delEnt e.home
  | some _, none => t
  | some _, some p =>
    let u := t.hotRelease e.home p (64 * e.units)
    let target := match placeOf p with
      | .inkwell k _ => (u.hotPlace k (hmSlice e.home) (64 * e.units)).getD p
      | _ => p
    u.setEnt { e with copy := none, pend := some ⟨target, none⟩ }

/-- A lookup of a row of a Reservoir-homed table: the address to read (R256, R264, R266). A copy with a bad word is dropped, and so is an
entry that the lookup finds uncorrectable. -/
def State.hotLook (s : State) (who : Option (Nat × Nat)) (bad : Option Nat) (home units owner n : Nat) : Nat × State :=
  let t := (s.bump regHmLookups).noteLook who home
  match s.hotEnt home with
  | some e =>
    if bad = some home then (home, t.hotBad e)
    else match e.copy with
    | some p =>
      if s.poisoned p n then (home, t.hotBad e)
      else (p, (t.bump regHmHits).setEnt { e with heat := min 255 (e.heat + 1) })
    | none => (home, t)
  | none => (home, t.hotMiss home units owner)

/-- A Nib write of a row: a copy under way is abandoned, but never that of a pinned row, which takes the row as it stands when it is done;
a copy that stands is written with the home (R237, R268, R270). -/
def State.hotWrite (s : State) (home : Nat) (bs : List Byte) : State :=
  match s.hotEnt home with
  | none => s
  | some e =>
    let t := match e.pend with
      | none => s
      | some p =>
        if e.pin.isSome then s
        else (match e.copy with
          | some _ => (s.hotRelease home p.target (64 * e.units)).setEnt { e with pend := none }
          | none => (s.hotRelease home p.target (64 * e.units)).delEnt home).bump regHmMigAbort
    match e.copy with
    | some p => t.memWrite p bs
    | none => t

/-- Rows pinned by a job (HM_PINQj.USED). -/
def State.pinUsed (s : State) (j : Nat) : Nat := s.rfld (regHmPinq j) 47 32

/-- A copy is done: the row is copied and V set in one write (R268). A home with a poisoned word is not copied: the entry leaves, or a
pinned one waits (R368). A pin that waits for the copy is counted unless its quota has been reached meanwhile (R270). -/
def State.hotDone (s : State) (home : Nat) : State :=
  match s.hotEnt home with
  | none => s
  | some e =>
    match e.pend with
    | none => s
    | some p =>
      let n := 64 * e.units
      if e.lost then s
      else if s.poisoned home n then (if e.pin.isSome then s else
        match e.copy with
        | some _ => (s.bump regHmCopyDrop).setEnt { e with pend := none }
        | none => (s.bump regHmCopyDrop).delEnt home)
      else
        let u := (s.memRead home n).memWrite p.target (s.rdN home n)
        let v := u.bump (if e.copy.isSome then regHmMove else regHmPromote)
        let pin := p.pin.filter (fun j => decide (s.pinUsed j < s.rfld (regHmPinq j) 15 0))
        let w := match e.copy with
          | some old => if old = p.target then v else v.hotRelease home old n
          | none => v
        let x := w.setEnt { e with copy := some p.target, pend := none, pin := if pin.isSome then pin else e.pin, due := pin.isSome }
        match pin with
        | some j => x.setRfld (regHmPinq j) 47 32 (x.pinUsed j + 1)
        | none => x

/-- The microsecond's cap is free again: deferred promotions and moves start in order (R267). -/
def State.hotMove (s : State) (home : Nat) : State :=
  match s.hotEnt home with
  | none => s
  | some e =>
    match e.copy, e.pend, e.pin with
    | some p, none, none =>
      let slice := hmSlice home
      (match placeOf p with
      | .inkwell k _ =>
        if s.hotSpent slice ≥ s.rfld regHmCfg 12 8 then
          if s.hot.moves.contains home then s
          else (s.modHot (fun h => { h with moves := h.moves ++ [home] })).bump regHmDefer
        else match s.hotPlace k slice (64 * e.units) with
          | some target =>
            ((s.hotSpend slice).setEnt { e with pend := some ⟨target, none⟩ }).modHot (fun h => { h with
              moves := h.moves.filter (fun x => x != home) })
          | none => (s.bump regHmSpace).modHot (fun h => { h with moves := h.moves.filter (fun x => x != home) })
      | _ => s)
    | _, _, _ => s.modHot (fun h => { h with moves := h.moves.filter (fun x => x != home) })

/-- A tick of the rate cap (R267). -/
def State.hotTick (s : State) : State :=
  let t := s.modHot (fun h => { h with spent := [] })
  let u := (t.hot.cand.filter (fun c => c.deferred)).foldl (fun u c => u.hotPromote c) t
  u.hot.moves.foldl (fun u h => u.hotMove h) u

/-- A window ends (R263, R266): loads are latched, counts and heats halved, cold copies evicted, and one copy per region moved
from a bank group above twice its region's mean. -/
def State.hotWindow (s : State) : State :=
  let s1 := (upto 1024).foldl (fun (t : State) i =>
    t.setReg (regNbBgload (t.phys (i / 8)) (i % 8)) (BitVec.ofNat 64 (smapGet (fun _ => 0) s.hot.bg i))) s
  let s2 := (upto 64).foldl (fun (t : State) c => t.setReg (regHmChload c) (BitVec.ofNat 64 (smapGet (fun _ => 0) s.hot.ch c))) s1
  let ents := s.hot.ents.map (fun e => { e with heat := e.heat / 2 })
  let cold (e : HotEnt) : Bool := e.pin.isNone && e.pend.isNone && e.heat == 0
  let s2 := (ents.filter cold).foldl (fun (t : State) e => match e.copy with
    | some p => t.hotRelease e.home p (64 * e.units)
    | none => t) s2
  let s3 := (s2.modHot (fun h => { h with
      bg := [], ch := []
      ents := ents.filter (fun e => !cold e)
      cand := (h.cand.map (fun c => { c with count := c.count / 2 })).filter (fun c => c.count != 0) })).bumpBy regHmEvict
    (ents.filter cold).length
  if !s.hotOn then s3
  else (upto 128).foldl (fun (t : State) k =>
    let load (g : Nat) : Nat := smapGet (fun _ => 0) s.hot.bg (8 * k + g)
    let sum := ((upto 8).map load).sum
    let mine := t.hot.ents.filter (fun e => e.pin.isNone && e.pend.isNone && (match e.copy with
      | some p => (match placeOf p with
        | .inkwell r off => r == k && decide (load (iwBankGroup off) * 8 > 2 * sum)
        | _ => false)
      | none => false))
    match mine.find? (fun e => mine.all (fun x => decide (x.heat ≤ e.heat))) with
    | some e => t.hotMove e.home
    | none => t) s3

/-! ### Reading a row -/

/-- The values of a row for a reader: from its edition, from its hot copy, or from its home (R238, R256, R289). -/
def State.rowAddr (s : State) (who : Option (Nat × Nat)) (bad : Option Nat) (d : Desc) (pub : Bool) (slot r : Nat) : Nat × State :=
  if pub then (s.editionRow d slot r, s)
  else if d.home = 1 then s.hotLook who bad (d.homeOf r) (d.rb / 64) (d.owner r) d.valBytes
  else (d.homeOf r, s)

/-- The format that rows are read in. -/
def Desc.readFmt (d : Desc) (pub : Bool) : Nat := if pub then d.efmt else d.vfmt

end Sys2Proof.Machine
end

