-- ==== Sys2Proof/Machine/Commit.lean ====
section
/-! DEFINITION. Commits, the commit journal, completions, visibility, editions switched by a publication, and folios
(R36 to R69, R284 to R293, R407 to R424, R499 to R508). -/

namespace Sys2Proof.Machine

/-! ### Roles (R400, R402) -/

/-- The role code of CB_STATUS. -/
def State.role (s : State) : Nat := s.rfld regCbStatus 2 0
def State.setRole (s : State) (r : Nat) : State :=
  if s.role = r then s else (s.setRfld regCbStatus 2 0 r).alert 0
/-- Roles that run jobs and seal: UNPAIRED, ACTIVE, SOLO (R402, R416). -/
def State.runs (s : State) : Bool := s.role == 0 || s.role == 2 || s.role == 4
/-- FAILED stops everything but reads and the management port (R460). -/
def State.blFailed (s : State) : Bool := s.rbit regBlStatus 6

/-! ### Visibility (R61 to R64, R385) -/

/-- The attribute of a page: 0 Working, 1 Exchange, 2 Visible; Working while the table is off. -/
def State.vis (s : State) (pa : Nat) : Nat :=
  if s.rbit regLnVistab 0 then
    let p := pa / 4096
    ((s.rd (s.rfld regLnVistab 47 26 * 2 ^ 26 + p / 4)).toNat >>> (2 * (p % 4))) % 4
  else 0

/-- The home invalidates every line of a range that the host holds (R64, R386). -/
def State.dropHost (s : State) (pa n : Nat) : State :=
  let mine (e : DirEnt) : Bool := overlap pa n e.line 64
  let t := (s.hdir.filter mine).foldl (fun t e => t.send .lanine 0x21 [0, e.line] []) s
  { t with hdir := t.hdir.filter (fun e => !mine e) }

/-- Set the attribute of one page. -/
def State.setVisPage (s : State) (p attr : Nat) : State :=
  if s.rbit regLnVistab 0 then
    let a := s.rfld regLnVistab 47 26 * 2 ^ 26 + p / 4
    let b := (s.rd a).toNat
    let sh := 2 * (p % 4)
    let t := s.dropHost (4096 * p) 4096
    t.homeForce a [BitVec.ofNat 8 (b - ((b >>> sh) % 4) * 2 ^ sh + attr * 2 ^ sh)]
  else s

/-- Set the attribute of every page of a range. -/
def State.setVis (s : State) (pa n attr : Nat) : State :=
  (upto ((pa + n + 4095) / 4096 - pa / 4096)).foldl (fun t i => t.setVisPage (pa / 4096 + i) attr) s

/-! ### The commit journal (R36, R38, R44) -/

/-- A record enters the send queue. -/
def State.cbSend (s : State) (ty job : Nat) (args : List Nat) (data : List Byte) : State :=
  { s with twin := { s.twin with sendq := s.twin.sendq ++ [⟨ty, job, args, data, 8 + 8 * args.length + data.length, false⟩] } }

/-- A line of the journal that changes while a resync runs crosses behind its first copy, so that the standby's journal ends as this
member's (R36, R430). -/
def State.mirrorLine (s : State) (pa : Nat) : State :=
  if s.role = 4 ∧ s.rbit regCbStatus 12 = true then s.cbSend 0x0C 0xFF [alignDown pa 64] (s.rdN (alignDown pa 64) 64) else s

/-- Where the journal's header stands: the firmware's choice, shown in FW_JOURNAL (R549). -/
def State.jbase (s : State) : Nat := s.rfld regFwJournal 47 12 * 4096
def State.jplaced (s : State) : Bool := s.rbit regFwJournal 0
def State.jr (s : State) (off : Nat) : Nat := s.rdLe (s.jbase + off) 8
/-- Write a header word by one aligned 64-bit write. -/
def State.setJr (s : State) (off v : Nat) : State := (s.homeForce (s.jbase + off) (leBytes 8 v)).mirrorLine (s.jbase + off)
def State.recordedCsn (s : State) : Nat := s.jr 0
def State.sealedCsn (s : State) : Nat := s.jr 8
def State.written (s : State) : Nat := s.jr 16
def State.takeovers (s : State) : Nat := s.jr 24
def State.assignedCsn (s : State) : Nat := s.jr 32

/-- The 64 bytes of a journal record. -/
def commitBytes (r : CommitRec) : List Byte :=
  let b := leBytes 8 r.csn.toNat ++ leBytes 8 r.subject.toNat ++ leBytes 8 r.parent.toNat ++ leBytes 1 r.kind ++ leBytes 1 r.job
    ++ leBytes 1 r.origin ++ leBytes 1 r.ring ++ leBytes 4 r.count ++ leBytes 8 r.time.toNat ++ List.replicate 20 0#8
  b ++ leBytes 4 (crc32c b).toNat

/-- Write a record into its slot, then WRITTEN, then RECORDED_CSN (R44). -/
def State.journal (s : State) (r : CommitRec) : State :=
  let w := s.written
  let t := (s.homeForce (s.jbase + 64 + 64 * (w % 65536)) (commitBytes r)).mirrorLine (s.jbase + 64 + 64 * (w % 65536))
  let u := t.setJr 16 ((w + 1) % 2 ^ 64)
  if u.recordedCsn < r.csn.toNat then u.setJr 0 r.csn.toNat else u

/-- Raise SEALED_CSN; it never decreases and never passes RECORDED_CSN (R44, R420). -/
def State.seal (s : State) (csn : Nat) : State :=
  if s.sealedCsn < csn then s.setJr 8 (min csn s.recordedCsn) else s

/-- Assign the next CSN; the last value of the sequence is refused and reported (R36, R38). -/
def State.assign (s : State) : Option Nat × State :=
  let n := s.assignedCsn + 1
  if n ≥ 2 ^ 64 - 1 then (none, s.report ⟨0x34, ⟨7, 0⟩, 0, 0, none, false⟩) else (some n, s.setJr 32 n)

/-- May the sequencer take a commit: a role that makes commits, a journal, no FAILED, no publication under way, and no seal that ends a
resync on its way (R37, R402; log 75). -/
def State.mayCommit (s : State) : Bool :=
  s.runs && s.jplaced && !s.blFailed && s.folio.pub.isNone
    && !(s.role == 4 && s.rbit regCbStatus 12 && s.twin.folioAll && s.rfld regCbStatus 7 6 == 3)

def State.mkRec (s : State) (csn : Nat) (subject parent : Word) (kind job ring count : Nat) : CommitRec :=
  { csn := BitVec.ofNat 64 csn, subject := subject, parent := parent, kind := kind, job := job
    origin := b2n (s.rbit regCbStatus 5), ring := ring, count := count, time := s.time }

/-! ### Records for the twin (R407, R411) -/

/-- A commit record leaves for the twin; with no twin the caller records at once (R40, R408). -/
def State.sendCommit (s : State) (r : CommitRec) (entry : List Byte) : State :=
  if s.role = 2 then s.cbSend 0x02 r.job [] ((commitBytes r) ++ entry) else s

/-! ### Completions and events (R499 to R507, R395) -/

def State.ring (s : State) (r : Nat) : Ring := smapGet (fun _ => {}) s.rings r
def State.setRing (s : State) (r : Nat) (x : Ring) : State := { s with rings := smapSet (fun _ => {}) s.rings r x }
def State.modRing (s : State) (r : Nat) (f : Ring → Ring) : State := s.setRing r (f (s.ring r))
/-- A field of a control block. -/
def State.cbf (s : State) (r off n : Nat) : Nat := s.rdLe ((s.ring r).cb + off) n
def State.ringFair (s : State) (r : Nat) : Bool := s.cbf r 18 1 == 1
/-- Is the firmware serving: READY and not restarting (R510)? -/
def State.fwUp (s : State) : Bool := s.rbit regFwStatus 0 && !s.rbit regFwStatus 5

/-- Entries pending for a vector go out as INTR when the coalescing says so (R395). -/
def State.intrTry (s : State) (r : Nat) (now : Bool) : State :=
  let n := smapGet (fun _ => 0) s.lan.intr r
  let due := now || decide (s.rfld (regLnIntcoal r) 31 16 = 0) || decide (n ≥ max 1 (s.rfld (regLnIntcoal r) 7 0))
  if n ≠ 0 ∧ due = true ∧ s.rfld regLnStatus 1 0 = 2 then
    let t := (s.send .lanine 0x42 [r] []).bump regLnIntr
    { t with lan := { t.lan with intr := smapSet (fun _ => 0) t.lan.intr r 0 } }
  else s

/-- Is there room in a completion ring (R507)? -/
def State.cqRoom (s : State) (r : Nat) : Bool :=
  (s.ring r).created && decide (((s.ring r).produced + (2 ^ 32 - s.cbf r 24 4)) % 2 ^ 32 < 2 ^ s.cbf r 17 1)

/-- Write one entry of a completion ring as a whole line, with its PHASE, and count it toward the interrupt. -/
def State.cqWrite (s : State) (r : Nat) (b : List Byte) : State :=
  let n := (s.ring r).produced
  let size := 2 ^ s.cbf r 17 1
  let phase := 1 - (n / size) % 2
  let t := s.homeForce (s.cbf r 8 8 + 64 * (n % size)) (padB 63 b ++ leBytes 1 phase)
  let u := t.modRing r (fun x => { x with produced := x.produced + 1 })
  let v : State := { u with lan := { u.lan with intr := smapSet (fun _ => 0) u.lan.intr r (smapGet (fun _ => 0) u.lan.intr r + 1) } }
  v.intrTry r false

/-- A completion entry (R504). -/
def complBytes (r : Nat) (e : RingEnt) (c : Compl) : List Byte :=
  leBytes 1 1 ++ leBytes 1 c.status ++ leBytes 1 c.reason ++ leBytes 1 r ++ sliceB e.bytes 4 4 ++ leBytes 8 e.seq.toNat
    ++ leBytes 8 c.csn.toNat ++ padB 32 c.result ++ List.replicate 7 0#8

/-- An event entry (R506). -/
def eventBytes (e : Event) (n : Word) : List Byte :=
  leBytes 1 2 ++ leBytes 1 e.code ++ leBytes 1 e.job ++ leBytes 1 e.cause ++ leBytes 4 0 ++ leBytes 8 n.toNat
    ++ leBytes 8 e.csn.toNat ++ padB 32 e.result ++ List.replicate 7 0#8

/-- Write the completions that may be written: in order on a Fair-copy pair, as they finish on a Draft pair (R51, R502). `n`
bounds the passes. -/
def State.settleRing (s : State) (r : Nat) : Nat → State
  | 0 => s
  | n + 1 =>
    if !s.fwUp || !s.cqRoom r then s
    else
      let q := (s.ring r).opened
      let pick := if s.ringFair r then q.head?.filter (fun e => e.compl.isSome) else q.find? (fun e => e.compl.isSome)
      match pick with
      | none => s
      | some e => match e.compl with
        | none => s
        | some c =>
          let t := (s.cqWrite r (complBytes r e c)).bump regFwCmds
          (t.modRing r (fun x => { x with opened := x.opened.filter (fun y => y.seq != e.seq) })).settleRing r n

/-- Write the events that have room in the ring of pair 0 (R506, R507). -/
def State.settleEvents (s : State) : Nat → State
  | 0 => s
  | n + 1 =>
    match s.events with
    | [] => s
    | e :: rest =>
      if !s.fwUp || !s.cqRoom 0 then s
      else
        let t := s.cqWrite 0 (eventBytes e s.fw.eventNo)
        ({ t with events := rest, fw := { t.fw with eventNo := t.fw.eventNo + 1 } } : State).settleEvents n

/-- Write everything that has room. -/
def State.settleAll (s : State) : State :=
  let t := (upto 64).foldl (fun t r => t.settleRing r (t.ring r).opened.length) s
  t.settleEvents t.events.length

/-- The effect point of an entry: its effect record (R508); its completion follows. -/
def State.complete (s : State) (r : Nat) (seq : Word) (c : Compl) : State :=
  let t := s.modRing r (fun x => { x with opened := x.opened.map (fun e =>
    if e.seq = seq then { e with cmd := none, compl := some c } else e) })
  t.settleRing r (t.ring r).opened.length

def doneWith (reason : Nat) (csn : Word) (result : List Byte) : Compl := ⟨0x00, reason, csn, result⟩
def notDone (reason : Nat) : Compl := ⟨0x10, reason, 0, []⟩

/-! ### Consuming ring entries (R500, R501) -/

/-- The field of a consumed entry. -/
def RingEnt.byte (e : RingEnt) (i : Nat) : Nat := (e.bytes.getD i 0#8).toNat

/-- Entries submitted and not consumed. -/
def State.ringWaiting (s : State) (r : Nat) : Nat := ((s.ring r).tail + 2 ^ 32 - s.cbf r 32 4) % 2 ^ 32

/-- The firmware consumes one entry: it takes NEXTSEQ, and SQHEAD and NEXTSEQ advance (R501). -/
def State.consume (s : State) (r : Nat) : State :=
  let head := s.cbf r 32 4
  let seq := s.cbf r 40 8
  let cb := (s.ring r).cb
  let pa := s.cbf r 0 8 + 64 * (head % 2 ^ s.cbf r 16 1)
  let b := s.rdN pa 64
  let t := ((s.memRead pa 64).homeForce (cb + 32) (leBytes 4 (head + 1))).homeForce (cb + 40) (leBytes 8 (seq + 1))
  t.modRing r (fun k => { k with opened := k.opened ++ [{ seq := BitVec.ofNat 64 seq, bytes := b }] })

/-- Ordered commands that stand at the sequencer, by their jobs: each the first entry of its pair without a completion, not executed, with
nothing but its turn to wait for (R37, R51, R56; log 73). JOB_LOAD waits for a seal, STATE_READ for a step boundary, RING_DELETE for its
pair, LEDGER_WRITE for V_HU. -/
def State.orderedWait (s : State) : List Nat :=
  if !s.fwUp || !s.mayCommit || decide (s.shed ≥ 3) then []
  else (upto 64).filterMap (fun r => ((s.ring r).opened.find? (fun e => e.compl.isNone)).bind (fun e =>
    if e.byte 1 = 1 ∧ e.cmd.isNone = true ∧ e.commit.isNone = true ∧ [0x03, 0x10, 0x17].contains (e.byte 0) = false
        ∧ (e.byte 0 = 0x21 → s.ledPower = true) then some (e.byte 2) else none))

/-! ### Settling a queue (R55) -/

/-- Does an entry keep its place: its completion stands, or its commit is recorded or on its way (R55, R457)? -/
def RingEnt.stands (e : RingEnt) : Bool := e.compl.isSome || e.commit.isSome

/-- The first entry that does not stand, and every entry after it, receive NOT_DONE (R55). -/
def settleEnts : List RingEnt → List RingEnt
  | [] => []
  | e :: r =>
    if e.stands then e :: settleEnts r
    else (e :: r).map (fun x => if x.commit.isSome then x else { x with cmd := none, compl := some (notDone 0x10) })

/-- Settle one Fair-copy pair, from its first entry with no completion written: entries submitted and not consumed are among those
that receive NOT_DONE (R55). -/
def State.settleFair (s : State) (r : Nat) : State :=
  let k := s.ring r
  if !k.created || !s.ringFair r then s
  else
    let t := (upto (s.ringWaiting r)).foldl (fun t _ => t.consume r) s
    let gone := (settleEnts (t.ring r).opened).filter (fun e => e.compl == some (notDone 0x10))
    let u : State := { t with
      pubq := t.pubq.filter (fun p => match p.host with
        | some (q, seq) => !(q == r && gone.any (fun e => e.seq.toNat == seq))
        | none => true)
      dx := { t.dx with stalled := t.dx.stalled.filter (fun x => x != 128 + r) } }
    let v := u.modRing r (fun k => { k with opened := settleEnts k.opened })
    v.settleRing r (v.ring r).opened.length

/-! ### Groups over Ethernet (R431, R440 to R445) -/

/-- The place of a queue pair's context (R440). -/
def State.qpBase (s : State) (q : Nat) : Nat := s.rfld regEnQptab 47 18 * 2 ^ 18 + 256 * q

/-- The control queue pairs of a job's group: contexts with V and CTRL whose JOB names it (R440). -/
def State.ctrlPairs (s : State) (j : Nat) : List Nat :=
  let b := s.qpBase 0
  s.mem.filterMap (fun c =>
    if b ≤ c.1 ∧ c.1 < b + 262144 ∧ (c.1 - b) % 256 = 0 ∧ c.2.toNat % 4 = 3 ∧ c.2.toNat / 16 = j then some ((c.1 - b) / 256) else none)

/-- A job with a control queue pair belongs to a group (R443). -/
def State.grouped (s : State) (j : Nat) : Bool := !(s.ctrlPairs j).isEmpty
/-- Jobs of groups that folios wait for. -/
def State.groupJobs (s : State) : List Nat :=
  (upto 16).filter (fun j => (s.job j).loaded && !(s.job j).loading && s.grouped j)

/-- A member is lost to a group while one of its control queue pairs is in error (R445). -/
def State.groupLost (s : State) (j : Nat) : Bool := (s.ctrlPairs j).any (fun q => s.rd (s.qpBase q + 1) == 2#8)

def State.group (s : State) (j : Nat) : GroupRt := smapGet (fun _ => {}) s.groups j
def State.setGroup (s : State) (j : Nat) (g : GroupRt) : State := { s with groups := smapSet (fun _ => {}) s.groups j g }
/-- This module's rank in the group of a job. -/
def State.rank (s : State) (j : Nat) : Nat := Config.groupRank (s.job j).image

/-- The 64 bytes of a control message (table of chapter 17); the parts of the body take 8 bytes each (DESIGN CHOICE, log 108). -/
def ctlBytes (ty j rank : Nat) (vals : List Nat) : List Byte :=
  padB 64 (leBytes 1 ty ++ leBytes 1 j ++ leBytes 1 rank ++ leBytes 5 0 ++ vals.flatMap (fun v => leBytes 8 v))
/-- A control message leaves by SEND: its type, job, sender's rank and values. -/
def State.sendCtl (s : State) (q ty j : Nat) (vals : List Nat) : State :=
  s.send (.ether ((s.rd (s.qpBase q)).toNat / 8 % 2)) 0x04 ([q, ty, j, s.rank j] ++ vals) (ctlBytes ty j (s.rank j) vals)
/-- One goes to every other member. -/
def State.sendAll (s : State) (ty j : Nat) (vals : List Nat) : State :=
  (s.ctrlPairs j).foldl (fun t q => t.sendCtl q ty j vals) s

/-- Rank 0 sets the step of a group folio: two above the step it is running; a request while one is pending joins it
(R444). -/
def State.groupFolioAt (s : State) (j : Nat) : State :=
  if (s.group j).folioAt.isSome then s
  else
    let step := (smapGet (fun _ => (0, 0)) s.dx.prevStep j).1 + 3
    (s.setGroup j { s.group j with folioAt := some step }).sendAll 0x05 j [step.toNat]

/-- A folio request of a module with group jobs is forwarded to rank 0 of each group (R444). -/
def State.groupRequest (s : State) (forced : Bool) : State :=
  s.groupJobs.foldl (fun (t : State) j =>
    let u := t.setGroup j { t.group j with forced := (t.group j).forced || forced }
    if u.rank j = 0 then u.groupFolioAt j
    else u.sendCtl (Config.groupPair (u.job j).image 0) 0x04 j [b2n forced]) s

/-- The step-end commit of a step, found in the journal: one that a restart has withdrawn, or that an earlier job of this context made,
is not it (R48, R53, R66, R287). -/
def State.stepCsn (s : State) (j : Nat) (step : Word) : Option Nat :=
  (upto (min s.written 65536)).findSome? (fun i =>
    let a := s.jbase + 64 + 64 * ((s.written - 1 - i) % 65536)
    let n := s.rdLe a 8
    if s.rdLe (a + 24) 1 = 1 ∧ s.rdLe (a + 25) 1 = j ∧ s.rdLe (a + 8) 8 = step.toNat
        ∧ (s.job j).gone.any (fun g => decide (g.1 < n ∧ n ≤ g.2)) = false then some n else none)

/-! ### Queue-pair contexts and slice requests (R293, R435, R443) -/

/-- A field of a context. -/
def State.qpf (s : State) (q off n : Nat) : Nat := s.rdLe (s.qpBase q + off) n
/-- The module or the firmware writes a field of a context. -/
def State.setQpf (s : State) (q off n v : Nat) : State := s.homeForce (s.qpBase q + off) (leBytes n v)
def State.qpFlags (s : State) (q : Nat) : Nat := s.qpf q 0 1
def State.qpPort (s : State) (q : Nat) : Nat := s.qpFlags q / 8 % 2
def State.qpJob (s : State) (q : Nat) : Nat := s.qpFlags q / 16
def State.qpRt (s : State) (q : Nat) : QpRt := smapGet (fun _ => {}) s.qps q
def State.setQp (s : State) (q : Nat) (x : QpRt) : State := { s with qps := smapSet (fun _ => {}) s.qps q x }

/-- A packet leaves on the port of a queue pair: its opcode and its numbers, the pair first. -/
def State.qpSend (s : State) (q code : Nat) (args : List Nat) (data : List Byte) : State :=
  s.send (.ether (s.qpPort q)) code (q :: args) data

/-- What a member makes of a slice request's edition (R293). -/
inductive EditionAt where
  | working
  | slot (n : Nat)
  | wait
  | gone
  deriving DecidableEq, Repr

def State.sliceEdition (s : State) (j : Nat) (r : SliceReq) : EditionAt :=
  if r.edition = 0 then .working
  else match (s.table j r.table).editionAt r.edition with
    | some e => .slot e.slot
    | none => if r.edition > (s.reg (regNbEdgen j)).toNat then .wait else .gone

/-- A slice request: EDITION_GONE is answered at once, one for an edition that is not yet active waits, else the adjacency block is read from
the requester (R293, R443). -/
def State.sliceReq (s : State) (q : Nat) (r : SliceReq) : State :=
  let j := s.qpJob q
  let x := s.qpRt q
  if (s.desc j r.table).isNone then s
  else match s.sliceEdition j r with
    | .wait => s.setQp q { x with waits := x.waits ++ [r] }
    | .gone => (s.bump regNbWideGone).sendCtl q 0x03 j [r.edition, 1]
    | _ =>
      let psn := s.qpf q 56 4 % 2 ^ 24
      (s.setQp q { x with slices := x.slices ++ [(psn, r)] }).qpSend q 0x0C [psn, s.qpf q 12 4, r.adj.toNat] []

/-- A publication has completed: the slice requests of its job that waited are looked at again (R293). -/
def State.sliceWake (s : State) (j : Nat) : State :=
  s.qps.foldl (fun (t : State) x =>
    let q := x.1
    if t.qpJob q = j then (t.qpRt q).waits.foldl (fun u r => u.sliceReq q r) (t.setQp q { t.qpRt q with waits := [] }) else t) s

/-! ### Editions (R286 to R291) -/

/-- Bytes of an edition segment or directory that belong to a slot: the directory or block, and its segments. -/
def State.slotRanges (s : State) (d : Desc) (slot : Nat) : List (Nat × Nat) :=
  if d.kind = 1 then [(d.blockAddr slot, d.rows * 64)]
  else (d.dirAddr slot, 8 * d.esegs) :: (upto d.segs).map (fun i =>
    (s.rdLe (d.dirAddr slot + 8 * i) 8 / 65536 % 2 ^ 32 * 65536, 65536))

/-- Generations that running tasks have sampled, or that a host holds (R291, R292). -/
def State.liveGens (s : State) (j : Nat) : List Nat :=
  (s.ctxs.filterMap (fun x => if x.2.run ≠ .idle ∧ x.2.task.job = j then some x.2.task.gen else none))
    ++ (s.dx.saved.filterMap (fun x => match x.2 with
      | some v => if v.ctx.task.job = j then some v.ctx.task.gen else none
      | none => none))
    ++ (s.dx.restored.filterMap (fun c => if c.task.job = j then some c.task.gen else none))
    ++ ((s.holds.filter (fun h => h.job == j)).map (fun h => h.gen))

/-- Reclaim a retired edition: host lines are invalidated, its own pages become Working, the slot is free (R291). -/
def State.reclaimSlot (s : State) (j t : Nat) (d : Desc) (e : EdSlot) : State :=
  let others := (((s.table j t).slots.filter (fun x => x.slot != e.slot)).flatMap (fun x => s.slotRanges d x.slot)).map (fun r => r.1)
  let mine := (s.slotRanges d e.slot).filter (fun r => !others.contains r.1)
  let u := mine.foldl (fun (u : State) r => u.setVis r.1 r.2 0) s
  (u.setTable j t { u.table j t with slots := (u.table j t).slots.filter (fun x => x.slot != e.slot) }).bump regNbEdReclaim

/-- Reclaim every retired edition of a job that nothing names any longer (R291); a wide one stays for NB_WIDEHOLD (R293). -/
def State.reclaim (s : State) (j : Nat) : State :=
  let gens := s.liveGens j
  s.tables.foldl (fun (u : State) x =>
    if x.1 / 4096 = j then
      match u.desc j (x.1 % 4096) with
      | some d => (x.2.slots.filter (fun e => e.role = .retired && !e.wide &&
          !gens.any (fun g => decide (e.first ≤ g ∧ g ≤ e.last)))).foldl (fun u e => u.reclaimSlot j (x.1 % 4096) d e) u
      | none => u
    else u) s

/-- The commit point of a publication: roles, generation and visibility switch in one step (R288). -/
def State.activate (s : State) (j : Nat) (tables : List Nat) : State :=
  let g := (s.reg (regNbEdgen j)).toNat
  let step1 (u : State) (t : Nat) : State :=
    match u.desc j t with
    | none => u
    | some d =>
      let x := u.table j t
      let slots := x.slots.map (fun e => match e.role with
        | .staging => { e with role := .active, first := g + 1, cleared := [] }
        | .active => { e with role := .retired, last := g, wide := decide (d.nsm1 ≠ 0) }
        | .retired => e)
      let v := u.setTable j t { x with slots := slots }
      ((slots.filter (fun e => e.role = .active)).flatMap (fun e => v.slotRanges d e.slot)).foldl (fun v r => v.setVis r.1 r.2 2) v
  let u := tables.foldl step1 s
  ((u.setReg (regNbEdgen j) (BitVec.ofNat 64 (g + 1))).reclaim j).sliceWake j

/-! ### Publication results (R287) -/

/-- A publication leaves its queue with a result: the list's result word, the waiting TB.PUBLISH, the host's completion. -/
def State.pubResult (s : State) (p : PubEnt) (csn : Option Nat) (reason : Nat) : State :=
  let v := csn.getD (2 ^ 64 - 1)
  let s1 := s.homeForce p.result (leBytes 8 v)
  let s2 : State := { s1 with pubq := s1.pubq.erase p }
  let s3 := match p.task with
    | some (k, n) => (match s2.skOp k n with
      | some o => s2.skDone k o
      | none => s2)
    | none => s2
  match p.host with
  | some (r, seq) =>
    s3.complete r (BitVec.ofNat 64 seq) (match csn with
      | some c => doneWith 0 (BitVec.ofNat 64 c) []
      | none => notDone reason)
  | none => s3

/-- After a recovery every Fair-copy queue is settled: host pairs, and the publication queues of jobs; those of jobs that were restored
hold what the folio captured (R51, R55, R551). -/
def State.settleQueues (s : State) (restored : List Nat) : State :=
  let t := (upto 64).foldl (fun (t : State) r => t.settleFair r) s
  (t.pubq.filter (fun p => p.task.isSome && !p.started && !restored.contains p.job)).foldl (fun (u : State) p => u.pubResult p none 0x10) t

/-! ### Carbon-mirrored tensors (R409) -/

/-- The class of a tensor: true when it is carbon-mirrored (R409). -/
def State.mirrored (s : State) (j t : Nat) (d : Desc) : Bool :=
  let r := regCbMirmap j
  let v := if s.rbit r 0 then ((s.rd (s.rfld r 47 10 * 1024 + t / 4)).toNat >>> (2 * (t % 4))) % 4 else 0
  if v = 1 then true else if v = 2 then false
  else decide ((if d.kind = 1 then d.rows * 64 else d.rows * d.rb) > 64 * 2 ^ 20)

/-- Bytes of a tensor. -/
def Desc.tensorBytes (d : Desc) : Nat := if d.kind = 1 then d.rows * 64 else d.rows * d.rb

/-- At each seal every carbon-mirrored tensor's bytes written per step are measured against 1/16 of its bytes, and the next epoch begins
(R409). -/
def State.classMiss (s : State) : State :=
  let n := (s.tables.filter (fun x => match s.desc (x.1 / 4096) (x.1 % 4096) with
    | some d => s.mirrored (x.1 / 4096) (x.1 % 4096) d && decide (x.2.epochBytes ≠ 0)
        && decide (16 * x.2.epochBytes ≥ d.tensorBytes * max 1 (s.job (x.1 / 4096)).epochSteps)
    | none => false)).length
  let t : State := { s with tables := smapMap (fun _ => {}) (fun _ x => { x with epochBytes := 0 }) s.tables
                            jobs := smapMap (fun _ => {}) (fun _ x => { x with epochSteps := 0 }) s.jobs }
  t.bumpBy regCbClassMiss n

/-! ### Commits of ordered host commands that wait for something else (R63, R503, R504) -/

/-- Where the bytes of a region lie that STATE_READ copies: rows of a table, or lines of a dense block. -/
def State.stateSpans (s : State) (j t first rows : Nat) : List (Nat × Nat) :=
  match s.desc j t with
  | none => []
  | some d =>
    if d.kind = 1 then [(d.base + 64 * first, 64 * rows)]
    else (upto rows).map (fun i => (d.homeOf (first + i), d.rb))

/-- The bytes themselves. -/
def State.stateBytes (s : State) (j t first rows : Nat) : List Byte :=
  (s.stateSpans j t first rows).flatMap (fun p => s.rdN p.1 p.2)

/-- STATE_READ takes its effect: the rows stand in the buffer (R63, R504), on whatever pages (DESIGN CHOICE, log 77). -/
def State.stateReadNow (s : State) (r : Nat) (e : RingEnt) (j t first rows buf csn : Nat) : State :=
  let b := s.stateBytes j t first rows
  let u := (s.stateSpans j t first rows).foldl (fun (u : State) p => u.memRead p.1 p.2) s
  (u.homeForce buf b).complete r e.seq (doneWith 0 (BitVec.ofNat 64 csn) (leBytes 8 b.length))

/-- A job is loaded from its commit point on: its first task is submitted already, its image's hash is the result (R504, R550). -/
def State.loadNow (s : State) (r : Nat) (e : RingEnt) (j csn : Nat) : State :=
  (s.setJob j { s.job j with loaded := true, loading := false, covered := false }).complete r e.seq
    (doneWith 0 (BitVec.ofNat 64 csn) (s.job j).image)

/-- The commit record of an entry, by its sequence number (R44, R501). -/
def State.entryRec (s : State) (csn r j : Nat) (seq : Word) : CommitRec := s.mkRec csn seq 0 3 j r 0

/-- The entry keeps the record on its way to the twin. -/
def State.entryCommit (s : State) (r : Nat) (e : RingEnt) (c : CommitRec) : State :=
  s.modRing r (fun x => { x with opened := x.opened.map (fun y => if y.seq = e.seq then { y with commit := some c } else y) })

/-- Before a job is unloaded the firmware reads the COUNT of each of its marks into the job's image (R327). -/
def State.saveCounts (s : State) (j : Nat) : State :=
  let mine := (upto 4096).filter (fun n => s.markMapped n && s.markJob n == j)
  let row := ((s.job j).image, mine.map (fun n => (s.rfld (regMkMark n) 57 48, s.markCount n)))
  { s with fw := { s.fw with counts := s.fw.counts.filter (fun x => x.1 != row.1) ++ [row] } }

/-- Everything of a job that is unloaded goes: its tasks, tables and pages, its settings and its mark map (R64, R271, R550; what is
written back to zero is a DESIGN CHOICE, log 58); a job loaded next begins its steps and its task numbers afresh (R298, R302). -/
def State.unload (s : State) (j : Nat) : State :=
  let s1 := ((s.dropTasks j).dropNear).endPins j
  let s2 := (s1.job j).exchange.foldl (fun (t : State) a => t.setVis a 4096 0) s1
  let s3 := s2.tables.foldl (fun (t : State) x =>
    if x.1 / 4096 = j then match t.desc j (x.1 % 4096) with
      | some d => (x.2.slots.flatMap (fun e => t.slotRanges d e.slot)).foldl (fun (t : State) r => t.setVis r.1 r.2 0) t
      | none => t
    else t) s2
  let s4 : State := { s3 with
    tables := s3.tables.filter (fun x => x.1 / 4096 != j)
    undo := smapErase s3.undo j
    tlb := s3.tlb.filter (fun e => e.job != j)
    holds := s3.holds.filter (fun h => h.job != j) }
  let s5 := (upto 256).foldl (fun (t : State) k => t.writeMap j k 0) s4
  let s6 := [regScJobPtbr j, regNbTbdir j, regCbMirmap j, regNbUndo j].foldl (fun (t : State) k => t.setReg k (resetOf k)) s5
  let s7 := s6.setJob j {}
  { s7 with dx := { s7.dx with prevStep := smapErase s7.dx.prevStep j, nextNum := smapErase s7.dx.nextNum j } }

/-- An ordered entry reaches its commit point: a CSN is assigned, and the record leaves for the twin or is written here with the
effect `now`; with the sequence exhausted it has no effect (R38, R40, R503). -/
def State.commitEntry (s : State) (r : Nat) (e : RingEnt) (j : Nat) (now : State → Nat → State) : State :=
  match s.assign with
  | (none, t) => (if e.byte 0 = 0x10 then t.unload j else t).complete r e.seq (notDone 0x14)
  | (some n, t) =>
    let c := t.entryRec n r j e.seq
    if t.role = 2 then (t.entryCommit r e c).sendCommit c e.bytes
    else now (t.journal c) n

/-- A job whose load is given up: it is unloaded, and its entry is settled (R504). -/
def State.dropLoads (s : State) : State :=
  let js := (upto 16).filter (fun j => (s.job j).loading && !(s.job j).covered)
  let t := js.foldl (fun (t : State) j => t.unload j) s
  let rs := (upto 64).filter (fun r => (t.ring r).opened.any (fun e =>
    e.byte 0 == 0x10 && e.cmd.isSome && e.commit.isNone && e.compl.isNone && js.contains (e.byte 2)))
  rs.foldl (fun (u : State) r => u.settleFair r) t

/-- Loads whose folio is sealed reach their commit point, the lower job first; L3 holds them (R37, R56, R504). -/
def State.commitLoads (s : State) : State :=
  (upto 16).foldl (fun (t : State) j => (upto 64).foldl (fun (t : State) r =>
    ((t.ring r).opened.filter (fun e => e.byte 0 == 0x10 && e.byte 2 == j && e.cmd.isSome && e.commit.isNone && e.compl.isNone
        && (t.job j).covered)).foldl
      (fun (u : State) e => if u.mayCommit && decide (u.shed < 3) then u.commitEntry r e j (fun (v : State) n => v.loadNow r e j n) else u) t)
    t) s

/-! ### Folios (R416 to R422) -/

/-- CB_STATUS.FOLIO: 0 idle, 1 quiescing, 2 capturing and sending, 3 awaiting SEAL_ACK. -/
def State.folioPhase (s : State) : Nat := s.rfld regCbStatus 7 6
def State.setPhase (s : State) (n : Nat) : State := s.setRfld regCbStatus 7 6 n

/-- Jobs that folios capture: loaded ones, and one whose load waits for its folio (R417, R504). -/
def State.folioJobs (s : State) : List Nat := (upto 16).filter (fun j => (s.job j).loaded || (s.job j).loading)

/-- Stroke operations of captured jobs pause at a request boundary; they keep their states for the end (R140). -/
def State.pauseSk (s : State) : State :=
  let js := s.folioJobs
  { s with clu := smapMap (fun _ => {}) (fun _ c => { c with
    sk := c.sk.map (fun o => if js.contains o.own.job && o.state == 3 then { o with state := 5, saved := 3 } else o) }) s.clu }

/-- Paused operations go on. -/
def State.resumeSk (s : State) : State :=
  { s with clu := smapMap (fun _ => {}) (fun k c => if s.active k then { c with
      sk := c.sk.map (fun o => if o.state = 5 then { o with state := 3, saved := 0 } else o) } else c) s.clu }

/-- The command queues of the Quills and Stipples go on after a stop (R176, R229). -/
def State.engFlow (s : State) : State :=
  s.clu.foldl (fun (t : State) x => if t.cluLive x.1 then (t.qlFlow x.1 16).spFlow x.1 16 else t) s

/-- A folio begins: dispatch stops and the jobs' work pauses (R49, R140, R323). Where a publication waits in it with a lost link (R50), they
stay stopped, as R421 says of the stop (DESIGN CHOICE, log 71). -/
def State.folioBegin (s : State) (forced : Bool) : State :=
  let t : State := { s with
    folio := { s.folio with forced := forced, next := false, waits := none, num := (s.reg regCbSealed).toNat + 1, cap := none, beat := false }
    dx := { s.dx with stopped := true, stopAt := s.time.toNat / 1000 } }
  (t.setPhase 1).pauseSk

/-- A folio is to be taken here: it starts, joins one that has not begun its capture, or is the next (R416). -/
def State.takeFolio (s : State) (forced : Bool) : State :=
  if s.folioPhase = 0 then s.folioBegin forced
  else if s.folioPhase = 1 then { s with folio := { s.folio with forced := s.folio.forced || forced } }
  else if forced then { s with folio := { s.folio with next := true } }
  else s

/-- A request for a folio (R416): it is taken, waits for the roles or for the firmware (R510), or is dropped; with group jobs it
goes to rank 0 (R444). -/
def State.requestFolio (s : State) (forced : Bool) : State :=
  if s.runs && s.fwUp then (if s.groupJobs.isEmpty then s.takeFolio forced else s.groupRequest forced)
  else if s.runs ∨ s.role = 1 ∨ s.role = 5 then
    { s with folio := { s.folio with waits := some (forced || s.folio.waits.getD false) } }
  else s

/-- A member takes the group folio once its step end S is recorded; the pause of the folio holds TB.UPDATE and TB.BUILD
(R444). -/
def State.groupStep (s : State) (j : Nat) : State :=
  if (s.group j).folioAt = some (smapGet (fun _ => (0, 0)) s.dx.prevStep j).1 then s.takeFolio (s.group j).forced else s

/-- Roles are settled, or the firmware is up again: a folio request that waited is taken or dropped (R416, R510). -/
def State.folioSettle (s : State) : State :=
  match s.folio.waits with
  | none => s
  | some f =>
    if s.role = 1 ∨ s.role = 5 ∨ (s.runs && !s.fwUp) = true then s
    else
      let t : State := { s with folio := { s.folio with waits := none } }
      if t.runs then t.requestFolio f
      else if t.rbit regCbOrder 2 then (t.setRbit regCbOrder 2 false).bump regCbOrderRej
      else t

/-! ### Step ends (R39, R40, R301) -/

/-- Entries of STATE_READ of a job that wait for its step boundary, or for their commit (R63). -/
def State.reads (s : State) (j : Nat) : List (Nat × RingEnt) :=
  (upto 64).flatMap (fun r => ((s.ring r).opened.filter (fun e =>
    e.byte 0 == 0x17 && e.cmd.isSome && e.compl.isNone && e.byte 2 == j)).map (fun e => (r, e)))

/-- A read of the boundary goes to its commit; one of a tainted job is NOT_DONE (R63, R335). -/
def State.readNow (s : State) (j : Nat) (x : Nat × RingEnt) : State :=
  match x.2.cmd with
  | some (.stateRead _ tb first rows buf) =>
    if s.rbit (regMkJobstat j) 0 then s.complete x.1 x.2.seq (notDone 0x12)
    else s.commitEntry x.1 x.2 j (fun (u : State) n => u.stateReadNow x.1 x.2 j tb first rows buf n)
  | _ => s

/-- Held updates and builds of a job go on, once no read of the boundary is left; one that has come since waits for the next
(R301). -/
def State.releaseHeld (s : State) (j : Nat) : State :=
  if (s.reads j).any (fun x => x.2.commit.isSome) || (s.job j).boundary then s
  else { s with clu := smapMap (fun _ => {}) (fun _ c => { c with
      sk := c.sk.map (fun o => if o.own.job = j then { o with held := false } else o) }) s.clu }

/-- At the step boundary the reads that wait run, in order, and then the held operations are released (R63, R301); the boundary lasts
while L3 or the sequencer holds the reads (R37, R56). -/
def State.boundary (s : State) (j : Nat) : State :=
  if !(s.job j).boundary then s
  else
    let waiting := (s.reads j).filter (fun x => x.2.commit.isNone)
    if !waiting.isEmpty && (!s.mayCommit || decide (s.shed ≥ 3)) then s
    else (waiting.foldl (fun (t : State) x => t.readNow j x) (s.setJob j { s.job j with boundary := false })).releaseHeld j

/-- Every boundary that was held, the lower job first (R37). -/
def State.boundaries (s : State) : State := (upto 16).foldl (fun (t : State) j => t.boundary j) s

/-- A step end is recorded: the journal, the job's previous step end, the waiting task, its mark; held operations go on
(R301). One whose task a fence has stopped is recorded and no more: R66 withdraws it (R457). -/
def State.recordStep (s : State) (r : CommitRec) (q : StepReq) : State :=
  let s0 := s.journal r
  let s1 : State := { s0 with dx := { s0.dx with steps := s0.dx.steps.filter (fun x => x.csn != q.csn) } }
  if q.gone then s1 else
  let s1 := s1.setJob r.job { s1.job r.job with epochSteps := (s1.job r.job).epochSteps + 1, boundary := true }
  let s2 : State := { s1 with dx := { s1.dx with
    prevStep := smapSet (fun _ => (0, 0)) s1.dx.prevStep r.job (r.subject, r.csn) } }
  let s3 := if (s2.ctx q.hart).run = .waiting .stepEnd then s2.modCtx q.hart (fun c => (c.setA q.dst r.csn).next) else s2
  let s4 := match q.mark with
    | some n => s3.sendMark n ⟨s3.updClass n q.hart.core true, .signal 1⟩
    | none => s3
  (s4.boundary r.job).groupStep r.job

/-- Addresses that the folio of a job captures: its own ranges (R417). -/
def State.inCapture (s : State) (js : List Nat) (pa : Nat) : Bool :=
  js.any (fun j => (s.job j).captured.any (fun r => decide (r.1 ≤ pa ∧ pa < r.1 + r.2)))

/-- The counters of Ductus, which a folio captures (R323). -/
def ductusCounter (n : String) : Bool :=
  ["DX_ADMIT", "DX_ADMIT_WAIT", "DX_EST_CLAMP", "DX_EST_OVER", "DX_GOV_CONFLICT", "DX_POL_CLAMP", "DX_PREEMPT", "DX_OWNSWAP", "DX_FOLDSWAP",
    "DX_STEP_HOLD", "DX_STEP_REJ", "DX_STALL", "DX_SPILLS"].contains n

/-- Registers that a folio captures: mark counts and mappings, ingest positions, generations, the counters of Ductus (R68, R288, R323,
R337, R417). -/
def captureReg (k : Nat) : Bool :=
  match regAt k with
  | some (d, _, _) => d.name == "MK_MARK" || d.name == "MK_MAP" || d.name == "EN_INGREL" || d.name == "NB_EDGEN" || ductusCounter d.name
  | none => false

/-- The ingest rings in use: ring, and the place of its CONSUMED word (R448). -/
def State.ingRings (s : State) : List (Nat × Nat) :=
  (upto 64).filterMap (fun r => if s.rbit (regEnIng r) 63 then some (r, s.rfld (regEnIng r) 35 0 * 4096) else none)

/-- The capture (R417). -/
def State.capture (s : State) : Image :=
  let js := s.folioJobs
  { num := s.folio.num
    covered := BitVec.ofNat 64 s.recordedCsn
    jobs := js
    mem := s.mem.filter (fun c => s.inCapture js c.1 || (match placeOf c.1 with
      | .sheet _ _ => true
      | _ => false))
    poison := s.poison.filter (fun w => s.inCapture js w)
    ctxs := s.ctxs
    clu := s.clu
    dx := s.dx
    marks := s.marks
    regs := s.regs.filter (fun x => captureReg x.1)
    pins := s.hot.ents.filterMap (fun e => e.pin.map (fun j => (j, e.home, e.units)))
    nbq := s.nbq
    parts := s.parts
    pubq := s.pubq
    swaps := s.swaps
    rings := s.ingRings.map (fun r => (r.1, BitVec.ofNat 64 (s.rdLe r.2 8)))
    lasts := s.tables.map (fun x => (x.1, x.2.lastStep))
    jhead := s.rdN s.jbase 64
    gone := js.map (fun j => (j, (s.job j).gone)) }

/-- The Scribe cores with a resident task of a captured job. -/
def State.folioCores (s : State) : List Nat :=
  let js := s.folioJobs
  (upto 128).filter (fun c => (upto 2).any (fun i => (s.ctx ⟨c, i⟩).run != .idle && js.contains (s.ctx ⟨c, i⟩).task.job))

/-- Data caches of cores with captured tasks are cleaned (R355): every line keeps its place and is no longer dirty. -/
def State.folioClean (s : State) : State := s.folioCores.foldl (fun t c => (t.hostBackAll c true).cleanAll c) s

/-- An undo generation begins at every capture (R281). -/
def State.undoRt (s : State) (j : Nat) : UndoRt := smapGet (fun _ => {}) s.undo j
def State.setUndo (s : State) (j : Nat) (u : UndoRt) : State := { s with undo := smapSet (fun _ => {}) s.undo j u }

/-- The quiesce ends: caches are clean, the image is captured, a new undo generation begins (R355, R417, R456). -/
def State.folioCapture (s : State) : State :=
  let t := s.folioClean
  let im := t.capture
  let u := im.jobs.foldl (fun (u : State) j => u.setUndo j { u.undoRt j with gen := (u.undoRt j).gen + 1, forced := false }) t
  ({ u with folio := { u.folio with cap := some im, covered := im.covered } } : State).setPhase 2

/-- At a seal the older undo generations are released (R282). -/
def State.undoRelease (s : State) : State :=
  { s with undo := smapMap (fun _ => {}) (fun j u =>
      if s.grouped j then u else { u with recs := u.recs.filter (fun r => decide (r.gen ≥ u.gen)) }) s.undo }

/-- Once every member has sealed the folio of a step it counts as sealed: its image stands for the restarts of the group, and the
older undo records are released (R431, R444). -/
def State.groupCheck (s : State) (j : Nat) : State :=
  let g := s.group j
  match g.mine with
  | none => s
  | some (n, st) =>
    let ranks := ((g.sealed.filter (fun x => x.2.2 == st)).map (fun x => x.1)).dedup
    if ranks.length < (s.ctrlPairs j).length then s
    else
      let u := s.undoRt j
      (s.setGroup j { g with
        mine := none, mineImg := none, last := n, img := g.mineImg, sealed := g.sealed.filter (fun x => decide (st.toNat < x.2.2.toNat)) }).setUndo j
        { u with recs := u.recs.filter (fun r => decide (r.gen ≥ g.mineGen)) }

/-- A sealed folio that is a group's goes to every member as SEALED; the folio that loads a group's job is the first resume
point (R431, R444, R504). -/
def State.groupSealed (s : State) (im : Option Image) : State :=
  match im with
  | none => s
  | some i => i.jobs.foldl (fun (t : State) j =>
    if !t.grouped j then t
    else if (t.job j).loading then t.setGroup j { t.group j with last := i.num, img := some i, folioAt := none }
    else
      let st := (smapGet (fun _ => (0, 0)) i.dx.prevStep j).1
      if (t.group j).folioAt = some st then
        let u := t.setGroup j { t.group j with folioAt := none, forced := false, mine := some (i.num, st), mineImg := some i
                                               mineGen := (t.undoRt j).gen }
        (u.sendAll 0x06 j [i.num, st.toNat]).groupCheck j
      else t) s

/-- The square root of the adaptive interval, in seconds, from C in µs and M in seconds (R422). -/
def intervalOf (c m : Nat) : Nat := Nat.sqrt (2 * c * m / 1000000)

/-- M of R423 in seconds. -/
def State.mtbf (s : State) : Nat :=
  (3600 * s.rfld regCbMtbf 31 0 + (s.time - s.twin.since).toNat / 1000000000) / (1 + s.twin.faults)

/-- CB_FOLIOST after a seal (R422, R424). -/
def State.folioStats (s : State) : State :=
  let cs := s.folio.costs
  let c := if cs.isEmpty then 0 else cs.sum / cs.length
  let hi := max 1 (min 600 (s.rfld regCbFoliocfg 25 16))
  let lo := min (max 1 (min 600 (s.rfld regCbFoliocfg 9 0))) hi
  let t := if s.rbit regCbFoliocfg 63 then (if cs.isEmpty then 60 else max lo (min hi (intervalOf c s.mtbf)))
    else s.rfld regCbFoliocfg 41 32
  ((s.setRfld regCbFoliost 63 48 t).setRfld regCbFoliost 31 16 (min c 65535)).setRfld regCbFoliost 15 0 (min s.folio.stop 65535)

/-- Commits that were held go on: loads that a seal covers, and step boundaries (R37, R63, R504). -/
def State.commitsGoOn (s : State) : State := s.commitLoads.boundaries

/-- The folio is over: paused work resumes and dispatch goes on; the time stopped counts toward no window of E_m (R323, R420). -/
def State.folioOver (s : State) : State :=
  let next := s.folio.next
  let gone := s.time.toNat / 1000 - s.dx.stopAt
  let t : State := { s with
    folio := { s.folio with forced := false, next := false, cap := none, pub := none, sealing := false }
    dx := { s.dx with stopped := false, em := s.dx.em.map (fun e => (e.1 + gone, e.2)) } }
  let u := (t.setPhase 0).resumeSk.engFlow
  let v := (if u.rbit regCbOrder 2 then u.setRbit regCbOrder 2 false else u).commitsGoOn
  if next then v.takeFolio true else v

/-- The publication of a sealed folio is recorded and its own CSN sealed; its result is written (R49, R420). -/
def State.recordPub (s : State) (r : CommitRec) : State :=
  let t := (s.journal r).seal r.csn.toNat
  match t.pubq.find? (fun p => p.started) with
  | some p => t.pubResult p (some r.csn.toNat) 0
  | none => t

/-- At a seal the ingest rings release what the sealed folio shows consumed (R448). -/
def State.ringRelease (s : State) (im : Option Image) : State :=
  match im with
  | none => s
  | some i => (i.rings.filter (fun r => decide (r.1 < 64))).foldl (fun t r => t.setReg (regEnIngrel r.1) r.2) s

/-- Jobs that load and stand in the sealed image are covered by it (R504). -/
def State.loadsSealed (s : State) (im : Option Image) : State :=
  match im with
  | none => s
  | some i => i.jobs.foldl (fun (t : State) j =>
    if (t.job j).loading then t.setJob j { t.job j with covered := true } else t) s

/-- The seal (R420): SEALED_CSN, the image, the counters, the undo records; then the publication switches and its record
goes out, or the folio is over. The seal of the emergency folio starts the Inkwell save (R483). -/
def State.folioSeal (s : State) : State :=
  let s1 := (s.seal s.folio.covered.toNat).setReg regCbSealed (BitVec.ofNat 64 s.folio.num)
  let s2 := (s1.classMiss).bump regCbFolios
  let s3 := if s2.folio.forced then s2.bump regCbFolioForced else s2
  let save := s3.power.saveDue && (s3.role == 0 || s3.role == 4) && s3.rbit regPwIwsave 0
  let s4 : State := { s3 with
    sealedImg := s3.folio.cap, folio := { s3.folio with costs := (s3.folio.stop :: s3.folio.costs).take 8 }
    power := { s3.power with saveDue := false, saving := s3.power.saving || save } }
  let s5 := (((s4.undoRelease.ringRelease s4.sealedImg).groupSealed s4.sealedImg).loadsSealed s4.sealedImg).folioStats
  match s5.folio.pub with
  | none => s5.folioOver
  | some r =>
    let tables := match s5.pubq.find? (fun p => p.started) with
      | some p => p.tables
      | none => []
    let s6 := s5.activate r.job tables
    if s6.role = 2 then
      let t : State := { s6 with folio := { s6.folio with sealing := true } }
      t.sendCommit r []
    else (s6.recordPub r).folioOver

/-- A folio in progress is abandoned (R421): its publication goes back to its queue, the request stands for recovery; loads that
waited for a seal are given up (R504). -/
def State.folioAbandon (s : State) : State :=
  if s.folioPhase = 0 ∨ s.folio.sealing = true then s.dropLoads
  else
    let t : State := { s with pubq := s.pubq.map (fun p => { p with started := false }) }
    ((t.bump regCbFolioAbandon).dropLoads).folioOver

/-- Room for undo records falls below one quarter: a folio is requested once (R282). -/
def State.undoForce (s : State) (j : Nat) : State :=
  let u := s.undoRt j
  if u.forced then s
  else ((s.setUndo j { u with forced := true }).bump regNbUndoForce).requestFolio true

end Sys2Proof.Machine
end

