-- ==== Sys2Proof/Machine/System.lean ====
section
/-! DEFINITION. The system instructions, group 0x08, the system registers, and the events that end a wait of a core (R91,
R95 to R97, R101 to R107, R492, R552). -/

namespace Sys2Proof.Machine

/-! ### What a task has outstanding (R60, R91, R97) -/

/-- SC_ENGBUSY: one bit for each engine with operations of the task outstanding (R97). -/
def State.engBusy (s : State) (h : Hart) : Word :=
  let o := ownerOf h (s.ctx h)
  let c := s.cl h.core
  BitVec.ofNat 64 (b2n (c.ql.ops.any (fun x => x.own.same o)) + 2 * b2n (c.br.any (fun x => x.own.same o))
    + 4 * b2n (c.sp.ops.any (fun x => x.own.same o)) + 8 * b2n (c.sk.any (fun x => x.own.same o)))

/-- A fence may complete: no engine operation of the task is outstanding, so that every write of it is acknowledged (R60,
R91; that operations without writes count too is DEDUCED, log 39). -/
def State.fenceDone (s : State) (h : Hart) : Bool := decide (s.engBusy h = 0)

/-! ### The end of a task (R95, R103, R161, R229, R299, R314) -/

/-- The task ends: its engine ownerships go, its spawn mark is signalled, an estimate exceeded twice over is counted, its
context is free, and editions that only it named are reclaimed. -/
def State.endTask (s : State) (h : Hart) : State :=
  let c := s.ctx h
  let o := ownerOf h c
  let s1 := s.modCl h.core (fun x => { x with ql := x.ql.release o, sp := x.sp.release o })
  let s2 := match c.task.mark with
    | some n => s1.sendMark n ⟨s1.updClass n h.core false, .signal 1⟩
    | none => s1
  let s3 := if !c.task.fair && decide (c.energy > 2 * 1000 * c.task.estimate) && !isCopyist h.core then s2.bump regDxEstOver else s2
  (s3.setCtx h {}).reclaim c.task.job

/-! ### System registers (R96, R97, R492) -/

/-- SC_XSTATE of a task. -/
def State.xstate (s : State) (h : Hart) : Word :=
  BitVec.ofNat 64 (b2n (s.ctx h).xactive + 2 * b2n (s.job (s.ctx h).task.job).debug)

/-- The role of a copyist: its own number, the failed core's for the spare that stands in; 3 for the spare (R491). -/
def State.cpRole (s : State) (c : Nat) : Nat :=
  let spare := s.rfld regFwStatus 7 6
  if c = spare then 3 else if c = 3 then spare else c

/-- Microseconds until a copyist's watchdog expires (R492, R509). -/
def State.kickLeft (s : State) (c : Nat) : Nat :=
  1000 * s.rfld regFwWdog 4 0 - (s.time - smapGet (fun _ => 0) s.fw.kicks c).toNat / 1000

/-- A read of a system register; none for a number that is not assigned (R96). -/
def State.sysRead (s : State) (h : Hart) (n : Nat) : Option Word :=
  let c := s.ctx h
  match n with
  | 0x000 => some (taskId h c)
  | 0x001 => some (if isCopyist h.core then s.cycCopyist else s.cycScribe)
  | 0x002 => some s.time
  | 0x003 => some c.fflags
  | 0x010 => some (s.job c.task.job).xvec
  | 0x011 => some c.xpc
  | 0x012 => some c.xcause
  | 0x013 => some c.xval
  | 0x014 => some (s.xstate h)
  | 0x020 => some (s.engBusy h)
  | 0x100 => some (BitVec.ofNat 64 (h.core % 4 + 4 * s.cpRole (h.core % 4)))
  | 0x101 => some (BitVec.ofNat 64 (s.kickLeft (h.core % 4)))
  | _ => none

/-- A watchdog kick (R492). -/
def State.kick (s : State) (c : Nat) : State := { s with fw := { s.fw with kicks := smapSet (fun _ => 0) s.fw.kicks c s.time } }

/-- A write of a system register; none for one that is RO or not assigned (R96). -/
def State.sysWrite (s : State) (h : Hart) (n : Nat) (v : Word) : Option State :=
  match n with
  | 0x003 => some (s.modCtx h (fun c => { c with fflags := v &&& 0x1F#64 }))
  | 0x010 =>
    let j := (s.ctx h).task.job
    some (s.setJob j { s.job j with xvec := v &&& ~~~ 7#64 })
  | 0x011 => some (s.modCtx h (fun c => { c with xpc := v }))
  | 0x014 => some (s.modCtx h (fun c => { c with xactive := bitOf v 0 }))
  | 0x101 => some (s.kick (h.core % 4))
  | _ => none

/-- Is a system register number firmware-only and assigned (R71, R492)? -/
def fwOnly (n : Nat) : Bool := n == 0x100 || n == 0x101

/-! ### The instructions -/

/-- A system instruction that uses no field but those named. -/
def sysLegal (f : FormK) (dst src imm : Bool) : Bool :=
  (if dst then isA f.dst else isZ f.dst) && (if src then isA f.src else isZ f.src) && isZ f.ctl && (imm || isZ f.imm)

/-- NOP (R95). -/
def execNop (h : Hart) (f : FormK) (s : State) : Res :=
  .next (s.issue h (wordK 0x08 0x00 f) (sysLegal f false false false) f.mask.toNat [] [] (fun s => s.modCtx h Ctx.next))

/-- END: waits as FENCE does and until every report of the task has been raised, then ends the task (R95, R103). -/
def execEndTask (h : Hart) (f : FormK) (s : State) : Res :=
  .next (s.issue h (wordK 0x08 0x01 f) (sysLegal f false false false) f.mask.toNat [] []
    (fun s => if s.fenceDone h && (s.ctx h).reports.isEmpty then s.endTask h else s.waits h))

/-- YIELD: the core goes on from the other resident context if that is ready; the task goes on at the next instruction. It is
a job-level instruction: an invalid use on a copyist (R95, R101). -/
def execYield (h : Hart) (f : FormK) (s : State) : Res :=
  .next (s.issue h (wordK 0x08 0x02 f) (sysLegal f false false false) f.mask.toNat [] []
    (fun s => if isCopyist h.core then s.raise h .illegal (wordK 0x08 0x02 f) else s.modCtx h (fun c => { c.next with yields := true })))

/-- SRR: A[dst] := system register (R96, R492). -/
def execSrr (h : Hart) (f : FormK) (s : State) : Res :=
  .next (s.issue h (wordK 0x08 0x03 f) (sysLegal f true false true && decide (f.imm.toNat < 4096)) f.mask.toNat [f.dst.toNat] []
    (fun s => match s.sysRead h f.imm.toNat with
      | none => s.raise h .illegal (wordK 0x08 0x03 f)
      | some v =>
        if fwOnly f.imm.toNat && !isCopyist h.core then s.raise h .privileged (wordK 0x08 0x03 f)
        else s.modCtx h (fun c => (c.setA f.dst.toNat v).next)))

/-- SRW: system register := A[src]; ILLEGAL for an RO or unassigned number (R96, R492). -/
def execSrw (h : Hart) (f : FormK) (s : State) : Res :=
  .next (s.issue h (wordK 0x08 0x04 f) (sysLegal f false true true && decide (f.imm.toNat < 4096)) f.mask.toNat [f.src.toNat] []
    (fun s =>
      if fwOnly f.imm.toNat && !isCopyist h.core then s.raise h .privileged (wordK 0x08 0x04 f)
      else match s.sysWrite h f.imm.toNat ((s.ctx h).getA f.src.toNat) with
        | none => s.raise h .illegal (wordK 0x08 0x04 f)
        | some t => t.modCtx h Ctx.next))

/-- TRAP: the code goes to SC_XCAUSE.TRAPCODE, 0 to SC_XVAL (R95, R97, R101). -/
def execTrap (h : Hart) (f : FormK) (s : State) : Res :=
  .next (s.issue h (wordK 0x08 0x05 f) (sysLegal f false false true && decide (f.imm.toNat < 65536)) f.mask.toNat [] []
    (fun s => s.enter h .trap 0 f.imm.toNat 0))

/-- BREAK: the debugger when one is attached, else the handler; SC_XVAL is the pc (R101). -/
def execBreakI (h : Hart) (f : FormK) (s : State) : Res :=
  .next (s.issue h (wordK 0x08 0x06 f) (sysLegal f false false false) f.mask.toNat [] []
    (fun s => s.raise h .brk (s.ctx h).pc))

/-- RETX: pc := SC_XPC, XACTIVE clears; ILLEGAL with XACTIVE at 0 (R95, R96). -/
def execRetx (h : Hart) (f : FormK) (s : State) : Res :=
  .next (s.issue h (wordK 0x08 0x07 f) (sysLegal f false false false) f.mask.toNat [] []
    (fun s => if (s.ctx h).xactive then s.retx h else s.raise h .illegal (wordK 0x08 0x07 f)))

/-- WAITI: waits until an interrupt is taken, and completes with it (R95, R107). -/
def execWaiti (h : Hart) (f : FormK) (s : State) : Res :=
  .next (s.issue h (wordK 0x08 0x08 f) (sysLegal f false false false) f.mask.toNat [] []
    (fun s => s.modCtx h (fun c => { c with run := .waiting .interrupt })))

/-- A firmware instruction: PRIVILEGED at job level (R71). -/
def State.firmware (s : State) (h : Hart) (w : Word) (g : State → State) : State :=
  if isCopyist h.core then g s else s.raise h .privileged w

/-- TLB.INV: translations of a job for the page that holds A[src] leave every core (R95, R99). -/
def execTlbInv (h : Hart) (f : FormK) (s : State) : Res :=
  .next (s.issue h (wordK 0x08 0x10 f) (sysLegal f false true true && decide (f.imm.toNat < 16)) f.mask.toNat [f.src.toNat] []
    (fun s => s.firmware h (wordK 0x08 0x10 f) (fun s =>
      let va := ((s.ctx h).getA f.src.toNat).toNat
      let t : State := { s with tlb := s.tlb.filter (fun e =>
        !(e.job == f.imm.toNat && decide (e.vbase ≤ va ∧ va < e.vbase + e.size))) }
      t.modCtx h Ctx.next)))

/-- TLB.INVJ: every translation of a job leaves every core (R95, R99). -/
def execTlbInvj (h : Hart) (f : FormK) (s : State) : Res :=
  .next (s.issue h (wordK 0x08 0x11 f) (sysLegal f false false true && decide (f.imm.toNat < 16)) f.mask.toNat [] []
    (fun s => s.firmware h (wordK 0x08 0x11 f) (fun s =>
      let t : State := { s with tlb := s.tlb.filter (fun e => e.job != f.imm.toNat) }
      t.modCtx h Ctx.next)))

/-! ### Events that end a wait -/

/-- A copyist writes FW_KICK (R492). -/
def execFwKick (h : Hart) (_ : Word) (s : State) : Res :=
  .next (if isCopyist h.core && decide (h.core < 132) && s.canIssue h then s.kick (h.core % 4) else s)

/-- An engine report is raised as ENGINE at the next instruction boundary of its task (R103). -/
def execEngineException (h : Hart) (s : State) : Res :=
  .next (match (s.ctx h).reports with
    | [] => s
    | r :: rest =>
      if s.canRun h then s.takeReport h r rest else s)

/-- The firmware answers a page fault: it writes the entry, with no W for a Visible device page, and the instruction executes
again; or ACCESS is raised at the instruction (R100, R104). -/
def execPageFaultResolve (h : Hart) (r : PageFix) (s : State) : Res :=
  .next (match (s.ctx h).run with
    | .suspended va _ =>
      if !s.fwUp then s
      else
        let t := s.modCtx h (fun c => { c with run := .ready })
        match r with
        | .mapped a pte =>
          let visible := !bitOf pte 55 && s.vis (fld pte 47 12 * 4096) == 2
          t.homeForce (alignDown a 8) (leBytes 8 (if visible then setBit pte 3 false else pte).toNat)
        | .denied => t.raise h .access va
    | _ => s)

/-- An atomic performed at its home returns the old value (R93). -/
def execAtomicComplete (h : Hart) (s : State) : Res :=
  .next (match (s.ctx h).run with
    | .waiting (.atomic dst v) => s.modCtx h (fun c => (c.setA dst v).next)
    | _ => s)

end Sys2Proof.Machine
end

