-- ==== Sys2Proof/Machine/Atomics.lean ====
section
/-! DEFINITION. The fence and the atomic operations, group 0x06 (R60, R88, R91 to R93, R98 to R100). -/

namespace Sys2Proof.Machine

/-- Translate an address a core issues: through the job's tables, or as it stands for a copyist, whose addresses are
physical (R544; DESIGN CHOICE for copyists, log 40). -/
def State.coreAddr (s : State) (h : Hart) (va : Word) (k : AccKind) : Tr × State :=
  if isCopyist h.core then (if fld va 63 48 ≠ 0 then .access else .ok va.toNat false, s)
  else s.translate h.core (s.ctx h).task.job va k

/-- An access of a core meets poison: it delivers nothing and does not complete (R99, R368). -/
def State.corePoison (s : State) (h : Hart) (pa : Nat) : State :=
  (s.poisonedRead pa (s.coreUnit h.core) (s.ctx h).task.job).modCtx h (fun c => { c with run := .waiting .dead })

/-- A core access after its alignment check: the outcomes of a translation (R88, R98, R99). -/
def State.coreAccess (s : State) (h : Hart) (va : Word) (k : AccKind) (g : Nat → Bool → State → State) : State :=
  match s.coreAddr h va k with
  | (.pageFault, t) => t.pageFault h va (k = .store ∨ k = .both)
  | (.access, t) => t.raise h .access va
  | (.poisoned pa, t) => t.corePoison h pa
  | (.ok pa host, t) => g pa host t

/-- An access whose address is not a multiple of its alignment touches no memory (R88). -/
def State.aligned (s : State) (h : Hart) (va : Word) (n : Nat) (g : State → State) : State :=
  if va.toNat % n ≠ 0 then s.raise h .misalignedData va else g s

/-! ### Atomics (R92, R93) -/

/-- The width of an atomic in bytes: ext[0]. -/
def amoBytes (f : FormT) : Nat := if exf f.ext 0 0 = 1 then 4 else 8

/-- A value as the atomic sees it: 8 B whole, 4 B sign-extended from the low half (R92). -/
def amoVal (n : Nat) (w : Word) : Word := if n = 4 then sext 32 (fld w 31 0) else w

/-- The words that an atomic may be. -/
def amoLegal (f : FormT) : Bool := isA f.dst && isA f.src1 && isA f.src2 && onlyBits f.ext 1

/-- The home performs an atomic on `n` bytes: cached copies are recalled first, the new value is stored, the old one sets out
for the core (R93, R343). -/
def State.amoHome (s : State) (h : Hart) (dst pa n : Nat) (g : Word → Word) : State :=
  let t := s.invalidate noCore (lineOf pa)
  let old := amoVal n (BitVec.ofNat 64 (t.rdLe pa n))
  (((t.wrN pa (leBytes n (g old).toNat)).countLoad pa n).countLoad pa n).modCtx h (fun c => { c with run := .waiting (.atomic dst old) })

/-- An atomic operation (R92, R93): ACCESS on host memory and outside memory. `g` takes the old value, A[src2] and A[dst]. -/
def State.amoEff (h : Hart) (f : FormT) (g : Nat → Word → Word → Word → Word) (s : State) : State :=
  let c := s.ctx h
  let n := amoBytes f
  let va := c.getA f.src1.toNat
  s.aligned h va n (fun s => s.coreAccess h va .both (fun pa host s =>
    if host || !isMem pa then s.raise h .access va
    else match s.firstPoison pa n with
      | some w => s.corePoison h w
      | none => s.onLine h (lineOf pa) (fun s => s.homeWrite pa n (fun s =>
        s.amoHome h f.dst.toNat pa n (fun old =>
          g n old (amoVal n (c.getA f.src2.toNat)) (amoVal n (c.getA f.dst.toNat)))))))

/-- An atomic of group 0x06. -/
def State.amo (s : State) (op : Nat) (h : Hart) (f : FormT) (g : Nat → Word → Word → Word → Word) : Res :=
  .next (s.issue h (wordT 0x06 op f) (amoLegal f) f.mask.toNat [f.dst.toNat, f.src1.toNat, f.src2.toNat] []
    (State.amoEff h f g))

/-- An unsigned comparison at the width of the operation. -/
def ultAt (n : Nat) (a b : Word) : Bool := if n = 4 then decide (fld a 31 0 < fld b 31 0) else a.ult b

/-- FENCE: completes once every earlier write of the task is acknowledged (R60, R91). -/
def execFence (h : Hart) (f : FormT) (s : State) : Res :=
  .next (s.issue h (wordT 0x06 0x00 f) (isZ f.dst && isZ f.src1 && isZ f.src2 && isZ f.ext) f.mask.toNat [] []
    (fun s => if s.fenceDone h then s.modCtx h Ctx.next else s.waits h))

/-- AMO.SWAP (R92). -/
def execAmoSwap (h : Hart) (f : FormT) (s : State) : Res := s.amo 0x10 h f (fun _ _ b _ => b)
/-- AMO.ADD (R92). -/
def execAmoAdd (h : Hart) (f : FormT) (s : State) : Res := s.amo 0x11 h f (fun _ a b _ => a + b)
/-- AMO.AND (R92). -/
def execAmoAnd (h : Hart) (f : FormT) (s : State) : Res := s.amo 0x12 h f (fun _ a b _ => a &&& b)
/-- AMO.OR (R92). -/
def execAmoOr (h : Hart) (f : FormT) (s : State) : Res := s.amo 0x13 h f (fun _ a b _ => a ||| b)
/-- AMO.XOR (R92). -/
def execAmoXor (h : Hart) (f : FormT) (s : State) : Res := s.amo 0x14 h f (fun _ a b _ => a ^^^ b)
/-- AMO.MIN, signed (R92). -/
def execAmoMin (h : Hart) (f : FormT) (s : State) : Res := s.amo 0x15 h f (fun _ a b _ => if b.slt a then b else a)
/-- AMO.MAX, signed (R92). -/
def execAmoMax (h : Hart) (f : FormT) (s : State) : Res := s.amo 0x16 h f (fun _ a b _ => if a.slt b then b else a)
/-- AMO.MINU (R92). -/
def execAmoMinu (h : Hart) (f : FormT) (s : State) : Res := s.amo 0x17 h f (fun n a b _ => if ultAt n b a then b else a)
/-- AMO.MAXU (R92). -/
def execAmoMaxu (h : Hart) (f : FormT) (s : State) : Res := s.amo 0x18 h f (fun n a b _ => if ultAt n a b then b else a)
/-- AMO.CAS: A[src2] is stored if the old value equals A[dst], whose high half takes no part at 4 B (R92). -/
def execAmoCas (h : Hart) (f : FormT) (s : State) : Res := s.amo 0x19 h f (fun _ a b d => if a = d then b else a)

end Sys2Proof.Machine
end

