-- ==== Sys2Proof/Machine/CoreMem.lean ====
section
/-! DEFINITION. Accesses of control cores and copyists to memory: hits, misses, fills, lines of host pages, line operations
(R87 to R89, R98 to R100, R341 to R353, R390, R391). -/

namespace Sys2Proof.Machine

/-- Bytes that an access covers. -/
def CoreOp.bytes : CoreOp → Nat
  | .load _ n _ => n
  | .store n _ => n
  | .slotLoad _ => 64
  | .slotStore _ => 64
  | .lineZero => 64

/-- Does an access write? -/
def CoreOp.writes : CoreOp → Bool
  | .load _ _ _ => false
  | .slotLoad _ => false
  | _ => true

/-- The bytes that an access stores. -/
def CoreOp.data : CoreOp → List Byte
  | .store n v => leBytes n v.toNat
  | .slotStore b => padB 64 b
  | .lineZero => List.replicate 64 0#8
  | _ => []

/-- The value of a load of `n` bytes (R87). -/
def loadVal (n : Nat) (signed : Bool) (x : Nat) : Word := if signed then sext (8 * n) x else BitVec.ofNat 64 x

/-- The task takes what an access delivers and goes on. -/
def State.coreTake (s : State) (h : Hart) (pa : Nat) (op : CoreOp) : State :=
  match op with
  | .load dst n signed => s.modCtx h (fun c => (c.setA dst (loadVal n signed (s.rdLe pa n))).next)
  | .slotLoad r => s.modCtx h (fun c => (c.setSd r (s.rdN pa 64)).next)
  | _ => s.modCtx h Ctx.next

/-- A store at its home with no line held: every cached copy goes first (R343). -/
def State.coreWrite (s : State) (h : Hart) (pa : Nat) (op : CoreOp) : State :=
  ((s.memWrite pa op.data).modCtx h Ctx.next)

/-- An access to a line that the core holds, or now holds: a store takes ownership and makes the line dirty; while the cache
drains it writes through and leaves the line clean, a host line with D_WB_DIRTY (R343, R353). -/
def State.coreHit (s : State) (h : Hart) (pa : Nat) (op : CoreOp) : State :=
  let line := lineOf pa
  let t := s.touch h.core line
  if op.writes then
    let u := t.invalidate h.core line
    let v := if s.draining h.core then u else u.dirtyLine h.core line
    let w := v.wrN pa op.data
    (if s.draining h.core then
      (if line ≥ 2 ^ 48 then w.hostBack h.core line true else w.countLoad pa op.bytes).cleanLine h.core line else w).modCtx h Ctx.next
  else t.coreTake h pa op

/-- Is the line dirty in this core's data cache? -/
def State.lineDirty (s : State) (core line : Nat) : Bool :=
  (((s.cset (setKey core line)).find line).map (fun l => l.dirty)).getD false

/-- The victim of a fill, when it is a line of host memory: a dirty one goes back with D_WB_DIRTY and leaves as every dirty victim does, a
clean one is given up with D_EVICT_CLEAN (R342, R347, R390). -/
def State.hostVictim (s : State) (core line : Nat) : State :=
  let x := s.cset (setKey core line)
  match x.full.getD x.place none with
  | some v =>
    if v.line < 2 ^ 48 then s
    else if v.dirty then s.hostBack core v.line false
    else (s.hostAsk (.cache core) .evict 0x17 (v.line - 2 ^ 48) []).dropLine core v.line
  | none => s

/-- A line enters the array (R344, R347). -/
def State.fillLine (s : State) (core line : Nat) : State := (s.hostVictim core line).allocate core line

/-- The context of a core that waits for a line of device memory. -/
def State.waiter (s : State) (core line : Nat) : Option (Hart × Nat × CoreOp) :=
  [0, 1].findSome? (fun i => match (s.ctx ⟨core, i⟩).run with
    | .waiting (.fill pa op) => if lineOf pa = line then some (⟨core, i⟩, pa, op) else none
    | _ => none)

/-- Must a miss on a line wait: another fill of the core is under way, or the other context waits for its own (R344)? -/
def State.missBusy (s : State) (h : Hart) (line : Nat) : Bool :=
  (match (s.cache h.core).miss with
    | some m => m.line != line
    | none => false) ||
  s.hreqs.any (fun r => (match r.who with
    | .core g => g.core == h.core
    | _ => false) && (r.op == .rdShr || r.op == .rdOwn) && hostPa r.line != line) ||
  (match (s.ctx ⟨h.core, 1 - h.ctx % 2⟩).run with
  | .waiting (.fill _ _) => true
  | .waiting (.host _ _ _ _) => true
  | _ => false)

/-- A data-cache miss: its fill is asked for and counted, unless it is under way already, by an access that an interrupt has ended or by a
prefetch; the context waits for its line (R344, R347, R349). -/
def State.coreMiss (s : State) (h : Hart) (pa : Nat) (op : CoreOp) : State :=
  let line := lineOf pa
  let c := s.cache h.core
  let t :=
    if c.miss.isSome then s
    else if c.pf.contains line then s.bump (s.ccKey h.core 0x20)
    else
      let full := s.fillBlocked h.core line
      let u := (s.bump (s.ccKey h.core 0x20)).setCache h.core { c with miss := some ⟨line, full⟩ }
      if full then u.bump (u.ccKey h.core 0x38) else u
  t.modCtx h (fun c => { c with run := .waiting (.fill pa op) })

/-- The module's request for a host line and the wait for its answer (R390). -/
def State.hostWait (s : State) (h : Hart) (va : Word) (pa : Nat) (op : CoreOp) (what : HostOp) (code : Nat) (data : List Byte) : State :=
  let t := s.hostAsk (.core h) what code (lineOf pa) data
  match t.hreqs.find? (fun r => r.line == lineOf pa && r.op == what && r.who == .core h) with
  | some r => t.modCtx h (fun c => { c with run := .waiting (.host r.tag pa va op) })
  | none => s

/-- An access on a page of host memory (R342, R390): the cache holds its lines under the coherence rules of Lanine. A store to a line that
is held and clean asks for ownership, or while the cache drains writes through. -/
def State.hostAccess (s : State) (h : Hart) (va : Word) (pa : Nat) (op : CoreOp) : State :=
  let line := lineOf (hostPa pa)
  s.onLine h line (fun s =>
    if s.dact h.core && s.lineIn h.core line && (!op.writes || s.lineDirty h.core line) then s.coreHit h (hostPa pa) op
    else if s.missBusy h line then s.waits h
    else if s.dact h.core && !s.draining h.core then
      let t := if s.hreqs.any (fun r => r.line == lineOf pa && r.who == .core h) then s else s.bump (s.ccKey h.core 0x20)
      if op.writes then t.hostWait h va pa op .rdOwn 0x12 [] else t.hostWait h va pa op .rdShr 0x11 []
    else if op.writes then s.hostWait h va pa op .write (lineWrite (pa % 64) op.data).1 (lineWrite (pa % 64) op.data).2
    else s.hostWait h va pa op .rdCur 0x13 [])

/-- An access straight to device memory: host copies are snooped, poison is met (R353, R368, R386); a store writes a line that the core
itself still holds through, leaving it clean. -/
def State.directAccess (s : State) (h : Hart) (pa : Nat) (op : CoreOp) : State :=
  if op.writes then s.homeWrite pa op.bytes (fun s =>
    if s.lineIn h.core (lineOf pa) then s.coreHit h pa op else s.coreWrite h pa op)
  else match s.firstPoison pa op.bytes with
    | some w => s.corePoison h w
    | none => match s.hostHeld pa op.bytes true with
      | [] => (s.memRead pa op.bytes).coreTake h pa op
      | ls => ls.foldl (fun t l => t.sendSnoop l false) s

/-- An access to device memory (R87, R341 to R344, R353, R356). -/
def State.deviceAccess (s : State) (h : Hart) (pa : Nat) (op : CoreOp) : State :=
  let line := lineOf pa
  if !s.dact h.core || !cacheable pa then s.directAccess h pa op
  else s.onLine h line (fun s =>
    if s.lineIn h.core line then
      (if op.writes then s.homeWrite pa op.bytes (fun s => s.coreHit h pa op) else s.coreHit h pa op)
    else if s.draining h.core then s.directAccess h pa op
    else if s.missBusy h line then s.waits h
    else s.coreMiss h pa op)

/-- A line of device memory arrives in a data cache, for the demand miss or for a prefetch (R344, R349): a host copy is snooped first, a full
eviction buffer holds the fill of a miss, a poisoned line is not delivered. The context that waits for it ends its access; the line is
allocated whether one waits or not. `off` takes the request off the cache's list, `put` writes the line into the array. -/
def State.fillArrives (s0 : State) (core line : Nat) (e : List MemErr) (off put : State → State) : State :=
  let s := if s0.dact core && !s0.draining core && !(s0.waiter core line).any (fun x => x.2.2 == .lineZero) then s0.demandErrs (errsIn [(line, 64)] e) else s0
  let t := off s
  let done (u : State) (g : State → Hart → Nat → CoreOp → State) : State := match s.waiter core line with
    | some (h, pa, op) => g u h pa op
    | none => u
  if !s.dact core then done t (fun u h _ _ => u.modCtx h (fun c => { c with run := .ready }))   -- disabled meanwhile: executed again
  else if s.draining core then done t (fun u h pa op => u.directAccess h pa op)
  else match (if (s.waiter core line).any (fun x => x.2.2 == .lineZero) then none else s.firstPoison line 64) with
    | some w => done t (fun u h _ _ => u.corePoison h w)
    | none =>
      let own := (s.waiter core line).any (fun x => x.2.2.writes)
      match s.hostHeld line 64 (!own) with
      | [] =>
        let u := if own then t.invalidate core line else t.snoop core line
        done (put (u.countLoad line 64)) (fun v h pa op => if v.lineIn core line then v.coreHit h pa op
          else v.modCtx h (fun c => { c with run := .ready }))
      | ls => ls.foldl (fun t l => t.sendSnoop l own) s

/-- The line of the demand miss arrives (R344, R347). -/
def State.fillComplete (s : State) (core : Nat) (e : List MemErr) : State :=
  match (s.cache core).miss with
  | none => s
  | some m =>
    if s.dact core && !s.draining core && s.fillBlocked core m.line then
      (if m.full then s else (s.setCache core { s.cache core with miss := some { m with full := true } }).bump (s.ccKey core 0x38))
    else s.fillArrives core m.line e (fun t => t.setCache core { t.cache core with miss := none }) (fun t => t.fillLine core m.line)

/-- A prefetched line arrives: it takes an invalid or clean way, and with none it is dropped (R349). -/
def State.prefetchComplete (s : State) (core line : Nat) (e : List MemErr) : State :=
  if !(s.cache core).pf.contains line then s
  else s.fillArrives core line e (fun t => t.setCache core { t.cache core with pf := (t.cache core).pf.erase line }) (fun t =>
    if t.lineIn core line then t
    else match (t.cset (setKey core line)).cleanWay with
    | none => t.bump (t.ccKey core 0x48)
    | some i =>
      let x := t.cset (setKey core line)
      let u := match x.full.getD i none with
        | some v => if v.line < 2 ^ 48 then t else t.hostAsk (.cache core) .evict 0x17 (v.line - 2 ^ 48) []
        | none => t
      u.setCset (setKey core line) { x with ways := x.full.set i (some { line := line, dirty := false, backing := [] }) })

/-- The way that an instruction cache's tree of a set points at, and the tree pointed away from a way (R341, log 7). -/
def iplruVictim (t : BitVec 3) : Nat := 2 * b2n (t.getLsbD 0) + b2n (t.getLsbD (1 + b2n (t.getLsbD 0)))
def iplruTouch (t : BitVec 3) (w : Nat) : BitVec 3 :=
  let set (v : Nat) (i b : Nat) : Nat := if b = 0 then v ||| 2 ^ i else v &&& (7 - 2 ^ i)
  BitVec.ofNat 3 (set (set t.toNat 0 (w / 2)) (1 + w / 2) (w % 2))

/-- Is a line in a core's instruction cache? -/
def State.ilineIn (s : State) (core line : Nat) : Bool :=
  (smapGet (fun _ => {}) (s.cache core).isets (line / 64 % 128)).ways.contains (some line)

/-- A line enters the instruction cache: into an invalid way, else over the tree's victim (R341). -/
def State.ifill (s : State) (core line : Nat) : State :=
  let c := s.cache core
  let x := smapGet (fun _ => {}) c.isets (line / 64 % 128)
  let w := (x.ways ++ List.replicate 4 none).take 4
  if w.contains (some line) then s
  else
    let i := (w.findIdx? (fun y => y.isNone)).getD (iplruVictim x.plru)
    s.setCache core { c with isets := smapSet (fun _ => {}) c.isets (line / 64 % 128) ⟨w.set i (some line), iplruTouch x.plru i⟩ }

/-- A line leaves the instruction cache. -/
def State.idrop (s : State) (core line : Nat) : State :=
  let c := s.cache core
  s.setCache core { c with isets := smapMap (fun _ => {}) (fun _ x => { x with ways := x.ways.map (fun w => w.filter (fun l => l != line)) }) c.isets }

/-- The line of an instruction fetch arrives: a miss is counted, and the next CC_CFG.IPF lines follow it up to the 4 KiB boundary (R346). -/
def State.fetchComplete (s : State) (core pa : Nat) : State :=
  let line := lineOf pa
  if !s.rbit (s.ccKey core 0x10) 1 || !(cacheable line) then s
  else
    let t := if s.ilineIn core line then s else (s.bump (s.ccKey core 0x28)).ifill core line
    ((upto (s.rfld (s.ccKey core 0x08) 1 0)).filter (fun i => decide ((line + 64 * (i + 1)) / 4096 = line / 4096))).foldl
      (fun u i => u.ifill core (line + 64 * (i + 1))) t

/-- C.ZERO on device memory (R350): the line is owned, zeros and dirty, with no fetch. -/
def State.zeroLine (s : State) (h : Hart) (pa : Nat) : State :=
  let line := lineOf pa
  if !s.dact h.core || s.draining h.core || !cacheable pa then s.directAccess h line .lineZero
  else s.homeWrite line 64 (fun s => s.onLine h line (fun s =>
    if s.lineIn h.core line then s.coreHit h line .lineZero
    else if s.fillBlocked h.core line then
      (if s.missBusy h line then s.waits h else s.coreMiss h line .lineZero)
    else ((s.invalidate h.core line).fillLine h.core line).coreHit h line .lineZero))

/-- A host line that comes while the eviction buffer has no room for its victim waits for the oldest entry's write, in the same step
(R347; DESIGN CHOICE, log 104). -/
def State.evbRoom (s : State) (core line : Nat) : State :=
  if s.fillBlocked core line then
    (s.setCache core { s.cache core with evb := (s.cache core).evb.tail }).bump (s.ccKey core 0x38)
  else s

/-- A core access for which the host has returned a line: the line enters the cache where the cache is in use, and the access
ends. A copy that another core has modified stands (log 43). -/
def State.hostFill (s : State) (h : Hart) (hpa : Nat) (bytes : List Byte) : State :=
  let line := hostPa hpa
  let held := !(s.holders noCore line).isEmpty
  let t := if held then s else s.wrRaw line (padB 64 bytes)
  if s.dact h.core && !s.draining h.core && !s.lineIn h.core line then (t.evbRoom h.core line).fillLine h.core line else t

/-- The host's answer reaches a core (R391): the context that waits under this tag ends its access. -/
def State.hostCoreDone (s : State) (h : Hart) (tag : Nat) (wrote : Bool) : State :=
  match (s.ctx h).run with
  | .waiting (.host t pa _ op) =>
    if t ≠ tag then s
    else if wrote then (if s.lineIn h.core (lineOf (hostPa pa)) then s.wrRaw (hostPa pa) op.data else s).modCtx h Ctx.next
    else if op.writes then
      -- the cache has gone meanwhile: the store is executed again
      (if s.lineIn h.core (lineOf (hostPa pa)) then s.coreHit h (hostPa pa) op else s.modCtx h (fun c => { c with run := .ready }))
    else s.coreTake h (hostPa pa) op
  | _ => s

/-- C.CLEAN and C.FLUSH on a line of this core (R351). -/
def State.cleanOrFlush (s : State) (h : Hart) (pa : Nat) (host flush : Bool) : State :=
  let line := lineOf (if host then hostPa pa else pa)
  s.onLine h line (fun s =>
    let t :=
      if !s.dact h.core || !s.lineHeld h.core line then s
      else
        let u := if host && s.lineDirty h.core line then s.hostBack h.core line (!flush)
          else if host && flush then s.hostAsk (.cache h.core) .evict 0x17 (line - 2 ^ 48) []
          else if s.lineDirty h.core line || (s.cache h.core).evb.any (fun l => l.line == line) then s.countLoad line 64
          else s
        let v := u.setCache h.core { u.cache h.core with evb := (u.cache h.core).evb.filter (fun l => l.line != line) }
        if flush then v.dropLine h.core line else v.cleanLine h.core line
    t.modCtx h Ctx.next)

end Sys2Proof.Machine
end

