-- ==== Sys2Proof/Machine/Caches.lean ====
section
/-! DEFINITION. The commands of the control-core caches: whole-cache commands, enables, scrubber, and the
end of a miss (R342 to R357). -/

namespace Sys2Proof.Machine

/-- A core that the block has: 128 control cores and 4 copyists. -/
def coreOk (c : Nat) : Bool := decide (c < 132)

/-- A command of the caches that acts on a core the block has. -/
def State.onCore (s : State) (c : Nat) (f : State → State) : Res := .next (if coreOk c then f s else s)

/-- CC_CTL.DINV written 1 (R354). -/
def execCcDinv (c : Nat) (s : State) : Res := s.onCore c (fun s => s.ccWrite c 0x40 (s.denNow c) (s.ienNow c))
/-- CC_CTL.IINV written 1 (R354). -/
def execCcIinv (c : Nat) (s : State) : Res := s.onCore c (fun s => s.ccWrite c 0x80 (s.denNow c) (s.ienNow c))
/-- CC_CTL.CLEAN written 1 (R354). -/
def execCcClean (c : Nat) (s : State) : Res := s.onCore c (fun s => s.ccWrite c 0x20 (s.denNow c) (s.ienNow c))
/-- CC_CTL.FLUSH written 1 (R354). -/
def execCcFlush (c : Nat) (s : State) : Res := s.onCore c (fun s => s.ccWrite c 0x10 (s.denNow c) (s.ienNow c))
/-- CC_CTL.DEN written (R352, R353). A write of 1 while DEN is 0 during a drain is refused. -/
def execCcDen (c : Nat) (on : Bool) (s : State) : Res := s.onCore c (fun s => s.ccWrite c 0 on (s.ienNow c))
/-- CC_CTL.IEN written (R352, R353). -/
def execCcIen (c : Nat) (on : Bool) (s : State) : Res := s.onCore c (fun s => s.ccWrite c 0 (s.denNow c) on)
/-- Lines of host memory leave with a whole-cache write-back: dirty ones go back, and where nothing is kept the clean ones are
given up (R342, R390). -/
def State.hostLeave (s : State) (core : Nat) (keep : Bool) : State :=
  let clean := (s.sets.filter (fun e => e.1 / 128 == core)).flatMap (fun e => e.2.ways.filterMap (fun (w : Option CLine) =>
    match w with
    | some l => if !l.dirty ∧ 2 ^ 48 ≤ l.line then some l.line else none
    | none => none))
  let t := s.hostBackAll core keep
  if keep then t else clean.foldl (fun t l => t.hostAsk (.cache core) .evict 0x17 (l - 2 ^ 48) []) t

/-- A whole-cache command completes and BUSY clears (R354). -/
def execCcCmdComplete (c : Nat) (s : State) : Res :=
  s.onCore c (fun s => match (s.cache c).cmd with
    | none => s
    | some bits => (if bits.testBit 4 then s.hostLeave c false else if bits.testBit 5 then s.hostLeave c true else s).ccComplete c)
/-- The disable drain ends (R353). -/
def execCcDrainComplete (c : Nat) (s : State) : Res :=
  s.onCore c (fun s => (if s.draining c then s.hostLeave c false else s).drainDone c)
/-- A line arrives at a core's caches: the data cache's demand miss, an instruction line, or a prefetch (R344, R346, R349). -/
def execCacheFillComplete (r : FillEnd) (s : State) : Res :=
  s.onCore r.hart.core (fun s => match r.what with
    | .miss => s.fillComplete r.hart.core r.errs
    | .fetch pa => s.fetchComplete r.hart.core pa
    | .prefetch line => s.prefetchComplete r.hart.core line r.errs)

/-- A CC_CFG write (R347). -/
def execCcCfgWrite (c : Nat) (v : Word) (s : State) : Res := s.onCore c (fun s => s.ccCfgWrite c v)
/-- The write of the oldest entry of the eviction buffer is acknowledged; that of a host line by the host's answer (R347, R390). -/
def execEvbWriteAck (c : Nat) (s : State) : Res :=
  s.onCore c (fun s => match (s.cache c).evb with
    | [] => s
    | l :: rest =>
      if s.hreqs.any (fun r => r.who == .cache c && r.op == .wbDirty && hostPa r.line == l.line) then s
      else
        let t := if l.dirty then s.countLoad l.line 64 else s
        t.setCache c { t.cache c with evb := rest })
/-- The scrubber reads one line of an enabled cache (R356, R357). -/
def execCacheScrub (c : Nat) (r : ScrubRead) (s : State) : Res :=
  s.onCore c (fun s => match r with
    | .good => s
    | .strikes line tag => if s.dact c then s.strike c (lineOf line) tag else s
    | .instrError line =>
      if !s.rbit (s.ccKey c 0x10) 1 then s
      else ((s.idrop c (lineOf line)).bump (s.ccKey c 0x58)).report ⟨0x42, s.coreUnit c, 0, BitVec.ofNat 64 line, none, false⟩
    | .dataError line => if s.dact c then s.parity c (lineOf line) false else s
    | .tagError line => if s.dact c then s.parity c (lineOf line) true else s)

end Sys2Proof.Machine
end

