-- ==== Sys2Proof/Machine/Domains.lean ====
section
/-! DEFINITION. Power domains and what the power pins show: switching in batches, the order of R480, the domains of a unit, the
effective step, PGOOD and SHED (R33 to R35, R457, R479, R480, R488 to R490, R548). -/

namespace Sys2Proof.Machine

def State.modPower (s : State) (f : Power → Power) : State := { s with power := f s.power }

/-! ### What the pins and PW_STATUS show (R489, R490) -/

/-- Is the module held in reset (R485)? -/
def State.pwHeld (s : State) : Bool := s.rbit regPwStatus 12
/-- Have the cores been released from the last module reset (R539, R540)? -/
def State.released (s : State) : Bool := !s.pwHeld && !s.power.full
def State.vstep (s : State) : Nat := s.rfld regPwStatus 7 5
def State.tstep (s : State) : Nat := s.rfld regPwStatus 10 8
def State.ovp (s : State) : Bool := s.rbit regPwStatus 11
def State.resetPin (s : State) : Bool := s.rbit regFePins 0

/-- The effective step: the deeper of the voltage and thermal steps; an over-voltage acts as L4 (R474, R488). -/
def State.effStep (s : State) : Nat := max (max s.vstep s.tstep) (if s.ovp then 4 else 0)

/-- PGOOD (R490): no step or L1 or L2, the module not held, and no domain switching. -/
def State.pgoodNow (s : State) : Bool :=
  !s.pwHeld && decide (s.effStep ≤ 2) && !(upto 176).any (fun d => s.dom d == 3)

/-- SHED[2:0] (R489): 0b110 while a held module counts toward its release, comes up, or is held by RESET_N; else the step
(DEDUCED, log 48). -/
def State.shedNow (s : State) : Nat :=
  if s.pwHeld && (decide (s.power.high ≠ 0) || s.power.booting || s.resetPin || decide (s.effStep < 4)) && !(s.resetPin && decide (s.effStep = 5))
  then 6 else s.effStep

/-- Show STEP, PGOOD and SHED; a change of STEP sets its alert (R489, R490, R528). -/
def State.powerShow (s : State) : State :=
  let e := s.effStep
  let t := if s.rfld regPwStatus 4 2 = e then s else (s.setRfld regPwStatus 4 2 e).alert 2
  let u := (t.setRbit regPwStatus 1 t.pgoodNow).setRbit regFePins 10 t.pgoodNow
  u.setRfld regFePins 13 11 u.shedNow

/-! ### Domains (R33 to R35, R479, R480, R548) -/

/-- A domain begins to switch to a state (R479). -/
def State.switchDom (s : State) (d x : Nat) : State :=
  if s.dom d = x then s
  else (s.setDom d 3).modPower (fun p => { p with target := smapSet (fun _ => 0) p.target d x })

/-- Rows 1 to 7 of R480, row by row, each in ascending domain number. -/
def shedRows : List Nat :=
  upto 144 ++ [148, 149, 150, 151, 160, 172, 173] ++ [169, 170] ++ [161, 162, 163, 164, 165, 166] ++ [144, 145, 146, 147]
    ++ [152, 153, 154, 155] ++ [175]
/-- Row 8 of R480. -/
def lastRow : List Nat := [156, 157, 158, 159, 167, 168, 171, 174]

/-- Changes that wait start in their order, 8 at most between two samples of R477, which stand 10 µs apart (R479; log 67). -/
def State.startSwitches (s : State) : State :=
  let now := s.power.switchq.take (8 - s.power.started)
  let t := s.modPower (fun p => { p with switchq := p.switchq.drop (8 - p.started), started := p.started + now.length })
  now.foldl (fun (u : State) x => u.switchDom x.1 x.2) t

/-- Domains in an order are to take a state: the queue of changes is replaced, and its first ones start (R35, R479, R480). -/
def State.queueDoms (s : State) (ds : List Nat) (x : Nat) : State :=
  (s.modPower (fun p => { p with switchq := (ds.filter (fun d => s.dom d ≠ x)).map (fun d => (d, x)) })).startSwitches

/-- The domains that a unit fills alone (R457, R548): bank groups and Reservoir groups share theirs, and so do hot-row map slices,
the device-level Ductus and the mark directory. -/
def unitDoms (u : UnitId) : List Nat :=
  match u.kind with
  | 0 => if u.index < 144 then [u.index] else []
  | 1 => if u.index < 1152 then [u.index / 8] else []
  | 2 => if u.index < 4 then [148 + u.index] else []
  | 5 => if u.index < 4 then [144 + u.index] else []
  | 6 => if u.index < 4 then [163 + u.index] else []
  | 7 => if u.index = 2 then [162] else []
  | 8 => if u.index = 0 then [169, 170] else if u.index < 4 then [170 + u.index] else []
  | 9 => if u.index < 176 then [u.index] else []
  | 10 => if u.index = 0 then [174] else []
  | _ => []

/-- A fence moves a joined domain to ON-ISOLATED (R34). -/
def State.isolate (s : State) (ds : List Nat) : State :=
  ds.foldl (fun (t : State) d => if t.dom d = 2 then t.setDom d 1 else t) s

/-- A domain whose over-current detector trips goes OFF at once, ahead of changes that wait (R34; log 68). -/
def State.domOff (s : State) (ds : List Nat) : State :=
  (ds.foldl (fun (t : State) d => t.switchDom d 0) s).powerShow

end Sys2Proof.Machine
end

