-- ==== Sys2Proof/Machine/Given.lean ====
section
/-! DEFINITION. What a module is given at its making, and further open values of the firmware and the links: constants without
a body (chapters 16, 17, 20 and 21). -/

namespace Sys2Proof.Config

/-- The serial number, 8 B, and the date in the last 48 B of the entry IDENTITY, as the factory wrote them (R514). -/
opaque identity : List Byte

/-- The log records 0 and 1, 64 B each, of the factory's writes (R514, R517). -/
opaque factoryRecord : Nat → List Byte

/-- The bytes of a folio image's fixed part and units as they cross Carbon: the layout is not given (R417, R418). -/
opaque imageBytes : Machine.Image → List Byte

/-- Half the measured round trip of the Carbon link in ns (R46). -/
opaque halfTrip : Nat

/-- The vendor key hash in mask ROM (R494). -/
opaque vendorKeyHash : BitVec 256

/-- What measurement 0 is extended with: the boot ROM version and the vendor key hash (R497). -/
opaque romMeasure : List Byte

end Sys2Proof.Config
end

