-- ==== Sys2Proof/Machine/Keccak.lean ====
section
/-! DEFINITION. SHA3-256 over bytes, as the Ledger's log chain and the measurements use it (R497, R517). -/

namespace Sys2Proof.Machine

/-- The round constants of Keccak-f[1600]. -/
def keccakRc : List Word :=
  [0x0000000000000001, 0x0000000000008082, 0x800000000000808A, 0x8000000080008000, 0x000000000000808B, 0x0000000080000001,
   0x8000000080008081, 0x8000000000008009, 0x000000000000008A, 0x0000000000000088, 0x0000000080008009, 0x000000008000000A]
  ++ [0x000000008000808B, 0x800000000000008B, 0x8000000000008089, 0x8000000000008003, 0x8000000000008002, 0x8000000000000080,
   0x000000000000800A, 0x800000008000000A, 0x8000000080008081, 0x8000000000008080, 0x0000000080000001, 0x8000000080008008]

/-- The rotation of lane x + 5 y. -/
def keccakRot : List Nat :=
  [0, 1, 62, 28, 27, 36, 44, 6, 55, 20, 3, 10, 43, 25, 39, 41, 45, 15, 21, 8, 18, 2, 61, 56, 14]

/-- One round over the 25 lanes. -/
def keccakRound (a : List Word) (rc : Word) : List Word :=
  let c := (upto 5).map (fun x => a.getD x 0 ^^^ a.getD (x + 5) 0 ^^^ a.getD (x + 10) 0 ^^^ a.getD (x + 15) 0 ^^^ a.getD (x + 20) 0)
  let d := (upto 5).map (fun x => c.getD ((x + 4) % 5) 0 ^^^ (c.getD ((x + 1) % 5) 0).rotateLeft 1)
  let t := (upto 25).map (fun i => a.getD i 0 ^^^ d.getD (i % 5) 0)
  -- lane (X, Y) takes lane (X + 3 Y, X) rotated
  let b := (upto 25).map (fun i =>
    let x := (i % 5 + 3 * (i / 5)) % 5
    let j := x + 5 * (i % 5)
    (t.getD j 0).rotateLeft (keccakRot.getD j 0))
  let e := (upto 25).map (fun i =>
    let y := 5 * (i / 5)
    b.getD i 0 ^^^ (~~~ b.getD (y + (i % 5 + 1) % 5) 0 &&& b.getD (y + (i % 5 + 2) % 5) 0))
  match e with
  | [] => []
  | x :: r => (x ^^^ rc) :: r

/-- The permutation. -/
def keccakF (a : List Word) : List Word := keccakRc.foldl keccakRound a

/-- Absorb a block of 136 bytes. -/
def keccakAbsorb (a : List Word) (block : List Byte) : List Word :=
  keccakF ((upto 25).map (fun i => a.getD i 0 ^^^ (if i < 17 then wordAt block (8 * i) else 0)))

/-- SHA3-256 of a message: 32 bytes. -/
def sha3 (msg : List Byte) : List Byte :=
  let n := msg.length / 136 + 1
  let tail := msg.drop (136 * (n - 1))
  let last := padB 136 (tail ++ [0x06#8])
  let lastBlock := last.take 135 ++ [last.getD 135 0 ||| 0x80#8]
  let a := (upto (n - 1)).foldl (fun a i => keccakAbsorb a (sliceB msg (136 * i) 136)) (List.replicate 25 0)
  ((keccakAbsorb a lastBlock).take 4).flatMap (fun w => leBytes 8 w.toNat)

end Sys2Proof.Machine
end

