-- ==== Sys2Proof/Machine/Ledger.lean ====
section
/-! DEFINITION. The Settings Ledger and the measurements (R15, R486, R487, R497, R514 to R517). -/

namespace Sys2Proof.Machine

/-- Size of an entry in bytes (R514). -/
def ledSize : Nat → Nat
  | 1 => 64 | 2 => 32 | 3 => 32 | 4 => 64 | 5 => 8 | 6 => 4 | 7 => 1 | 8 => 8 | 9 => 8 | 10 => 32
  | _ => 0

/-- Write limit of an entry (R514). -/
def ledLimit : Nat → Nat
  | 1 => 1 | 2 => 1 | 3 => 4 | 4 => 32 | 5 => 16 | 6 => 256 | 7 => 128 | 8 => 16 | 9 => 32 | 10 => 24
  | _ => 0

/-- Who writes: 1 host, 2 manager, 3 firmware (R514, R517). -/
def ledPath (e writer : Nat) : Bool :=
  match e with
  | 3 | 4 | 6 | 9 | 10 => writer == 1 || writer == 2
  | 5 => writer == 1 || writer == 2 || writer == 3
  | 7 => writer == 2 || writer == 3
  | 8 => writer == 2
  | _ => false

/-- The part number in 16 bytes: "GLT-960-1T" and zeros (R1). -/
def partNumber : List Byte :=
  [0x47#8, 0x4C#8, 0x54#8, 0x2D#8, 0x39#8, 0x36#8, 0x30#8, 0x2D#8, 0x31#8, 0x54#8, 0#8, 0#8, 0#8, 0#8, 0#8, 0#8]

/-- What an entry holds before its first write (R481, R514): IDENTITY the part number, in the form that IDENTIFY answers, then the
serial number and the date (R1; DEDUCED, log 70). DEVICE_SEED is never read. -/
def ledDefault (e : Nat) : LedgerEnt :=
  match e with
  | 1 => ⟨partNumber ++ padB 48 Config.identity, 1⟩
  | 2 => ⟨[], 1⟩
  | 5 => ⟨leBytes 8 0x0001A46417C5A12C, 0⟩
  | 7 => ⟨[], 0⟩
  | _ => ⟨List.replicate (ledSize e) 0#8, 0⟩

def State.led (s : State) (e : Nat) : LedgerEnt := smapGet ledDefault s.ledger e
/-- An entry as a number. -/
def State.ledNum (s : State) (e : Nat) : Nat := leNat (s.led e).value

/-- The thresholds of PW_SHEDTHR lie in their ranges, each at least 1.0 V below the one above it (R487). -/
def shedOk (v : Word) : Bool :=
  let l1 := fld v 49 40
  let l2 := fld v 39 30
  let l3 := fld v 29 20
  let l4 := fld v 19 10
  let l5 := fld v 9 0
  decide (400 ≤ l1 ∧ l1 ≤ 440 ∧ 380 ≤ l2 ∧ l2 ≤ 420 ∧ 360 ≤ l3 ∧ l3 ≤ 400 ∧ 340 ≤ l4 ∧ l4 ≤ 380 ∧ 300 ≤ l5 ∧ l5 ≤ 320)
    && decide (l2 + 10 ≤ l1 ∧ l3 + 10 ≤ l2 ∧ l4 + 10 ≤ l3 ∧ l5 + 10 ≤ l4)

/-- How a Ledger write ends (R516). -/
inductive LedRes where
  | ok
  | path                           -- path or size
  | value
  | limit
  | auth
  deriving DecidableEq, Repr

/-- What a signature over a Ledger write covers: the entry, the new value and its write count (R515). -/
def ledMessage (e : Nat) (v : List Byte) (count : Nat) : List Byte := leBytes 1 e ++ v ++ leBytes 4 count

/-- Must a write carry a signature (R515)? -/
def State.ledSigned (s : State) (e writer : Nat) : Bool :=
  writer != 3 && decide (s.ledNum 3 ≠ 0) && (e == 3 || e == 9 || (decide (4 ≤ e ∧ e ≤ 8) && (s.ledNum 9).testBit 0))

/-- The checks of R516, in order. -/
def State.ledCheck (s : State) (e writer : Nat) (v sig : List Byte) : LedRes :=
  if !ledPath e writer || v.length ≠ ledSize e then .path
  else if (e == 5 && !shedOk (leWord v)) || (e == 6 && decide (leNat v < s.ledNum 6)) then .value
  else if (s.led e).count ≥ ledLimit e then .limit
  else if s.ledSigned e writer && !Config.signatureOk (ledMessage e v (s.led e).count) sig then .auth
  else .ok

/-! ### Measurements (R497) -/

def State.meas (s : State) (m : Nat) : List Byte := (upto 4).flatMap (fun w => leBytes 8 (s.reg (regFwMeas m w)).toNat)
/-- Extend a measurement. -/
def State.extend (s : State) (m : Nat) (d : List Byte) : State :=
  let h := sha3 (s.meas m ++ d)
  (upto 4).foldl (fun t w => t.setReg (regFwMeas m w) (wordAt h (8 * w))) s

/-! ### The log (R517) -/

/-- The number of records in the log: two of the factory come first (R514). -/
def State.logCount (s : State) : Nat := 2 + s.ledlog.length
/-- The last CHAIN value. -/
def State.lastChain (s : State) : List Byte :=
  match s.ledlog.getLast? with
  | some r => r.chain
  | none => sliceB (padB 64 (Config.factoryRecord 1)) 32 32

/-- The first 32 bytes of a log record. -/
def LogRec.head (r : LogRec) : List Byte :=
  leBytes 2 r.seq ++ leBytes 1 r.entry ++ leBytes 1 r.writer ++ leBytes 4 r.count ++ leBytes 8 r.time.toNat ++ padB 16 r.value
/-- The 64 bytes of a log record. -/
def LogRec.bytes (r : LogRec) : List Byte := r.head ++ padB 32 r.chain

/-- Record i of the log. -/
def State.logBytes (s : State) (i : Nat) : List Byte :=
  if i < 2 then padB 64 (Config.factoryRecord i) else ((s.ledlog[i - 2]?).map LogRec.bytes).getD []

/-- The next record of the log for a write. -/
def State.logNext (s : State) (e writer count : Nat) (v : List Byte) : LogRec :=
  let r : LogRec := { seq := s.logCount, entry := e, writer := writer, count := count, time := s.time, value := (sha3 v).take 16, chain := [] }
  { r with chain := sha3 (s.lastChain ++ r.head) }

/-! ### Writing (R15, R486, R516) -/

/-- The registers that show an entry: LD_CNT, LOGCNT and the WL register behind it, whose reserved bits read 0 (R13). -/
def State.ledShow (s : State) (e : Nat) : State :=
  let t := (s.setRfld (regLdCnt (e - 1)) 31 0 (s.led e).count).setRfld regLdStatus 12 3 s.logCount
  if e = 5 then t.setReg regPwShedthr (leWord (s.led 5).value &&& 0x0003FFFFFFFFFFFF#64) else t

/-- A refused write leaves the value and the count (R15, R516). -/
def State.ledRefuse (s : State) (r : LedRes) : State :=
  let t := (s.bump regLdRefused).alert 5
  match r with
  | .limit => t.setRbit regLdStatus 0 true
  | .auth => t.setRbit regLdStatus 1 true
  | _ => t

/-- An accepted write: the value, the count and the log record together; the LEDGER event, measurement 6 and the alert. -/
def State.ledAccept (s : State) (e writer : Nat) (v : List Byte) : State :=
  let n := (s.led e).count + 1
  let r := s.logNext e writer n v
  let t : State := { s with ledger := smapSet ledDefault s.ledger e ⟨v, n⟩, ledlog := s.ledlog ++ [r] }
  let u := ((t.ledShow e).bump regLdWrites).extend 6 r.bytes
  (u.post ⟨8, 0, 0, 0, resultBytes [(0, leBytes 1 e), (8, leBytes 4 n), (16, leBytes 2 r.seq)]⟩).alert 5

/-- A Ledger write by one of its paths. -/
def State.ledWrite (s : State) (e writer : Nat) (v sig : List Byte) : LedRes × State :=
  match s.ledCheck e writer v sig with
  | .ok => (.ok, s.ledAccept e writer v)
  | r => (r, s.ledRefuse r)

/-- A write of PW_SHEDTHR: by a copyist or the manager, a write of the entry behind it (R15, R487). -/
def State.shedWrite (s : State) (writer : Nat) (v : Word) : State :=
  let (r, t) := s.ledWrite 5 writer (leBytes 8 (v &&& 0x0003FFFFFFFFFFFF#64).toNat) []
  if r = .value then t.setRbit regPwStatus 15 true else t

/-! ### Attestation (R498, R516) -/

/-- What an attestation report signs, 384 bytes (R498, R527). -/
def State.attestBody (s : State) (nonce : List Byte) : List Byte :=
  [0x47#8, 0x4C#8, 0x54#8, 0x41#8, 0x54#8, 0x54#8, 0x53#8, 0x54#8] ++ leBytes 4 1 ++ leBytes 4 384 ++ padB 32 nonce
    ++ (upto 8).flatMap (fun m => s.meas m) ++ (upto 10).flatMap (fun i => leBytes 4 (s.led (i + 1)).count)
    ++ leBytes 2 s.logCount ++ leBytes 6 0 ++ padB 32 s.lastChain

/-- The signed report, 2,804 bytes (R527). -/
def State.attest (s : State) (nonce : List Byte) : List Byte :=
  s.attestBody nonce ++ padB 2420 (Config.signatureOf (s.attestBody nonce))

/-- What reading the log returns: the records, then the signature over the nonce, the record count and the last CHAIN (R517). -/
def State.logRead (s : State) (nonce : List Byte) : List Byte :=
  (upto s.logCount).flatMap (fun i => s.logBytes i)
    ++ padB 2420 (Config.signatureOf (padB 32 nonce ++ leBytes 4 s.logCount ++ padB 32 s.lastChain))

end Sys2Proof.Machine
end

