-- ==== Sys2Proof/Machine/Marks.lean ====
section
/-! DEFINITION. The mark instructions, group 0x15, and the events of the mark directory (R325 to R336). -/

namespace Sys2Proof.Machine

/-- The words of group 0x15 that R75 allows, beside the register fields. -/
def mkImmOk (f : FormK) : Bool := decide (f.imm.toNat < 1024) && isZ f.ctl

/-- A mark instruction on a handle: an unmapped handle raises MARK and sends nothing (R326). -/
def State.withMark (s : State) (h : Hart) (f : FormK) (g : Nat → State → State) : State :=
  let hd := exf f.imm 9 0
  match s.handle (s.ctx h).task.job hd with
  | some (n, _) => g n s
  | none => s.raise h .mark (BitVec.ofNat 64 hd)

/-- A core's update goes to the mark's home, behind the core's earlier ones (R330). -/
def State.coreUpdate (s : State) (h : Hart) (n : Nat) (o : MarkOp) : State :=
  s.sendMark n ⟨s.updClass n h.core false, o⟩

/-- A wait arrives: tested at once when nothing is under way to the mark, else in its order (R330, R332). -/
def State.arriveWait (s : State) (h : Hart) (n : Nat) (o : MarkOp) : State :=
  let t := s.modCtx h (fun c => { c with run := .waiting (.mark n), since := s.time })
  if (s.markRt n).inflight.isEmpty then t.applyMark n o else t.coreUpdate h n o

/-- MK.SIG: COUNT + INC, INC from 1 to 65,535 (R328). -/
def execMkSig (h : Hart) (f : FormK) (s : State) : Res :=
  .next (s.issue h (wordK 0x15 0x00 f)
    (isZ f.dst && isZ f.src && isZ f.ctl && decide (f.imm.toNat < 2 ^ 26) && decide (exf f.imm 25 10 ≠ 0)) f.mask.toNat [] []
    (fun s => s.withMark h f (fun n s => (s.modCtx h Ctx.next).coreUpdate h n (.signal (exf f.imm 25 10)))))

/-- MK.WAIT: waits until COUNT is at least A[src][31:0], then A[dst] := COUNT (R332). -/
def execMkWait (h : Hart) (f : FormK) (s : State) : Res :=
  .next (s.issue h (wordK 0x15 0x01 f) (isA f.dst && isA f.src && mkImmOk f) f.mask.toNat [f.dst.toNat, f.src.toNat] []
    (fun s => s.withMark h f (fun n s =>
      s.arriveWait h n (.wait h f.dst.toNat (fld ((s.ctx h).getA f.src.toNat) 31 0)))))

/-- MK.WAITDEC: as MK.WAIT, and subtracts the target in the same update (R332). -/
def execMkWaitdec (h : Hart) (f : FormK) (s : State) : Res :=
  .next (s.issue h (wordK 0x15 0x02 f) (isA f.dst && isA f.src && mkImmOk f) f.mask.toNat [f.dst.toNat, f.src.toNat] []
    (fun s => s.withMark h f (fun n s =>
      s.arriveWait h n (.waitDec h f.dst.toNat (fld ((s.ctx h).getA f.src.toNat) 31 0)))))

/-- MK.TEST: A[dst] := COUNT (R327). -/
def execMkTest (h : Hart) (f : FormK) (s : State) : Res :=
  .next (s.issue h (wordK 0x15 0x03 f) (isA f.dst && isZ f.src && mkImmOk f) f.mask.toNat [f.dst.toNat] []
    (fun s => s.withMark h f (fun n s => s.arriveWait h n (.wait h f.dst.toNat 0))))

/-- MK.SET: COUNT := A[src][31:0] (R330). -/
def execMkSet (h : Hart) (f : FormK) (s : State) : Res :=
  .next (s.issue h (wordK 0x15 0x04 f) (isZ f.dst && isA f.src && mkImmOk f) f.mask.toNat [f.src.toNat] []
    (fun s => s.withMark h f (fun n s =>
      (s.modCtx h Ctx.next).coreUpdate h n (.set (fld ((s.ctx h).getA f.src.toNat) 31 0)))))

/-- The home applies its next update and re-tests the waits (R330, R332); what arrives during a folio stop is applied after it (R337). -/
def execMarkUpdate (n : Nat) (s : State) : Res := .next (if n < 4096 ∧ s.dx.stopped = false then s.markStep n else s)

/-- Microseconds that a context's wait on a mark has been pending. -/
def State.waited (s : State) (h : Hart) : Nat := (s.time - (s.ctx h).since).toNat / 1000

/-- A wait has been pending for longer than MK_HANGLIM (R336): HANG is set, counted and an event posted, with the microseconds waited (R506);
the wait goes on. MK_HANGLIM of 0 turns the report off. -/
def execWaitHang (h : Hart) (s : State) : Res :=
  .next (match (s.ctx h).run with
    | .waiting (.mark n) =>
      let lim := s.rfld regMkHanglim 31 0
      if lim = 0 ∨ s.waited h ≤ lim then s
      else
        let j := (s.ctx h).task.job
        ((s.setRbit (regMkJobstat j) 1 true).bump regMkHangs).post
          ⟨4, j, 0, 0, resultBytes [(0, leBytes 2 (s.rfld (regMkMark n) 57 48)),
            (8, leBytes 8 (taskId h (s.ctx h)).toNat), (16, leBytes 8 (s.waited h))]⟩
    | _ => s)

/-- A copyist writes MK_MARKn (R325, R327, R334). -/
def execMkMarkWrite (n : Nat) (half : RegHalf) (v : Word) (s : State) : Res :=
  .next (if n < 4096 then s.writeMark n half v else s)

/-- A copyist writes MK_MAPj_k (R333). -/
def execMkMapWrite (j k : Nat) (v : Word) (s : State) : Res :=
  .next (if j < 16 ∧ k < 256 then s.writeMap j k v else s)

end Sys2Proof.Machine
end

