-- ==== Sys2Proof/Machine/Stroke.lean ====
section
/-! DEFINITION. The Stroke instructions, group 0x12 (R110 to R116, R123, R125), and the one way in which a Form D operation is
issued (R77, R89). -/

namespace Sys2Proof.Machine

/-- The mark field of a Form D word is used only when sig is 1 (R77). -/
def sigOk (f : FormD) : Bool := decide (f.sig = 1) || isZ f.mark

/-- The mark that a Form D operation signals; an unmapped handle raises MARK (R77). -/
def State.withSig (s : State) (h : Hart) (f : FormD) (g : Option Nat → State → State) : State :=
  if f.sig = 1 then
    match s.handle (s.ctx h).task.job f.mark.toNat with
    | some (n, _) => g (some n) s
    | none => s.raise h .mark (BitVec.ofNat 64 f.mark.toNat)
  else g none s

/-- The descriptor a Form D operation copies at issue; an empty slot raises SLOT_EMPTY (R77, R89). -/
def State.withSlot (s : State) (h : Hart) (f : FormD) (g : List Byte → State → State) : State :=
  match (s.ctx h).getSd f.slot.toNat with
  | [] => s.raise h .slotEmpty (BitVec.ofNat 64 f.slot.toNat)
  | d => g (padB 64 d) s

/-- An entry as it stands at issue. -/
def State.skNew (s : State) (h : Hart) (f : FormD) (kind : SkKind) (desc : List Byte) (mark : Option Nat) (tsig : Bool) : SkOp :=
  { n := 0, kind := kind, own := ownerOf h (s.ctx h), fair := (s.ctx h).task.fair, desc := desc
    areg := (s.ctx h).getA f.areg.toNat, queue := f.queue.toNat, mark := mark, tsig := tsig, imm := f.imm.toNat
    ctl := (s.cl h.core).front, gen := (s.ctx h).task.gen
    state := 3, assigned := if kind = .store then 0 else 1 }

/-- A stream operation starts at once on an outer queue and by booking on an inner one (R121, R129). -/
def State.skBegin (s : State) (k : Nat) (o : SkOp) : State :=
  if s.qInner k o.queue then (s.setSk k { o with state := 1 }).skStart k { o with state := 1 } (fun t _ => t) else s

/-- SK.LOAD, SK.STORE and SK.COPY (R114). -/
def State.skStream (s : State) (h : Hart) (op : Nat) (f : FormD) (kind : SkKind) : Res :=
  .next (s.issue h (wordD 0x12 op f)
    (decide (f.areg.toNat < 32) && sigOk f && isZ f.imm && decide (f.ctl.toNat ≤ (if kind = .copy then 0 else 1))) f.mask.toNat
    [f.areg.toNat] []
    (fun s => s.withSlot h f (fun d s =>
      s.checked h (wordD 0x12 op f) (skDescOk d (kind == .copy)) (fun s =>
        s.withSig h f (fun m s => s.skEnter h (s.skNew h f kind d m (f.ctl.getLsbD 0)) (fun s o => s.skBegin h.core o))))))

/-- SK.LOAD (R114). -/
def execSkLoad (h : Hart) (f : FormD) (s : State) : Res := s.skStream h 0x00 f .load

/-- SK.STORE (R114). -/
def execSkStore (h : Hart) (f : FormD) (s : State) : Res := s.skStream h 0x01 f .store

/-- SK.COPY (R114). -/
def execSkCopy (h : Hart) (f : FormD) (s : State) : Res := s.skStream h 0x02 f .copy

/-- SK.SWAP: waits for the exchange; while another task is half owner it is refused with SHEET_BUSY and does not wait
(R123, R125, R143). -/
def execSkSwap (h : Hart) (f : FormD) (s : State) : Res :=
  .next (s.issue h (wordD 0x12 0x08 f)
    (isZ f.slot && isZ f.queue && isZ f.mark && isZ f.areg && isZ f.sig && isZ f.ctl && isZ f.imm) f.mask.toNat [] []
    (fun s =>
      let o := ownerOf h (s.ctx h)
      if s.halfBusy h.core o then (s.modCtx h Ctx.next).engReport h.core o 0x12 0x10500#64
      else match (s.cl h.core).swap with
        | some _ => s
        | none => (s.modCl h.core (fun c => { c with swap := some h })).modCtx h (fun c => { c with run := .waiting .swap })))

/-- SK.CANCEL: every operation of the task on a queue, or on all with ctl[0] (R116). -/
def execSkCancel (h : Hart) (f : FormD) (s : State) : Res :=
  .next (s.issue h (wordD 0x12 0x10 f)
    (isZ f.slot && isZ f.mark && isZ f.areg && isZ f.sig && isZ f.imm && decide (f.ctl.toNat ≤ 1)
      && (isZ f.ctl || isZ f.queue)) f.mask.toNat [] []
    (fun s => s.skCancel h (if f.ctl = 0 then some f.queue.toNat else none)))

end Sys2Proof.Machine
end

