-- ==== Sys2Proof/Machine/DuctusOps.lean ====
section
/-! DEFINITION. Ductus: task descriptors, the queues, ranking, energy admission, saving and restoring contexts, owner swaps
(R295 to R324). -/

namespace Sys2Proof.Machine

/-! ### Task descriptors (R295, R296, R299) -/

/-- Reserved bits are 0, ENTRY is a multiple of 8, and a Fair-copy estimate is 0 (R295, R299). -/
def taskDescOk (d : List Byte) : Bool :=
  let w0 := wordAt d 0
  let w1 := wordAt d 8
  decide (fld w0 63 48 = 0) && decide (fld w0 2 0 = 0) && decide (fld w1 55 47 = 0) && decide (fld w1 39 32 = 0)
    && (sliceB d 32 32).all (fun b => b == 0) && (!bitOf w1 63 || decide (fld w1 31 0 = 0))

/-- The task a descriptor names (R295), for a job, a number, the submitter's value, a mark, a delay and a source. -/
def taskOf (d : List Byte) (job num : Nat) (a1 : Word) (mark delay : Option Nat) (src : Nat) : Task :=
  let w1 := wordAt d 8
  { job := job, num := num, fair := bitOf w1 63, prio := fld w1 62 60, any := bitOf w1 59, half := bitOf w1 58, sp := bitOf w1 57
    ql := bitOf w1 56, target := fld w1 46 40, entry := BitVec.ofNat 64 (fld (wordAt d 0) 47 0), a1 := a1
    a2 := wordAt d 16, a3 := wordAt d 24, estimate := fld w1 31 0, mark := mark, delay := delay, src := src }

def State.setDx (s : State) (d : Ductus) : State := { s with dx := d }

/-- The next task number of a job, counted modulo 2^32 (R298). -/
def State.taskNum (s : State) (j : Nat) : Nat × State :=
  let n := smapGet (fun _ => 0) s.dx.nextNum j
  (n, s.setDx { s.dx with nextNum := smapSet (fun _ => 0) s.dx.nextNum j ((n + 1) % 2 ^ 32) })

/-! ### Queues (R303 to R306) -/

/-- Entries on the die: the device queue and expired spawns that wait there (R303, R306). -/
def Ductus.die (d : Ductus) : Nat := d.devq.length + d.expired.length
/-- Entries at a level of a cluster queue (R305). -/
def Ductus.level (d : Ductus) (c : Nat) (fair : Bool) (prio : Nat) : Nat :=
  (d.clq.filter (fun t => t.target == c && t.fair == fair && t.prio == prio)).length
/-- Entries of a cluster's delay list (R306). -/
def Ductus.delayed (d : Ductus) (c : Nat) : Nat := (d.delay.filter (fun e => e.cluster == c)).length

/-- Draft entries on the die (R303). -/
def Ductus.drafts (d : Ductus) : Nat := (d.devq.filter (fun t => !t.fair)).length + (d.expired.filter (fun t => !t.fair)).length
/-- Does the die take one more entry of a class: 1,024 of its 4,096 are kept for Fair-copy (R303)? -/
def Ductus.dieRoom (d : Ductus) (fair : Bool) : Bool := decide (d.die < 4096) && (fair || decide (d.drafts < 3072))

/-- Is there room on the die, for a Draft entry behind no spilled one (R303 to R305)? -/
def Ductus.room (d : Ductus) (fair : Bool) : Bool := d.dieRoom fair && (fair || d.spill.isEmpty)

/-- Put a task into the device queue or the spill ring; none while its source must stall (R303, R304). -/
def State.enqueue (s : State) (t : Task) : Option State :=
  if s.dx.room t.fair then some (s.setDx { s.dx with devq := s.dx.devq ++ [t] })
  else if !t.fair && s.rbit regDxSpill 0 && decide (s.dx.spill.length < 1048576) then
    let at_ := s.rfld regDxSpill 47 26 * 2 ^ 26 + 64 * ((s.reg regDxSpills).toNat % 1048576)
    let u := s.homeForce at_ ((upto 64).map (Config.spillByte t))
    some ((u.setDx { u.dx with spill := u.dx.spill ++ [t] }).bump regDxSpills)
  else none

/-- A source stalls; each stall counts once (R304). -/
def State.stall (s : State) (src : Nat) : State :=
  if s.dx.stalled.contains src then s
  else (s.setDx { s.dx with stalled := src :: s.dx.stalled }).bump regDxStall
def State.unstall (s : State) (src : Nat) : State := s.setDx { s.dx with stalled := s.dx.stalled.filter (fun x => x != src) }

/-- Spawn buffers drain into the device queue, each in its own order (R299, R304). -/
def State.drainBuf (s : State) : State :=
  let r := s.dx.buf.foldl (fun (acc : State × List Task × List Nat) t =>
    let (u, kept, blocked) := acc
    if blocked.contains t.src then (u, kept ++ [t], blocked)
    else match u.enqueue t with
      | some v => (v.unstall t.src, kept, blocked)
      | none => (u.stall t.src, kept ++ [t], t.src :: blocked)) (s, [], [])
  r.1.setDx { r.1.dx with buf := r.2.1 }

/-- The cluster of its group whose queue at the task's class and priority is shortest, the lowest on a tie (R297). -/
def Ductus.place (d : Ductus) (t : Task) : Nat :=
  if !t.any then t.target
  else
    let g := t.target / 8 * 8
    (upto 8).foldl (fun b i => if d.level (g + i) t.fair t.prio < d.level b t.fair t.prio then g + i else b) g

/-- Enter a cluster queue: the arrival is noted (R305, R307). -/
def State.enterLevel (s : State) (t : Task) : State :=
  s.setDx { s.dx with clq := s.dx.clq ++ [{ t with arrival := s.dx.arrivals, any := false, delay := none }], arrivals := s.dx.arrivals + 1 }

/-- Is there room at a task's level? -/
def Ductus.levelRoom (d : Ductus) (t : Task) : Bool := decide (d.level t.target t.fair t.prio < 64)

/-- May a cluster's queues take entries: its slot is joined and not fenced (R324)? -/
def State.clusterUp (s : State) (c : Nat) : Bool := decide (c < 128) && s.joined (s.phys c) && !s.fenced (s.phys c)

/-- The device queue forwards the first entry of a cluster that can go: an expired one first, then in order; an entry spawned
with DLY goes to the delay list, its time running from its spawn (R303, R305, R306). -/
def State.forward (s : State) (c : Nat) : State :=
  match s.dx.expired.find? (fun t => t.target == c && s.dx.levelRoom t) with
  | some t => (s.setDx { s.dx with expired := s.dx.expired.erase t }).enterLevel t
  | none =>
    let ready (t : Task) : Bool := s.dx.place t == c && (match t.delay with
      | some _ => decide (s.dx.delayed c < 1024)
      | none => s.dx.levelRoom { t with target := c }
          && !s.dx.expired.any (fun e => e.target == c && e.fair == t.fair && e.prio == t.prio))
    match s.dx.devq.find? ready with
    | none => s
    | some t =>
      let u := s.setDx { s.dx with devq := s.dx.devq.erase t }
      let p := { t with target := c, any := false }
      let v := match t.delay with
        | some e => u.setDx { u.dx with delay := u.dx.delay ++ [DelayEnt.mk c e (.spawn p)] }
        | none => u.enterLevel p
      v.drainBuf

/-- A spilled entry returns to the die (R304). -/
def State.refill (s : State) : State :=
  match s.dx.spill with
  | [] => s
  | t :: rest =>
    if s.dx.dieRoom false then
      (s.setDx { s.dx with spill := rest, devq := s.dx.devq ++ [t] }).drainBuf
    else s

/-! ### Energy admission (R314 to R317, R476) -/

/-- VCORE phases in service. -/
def State.phases (s : State) : Nat := s.rfld regPwPhase 53 48

/-- The budget B in nJ: the lower of PDRAFT and the ceiling, times 10 ms, halved from L1 on (R315, R476). -/
def State.budget (s : State) : Nat :=
  let b := min (s.rfld regDxPolicy 9 0 * 10000000) (950 * s.phases * 250000)
  if s.shed ≥ 1 then b / 2 else b

/-- Module time in whole microseconds. -/
def State.us (s : State) : Nat := s.time.toNat / 1000

/-- The moment to which the window of E_m runs: the stop's beginning during a folio stop (R323). -/
def State.emNow (s : State) : Nat := if s.dx.stopped then s.dx.stopAt else s.us

/-- E_m in nJ: the Draft energy of the trailing 10 ms (R314). -/
def State.eMeasured (s : State) : Nat := ((s.dx.em.filter (fun e => decide (s.emNow < e.1 + 10000))).map (fun e => e.2)).sum

/-- What a Draft task still counts for: its estimate less its energy, in nJ. -/
def Ctx.owed (c : Ctx) : Nat := if c.run = .idle ∨ c.task.fair then 0 else c.task.estimate * 1000 - c.energy

/-- E_o in nJ: over running and saved Draft tasks (R314). -/
def State.eOutstanding (s : State) : Nat :=
  ((s.ctxs.filter (fun x => decide (x.1 < 256))).map (fun x => x.2.owed)).sum
    + (s.dx.saved.map (fun x => match x.2 with
        | some v => v.ctx.owed
        | none => 0)).sum + (s.dx.restored.map Ctx.owed).sum

/-- One temperature sensor in units of 0.0625 °C, signed. -/
def State.sensor (s : State) (g i : Nat) : Int := (BitVec.ofNat 16 (s.rfld (regPwTemp g) (16 * i + 15) (16 * i))).toInt
/-- The hottest of a group's four sensors. -/
def State.hottest (s : State) (g : Nat) : Int := (upto 4).foldl (fun m i => max m (s.sensor g i)) (s.sensor g 0)

/-- The estimate of a task in µJ: DX_EDEFAULT where the descriptor gives 0 (R295). -/
def State.estimateOf (s : State) (t : Task) : Nat := if t.estimate = 0 then s.rfld regDxEdefault 31 0 else t.estimate

/-- The policy test of R315 for an estimate in nJ on a group. -/
def State.policyOk (s : State) (e g : Nat) : Bool :=
  decide (s.eMeasured + s.eOutstanding + min e s.budget ≤ s.budget) && decide (s.hottest g ≤ 16 * (s.rfld regDxPolicy 39 32 : Int))

/-- No governor action stops admission on a group (R315, R318, R535). -/
def State.govOk (s : State) (g : Nat) : Bool :=
  !s.dx.gov.padmit && !s.dx.gov.ext && !s.dx.gov.tstop.getLsbD g

/-- Would a new Draft task be admitted at a cluster (R315, R317), its group being whole (R445)? -/
def State.admits (s : State) (t : Task) (c : Nat) : Bool :=
  decide (s.shed < 2) && !s.groupLost t.job && s.policyOk (1000 * s.estimateOf t) (c / 8) && s.govOk (c / 8)

/-- A refused admission request is counted; below L2 only, where the test is made (R315). -/
def State.refuseAdmit (s : State) (t : Task) (c : Nat) : State :=
  if s.shed ≥ 2 then s
  else
    let s1 := if 1000 * s.estimateOf t > s.budget then s.bump regDxEstClamp else s
    let s2 := s1.bump regDxAdmitWait
    if s.policyOk (1000 * s.estimateOf t) (c / 8) && !s.govOk (c / 8) then s2.bump regDxGovConflict else s2

/-! ### Ranking (R307, R312, R313) -/

/-- Where a task that is ready at a cluster stands. -/
inductive CandAt where
  | queued
  | saved (r : Nat)
  | image (i : Nat)
  deriving DecidableEq, Repr

/-- A task ready at a cluster. -/
structure Cand where
  loc : CandAt
  ctx : Ctx
  deriving DecidableEq, Repr

def Cand.resumes (x : Cand) : Bool := x.loc ≠ .queued

/-- Insert by rank. -/
def insertRank (x : Cand) : List Cand → List Cand
  | [] => [x]
  | y :: r => if outranks y.ctx.task y.resumes x.ctx.task x.resumes then y :: insertRank x r else x :: y :: r

/-- Tasks ready at a cluster, by rank: its queue, its save records, contexts of a restored image (R307, R324). -/
def State.cands (s : State) (c : Nat) : List Cand :=
  let q := (s.dx.clq.filter (fun t => t.target == c)).map (fun t => (⟨.queued, { task := t, run := .ready }⟩ : Cand))
  let v := (upto 3).filterMap (fun r => match smapGet (fun _ => none) s.dx.saved (4 * c + r) with
    | some x => if x.sleeping then none else some (⟨.saved r, x.ctx⟩ : Cand)
    | none => none)
  let m := (s.dx.restored.zipIdx.filter (fun x => x.1.task.target == c && (match x.1.run with
    | .waiting (.sleep _) => false
    | _ => true))).map (fun x => (⟨.image x.2, x.1⟩ : Cand))
  (q ++ v ++ m).foldr insertRank []

/-- The owner a task would be. -/
def Task.same (t : Task) (o : Owner) : Bool := t.job == o.job && t.num == o.num

/-- Nothing that the task declares is owned by another task, and what an owner swap took from it can be given back (R296,
R307, R312, R313). -/
def State.usesOk (s : State) (c : Nat) (t : Task) : Bool :=
  let k := s.cl c
  let free (o : Option Owner) : Bool := match o with
    | some w => t.same w
    | none => true
  (!t.half || free k.halfOwner) && (!t.ql || free k.ql.owner) && (!t.sp || free k.sp.owner)
    && (s.swaps.filter (fun x => x.cluster == c && t.same x.own)).all (fun x =>
      (x.ql.isNone || free k.ql.owner) && (x.sp.isNone || free k.sp.owner) && (x.halves.isNone || free k.halfOwner))

/-- May Ductus dispatch the task at all: the role, the job, FAILED and the shed ladder (R317, R324, R402, R457, R460). -/
def State.mayRun (s : State) (t : Task) (resumes : Bool) : Bool :=
  (s.runs || ((s.role == 3 || s.role == 6) && t.fair)) && !s.blFailed && (s.job t.job).loaded && !(s.job t.job).held
    && decide (s.shed < 3) && (t.fair || !resumes || decide (s.shed < 2))

/-! ### Contexts in and out (R298, R309 to R312, R321, R323) -/

/-- The context of a new task (R298). -/
def State.newCtx (s : State) (t : Task) : Ctx :=
  let t1 : Task := { t with gen := (s.reg (regNbEdgen t.job)).toNat, estimate := if t.fair then 0 else s.estimateOf t }
  let c : Ctx := { task := t1, run := .ready, pc := t.entry, dispatched := s.dx.arrivals }
  ((c.setA 1 t.a1).setA 2 t.a2).setA 3 t.a3

/-- A context may leave its core: an atomic, a host write and a poisoned access are never interrupted, and Brush operations of
the context finish first, for they use its registers (R107, R200; DEDUCED, log 41). -/
def State.canLeave (s : State) (h : Hart) : Bool :=
  !(s.cl h.core).br.any (fun o => o.own.hart == h) && (match (s.ctx h).run with
    | .waiting (.atomic _ _) => false
    | .waiting (.host _ _ _ (.store _ _)) => false
    | .waiting (.host _ _ _ (.slotStore _)) => false
    | .waiting (.fill _ (.store _ _)) => false
    | .waiting (.fill _ (.slotStore _)) => false
    | .waiting .dead => false
    | .waiting .stepEnd => false
    | .halted => false
    | .idle => false
    | _ => true)

/-- A boundary for an interrupt: a waiting instruction has had no effect and executes again, WAITI completes, a suspended task
faults again (R106, R107). -/
def State.boundaryOf (s : State) (h : Hart) : State :=
  match (s.ctx h).run with
  | .waiting .interrupt => s.modCtx h Ctx.next
  | .waiting (.mark _) => (s.dropWaits (fun x => x == h)).modCtx h (fun c => { c with run := .ready })
  | .waiting .swap => (s.modCl h.core (fun c => { c with swap := none })).modCtx h (fun c => { c with run := .ready })
  | .waiting .cancel => (s.modCl h.core (fun c => { c with cancel := c.cancel.filter (fun x => x.1 != h) })).modCtx h
      (fun c => { c with run := .ready })
  | .waiting _ => s.modCtx h (fun c => { c with run := .ready })
  | .suspended _ _ => s.modCtx h (fun c => { c with run := .ready })
  | _ => s

/-- An interrupt is taken at an instruction boundary, behind a report that is due there (R106, R108). -/
def State.interrupt (s : State) (h : Hart) : State :=
  let t := s.boundaryOf h
  match (t.ctx h).run, (t.ctx h).reports with
  | .ready, r :: rest => t.takeReport h r rest
  | _, _ => t

/-- The lowest free save record of a cluster (R310). -/
def State.freeRecord (s : State) (c : Nat) : Option Nat :=
  (upto 3).find? (fun r => (smapGet (fun _ => none) s.dx.saved (4 * c + r)).isNone)

def State.putSaved (s : State) (c r : Nat) (v : Option Saved) : State :=
  s.setDx { s.dx with saved := smapSet (fun _ => none) s.dx.saved (4 * c + r) v }

/-- Save a resident context into a record and free its slot (R310, R311). -/
def State.saveCtx (s : State) (h : Hart) (r : Nat) (sleeping : Bool) : State :=
  (s.putSaved h.core r (some ⟨{ s.ctx h with run := .ready, yields := false }, sleeping⟩)).setCtx h {}

/-- A context is pre-empted: interrupted, saved and counted; a report taken first may have stopped its job (R105, R108, R309). -/
def State.leaveTo (s : State) (h : Hart) (r : Nat) : State :=
  let t := s.interrupt h
  if (t.ctx h).run = .idle then t else (t.saveCtx h r false).bump regDxPreempt

/-- Contents of a range of memory become those of a list of cells. -/
def State.putCells (s : State) (inRange : Nat → Bool) (cells : List Host.Cell) : State :=
  let t : State := { s with mem := s.mem.filter (fun c => !inRange c.1) }
  (cells.filter (fun c => inRange c.1)).foldl (fun t c => t.wr c.1 c.2) t

/-- The halves of a cluster's Sheet. -/
def halvesOf (c pa : Nat) : Bool := decide (sheetBase c ≤ pa ∧ pa < sheetBase c + 0x140000)

/-- What one save gives back to its cluster: engine state, Brush operations, and the halves with their tiled operations. -/
def State.giveOne (s : State) (c : Nat) (o : Owner) (x : OwnerSave) : State :=
  let t := s.modCl c (fun k => { k with
    ql := x.ql.getD k.ql, sp := x.sp.getD k.sp, br := k.br ++ x.br.map (fun b => { b with own := o }) })
  match x.halves with
  | none => t
  | some i => (t.putCells (halvesOf c) x.cells).modCl c (fun k => { k with
      halfOwner := some o, front := i.front, filled := i.filled, backFilled := i.backFilled, fills := i.fills
      sk := k.sk.map (fun q => if q.own.same o && q.tiled then { q with park := false } else q) })

/-- Give back what an owner swap took, or what a restore holds for a task (R312, R324). -/
def State.giveBack (s : State) (c : Nat) (o : Owner) : State :=
  let mine := s.swaps.filter (fun x => x.cluster == c && x.own.same o)
  let t := mine.foldl (fun t x => t.giveOne c o x) s
  { t with swaps := t.swaps.filter (fun x => !(x.cluster == c && x.own.same o)) }

/-- The free resident context of a cluster. -/
def State.freeSlot (s : State) (c : Nat) : Option Hart :=
  if (s.ctx ⟨c, 0⟩).run = .idle then some ⟨c, 0⟩ else if (s.ctx ⟨c, 1⟩).run = .idle then some ⟨c, 1⟩ else none

/-- Put a task into a free resident context (R298, R307, R311): the dispatch interrupt completes a WAITI of the other context
that it outranks (R107, R308). A task starts with half A in front unless a task is half owner (R122; DESIGN CHOICE, log 87). -/
def State.load (s : State) (h : Hart) (x : Cand) : State :=
  let other : Hart := ⟨h.core, 1 - h.ctx % 2⟩
  let o := s.ctx other
  let s0 := if o.run = .waiting .interrupt ∧ outranks x.ctx.task x.resumes o.task true then s.interrupt other else s
  let s1 := match x.loc with
    | .queued => s0.setDx { s0.dx with clq := s0.dx.clq.erase x.ctx.task }
    | .saved r => s0.putSaved h.core r none
    | .image i => s0.setDx { s0.dx with restored := s0.dx.restored.eraseIdx i }
  let s2 := match x.loc with
    | .queued =>
      (s1.setCtx h (s1.newCtx x.ctx.task)).modCl h.core (fun c =>
        if c.halfOwner.isNone then { c with front := 0, filled := false, backFilled := false } else c)
    | _ => (s1.giveBack h.core (ownerOf h x.ctx)).setCtx h { x.ctx with run := .ready, dispatched := s1.dx.arrivals }
  s2.setDx { s2.dx with arrivals := s2.dx.arrivals + 1 }

/-- The first task of a cluster that can be dispatched but for admission: does it ask for admission (R307, R315)? -/
def State.asks (s : State) (c : Nat) : List Cand → Option Task
  | [] => none
  | x :: rest =>
    let t := x.ctx.task
    if !s.mayRun t x.resumes || !s.usesOk c t then s.asks c rest
    else if x.resumes || t.fair then none else some t

/-- Does a cluster's dispatcher ask for an admission that would be granted: it has a free context and runs (R315, R316)? -/
def State.admitNext (s : State) (c : Nat) : Bool :=
  match s.asks c (s.cands c) with
  | some t => s.coreLive c && (s.freeSlot c).isSome && s.admits t c
  | none => false

/-- Is a cluster behind another in the ring that begins after the cluster last admitted (R316; log 74)? -/
def State.ringBehind (s : State) (c : Nat) : Bool :=
  (upto ((c + 127 - s.dx.lastAdmit) % 128)).any (fun i => s.admitNext ((s.dx.lastAdmit + 1 + i) % 128))

/-- Dispatch the highest-ranked task that can run into a free context. A Draft task refused admission, or whose cluster is behind in the
ring, holds back every lower-ranked new Draft task (R307, R315, R316). -/
def State.dispatchFrom (s : State) (h : Hart) : List Cand → Bool → State
  | [], _ => s
  | x :: rest, held =>
    let t := x.ctx.task
    if !s.mayRun t x.resumes || !s.usesOk h.core t then s.dispatchFrom h rest held
    else if x.resumes || t.fair then s.load h x
    else if held || s.ringBehind h.core then s.dispatchFrom h rest true
    else if s.admits t h.core then
      let s1 := if 1000 * s.estimateOf t > s.budget then s.bump regDxEstClamp else s
      let s2 := s1.bump regDxAdmit
      (s2.setDx { s2.dx with lastAdmit := h.core }).load h x
    else (s.refuseAdmit t h.core).dispatchFrom h rest true

/-- A task that sleeps in a restored image moves into a free save record (R324). -/
def State.moveSleeper (s : State) (c r : Nat) : State :=
  match s.dx.restored.zipIdx.find? (fun x => x.1.task.target == c && (match x.1.run with
    | .waiting (.sleep _) => true
    | _ => false)) with
  | some (x, i) => (match x.run with
    | .waiting (.sleep e) =>
      let t := (s.setDx { s.dx with restored := s.dx.restored.eraseIdx i }).putSaved c r (some ⟨x.next, true⟩)
      t.setDx { t.dx with delay := t.dx.delay ++ [DelayEnt.mk c e (.sleeper r)] }
    | _ => s)
  | none => s

/-- Tasks held in a restored image move into free save records, in rank order (R324). `n` bounds the moves. -/
def State.moveRestored (s : State) (c : Nat) : Nat → State
  | 0 => s
  | n + 1 =>
    match s.freeRecord c, (s.cands c).find? (fun x => match x.loc with
        | .image _ => true
        | _ => false) with
    | some r, some x => (match x.loc with
      | .image i => ((s.setDx { s.dx with restored := s.dx.restored.eraseIdx i }).putSaved c r (some ⟨x.ctx, false⟩)).moveRestored c n
      | _ => s)
    | some r, none => if s.dx.delayed c < 1024 then (s.moveSleeper c r).moveRestored c n else s
    | none, _ => s

/-- A cluster's dispatcher (R307). -/
def State.dispatch (s0 : State) (c : Nat) : State :=
  let s := s0.moveRestored c 3
  if !decide (c < 128) || !s.coreLive c || s.dx.stopped then s0
  else match s.freeSlot c with
    | none => s
    | some h => s.dispatchFrom h (s.cands c) false

/-- The highest-ranked task that is ready: one that may be dispatched, and a new Draft one admitted, with none above it refused (R307,
R309, R316). What an engine's owner holds does not make it less ready: an owner swap can take it once the owner is saved (R312). -/
def State.topCand (s : State) (c : Nat) : Option Cand :=
  let ready := (s.cands c).filter (fun x => s.mayRun x.ctx.task x.resumes)
  match ready.find? (fun x => x.resumes || x.ctx.task.fair), ready.find? (fun x => !x.resumes && !x.ctx.task.fair) with
  | some a, some b =>
    if outranks b.ctx.task false a.ctx.task a.resumes && s.admits b.ctx.task c then some b else some a
  | some a, none => some a
  | none, some b => if s.admits b.ctx.task c then some b else none
  | none, none => none

/-- May a resident task be pre-empted for another (R309)? -/
def State.victim (s : State) (x : Cand) (h : Hart) : Bool :=
  let c := s.ctx h
  c.run ≠ .idle && !c.task.fair && c.run ≠ .waiting .stepEnd && outranks x.ctx.task x.resumes c.task true
    && (x.ctx.task.fair || (s.rbit regDxCfg 8 && decide (c.task.prio < x.ctx.task.prio)))

/-- The resident task that pre-emption takes: the lower-ranked, on a tie the one dispatched later (R309). -/
def State.pickVictim (s : State) (c : Nat) (x : Cand) : Option Hart :=
  let a : Hart := ⟨c, 0⟩
  let b : Hart := ⟨c, 1⟩
  match s.victim x a, s.victim x b with
  | true, true =>
    let ca := s.ctx a
    let cb := s.ctx b
    if outranks ca.task true cb.task true then some b
    else if outranks cb.task true ca.task true then some a
    else if ca.dispatched < cb.dispatched then some b else some a
  | true, false => some a
  | false, true => some b
  | false, false => none

/-- Pre-emption (R309, R311). -/
def State.preempt (s : State) (c : Nat) : State :=
  if !decide (c < 128) || !s.coreLive c || s.dx.stopped || (s.freeSlot c).isSome then s
  else match s.topCand c, s.freeRecord c with
    | some x, some r => (match s.pickVictim c x with
      | some h => if s.canLeave h then s.leaveTo h r else s
      | none => s)
    | _, _ => s

/-! ### Owner swaps (R312) -/

/-- Bytes of a Quill and of a Stipple owner state (the table of chapter 10). -/
def quillStateBytes : Nat := 1056768
def stippleStateBytes : Nat := 671744

/-- The rank of a saved task, where the owner is one. -/
def State.savedOwner (s : State) (c : Nat) (o : Owner) : Option Task :=
  (upto 3).findSome? (fun r => match smapGet (fun _ => none) s.dx.saved (4 * c + r) with
    | some v => if v.ctx.task.same o then some v.ctx.task else none
    | none => none)

/-- Can an owner swap free an engine for a task: its owner is the task itself, or a saved task of lower rank whose job has an owner save
area (R312)? -/
def State.swappable (s : State) (c : Nat) (x : Cand) (owner : Option Owner) : Bool :=
  match owner with
  | none => true
  | some o => x.ctx.task.same o || (s.rbit (regDxOwnarea o.job) 0 && (match s.savedOwner c o with
    | some w => outranks x.ctx.task x.resumes w true
    | none => false))

/-- The task about to be dispatched at a cluster, if owner swaps free what it declares: the highest-ranked that can run then (R307, R312,
R313, R316). -/
def State.aboutTo (s : State) (c : Nat) : Option Cand :=
  if (s.freeSlot c).isNone then none
  else
    let k := s.cl c
    let free (o : Option Owner) (t : Task) : Bool := match o with
      | some w => t.same w
      | none => true
    let can (x : Cand) : Bool :=
      let t := x.ctx.task
      let mine := s.swaps.filter (fun y => y.cluster == c && t.same y.own)
      s.mayRun t x.resumes && (!t.half || free k.halfOwner t) && mine.all (fun y => y.halves.isNone || free k.halfOwner t)
        && (!(t.ql || mine.any (fun y => y.ql.isSome)) || s.swappable c x k.ql.owner)
        && (!(t.sp || mine.any (fun y => y.sp.isSome)) || s.swappable c x k.sp.owner)
    let held := ((s.cands c).find? (fun x => can x && !x.resumes && !x.ctx.task.fair)).filter (fun x => !s.admits x.ctx.task c)
    (s.cands c).find? (fun x => can x && (x.resumes || x.ctx.task.fair || held.isNone))

/-- Does the task about to be dispatched declare an engine that another, saved task owns (R312)? -/
def State.swapFor (s : State) (c : Nat) (e : Engine) (owner : Owner) : Bool :=
  match s.aboutTo c with
  | none => false
  | some x => !x.ctx.task.same owner && (match e with
    | .quill => x.ctx.task.ql
    | .stipple => x.ctx.task.sp) && s.swappable c x (some owner)

/-- Ductus moves a saved task's owner state into its job's owner save area and frees the engine (R312). Where the two parts
stand in the area is DESIGN CHOICE, log 42. -/
def State.ownerSwap (s : State) (c : Nat) (e : Engine) : State :=
  let k := s.cl c
  let owner := match e with
    | .quill => k.ql.owner
    | .stipple => k.sp.owner
  match owner with
  | none => s
  | some o =>
    let busy := match e with
      | .quill => k.ql.ops.any (fun x => x.own.same o)
      | .stipple => k.sp.ops.any (fun x => x.own.same o)
    if busy || !s.rbit (regDxOwnarea o.job) 0 || !s.swapFor c e o || !s.coreLive c || s.dx.stopped then s
    else
      let base := inkwellBase c + 65536 * s.rfld (regDxOwnarea o.job) 24 16
      let t := match e with
        | .quill => (s.homeForce base ((upto quillStateBytes).map (Config.quillByte k.ql))).modCl c
            (fun x => { x with ql := { x.ql with owner := none } })
        | .stipple => (s.homeForce (base + quillStateBytes) ((upto stippleStateBytes).map (Config.stippleByte k.sp))).modCl c
            (fun x => { x with sp := { x.sp with owner := none } })
      let v : OwnerSave := match e with
        | .quill => { cluster := c, own := o, ql := some k.ql, sp := none }
        | .stipple => { cluster := c, own := o, ql := none, sp := some k.sp }
      ({ t with swaps := t.swaps ++ [v] } : State).bump regDxOwnswap

/-! ### The delay list (R306) -/

/-- The tick on which a delay entry leaves. -/
def tickOf (expiry : Nat) : Nat := (expiry + 999) / 1000

/-- Insert by tick, behind entries of the same tick. -/
def insertTick (e : DelayEnt) : List DelayEnt → List DelayEnt
  | [] => [e]
  | x :: r => if tickOf x.expiry ≤ tickOf e.expiry then x :: insertTick e r else e :: x :: r

/-- An expired entry enters its level or waits in the device queue, or wakes its sleeper; the expiry is an interrupt to the
cluster's core (R106, R306). With no room for its class on the die it stays where it is until the next tick (R303; log 76), and a
fenced cluster's wait in the device queue (R324). -/
def State.expire (s : State) (e : DelayEnt) : State :=
  let s0 := s.setDx { s.dx with delay := s.dx.delay.erase e }
  let wake (u : State) (i : Nat) : State :=
    if (u.ctx ⟨e.cluster, i⟩).run = .waiting .interrupt then u.interrupt ⟨e.cluster, i⟩ else u
  let s1 := wake (wake s0 0) 1
  match e.what with
  | .spawn t =>
    if s1.clusterUp t.target && s1.dx.levelRoom t
        && !s1.dx.expired.any (fun x => x.target == t.target && x.fair == t.fair && x.prio == t.prio) then s1.enterLevel t
    else if s1.dx.dieRoom t.fair then s1.setDx { s1.dx with expired := s1.dx.expired ++ [t] }
    else s
  | .sleeper r => match smapGet (fun _ => none) s1.dx.saved (4 * e.cluster + r) with
    | some v => s1.putSaved e.cluster r (some { v with sleeping := false })
    | none => s1

/-- Module time moves on to its next whole microsecond, and the cycle counts of released cores with it (R46, R552). A standby whose
count is ahead of its partner's runs at half rate (R46). -/
def State.tickTime (s : State) : State :=
  let slow := s.role == 3 && decide (s.twin.ahead ≠ 0)
  let t := if slow then s.time + 500 else BitVec.ofNat 64 (1000 * (s.time.toNat / 1000 + 1))
  let n : Word := if s.released then 1 else 0
  { s with time := t, cycScribe := s.cycScribe + 2250 * n, cycCopyist := s.cycCopyist + 1500 * n
           twin := { s.twin with ahead := if slow then s.twin.ahead - 500 else s.twin.ahead } }

/-- Expired entries leave in order, and tasks that wait in place go on; a folio stop holds them (R300, R306, R323). -/
def State.delayTick (s : State) : State :=
  let t := s.tickTime
  if t.dx.stopped then t
  else
    let due := (t.dx.delay.filter (fun e => decide (e.expiry ≤ t.time.toNat))).foldl (fun l e => insertTick e l) []
    let u := due.foldl (fun u e => u.expire e) t
    let wake (c : Ctx) : Ctx := match c.run with
      | .waiting (.sleep e) => if e ≤ u.time.toNat then c.next else c
      | _ => c
    { u with ctxs := smapMap (fun _ => {}) (fun _ c => wake c) u.ctxs, dx := { u.dx with restored := u.dx.restored.map wake } }

end Sys2Proof.Machine
end

