-- ==== Sys2Proof/Machine/Ductus.lean ====
section
/-! DEFINITION. The Ductus instructions, group 0x18 (R299 to R302). -/

namespace Sys2Proof.Machine

/-- DX.SPAWN: the descriptor's task enters the spawn buffer of 8 entries, with DLY for a delay of imm20 µs; a full buffer
stalls issue (R299, R303). -/
def execDxSpawn (h : Hart) (f : FormD) (s : State) : Res :=
  let dly := f.ctl.getLsbD 0
  .next (s.issue h (wordD 0x18 0x00 f)
    (isZ f.queue && decide (f.areg.toNat < 32) && sigOk f && onlyBits f.ctl 1 && (dly == decide (f.imm ≠ 0))) f.mask.toNat [f.areg.toNat] []
    (fun s => s.withSlot h f (fun d s => s.checked h (wordD 0x18 0x00 f) (taskDescOk d) (fun s => s.withSig h f (fun m s =>
      if (s.dx.buf.filter (fun t => t.src == h.core)).length ≥ 8 then s
      else
        let j := (s.ctx h).task.job
        let (n, s1) := s.taskNum j
        let t := taskOf d j n ((s.ctx h).getA f.areg.toNat) m (if dly then some (s.time.toNat + 1000 * f.imm.toNat) else none) h.core
        ((s1.setDx { s1.dx with buf := s1.dx.buf ++ [t] }).drainBuf).modCtx h Ctx.next)))))

/-- DX.SLEEP: the task leaves its context for imm20 µs, or waits in place where no save record or delay entry is free
(R300, R306). -/
def execDxSleep (h : Hart) (f : FormD) (s : State) : Res :=
  .next (s.issue h (wordD 0x18 0x01 f)
    (isZ f.slot && isZ f.queue && isZ f.mark && isZ f.areg && isZ f.sig && isZ f.ctl && decide (f.imm ≠ 0)) f.mask.toNat [] []
    (fun s =>
      let e := s.time.toNat + 1000 * f.imm.toNat
      match s.freeRecord h.core with
      | some r =>
        if !s.canLeave h then s
        else if s.dx.delayed h.core < 1024 then
          let t := (s.modCtx h Ctx.next).saveCtx h r true
          t.setDx { t.dx with delay := t.dx.delay ++ [DelayEnt.mk h.core e (.sleeper r)] }
        else s.modCtx h (fun c => { c with run := .waiting (.sleep e) })
      | none => s.modCtx h (fun c => { c with run := .waiting (.sleep e) })))

/-- Is a step end refused: its step is not above the last one, or the job is tainted (R302)? -/
def State.stepRefused (s : State) (j : Nat) (step : Word) : Bool :=
  let p := smapGet (fun _ => (0, 0)) s.dx.prevStep j
  (p.2 ≠ 0 && !p.1.ult step) || s.rbit (regMkJobstat j) 0

/-- DX.STEPEND: waits as FENCE does; a refused one returns CSN 0; else it waits until its commit is recorded (R301, R302). -/
def execDxStepend (h : Hart) (f : FormD) (s : State) : Res :=
  .next (s.issue h (wordD 0x18 0x02 f)
    (isZ f.slot && isZ f.queue && decide (f.areg.toNat < 32) && sigOk f && isZ f.ctl && isZ f.imm) f.mask.toNat [f.areg.toNat] []
    (fun s => s.withSig h f (fun m s =>
      if !s.fenceDone h then s.waits h
      else
        let j := (s.ctx h).task.job
        let step := (s.ctx h).getA f.areg.toNat
        if s.stepRefused j step then (s.modCtx h (fun c => (c.setA f.areg.toNat 0).next)).bump regDxStepRej
        else
          let t := s.modCtx h (fun c => { c with run := .waiting .stepEnd })
          let q : StepReq := { job := j, hart := h, dst := f.areg.toNat, step := step, mark := m, csn := none }
          t.setDx { t.dx with steps := t.dx.steps ++ [q] })))

/-- DX.RDE: A[areg] := the energy attributed to the task so far, in nJ (R298, R314). -/
def execDxRde (h : Hart) (f : FormD) (s : State) : Res :=
  .next (s.issue h (wordD 0x18 0x03 f)
    (isZ f.slot && isZ f.queue && isZ f.mark && decide (f.areg.toNat < 32) && isZ f.sig && isZ f.ctl && isZ f.imm) f.mask.toNat
    [f.areg.toNat] []
    (fun s => s.modCtx h (fun c => (c.setA f.areg.toNat (BitVec.ofNat 64 c.energy)).next)))

end Sys2Proof.Machine
end

