-- ==== Sys2Proof/Machine/GatherOps.lean ====
section
/-! DEFINITION. Pooling by the Nib engines and the chunks of the Ligature engines (R239 to R262). -/

namespace Sys2Proof.Machine

/-! ### Descriptors (R247, R248, R259) -/

def plOfmt (d : List Byte) : Nat := fld (skWord d 0) 63 60
def plPool (d : List Byte) : Nat := fld (skWord d 0) 59 57
def plPub (d : List Byte) : Bool := bitOf (skWord d 0) 56
def plFan (d : List Byte) : Nat := fld (skWord d 0) 55 48
def plTargets (d : List Byte) : Nat := fld (skWord d 0) 43 32
def plWidth (d : List Byte) : Nat := fld (skWord d 0) 31 22
def plTable (d : List Byte) : Nat := fld (skWord d 0) 11 0
def plStride (d : List Byte) : Nat := fld (skWord d 1) 47 32
def plOut (d : List Byte) : Nat := fld (skWord d 1) 20 0
def plList (d : List Byte) : Nat := fld (skWord d 2) 20 0
def plBankb (d : List Byte) : Nat := fld (skWord d 3) 31 0
def plAdjmax (d : List Byte) : Nat := fld (skWord d 4) 31 0
def plBytes (d : List Byte) : Nat := elemBits (plOfmt d) / 8

/-- The checks at issue of NB.POOL on its descriptor (R247, R248). -/
def poolDescOk (d : List Byte) (inner : Bool) : Bool :=
  let w := skWord d
  (plOfmt d == 0 || plOfmt d == 1 || plOfmt d == 10) && decide (1 ≤ plFan d ∧ plFan d ≤ 128) && decide (fld (w 0) 47 44 = 0)
    && decide (1 ≤ plTargets d ∧ plTargets d ≤ 2048) && decide (1 ≤ plWidth d ∧ plWidth d ≤ 512) && decide (fld (w 0) 21 12 = 0)
    && decide (fld (w 1) 63 48 = 0 ∧ fld (w 1) 31 21 = 0) && decide (plStride d % 16 = 0) && decide (plOut d % 16 = 0)
    && decide (fld (w 2) 63 21 = 0) && decide (plList d % 16 = 0) && decide (fld (w 3) 47 32 = 0) && decide (fld (w 4) 63 32 = 0)
    && (if inner then decide (1 ≤ fld (w 3) 63 48 ∧ fld (w 3) 63 48 ≤ 576) else decide (w 3 = 0 ∧ w 4 = 0))
    && decide (w 5 = 0) && decide (w 6 = 0) && decide (w 7 = 0)
    && (decide (plFan d = 1) || plOfmt d == 10) && decide (plTargets d * plWidth d * 4 ≤ 524288)
    && offOk (plList d) && inRegion (plList d) (16 * plFan d) && offOk (plOut d)
    && inRegion (plOut d) ((plTargets d - 1) * plStride d + plWidth d * plBytes d)

/-- Reserved bits of the fan entries are 0 and their owners are logical clusters (R247). -/
def fanOk (l : List Byte) (n : Nat) : Bool :=
  (upto n).all (fun i => decide (fld (skWord l (2 * i)) 63 48 = 0) && decide (fld (skWord l (2 * i + 1)) 63 8 = 0)
    && decide (fld (skWord l (2 * i + 1)) 7 0 < 128))

def lgWidth (d : List Byte) : Nat := fld (skWord d 0) 57 48
def lgNh (d : List Byte) : Nat := fld (skWord d 0) 37 32
def lgFirst (d : List Byte) : Nat := fld (skWord d 0) 27 16
def lgPub (d : List Byte) : Bool := bitOf (skWord d 0) 14
def lgCoef (d : List Byte) : Nat := fld (skWord d 0) 13 12
def lgTable (d : List Byte) : Nat := fld (skWord d 0) 11 0
def lgTile (d : List Byte) : Nat := fld (skWord d 1) 47 40
def lgDest (d : List Byte) : Nat := fld (skWord d 1) 19 0
/-- Bytes of a chunk (R261). -/
def lgChunk (d : List Byte) : Nat := 2048 + 64 * lgWidth d
/-- Chunks that a tile holds. -/
def lgRoom (d : List Byte) : Nat := (lgTile d * 4096 - 16) / lgChunk d

/-- The checks at issue of LG.GATHER on its descriptor (R259). -/
def gatherDescOk (d : List Byte) : Bool :=
  let w := skWord d
  decide (fld (w 0) 63 58 = 0) && decide (1 ≤ lgWidth d ∧ lgWidth d ≤ 512) && decide (fld (w 0) 47 38 = 0)
    && decide (1 ≤ lgNh d ∧ lgNh d ≤ 32) && decide (fld (w 0) 31 28 = 0) && decide (fld (w 0) 15 15 = 0) && decide (lgCoef d ≤ 2)
    && decide (fld (w 1) 63 48 = 0) && decide (1 ≤ lgTile d ∧ lgTile d ≤ 160) && decide (fld (w 1) 39 20 = 0)
    && decide (lgDest d % 16 = 0) && decide (fld (w 2) 63 48 = 0) && decide (fld (w 3) 63 48 = 0)
    && decide (w 4 = 0) && decide (w 5 = 0) && decide (w 6 = 0) && decide (w 7 = 0)
    && decide (lgDest d + lgTile d * 4096 ≤ 655360) && decide (16 + lgChunk d ≤ lgTile d * 4096)

/-! ### The table that an operation reads -/

/-- The table, whether its edition is read, and the edition slot: none where the start check of R248 fails. A KIND 1 block has
no rows to pool, and a table without an edition at the sampled generation has none to read (DEDUCED, log 36). -/
def State.readTable (s : State) (job table width gen : Nat) (pub : Bool) : Option (Desc × Nat) :=
  match s.desc job table with
  | none => none
  | some d =>
    if d.width ≠ width ∨ d.kind ≠ 0 then none
    else if pub then ((s.table job table).editionAt gen).map (fun e => (d, e.slot))
    else some (d, 0)

/-! ### Flags (R253) -/

def gaEmpty : Nat := 32
def gaOob : Nat := 16
def gaNv : Nat := 8
def gaOf : Nat := 4

/-- The flags of an operation reach its task when it completes (R253). -/
def State.gatherFlags (s : State) (k : Nat) (o : SkOp) : State :=
  s.modTask k o.own (fun c => { c with gaFlags := c.gaFlags ||| BitVec.ofNat 64 o.gfl })

/-! ### Sums and results (R242 to R244) -/

/-- An exact sum: NaN, or an infinity, or the exact value. -/
def exactSum (ps : List Fp) : OutVal :=
  let pos := ps.any (fun p => p.isInf && !p.negative)
  let neg := ps.any (fun p => p.isInf && p.negative)
  if ps.any Fp.isNan || (pos && neg) then .nan
  else if pos || neg then .inf neg
  else .val (ps.foldl (fun d p => Dy.add d p.dy) Dy.zero) false

/-- An exact value divided by a count, with a sticky bit far below any format's last place. -/
def Dy.over (d : Dy) (n : Nat) : Dy :=
  let k := 300 + Nat.log2 n
  let q := (d.m.natAbs <<< k) / n
  let r := 2 * q + b2n (decide ((d.m.natAbs <<< k) % n ≠ 0))
  ⟨if d.m < 0 then -(r : Int) else (r : Int), d.e - (k : Int) - 1⟩

def OutVal.over (v : OutVal) (n : Nat) : OutVal :=
  match v with
  | .val d z => if n = 0 then .val d z else .val (d.over n) z
  | x => x

/-- The flag bits of a rounding. -/
def EFlags.gather (e : EFlags) : Nat := e.bits

/-- One element of an owner's exact result: x by w over the target's neighbours, and whether NV is set (R243). -/
def poolElem (pool : Nat) (xs : List (Fp × Fp)) : OutVal × Nat :=
  match pool with
  | 0 => let v := exactSum (xs.map (fun p => p.2)); (v, if v = .nan then gaNv else 0)
  | 1 => let v := exactSum (xs.map (fun p => p.2)); (v, if v = .nan then gaNv else 0)
  | 3 => let v := exactSum (xs.map (fun p => Fp.mulFp p.1 p.2)); (v, if v = .nan then gaNv else 0)
  | 2 =>
    let r := xs.foldl (fun acc p => mm32 true acc p.2.to32) (inf32 true)
    if xs.any (fun p => p.2.isNan) then (.nan, gaNv) else (laneVal r, 0)
  | c =>
    let semi := if c = 7 then 4 else c - 3
    let r := passSum semi xs
    (laneVal r.1, (if r.2.nv then gaNv else 0) + (if r.2.of then gaOf else 0))

/-- OR of flag bits. -/
def orBits (a b : Nat) : Nat := a ||| b

/-- The ⊕ of a pooling code on binary32 partials (R244). -/
def poolCombine (pool a b : Nat) : Nat × Nat :=
  match pool with
  | 2 => (mm32 true a b, 0)
  | 4 => (mm32 false a b, 0)
  | 5 => (mm32 true a b, 0)
  | 6 => (mm32 true a b, 0)
  | 7 => (if isZero32 a && isZero32 b then 0 else one32, 0)
  | _ => let r := fmt32.add .even a b; (r.1, (if r.2.nv then gaNv else 0) + (if r.2.of then gaOf else 0))

/-- The result of an empty target, and its flag (R242). -/
def poolEmpty (pool : Nat) : Option (OutVal × Nat) :=
  match pool with
  | 1 => some (.val Dy.zero false, gaEmpty)
  | 2 => some (.val Dy.zero false, gaEmpty)
  | 4 => some (.inf false, 0)
  | 5 => some (.inf true, 0)
  | 6 => some (.inf true, 0)
  | _ => some (.val Dy.zero false, 0)

/-! ### Adjacency blocks (R239 to R241) -/

/-- The header of an adjacency block. -/
structure AdjHead where
  bytes : Nat
  kind : Nat
  idxw : Nat
  targets : Nat
  edges : Nat
  ptr : Nat
  idx : Nat
  wgt : Nat
  deriving DecidableEq, Repr

/-- Read and check a header against the operation's TARGETS (R239, R240). -/
def adjHead (b : List Byte) (targets : Nat) : Option AdjHead :=
  let le (o n : Nat) : Nat := leNat (sliceB b o n)
  let h : AdjHead := ⟨le 0 4, le 4 1, le 5 1, le 6 2, le 8 4, le 12 4, le 16 4, le 20 4⟩
  if le 28 4 = (crc32c (b.take 28)).toNat ∧ (h.kind = 1 ∨ h.kind = 2) ∧ (h.idxw = 4 ∨ h.idxw = 8) ∧ le 24 4 = 0
      ∧ h.bytes % 16 = 0 ∧ 32 ≤ h.bytes ∧ h.ptr % 16 = 0 ∧ h.idx % 16 = 0 ∧ h.wgt % 16 = 0 ∧ (h.kind = 2 ∨ h.wgt = 0)
      ∧ h.ptr + 4 * (h.targets + 1) ≤ h.bytes ∧ h.idx + h.idxw * h.edges ≤ h.bytes
      ∧ (h.kind = 1 ∨ h.wgt + 4 * h.edges ≤ h.bytes) ∧ h.targets = targets ∧ 1 ≤ h.targets
  then some h else none

/-- The pointers of a block, each cut at EDGES, and how many were above it (R241). -/
def adjPtrs (h : AdjHead) (b : List Byte) : List Nat × Nat :=
  let raw := (upto (h.targets + 1)).map (fun i => leNat (sliceB b (h.ptr + 4 * i) 4))
  (raw.map (fun p => min p h.edges), (raw.filter (fun p => decide (p > h.edges))).length)

/-- The neighbours of every target as rows with their edge values' bits (kind 1 has none), and the number of conditions out of
range: pointers, targets and indices (R241). -/
def adjLists (h : AdjHead) (b : List Byte) (rows : Nat) : List (List (Nat × Option Nat)) × Nat :=
  let (ps, high) := adjPtrs h b
  let one (t : Nat) : List (Nat × Option Nat) × Nat :=
    let lo := ps.getD t 0
    let hi := ps.getD (t + 1) 0
    if hi < lo then ([], 1)
    else
      let all := (upto (hi - lo)).map (fun j =>
        (leNat (sliceB b (h.idx + h.idxw * (lo + j)) h.idxw),
          if h.kind = 2 then some (leNat (sliceB b (h.wgt + 4 * (lo + j)) 4)) else none))
      let good := all.filter (fun x => decide (x.1 < rows))
      (good, all.length - good.length)
  let r := (upto h.targets).map one
  (r.map (fun x => x.1), high + (r.map (fun x => x.2)).sum)

/-! ### Reading rows -/

/-- What reading rows gives: the state after it, or a poisoned word, or a bank group over its limit. -/
inductive RowsRead where
  | ok (vals : List (List Nat))
  | poison (pa : Nat)
  | bankOver
  deriving DecidableEq, Repr

/-- Bytes that a read takes from each bank group, added to the counts of the operation (R251). -/
def bankAdd (bank : SMap Nat) (pa n : Nat) : SMap Nat :=
  (pieces pa n).foldl (fun m p => match placeOf p.1 with
    | .inkwell k off =>
      let key := 8 * k + iwBankGroup off
      smapSet (fun _ => 0) m key (smapGet (fun _ => 0) m key + p.2)
    | _ => m) bank

/-- Read the values of rows in order, through the hot-row map, up to a bank-group limit (R238, R251, R256). `who` is the operation, by
cluster and order of issue; `bad` the home whose map entry is found uncorrectable (R264). -/
def State.readRows (s : State) (who : Option (Nat × Nat)) (bad : Option Nat) (d : Desc) (pub : Bool) (slot : Nat) (limit : Option Nat)
    (bank : SMap Nat) : List Nat → State × SMap Nat × RowsRead
  | [] => (s, bank, .ok [])
  | r :: rest =>
    let (pa, t) := s.rowAddr who bad d pub slot r
    let f := d.readFmt pub
    let n := rowBytes f d.width
    let bank' := bankAdd bank pa n
    if (match limit with
        | some b => bank'.any (fun e => decide (b < e.2))
        | none => false) then (t, bank, .bankOver)
    else match t.firstPoison pa n with
      | some w => (t, bank, .poison w)
      | none =>
        let u := t.memRead pa n
        match u.readRows who bad d pub slot limit bank' rest with
        | (v, b, .ok vs) => (v, b, .ok (elemsOf f (u.rdN pa n) d.width :: vs))
        | e => e

/-! ### NB.POOL: start and service -/

/-- The class in which an operation is served (R246, R249). -/
def State.nbClass (s : State) (k : Nat) (o : SkOp) : Nat := if s.qInner k o.queue then 0 else if o.fair then 1 else 2

/-- An NB.POOL starts: its table is checked and its fan entries become requests (R246, R248). -/
def State.poolBegin (s : State) (k : Nat) (o : SkOp) : State :=
  match s.readTable o.own.job (plTable o.desc) (plWidth o.desc) o.gen (plPub o.desc) with
  | none => s.skStop k o 8
  | some _ =>
    { s with nbq := s.nbq ++ o.fanList.zipIdx.map (fun (e : (Nat × Nat) × Nat) =>
      { region := e.1.2, c := k, n := o.n, cls := s.nbClass k o, idx := e.2 }) }

/-- Does the region above logical cluster k answer requests? -/
def State.regionLive (s : State) (k : Nat) : Bool :=
  decide (k < 128) && s.joined (s.phys k) && !s.fenced (s.phys k) && !s.nbFailed.contains k

/-- Is the request a share that has moved to its region's update buffer (R275)? -/
def NbReq.admitted (r : NbReq) : Bool := (r.share.map (fun x => x.admitted)).getD false

/-- The requests in a region's queue, pools and shares in the order they came: 64 of them, the others wait at their senders. A share that
the update buffer holds has left it (R246, R275). -/
def State.nbQueue (s : State) (k : Nat) : List NbReq := (s.nbq.filter (fun r => r.region == k && !r.admitted)).take 64

/-- The first share of a cluster at a region that has not been applied, or not admitted (R275: in issue order). -/
def State.firstShare (s : State) (k c : Nat) (admitted : Bool) : Option NbReq :=
  s.nbq.find? (fun r => r.region == k && r.c == c && (match r.share with
    | some x => !x.applied && (admitted || !x.admitted)
    | none => false))

/-- May a request be taken up: its operation runs, and a share is its cluster's first, of a table that no build holds (R275, R285)? -/
def State.nbUp (s : State) (k : Nat) (r : NbReq) : Bool :=
  (match s.skOp r.c r.n with
    | some o => s.skLive r.c o
    | none => false) &&
  (match r.share with
    | none => true
    | some x => (s.table x.job x.table).build.isNone && s.firstShare k r.c x.admitted == some r)

/-- Bytes that an operation's partial takes in a result buffer (R246, R248). -/
def partBytes (d : List Byte) : Nat := plTargets d * plWidth d * 4

/-- Bytes held in a region's result buffer. -/
def State.resultUsed (s : State) (k : Nat) : Nat :=
  ((s.parts.filter (fun p => p.region == k)).map (fun p => 4 * p.vals.length)).sum

/-- The request that a region serves next: inner, then Fair-copy, then Draft, each class in arrival order, of those that may be taken up
(R246; that a held one is passed is DESIGN CHOICE, log 99). -/
def State.nbNext (s : State) (k : Nat) : Option (NbReq × SkOp) :=
  let live := (s.nbQueue k).filter (fun r => s.nbUp k r)
  ([0, 1, 2].findSome? (fun c => live.find? (fun x => x.cls == c))).bind (fun r => (s.skOp r.c r.n).map (fun o => (r, o)))

/-- A failed check of a region's Nib engines (R255). Which of the eight failed is open. -/
def State.nbMismatch (s : State) (k : Nat) (job : Nat) (detail : Nat) : State :=
  let (w, t) := s.draw
  let u := (t.bump (regNbResFail (t.phys k))).report
    ⟨0x07, ⟨1, 8 * t.phys k + w.toNat % 8⟩, 0, BitVec.ofNat 64 detail, some job, false⟩
  { u with nbFailed := k :: u.nbFailed }

/-- The partial of one owner: counts, element bits and flags. With one owner the exact result is rounded straight to the
output format (R243, R244). -/
def poolPartial (d : List Byte) (f : Nat) (lists : List (List (Nat × Option Nat))) (rows : List (List Nat)) :
    List Nat × List Nat × Nat :=
  let pool := plPool d
  let w := plWidth d
  let single := plFan d = 1
  let dflt : Fp := if pool = 4 ∨ pool = 5 then .fin false 0 0 else .fin false 1 0
  let step (st : List Nat × List Nat × Nat × List (List Nat)) (l : List (Nat × Option Nat)) :
      List Nat × List Nat × Nat × List (List Nat) :=
    let mine := st.2.2.2.take l.length
    let cols := (upto w).map (fun c =>
      let xs := (l.zip mine).map (fun (e : (Nat × Option Nat) × List Nat) =>
        ((match e.1.2 with
          | some b => fmt32.unpack b
          | none => dflt), elemFp f (e.2.getD c 0)))
      let v := if single && l.isEmpty then (poolEmpty pool).getD (.nan, 0) else poolElem pool xs
      let q := if single && pool = 1 then v.1.over l.length else v.1
      let r := narrow (if single then plOfmt d else 10) .even q
      (r.1, v.2 ||| r.2.gather))
    (st.1 ++ [l.length], st.2.1 ++ cols.map (fun x => x.1), (cols.map (fun x => x.2)).foldl orBits st.2.2.1, st.2.2.2.drop l.length)
  let r := lists.foldl step ([], [], 0, rows)
  (r.1, r.2.1, r.2.2.1)

/-- What a fault of the datapath makes of a partial: none when the duplicated sums or the residue find it (R255), else the values that go
on. `i`, `j` name the target and the element. -/
def partUpset (d : List Byte) (r : OpCheck) (vals : List Nat) : Option (List Nat) :=
  match r with
  | .mismatch => none
  | .doubleBit => none
  | .upset i j v =>
    let at_ := i * plWidth d + j
    match (if j < plWidth d then vals[at_]? else none) with
    | none => some vals
    | some x =>
      if x = v then some vals
      else if plPool d = 0 ∨ plPool d = 1 ∨ plPool d = 3 then none
      else if floatRes (fmtOf (if plFan d = 1 then plOfmt d else 10)) v = floatRes (fmtOf (if plFan d = 1 then plOfmt d else 10)) x then
        some (vals.set at_ v)
      else none
  | _ => some vals

/-- The adjacency block has been read: its rows are read and the partial goes to the result buffer (R242 to R246, R251). -/
def State.nbPool (s0 : State) (k : Nat) (q : NbReq) (o : SkOp) (check : OpCheck) (map : Option Nat) (tab : Desc) (slot : Nat) (hd : AdjHead)
    (ps : List Part) (b : List Byte) : State :=
  let d := o.desc
  let t := s0
  let inner := t.qInner q.c o.queue
  let job := o.own.job
  let (lists, bad) := adjLists hd b tab.rows
  let rows := lists.flatMap (fun l => l.map (fun x => x.1))
  let other := (rows.filter (fun r => tab.owner r != k)).length
  if inner && decide (other ≠ 0) then t.skStop q.c o 4
  else
    let t := t.countParts ps
    match t.readRows (some (q.c, o.seq)) map tab (plPub d) slot (if inner then some (plBankb d) else none) o.bank rows with
    | (t, _, .poison pa) => t.skPoison q.c o pa
    | (t, _, .bankOver) => t.skStop q.c o 9
    | (t, bank, .ok vals) =>
      let (counts, right, fl) := poolPartial d (tab.readFmt (plPub d)) lists vals
      match partUpset d check right with
      | none => t.nbMismatch k job o.n
      | some vs =>
        let p := t.phys k
        let u := ((t.bumpBy (regNbOob p) bad).bumpBy (regNbRemote p) other).bump (regNbOps p)
        let v := u.setSk q.c { o with hl := [], bank := bank, gfl := o.gfl ||| (if bad = 0 then 0 else gaOob) }
        { v with nbq := v.nbq.erase q, parts := v.parts ++ [⟨k, q.c, q.n, q.idx, counts, vs, fl⟩] }

/-- The adjacency block of a pool request is read, once its header has been (R246 to R249). -/
def State.nbBlock (s : State) (k : Nat) (q : NbReq) (o : SkOp) (check : OpCheck) (map : Option Nat) (tab : Desc) (slot va : Nat)
    (hd : AdjHead) : State :=
  let inner := s.qInner q.c o.queue
  match s.resolve k o.own.job .load (pieces va hd.bytes) with
  | (t, .fault f) => t.skHalt q.c o f
  | (t, .access) => t.skStop q.c o 1
  | (t, .poison pa) => t.skPoison q.c o pa
  | (t, .ok ps) =>
    let away := ps.any (fun p => p.host || (match placeOf p.pa with
      | .inkwell r _ => r != k
      | _ => true))
    if inner && (away || tab.home == 1) then t.skStop q.c o 4
    else match t.readParts (.stroke q.c o.n) o.hl ps with
      | (t, .wait) => t
      | (t, .poison pa) => t.skPoison q.c o pa
      | (t, .bytes b) => t.nbPool k q o check map tab slot hd ps b

/-- The header of the block is read, from the ranges `head`. -/
def State.nbHead (s : State) (k : Nat) (q : NbReq) (o : SkOp) (check : OpCheck) (map : Option Nat) (tab : Desc) (slot va : Nat)
    (head : List (Nat × Nat)) : State :=
  match s.resolve k o.own.job .load head with
  | (t, .fault f) => t.skHalt q.c o f
  | (t, .access) => t.skStop q.c o 1
  | (t, .poison pa) => t.skPoison q.c o pa
  | (t, .ok ps) =>
    match t.readParts (.stroke q.c o.n) o.hl ps with
    | (t, .wait) => t
    | (t, .poison pa) => t.skPoison q.c o pa
    | (t, .bytes hb) =>
      match adjHead hb (plTargets o.desc) with
      | none => t.skStop q.c o 7
      | some hd =>
        if s.qInner q.c o.queue && decide (hd.bytes > plAdjmax o.desc) then t.skStop q.c o 9
        else t.nbBlock k q o check map tab slot va hd

/-- A region serves a pool request: the block is read and checked, the rows are read, the partial is stored (R239 to R251). -/
def State.nbServe (s : State) (k : Nat) (q : NbReq) (o : SkOp) (check : OpCheck) (map : Option Nat) : State :=
  let d := o.desc
  match s.readTable o.own.job (plTable d) (plWidth d) o.gen (plPub d) with
  | none => s.skStop q.c o 8
  | some (tab, slot) =>
    let va := (o.areg.toNat + (o.fanList.getD q.idx (0, 0)).1) % 2 ^ 64
    s.nbHead k q o check map tab slot va (pieces va 32)

/-! ### The return unit (R244) -/

/-- The output address of target t. -/
def poolOut (k : Nat) (o : SkOp) (t : Nat) : Nat := sheetPa k o.ctl (plOut o.desc + t * plStride o.desc)

/-- One target of a partial into the output: its row of bytes and its flags. -/
def State.poolRow (s : State) (k : Nat) (o : SkOp) (first last : Bool) (tot t : Nat) (vals : List Nat) : List Byte × Nat :=
  let d := o.desc
  let pool := plPool d
  let nb := plBytes d
  if plFan d = 1 then (vals.flatMap (fun v => leBytes nb v), if tot = 0 ∧ (pool = 1 ∨ pool = 2) then gaEmpty else 0)
  else
    let old := elemsOf 10 (s.rdN (poolOut k o t) (4 * plWidth d)) (plWidth d)
    let cells := (vals.zip old).map (fun (x : Nat × Nat) =>
      if last && decide (tot = 0) then
        match poolEmpty pool with
        | some e => ((narrow 10 .even e.1).1, e.2)
        | none => (0, 0)
      else if first then (x.1, 0)
      else if last && pool == 1 then
        let r := narrow 10 .even ((exactSum [fmt32.unpack x.2, fmt32.unpack x.1]).over tot)
        (r.1, r.2.gather ||| (if isNan32 r.1 then gaNv else 0))
      else poolCombine pool x.2 x.1)
    (cells.flatMap (fun x => leBytes 4 x.1), (cells.map (fun x => x.2)).foldl orBits 0)

/-- A fault of the duplicated return unit shows in the row of a target: its two results differ (R255). -/
def poolRowFails (d : List Byte) (t : Nat) (row : List Byte) (r : OpCheck) : Bool :=
  match r with
  | .upset i j v => decide (i = t) && decide (j < plWidth d) && leNat (sliceB row (j * plBytes d) (plBytes d)) != v
  | _ => false

/-- The partial that is next in fan-list order reaches the return unit (R244), which is duplicated and compared: a mismatch writes nothing
(R255). -/
def State.nbReturn (s : State) (c : Nat) (o : SkOp) (p : NbPart) (check : OpCheck) : State :=
  let d := o.desc
  let first := decide (o.pos = 0)
  let last := decide (o.pos + 1 = plFan d)
  let tot := if first then p.counts else (p.counts.zip o.tot).map (fun x => x.1 + x.2)
  let w := plWidth d
  let row (t : Nat) : List Byte × Nat := s.poolRow c o first last (tot.getD t 0) t ((p.vals.drop (t * w)).take w)
  if check = .mismatch ∨ check = .doubleBit ∨ (upto (plTargets d)).any (fun t => poolRowFails d t (row t).1 check) = true then
    s.nbMismatch c o.own.job o.n
  else
  let r := (upto (plTargets d)).foldl (fun (st : State × Nat) t =>
    let x := st.1.poolRow c o first last (tot.getD t 0) t ((p.vals.drop (t * w)).take w)
    (st.1.memWrite (poolOut c o t) x.1, st.2 ||| x.2)) (s, p.flags)
  let empty := if last && (plPool d == 1 || plPool d == 2) then (tot.filter (fun n => n == 0)).length else 0
  let o1 := { o with pos := o.pos + 1, tot := tot, gfl := o.gfl ||| r.2, retried := false }
  let t := (r.1.bumpBy (regNbEmpty (r.1.phys c)) empty)
  let u : State := { t with parts := t.parts.erase p }
  if last then ((u.setSk c o1).gatherFlags c o1).skDone c { o1 with tiles := 1 } else u.setSk c o1

/-! ### LG.GATHER (R257 to R262) -/

/-- The Ligature that serves a cluster: its own, or the next while its own is fenced (R259, sparing table of chapter 18). -/
def State.ligature (s : State) (k : Nat) : Nat := if s.joined (148 + k / 32) then k / 32 else (k / 32 + 1) % 4

/-- The gathers that have come to a Ligature, in the order of their arrival, as clusters and entries: Fair-copy before Draft (R262). -/
def State.lgOrder (s : State) (i : Nat) : List (Nat × SkOp) :=
  let here := s.lgq.filterMap (fun e => if s.ligature e.1 = i then ((s.skOp e.1 e.2).filter (fun o => o.kind == .gather)).map (fun o => (e.1, o))
    else none)
  here.filter (fun x => x.2.fair) ++ here.filter (fun x => !x.2.fair)

/-- The gathers that a Ligature holds: 16 at most (R262). -/
def State.lgHeld (s : State) (i : Nat) : Nat := ((s.lgOrder i).filter (fun x => x.2.state != 1)).length

/-- Free places of a Ligature go to the gathers that wait for one, in its order. `n` bounds them. -/
def State.lgTake (s : State) (i : Nat) : Nat → State
  | 0 => s
  | n + 1 =>
    if s.lgHeld i < 16 then
      match (s.lgOrder i).find? (fun x => x.2.state == 1 && !x.2.held) with
      | some (k, o) => (s.setSk k { o with state := 3 }).lgTake i n
      | none => s
    else s

/-- A gather starts: an inner queue and an unregistered table stop it (R258, R259). A full Ligature keeps it queued (R262). -/
def State.gatherBegin (s : State) (k : Nat) (o : SkOp) : State :=
  if s.qInner k o.queue then s.skStop k o 4
  else match s.readTable o.own.job (lgTable o.desc) (lgWidth o.desc) o.gen (lgPub o.desc) with
    | none => s.skStop k o 8
    | some _ =>
      let t : State := { s with lgq := s.lgq.filter (fun e => e != (k, o.n) && (s.skOp e.1 e.2).isSome) ++ [(k, o.n)] }
      if t.lgHeld (t.ligature k) > 16 then t.setSk k { o with state := 1 } else t

/-- One heavy neighbour: its row and its edge value. -/
abbrev Heavy := Nat × Nat

/-- Is a list of rows ascending (R260)? -/
def ascending : List Heavy → Bool
  | a :: b :: r => decide (a.1 ≤ b.1) && ascending (b :: r)
  | _ => true

/-- A place of the merged stream: its row, and the edges into each target. -/
abbrev Merged := Nat × List (Nat × Nat)

/-- The edges of a row at the front of one list. -/
def takeRow (row : Nat) : List Heavy → List Nat × List Heavy
  | [] => ([], [])
  | a :: r => if a.1 = row then let x := takeRow row r; (a.2 :: x.1, x.2) else ([], a :: r)

/-- Merge lists into one stream: the lowest front row is taken from every list that shows it (R260). -/
def mergeHeavy : Nat → List (List Heavy) → List Merged
  | 0, _ => []
  | n + 1, ls =>
    match (ls.filterMap (fun l => l.head?.map (fun x => x.1))).min? with
    | none => []
    | some row =>
      let cut := ls.map (takeRow row)
      (row, cut.zipIdx.flatMap (fun (x : (List Nat × List Heavy) × Nat) => x.1.1.map (fun v => (x.2, v)))) ::
        mergeHeavy n (cut.map (fun x => x.2))

/-- The coefficient of a place into target j: its edges summed exactly and rounded once (R260, R261). -/
def heavyCoef (coef f degree : Nat) (es : List Nat) : Nat :=
  if es.isEmpty then 0
  else
    let v : OutVal := match coef with
      | 0 => .val ⟨es.length, 0⟩ false
      | 1 => (OutVal.val ⟨es.length, 0⟩ false).over degree
      | _ => exactSum (es.map fmt32.unpack)
    (narrow f .even v).1

/-- A chunk of up to 32 places: 16-bit elements bit for bit, 8-bit ones widened exactly, binary32 ones rounded (R261). -/
def chunkBytes (coef f rf width : Nat) (degrees : List Nat) (places : List (Merged × List Nat)) : List Byte :=
  let cell (k j : Nat) : Nat := match places[k]? with
    | none => 0
    | some p => heavyCoef coef f (degrees.getD j 0) ((p.1.2.filter (fun e => e.1 == j)).map (fun e => e.2))
  let op (c k : Nat) : Nat := match places[k]? with
    | none => 0
    | some p => if rf = f then p.2.getD c 0 else ((fmtOf f).pack .even false (elemFp rf (p.2.getD c 0))).1
  (upto 32).flatMap (fun k => (upto 32).flatMap (fun j => leBytes 2 (cell k j))) ++
    (upto width).flatMap (fun c => (upto 32).flatMap (fun k => leBytes 2 (op c k)))

/-- What reading virtual bytes for an operation gives. -/
inductive VGot where
  | bytes (b : List Byte)
  | done                           -- the operation stopped, halted or waits

/-- Read a virtual range for an operation entry. -/
def State.readVa (s : State) (k : Nat) (o : SkOp) (va n : Nat) : State × VGot :=
  match s.resolve k o.own.job .load (pieces va n) with
  | (t, .fault f) => (t.skHalt k o f, .done)
  | (t, .access) => (t.skStop k o 1, .done)
  | (t, .poison pa) => (t.skPoison k o pa, .done)
  | (t, .ok ps) => match t.readParts (.stroke k o.n) o.hl ps with
    | (u, .wait) => (u, .done)
    | (u, .poison pa) => (u.skPoison k o pa, .done)
    | (u, .bytes b) => (u.countParts ps, .bytes b)

/-- Read the neighbour lists of a group of heavy targets. -/
def State.readHeavy (s : State) (k : Nat) (o : SkOp) : List (Nat × Nat) → State × Option (List (List Heavy))
  | [] => (s, some [])
  | (start, degree) :: r =>
    match s.readVa k o ((fld (skWord o.desc 3) 47 0 + o.areg.toNat + 8 * start) % 2 ^ 64) (8 * degree) with
    | (t, .done) => (t, none)
    | (t, .bytes b) => match t.readHeavy k o r with
      | (u, some l) => (u, some ((upto degree).map (fun i =>
          (leNat (sliceB b (8 * i) 4), leNat (sliceB b (8 * i + 4) 4))) :: l))
      | (u, none) => (u, none)

/-- What a fault of a Ligature's datapath makes of the chunks of a tile: none when its checks find it (R255), else the bytes that go on. `i`
counts places over the chunks; `j` below 32 names a coefficient, an exact sum formed twice, and above it an element, which carries a
residue. -/
def lgUpset (d : List Byte) (f : Nat) (r : OpCheck) (body : List Byte) : Option (List Byte) :=
  match r with
  | .mismatch => none
  | .doubleBit => none
  | .upset i j v =>
    let off := i / 32 * lgChunk d + (if j < 32 then 64 * (i % 32) + 2 * j else 2048 + 64 * (j - 32) + 2 * (i % 32))
    if j ≥ 32 + lgWidth d ∨ off + 2 > body.length then some body
    else
      let x := leNat (sliceB body off 2)
      if x = v then some body
      else if j < 32 ∨ floatRes (fmtOf f) v ≠ floatRes (fmtOf f) x then none
      else some (body.take off ++ leBytes 2 v ++ body.drop (off + 2))
  | _ => some body

/-- A failed check of a Ligature (R255). -/
def State.lgMismatch (s : State) (lg : Nat) (o : SkOp) : State :=
  let u := (s.bump (regLgResFail lg)).report ⟨0x07, ⟨2, lg⟩, 0, BitVec.ofNat 64 o.n, some o.own.job, false⟩
  { u with nbFailed := (128 + lg) :: u.nbFailed }

/-- The rows of a tile have been read: its chunks stand in the back half (R257 to R261). -/
def State.gatherWrite (t : State) (k : Nat) (o : SkOp) (check : OpCheck) (tab : Desc) (ents : List (Nat × Nat)) (lists : List (List Heavy)) (vals : List (List Nat)) :
    State :=
  let d := o.desc
  let lg := t.ligature k
  let all := mergeHeavy ((lists.map List.length).sum) lists
  let good := all.filter (fun p => decide (p.1 < tab.rows))
  let n := lgRoom d
  let mine := (good.drop (32 * o.pos)).take (32 * n)
  let last := decide (good.length ≤ 32 * (o.pos + n))
  let cs := chunks 32 mine.length (mine.zip vals)
  let f := if tab.readFmt (lgPub d) = 1 then 1 else 0
  let deg := ents.map (fun e => e.2)
  match lgUpset d f check (cs.flatMap (chunkBytes (lgCoef d) f (tab.readFmt (lgPub d)) (lgWidth d) deg)) with
  | none => t.lgMismatch lg o
  | some body =>
  let head := leBytes 4 cs.length ++ leBytes 1 (b2n last) ++ List.replicate 11 0#8
  let t1 := t.memWrite (sheetPa k (1 - (t.cl k).front) (lgDest d)) (head ++ body)
  let t2 := (t1.bumpBy (regLgChunks lg) cs.length).bumpBy (regLgEdges lg) ((mine.map (fun p => p.2.length)).sum)
  let none0 := if lgCoef d = 1 then (deg.filter (fun x => x == 0)).length else 0
  let skip := all.length - good.length
  let t3 := if o.pos = 0 then
      ((t2.bumpBy (regLgOob lg) skip).bumpBy (regLgUnsorted lg) (lists.filter (fun l => !ascending l)).length).bumpBy
        (regLgEmpty lg) none0
    else t2
  let o1 := { o with
    pos := o.pos + cs.length, tiles := o.tiles + 1, hl := []
    gfl := o.gfl ||| (if skip = 0 then 0 else gaOob) ||| (if none0 = 0 then 0 else gaEmpty) }
  let t4 := t3.modCl k (fun c => { c with backFilled := true })
  let t5 := if o.tsig then t4.engSignal k o.mark else t4
  let t6 := t5.setSk k o1
  if last then (t6.gatherFlags k o1).skDone k o1 else t6

/-- The rows of a tile of a gather are read from its heavy lists, and written (R256, R260). -/
def State.gatherRows (s : State) (k : Nat) (o : SkOp) (check : OpCheck) (map : Option Nat) (tab : Desc) (slot : Nat)
    (ents : List (Nat × Nat)) : State :=
  match s.readHeavy k o ents with
  | (t, none) => t
  | (t, some lists) =>
    let all := mergeHeavy ((lists.map List.length).sum) lists
    let good := all.filter (fun p => decide (p.1 < tab.rows))
    let mine := (good.drop (32 * o.pos)).take (32 * lgRoom o.desc)
    match t.readRows (some (k, o.seq)) map tab (lgPub o.desc) slot none [] (mine.map (fun p => p.1)) with
    | (t, _, .poison pa) => t.skPoison k o pa
    | (t, _, .bankOver) => t.skStop k o 9
    | (t, _, .ok vals) => t.gatherWrite k o check tab ents lists vals

/-- The heavy list of a gather is read at `hva`, its header of `n` bytes first, and the tile's rows after it (R256, R258). -/
def State.gatherHead (s : State) (k : Nat) (o : SkOp) (check : OpCheck) (map : Option Nat) (tab : Desc) (slot hva n : Nat) : State :=
  let d := o.desc
  match s.readVa k o hva n with
  | (t, .done) => t
  | (t, .bytes hb) =>
    let count := leNat (hb.take 4)
    if leNat (sliceB hb 12 4) ≠ (crc32c (hb.take 12)).toNat ∨ leNat (sliceB hb 4 8) ≠ 0 then t.skStop k o 7
    else if count > 4096 ∨ lgFirst d + lgNh d > count then t.skStop k o 0xA
    else match t.readVa k o (hva + n + 16 * lgFirst d) (16 * lgNh d) with
    | (t, .done) => t
    | (t, .bytes eb) =>
      t.gatherRows k o check map tab slot
        ((upto (lgNh d)).map (fun i => let w := wordAt eb (16 * i + 8); (fld w 39 0, fld w 63 40)))

/-- A tile of a gather (R258 to R261). -/
def State.gatherTile (s : State) (k : Nat) (o : SkOp) (check : OpCheck) (map : Option Nat) : State :=
  let d := o.desc
  match s.readTable o.own.job (lgTable d) (lgWidth d) o.gen (lgPub d) with
  | none => s.skStop k o 8
  | some (tab, slot) => s.gatherHead k o check map tab slot ((fld (skWord d 2) 47 0 + o.areg.toNat) % 2 ^ 64) 16

/-- The gather that a Ligature serves: the first in its order that runs and whose tile has its half (R124, R262). -/
def State.lgNext (s : State) (i : Nat) : Option (Nat × SkOp) :=
  (s.lgOrder i).find? (fun x => s.skLive x.1 x.2 && decide (x.2.tiles < x.2.assigned))

/-- A tile of a gather completes when its Ligature works and serves it (R258, R262). -/
def State.lgComplete (s : State) (k n : Nat) (check : OpCheck) (map : Option Nat) (e : List MemErr) : State :=
  let lg := s.ligature k
  if !s.joined (148 + lg) ∨ s.nbFailed.contains (128 + lg) then s
  else
    let t := s.lgTake lg 16
    match t.lgNext lg with
    | some (c, o) => if c = k ∧ o.n = n then (t.demandErrs e).gatherTile k o check map else t
    | none => t

end Sys2Proof.Machine
end

