-- ==== Sys2Proof/Machine/TableOps.lean ====
section
/-! DEFINITION. Row updates, first-touch undo, builds and publications (R272 to R293, R409 to R414). -/

namespace Sys2Proof.Machine

/-! ### The descriptor of TB.UPDATE -/

def upStep (d : List Byte) : Word := skWord d 0
def upLr (d : List Byte) : Nat := leNat (sliceB d 8 4)
def upB1 (d : List Byte) : Nat := leNat (sliceB d 12 4)
def upB2 (d : List Byte) : Nat := leNat (sliceB d 16 4)
def upEps (d : List Byte) : Nat := leNat (sliceB d 20 4)
def upSr (d : List Byte) : Bool := bitOf (skWord d 3) 28
def upTable (d : List Byte) : Nat := fld (skWord d 3) 27 16

/-- Reserved bits of the update descriptor are 0. -/
def updDescOk (d : List Byte) : Bool :=
  decide (fld (skWord d 3) 15 0 = 0) && decide (fld (skWord d 3) 63 29 = 0)
    && decide (skWord d 4 = 0) && decide (skWord d 5 = 0) && decide (skWord d 6 = 0) && decide (skWord d 7 = 0)

/-! ### Deltas (R411, R412) -/

/-- The code and bytes of one changed word of a delta (R412). -/
def deltaCode (x : Nat) : Nat := if x = 0 then 0 else if x < 2 ^ 8 then 1 else if x < 2 ^ 16 then 2 else 3
def deltaLen (c : Nat) : Nat := if c = 3 then 4 else c

/-- The body of a DELTA (R412). -/
def deltaBody (table row epoch : Nat) (old new : List Byte) : List Byte :=
  let n := old.length / 4
  let xs := (upto n).map (fun i => leNat (sliceB new (4 * i) 4) ^^^ leNat (sliceB old (4 * i) 4))
  let cs := xs.map deltaCode
  let codes := (upto ((n + 3) / 4)).map (fun i =>
    BitVec.ofNat 8 (cs.getD (4 * i) 0 + 4 * cs.getD (4 * i + 1) 0 + 16 * cs.getD (4 * i + 2) 0 + 64 * cs.getD (4 * i + 3) 0))
  let body := leBytes 2 table ++ leBytes 2 0 ++ leBytes 4 n ++ leBytes 8 row ++ leBytes 8 epoch ++ codes
    ++ xs.flatMap (fun x => leBytes (deltaLen (deltaCode x)) x)
  padB ((body.length + 7) / 8 * 8) body

/-- Bytes of deltas in the two parts of the send queue (R411). -/
def Twin.headBytes (t : Twin) : Nat := ((t.sendq.filter (fun r => r.ty == 4 && !r.spill)).map CbRec.size).sum
def Twin.contBytes (t : Twin) : Nat := ((t.sendq.filter (fun r => r.ty == 4 && r.spill)).map CbRec.size).sum

/-- May a delta of a size enter the send queue (R411)? -/
def Twin.room (t : Twin) (n : Nat) : Bool := decide (t.headBytes + t.contBytes + n ≤ 256 * 2 ^ 20)

/-- Are deltas sent: with a twin that follows, or during a resync once its rows are queued (R411, R430)? -/
def State.mirrors (s : State) : Bool := s.role == 2 || s.rbit regCbStatus 12

/-- A delta enters the head when it has room and the continuation is empty, else the continuation (R411). -/
def State.sendDelta (s : State) (job : Nat) (body : List Byte) : State :=
  let n := 8 + body.length
  let spill := decide (s.twin.contBytes ≠ 0) || decide (s.twin.headBytes + n > 8 * 2 ^ 20)
  let t : State := { s with twin := { s.twin with sendq := s.twin.sendq ++ [⟨4, job, [], body, n, spill⟩] } }
  if spill then t.bump regCbTxSpill else t

/-- The number of the folio that will seal what is written now (R412): the next one to capture. -/
def State.epoch (s : State) : Nat :=
  if s.folioPhase = 0 then (s.reg regCbSealed).toNat + 1 else if s.folioPhase = 1 then s.folio.num else s.folio.num + 1

/-! ### First-touch undo (R281 to R283) -/

def State.undoBase (s : State) (j : Nat) : Nat := s.rfld (regNbUndo j) 47 20 * 2 ^ 20
def State.undoSize (s : State) (j : Nat) : Nat := s.rfld (regNbUndo j) 63 48 * 2 ^ 20
def UndoRt.used (u : UndoRt) : Nat := (u.recs.map (fun r => r.len)).sum
/-- Has the row a record in the current generation? -/
def UndoRt.has (u : UndoRt) (t r : Nat) : Bool := u.recs.any (fun x => x.gen == u.gen && x.table == t && x.row == r)

/-- Write bytes into a ring of memory. -/
def State.wrRing (s : State) (base size off : Nat) (bs : List Byte) : State :=
  let first := bs.take (size - off % size)
  (s.memWrite (base + off % size) first).memWrite base (bs.drop first.length)

/-- Read bytes from a ring of memory. -/
def State.rdRing (s : State) (base size off n : Nat) : List Byte :=
  (upto n).map (fun i => s.rd (base + (off + i) % size))

/-- Record the pre-image of a row once in its generation (R281); no room: none. -/
def State.undoRecord (s : State) (j t r : Nat) (old : List Byte) : Option State :=
  let u := s.undoRt j
  let size := s.undoSize j
  let len := 16 + old.length
  if u.has t r then some s
  else if u.used + len > size then none
  else
    let hd := leBytes 2 t ++ leBytes 2 (u.gen % 65536) ++ leBytes 4 0 ++ leBytes 8 r
    let s1 := s.wrRing (s.undoBase j) size u.head (hd ++ old)
    let s2 := s1.setUndo j { u with recs := u.recs ++ [⟨u.gen, t, r, u.head % size, len⟩], head := (u.head + len) % size }
    some (if 4 * (size - u.used - len) < size then s2.undoForce j else s2)

/-- Roll a job's tables back (R283): the records that stand, newest first. Those of the older generation stand while the
folio that ended it is not sealed (R282). -/
def State.rollbackTo (s : State) (j g : Nat) : State :=
  let u := s.undoRt j
  let t := (u.recs.filter (fun r => decide (r.gen ≥ g))).reverse.foldl (fun (t : State) r =>
    match t.desc j r.table with
    | some d =>
      let bs := (t.rdRing (t.undoBase j) (t.undoSize j) r.off r.len).drop 16
      let home := d.homeOf r.row
      ((t.hotWrite home bs).memWrite home bs)
    | none => t) s
  t.setUndo j { gen := u.gen + 1 }
/-- Every record that stands. -/
def State.rollback (s : State) (j : Nat) : State := s.rollbackTo j 0

/-! ### The read-modify-write of a row (R276 to R278) -/

/-- b raised to a step number, rounded once (R277). -/
def pow32 (b n : Nat) : Nat :=
  match fmt32.unpack b with
  | .fin neg m e => (fmt32.round .even false (neg && decide (n % 2 = 1)) (m ^ n) (e * n)).1
  | .inf neg => if n = 0 then one32 else fmt32.infBits (neg && decide (n % 2 = 1))
  | .nan _ => fmt32.qnan

def mul32 (a b : Nat) : Nat := (fmt32.mul .even a b).1
def div32 (a b : Nat) : Nat := (fmt32.div .even a b).1
def sqrt32 (a : Nat) : Nat := (fmt32.sqrt .even a).1

/-- One element: new optimiser state and the new weight as binary32 (R277). `c1` and `c2` are formed once per operation. -/
def updElem (opt lr b1 b2 eps c1 c2 : Nat) (w g : Nat) (st : List Nat) : List Nat × Nat :=
  match opt with
  | 0 => ([], sub32 w (mul32 lr g))
  | 1 =>
    let m := add32 (mul32 b1 (st.getD 0 0)) g
    ([m], sub32 w (mul32 lr m))
  | 2 =>
    let a := add32 (st.getD 0 0) (mul32 g g)
    ([a], sub32 w (mul32 lr (div32 g (add32 (sqrt32 a) eps))))
  | _ =>
    let m := add32 (mul32 b1 (st.getD 0 0)) (mul32 (sub32 one32 b1) g)
    let v := add32 (mul32 b2 (st.getD 1 0)) (mul32 (mul32 (sub32 one32 b2) g) g)
    ([m, v], sub32 w (mul32 lr (div32 (div32 m c1) (add32 (sqrt32 (div32 v c2)) eps))))

/-- The summed gradient of a row: columns with their sums (R276). -/
def sumGrads (width : Nat) (recs : List GradRec) : List (Nat × Nat) :=
  let cbs := (upto 16).filter (fun cb => recs.any (fun r => r.cb == cb))
  cbs.flatMap (fun cb => ((upto 32).filter (fun i => decide (32 * cb + i < width))).map (fun i =>
    let xs := (recs.filter (fun r => r.cb == cb)).map (fun r => fmt32.unpack (r.vals.getD i 0))
    (32 * cb + i, (narrow 10 .even (exactSum xs)).1)))

/-- What an update makes of a row's bytes: none when a gradient, state or value is not finite (R278). -/
def updRow (d : Desc) (u : List Byte) (row : Nat) (old : List Byte) (grads : List (Nat × Nat)) : Option (List Byte) :=
  let eb := elemBits d.vfmt / 8
  let n := optArrays d.opt
  let stOff (a c : Nat) : Nat := d.valBytes + a * 4 * d.width + 4 * c
  let step := (upStep u).toNat
  let c1 := sub32 one32 (pow32 (upB1 u) step)
  let c2 := sub32 one32 (pow32 (upB2 u) step)
  let put (b : List Byte) (off : Nat) (x : List Byte) : List Byte := b.take off ++ x ++ b.drop (off + x.length)
  let r := grads.foldl (fun (acc : List Byte × Word × Bool) g =>
    let w := (elemFp d.vfmt (leNat (sliceB old (eb * g.1) eb))).to32
    let st := (upto n).map (fun a => leNat (sliceB old (stOff a g.1) 4))
    let y := updElem d.opt (upLr u) (upB1 u) (upB2 u) (upEps u) c1 c2 w g.2 st
    let rv := genNext acc.2.1
    let q := narrow d.vfmt (if upSr u then .stochastic rv.1 else .even) (laneVal y.2)
    let ok := isFin32 g.2 && isFin32 y.2 && y.1.all isFin32 && (match elemFp d.vfmt q.1 with
      | .fin _ _ _ => true
      | _ => false)
    let b1 := put acc.1 (eb * g.1) (leBytes eb q.1)
    let b2 := (y.1.zipIdx).foldl (fun b (x : Nat × Nat) => put b (stOff x.2 g.1) (leBytes 4 x.1)) b1
    (b2, rv.2, acc.2.2 && ok)) (old, seedOf (Config.updateSeed (BitVec.ofNat 64 row) (upStep u)), true)
  let tr := d.valBytes + n * 4 * d.width
  if r.2.2 then
    let upd := leNat (sliceB old (tr + 8) 4)
    some (put r.1 tr (leBytes 8 step ++ leBytes 4 (upd + 1) ++ leBytes 4 0))
  else none

/-- What an owner meets at a row of a share. -/
inductive RowStep where
  | done (s : State) (flags : Nat)
  | undoFull
  | txFull
  | poison (pa : Nat)

/-- One row of a share at its owner: undo record, write to home and hot copy, dirty bit, delta (R276, R281, R284, R411). -/
def State.updateRow (s : State) (sh : Share) (d : Desc) (row : Nat) (recs : List GradRec) : RowStep :=
  let home := d.homeOf row
  match s.firstPoison home d.rb with
  | some w => .poison w
  | none =>
    let s0 := s.memRead home d.rb
    let old := s0.rdN home d.rb
    let tr := d.valBytes + optArrays d.opt * 4 * d.width
    let dup := decide (wordAt old tr = upStep sh.desc)
    match updRow d sh.desc row old (sumGrads d.width recs) with
    | none => .done (s0.bump regNbUpdSkip) gaNv
    | some new =>
      let body := deltaBody sh.table row s0.epoch old new
      let sends := s0.mirrors && s0.mirrored sh.job sh.table d
      if sends && !s0.twin.room (8 + body.length) then .txFull
      else match s0.undoRecord sh.job sh.table row old with
        | none => .undoFull
        | some s1 =>
          let s2 := ((s1.hotWrite home new).memWrite home new)
          let s3 := s2.bump regNbUpdRows
          let s4 := if dup then s3.bump regNbUpdDup else s3
          let t := s4.table sh.job sh.table
          let seg := row / d.rps
          let s5 := s4.setTable sh.job sh.table { t with
            dirty := if t.dirty.contains seg then t.dirty else t.dirty ++ [seg], lastStep := upStep sh.desc
            epochBytes := t.epochBytes + d.rb }
          .done (if sends then s5.sendDelta sh.job body else s5) 0

/-! ### Shares (R275, R276) -/

/-- Records of a block at a physical address; a record with V at 0 is skipped, a reserved bit makes it out of range (R222). -/
def State.readRecs (s : State) (pa f n : Nat) : List GradRec × Nat :=
  (upto n).foldl (fun (acc : List GradRec × Nat) i =>
    let a := pa + i * recBytes f
    let w := s.rdLe a 8
    if !w.testBit 63 then acc
    else if (w >>> 52) % 2048 ≠ 0 then (acc.1, acc.2 + 1)
    else (acc.1 ++ [⟨w % 2 ^ 48, (w >>> 48) % 16, (elemsOf f (s.rdN (a + 8) (rowBytes f 32)) 32).map (fun e => (elemFp f e).to32)⟩],
      acc.2)) ([], 0)

/-- Records that name a row and columns of the table; others and excess values are ignored and counted (R278). -/
def keepRecs (d : Desc) (recs : List GradRec) : List GradRec × Nat :=
  recs.foldl (fun (acc : List GradRec × Nat) r =>
    if r.row ≥ d.rows ∨ 32 * r.cb ≥ d.width then (acc.1, acc.2 + 1)
    else
      let over32 := (upto 32).any (fun i => decide (32 * r.cb + i ≥ d.width) && !isZero32 (r.vals.getD i 0))
      (acc.1 ++ [r], acc.2 + b2n over32)) ([], 0)

/-- Is the job between a step-end request and its recording, or at a step boundary whose reads have not all run (R301)? -/
def State.stepHolds (s : State) (j : Nat) : Bool :=
  s.dx.steps.any (fun q => q.job == j && q.csn.isSome && !q.gone) || (s.job j).boundary || (s.reads j).any (fun x => x.2.commit.isSome)

/-- Each request of a table that has come while a build of the table runs waits, and is counted (R285). -/
def State.buildHold (s : State) (j t : Nat) : State :=
  let hit (r : NbReq) : Bool := match r.share with
    | some x => x.job == j && x.table == t && !x.applied && !x.held
    | none => false
  if (s.table j t).build.isNone then s
  else ({ s with nbq := s.nbq.map (fun r => if hit r then { r with share := r.share.map (fun x => { x with held := true }) } else r) } :
    State).bumpBy regNbBuildWait (s.nbq.filter hit).length

/-- A TB.UPDATE starts: its block is split by owner and each owner is sent its share (R275). -/
def State.updateBegin (s : State) (k : Nat) (o : SkOp) : State :=
  let tbl := upTable o.desc
  if s.qInner k o.queue then s.skStop k o 4
  else match s.desc o.own.job tbl with
    | none => s.skStop k o 8
    | some d =>
      if d.kind ≠ 0 then s.skStop k o 8
      else
        let off := fld o.areg 20 0
        match (if offOk off then s.recHead k o.ctl off else none) with
        | none => s.skStop k o 0xD
        | some (f, n) =>
          if n > 1024 then s.skStop k o 0xD
          else
            let raw := s.readRecs (sheetPa k o.ctl off + 16) f n
            let kept := keepRecs d raw.1
            let bad := raw.2 + kept.2
            let owners := (upto 128).filter (fun i => kept.1.any (fun r => d.owner r.row == i))
            let reqs := owners.map (fun i => ({ region := i, c := k, n := o.n, cls := if o.fair then 1 else 2, idx := i
                                                share := some { job := o.own.job, table := tbl, desc := o.desc
                                                                recs := kept.1.filter (fun r => d.owner r.row == i), fmt := f } } : NbReq))
            let o1 := { o with state := 3, wait := owners, gfl := if bad = 0 then 0 else gaOob }
            let t := (s.bumpBy (regNbOob (s.phys k)) bad).setSk k o1
            if owners.isEmpty then (t.gatherFlags k o1).skDone k o1 else ({ t with nbq := t.nbq ++ reqs } : State).buildHold o.own.job tbl

/-- An update or build issued while a step end is being recorded is held at its Stroke engine (R301). -/
def State.tbStart (s : State) (k : Nat) (o : SkOp) (go : State → SkOp → State) : State :=
  if s.stepHolds o.own.job then (s.setSk k { o with state := 1, held := true }).bump regDxStepHold else go s o

/-- Operations that a step end held and that may start now. -/
def State.tbRelease (s : State) (kind : SkKind) (go : State → Nat → SkOp → State) : State :=
  (upto 128).foldl (fun t k => (t.cl k).sk.foldl (fun t o =>
    if o.kind = kind ∧ o.state = 1 ∧ o.held = false ∧ (t.job o.own.job).held = false then go t k o else t) t) s

/-- Bytes that a share takes in an update buffer: its records as R222 lays them out (R275). -/
def shareBytes (sh : Share) : Nat := recBytes sh.fmt * sh.recs.length

def State.modReq (s : State) (q : NbReq) (f : Share → Share) : State :=
  { s with nbq := s.nbq.map (fun r => if r = q then { r with share := r.share.map f } else r) }

/-- The shares that an owner may work on: those in its update buffer, and the one that is next in its queue, by class (R246, R275). -/
def State.updNext (s : State) (k : Nat) : List (NbReq × Share × SkOp) :=
  let all := s.nbq.filter (fun r => r.region == k && r.admitted && s.nbUp k r) ++ (s.nbNext k).toList.map (fun x => x.1)
  [0, 1, 2].flatMap (fun cls => (all.filter (fun r => r.cls == cls)).filterMap (fun r => match r.share, s.skOp r.c r.n with
    | some sh, some o => if sh.applied then none else some (r, sh, o)
    | _, _ => none))

/-- Apply rows of an admitted share until one must wait. `n` bounds the rows. -/
def State.applyShare (s : State) (k : Nat) (q : NbReq) (sh : Share) (d : Desc) (o : SkOp) : Nat → State
  | 0 => s
  | n + 1 =>
    match sh.recs with
    | [] => s.modReq q (fun _ => { sh with applied := true })
    | r :: _ =>
      match s.updateRow sh d r.row (sh.recs.filter (fun x => x.row == r.row)) with
      | .done t fl =>
        let sh1 := { sh with recs := sh.recs.filter (fun x => x.row != r.row), stalled := false, txWait := false }
        let o1 := { o with gfl := o.gfl ||| fl }
        let u := (t.setSk q.c o1).modReq q (fun _ => sh1)
        u.applyShare k { q with share := some sh1 } sh1 d o1 n
      | .undoFull =>
        if sh.stalled then s else (s.modReq q (fun x => { x with stalled := true })).bump regNbUndoStall
      | .txFull =>
        if sh.txWait then s else (s.modReq q (fun x => { x with txWait := true })).bump regCbTxStall
      | .poison pa => s.skPoison q.c o pa

/-- One share at its owner: admitted when it fits, held while its table is built, applied row by row (R275, R276, R285). -/
def State.admitShare (s : State) (k : Nat) (q : NbReq) (sh : Share) (o : SkOp) : State :=
  match s.desc sh.job sh.table with
  | none => s.skStop q.c o 8
  | some d =>
    let used := ((s.nbq.filter (fun r => r.region == k)).filterMap (fun r => match r.share with
      | some x => if x.admitted && !x.applied then some (shareBytes x) else none
      | none => none)).sum
    if (s.table sh.job sh.table).build.isSome then
      if sh.held then s else (s.modReq q (fun x => { x with held := true })).bump regNbBuildWait
    else if !sh.admitted && decide (used + shareBytes sh > 262144) then s
    else
      let sh1 := { sh with admitted := true, held := false }
      let t := s.modReq q (fun _ => sh1)
      t.applyShare k { q with share := some sh1 } sh1 d o (sh1.recs.length + 1)

/-- An owner works on the shares it may take up until one makes progress. -/
def State.updServe (s : State) (k : Nat) : List (NbReq × Share × SkOp) → State
  | [] => s
  | (q, sh, o) :: rest =>
    let t := s.admitShare k q sh o
    if (s.table sh.job sh.table).build.isSome || t.nbq == s.nbq then t.updServe k rest else t

/-- An owner's acknowledgement reaches the issuing cluster; the last completes the operation (R276). -/
def State.updAck (s : State) (c n k : Nat) : State :=
  match s.skOp c n with
  | none => s
  | some o =>
    match s.nbq.find? (fun r => r.region == k && r.c == c && r.n == n && (match r.share with
      | some sh => sh.applied
      | none => false)) with
    | none => s
    | some q =>
      let o1 := { o with wait := o.wait.filter (fun i => i != k) }
      let t : State := { (s.setSk c o1) with nbq := s.nbq.erase q }
      if o1.wait.isEmpty then (t.gatherFlags c o1).skDone c o1 else t

/-! ### Builds (R284, R285) -/

/-- A build takes its edition slot: the staging one, or a free one, into which the active directory is copied. With none free it waits, which
is counted (R284). -/
def State.buildSlot (s : State) (j t : Nat) (d : Desc) (b : Build) : State :=
  let rt := s.table j t
  match rt.slots.find? (fun e => e.role = .staging) with
  | some e => s.setTable j t { rt with build := some { b with slot := some e.slot } }
  | none =>
    match (upto 4).find? (fun i => !rt.slots.any (fun e => e.slot == i)) with
    | some i =>
      let s1 := match rt.slots.find? (fun x => x.role = .active) with
        | some a => s.memWrite (d.dirAddr i) (s.rdN (d.dirAddr a.slot) (8 * d.segs))
        | none => s
      s1.setTable j t { rt with build := some { b with slot := some i } }
    | none => if b.waited then s else (s.setTable j t { rt with build := some { b with waited := true } }).bump regNbEdWait

/-- A TB.BUILD starts: the table is locked against updates; a second build waits for the first (R284, R285). -/
def State.buildBegin (s : State) (k : Nat) (o : SkOp) : State :=
  let tbl := o.imm % 4096
  let j := o.own.job
  if s.qInner k o.queue then s.skStop k o 4
  else match s.desc j tbl with
    | none => s.skStop k o 8
    | some d =>
      let t := s.table j tbl
      match t.build with
      | some _ => s.setSk k { o with state := 1 }
      | none =>
        let b : Build := ⟨k, o.n, false, none⟩
        (((s.setSk k { o with state := 3 }).setTable j tbl { t with build := some b }).buildSlot j tbl d b).buildHold j tbl

/-- Segments of a table that no edition names. -/
def State.freeSegs (s : State) (d : Desc) (rt : TableRt) : List Nat :=
  let used := rt.slots.flatMap (fun e => (upto d.segs).map (fun i => s.rdLe (d.dirAddr e.slot + 8 * i) 8 / 65536 % 2 ^ 32 * 65536))
  ((upto (4 * d.esegs)).map (fun i => d.poolAddr + 65536 * i)).filter (fun a => !used.contains a)

/-- The edition bytes of a working row, converted by R168. -/
def State.editionBytes (s : State) (d : Desc) (row : Nat) : List Byte :=
  let es := elemsOf d.vfmt (s.rdN (d.homeOf row) d.valBytes) d.width
  let bits := es.map (fun e => (narrow d.efmt .even (laneVal (elemFp d.vfmt e).to32)).1)
  padB d.eb (leBytes (d.width * elemBits d.efmt / 8) ((bits.zipIdx).foldl (fun acc (x : Nat × Nat) =>
    acc + x.1 * 2 ^ (elemBits d.efmt * x.2)) 0))

/-- Copy one segment into newly allocated space and point the staging directory at it; its bytes count where they lie (R263). -/
def State.copySeg (s : State) (d : Desc) (slot seg addr : Nat) : State :=
  let rows := (upto d.rps).filter (fun i => decide (seg * d.rps + i < d.rows))
  let t := rows.foldl (fun (t : State) i => (t.memRead (d.homeOf (seg * d.rps + i)) d.valBytes).memWrite (addr + i * d.eb)
    (t.editionBytes d (seg * d.rps + i))) s
  t.memWrite (d.dirAddr slot + 8 * seg) (leBytes 8 addr)

/-- The first poisoned word among the values that a build reads. -/
def State.buildPoison (s : State) (d : Desc) (segs : List Nat) : Option Nat :=
  if d.kind = 1 then s.firstPoison d.base (d.rows * 64)
  else segs.findSome? (fun g => ((upto d.rps).filter (fun i => decide (g * d.rps + i < d.rows))).findSome? (fun i =>
    s.firstPoison (d.homeOf (g * d.rps + i)) d.valBytes))

/-- Where a segment of a staging edition is copied to: free space, or in place when all is used and no other slot shares its segment, which
the build replaces (R284). -/
def State.segPlace (s : State) (d : Desc) (rt : TableRt) (slot seg : Nat) : Option Nat :=
  match (s.freeSegs d rt).head? with
  | some a => some a
  | none =>
    let a := s.rdLe (d.dirAddr slot + 8 * seg) 8 / 65536 % 2 ^ 32 * 65536
    let others : TableRt := { rt with slots := rt.slots.filter (fun e => e.slot != slot) }
    if (s.freeSegs d others).contains a then some a else none

/-- Build or extend the staging edition in a slot: dirty segments, or every segment where no edition is active to copy from
(DEDUCED, log 37). A segment for which no space is left stays dirty. -/
def State.buildInto (s : State) (j t : Nat) (d : Desc) (e : EdSlot) (fresh : Bool) : State :=
  let rt := s.table j t
  let active := rt.slots.find? (fun x => x.role = .active)
  let segs := if fresh && active.isNone then upto d.segs else (upto d.segs).filter (fun g => rt.dirty.contains g)
  let named : TableRt := { rt with slots := rt.slots ++ (if fresh then [e] else []) }
  let r : State × List Nat := if d.kind = 1 then
      ((s.memRead d.base (d.rows * 64)).memWrite (d.blockAddr e.slot) (s.rdN d.base (d.rows * 64)), segs)
    else segs.foldl (fun (u : State × List Nat) g =>
      match u.1.segPlace d named e.slot g with
      | some a => (u.1.copySeg d e.slot g a, u.2 ++ [g])
      | none => u) (s, [])
  let cleared := e.cleared ++ r.2.filter (fun g => rt.dirty.contains g && !e.cleared.contains g)
  let e1 : EdSlot := { e with step := rt.lastStep, cleared := cleared }
  r.1.setTable j t { rt with
    slots := if fresh then rt.slots ++ [e1] else rt.slots.map (fun x => if x.slot = e.slot then e1 else x)
    dirty := rt.dirty.filter (fun g => !r.2.contains g) ++ (segs.filter (fun g => !r.2.contains g && !rt.dirty.contains g))
    build := none }

/-- The BUILD record of a build: its step, and the staged segments of a folio-class tensor (R407, R414). -/
def State.sendBuild (s : State) (j t : Nat) (d : Desc) (slot : Nat) : State :=
  if s.mirrors then
    let segs := if s.mirrored j t d then [] else
      (s.slotRanges d slot).flatMap (fun r => leBytes 8 r.1 ++ s.rdN r.1 r.2)
    s.cbSend 5 j [t, (s.table j t).lastStep.toNat] segs
  else s

/-- A build completes: its segments are copied into its slot, and the operation ends (R284). One without a slot looks for one again. -/
def State.buildDone (s : State) (c : Nat) (o : SkOp) : State :=
  let j := o.own.job
  let t := o.imm % 4096
  match s.desc j t with
  | none => s.skStop c o 8
  | some d =>
    let rt := s.table j t
    match rt.build with
    | none => s.buildBegin c o
    | some b =>
      match b.slot with
      | none => s.buildSlot j t d b
      | some i =>
        let segs := if rt.slots.any (fun e => e.role = .active || e.role = .staging) then rt.dirty else upto d.segs
        match s.buildPoison d segs with
        | some w => (s.setTable j t { rt with build := none }).skPoison c o w
        | none =>
          let fin (u : State) : State := (u.sendBuild j t d i).skDone c o
          match rt.slots.find? (fun e => e.slot = i) with
          | none => fin (s.buildInto j t d ⟨i, .staging, 0, [], 0, 0, false⟩ true)
          | some e =>
            if e.role = .staging then fin (s.buildInto j t d e false)
            else s.buildSlot j t d { b with slot := none }

/-! ### Publication lists (R287) -/

/-- A list's handles, or none where its header breaks the layout. -/
def parseList (b : List Byte) : Option (List Nat) :=
  let n := leNat (sliceB b 0 2)
  if 1 ≤ n ∧ n ≤ 64 ∧ leNat (sliceB b 2 6) = 0 then some ((upto n).map (fun i => leNat (sliceB b (16 + 2 * i) 2))) else none

/-- The staging step that every named table records: none where a condition of R287 fails. -/
def State.stageStep (s : State) (j : Nat) (ts : List Nat) : Option Word :=
  let st (t : Nat) : Option Word :=
    if t < 4096 ∧ (s.desc j t).isSome = true then
      ((s.table j t).slots.find? (fun e => e.role = .staging)).map (fun e => e.step)
    else none
  match ts with
  | [] => none
  | t :: _ => match st t with
    | some w => if ts.all (fun x => st x == some w) && decide (ts.dedup.length = ts.length) then some w else none
    | none => none

/-- TB.PUBLISH starts: class, queue, list and staging checks, then the job's publication queue (R287). -/
def State.publishBegin (s : State) (k : Nat) (o : SkOp) : State :=
  let j := o.own.job
  let off := fld o.areg 20 0
  let pa := sheetPa k o.ctl off
  if s.qInner k o.queue then s.skStop k o 4
  else if !o.fair then s.skStop k o 0xC
  else if !offOk off || !inRegion off 16 then s.skStop k o 0xD
  else match parseList (s.rdN pa 144) with
    | none => s.skStop k o 0xD
    | some ts =>
      if !inRegion off (16 + 2 * ts.length) then s.skStop k o 0xD
      else match s.stageStep j ts with
        | none => s.skStop k o 0xB
        | some w => { s with pubq := s.pubq ++ [⟨j, ts, w, pa + 8, none, some (k, o.n), false⟩] }

/-- May the publication at the head of a queue be looked at: the sequencer takes commits, no folio runs, the job is not held, L3 does
not hold it, and earlier entries of its host ring have completed (R47, R51, R56, R457). -/
def State.pubGate (s : State) (p : PubEnt) : Bool :=
  !p.started && s.mayCommit && decide (s.folioPhase = 0) && !(s.job p.job).held && decide (s.shed < 3) && (match p.host with
    | some (r, seq) => ((s.ring r).opened.takeWhile (fun e => e.seq.toNat != seq)).all (fun e => e.compl.isSome)
    | none => true)

/-- Does a job's publication stand at the sequencer: it may start and its parent step end is recorded (R37, R48)? -/
def State.pubReady (s : State) (j : Nat) : Bool :=
  match s.pubq.find? (fun p => p.job == j) with
  | none => false
  | some p => s.pubGate p && !s.rbit (regMkJobstat j) 0 && decide (s.stageStep j p.tables = some p.step) && (s.stepCsn j p.step).isSome

/-- The publication at the head of a job's queue reaches step 1 of R49, those of lower jobs first (R37); one of a tainted job stops
with NOT_DONE (R335). -/
def State.pubStart (s : State) (j : Nat) : State :=
  match s.pubq.find? (fun p => p.job == j) with
  | none => s
  | some p =>
    if !s.pubGate p || (upto j).any (fun i => s.pubReady i) then s
    else if s.rbit (regMkJobstat j) 0 then s.pubResult p none 0x12
    else if s.stageStep j p.tables ≠ some p.step then s.pubResult p none 0x13
    else match s.stepCsn j p.step with
      | none => s
      | some parent =>
        match s.assign with
        | (none, t) => t.pubResult p none 0x14
        | (some n, t) =>
          let r := t.mkRec n (t.reg (regNbEdgen j) + 1) (BitVec.ofNat 64 parent) 2 j 0xFF p.tables.length
          let u : State := { t with pubq := t.pubq.map (fun x => if x = p then { x with started := true } else x) }
          let v := u.folioBegin true
          { v with folio := { v.folio with pub := some r } }

end Sys2Proof.Machine
end

