-- ==== Sys2Proof/Machine/DuctusEvents.lean ====
section
/-! DEFINITION. The events of Ductus: queues, dispatch, pre-emption, owner and fold swaps, step ends, energy, and the writes of
its registers (R301 to R324). -/

namespace Sys2Proof.Machine

/-- Is an update or a build of a job, issued before the request, outstanding in any cluster (R39, R301)? -/
def State.rowsOut (s : State) (j : Nat) : Bool :=
  s.clu.any (fun x => x.2.sk.any (fun o => o.own.job == j && (o.kind == .update || o.kind == .build)))

/-- Does a job's step end stand at the sequencer (R37, R39, R301)? -/
def State.stepReady (s : State) (j : Nat) : Bool :=
  match s.dx.steps.find? (fun q => q.job == j && q.csn.isNone) with
  | none => false
  | some q => !s.rowsOut j && !s.stepHolds j && s.mayCommit && !s.dx.stopped && !(s.job j).held && !s.stepRefused j q.step

/-- Is it the turn of a job's step end: no publication, no ordered command and no step end of a lower job stands with it (R37; log 73)? -/
def State.stepTurn (s : State) (j : Nat) : Bool :=
  !(upto 16).any (fun i => s.pubReady i) && s.orderedWait.isEmpty && !(upto j).any (fun i => s.stepReady i)

/-- A step end is refused at the sequencer: CSN 0 and no commit (R302). -/
def State.stepReject (s : State) (q : StepReq) : State :=
  let t := s.setDx { s.dx with steps := s.dx.steps.erase q }
  (if (t.ctx q.hart).run = .waiting .stepEnd then t.modCtx q.hart (fun c => (c.setA q.dst 0).next) else t).bump regDxStepRej

/-- The step-end commit of a job is requested once its updates and builds have completed: a CSN is assigned and the record
leaves for the twin, or is recorded at once where the module runs without one (R36 to R40, R301, R302). -/
def execStependRequest (j : Nat) (s : State) : Res :=
  .next (match s.dx.steps.find? (fun q => q.job == j && q.csn.isNone) with
    | none => s
    | some q =>
      if s.rowsOut j || s.stepHolds j || !s.mayCommit || s.dx.stopped || (s.job j).held then s
      else if s.stepRefused j q.step then s.stepReject q
      else if !s.stepTurn j then s
      else match s.assign with
        | (none, t) => t.stepReject q
        | (some n, t) =>
          let r := t.mkRec n q.step (smapGet (fun _ => (0, 0)) t.dx.prevStep j).2 1 j 0xFF 0
          let q1 : StepReq := { q with csn := some n, crec := some r }
          let u := t.setDx { t.dx with steps := t.dx.steps.map (fun x => if x = q then q1 else x) }
          if u.role = 2 then u.sendCommit r [] else u.recordStep r q1)

/-- The device queue forwards an entry to a cluster (R297, R303, R305, R306). -/
def execDevqForward (c : Nat) (s : State) : Res := .next (if s.clusterUp c && !s.dx.stopped then s.forward c else s)

/-- A spilled entry returns from the spill ring (R304). -/
def execSpillRefill (s : State) : Res := .next (if s.dx.stopped then s else s.refill)

/-- A free context takes the highest-ranked task that can run (R298, R307, R315). -/
def execTaskDispatch (c : Nat) (s : State) : Res := .next (s.dispatch c)

/-- A Draft task is saved for one that outranks it (R309). -/
def execPreempt (c : Nat) (s : State) : Res := .next (s.preempt c)

/-- An owner swap (R312). -/
def execOwnerSwap (c : Nat) (e : Engine) (s : State) : Res := .next (if c < 128 then s.ownerSwap c e else s)

/-- The 1 µs tick (R46, R306, R552). -/
def execDelayTick (s : State) : Res := .next s.delayTick

/-- Add nJ to a counter of µJ, keeping what is below one µJ. -/
def State.addNj (s : State) (k key nj : Nat) : State :=
  let r := smapGet (fun _ => 0) s.dx.rem key + nj
  (s.setDx { s.dx with rem := smapSet (fun _ => 0) s.dx.rem key (r % 1000) }).bumpBy k (r / 1000)

/-- One part of an energy update (R314, R478). A folio stop counts toward neither figure of a task (R323). -/
def State.energySample (s : State) (e : EnergySample) : State :=
  let s1 := if e.dom < 176 then s.bumpBy (regPwEdom e.dom) e.uj else s
  let c := s1.ctx e.hart
  if c.run = .idle ∨ s1.dx.stopped ∨ isCopyist e.hart.core then s1
  else
    let s2 := s1.setCtx e.hart { c with energy := c.energy + e.nj }
    let s3 := s2.addNj (if c.task.fair then regPwEclass1 else regPwEclass0) (b2n c.task.fair) e.nj
    let s4 := s3.addNj (regPwEjob c.task.job) (16 + c.task.job) e.nj
    if c.task.fair then s4 else s4.setDx { s4.dx with em := (s4.us, e.nj) :: s4.dx.em }

/-- Measured and outstanding energy are brought up to date; samples older than 10 ms leave (R314). -/
def execEnergyUpdate (es : List EnergySample) (s : State) : Res :=
  let t := es.foldl State.energySample s
  .next (t.setDx { t.dx with em := t.dx.em.filter (fun e => decide (t.emNow < e.1 + 10000)) })

/-- The fold of a group. -/
def State.foldAt (s : State) (g : Nat) : Option Fold := s.dx.folds.find? (fun f => f.group == g)
def State.setFold (s : State) (f : Fold) : State :=
  s.setDx { s.dx with folds := s.dx.folds.map (fun x => if x.group = f.group then f else x) }

/-- The fold quantum ends: Stroke operations of the active cluster pause, its contexts are interrupted, and the transfer
begins (R321). -/
def execFoldSwap (g : Nat) (s : State) : Res :=
  .next (match s.foldAt g with
    | none => s
    | some f =>
      let a : Hart := ⟨f.active, 0⟩
      let b : Hart := ⟨f.active, 1⟩
      let ok (h : Hart) : Bool := s.canLeave h || (s.ctx h).run = .idle || (s.ctx h).run = .halted || (s.ctx h).run = .waiting .stepEnd
      let go (u : State) (h : Hart) : State := if s.canLeave h then u.interrupt h else u
      if f.swapping || s.dx.stopped || !ok a || !ok b then s
      else
        let t := (go (go s a) b).modCl f.active (fun c => { c with sk := c.sk.map (fun o =>
          if o.state = 3 then { o with state := 5, saved := 3 } else o) })
        (t.setFold { f with swapping := true }).bump regDxFoldswap)

/-- The part of the fold area in Reservoir that takes a folded logical cluster's state; where it stands is the firmware's choice (R321;
log 51). -/
def foldArea (f : Fold) (k : Nat) : Nat := 0xFFE0000000 + (2 * f.group + b2n (k == f.guest)) * 0x400000
/-- Bytes of one part: owner state of both engines and the whole Sheet (R321). -/
def foldBytes : Nat := 3301376

/-- The state of the cluster that a fold swap takes out is written to its part (R321); its layout is not given. -/
def State.saveFold (s : State) (f : Fold) : State :=
  let sheet := s.mem.filter (fun c => decide (sheetBase f.active ≤ c.1 ∧ c.1 < sheetBase f.active + 0x180000))
  s.homeForce (foldArea f f.active) ((upto foldBytes).map (Config.foldByte (s.cl f.active) sheet))

/-- The transfer of a fold swap ends and the other cluster goes on; during a folio stop its operations stay paused (R140, R321,
R322). -/
def execFoldSwapComplete (g : Nat) (s : State) : Res :=
  .next (match s.foldAt g with
    | none => s
    | some f =>
      if !f.swapping then s
      else
        let next := if f.active = f.host then f.guest else f.host
        let t := (s.saveFold f).setFold { f with active := next, swapping := false }
        if t.dx.stopped then t
        else t.modCl next (fun c => { c with sk := c.sk.map (fun o => if o.state = 5 then { o with state := 3, saved := 0 } else o) }))

/-- A write of DX_POLICY: PDRAFT and TADMIT are clamped, and a clamped write counts (R320, R476). -/
def State.policyWrite (s : State) (v : Word) : State :=
  let p := fld v 9 0
  let t := fld v 39 32
  let p1 := min p (950 * s.phases / 40)
  let t1 := max 60 (min 100 t)
  let u := s.setReg regDxPolicy (BitVec.ofNat 64 (t1 * 2 ^ 32 + p1))
  if p1 ≠ p ∨ t1 ≠ t then u.bump regDxPolClamp else u

/-- A copyist writes DX_POLICY (R320). -/
def execDxPolicyWrite (v : Word) (s : State) : Res := .next (s.policyWrite v)

/-- A write of DX_SPILL, discarded while any entry is spilled (registers of chapter 10). -/
def State.spillWrite (s : State) (v : Word) : State :=
  if s.dx.spill.isEmpty then s.swReg regDxSpill v else s.setRbit regDxStatus 0 true

/-- A copyist writes DX_SPILL (R304). -/
def execDxSpillWrite (v : Word) (s : State) : Res := .next (s.spillWrite v)

/-- A write of DX_OWNAREAj, discarded while a task of the job is loaded or with BASE above 356 (registers of chapter 10). -/
def State.ownareaWrite (s : State) (j : Nat) (v : Word) : State :=
  if s.tasksIn j || decide (fld v 24 16 > 356) then s.setRbit regDxStatus 0 true else s.swReg (regDxOwnarea j) v

/-- A copyist writes DX_OWNAREAj (R312). -/
def execDxOwnareaWrite (j : Nat) (v : Word) (s : State) : Res := .next (if j < 16 then s.ownareaWrite j v else s)

end Sys2Proof.Machine
end

