-- ==== Sys2Proof/Machine/HotMap.lean ====
section
/-! DEFINITION. Pinning and the hot-row map's own events, group 0x17 (R264 to R271). -/

namespace Sys2Proof.Machine

/-- The row of a Reservoir-homed table of the job that starts at a physical address: its table (R270). -/
def State.rowAt (s : State) (job pa : Nat) : Option (Desc × Nat) :=
  (upto 4096).findSome? (fun t => match s.desc job t with
    | some d =>
      if d.kind = 0 ∧ d.home = 1 ∧ d.base ≤ pa ∧ (pa - d.base) % d.rb = 0 ∧ (pa - d.base) / d.rb < d.rows then
        some (d, (pa - d.base) / d.rb)
      else none
    | none => none)

/-- Pinned ways of a set, pins under way among them (R270). -/
def State.pinnedWays (s : State) (home : Nat) : Nat :=
  (s.hot.ents.filter (fun e => hmSet e.home == hmSet home &&
    (e.pin.isSome || (match e.pend with
      | some p => p.pin.isSome
      | none => false)))).length

/-- Unpinned copies in a slice's quarter of a region, coldest first. -/
def State.coldCopies (s : State) (k slice : Nat) : List HotEnt :=
  let mine := s.hot.ents.filter (fun e => hmSlice e.home == slice && e.pin.isNone && (match e.copy with
    | some p => (match placeOf p with
      | .inkwell r _ => r == k
      | _ => false)
    | none => false))
  (upto 256).flatMap (fun h => mine.filter (fun e => e.heat == h))

/-- Make room for a copy: cold unpinned copies leave until one fits (R266, R270). -/
def State.makeRoom (s : State) (k slice n : Nat) : State :=
  (s.coldCopies k slice).foldl (fun t e =>
    if (t.hotPlace k slice n).isSome || e.pend.isSome then t else (t.delEnt e.home).bump regHmEvict) s

/-- A status of HM.PIN or HM.UNPIN reaches its register; every one but PINNED and ALREADY is a refusal (R270). -/
def State.pinAnswer (s : State) (h : Hart) (dst status : Nat) : State :=
  (if status ≤ 1 then s else s.bump regHmPinRefuse).modCtx h (fun c => (c.setA dst (BitVec.ofNat 64 status)).next)

/-- A physical address as a load finds it: PAGE_FAULT and ACCESS as R99 lays down. -/
def State.loadPa (s : State) (h : Hart) (va : Word) (g : Nat → Bool → State → State) : State :=
  let job := (s.ctx h).task.job
  match s.translate h.core job va .load with
  | (.ok pa host, t) => g pa host t
  | (.pageFault, t) => t.pageFault h va false
  | (.access, t) => t.raise h .access va
  | (.poisoned pa, t) => (t.poisonedRead pa ⟨0, t.phys h.core⟩ job).modCtx h (fun c => { c with run := .waiting .dead })

/-- HM.PIN on the row at a physical address: it waits for a PEND to end and for its own copy (R270). -/
def State.hmPin (s : State) (h : Hart) (dst units pa : Nat) (host : Bool) : State :=
  let job := (s.ctx h).task.job
  match (if host then none else s.rowAt job pa) with
  | none => s.pinAnswer h dst 0x13
  | some (d, r) =>
    let k := d.owner r
    if d.rb ≠ 64 * units ∨ (s.hotArea k).2 = 0 then s.pinAnswer h dst 0x13
    else
      let full := decide (s.pinUsed job ≥ s.rfld (regHmPinq job) 15 0)
      match s.hotEnt pa with
      | some e =>
        match e.pin with
        | some j =>
          if j ≠ job then s.pinAnswer h dst 0x14
          else if e.due then (s.setEnt { e with due := false }).pinAnswer h dst 0
          else s.pinAnswer h dst 1
        | none =>
          if e.pend.isSome then s.waits h
          else if full then s.pinAnswer h dst 0x10
          else if s.pinnedWays pa ≥ 4 then s.pinAnswer h dst 0x11
          else
            let t := s.setEnt { e with pin := some job }
            (t.setRfld (regHmPinq job) 47 32 (t.pinUsed job + 1)).pinAnswer h dst 0
      | none =>
        if full then s.pinAnswer h dst 0x10
        else if s.pinnedWays pa ≥ 4 then s.pinAnswer h dst 0x11
        else
          let slice := hmSlice pa
          let t := s.makeRoom k slice (64 * units)
          match t.hotPlace k slice (64 * units), t.hotWay pa none with
          | some target, some (way, victim) => t.hotStart pa units way target victim (some job)
          | some _, none => s.waits h
          | none, _ =>
            if s.fenced (s.phys k) || s.hot.ents.any (fun e => hmSlice e.home == slice && (match e.pend with
                | some p => p.pin.isNone
                | none => false)) then s.waits h
            else s.pinAnswer h dst 0x12

/-- HM.PIN (R270). -/
def execHmPin (h : Hart) (f : FormK) (s : State) : Res :=
  .next (s.issue h (wordK 0x17 0x00 f) (isA f.dst && isA f.src && isZ f.ctl && decide (f.imm.toNat < 32)) f.mask.toNat
    [f.dst.toNat, f.src.toNat] []
    (fun s => s.loadPa h ((s.ctx h).getA f.src.toNat) (fun pa host s => s.hmPin h f.dst.toNat (f.imm.toNat + 1) pa host)))

/-- HM.UNPIN: the row stays as an ordinary entry (R270). -/
def execHmUnpin (h : Hart) (f : FormK) (s : State) : Res :=
  .next (s.issue h (wordK 0x17 0x01 f) (isA f.dst && isA f.src && isZ f.ctl && isZ f.imm) f.mask.toNat
    [f.dst.toNat, f.src.toNat] []
    (fun s => s.loadPa h ((s.ctx h).getA f.src.toNat) (fun pa host s =>
      let job := (s.ctx h).task.job
      match (if host then none else s.hotEnt pa) with
      | some e =>
        if e.pin = some job then
          let t := if e.lost then s.delEnt pa else s.setEnt { e with pin := none, due := false }
          (t.setRfld (regHmPinq job) 47 32 (t.pinUsed job - 1)).pinAnswer h f.dst.toNat 0
        else s.pinAnswer h f.dst.toNat 0x15
      | none => s.pinAnswer h f.dst.toNat 0x15)))

/-- HM.UNPINALL: every pin of the job ends (R270). -/
def execHmUnpinall (h : Hart) (f : FormK) (s : State) : Res :=
  .next (s.issue h (wordK 0x17 0x02 f) (isA f.dst && isZ f.src && isZ f.ctl && isZ f.imm) f.mask.toNat [f.dst.toNat] []
    (fun s =>
      let job := (s.ctx h).task.job
      let n := (s.hot.ents.filter (fun e => e.pin == some job)).length
      (s.endPins job).modCtx h (fun c => (c.setA f.dst.toNat (BitVec.ofNat 64 n)).next)))

/-- The word that HM.LOOK returns: 0 on a miss (R270). -/
def State.hmLook (s : State) (pa : Nat) : Word :=
  match s.hotEnt pa with
  | none => 0
  | some e => match e.copy with
    | none => 0
    | some p => match placeOf p with
      | .inkwell _ off => BitVec.ofNat 64 (2 ^ 63 + b2n e.pin.isSome * 2 ^ 62 + b2n e.pend.isSome * 2 ^ 61
          + iwBankGroup off * 2 ^ 58 + p)
      | _ => 0

/-- HM.LOOK (R270). -/
def execHmLook (h : Hart) (f : FormK) (s : State) : Res :=
  .next (s.issue h (wordK 0x17 0x03 f) (isA f.dst && isA f.src && isZ f.ctl && isZ f.imm) f.mask.toNat
    [f.dst.toNat, f.src.toNat] []
    (fun s => s.loadPa h ((s.ctx h).getA f.src.toNat) (fun pa host s =>
      let v := if host then 0 else s.hmLook pa
      s.modCtx h (fun c => (c.setA f.dst.toNat v).next))))

/-- The copy of the row homed at an address is done (R268); or its entry is found uncorrectable (R264). -/
def execHmCopyComplete (r : CopyEnd) (s : State) : Res :=
  .next (if r.bad then (match s.hotEnt r.home with
      | some e => s.hotBad e
      | none => s)
    else s.hotDone r.home)

/-- A microsecond of the rate cap begins (R267). -/
def execHmRateTick (s : State) : Res := .next s.hotTick

/-- A write of HM_CFG with its clamps (R266, R267). -/
def execHmCfgWrite (v : Word) (s : State) : Res :=
  .next (
    let rate := fld v 12 8
    let rate' := if rate = 0 then 1 else min rate 16
    let th' := max 1 (fld v 7 0)
    let t := s.swReg regHmCfg (setFld (setFld v 12 8 rate') 7 0 th')
    if rate' = rate ∧ th' = fld v 7 0 then t else t.setRbit regHmStatus 0 true)

/-- A write of HM_PINQj: discarded above the sum of 32,768 or below USED (R270). -/
def execHmPinqWrite (j : Nat) (v : Word) (s : State) : Res :=
  .next (
    let sum := ((upto 16).map (fun i => if i = j then fld v 15 0 else s.rfld (regHmPinq i) 15 0)).sum
    if j ≥ 16 then s
    else if sum > 32768 ∨ fld v 15 0 < s.rfld (regHmPinq j) 47 32 then s.setRbit regHmStatus 1 true
    else s.swReg (regHmPinq j) v)

end Sys2Proof.Machine
end

