-- ==== Sys2Proof/Machine/Lanine.lean ====
section
/-! DEFINITION. The Lanine host link: flits and retry, training and loss of the link, host requests and their answers, snoops,
answers of the host, doorbells, page messages and interrupts (R375 to R399). -/

namespace Sys2Proof.Machine

/-! ### Flits and messages (R376 to R382) -/

/-- The data slots of a message that the host may send, and whether the upper half of each must be 0; none for an opcode that is
unassigned or not the host's (R382). -/
def hostSlots (opc : Nat) : Option (List Bool) :=
  if [0x01, 0x02, 0x03, 0x07, 0x08, 0x21, 0x22, 0x31, 0x33, 0x35, 0x41, 0x44].contains opc then some []
  else if [0x04, 0x06, 0x32, 0x34].contains opc then some [false, false, false, false]
  else if opc = 0x05 then some [true, false, false, false, false]
  else if opc = 0x09 then some [true]
  else none

/-- The bits of a header slot that a message uses (R381, R382). Responses may give LADDR or leave it at 0 (DESIGN CHOICE, log 106). -/
def usedBits (opc : Nat) : Nat :=
  let span (hi lo : Nat) : Nat := (2 ^ (hi + 1 - lo) - 1) * 2 ^ lo
  let msg := decide (0x40 < opc)
  span 127 120 + (if msg then 0 else span 119 106 + span 101 60)
    + (if [0x32, 0x33, 0x34, 0x35, 0x44].contains opc then span 105 102 else 0)
    + (if [0x04, 0x05, 0x06, 0x32, 0x34].contains opc then span 59 52 else 0)
    + (if opc = 0x08 ∨ opc = 0x09 then span 51 45 else if opc = 0x41 then span 51 46 + span 31 0
       else if opc = 0x44 then span 51 36 else 0)

/-- The checks of R382 over the slots of a flit, from the data slots that the message under way still needs: those that it needs after
the flit, or none where a check fails. -/
def slotsCheck : List Bool → List (List Byte) → Option (List Bool)
  | need, [] => some need
  | up :: need, b :: r => if up && leNat (b.drop 8) ≠ 0 then none else slotsCheck need r
  | [], b :: r =>
    let v := leNat b
    let opc := v / 2 ^ 120
    if v = 0 then slotsCheck [] r
    else match hostSlots opc with
      | some need => if v &&& usedBits opc = v then slotsCheck need r else none
      | none => none

end Sys2Proof.Machine

namespace Sys2Proof

/-- The header of a flit, bytes 0 to 3, and its fields (R376, R377). -/
def Flit.hdr (f : Flit) : Nat := Machine.leNat (f.bytes.take 4)
def Flit.seq (f : Flit) : BitVec 10 := BitVec.ofNat 10 (f.hdr / 2 ^ 22)
def Flit.ack (f : Flit) : BitVec 10 := BitVec.ofNat 10 (f.hdr / 2 ^ 12)
def Flit.nak (f : Flit) : Bool := f.hdr.testBit 11
def Flit.ftype (f : Flit) : BitVec 2 := BitVec.ofNat 2 (f.hdr / 2 ^ 9)
def Flit.crcls (f : Flit) : BitVec 2 := BitVec.ofNat 2 (f.hdr / 2 ^ 7)
def Flit.crcnt (f : Flit) : BitVec 7 := BitVec.ofNat 7 f.hdr
/-- Bytes 244 to 247 hold the CRC-32C over bytes 0 to 243. -/
def Flit.crcOk (f : Flit) : Bool := decide (Machine.leNat (Machine.sliceB f.bytes 244 4) = (Machine.crc32c (f.bytes.take 244)).toNat)
/-- The 15 slots, slot 0 first. -/
def Flit.slots (f : Flit) : List (List Byte) := (Machine.upto 15).map (fun i => Machine.sliceB f.bytes (4 + 16 * i) 16)

end Sys2Proof

namespace Sys2Proof.Machine

/-! ### The link (R379, R380, R396 to R399) -/

/-- The unit number of Lanine (R471); it stands for host memory too. -/
def lanUnit : UnitId := ⟨8, 0⟩

/-- LN_STATUS.STATE is up. -/
def State.lanUp (s : State) : Bool := s.rfld regLnStatus 1 0 == 2
/-- Flits cross: the link is up and no retrain runs. -/
def State.lanOpen (s : State) : Bool := s.lanUp && !s.rbit regLnStatus 2
def State.setLan (s : State) (l : Lan) : State := { s with lan := l }

/-- Messages that wait go out as credits and the replay buffer allow, each class in its order (R380, R383). -/
def State.lanDrain (s : State) : State :=
  if !s.lanOpen then s
  else
    let r := s.lan.waiting.foldl (fun (acc : State × List Out) m =>
      let (t, kept) := acc
      if !t.lan.room m.code || kept.any (fun x => lanClass x.code == lanClass m.code) then (t, kept ++ [m])
      else (t.lanEmit m, kept)) (s, [])
    r.1.setLan { r.1.lan with waiting := r.2 }

/-- Everything the host held or was asked for ends with the link (R391, R398): a request counts as unanswered. -/
def State.hostReport (s : State) (who : HostWho) (line : Nat) (timeout : Bool) : State :=
  let (u, job) : UnitId × Option Nat := match who with
    | .core h => (s.coreUnit h.core, some (s.ctx h).task.job)
    | .stroke k n => (⟨0, s.phys k⟩, (s.skOp k n).map (fun o => o.own.job))
    | .cache c => (s.coreUnit c, none)
  s.report ⟨0x0B, lanUnit, line, BitVec.ofNat 64 (unitWord u + b2n timeout * 65536), job, false⟩

/-- A request of the module ends as a poisoned read (R368, R391): the requester gets nothing. -/
def State.hostPoison (s : State) (r : HostReq) (timeout : Bool) : State :=
  let t : State := { s with hreqs := s.hreqs.erase r }
  let u := t.hostReport r.who r.line timeout
  match r.who with
  | .core h => (match (u.ctx h).run with
    | .waiting (.host tag _ _ _) => if tag = r.tag then u.modCtx h (fun c => { c with run := .waiting .dead }) else u
    | _ => u)
  | .stroke k n => (match u.skOp k n with
    | some o => u.skFault k o
    | none => u)
  | .cache _ => u

/-- No answer came (R391). -/
def State.hostLost (s : State) (r : HostReq) : State := (s.bump regLnTimeout).hostPoison r true

/-- Host lines in core caches go with the link: a dirty one is reported as a poisoned write (R398). -/
def State.dropHostLines (s : State) : State :=
  let dirty := (upto 132).flatMap (fun c => (s.dirtyHost c).map (fun l => (c, l)))
  let t := dirty.foldl (fun t x => t.report ⟨0x33, lanUnit, x.2 - 2 ^ 48, BitVec.ofNat 64 (unitWord (t.coreUnit x.1)), none, false⟩) s
  { t with sets := smapMap (fun _ => {}) (fun _ x => { x with ways := x.ways.map (fun (w : Option CLine) =>
      w.filter (fun l => decide (l.line < 2 ^ 48))) }) t.sets }

/-- The link goes down (R398). INTR messages that had not crossed count as pending again (R395). -/
def State.lanDown (s : State) : State :=
  if s.rfld regLnStatus 1 0 = 0 then s
  else
    let lost := (s.lan.waiting ++ s.lan.replay.map (fun f => f.msg)).filter (fun m => m.code == 0x42)
    let intr := lost.foldl (fun i m => let r := m.args.headD 0; smapSet (fun _ => 0) i r (max 1 (smapGet (fun _ => 0) i r))) s.lan.intr
    let t := ((s.setRfld regLnStatus 2 0 0).bump regLnLinkdown).report ⟨0x30, lanUnit, 0, 0, none, false⟩
    let u : State := { t with lan := { t.lan with waiting := [], replay := [], intr := intr, nakOpen := false, rxData := [] }, hdir := [], snoops := [] }
    let v := u.hreqs.foldl (fun v r => v.hostLost r) u
    (v.dropHostLines).alert 3

/-- A retrain starts; a fourth within 1 s takes the link down (R396, R398). -/
def State.lanRetrain (s : State) : State :=
  if !s.lanOpen then s
  else
    let recent := s.lan.retrains.filter (fun t => decide ((s.time - t).toNat < 1000000000))
    let t := (s.bump regLnRetrain).setLan { s.lan with retrains := s.time :: recent }
    if recent.length ≥ 3 then t.lanDown else t.setRbit regLnStatus 2 true

/-- Resend every flit that is not acknowledged, in order and unchanged but for the FTYPE of the first (R380). -/
def State.lanReplay (s : State) : State :=
  let again (b : List Byte) : List Byte := flitBytes (leNat (b.take 4) ||| 2 ^ 9) (sliceB b 4 240)
  (s.bumpBy regLnReplay s.lan.replay.length).setLan { s.lan with
    wire := match s.lan.replay with
      | [] => s.lan.wire
      | f :: r => again f.bytes :: r.map (fun x => x.bytes) }

/-- Is a half of the lanes whole once spares are placed (R397)? -/
def halfWhole (dead : List Nat) : Bool := dead.all (fun l => decide (l < 16)) || dead.all (fun l => decide (16 ≤ l))

/-- One lane of a direction is replaced by a spare, or left out (R397). `hi` is 8 for receive, 24 for transmit map fields. -/
def State.spareLane (s : State) (rx : Bool) (lane : Nat) : State :=
  let b := if rx then 0 else 16
  let used := s.rfld regLnStatus (if rx then 11 else 9) (if rx then 10 else 8)
  let mapped := s.rfld regLnLanemap (b + 5) b == lane || s.rfld regLnLanemap (b + 13) (b + 8) == lane
  let dead := if rx then s.lan.rxDead else s.lan.txDead
  if 32 ≤ lane || mapped || dead.contains lane then s
  else if used < 2 then
    (((s.setRfld regLnLanemap (b + 8 * used + 5) (b + 8 * used) lane).setRfld regLnStatus (if rx then 11 else 9) (if rx then 10 else 8)
      (used + 1)).bump regLnLaneSpare).report ⟨0x47, lanUnit, 0, BitVec.ofNat 64 lane, none, false⟩
  else if rx then s.setLan { s.lan with rxDead := lane :: s.lan.rxDead }
  else s.setLan { s.lan with txDead := lane :: s.lan.txDead }

/-- Spares and width are chosen from the lanes marked and those that fail training (R397). -/
def State.placeLanes (s : State) (rx tx : List Nat) : State :=
  let t := (s.lan.txBad ++ tx).foldl (fun t l => t.spareLane false l) ((s.lan.rxBad ++ rx).foldl (fun t l => t.spareLane true l) s)
  let u := t.setLan { t.lan with rxBad := [], txBad := [] }
  u.setRbit regLnStatus 3 (!(u.lan.rxDead.isEmpty && u.lan.txDead.isEmpty))

/-- Neither half is whole in a direction. -/
def State.lanBroken (s : State) : Bool := !(halfWhole s.lan.rxDead && halfWhole s.lan.txDead)

/-- NAK goes out in the header of an idle flit, which takes no place in the replay buffer and shows the next SEQ (R379; DESIGN CHOICE,
log 106); a flit that has drawn 8 of them starts a retrain (R380). -/
def State.lanNak (s : State) : State :=
  let b := flitBytes (flitHdr s.lan.txSeq s.lan.rxSeq 0 true) []
  let t : State := { s with
    out := ⟨.lanine, 0, [1, s.lan.rxSeq], []⟩ :: s.out
    lan := { s.lan with nakOpen := true, naksOut := s.lan.naksOut + 1, wire := [b] } }
  if t.lan.naksOut ≥ 8 then t.lanRetrain else t

/-- A flit fails (R379). -/
def State.flitFail (s : State) : State :=
  let t := s.bump regLnCrcErr
  if t.lan.nakOpen then t else t.lanNak

/-- What an accepted header does: acknowledgement, credits, replay (R377, R380, R383). -/
def State.flitHeader (s : State) (f : Flit) : State :=
  let l := s.lan
  let n := match l.replay.findIdx? (fun x => x.seq == f.ack.toNat) with
    | some i => i + 1
    | none => 0
  let c := f.crcnt.toNat
  let l1 := { l with
    replay := l.replay.drop n
    naks := if n = 0 then l.naks else 0
    reqCr := l.reqCr + (if f.crcls.toNat = 0 then c else 0)
    datCr := l.datCr + (if f.crcls.toNat = 1 then c else 0)
    snpCr := l.snpCr + (if f.crcls.toNat = 2 then c else 0)
    msgCr := l.msgCr + (if f.crcls.toNat = 3 then c else 0) }
  let t := s.setLan l1
  let u := if f.nak then
      let w := t.lanReplay
      let v := w.setLan { w.lan with naks := w.lan.naks + 1 }
      if v.lan.naks ≥ 8 then v.lanRetrain else v
    else t
  u.lanDrain

/-- A flit is decoded, checked and accepted, discarded or refused (R378, R379, R382). Control flits carry nothing here. -/
def execFlitReceive (f : Flit) (s : State) : Res :=
  .next (if !s.lanOpen then s
    else
      let t := s.bumpBy regLnFecCorr f.fecCorrected
      let want := (t.lan.rxSeq + 1) % 1024
      if !f.fecOk || !f.crcOk || f.ftype = 3 then t.flitFail
      else if f.ftype = 2 then t
      else if f.seq.toNat ≠ want then
        (if (t.lan.rxSeq + 1024 - f.seq.toNat) % 1024 < 512 || t.lan.nakOpen then t else t.flitFail)
      else if t.lan.nakOpen && f.ftype ≠ 1 then t
      else match slotsCheck t.lan.rxData f.slots with
        | none =>
          let u := (t.setLan { t.lan with msgFails := t.lan.msgFails + 1 }).flitFail
          if u.lan.msgFails ≥ 8 then u.lanRetrain else u
        | some need => (t.setLan { t.lan with
            rxSeq := want, nakOpen := false, naksOut := 0, msgFails := 0, rxData := need }).flitHeader f)

/-- No replay has come within 2 µs: NAK again (R379). -/
def execNakTimeout (s : State) : Res := .next (if s.lanOpen && s.lan.nakOpen then s.lanNak else s)

/-- Either side starts a retrain (R396). -/
def execLanineRetrain (s : State) : Res := .next s.lanRetrain

/-- A retrain ends: spares and width are placed and the replay begins, or the link is down (R396 to R398). -/
def execLanineRetrainEnd (r : TrainResult) (s : State) : Res :=
  .next (if !(s.lanUp && s.rbit regLnStatus 2) then s
    else if r.failed then s.lanDown
    else
      let t := s.placeLanes r.rxBad r.txBad
      if t.lanBroken then t.lanDown
      else
        let u := (t.setRbit regLnStatus 2 false).setLan { t.lan with nakOpen := false, naks := 0, naksOut := 0, msgFails := 0 }
        (u.lanReplay).lanDrain)

/-- Lanes over THRESH in successive windows: lane and count. -/
def hotLanes (old : List (Nat × Nat)) (counts : List Nat) (thresh : Nat) : List (Nat × Nat) :=
  (counts.zipIdx.filter (fun x => decide (x.1 > thresh))).map (fun x => (x.2, ((old.find? (fun o => o.1 == x.2)).map (fun o => o.2)).getD 0 + 1))

/-- A 1 ms window ends: a lane over THRESH in three successive ones is marked, and the link retrains (R397). The lists hold the
corrected bytes of each lane. -/
def execLaneErrorWindow (rx tx : List Nat) (s : State) : Res :=
  .next (if !s.lanUp then s
    else
      let th := s.rfld regLnLanecfg 15 0
      let a := hotLanes s.lan.rxHot rx th
      let b := hotLanes s.lan.txHot tx th
      let bad (h : List (Nat × Nat)) : List Nat := (h.filter (fun x => decide (3 ≤ x.2))).map (fun x => x.1)
      let t := s.setLan { s.lan with
        rxHot := a.filter (fun x => decide (x.2 < 3)), txHot := b.filter (fun x => decide (x.2 < 3))
        rxBad := s.lan.rxBad ++ bad a, txBad := s.lan.txBad ++ bad b }
      if bad a = [] ∧ bad b = [] then t else t.lanRetrain)

/-- The host drops its lanes (R398). -/
def execLanineLinkDown (s : State) : Res := .next s.lanDown

/-! ### Page messages (R392) -/

/-- LN_PGRES shows the oldest answer. -/
def State.showPgres (s : State) : State :=
  match s.lan.pgres with
  | [] => s.setReg regLnPgres 0
  | (id, st) :: _ => s.setReg regLnPgres (BitVec.ofNat 64 (id % 65536 * 2 ^ 48 + st % 16 * 2 ^ 4 + 1))

/-- PAGE_REQ goes out and SEND clears, once the link is up. -/
def State.pgreqSend (s : State) : State :=
  if s.rbit regLnPgreq 11 && s.lanUp then
    let v := s.reg regLnPgreq
    let t := (s.setRbit regLnPgreq 11 false).send .lanine 0x43 [fld v 47 12 * 4096, fld v 63 48, fld v 1 0] []
    t.setLan { t.lan with pgreq := t.lan.pgreq ++ [fld v 63 48] }
  else s

/-- A write of LN_PGREQ (registers of chapter 15). -/
def State.pgreqWrite (s : State) (v : Word) : State :=
  if s.rbit regLnPgreq 11 && bitOf v 11 then s
  else
    let keep := s.rbit regLnPgreq 11
    let w := (v &&& 0xFFFFFFFFFFFFF803#64)
    let w1 := if fld w 1 0 = 3 then setFld w 1 0 0 else w
    (s.setReg regLnPgreq (setBit w1 11 (bitOf v 11 || keep))).pgreqSend

/-- The firmware sends PAGE_REQ (R392). -/
def execLnPgreqSend (v : Word) (s : State) : Res := .next (if s.fwUp then s.pgreqWrite v else s)

/-- A write of 1 to LN_PGRES.VALID removes the answer shown. -/
def State.pgresPop (s : State) : State := (s.setLan { s.lan with pgres := s.lan.pgres.tail }).showPgres

/-- The firmware removes the oldest PAGE_DONE answer (R392). -/
def execLnPgresPop (s : State) : Res := .next (if s.fwUp then s.pgresPop else s)

/-- The host answers a page request; a full queue of 16 holds the message (R392). -/
def execPageDone (id st : Nat) (s : State) : Res :=
  .next (if !s.lanOpen || decide (s.lan.pgres.length ≥ 16) then s
    else (s.setLan { s.lan with pgres := s.lan.pgres ++ [(id, st)], pgreq := s.lan.pgreq.erase id }).showPgres)

/-- No PAGE_DONE within PAGETO: the request ends, and what the firmware does then, SK_ABORT or ACCESS, are commands of their own
(R392). -/
def execPageDoneTimeout (id : Nat) (s : State) : Res := .next (s.setLan { s.lan with pgreq := s.lan.pgreq.erase id })

/-! ### Link-up (R383, R399) -/

/-- The link trains up: buffers, sequence numbers and the host directory start empty, pending vectors send INTR at once (R395,
R399). `adv` holds what the host advertises: REQ headers, data lines, SNP, MSG; one below its minimum is refused and the link stays down
(R383). -/
def execLanineLinkUp (x : LinkUp) (s : State) : Res :=
  let cr (i : Nat) : Nat := x.credits.getD i 0
  .next (if !s.rbit regLnCfg 63 || s.lanUp || !s.joined 169 || !s.joined 170 || x.train.failed then s
    else if cr 0 < 512 ∨ cr 1 < 256 ∨ cr 2 < 128 ∨ cr 3 < 64 then s
    else
      let t := s.placeLanes x.train.rxBad x.train.txBad
      if t.lanBroken then t
      else
        let l := t.lan
        let u : State := { t with
          lan := { rxHot := l.rxHot, txHot := l.txHot, rxDead := l.rxDead, txDead := l.txDead, retrains := l.retrains
                   pgreq := l.pgreq, pgres := l.pgres, intr := l.intr
                   reqCr := cr 0, datCr := cr 1, snpCr := cr 2, msgCr := cr 3 }
          hdir := [], snoops := [] }
        let v := (u.setRfld regLnStatus 2 0 2).pgreqSend
        (upto 64).foldl (fun v i => v.intrTry i true) v)

/-- The holdoff of a vector ends (R395). -/
def execIntrHoldoffExpire (r : Nat) (s : State) : Res := .next (if r < 64 then s.intrTry r true else s)

/-! ### The module as home (R385 to R389, R393) -/

/-- A request that changes nothing is answered with ERR (R393). -/
def State.hostErr (s : State) (tag code : Nat) : State := (s.bump regLnErrRsp).send .lanine 0x35 [tag, code] []

/-- An outstanding snoop for a line. -/
def State.snoopFor (s : State) (line : Nat) : Option Snoop := s.snoops.find? (fun q => q.line == line)

/-- Write words of a line that came over the link: bytes that are enabled, then poison by PMASK, reported once as class I (R366,
R367, R385). -/
def State.linkWrite (s : State) (line : Nat) (d : List Byte) (be : Word) (pmask : Byte) : State :=
  let bytes := padB 64 d
  let s1 := (s.invalidate noCore line).countLoad line 64
  (upto 8).foldl (fun t w =>
    let a := line + 8 * w
    let was := t.poison.contains a
    let u := if fld be (8 * w + 7) (8 * w) = 255 then t.wrN a (sliceB bytes (8 * w) 8)
      else (upto 8).foldl (fun u i => if bitOf be (8 * w + i) then u.wrRaw (a + i) (sliceB bytes (8 * w + i) 1) else u) t
    if pmask.getLsbD w then
      let v := u.addPoison a
      if was then v else v.report ⟨0x33, v.wordUnit a, a, BitVec.ofNat 64 (unitWord lanUnit), none, false⟩
    else u) s1

/-- Every byte of a line. -/
def allBytes : Word := BitVec.allOnes 64

/-- Is a line in Reservoir? -/
def inReservoir (line : Nat) : Bool := decide (line < 0x10000000000)

/-- The set of the host directory (R386). -/
def dirSet (line : Nat) : Nat := line / 64 % 131072

/-- The host comes to hold a line: its entry is the most recently used of its set. -/
def State.dirAdd (s : State) (line : Nat) (owned : Bool) : State :=
  { s with hdir := ⟨line, owned⟩ :: s.hdir.filter (fun e => e.line != line) }
def State.dirDrop (s : State) (line : Nat) : State := { s with hdir := s.hdir.filter (fun e => e.line != line) }

/-- Room for a line in its set of 16 ways: where it is full, its least recently used line is invalidated first (R386). -/
def State.dirRoom (s : State) (line : Nat) (g : State → State) : State :=
  let others := s.hdir.filter (fun e => dirSet e.line == dirSet line && e.line != line)
  if others.length < 16 then g s
  else match others.getLast? with
    | some v => if (s.snoopFor v.line).isSome then s else (s.sendSnoop v.line true).bump regLnBackinv
    | none => g s

/-- A host read meets poison: counted, shown and reported as a poisoned read by the host (R368, R385). -/
def State.hostPoisonRead (s : State) (pa : Nat) : State :=
  let i := rvGroup pa / 4
  ((s.bump (regRvPoisonRd i)).setReg (regRvErraddr i) (BitVec.ofNat 64 (3 * 2 ^ 62 + alignDown pa 8))).report
    ⟨0x0B, s.wordUnit pa, alignDown pa 8, BitVec.ofNat 64 (unitWord lanUnit), none, false⟩

/-- A host request at its home: refused outside Reservoir and on Working pages; one on a line that a snoop is out for waits
(R385, R387). -/
def State.hostHome (s : State) (tag addr : Nat) (g : Nat → Nat → State → State) : Res :=
  let line := lineOf addr
  .next (if !s.lanOpen then s
    else if !inReservoir line then s.hostErr tag 3
    else if (s.snoopFor line).isSome then s
    else g line (s.vis line) s)

/-- The line data of an answer, or ERR POISON (R385). -/
def State.hostData (s : State) (tag line st : Nat) : State :=
  match s.firstPoison line 64 with
  | some w => (s.hostPoisonRead w).hostErr tag 5
  | none => (s.countLoad line 64).send .lanine 0x32 [tag, st] (s.rdN line 64)

/-- A read of the line in any way. -/
def State.hostRead (s : State) (tag line vis st : Nat) (hold : Option Bool) : State :=
  if vis = 0 then s.hostErr tag 1
  else if hold = some true && vis == 2 then s.hostErr tag 2
  else if (s.firstPoison line 64).isSome then s.hostData tag line st
  else match hold with
    | none => (s.memSnoop line 64).hostData tag line st
    | some own => s.dirRoom line (fun s =>
      ((if own then s.invalidate noCore line else s.memSnoop line 64).dirAdd line own).hostData tag line st)

/-- RD_SHR (R385). -/
def execRdShr (tag line : Nat) (s : State) : Res := s.hostHome tag line (fun l v s => s.hostRead tag l v 0 (some false))
/-- RD_OWN (R385). -/
def execRdOwn (tag line : Nat) (s : State) : Res := s.hostHome tag line (fun l v s => s.hostRead tag l v 1 (some true))
/-- RD_CUR (R385). -/
def execRdCur (tag line : Nat) (s : State) : Res := s.hostHome tag line (fun l v s => s.hostRead tag l v 2 none)

/-- A write request of the host (R385). -/
def State.hostWriteReq (s : State) (tag line vis : Nat) (d : List Byte) (be : Word) (pmask : Byte) : State :=
  if vis = 0 then s.hostErr tag 1
  else if vis = 2 then s.hostErr tag 2
  else ((s.dirDrop line).linkWrite line d be pmask).send .lanine 0x31 [tag] []

/-- WR_LINE (R385). -/
def execWrLine (tag line : Nat) (d : List Byte) (pmask : Byte) (s : State) : Res :=
  s.hostHome tag line (fun l v s => s.hostWriteReq tag l v d allBytes pmask)
/-- WR_PTL (R385). -/
def execWrPtl (tag line : Nat) (be : Word) (d : List Byte) (pmask : Byte) (s : State) : Res :=
  s.hostHome tag line (fun l v s => s.hostWriteReq tag l v d be pmask)

/-- WB_DIRTY: an owned Exchange line is written back; where a snoop was answered WBP its data end the snoop (R385, R388). -/
def execWbDirty (tag line : Nat) (d : List Byte) (pmask : Byte) (s : State) : Res :=
  let l := lineOf line
  .next (if !s.lanOpen then s
    else if !inReservoir l then s.hostErr tag 3
    else
      let held := s.hdir.any (fun e => e.line == l && e.owned)
      let t := if held && s.vis l == 1 then s.linkWrite l d allBytes pmask else s
      let u : State := { t.dirDrop l with snoops := t.snoops.filter (fun q => !(q.line == l && q.wbp)) }
      u.send .lanine 0x31 [tag] [])

/-- EVICT_CLEAN (R385). -/
def execEvictClean (tag line : Nat) (s : State) : Res :=
  let l := lineOf line
  .next (if !s.lanOpen then s
    else if !inReservoir l then s.hostErr tag 3
    else (s.dirDrop l).send .lanine 0x31 [tag] [])

/-- The host answers a snoop without data (R386, R388). -/
def execSrsp (tag line st : Nat) (s : State) : Res :=
  let l := lineOf line
  .next (match s.snoops.find? (fun q => q.tag == tag && q.line == l) with
    | none => s
    | some q =>
      if !s.lanOpen then s
      else
        let done : State := { s with snoops := s.snoops.erase q }
        match st with
        | 0 => done.dirDrop l
        | 1 => { done with hdir := done.hdir.map (fun e => if e.line = l then { e with owned := false } else e) }
        | 2 => if s.hdir.any (fun e => e.line == l) then
            { s with snoops := s.snoops.map (fun x => if x = q then { x with wbp := true } else x) }
          else done
        | _ => s)

/-- The host answers a snoop with modified data (R386). -/
def execSrspData (tag line st : Nat) (d : List Byte) (pmask : Byte) (s : State) : Res :=
  let l := lineOf line
  .next (match s.snoops.find? (fun q => q.tag == tag && q.line == l) with
    | none => s
    | some q =>
      if !s.lanOpen then s
      else
        let t : State := { s with snoops := s.snoops.erase q }
        let u := t.linkWrite l d allBytes pmask
        if st = 0 then u.dirDrop l
        else { u with hdir := u.hdir.map (fun e => if e.line = l then { e with owned := false } else e) })

/-- A snoop is left unanswered: every line the host held is invalid and the link goes down (R389). -/
def execSnoopTimeout (tag : Nat) (s : State) : Res :=
  .next (if s.snoops.any (fun q => q.tag == tag) then s.lanDown else s)

/-! ### The module as holder of host lines (R342, R388, R390) -/

/-- Poisoned words of a line as a PMASK. -/
def State.pmaskOf (s : State) (line : Nat) : Nat :=
  (upto 8).foldl (fun m w => m + b2n (s.poison.contains (line + 8 * w)) * 2 ^ w) 0

/-- The host snoops a line that the module's caches may hold: a write-back under way answers for it, modified data return, and
the line becomes invalid or shared (R384, R388). -/
def State.hostSnoop (s : State) (tag addr : Nat) (inv : Bool) : State :=
  let line := lineOf addr
  let key := hostPa line
  let dirty := s.sets.any (fun e => e.2.ways.any (fun (w : Option CLine) => (w.map (fun l => l.line == key && l.dirty)).getD false))
  let held := s.sets.any (fun e => e.2.has key)
  let t := if inv then s.invalidate noCore key else s.snoop noCore key
  if s.hreqs.any (fun r => r.line == line && r.op == .wbDirty) then t.send .lanine 0x33 [tag, line, 2] []
  else if dirty then t.send .lanine 0x34 [tag, line, if inv then 0 else 1, s.pmaskOf key] (s.rdN key 64)
  else t.send .lanine 0x33 [tag, line, if inv || !held then 0 else 1] []

/-- SNP_INV from the host (R390). -/
def execSnpInv (tag line : Nat) (s : State) : Res := .next (if s.lanOpen then s.hostSnoop tag line true else s)
/-- SNP_SHR from the host (R390). -/
def execSnpShr (tag line : Nat) (s : State) : Res := .next (if s.lanOpen then s.hostSnoop tag line false else s)

/-- A request that awaits the host under a tag. -/
def State.hostReq (s : State) (tag : Nat) : Option HostReq := s.hreqs.find? (fun r => r.tag == tag)

/-- Line data come from the host (R391). -/
def execData (tag st : Nat) (d : List Byte) (pmask : Byte) (s : State) : Res :=
  .next (match s.hostReq tag with
    | none => s
    | some r =>
      if !s.lanOpen || decide (2 < st) then s
      else if pmask ≠ 0 then s.hostPoison r false
      else
        let t : State := { s with hreqs := s.hreqs.erase r }
        match r.who with
        | .core h => (t.hostFill h r.line d).hostCoreDone h tag false
        | .cache c => if t.lineIn c (hostPa r.line) then t.hostFill ⟨c, 0⟩ r.line d else t
        | .stroke k n => (match t.skOp k n with
          | some o => t.setSk k { o with hl := o.hl ++ [(r.line, padB 64 d)] }
          | none => t))

/-- The host completes a write or an eviction (R391). -/
def execCmp (tag : Nat) (s : State) : Res :=
  .next (match s.hostReq tag with
    | none => s
    | some r =>
      if !s.lanOpen then s
      else
        let t : State := { s with hreqs := s.hreqs.erase r }
        match r.who with
        | .core h => t.hostCoreDone h tag true
        | .cache _ => t
        | .stroke k n => (match t.skOp k n with
          | some o => t.setSk k { o with hl := o.hl ++ [(ackKey r.line, [])] }
          | none => t))

/-- The virtual address of a Stroke request whose page the host does not serve: its memory side, or its other side where host
memory stands there. -/
def State.hostVa (s : State) (k : Nat) (o : SkOp) (line : Nat) : Nat :=
  let (va, n) := o.nextReq
  match (s.resolve k o.own.job .either (pieces va n)).2 with
  | .ok ps => if ps.any (fun p => p.host && (linesOf p.pa p.n).contains line) then va else skDest o.desc + o.pos
  | _ => va

/-- The host refuses a request (R391): NOT_RESIDENT halts or faults, every other code is DENIED. -/
def execErr (tag code : Nat) (s : State) : Res :=
  .next (match s.hostReq tag with
    | none => s
    | some r =>
      if !s.lanOpen then s
      else
        let t : State := { s with hreqs := s.hreqs.erase r }
        match r.who with
        | .cache _ => t
        | .core h => (match (t.ctx h).run with
          | .waiting (.host tg _ va op) =>
            if tg ≠ tag then t
            else if code = 6 then t.pageFault h va op.writes
            else (t.modCtx h (fun c => { c with run := .ready })).raise h .access va
          | _ => t)
        | .stroke k n => (match t.skOp k n with
          | some o => if code = 6 then t.skHalt k o (t.hostVa k o r.line) else t.skStop k o 1
          | none => t))

/-- A request stays unanswered past CTO (R391). -/
def execLanineRequestTimeout (tag : Nat) (s : State) : Res :=
  .next (match s.hostReq tag with
    | some r => s.hostLost r
    | none => s)

/-! ### Doorbells (R394, R500) -/

/-- The firmware looks at the tail that the Lanine layer keeps for a pair: one that runs more than the ring ahead of SQHEAD is
ignored and reported (R500). -/
def State.takeDoorbell (s : State) (r : Nat) : State :=
  let tail := s.rfld (dbTailKey r) 31 0
  let k := s.ring r
  if !s.fwUp || !k.created || k.tail == tail then s
  else if (tail + 2 ^ 32 - s.cbf r 32 4) % 2 ^ 32 > 2 ^ s.cbf r 16 1 then
    (s.bump regFwRingErr).post ⟨9, 0, 0, 0, resultBytes [(0, [BitVec.ofNat 8 r]), (8, leBytes 4 tail)]⟩
  else s.setRing r { k with tail := tail }

/-- A doorbell passes to the firmware (R394). -/
def execDoorbell (r tail : Nat) (s : State) : Res :=
  .next (if !s.lanOpen || decide (64 ≤ r) then s
    else ((s.setReg (dbTailKey r) (BitVec.ofNat 64 (tail % 2 ^ 32))).bump regLnDoorbell).takeDoorbell r)

end Sys2Proof.Machine
end

