-- ==== Sys2Proof/Machine/Recovery.lean ====
section
/-! DEFINITION. Recovery: restoring a job from a sealed folio, and settling the Fair-copy queues afterwards (R55, R65 to R69,
R283, R286, R324, R337, R448, R464, R551). -/

namespace Sys2Proof.Machine

/-! ### What a context becomes when it is restored (R107, R324) -/

/-- A captured context as a task to be resumed: an atomic that its home had performed and a wait for an interrupt are over,
every other waiting instruction, a DX.SLEEP in place among them, executes again (R107, R300). -/
def Ctx.settled (c : Ctx) : Ctx :=
  match c.run with
  | .waiting (.atomic dst v) => (c.setA dst v).next
  | .waiting .interrupt => c.next
  | .halted => c
  | _ => { c with run := .ready, yields := false }

/-- A captured task: its cluster, its context, and when it wakes, for one that sleeps. -/
structure Captured where
  k : Nat
  ctx : Ctx
  wake : Option Nat
  deriving DecidableEq, Repr

/-- The captured tasks of a job: resident, saved, and held from an earlier restore (R324). -/
def Image.tasks (im : Image) (j : Nat) : List Captured :=
  let own (k : Nat) (c : Ctx) : Ctx := { c.settled with task := { c.task with target := k } }
  let res := im.ctxs.filterMap (fun x => if x.1 < 256 ∧ x.2.run ≠ .idle ∧ x.2.task.job = j then
    some (⟨x.1 / 2, own (x.1 / 2) x.2, none⟩ : Captured) else none)
  let sav := im.dx.saved.filterMap (fun x => match x.2 with
    | some v =>
      if v.ctx.task.job = j then
        let e := im.dx.delay.find? (fun d => d.cluster == x.1 / 4 && d.what == .sleeper (x.1 % 4))
        some (⟨x.1 / 4, own (x.1 / 4) v.ctx, if v.sleeping then e.map (fun d => d.expiry) else none⟩ : Captured)
      else none
    | none => none)
  let old := im.dx.restored.filterMap (fun c =>
    if c.task.job = j then some (match c.run with
      | .waiting (.sleep e) => (⟨c.task.target, own c.task.target c.next, some e⟩ : Captured)
      | _ => ⟨c.task.target, own c.task.target c, none⟩)
    else none)
  res ++ sav ++ old

/-- Insert by rank. -/
def insertCaptured (x : Captured) : List Captured → List Captured
  | [] => [x]
  | y :: r => if outranks y.ctx.task true x.ctx.task true then y :: insertCaptured x r else x :: y :: r

/-- A captured task returns as a saved task, or stays in the restored image where its cluster has no free record (R324). -/
def State.restoreTask (s : State) (x : Captured) : State :=
  match s.freeRecord x.k, x.wake with
  | some r, none => s.putSaved x.k r (some ⟨x.ctx, false⟩)
  | some r, some e =>
    let t := s.putSaved x.k r (some ⟨x.ctx, true⟩)
    t.setDx { t.dx with delay := t.dx.delay ++ [DelayEnt.mk x.k e (.sleeper r)] }
  | none, none => s.setDx { s.dx with restored := s.dx.restored ++ [x.ctx] }
  | none, some e =>
    -- the instruction after DX.SLEEP is where it resumes; it wakes where it stands
    s.setDx { s.dx with restored := s.dx.restored ++ [{ x.ctx with pc := x.ctx.pc - 8, run := .waiting (.sleep e) }] }

/-! ### Engines (R140, R170, R200, R229, R254, R551) -/

/-- A captured entry as it resumes: a folio pause ends; a build starts again (R551). -/
def SkOp.restored (o : SkOp) : SkOp :=
  let st := if o.state = 5 then (if o.saved = 0 then 3 else o.saved) else o.state
  { o with state := st, saved := 0, held := false, hl := [], retried := false, tag := false }

/-- Restore a job's operations at one cluster: entries that other tasks now use are renumbered, near-memory requests and partials
follow their entry; halves that another task now owns wait until they are free. -/
def State.restoreOps (s : State) (im : Image) (j k : Nat) : State :=
  let c := smapGet (fun _ => {}) im.clu k
  let mine := c.sk.filter (fun o => o.own.job == j)
  let halfMine := (c.halfOwner.map (fun o => o.job == j)).getD false
  let wait := halfMine && (s.cl k).halfOwner.isSome
  let s1 := mine.foldl (fun (t : State) o =>
    let used := (t.cl k).sk.map (fun x => x.n) ++ (mine.map (fun x => x.n)).filter (fun n => n ≠ o.n)
    let n := if (t.cl k).sk.any (fun x => x.n == o.n) then freshTag used 64 else o.n
    let o1 := o.restored
    let o2 : SkOp := { o1 with n := n, seq := (t.cl k).nextSeq, park := wait && o.tiled }
    let t0 := t.modCl k (fun x => { x with sk := x.sk ++ [o2] })
    let t1 : State := if o2.kind = .gather then { t0 with lgq := t0.lgq.filter (fun e => e != (k, n)) ++ [(k, n)] } else t0
    { t1 with
      nbq := t1.nbq ++ (im.nbq.filter (fun q => q.c == k && q.n == o.n)).map (fun q => { q with n := n })
      parts := t1.parts ++ (im.parts.filter (fun q => q.c == k && q.n == o.n)).map (fun q => { q with n := n })
      pubq := t1.pubq ++ (im.pubq.filter (fun p => p.job == j && p.task == some (k, o.n))).map (fun p =>
        { p with task := some (k, n), started := false }) }) s
  let ql := c.ql.owner.filter (fun o => o.job == j)
  let sp := c.sp.owner.filter (fun o => o.job == j)
  let eng : List OwnerSave :=
    (match ql with
      | some o => [{ cluster := k, own := o, ql := some { c.ql with failed := false }, sp := none }]
      | none => []) ++
    (match sp with
      | some o => [{ cluster := k, own := o, ql := none, sp := some { c.sp with failed := false } }]
      | none => []) ++
    (c.br.filter (fun b => b.own.job == j)).map (fun b => { cluster := k, own := b.own, ql := none, sp := none, br := [b] })
  let cells := im.mem.filter (fun x => halvesOf k x.1)
  let s2 : State := { s1 with swaps := s1.swaps ++ eng ++ (match c.halfOwner with
    | some o => if wait then [{ cluster := k, own := o, ql := none, sp := none, halves := some c, cells := cells }] else []
    | none => []) }
  if halfMine && !wait then
    (s2.putCells (halvesOf k) im.mem).modCl k (fun x => { x with
      halfOwner := c.halfOwner, front := c.front, filled := c.filled, backFilled := c.backFilled, fills := c.fills })
  else s2

/-- Does a job own a cluster in the image (R324)? -/
def Image.owns (im : Image) (j k : Nat) : Bool :=
  (im.tasks j).any (fun x => x.k == k) || im.dx.clq.any (fun t => t.job == j && t.target == k)
    || (let c := smapGet (fun _ => {}) im.clu k
        c.sk.any (fun o => o.own.job == j) || ((c.ql.owner.toList ++ c.sp.owner.toList ++ c.halfOwner.toList).any (fun o => o.job == j)))

/-! ### Marks, pins, rings (R68, R271, R337) -/

/-- The signals that the stop of an image's folio held back: COUNT of the image does not have them yet, and the operations that sent them are
done (R337; DEDUCED, log 103). -/
def Image.heldSignals (im : Image) (n : Nat) : List MarkUpd :=
  (smapGet (fun _ => {}) im.marks n).inflight.filter (fun u => match u.op with
    | .signal _ => true
    | .set _ => true
    | _ => false)

/-- Marks of a job return to their mapping, COUNT and OVF at the folio; signals in flight and waits are gone, but for
those that the stop of the folio held (R337). -/
def State.restoreMarks (s : State) (im : Image) (j : Nat) : State :=
  let im0 (k : Nat) : Word := smapGet resetOf im.regs k
  let ofJob (v : Word) : Bool := bitOf v 63 && fld v 61 58 == j
  let t := (upto 256).foldl (fun (t : State) k => t.setReg (regMkMap j k) (im0 (regMkMap j k))) s
  let u := (upto 4096).foldl (fun (t : State) n =>
    let now := t.reg (regMkMark n)
    let old := im0 (regMkMark n)
    if ofJob old then (t.setReg (regMkMark n) (setFld old 39 32 0)).setMarkRt n { inflight := im.heldSignals n }
    else if ofJob now then (t.setReg (regMkMark n) (now &&& 0x4000FF00FFFFFFFF#64)).setMarkRt n {}
    else t) t
  u.mapCount

/-- The copy that a pin waits for is made now; one that cannot be made loses the pin (R271, R368). -/
def State.pinNow (s : State) (home j : Nat) (p : HotPend) : State :=
  match s.hotEnt home with
  | none => s
  | some e =>
    let t := (s.setEnt { e with pend := some p }).hotDone home
    match t.hotEnt home with
    | some x => if x.pin = some j then t.setEnt { x with due := false } else t.bump regHmPinLost
    | none => t.bump regHmPinLost

/-- A pin is applied again before the first task resumes: its copy is in place at once. Refused, it is lost (R270, R271). -/
def State.rePin (s : State) (j home units : Nat) : State :=
  let lost (t : State) : State := t.bump regHmPinLost
  match s.rowAt j home with
  | none => lost s
  | some (d, r) =>
    let k := d.owner r
    if (s.hotArea k).2 = 0 ∨ s.pinUsed j ≥ s.rfld (regHmPinq j) 15 0 ∨ s.pinnedWays home ≥ 4 then lost s
    else match s.hotEnt home with
      | some e =>
        if e.pin.isSome then lost s
        else match e.pend with
          | none => (s.setEnt { e with pin := some j }).setRfld (regHmPinq j) 47 32 (s.pinUsed j + 1)
          | some p => s.pinNow home j { p with pin := some j }
      | none =>
        let slice := hmSlice home
        let t := s.makeRoom k slice (64 * units)
        match t.hotPlace k slice (64 * units), t.hotWay home none with
        | some target, some (way, victim) => (t.hotStart home units way target victim (some j)).pinNow home j ⟨target, some j⟩
        | _, _ => lost t

/-- Pins of a job are those of the image (R271). -/
def State.restorePins (s : State) (im : Image) (j : Nat) : State :=
  (im.pins.filter (fun p => p.1 == j)).foldl (fun t p => t.rePin j p.2.1 p.2.2) (s.endPins j)

/-- Input rings of a job return to the positions of the image (R68, R448). -/
def State.restoreRings (s : State) (im : Image) (j : Nat) : State :=
  im.rings.foldl (fun (t : State) r =>
    if t.rbit (regEnIng r.1) 63 && t.rfld (regEnIng r.1) 62 59 == j then
      t.homeForce (t.rfld (regEnIng r.1) 35 0 * 4096) (leBytes 8 r.2.toNat)
    else t) s

/-! ### Restoring a job (R65, R464) -/

/-- Cached lines of ranges that are restored are gone. -/
def State.dropCached (s : State) (inRange : Nat → Bool) : State :=
  { s with
    sets := smapMap (fun _ => {}) (fun _ x => { x with ways := x.ways.map (fun (w : Option CLine) => w.filter (fun l => !inRange l.line)) }) s.sets
    caches := smapMap (fun _ => {}) (fun _ x => { x with evb := x.evb.filter (fun l => !inRange l.line) }) s.caches }

/-- Captured memory returns, and every poisoned word of it is as the image holds it (R367, R456, R464). -/
def State.restoreMem (s : State) (im : Image) (j : Nat) : State :=
  let inRange (pa : Nat) : Bool := (s.job j).captured.any (fun r => decide (r.1 ≤ pa ∧ pa < r.1 + r.2))
  let t := (s.dropCached inRange).putCells inRange im.mem
  { t with poison := t.poison.filter (fun w => !inRange w) ++ im.poison.filter inRange }

/-- The control areas of the clusters that the job owned return with it. -/
def State.restoreSheets (s : State) (im : Image) (j : Nat) : State :=
  ((upto 128).filter (fun k => im.owns j k)).foldl (fun (t : State) k =>
    t.putCells (fun pa => decide (sheetBase k + 0x140000 ≤ pa ∧ pa < sheetBase k + 0x180000)) im.mem) s

/-- Queues of the job return (R324). -/
def State.restoreQueues (s : State) (im : Image) (j : Nat) : State :=
  let mine (l : List Task) : List Task := l.filter (fun t => t.job == j)
  s.setDx { s.dx with
    buf := s.dx.buf ++ mine im.dx.buf
    devq := s.dx.devq ++ mine im.dx.devq
    expired := s.dx.expired ++ mine im.dx.expired
    spill := s.dx.spill ++ mine im.dx.spill
    clq := s.dx.clq ++ mine im.dx.clq
    delay := s.dx.delay ++ im.dx.delay.filter (fun d => match d.what with
      | .spawn t => t.job == j
      | .sleeper _ => false)
    nextNum := smapSet (fun _ => 0) s.dx.nextNum j (smapGet (fun _ => 0) im.dx.nextNum j)
    prevStep := smapSet (fun _ => (0, 0)) s.dx.prevStep j (smapGet (fun _ => (0, 0)) im.dx.prevStep j) }

/-- Is the step-end commit of a step withdrawn by a restart from an image: recorded above the image's resume CSN (R66)? -/
def State.stepWithdrawn (s : State) (im : Image) (j : Nat) (step : Word) : Bool :=
  match s.stepCsn j step with
  | some n => decide ((smapGet (fun _ => ((0 : Word), (0 : Word))) im.dx.prevStep j).2.toNat < n)
  | none => false

/-- Staging editions whose parent step is withdrawn are discarded, and each table's last STEP is that of the image (R286). No build runs:
those of the image are issued again (R551). -/
def State.restoreTables (s : State) (im : Image) (j : Nat) : State :=
  let last (k : Nat) : Word := ((im.lasts.find? (fun x => x.1 == k)).map (fun x => x.2)).getD 0
  { s with tables := smapMap (fun _ => {}) (fun k t =>
      if k / 4096 = j then
        let gone := t.slots.any (fun e => e.role = .staging && s.stepWithdrawn im j e.step)
        let u := if gone then t.discard else { t with build := none }
        { u with lastStep := last k }
      else t) s.tables }

/-- The job's publications stand in the order of the image, those that came later behind them (R551). -/
def State.restorePubs (s : State) (im : Image) (j : Nat) : State :=
  let same (a b : PubEnt) : Bool := a.host == b.host && a.task.map (fun t => t.1) == b.task.map (fun t => t.1) && a.tables == b.tables
    && a.step == b.step && a.result == b.result
  let r := im.pubq.foldl (fun (acc : List PubEnt × List PubEnt) p =>
    match acc.2.find? (same p) with
    | some x => (acc.1 ++ [x], acc.2.erase x)
    | none => acc) ([], s.pubq.filter (fun p => p.job == j))
  { s with pubq := s.pubq.filter (fun p => p.job != j) ++ r.1 ++ r.2 }

/-- The builds of the image that ran are issued again from their start (R551). -/
def State.restoreBuilds (s : State) (im : Image) (j : Nat) : State :=
  ((upto 128).filter (fun k => im.owns j k)).foldl (fun (t : State) k => (t.cl k).sk.foldl (fun (t : State) o =>
    if o.kind = .build ∧ o.own.job = j ∧ o.state = 3 then t.buildBegin k o else t) t) s

/-- The resume CSN of a job (R65). -/
def Image.resumeCsn (im : Image) (j : Nat) : Word := (smapGet (fun _ => (0, 0)) im.dx.prevStep j).2

/-- Place a job's captured state (R464 steps 3 and 4, R428 steps 4 and 5). Its step ends above the resume CSN are withdrawn (R66). -/
def State.placeJob (s : State) (im : Image) (j : Nat) : State :=
  let s1 := (s.restoreMem im j).restoreSheets im j
  let s2 : State := { s1 with pubq := s1.pubq.filter (fun p => p.job != j || p.task.isNone) }
  let s3 := (s2.restoreQueues im j).restoreTables im j
  let s4 := ((upto 128).filter (fun k => im.owns j k)).foldl (fun (t : State) k => t.restoreOps im j k) s3
  let s5 := ((im.tasks j).foldl (fun l x => insertCaptured x l) []).foldl (fun (t : State) x => t.restoreTask x) s4
  let s6 := ((((s5.restorePubs im j).restoreBuilds im j).restoreMarks im j).restorePins im j).restoreRings im j
  let s7 := s6.setRbit (regMkJobstat j) 0 false
  let gone := ((im.gone.find? (fun x => x.1 == j)).map (fun x => x.2)).getD []
  let s8 := s7.setJob j { s7.job j with
    held := false
    resume := im.resumeCsn j
    boundary := false
    gone := gone ++ [((im.resumeCsn j).toNat, s7.assignedCsn)] }
  s8.reclaim j

/-- Restore a job's captured state from an image; its tables have been rolled back (R464). -/
def State.restoreJob (s : State) (im : Image) (j : Nat) : State := ((s.dropTasks j).dropNear).placeJob im j

/-- RESUMED names the job, its resume CSN, the cause and the Blotter record (R67, R506). -/
def State.postResumed (s : State) (j cause record : Nat) : State :=
  s.post ⟨1, j, cause, (s.job j).resume, resultBytes [(0, leBytes 8 record)]⟩

end Sys2Proof.Machine
end

