-- ==== Sys2Proof/Machine/TwinOps.lean ====
section
/-! DEFINITION. The Carbon link and what a member of a pair does on its own: frames, acceptance and replay, departing, the
pairing record, taking over (R400 to R407, R411, R425 to R428, R472). -/

namespace Sys2Proof.Machine

def carbonUnit : UnitId := ⟨8, 1⟩

def State.setTwin (s : State) (t : Twin) : State := { s with twin := t }
/-- Are frames accepted (CB_STATUS.LINKUP)? -/
def State.cbUp (s : State) : Bool := s.rbit regCbStatus 10
/-- May frames cross: the link is up and no retrain runs. -/
def State.cbOpen (s : State) : Bool := s.cbUp && !s.twin.retraining

/-- FAULT_N is asserted, and held until module reset (R472). -/
def State.faultPin (s : State) : State := (s.setRbit regBlStatus 1 true).setRbit regFePins 8 true

/-! ### Buffers of the link (R406) -/

/-- A member that resets, or whose role changes other than into or out of a hold, discards its buffers (R406); signals of
transfers under way are lost (R340). -/
def State.cbDiscard (s : State) : State :=
  s.setTwin { s.twin with
    sendq := [], replay := [], resend := [], txSeq := 0, rxSeq := 65535, credit := 128, freed := 0, nakDue := false
    nakOpen := false, naks := 0, naksOut := 0, xfers := [], keep := false, txPart := [], rxPart := [] }

/-- The link goes down: replay buffers, numbers and receive positions are kept (R406); a resync starts again from its
beginning when the pairing is settled again (R430). -/
def State.cbDown (s : State) : State :=
  if !s.cbUp then s
  else
    let t := (s.setRbit regCbStatus 10 false).setTwin { s.twin with
      retraining := false, nakOpen := false, nakDue := false, paired := false, keep := false }
    if t.rbit regCbStatus 12 && t.role == 4 then
      let u := (t.setRbit regCbStatus 12 false).cbDiscard
      let v := u.setTwin { u.twin with folioAll := false }
      -- a folio that was on its way to the twin is sealed here, as SOLO seals (R421)
      if v.folioPhase = 3 then ({ v with folio := { v.folio with toTwin := false } } : State).folioSeal
      else { v with folio := { v.folio with toTwin := false } }
    else t

/-- A retrain starts; a fourth within 1 s takes the link down (R406). -/
def State.cbRetrain (s : State) : State :=
  if !s.cbOpen then s
  else
    let now := s.time.toNat
    let recent := s.twin.retrains.filter (fun t => decide (now - t < 1000000000))
    let t := (s.bump regCbRetrain).setTwin { s.twin with retrains := now :: recent }
    if recent.length ≥ 3 then t.cbDown else t.setTwin { t.twin with retraining := true }

/-- One lane of a direction is replaced by its spare, or left out (R406). -/
def State.cbSpare (s : State) (rx : Bool) (lane : Nat) : State :=
  let bad := if rx then s.twin.rxBad else s.twin.txBad
  if 16 ≤ lane || bad.contains lane then s
  else
    let t := s.setTwin (if rx then { s.twin with rxBad := bad ++ [lane] } else { s.twin with txBad := bad ++ [lane] })
    if bad.isEmpty then
      ((t.setRbit regCbStatus 8 true).bump regCbLaneSpare).report ⟨0x47, carbonUnit, 0, BitVec.ofNat 64 lane, none, false⟩
    else t.setRbit regCbStatus 9 true

/-- Is one half of the 16 lanes whole once the spare is placed? -/
def halfWhole8 (bad : List Nat) : Bool :=
  let dead := bad.drop 1
  dead.all (fun l => decide (l < 8)) || dead.all (fun l => decide (8 ≤ l))

/-- Spares and width are chosen from the lanes that a training found bad; without a whole half the training has failed. -/
def State.cbLanes (s : State) (r : TrainResult) : State × Bool :=
  let t := r.txBad.foldl (fun t l => t.cbSpare false l) (r.rxBad.foldl (fun t l => t.cbSpare true l) s)
  (t, !r.failed && halfWhole8 t.twin.rxBad && halfWhole8 t.twin.txBad)

/-- A replay begins: every frame that is not acknowledged is sent again (R380, R406). -/
def State.cbReplay (s : State) : State := s.setTwin { s.twin with resend := s.twin.replay }

/-- NAK goes out with the next frame (R379); a frame that has drawn 8 of them starts a retrain (R380). -/
def State.cbNak (s : State) : State :=
  let t := s.setTwin { s.twin with nakDue := true, nakOpen := true, naksOut := s.twin.naksOut + 1 }
  if t.twin.naksOut ≥ 8 then t.cbRetrain else t

/-- A frame fails (R379, R406). -/
def State.cbFail (s : State) : State :=
  let t := s.bump regCbCrcErr
  if t.twin.nakOpen then t else t.cbNak

/-! ### Sending frames (R405 to R407, R411) -/

/-- The body of a record: PAIR holds identity, numbers, journal record and DIVERGED flag in their order, every other type its numbers and
then its data (R407). -/
def CbRec.body (r : CbRec) : List Byte :=
  let nums (l : List Nat) : List Byte := l.flatMap (fun a => leBytes 8 a)
  if r.ty = 1 then r.data.take 24 ++ nums (r.args.take 6) ++ r.data.drop 24 ++ nums (r.args.drop 6) else nums r.args ++ r.data

/-- The bytes of a record: its header and its body, whose length is a multiple of 8 (R407). -/
def CbRec.bytes (r : CbRec) : List Byte :=
  let n := (r.body.length + 7) / 8 * 8
  leBytes 1 r.ty ++ leBytes 1 r.job ++ leBytes 2 0 ++ leBytes 4 n ++ padB n r.body

/-- Records leave the queue in order until their bytes fill the room; the last one may run over it (R407). -/
def takeRecs : Nat → List CbRec → List Byte × List CbRec
  | _, [] => ([], [])
  | room, r :: rest => if room = 0 then ([], r :: rest) else
    let x := takeRecs (room - r.bytes.length) rest
    (r.bytes ++ x.1, x.2)

/-- A frame under its CRC-32C over bytes 0 to 4,091 (R405). -/
def crcFrame (b : List Byte) : List Byte := b ++ leBytes 4 (crc32c b).toNat

/-- The bytes of a frame; what its payload leaves free is PAD, zeros (R405, R407). -/
def frameBytes (seq ack ftype role credit time : Nat) (nak : Bool) (payload : List Byte) : List Byte :=
  crcFrame (leBytes 2 seq ++ leBytes 2 ack ++ leBytes 1 (b2n nak + 2 * ftype) ++ leBytes 1 role ++ leBytes 2 credit ++ leBytes 8 time
    ++ padB 4076 payload)

/-- A frame with FTYPE 1, and else unchanged: the first of a replay (R380). -/
def replayFirst (b : List Byte) : List Byte :=
  crcFrame (b.take 4 ++ leBytes 1 ((b.getD 4 0#8).toNat % 2 + 2) ++ sliceB b 5 4087)

/-- A frame leaves with its header fields SEQ, ACK, FLAGS, ROLE, CREDIT and TIME (R405). -/
def State.cbFrame (s : State) (seq ftype : Nat) (payload : List Byte) : State :=
  let t := s.twin
  let u : State := { s with
    out := ⟨.carbon, ftype, [seq, t.rxSeq, b2n t.nakDue, s.role, t.freed, s.time.toNat],
      frameBytes seq t.rxSeq ftype s.role t.freed s.time.toNat t.nakDue payload⟩ :: s.out }
  u.setTwin { t with nakDue := false, freed := 0 }

/-- A frame of the replay buffer leaves again, in order and unchanged but for the FTYPE of the first (R380, R406). -/
def State.cbAgain (s : State) (seq : Nat) (first : Bool) (b : List Byte) : State :=
  ({ s with out := ⟨.carbon, b2n first, [seq], if first then replayFirst b else b⟩ :: s.out } : State).bump regCbReplay

/-- The link layer sends its next frame: one of a replay, one of new records while the replay buffer of 256 and the receiver's
buffers have room, else an idle frame. An idle frame carries the number of the next payload frame and takes none (DEDUCED,
log 45). -/
def State.cbSendFrame (s : State) : State :=
  if !s.cbOpen then s
  else match s.twin.resend with
    | (seq, b) :: rest =>
      (s.cbAgain seq (decide (s.twin.resend.length = s.twin.replay.length)) b).setTwin { s.twin with resend := rest }
    | [] =>
      if (s.twin.sendq.isEmpty && s.twin.txPart.isEmpty) || decide (s.twin.replay.length ≥ 256) || decide (s.twin.credit = 0) then
        s.cbFrame s.twin.txSeq 2 []
      else
        let x := takeRecs (4076 - s.twin.txPart.length) s.twin.sendq
        let all := s.twin.txPart ++ x.1
        let seq := s.twin.txSeq
        let b := frameBytes seq s.twin.rxSeq 0 s.role s.twin.freed s.time.toNat s.twin.nakDue (all.take 4076)
        let t := s.cbFrame seq 0 (all.take 4076)
        t.setTwin { t.twin with
          sendq := x.2, txPart := all.drop 4076, replay := t.twin.replay ++ [(seq, b)], txSeq := (seq + 1) % 65536
          credit := t.twin.credit - 1 }

/-! ### Records in frames (R407, R408, R412) -/

/-- Does the body of a DELTA keep its layout: reserved bytes, the row number, and the length that its codes ask for? -/
def deltaBodyOk (b : List Byte) : Bool :=
  let le (o n : Nat) : Nat := leNat (sliceB b o n)
  let words := le 4 4
  let codes := sliceB b 24 ((words + 3) / 4)
  let n := (codes.map (fun (c : Byte) => deltaLen (c.toNat % 4) + deltaLen (c.toNat / 4 % 4) + deltaLen (c.toNat / 16 % 4)
    + deltaLen (c.toNat / 64 % 4))).sum
  let len := 24 + codes.length + n
  decide (24 ≤ b.length) && decide (le 2 2 = 0) && decide (le 14 2 = 0) && decide (b.length = (len + 7) / 8 * 8)
    && decide (leNat (b.drop len) = 0)

/-- Does a body keep the layout that the spec gives its type? Layouts that it does not give are not checked (DESIGN CHOICE, log 107). -/
def bodyKeeps (ty : Nat) (b : List Byte) : Bool :=
  if ty = 2 then decide (b.length = 64) || (decide (b.length = 128) && decide (b.getD 24 0#8 = 3#8))
  else if ty = 4 then deltaBodyOk b
  else if ty = 3 || ty = 8 then decide (b.length = 8)
  else true

/-- The records of a stream of bytes: the bytes of a record of which more is to come, or none where a TYPE is unassigned or a header or body
breaks its layout. PAD fills the rest of the frame. -/
def recsCheck : Nat → List Byte → Option (List Byte)
  | 0, b => some b
  | n + 1, b =>
    let ty := (b.getD 0 0#8).toNat
    let len := leNat (sliceB b 4 4)
    if ty = 0 then some []
    else if ty > 0x0F then none
    else if b.length < 8 then some b
    else if leNat (sliceB b 2 2) ≠ 0 ∨ len % 8 ≠ 0 then none
    else if b.length < 8 + len then some b
    else if !bodyKeeps ty (sliceB b 8 len) then none
    else recsCheck n (b.drop (8 + len))

end Sys2Proof.Machine

namespace Sys2Proof

/-- The fields of a frame (R405). -/
def Frame.le (f : Frame) (o n : Nat) : Nat := Machine.leNat (Machine.sliceB f.bytes o n)
def Frame.seq (f : Frame) : BitVec 16 := BitVec.ofNat 16 (f.le 0 2)
def Frame.ack (f : Frame) : BitVec 16 := BitVec.ofNat 16 (f.le 2 2)
def Frame.nak (f : Frame) : Bool := (f.le 4 1).testBit 0
def Frame.ftype (f : Frame) : BitVec 2 := BitVec.ofNat 2 (f.le 4 1 / 2)
def Frame.role (f : Frame) : Nat := f.le 5 1
def Frame.credit (f : Frame) : BitVec 16 := BitVec.ofNat 16 (f.le 6 2)
def Frame.time (f : Frame) : Word := BitVec.ofNat 64 (f.le 8 8)
def Frame.payload (f : Frame) : List Byte := Machine.sliceB f.bytes 16 4076
/-- Bytes 4,092 to 4,095 hold the CRC-32C over bytes 0 to 4,091. -/
def Frame.crcOk (f : Frame) : Bool := decide (f.le 4092 4 = (Machine.crc32c (f.bytes.take 4092)).toNat)

end Sys2Proof

namespace Sys2Proof.Machine

/-! ### Pairing (R400, R401) -/

/-- The pairing identity: the partner's identity in the first 24 bytes, this member's letter in byte 24 (DESIGN CHOICE, log 46).
None while the entry is empty. -/
def State.pairing (s : State) : Option (List Byte × Nat) :=
  let v := (s.led 4).value
  if v.all (fun b => b == 0#8) then none else some (sliceB v 0 24, (v.getD 24 0#8).toNat)

/-- This module's own identity, as PAIR carries it: the first 24 bytes of IDENTITY. -/
def State.identity (s : State) : List Byte := padB 24 ((s.led 1).value.take 24)

/-- A journal record by its CSN, while it has not been overwritten (R44): its 64 bytes. -/
def State.journalFind (s : State) (csn : Nat) : Option (List Byte) :=
  (upto (min s.written 65536)).findSome? (fun i =>
    let a := s.jbase + 64 + 64 * ((s.written - 1 - i) % 65536)
    if s.rdLe a 8 = csn then some (s.rdN a 64) else none)

/-- PAIR leaves (R401, R407). -/
def State.sendPair (s : State) (diverged : Bool) : State :=
  let letter := (s.pairing.map (fun p => p.2)).getD 0
  let rc := (s.journalFind s.recordedCsn).getD (List.replicate 64 0#8)
  (s.cbSend 0x01 0xFF [letter, s.role, s.recordedCsn, s.sealedCsn, s.takeovers, (s.reg regCbSealed).toNat, b2n diverged]
    (s.identity ++ rc)).setTwin
    { (s.cbSend 0x01 0xFF [letter, s.role, s.recordedCsn, s.sealedCsn, s.takeovers, (s.reg regCbSealed).toNat, b2n diverged]
      (s.identity ++ rc)).twin with paired := true }

/-- Are two role codes those of a pair that may keep its roles over a loss (R406, R426)? -/
def rolesMatch (mine theirs : Nat) : Bool :=
  ((mine == 2 || mine == 5) && (theirs == 3 || theirs == 6)) || ((mine == 3 || mine == 6) && (theirs == 2 || theirs == 5))

/-- A hold ends: HOLD-ACTIVE returns to ACTIVE and HOLD-STANDBY to STANDBY (R426). -/
def State.unhold (s : State) : State :=
  let t := s.setTwin { s.twin with lapsed := false }
  if t.role = 5 then (t.setRole 2).folioSettle.commitsGoOn
  else if t.role = 6 then t.setRole 3
  else t

/-- An accepted frame renews the lease; with roles kept, a hold ends (R425, R426). -/
def State.heartbeat (s : State) (role : Nat) : State :=
  if rolesMatch s.role role then s.unhold else s

/-- What an accepted header does: acknowledgement, credits, replay (R406). -/
def State.frameHeader (s : State) (f : Frame) : State :=
  let t := s.twin
  let n := match t.replay.findIdx? (fun x => x.1 == f.ack.toNat) with
    | some i => i + 1
    | none => 0
  let t1 := { t with
    replay := t.replay.drop n
    resend := t.resend.filter (fun x => !(t.replay.take n).any (fun y => y.1 == x.1))
    naks := if n = 0 then t.naks else 0
    credit := t.credit + f.credit.toNat }
  let u := s.setTwin t1
  let v := if f.nak then
      let w := (u.cbReplay).setTwin { u.cbReplay.twin with naks := u.twin.naks + 1 }
      if w.twin.naks ≥ 8 then w.cbRetrain else w
    else u
  v.heartbeat f.role

/-! ### Departing (R427, R429) -/

/-- DEPART: dispatch, look-ups and commits stop, the record leaves, the module stays DEPARTED until reset; a folio in progress
is abandoned (R421, R427, R472). -/
def State.depart (s : State) (cause : Nat) : State :=
  if s.role = 7 then s
  else
    let t := (s.folioAbandon.cbSend 0x0B 0xFF [cause] []).setRole 7
    ({ t with dx := { t.dx with stopped := true } } : State).faultPin

/-- A job of a pair: an unpaired module has no twin to send DEPART to (R460, R469). -/
def State.isPaired (s : State) : Bool := s.role == 2 || s.role == 3 || s.role == 5 || s.role == 6

/-! ### Taking over (R428) -/

/-- Apply a delta to a row: new is old xor the delta's words (R412). -/
def State.applyDelta (s : State) (j : Nat) (d : DeltaRec) : State :=
  match s.desc j d.table with
  | none => s
  | some t =>
    let home := t.homeOf d.row
    d.xors.foldl (fun (u : State) x => u.memWrite (home + 4 * x.1) (leBytes 4 (u.rdLe (home + 4 * x.1) 4 ^^^ x.2.toNat))) s

/-- Every delta marked for application is applied in log order and its space is free (R413). -/
def State.applyMarked (s : State) : State :=
  let t := (s.twin.plog.filter (fun e => e.marked)).foldl (fun (u : State) e => u.applyDelta e.job e.d) s
  t.setTwin { t.twin with plog := t.twin.plog.filter (fun e => !e.marked) }

/-- A takeover, steps 1 to 3: SOLO, TAKEOVERS, a publication activated at its SEAL is recorded first, unmarked deltas and builds
under way are gone, TAKEOVER is posted; the image is restored until TAKEOVER_RESTORE_END (R428). -/
def State.takeover (s : State) : State :=
  let s1 := (s.cbDiscard.setRole 4)
  let s2 := (s1.setJr 24 (s1.takeovers + 1)).bump regCbTakeover
  let s3 := match s2.twin.pubSeal with
    | some x => (match x.pub with
      | some r => (s2.journal r).seal r.csn.toNat
      | none => s2)
    | none => s2
  let s4 := s3.setTwin { s3.twin with
    lapsed := false, pubSeal := none, ackHeld := none, heldDelta := none, builds := [], units := [], restoring := true
    plog := s3.twin.plog.filter (fun e => e.marked), faults := s3.twin.faults + 1 }
  let s5 : State := { s4 with tables := smapMap (fun _ => {}) (fun _ t => t.discard) s4.tables }
  let s6 := if s5.assignedCsn < s5.recordedCsn then s5.setJr 32 s5.recordedCsn else s5
  (s6.post ⟨6, 0xFF, 0, BitVec.ofNat 64 s6.recordedCsn, resultBytes [(0, leBytes 8 s6.takeovers)]⟩).folioSettle

/-! ### Orders (R416, R427) -/

/-- An order is refused: its bit clears and CB_ORDER_REJ counts it. -/
def State.orderRej (s : State) (b : Nat) : State := (s.setRbit regCbOrder b false).bump regCbOrderRej

/-- CB_ORDER.FOLIO (R416). -/
def State.orderFolio (s : State) : State :=
  if s.role = 3 ∨ s.role = 6 ∨ s.role = 7 then s.orderRej 2
  else (s.setRbit regCbOrder 2 true).requestFolio true

/-- CB_ORDER.TAKEOVER, accepted only in HOLD-STANDBY (R427). -/
def State.orderTakeover (s : State) : State := if s.role = 6 then s.takeover else s.orderRej 1

/-- CB_ORDER.DEPART: the cause code of an order is not given, and is free (R427). -/
def State.orderDepart (s : State) : State :=
  let (w, t) := s.draw
  t.depart (w.toNat % 256)

/-- A write of CB_ORDER: every bit written 1 is an order. -/
def State.orderWrite (s : State) (v : Word) : State :=
  let s1 := if bitOf v 2 then s.orderFolio else s
  let s2 := if bitOf v 1 then s1.orderTakeover else s1
  if bitOf v 0 then s2.orderDepart else s2

/-! ### Configuration writes (R424, R425) -/

/-- One adjustment of a written field. -/
def State.clampField (s : State) (k hi lo mn mx : Nat) : State :=
  let x := s.rfld k hi lo
  let y := max mn (min mx x)
  if x = y then s else (s.setRfld k hi lo y).bump regCbPolClamp

/-- A write of CB_CFG; clearing EN takes the link down (registers of chapter 16). -/
def State.cbCfgWrite (s : State) (v : Word) : State :=
  let t := ((s.swReg regCbCfg v).clampField regCbCfg 11 0 1000 4000).clampField regCbCfg 47 32 1 65535
  if t.rbit regCbCfg 63 then t else t.cbDown

/-- A write of CB_FOLIOCFG (R424). -/
def State.folioCfgWrite (s : State) (v : Word) : State :=
  (((s.swReg regCbFoliocfg v).clampField regCbFoliocfg 41 32 1 600).clampField regCbFoliocfg 25 16 1 600).clampField regCbFoliocfg 9 0 1 600

end Sys2Proof.Machine
end

