-- ==== Sys2Proof/Machine/BlotterOps.lean ====
section
/-! DEFINITION. What the Blotter does with a report: its class, the affected jobs, the fence, the reaction, fills, folds and the
restarts that follow (R449 to R472, R509). -/

namespace Sys2Proof.Machine

/-! ### Classes and units (R451, R458, R471) -/

inductive BlClass where
  | c
  | f
  | m
  | i
  deriving DecidableEq, Repr

/-- The class of a detector code (R451). A code that R451 does not list stands for a broken obligation with no stated outcome,
which is a fault (R2; DESIGN CHOICE, log 63). -/
def blClass (code : Nat) : BlClass :=
  if code = 0x20 ∨ code = 0x21 then .m
  else if 0x30 ≤ code ∧ code ≤ 0x34 then .i
  else if 0x40 ≤ code ∧ code ≤ 0x47 then .c
  else .f

def BlClass.num : BlClass → Nat
  | .c => 0 | .f => 1 | .m => 2 | .i => 3

/-- What a fault of a unit concerns (R458, R461, R548). -/
inductive BlUnit where
  | cluster (p : Nat)
  | ligature (i : Nat)
  | slice (i : Nat)
  | allSlices
  | shared                         -- a unit that every job uses: class M
  | copyist (c : Nat)
  | link (i : Nat)
  | checker                        -- the Blotter itself
  | other                          -- no unit of a job
  deriving DecidableEq, Repr

/-- A power domain as a unit (R548). -/
def domUnit (d : Nat) : BlUnit :=
  if d < 144 then .cluster d
  else if d < 148 then .shared
  else if d < 152 then .ligature (d - 148)
  else if d < 160 then .shared
  else if d = 160 then .allSlices
  else if d < 163 then .shared
  else if d < 167 then .copyist (d - 163)
  else if d < 169 then .checker
  else if d < 171 then .link 0
  else if d = 171 then .link 1
  else if d < 174 then .link (d - 170)
  else if d = 174 then .shared
  else .other

def unitOf (u : UnitId) : BlUnit :=
  match u.kind with
  | 0 => if u.index < 144 then .cluster u.index else .other
  | 1 => if u.index < 1152 then .cluster (u.index / 8) else .other
  | 2 => if u.index < 4 then .ligature u.index else .other
  | 3 => if u.index < 4 then .slice u.index else .other
  | 4 => .shared
  | 5 => .shared
  | 6 => if u.index < 4 then .copyist u.index else .other
  | 7 => .shared
  | 8 => if u.index < 4 then .link u.index else .other
  | 9 => domUnit u.index
  | 10 => if u.index = 0 then .shared else .checker
  | _ => .other

/-- The logical clusters of a physical one. -/
def State.logicalsOf (s : State) (p : Nat) : List Nat := ((upto 8).map (fun i => 8 * (p / 9) + i)).filter (fun k => s.phys k == p)

/-- Does a job own a logical cluster (R324)? -/
def State.owns (s : State) (j k : Nat) : Bool :=
  (upto 2).any (fun c => (s.ctx ⟨k, c⟩).run ≠ .idle && (s.ctx ⟨k, c⟩).task.job == j)
    || s.dx.saved.any (fun x => x.1 / 4 == k && (x.2.map (fun v => v.ctx.task.job == j)).getD false)
    || s.dx.restored.any (fun c => c.task.target == k && c.task.job == j)
    || s.dx.clq.any (fun t => t.target == k && t.job == j)
    || (s.cl k).sk.any (fun o => o.own.job == j)
    || (((s.cl k).ql.owner.toList ++ (s.cl k).sp.owner.toList ++ (s.cl k).halfOwner.toList).any (fun o => o.job == j))

/-- Does a page table map a device physical address? `n` levels are left. -/
def State.mapsPa (s : State) (pa : Nat) : Nat → Nat → Bool
  | 0, _ => false
  | n + 1, table => (upto 512).any (fun i =>
      let pte := BitVec.ofNat 64 (s.rdLe (table + 8 * i) 8)
      bitOf pte 0 && (if bitOf pte 7 then
          !bitOf pte 55 && decide (fld pte 47 12 * 4096 ≤ pa ∧ pa < fld pte 47 12 * 4096 + pageSize (3 - n))
        else s.mapsPa pa n (fld pte 47 12 * 4096)))

/-- The jobs that map the page of a word, and the one that read it (R458). -/
def State.wordJobs (s : State) (r : Report) : List Nat :=
  (upto 16).filter (fun j => (s.job j).loaded &&
    (r.job == some j || (s.rbit (regScJobPtbr j) 0 && s.mapsPa r.addr 4 (s.rfld (regScJobPtbr j) 47 12 * 4096))))

/-! ### Fault records (R471) -/

/-- Write the record of a report and answer its SEQ. -/
def State.blRecord (s : State) (r : Report) (cls action src : Nat) (jobs : List Nat) : State :=
  let n := (s.reg regBlLogptr).toNat
  let im := s.sealedImg
  let csns := jobs.map (fun j => ((im.map (fun (i : Image) => i.resumeCsn j)).getD 0).toNat)
  let resume := csns.foldl min (csns.headD 0)
  let b := leBytes 8 n ++ leBytes 8 s.time.toNat ++ leBytes 2 (unitWord r.unit) ++ leBytes 1 r.code ++ leBytes 1 cls ++ leBytes 1 action
    ++ leBytes 1 src ++ leBytes 2 ((jobs.map (fun j => 2 ^ j)).sum) ++ leBytes 8 r.addr ++ leBytes 8 s.recordedCsn ++ leBytes 8 r.detail.toNat
    ++ leBytes 8 resume ++ leBytes 4 0
  let rec_ := b ++ leBytes 4 (crc32c b).toNat
  let t := (upto 8).foldl (fun t w => t.setReg (regBlLog (n % 256) w) (wordAt rec_ (8 * w))) s
  let u := if 256 ≤ n ∧ t.blot.readTo ≤ n - 256 then t.setRbit regBlStatus 5 true else t
  u.setReg regBlLogptr (BitVec.ofNat 64 (n + 1))

/-! ### The fence (R26, R457) -/

/-- Affected jobs stop on every cluster, and their entries and unsent step ends are held or refused (R457). -/
def State.holdJobs (s : State) (jobs : List Nat) : State :=
  jobs.foldl (fun (t : State) j =>
    let unsent := (t.dx.steps.filter (fun q => q.job == j && q.csn.isNone)).length
    let u := ((t.bumpBy regDxStepRej unsent).dropTasks j).dropNear
    u.setJob j { u.job j with held := true }) s

/-- The counts of the marks that a failed cluster homes are lost; the spare's mark unit starts at 0 (R338; DESIGN CHOICE, log 103). -/
def State.loseMarks (s : State) (k : Nat) : State :=
  ((upto 4096).filter (fun n => s.markHome n == k)).foldl (fun (t : State) n =>
    ((t.setCount n 0).setRbit (regMkMark n) 62 false).putMark n {}) s

/-- The state of a failed cluster is gone: its caches, its engines, and the tasks that stand on it. -/
def State.dropCluster (s : State) (k : Nat) : State :=
  let t := s.loseCaches k
  let u := (t.setCtx ⟨k, 0⟩ {}).setCtx ⟨k, 1⟩ {}
  let v := u.setCl k {}
  ({ v with dx := { v.dx with
      saved := v.dx.saved.filter (fun x => x.1 / 4 != k)
      delay := v.dx.delay.filter (fun d => d.cluster != k || (match d.what with
        | .spawn _ => true
        | .sleeper _ => false)) } } : State).dropNear

/-- Does a copy of an entry stand in a region, or is it on its way there? -/
def HotEnt.within (e : HotEnt) (k : Nat) : Bool :=
  let inRegion (pa : Nat) : Bool := match placeOf pa with
    | .inkwell r _ => r == k
    | _ => false
  (e.copy.map inRegion).getD false || (e.pend.map (fun p => inRegion p.target)).getD false

/-- Hot copies in the region of a fenced cluster leave; pinned ones are copied again once its spare is filled (R269). A pin that was
under way starts anew. -/
def State.hotFence (s : State) (k : Nat) : State :=
  s.modHot (fun h => { h with ents := h.ents.filterMap (fun e =>
    if !e.within k then some e
    else if e.pin.isSome then some { e with copy := none, pend := some (e.pend.getD ⟨e.copy.getD 0, none⟩), lost := true }
    else none) })

/-- The spare of a fenced region stands: the copies of its pinned rows start (R269). -/
def State.hotFilled (s : State) (k : Nat) : State :=
  s.modHot (fun h => { h with ents := h.ents.map (fun e => if e.within k then { e with lost := false } else e) })

/-- Hot copies that satisfy a test are dropped; pins among them are lost (R269, R270, R461, R466). -/
def State.hotDrop (s : State) (gone : HotEnt → Bool) : State :=
  (s.hot.ents.filter gone).foldl (fun (t : State) e =>
    let u := t.delEnt e.home
    match e.pin with
    | some j => (u.setRfld (regHmPinq j) 47 32 (u.pinUsed j - 1)).bump regHmPinLost
    | none => u) s

/-- Clamp a physical cluster-region: BL_FENCEDw shows it, its domain stands ON-ISOLATED (R34, R457). -/
def State.clampCluster (s : State) (p : Nat) : State :=
  let t := s.setRbit (if p < 64 then regBlFenced0 else if p < 128 then regBlFenced1 else regBlFenced2) (p % 64) true
  t.isolate [p]

/-- A unit is fenced: its crossings are clamped, what was in flight in them is discarded and counted, and a domain that it fills
alone moves to ON-ISOLATED (R26, R34, R457). How many entries were in flight is a free value. -/
def State.addFence (s : State) (u : UnitId) : State :=
  let t : State := { s with blot := { s.blot with units := u :: s.blot.units } }
  (((t.setRbit regBlStatus 0 true).bump regBlFences).isolate (unitDoms u)).bumpFree regBlXingDiscard

/-! ### Firmware crash (R491, R509) -/

/-- The copyist that stands as spare. -/
def State.spareCp (s : State) : Option Nat :=
  let c := s.rfld regFwStatus 7 6
  if s.dom (163 + c) = 1 ∧ s.blot.units.contains ⟨6, c⟩ = false then some c else none

/-- A faulty copyist is fenced and the spare joined; the firmware crashes (R509). -/
def State.copyistFault (s : State) (c spare cause : Nat) : State :=
  (((s.addFence ⟨6, c⟩).setDom (163 + spare) 2).setRfld regFwStatus 7 6 3).fwHalt cause

/-! ### Reactions (R459, R460, R469) -/

/-- The Blotter's own work is given up: fills, folds and restarts (R459, R470). -/
def State.blAbandon (s : State) : State :=
  let t : State := { s with blot := { s.blot with fills := [], jobs := [], restoring := false } }
  ((t.setRbit regBlStatus 2 false).setRbit regBlStatus 3 false).setRbit regBlFill 63 false

/-- A takeover, or DEPART and rejoin (R459). -/
def State.handOver (s : State) (code : Nat) : State := s.blAbandon.depart code

/-- FAILED (R460). -/
def State.fail (s : State) : State :=
  let t := (s.blAbandon.setRbit regBlStatus 6 true).faultPin
  ({ t with dx := { t.dx with stopped := true } } : State).settleQueues []

/-- Jobs are lost (R469). -/
def State.loseJobs (s : State) (jobs : List Nat) (code seq : Nat) : State :=
  jobs.foldl (fun (t : State) j =>
    let u := ((t.dropTasks j).dropNear).endPins j
    let v : State := { u with
      blot := { u.blot with jobs := u.blot.jobs.filter (fun x => x.1 != j) }
      tables := smapMap (fun _ => {}) (fun k x => if k / 4096 = j then x.discard else x) u.tables
      pubq := u.pubq.filter (fun p => p.job != j || p.host.isSome) }
    let w := (v.setJob j { v.job j with loaded := false, lost := true, stopped := true, held := false }).bump regBlJobLost
    let csn := (w.sealedImg.map (fun (i : Image) => i.resumeCsn j)).getD 0
    let x := (w.reclaim j).post ⟨3, j, code, csn, resultBytes [(0, leBytes 8 seq)]⟩
    -- the Fair-copy pairs with entries of the job are settled (R55)
    ((upto 64).filter (fun r => (x.ring r).opened.any (fun e => (e.bytes.getD 2 0#8).toNat == j && !e.stands))).foldl
      (fun (y : State) r => y.settleFair r) x) s

/-- Columns of R459: HOLD-ACTIVE stands with ACTIVE, HOLD-STANDBY with STANDBY, PAIRING with SOLO (DEDUCED, log 47). -/
def State.colActive (s : State) : Bool := s.role == 2 || s.role == 5
def State.colStandby (s : State) : Bool := s.role == 3 || s.role == 6

/-- The reaction to class M: its ACTION code and what is done. -/
def State.reactM (s : State) (code : Nat) : Nat × State :=
  if s.role = 7 then (0, s)
  else if s.colActive then (3, s.handOver code)
  else if s.colStandby then (9, s.handOver code)
  else (4, s.fail)

/-- The reaction to a lost fill source or a fold that does not fit. -/
def State.reactLost (s : State) (code : Nat) (jobs : List Nat) : Nat × State :=
  if s.role = 7 then (0, s)
  else if s.colActive then (3, (s.bump regBlFillTwin).handOver code)
  else if s.colStandby then (9, s.handOver code)
  else (5, s.loseJobs jobs code (s.reg regBlLogptr).toNat)

/-! ### Fills, folds and restarts (R462 to R467) -/

/-- The spare slot of a group, where one is left. -/
def State.spareOf (s : State) (g : Nat) : Option Nat :=
  let x := s.rfld (regScGroupMap g) 35 32
  if x = 15 ∨ s.fenced (9 * g + x) = true ∨ s.blot.fills.any (fun f => f.group == g && !f.fold) = true then none else some x

/-- The logical cluster of a group that a fold uses as its host: the lowest that is joined and not folded. -/
def State.foldHost (s : State) (g : Nat) (notK : Nat) : Option Nat :=
  ((upto 8).map (fun i => 8 * g + i)).find? (fun k => k != notK && s.joined (s.phys k) && !s.fenced (s.phys k) && (s.foldOf k).isNone
    && !s.blot.fills.any (fun f => f.logicals.contains k))

/-- Does one more fold of a group fit (R466)? -/
def State.foldFits (s : State) (g k : Nat) : Bool :=
  let queued := (s.blot.fills.filter (fun f => f.group == g && f.fold)).length
  decide (s.rfld regBlIwhwm 9 0 ≤ 384) && decide (smapGet (fun _ => 0) s.blot.folds g + queued < 4) && (s.foldHost g k).isSome

/-- The fill at the front begins: BL_FILL shows it, the spare is joined with its crossings clamped (R462). -/
def State.startFill (s : State) : State :=
  match s.blot.fills with
  | [] => s
  | f :: rest =>
    let k := f.logicals.headD 0
    let target := if f.fold then s.phys ((s.foldHost f.group k).getD k) else 9 * f.group + s.rfld (regScGroupMap f.group) 35 32
    let v := BitVec.ofNat 64 (2 ^ 63 + 2 ^ 61 + b2n f.fold * 2 ^ 60 + target * 2 ^ 48 + k * 2 ^ 40)
    let t := ((s.setReg regBlFill v).setRbit regBlStatus 2 true).setRbit regBlStatus 3 (!rest.isEmpty)
    if f.fold then t else t.setDom target 2

/-- Add jobs to those that restart. A restart that is under way begins again once the fills are done (R470). -/
def State.addRestart (s : State) (code seq : Nat) (jobs : List Nat) : State :=
  { s with blot := { s.blot with
      jobs := s.blot.jobs ++ (jobs.filter (fun j => !s.blot.jobs.any (fun x => x.1 == j))).map (fun j => (j, code, seq))
      restoring := false } }

/-- The image from which a job restarts: of a group, the last that all members have sealed (R431, R445). -/
def State.resumeImage (s : State) (j : Nat) : Image :=
  match (if s.grouped j then (s.group j).img else none) with
  | some i => i
  | none => s.sealedImg.getD {}

/-- A member that restarts a group job sends RESTART with F, and waits for the others (R445). -/
def State.groupRestart (s : State) (j : Nat) : State :=
  if s.grouped j then
    let g := s.group j
    (s.setGroup j { g with acks := some (g.last, []), folioAt := none, mine := none, mineImg := none }).sendAll 0x07 j [g.last]
  else s

/-- A restored group job stays held until every member has rolled back (R445). -/
def State.groupHold (s : State) (j : Nat) : State :=
  if (s.group j).acks.isSome then s.setJob j { s.job j with held := true } else s

/-- Every member has rolled back: the job goes on (R445). -/
def State.groupResume (s : State) (j : Nat) : State :=
  match (s.group j).acks with
  | some (_, l) =>
    if l.dedup.length < (s.ctrlPairs j).length || s.blot.jobs.any (fun x => x.1 == j) then s
    else (s.setGroup j { s.group j with acks := none }).setJob j { s.job j with held := false }
  | none => s

/-- Every fill is done: ROLLBACK leaves, the tables are rolled back, and the image is being restored (R464). A repeated fault
begins the restart again from the same resume point (R470). -/
def State.beginRestart (s : State) : State :=
  if !s.blot.fills.isEmpty || s.blot.jobs.isEmpty then s
  else
    let n := (s.sealedImg.map (fun (i : Image) => i.num)).getD 0
    let t := s.blot.jobs.foldl (fun (t : State) x =>
      let f := if t.grouped x.1 then (t.group x.1).last else n
      let u := if t.role = 2 ∨ t.role = 5 then t.cbSend 0x09 x.1 [x.1, f] [] else t
      (u.groupRestart x.1).rollback x.1) s
    { t with blot := { t.blot with restoring := true } }

/-- A cluster fault adds its fills; with no spare it is folded, and what does not fit is lost (R459, R462, R466, R470). The ACTION
code is of the first. -/
def State.addFills (s : State) (g code : Nat) (jobs : List Nat) : List Nat → Nat × State
  | [] => (0, s)
  | k :: rest =>
    let idle := s.blot.fills.isEmpty
    let put (f : FillItem) : State :=
      let t : State := { s with blot := { s.blot with fills := s.blot.fills ++ [f] } }
      if idle then t.startFill else t.setRbit regBlStatus 3 true
    if (s.spareOf g).isSome then
      let (_, u) := (put ⟨g, [k], false⟩).addFills g code jobs rest
      (if idle then 1 else 6, u)
    else if s.foldFits g k then
      let (_, u) := (put ⟨g, [k], true⟩).addFills g code jobs rest
      (if idle then 2 else 6, u)
    else s.reactLost code jobs

/-- Has an operation of a job a request, a share or a partial in the region above a logical cluster (R254)? -/
def State.nearIn (s : State) (j k : Nat) : Bool :=
  let ofJob (c n : Nat) : Bool := (s.cl c).sk.any (fun o => o.n == n && o.own.job == j)
  s.nbq.any (fun r => r.region == k && ofJob r.c r.n) || s.parts.any (fun p => p.region == k && ofJob p.c p.n)

/-- Does a job map a mark that a logical cluster homes (R338)? -/
def State.marksAt (s : State) (j k : Nat) : Bool :=
  (upto 4096).any (fun n => s.markMapped n && s.markJob n == j && s.markHome n == k)

/-- The fault of a cluster-region (R457, R459, R462, R470). -/
def State.clusterFault (s : State) (r : Report) (p : Nat) : Nat × List Nat × State :=
  if s.fenced p then (0, [], s)
  else
    let ks := s.logicalsOf p
    let jobs := if s.colStandby then [] else (upto 16).filter (fun j => (s.job j).loaded && ks.any (fun k => s.owns j k || s.nearIn j k || s.marksAt j k))
    let s1 := ((s.holdJobs jobs).clampCluster p).addFence ⟨0, p⟩
    let s2 := ks.foldl (fun (t : State) k => ((t.dropCluster k).loseMarks k).hotFence k) s1
    let g := p / 9
    if ks.isEmpty then
      -- a spare: the cluster that was being filled into it is folded (R470)
      match s2.blot.fills with
      | f :: rest =>
        if f.group = g ∧ f.fold = false ∧ 9 * g + s2.rfld (regScGroupMap g) 35 32 = p then
          let t : State := { s2 with blot := { s2.blot with fills := rest } }
          if t.foldFits g (f.logicals.headD 0) then
            (2, [], ({ t with blot := { t.blot with fills := { f with fold := true } :: rest } } : State).startFill)
          else
            let (a, u) := t.reactLost r.code (t.blot.jobs.map (fun x => x.1))
            (a, [], u.startFill)
        else (0, [], s2)
      | [] => (0, [], s2)
    else
      let s3 := s2.addRestart r.code (s2.reg regBlLogptr).toNat jobs
      if r.sourceLost then let (a, t) := s3.reactLost r.code jobs; (a, jobs, t)
      else if s3.role = 7 then (0, jobs, s3)
      else if s3.colActive && !s3.rbit regBlCfg 0 then (3, jobs, s3.handOver r.code)
      else let (a, t) := s3.addFills g r.code jobs ks; (a, jobs, t)

/-! ### Poisoned and uncorrectable words (R468) -/

/-- The table segment of an edition that holds an address: job, table, segment. -/
def State.editionOf (s : State) (pa : Nat) : Option (Nat × Nat × Nat) :=
  s.tables.findSome? (fun x =>
    let j := x.1 / 4096
    let t := x.1 % 4096
    match s.desc j t with
    | none => none
    | some d => x.2.slots.findSome? (fun e =>
      if d.kind = 1 then
        (if d.blockAddr e.slot ≤ pa ∧ pa < d.blockAddr e.slot + d.rows * 64 then some (j, t, (pa - d.blockAddr e.slot) / 65536) else none)
      else ((upto d.segs).find? (fun i =>
        let a := s.rdLe (d.dirAddr e.slot + 8 * i) 8 / 65536 % 2 ^ 32 * 65536
        decide (a ≤ pa ∧ pa < a + 65536))).map (fun i => (j, t, i))))

/-- Has a live undo record the row of a word (R283)? -/
def State.undoHolds (s : State) (pa : Nat) : Bool :=
  (upto 16).any (fun j => (s.undoRt j).recs.any (fun r => match s.desc j r.table with
    | some d => decide (d.homeOf r.row ≤ pa ∧ pa < d.homeOf r.row + d.rb)
    | none => false))

/-- Is a word captured by a folio, or part of the spill ring? -/
def State.captured (s : State) (pa : Nat) : Bool :=
  s.inCapture s.folioJobs pa || (s.rbit regDxSpill 0 && decide (s.rfld regDxSpill 47 26 * 2 ^ 26 ≤ pa ∧ pa < s.rfld regDxSpill 47 26 * 2 ^ 26 + 2 ^ 26))
    || (match placeOf pa with
      | .sheet _ _ => true
      | _ => false)

/-- The reaction to codes 0x0A and 0x0B: ACTION, affected jobs, state. -/
def State.wordFault (s : State) (r : Report) : Nat × List Nat × State :=
  if s.role = 7 then (0, [], s)
  else if s.colStandby then (9, [], s.handOver r.code)
  else
    let restart (jobs : List Nat) : Nat × List Nat × State :=
      let t := ((s.holdJobs jobs).bump regBlFences).addRestart r.code (s.reg regBlLogptr).toNat jobs
      (7, jobs, t.beginRestart)
    if r.unit.kind = 8 then restart r.job.toList
    else match s.editionOf r.addr with
      | some (j, t, g) =>
        let rt := s.table j t
        let u := (s.setTable j t { rt with dirty := if rt.dirty.contains g then rt.dirty else rt.dirty ++ [g] }).bump regBlPoisonEd
        -- the reading entry's queue is settled from that entry
        let rs := (upto 64).filter (fun q => r.job.isSome && (u.ring q).opened.any (fun e =>
          e.cmd.isSome && !e.stands && r.job == some (e.bytes.getD 2 0#8).toNat))
        (8, [], rs.foldl (fun (v : State) q => v.settleFair q) u)
      | none =>
        let jobs := s.wordJobs r
        if s.captured r.addr || s.undoHolds r.addr then restart jobs
        else
          let t := (s.holdJobs jobs).bump regBlFences
          let (a, u) := t.reactLost r.code jobs
          (a, jobs, u)

/-! ### A report (R450, R451) -/

/-- The reaction to a class F or M report by its unit: ACTION, affected jobs, class, state. -/
def State.unitFault (s : State) (r : Report) (m : Bool) : Nat × List Nat × BlClass × State :=
  let asM (t : State) : Nat × List Nat × BlClass × State :=
    let jobs := (upto 16).filter (fun j => (t.job j).loaded)
    let (a, u) := (((t.holdJobs jobs).addFence r.unit).folioAbandon).reactM r.code
    (a, jobs, .m, u)
  if m then asM s
  else if r.code = 0x0A ∨ r.code = 0x0B then
    let (a, js, t) := s.wordFault r
    (a, js, .f, t)
  else match unitOf r.unit with
    | .cluster p => let (a, js, t) := s.clusterFault r p; (a, js, .f, t)
    | .shared => asM s
    | .copyist c =>
      match s.spareCp with
      | some x => if x = c then
          let t := (s.addFence ⟨6, c⟩).setRfld regFwStatus 7 6 3
          (0, [], .f, t)
        else (0, [], .f, s.copyistFault c x (if r.code = 0x0C then 3 else 2))
      | none => asM s
    | .ligature _ => (0, [], .f, s.addFence r.unit)
    | .slice i => (0, [], .f, (s.hotDrop (fun e => hmSlice e.home == i)).addFence r.unit)
    | .allSlices =>
      let t := (upto 4).foldl (fun (t : State) i => { t with blot := { t.blot with units := ⟨3, i⟩ :: t.blot.units } }) (s.hotDrop (fun _ => true))
      (0, [], .f, t.addFence r.unit)
    | .link i =>
      let t := s.addFence r.unit
      let u := if i = 0 then t.lanDown else if i = 1 then t.cbDown else t
      (0, [], .f, u)
    | .checker | .other => (0, [], .f, s)

/-- Blotter and checker disagree: neither decision is applied, and the module departs (R454). -/
def State.checkerErr (s : State) (r : Report) : State :=
  let t := ((s.bump regBlFaults).alert 1).setRbit regBlStatus 7 true
  let u := t.blRecord r 2 (if t.colActive then 3 else 9) 0 []
  (u.depart r.code).faultPin

/-- A report of class F or M (R457 to R471): the fence and the reaction, then an over-current takes the unit's domains OFF (R34). -/
def State.faultReport (s : State) (r : Report) (m : Bool) : State :=
  if r.code = 0x21 ∨ unitOf r.unit = .checker then s.checkerErr r
  else
    let busy := !s.blot.fills.isEmpty || s.blot.restoring
    let s1 := (s.bump regBlFaults).alert 1
    let s2 := (if busy then s1.bump regBlSecond else s1).folioAbandon
    let (action, jobs, cls, s3) := s2.unitFault r m
    let s4 := if r.code = 0x0E then s3.domOff (unitDoms r.unit) else s3
    let src := if action = 1 ∨ action = 2 ∨ action = 6 then 1 else if action = 3 ∨ action = 9 then 2 else 0
    s4.blRecord r cls.num action src jobs

/-- A class C record at most once a unit and millisecond, while LOGCE is 1 (R471). -/
def State.correctedReport (s : State) (r : Report) : State :=
  let t := s.bump regBlCorrected
  let u := if r.code = 0x46 then t.bump regBlTagRetire else t
  let recent := u.blot.clog.any (fun x => x.1 == r.unit && decide ((s.time - x.2).toNat < 1000000))
  if !u.rbit regBlCfg 1 || recent then u
  else
    let v := u.blRecord r 0 0 0 []
    { v with blot := { v.blot with clog := (r.unit, s.time) :: v.blot.clog.filter (fun x => x.1 != r.unit) } }

/-- A report reaches the Blotter (R451). -/
def State.blReport (s : State) (r : Report) : State :=
  if !s.joined 167 then s
  else match blClass r.code with
    | .c =>
      -- the sixteen spare tag entries of an engine are used up: the next error is a fault (R461)
      let n := smapGet (fun _ => 0) s.blot.tags (unitWord r.unit)
      if r.code = 0x46 ∧ 16 ≤ n then s.faultReport { r with code := 0x0D } false
      else if r.code = 0x46 then
        ({ s with blot := { s.blot with tags := smapSet (fun _ => 0) s.blot.tags (unitWord r.unit) (n + 1) } } : State).correctedReport r
      else s.correctedReport r
    | .i => s.blRecord r 3 0 0 []
    | .f => s.faultReport r false
    | .m => s.faultReport r true

/-! ### Orders and writes of the block -/

/-- BL_ORDER: a fence of the unit named, complete in the step; one that meets FENCE at 1 is discarded (registers of chapter 18). -/
def State.blOrder (s : State) (v : Word) : State :=
  let t := s.setRfld regBlOrder 31 16 (fld v 31 16)
  if !bitOf v 0 then t
  else if s.rbit regBlOrder 0 then s.setRbit regBlStatus 8 true
  else t.blReport ⟨0x10, ⟨fld v 31 28, fld v 27 16⟩, 0, 0, none, false⟩

/-- BL_IWHWM: above 12 MiB while folded the write is discarded (R467); the field holds 768 at most. -/
def State.iwhwmWrite (s : State) (v : Word) : State :=
  if s.rbit regBlStatus 4 && decide (fld v 9 0 > 384) then s.setRbit regBlStatus 8 true
  else s.setRfld regBlIwhwm 9 0 (min 768 (fld v 9 0))

/-- Counts of a fold, the group map, whose SPARE_SLOT names no slot that is fenced (R19, R470), and the pair that Ductus runs (R321,
R466). -/
def State.foldNow (s : State) (g k host : Nat) : State :=
  let base := (s.rfld regBlIwhwm 9 0) * 32768
  let s1 := (s.setRfld (regNbHotarea (s.phys host)) 40 32 0).hotDrop (fun e => e.within host || e.within k)
  let m0 := setFld (s1.reg (regScGroupMap g)) (4 * (k % 8) + 3) (4 * (k % 8)) (s1.slotOf host)
  let m := if s1.fenced (9 * g + fld m0 35 32) then setFld m0 35 32 15 else m0
  let s2 := (s1.setReg (regScGroupMap g) (setBit m 46 true)).setRbit regBlStatus 4 true
  let s3 := s2.bump regBlFolds
  { s3 with
    blot := { s3.blot with folds := smapSet (fun _ => 0) s3.blot.folds g (smapGet (fun _ => 0) s3.blot.folds g + 1) }
    dx := { s3.dx with folds := s3.dx.folds ++ [⟨g, host, k, host, false, base⟩] } }

/-- The procedure of R352: the caches of a core are invalidated and enabled. -/
def State.enableCaches (s : State) (core : Nat) : State :=
  ((s.ccWrite core 0xC0 false false).ccComplete core).ccWrite core 0 true true

/-- The spare carries the logical cluster: its Sheet starts empty, the group map is written last (R21, R462). Its hot area is that of the
region it replaces (DESIGN CHOICE, log 101), into which pinned rows are copied again (R269). -/
def State.spareNow (s : State) (g k : Nat) : State :=
  let slot := s.rfld (regScGroupMap g) 35 32
  let inSheet (pa : Nat) : Bool := decide (sheetBase k ≤ pa ∧ pa < sheetBase k + 0x180000)
  let s1 : State := { s with mem := s.mem.filter (fun c => !inSheet c.1), poison := s.poison.filter (fun w => !inSheet w) }
  let s2 := s1.dropCluster k
  let m := setFld (s2.reg (regScGroupMap g)) (4 * (k % 8) + 3) (4 * (k % 8)) slot
  let area := regNbHotarea (9 * g + slot)
  ((((s2.setReg area (s2.reg (regNbHotarea (s2.phys k)))).setReg (regScGroupMap g) (setFld m 35 32 15)).bump regBlSpares).hotFilled k).enableCaches k

end Sys2Proof.Machine
end

