-- ==== Sys2Proof/Machine/Blotter.lean ====
section
/-! DEFINITION. The rows of the Blotter (R451, R452, R462, R464, R466, R467). -/

namespace Sys2Proof.Machine

/-- A detector's report reaches the Blotter: one that the model's own units have made, or one of the hardware (R450, R451). -/
def execBlotterReport (r : Report) (s : State) : Res := .next (({ s with reports := s.reports.erase r } : State).blReport r)

/-- The heartbeat period ends: units missed for the second time in succession are class F (R452). Where none is
missing but fenced ones, every unit has sent one that a quiesce may wait for (R456; DESIGN CHOICE, log 109). -/
def execHeartbeatCheck (missed : List UnitId) (s : State) : Res :=
  .next (
    let twice := missed.filter (fun u => s.blot.missed.contains u)
    let t := s.bumpBy regBlHbMiss missed.length
    let u : State := { t with blot := { t.blot with missed := missed.filter (fun u => !twice.contains u) } }
    let u : State := { u with folio := { u.folio with beat := u.folio.beat || missed.all (fun x => u.blot.units.contains x) } }
    twice.foldl (fun (v : State) x => v.blReport ⟨0x0F, x, 0, 0, none, false⟩) u)

/-- The fill that runs is complete, or its source has turned out lost (R462, R463, R466, R470); it needs the firmware (R510). -/
def execFillComplete (ok : Bool) (s : State) : Res :=
  .next (match s.blot.fills with
    | [] => s
    | f :: rest =>
      if !s.fwUp then s
      else
        let k := f.logicals.headD 0
        let s1 : State := { s with blot := { s.blot with fills := rest } }
        let s2 := (s1.setRbit regBlFill 63 false).setRbit regBlStatus 2 false
        let s3 := if !ok then (s2.reactLost 0x20 (s2.blot.jobs.map (fun x => x.1))).2
          else if f.fold then (match s2.foldHost f.group k with
            | some host => s2.foldNow f.group k host
            | none => (s2.reactLost 0x20 (s2.blot.jobs.map (fun x => x.1))).2)
          else (s2.setRfld regBlFill 14 0 24576).spareNow f.group k
        s3.startFill.beginRestart)

/-- The image stands again: affected jobs resume (R464). -/
def execImageRestoreComplete (s : State) : Res :=
  .next (if !s.blot.restoring || !s.fwUp then s
    else
      let t := s.blot.jobs.foldl (fun (t : State) x =>
        let u := ((t.restoreJob (t.resumeImage x.1) x.1).groupHold x.1).bump regBlRestarts
        (u.setTwin { u.twin with faults := u.twin.faults + 1 }).postResumed x.1 x.2.1 x.2.2) s
      let u : State := { t with blot := { t.blot with jobs := [], restoring := false } }
      (s.blot.jobs.foldl (fun (u : State) x => u.groupResume x.1) u).settleQueues (s.blot.jobs.map (fun x => x.1)))

/-- A fence is ordered by the firmware or the manager (R451). -/
def execBlOrderFence (v : Word) (s : State) : Res := .next (s.blOrder v)

/-- The firmware writes BL_IWHWM (R466, R467). -/
def execBlIwhwmWrite (v : Word) (s : State) : Res := .next (if s.fwUp then s.iwhwmWrite v else s)

end Sys2Proof.Machine
end

