-- ==== Sys2Proof/Machine/BrushEvents.lean ====
section
/-! DEFINITION. The completion of Brush and reduction operations (R198, R203). -/

namespace Sys2Proof.Machine

/-- The oldest Brush or reduction operation of a cluster completes, with what the residue and compare checks found (R198, R203). -/
def execBrOpComplete (c : Nat) (r : OpCheck) (s : State) : Res := .next (s.brComplete c r)

end Sys2Proof.Machine
end

