-- ==== Sys2Proof/Machine/BrushIssue.lean ====
section
/-! DEFINITION. The Brush and reduction instructions, groups 0x0C to 0x0F (R178 to R197): each checks its word and its operand
values and enters the command queue with what it captured. -/

namespace Sys2Proof.Machine

/-- The fields of a Brush Form T ext. -/
def brTy (f : FormT) : Nat := exf f.ext 15 12
def brRm (f : FormT) : Nat := exf f.ext 18 16
def brFmt (f : FormT) : Nat := exf f.ext 11 8
def brPart (f : FormT) : Nat := exf f.ext 7 6
def brLow (f : FormT) : Nat := exf f.ext 5 0

/-- What a Form T operation captures at issue. -/
def State.brOpT (s : State) (h : Hart) (group op : Nat) (f : FormT) (masks : List Nat) : BrOp :=
  let c := s.ctx h
  { own := ownerOf h c, half := (s.cl h.core).front, group := group, op := op
    dst := f.dst.toNat, s1 := f.src1.toNat, s2 := f.src2.toNat, ext := f.ext.toNat, imm := 0
    a1 := c.getA f.src1.toNat, a2 := c.getA f.src2.toNat, masks := masks.map c.getM }

/-- What a Form K operation captures at issue: its ctl stands for the ext. -/
def State.brOpK (s : State) (h : Hart) (op : Nat) (f : FormK) : BrOp :=
  let c := s.ctx h
  { own := ownerOf h c, half := (s.cl h.core).front, group := 0x0E, op := op
    dst := f.dst.toNat, s1 := f.src.toNat, s2 := 0, ext := f.ctl.toNat, imm := f.imm
    a1 := c.getA f.src.toNat, a2 := 0, masks := [c.getM f.mask.toNat] }

/-- Issue of a Form T operation: `as` and `ms` are the A and M registers it names, `masks` the mask registers it captures,
`ok` the check of A[src1]. The lanes' mask is no predicate (R76, R180). -/
def State.brGoT (s : State) (h : Hart) (group op : Nat) (f : FormT) (legal : Bool) (as ms masks : List Nat)
    (ok : Word → Bool) : Res :=
  .next (s.issue h (wordT group op f) legal 0 as (ms ++ masks) (fun s =>
    s.checked h (wordT group op f) (ok ((s.ctx h).getA f.src1.toNat)) (fun s => s.brIssue h (s.brOpT h group op f masks))))

/-- Lane arithmetic (R178 to R185): the types it takes, whether it reads src2, whether it rounds. -/
def State.brArithI (s : State) (h : Hart) (op : Nat) (f : FormT) (tys : List Nat) (two rounds : Bool) : Res :=
  s.brGoT h 0x0C op f (onlyBits f.ext 0xFF000 && tys.contains (brTy f) && (two || isZ f.src2) &&
    decide (brRm f ≤ (if rounds then 3 else 0))) [] [] [f.mask.toNat] (fun _ => true)

/-- A comparison: dst names a mask register (R185). -/
def State.brCompareI (s : State) (h : Hart) (op : Nat) (f : FormT) : Res :=
  s.brGoT h 0x0C op f (onlyBits f.ext 0x8F000 && decide (brTy f ≤ 2) && isM f.dst) [] [f.dst.toNat] [f.mask.toNat] (fun _ => true)

/-- A movement or conversion between V registers. -/
def State.brMoveI (s : State) (h : Hart) (op : Nat) (f : FormT) (ext : Nat) (ok : Bool) : Res :=
  s.brGoT h 0x0D op f (onlyBits f.ext ext && ok) [] [] [f.mask.toNat] (fun _ => true)

/-- A gather or scatter: the base is a multiple of 4 inside a region (R190). -/
def State.brGatherI (s : State) (h : Hart) (op : Nat) (f : FormT) : Res :=
  s.brGoT h 0x0D op f (onlyBits f.ext 0x80000 && isA f.src1) [f.src1.toNat] [] [f.mask.toNat]
    (fun a => decide (a.toNat % 4 = 0) && offOk a.toNat)

/-- A Form K operation on lanes with a constant (R192). -/
def State.brImmI (s : State) (h : Hart) (op : Nat) (f : FormK) (ok : Bool) : Res :=
  .next (s.issue h (wordK 0x0E op f) (ok && decide (exf f.ctl 2 0 ≤ 4)) 0 [] [f.mask.toNat]
    (fun s => s.brIssue h (s.brOpK h op f)))

/-- BR.LD and BR.ST: the length code, an even offset, and every byte in one region (R191). -/
def State.brSheetI (s : State) (h : Hart) (op : Nat) (f : FormK) (ok : Bool) : Res :=
  .next (s.issue h (wordK 0x0E op f) (ok && isA f.src && decide (f.ctl.toNat ≤ 8)) 0 [f.src.toNat] [f.mask.toNat] (fun s =>
    let o := s.brOpK h op f
    s.checked h (wordK 0x0E op f)
      (decide (brOff o % 2 = 0) && offOk (brOff o) && inRegion (brOff o) ((brLen f.ctl.toNat).getD 0))
      (fun s => s.brIssue h o)))

/-- A reduction to A[dst] (R193). -/
def State.brReduceI (s : State) (h : Hart) (op : Nat) (f : FormT) (tyMax : Nat) (two : Bool) : Res :=
  s.brGoT h 0x0F op f (onlyBits f.ext 0x8F000 && decide (brTy f ≤ tyMax) && isA f.dst && (two || isZ f.src2))
    [f.dst.toNat] [] [f.mask.toNat] (fun _ => true)

/-- The mask registers of a softmax row: M0 for every vector, or mask, mask + 1, … (chapter 6, Softmax). -/
def smMasks (f : FormT) : List Nat :=
  (upto (brLow f + 1)).map (fun j => if f.mask.toNat = 0 then 0 else f.mask.toNat + j)

/-- The limits of a softmax row. -/
def smOk (f : FormT) : Bool :=
  onlyBits f.ext 0x8003F && decide (brLow f ≤ 7) && isA f.src2 && decide (f.src1.toNat + brLow f ≤ 63) &&
    (isZ f.mask || decide (f.mask.toNat + brLow f ≤ 15))

/-- BR.ADD: src1 + src2 (R179). -/
def execBrAdd (h : Hart) (f : FormT) (s : State) : Res :=
  s.brArithI h 0x00 f [0, 1, 2, 3, 4] true true

/-- BR.SUB: src1 - src2 (R179). -/
def execBrSub (h : Hart) (f : FormT) (s : State) : Res :=
  s.brArithI h 0x01 f [0, 1, 2, 3, 4] true true

/-- BR.MUL: src1 * src2 (R179). -/
def execBrMul (h : Hart) (f : FormT) (s : State) : Res :=
  s.brArithI h 0x02 f [0, 1, 2, 3, 4] true true

/-- BR.FMA: dst + src1 * src2, rounded once (R179). -/
def execBrFma (h : Hart) (f : FormT) (s : State) : Res :=
  s.brArithI h 0x03 f [0, 1, 2, 3, 4] true true

/-- BR.MIN: the smaller operand (R179). -/
def execBrMin (h : Hart) (f : FormT) (s : State) : Res :=
  s.brArithI h 0x04 f [0, 1, 2, 3, 4] true false

/-- BR.MAX: the larger operand (R179). -/
def execBrMax (h : Hart) (f : FormT) (s : State) : Res :=
  s.brArithI h 0x05 f [0, 1, 2, 3, 4] true false

/-- BR.ABS: absolute value (R179). -/
def execBrAbs (h : Hart) (f : FormT) (s : State) : Res :=
  s.brArithI h 0x06 f [0, 1, 3, 4] false false

/-- BR.NEG: negation (R179). -/
def execBrNeg (h : Hart) (f : FormT) (s : State) : Res :=
  s.brArithI h 0x07 f [0, 1, 3, 4] false false

/-- BR.DIV: src1 / src2 (R179). -/
def execBrDiv (h : Hart) (f : FormT) (s : State) : Res :=
  s.brArithI h 0x08 f [0, 3, 4] true true

/-- BR.SQRT: square root (R179). -/
def execBrSqrt (h : Hart) (f : FormT) (s : State) : Res :=
  s.brArithI h 0x09 f [0, 3, 4] false true

/-- BR.EXP2: 2 to the power src1 (R184). -/
def execBrExp2 (h : Hart) (f : FormT) (s : State) : Res :=
  s.brArithI h 0x0A f [0] false false

/-- BR.LOG2: base-2 logarithm (R184). -/
def execBrLog2 (h : Hart) (f : FormT) (s : State) : Res :=
  s.brArithI h 0x0B f [0] false false

/-- BR.AND (R179). -/
def execBrAnd (h : Hart) (f : FormT) (s : State) : Res :=
  s.brArithI h 0x10 f [1, 2] true false

/-- BR.OR (R179). -/
def execBrOr (h : Hart) (f : FormT) (s : State) : Res :=
  s.brArithI h 0x11 f [1, 2] true false

/-- BR.XOR (R179). -/
def execBrXor (h : Hart) (f : FormT) (s : State) : Res :=
  s.brArithI h 0x12 f [1, 2] true false

/-- BR.SLL (R179). -/
def execBrSll (h : Hart) (f : FormT) (s : State) : Res :=
  s.brArithI h 0x13 f [1, 2] true false

/-- BR.SRL (R179). -/
def execBrSrl (h : Hart) (f : FormT) (s : State) : Res :=
  s.brArithI h 0x14 f [1, 2] true false

/-- BR.SRA (R179). -/
def execBrSra (h : Hart) (f : FormT) (s : State) : Res :=
  s.brArithI h 0x15 f [1, 2] true false

/-- BR.CEQ: bits of M[dst] (R185). -/
def execBrCeq (h : Hart) (f : FormT) (s : State) : Res :=
  s.brCompareI h 0x18 f

/-- BR.CLT: bits of M[dst] (R185). -/
def execBrClt (h : Hart) (f : FormT) (s : State) : Res :=
  s.brCompareI h 0x19 f

/-- BR.CLE: bits of M[dst] (R185). -/
def execBrCle (h : Hart) (f : FormT) (s : State) : Res :=
  s.brCompareI h 0x1A f

/-- BR.SEL: the mask selects between the sources; ZM must be 0 (R185). -/
def execBrSel (h : Hart) (f : FormT) (s : State) : Res :=
  s.brGoT h 0x0C 0x1C f (onlyBits f.ext 0xF000 && decide (brTy f ≤ 4)) [] [] [f.mask.toNat] (fun _ => true)

/-- BR.MOV (R180). -/
def execBrMov (h : Hart) (f : FormT) (s : State) : Res :=
  s.brMoveI h 0x00 f 0x80000 (isZ f.src2)

/-- BR.BCAST: A[src1] to every enabled lane (R180). -/
def execBrBcast (h : Hart) (f : FormT) (s : State) : Res :=
  s.brGoT h 0x0D 0x01 f (onlyBits f.ext 0x80000 && isA f.src1 && isZ f.src2) [f.src1.toNat] [] [f.mask.toNat] (fun _ => true)

/-- BR.PERM (R180). -/
def execBrPerm (h : Hart) (f : FormT) (s : State) : Res :=
  s.brMoveI h 0x02 f 0x80000 true

/-- BR.TOA: one lane to A[dst] (R195). -/
def execBrToa (h : Hart) (f : FormT) (s : State) : Res :=
  s.brGoT h 0x0D 0x04 f (onlyBits f.ext 0x8003F && isA f.dst && isZ f.src2) [f.dst.toNat] [] [f.mask.toNat] (fun _ => true)

/-- BR.FROMA: A[src1] to one lane; the mask must be 0 (R180). -/
def execBrFroma (h : Hart) (f : FormT) (s : State) : Res :=
  s.brGoT h 0x0D 0x05 f (onlyBits f.ext 0x8003F && isA f.src1 && isZ f.src2 && isZ f.mask) [f.src1.toNat] [] [0] (fun _ => true)

/-- BR.CVTN: narrow binary32 lanes and pack them (R186). -/
def execBrCvtn (h : Hart) (f : FormT) (s : State) : Res :=
  s.brMoveI h 0x08 f 0xF0F00 (isZ f.src2 && decide (brFmt f ≤ 4) && decide (brRm f ≤ 4))

/-- BR.CVTW: widen packed elements (R186). -/
def execBrCvtw (h : Hart) (f : FormT) (s : State) : Res :=
  s.brMoveI h 0x09 f 0x80FC0 (isZ f.src2 && decide (brFmt f ≤ 4) && decide (brPart f ≤ (if brFmt f ≤ 1 then 1 else 3)))

/-- BR.ITOF: integer lanes to binary32 (R187). -/
def execBrItof (h : Hart) (f : FormT) (s : State) : Res :=
  s.brMoveI h 0x0A f 0xFF000 (isZ f.src2 && (brTy f == 1 || brTy f == 2) && decide (brRm f ≤ 3))

/-- BR.FTOI: binary32 lanes to integers (R187). -/
def execBrFtoi (h : Hart) (f : FormT) (s : State) : Res :=
  s.brMoveI h 0x0B f 0xFF000 (isZ f.src2 && (brTy f == 1 || brTy f == 2) && decide (brRm f ≤ 3))

/-- BR.MXS: block scales (R188). -/
def execBrMxs (h : Hart) (f : FormT) (s : State) : Res :=
  s.brMoveI h 0x0C f 0x80F00 (isZ f.src2 && decide (5 ≤ brFmt f ∧ brFmt f ≤ 9))

/-- BR.MXQ: quantise by block scales (R189). -/
def execBrMxq (h : Hart) (f : FormT) (s : State) : Res :=
  s.brMoveI h 0x0D f 0xF0F00 (decide (5 ≤ brFmt f ∧ brFmt f ≤ 9) && decide (brRm f ≤ 4))

/-- BR.GATH (R190). -/
def execBrGath (h : Hart) (f : FormT) (s : State) : Res :=
  s.brGatherI h 0x10 f

/-- BR.SCAT (R190). -/
def execBrScat (h : Hart) (f : FormT) (s : State) : Res :=
  s.brGatherI h 0x11 f

/-- BR.LD: Sheet bytes to a V register; the mask must be 0 (R191). -/
def execBrLd (h : Hart) (f : FormK) (s : State) : Res :=
  s.brSheetI h 0x00 f (isZ f.mask)

/-- BR.ST: V register bytes to the Sheet; a mask only with 256 B (R191). -/
def execBrSt (h : Hart) (f : FormK) (s : State) : Res :=
  s.brSheetI h 0x01 f (isZ f.mask || isZ f.ctl)

/-- BR.ADDI (R192). -/
def execBrAddi (h : Hart) (f : FormK) (s : State) : Res :=
  s.brImmI h 0x04 f true

/-- BR.MULI (R192). -/
def execBrMuli (h : Hart) (f : FormK) (s : State) : Res :=
  s.brImmI h 0x05 f true

/-- BR.MINI (R192). -/
def execBrMini (h : Hart) (f : FormK) (s : State) : Res :=
  s.brImmI h 0x06 f true

/-- BR.MAXI (R192). -/
def execBrMaxi (h : Hart) (f : FormK) (s : State) : Res :=
  s.brImmI h 0x07 f true

/-- BR.MOVI: enabled lanes := the constant (R192). -/
def execBrMovi (h : Hart) (f : FormK) (s : State) : Res :=
  s.brImmI h 0x08 f (isZ f.src)

/-- BR.SEED: set the generator (R183). -/
def execBrSeed (h : Hart) (f : FormK) (s : State) : Res :=
  .next (s.issue h (wordK 0x0E 0x10 f) (isZ f.dst && isA f.src && isZ f.mask && isZ f.ctl && isZ f.imm) 0 [f.src.toNat] []
    (fun s => s.brIssue h (s.brOpK h 0x10 f)))

/-- BR.RDFL: wait for the task's earlier operations, then read the Brush flags and clear them when asked (R190). -/
def execBrRdfl (h : Hart) (f : FormK) (s : State) : Res :=
  .next (s.issue h (wordK 0x0E 0x11 f) (isA f.dst && isZ f.src && isZ f.mask && decide (f.ctl.toNat < 2) && isZ f.imm) 0
    [f.dst.toNat] [] (fun s =>
      if !s.brDone h then s.waits h
      else s.modCtx h (fun c =>
        let x := (c.setA f.dst.toNat c.brFlags).next
        if f.ctl.getLsbD 0 then { x with brFlags := 0 } else x)))

/-- RS.SUM (R193). -/
def execRsSum (h : Hart) (f : FormT) (s : State) : Res :=
  s.brReduceI h 0x00 f 2 false

/-- RS.MAX (R193). -/
def execRsMax (h : Hart) (f : FormT) (s : State) : Res :=
  s.brReduceI h 0x01 f 2 false

/-- RS.MIN (R193). -/
def execRsMin (h : Hart) (f : FormT) (s : State) : Res :=
  s.brReduceI h 0x02 f 2 false

/-- RS.ARGMAX (R193). -/
def execRsArgmax (h : Hart) (f : FormT) (s : State) : Res :=
  s.brReduceI h 0x03 f 2 false

/-- RS.SCAN: inclusive prefix sums by segment (R193, R194). -/
def execRsScan (h : Hart) (f : FormT) (s : State) : Res :=
  s.brGoT h 0x0F 0x04 f (onlyBits f.ext 0x8F03F && decide (brTy f ≤ 2) && isZ f.src2 && decide (brLow f < 16)) [] []
    [f.mask.toNat, brLow f] (fun _ => true)

/-- RS.DOT (R193). -/
def execRsDot (h : Hart) (f : FormT) (s : State) : Res :=
  s.brReduceI h 0x05 f 0 true

/-- SM.SOFTMAX of a row (R196, R197). -/
def execSmSoftmax (h : Hart) (f : FormT) (s : State) : Res :=
  s.brGoT h 0x0F 0x08 f (smOk f && decide (f.dst.toNat + brLow f ≤ 63)) [f.src2.toNat] [] (smMasks f) (fun _ => true)

/-- SM.LSE of a row (R196, R197). -/
def execSmLse (h : Hart) (f : FormT) (s : State) : Res :=
  s.brGoT h 0x0F 0x09 f (smOk f && isA f.dst) [f.dst.toNat, f.src2.toNat] [] (smMasks f) (fun _ => true)

end Sys2Proof.Machine
end

