-- ==== Sys2Proof/Machine/PowerOps.lean ====
section
/-! DEFINITION. The power-stage controller: samples, the governor, the shed ladder, domains, resets and power-up (R12, R18, R19,
R33 to R35, R46, R317 to R320, R473 to R490, R523, R531, R535, R536, R539, R540). -/

namespace Sys2Proof.Machine

/-! ### The governor (R318, R320) -/

/-- Would the policy test admit an estimate of 0 on a group of a list (R320)? -/
def State.wouldAdmit (s : State) (gs : List Nat) : Bool := gs.any (fun g => s.policyOk 0 g)

/-- A throttle or stop starts: a conflict is counted where the policy would admit (R320). -/
def State.govStart (s : State) (was now : Bool) (gs : List Nat) : State :=
  if !was && now && s.wouldAdmit gs then s.bump regDxGovConflict else s

/-- An action with its condition and its release. -/
def latch (was on off : Bool) : Bool := if was then !off || on else on

/-- The power part of the governor, levels scaled by n / 40 (R318, R476). P is in 0.1 W. -/
def State.governPower (s : State) : State :=
  let n := s.phases
  let ps := s.power.pins
  let mean (k x : Nat) : Bool :=        -- the mean of the last k samples is above x W
    let l := ps.take k
    decide (l.sum * 40 > x * 10 * n * l.length)
  let p10 (x : Nat) : Bool := decide (ps.headD 0 * 40 > x * 10 * n)
  let g := s.dx.gov
  let rel := !mean 100 930
  let a := latch g.padmit (mean 100 950) rel
  let b := latch g.pthr (p10 1100 || mean 800 950) rel
  let c := latch g.pstop (p10 1140) (!p10 1100)
  let all := upto 16
  let t := ((s.govStart g.padmit a all).govStart g.pthr b all).govStart g.pstop c all
  t.setDx { t.dx with gov := { t.dx.gov with padmit := a, pthr := b, pstop := c } }

/-- The temperature part (R318); sensors count in 0.0625 °C. -/
def State.governTemp (s : State) : State :=
  let g := s.dx.gov
  let upd (old : BitVec 16) (on off : Int) : BitVec 16 :=
    (upto 16).foldl (fun (m : BitVec 16) i => if latch (old.getLsbD i) (decide (s.hottest i ≥ on)) (decide (s.hottest i ≤ off))
      then m ||| BitVec.ofNat 16 (2 ^ i) else m) 0
  let ts := upd g.tstop 1600 1568
  let tt := upd g.tthr 1648 1616
  let hottest := (upto 16).foldl (fun m i => max m (s.hottest i)) (s.hottest 0)
  let h := latch g.hot (decide (hottest ≥ 1672)) (decide (hottest ≤ 1632))
  let s1 := (upto 16).foldl (fun (t : State) i =>
    (t.govStart (g.tstop.getLsbD i) (ts.getLsbD i) [i]).govStart (g.tthr.getLsbD i) (tt.getLsbD i) [i]) s
  let s2 := s1.govStart g.hot h (upto 16)
  s2.setDx { s2.dx with gov := { s2.dx.gov with tstop := ts, tthr := tt, hot := h } }

/-! ### L3 and L4 (R482 to R485) -/

/-- The actions of L3 beside those that read STEP: the emergency folio (R416, R421, R482). -/
def State.enterL3 (s : State) : State :=
  if s.pwHeld then s
  else
  let t := (s.setRbit regPwStatus 14 false).modPower (fun p => { p with saveDue := true })
  -- a folio already in progress is the emergency folio
  if t.folioPhase = 0 then t.requestFolio true else t

/-- The actions of L4: a paired member departs, the folio and the Inkwell save are abandoned, the firmware and the links stop,
what caches held is lost, rows 1 to 7 go OFF, and the module is held (R421, R483 to R485). -/
def State.enterL4 (s : State) : State :=
  if s.pwHeld then s
  else
    let s1 := if s.isPaired then s.orderDepart else s
    let s2 := s1.folioAbandon
    let s3 := if s2.power.saving then (s2.modPower (fun p => { p with saving := false })).bump regPwIwsaveAbandon else s2
    let s4 := s3.modPower (fun p => { p with saveDue := false, high := 0, booting := false })
    -- an update of the manager ends with the flash interface (R526)
    let s5 := (({ s4 with mgr := { s4.mgr with upd := none } } : State).setRbit regFeStatus 1 false).setRbit regFwStatus 0 false
      |>.setRbit regFwStatus 5 false
    let s6 := (upto 132).foldl (fun (t : State) c => t.loseCaches c) s5.lanDown
    let s7 : State := { s6 with dx := { s6.dx with stopped := true }, blot := { s6.blot with fills := [], restoring := false } }
    let s8 := s7.queueDoms shedRows 0
    s8.setRbit regPwStatus 12 true

/-! ### Resets (R12, R46, R485, R540) -/

/-- Is a register one of the Ferrule island, which a warm reset spares? The LD_ registers are among them, though their Reset column
speaks of module reset (DESIGN CHOICE, log 61). -/
def islandReg (k : Nat) : Bool :=
  match regAt k with
  | some (d, _, _) => d.blk == .fe || d.blk == .pw || d.blk == .ld
  | none => false

/-- Settings that the firmware keeps in Reservoir with its jobs and puts back after a warm reset (R485, R549; DEDUCED, log 49). -/
def keptReg (k : Nat) : Bool :=
  match regAt k with
  | some (d, _, _) => ["SC_JOB_PTBR", "NB_TBDIR", "CB_MIRMAP", "NB_UNDO", "NB_EDGEN", "HM_PINQ", "DX_OWNAREA", "DX_SPILL", "CB_FOLIOAREA",
      "CB_TXQ", "CB_SEALED", "LN_VISTAB", "FW_JOURNAL", "FW_RING0", "BL_IWHWM", "EN_ING", "EN_INGMK", "EN_INGREL", "EN_INGPROD", "EN_QPTAB",
      "NB_HOTAREA"].contains d.name
  | none => false

/-- Everything but the Ferrule island restarts. With `keep` the Reservoir holds its contents and what stands in it; Inkwell and Sheets
hold nothing. -/
def State.moduleReset (s : State) (keep : Bool) : State :=
  let res (pa : Nat) : Bool := keep && decide (pa < 0x10000000000)
  { pending := s.pending, free := s.free, time := s.time, out := s.out
    regs := s.regs.filter (fun r => islandReg r.1)
    mem := s.mem.filter (fun c => res c.1)
    poison := s.poison.filter res
    ledger := s.ledger, ledlog := s.ledlog
    power := s.power
    dx := { gov := { ext := s.rbit regFePins 1 } }
    mgr := { s.mgr with upd := none }
    fw := { slotA := s.fw.slotA, slotB := s.fw.slotB, kept := if keep then s.regs.filter (fun r => keptReg r.1) else [] }
    jobs := if keep then s.jobs else []
    tables := if keep then s.tables else []
    undo := if keep then s.undo else []
    rings := if keep then s.rings else []
    pubq := if keep then s.pubq.filter (fun p => p.host.isSome) else []
    events := if keep then s.events else []
    sealedImg := if keep then s.sealedImg else none
    groups := if keep then s.groups else []
    ingest := if keep then s.ingest else []
    twin := { plog := if keep then s.twin.plog else [], discarded := keep && s.twin.discarded } }

/-- Domains come up ON-ISOLATED in the reverse order of R480 (R539 step 2); SHED shows 0b110. -/
def State.bringUp (s : State) : State :=
  let t := (s.isolate (upto 176)).queueDoms (shedRows ++ lastRow).reverse 1
  (t.modPower (fun p => { p with booting := true })).powerShow

/-- The counts of the ladder start again. -/
def State.ladderClear (s : State) : State :=
  let t := s.modPower (fun p => { p with low := [], exitOk := 0, ovp := 0, hot3 := 0, hot4 := 0, cool := 0, done := 0, orderWarm := false })
  ((t.setRfld regPwStatus 7 5 0).setRfld regPwStatus 10 8 0).setRbit regPwStatus 11 false

/-- The warm reset (R485, R540): FAULT_N is deasserted, everything but the island and the Reservoir restarts. -/
def State.warmReset (s : State) : State :=
  let s0 := (s.setRbit regFeOrder 0 false).setRbit regFeStatus 0 true
  let s1 := (s0.setRbit regFePins 8 false).moduleReset true
  -- Inkwell contents that no save holds are lost
  let s2 : State := { s1 with fw := { s1.fw with inkLost := !s1.rbit regPwStatus 14 } }
  (s2.setRbit regPwStatus 12 true).ladderClear.bringUp

/-- FE_ORDER.WARM: the actions of L4, then a warm reset without the wait; ignored during one (R523). -/
def State.feOrderWarm (s : State) : State :=
  if s.rbit regFeStatus 0 || s.power.booting then s
  else ((s.setRbit regFeOrder 0 true).enterL4).modPower (fun p => { p with orderWarm := true })

/-- L5: every domain goes OFF; what comes next is a power-up (R481, R485). -/
def State.enterL5 (s : State) : State :=
  let t := (s.setRbit regFePins 8 false).moduleReset false
  let u := t.queueDoms (shedRows ++ lastRow) 0
  (u.setRbit regPwStatus 12 true).modPower (fun p => { p with full := true, booting := false, high := 0 })

/-- The brown-out reset: the whole module, island included; Ledger and flash keep their contents (R46, R481). -/
def State.brownOut (s : State) : State :=
  { pending := s.pending, free := s.free, out := s.out, ledger := s.ledger, ledlog := s.ledlog
    fw := { slotA := s.fw.slotA, slotB := s.fw.slotB } }

/-! ### The ladder (R474, R481, R482, R488) -/

/-- The actions of every step up to the effective one that have not been performed, in ladder order (R482). Where the ladder falls back
below L3, Fair-copy entries resume (R56). -/
def State.ladderActions (s : State) : State :=
  let e := s.effStep
  let d := s.power.done
  let s1 := if d < 3 ∧ 3 ≤ e then s.enterL3 else s
  let s2 := if d < 4 ∧ 4 ≤ e then s1.enterL4 else s1
  let s3 := if d < 5 ∧ 5 ≤ e then s2.enterL5 else s2
  let s4 := (s3.modPower (fun p => { p with done := e })).powerShow
  if 3 ≤ d ∧ e < 3 then s4.commitsGoOn else s4

/-- The threshold of a step in 10 mV. -/
def State.shedThr (s : State) (i : Nat) : Nat := 10 * s.rfld regPwShedthr (59 - 10 * i) (50 - 10 * i)

/-- Consecutive samples below threshold i. -/
def State.lowCount (s : State) (i : Nat) : Nat := smapGet (fun _ => 0) s.power.low i
def State.countLow (s : State) (i : Nat) (below : Bool) : State :=
  s.modPower (fun p => { p with low := smapSet (fun _ => 0) p.low i (if below then min 2 (s.lowCount i + 1) else 0) })

/-- Counts of one sample (R474, R481, R485). -/
def State.countSample (s : State) (vin vhu : Nat) : State :=
  let s1 := (upto 4).foldl (fun (t : State) i => t.countLow (i + 1) (decide (vin < s.shedThr (i + 1)))) s
  let s2 := (s1.countLow 5 (decide (vhu < s.shedThr 5))).countLow 6 (decide (vhu < 2800))
  let ok := decide (vin ≥ 4250) && (!s.ovp || decide (vin ≤ 6000))
  s2.modPower (fun p => { p with
    high := if ok then min 10000 (p.high + 1) else 0
    ovp := if vin > 6100 then min 2 (p.ovp + 1) else 0 })

/-- Entries and exits of the voltage ladder (R481, R482). -/
def State.voltLadder (s : State) (vin : Nat) : State :=
  let v := s.vstep
  let target := (upto 6).foldl (fun m i => if 1 ≤ i ∧ i ≤ 5 ∧ s.lowCount i ≥ 2 then max m i else m) 0
  if target > v then
    let t := (upto 6).foldl (fun (t : State) i => if v < i ∧ i ≤ target then t.bump (regPwL1 + 8 * (i - 1)) else t) s
    (t.setRfld regPwStatus 7 5 target).modPower (fun p => { p with exitOk := 0 })
  else if 1 ≤ v ∧ v ≤ 3 ∧ s.pwHeld = false then
    if vin ≥ s.shedThr v + 50 then
      (if s.power.exitOk + 1 ≥ 100 then (s.setRfld regPwStatus 7 5 (v - 1)).modPower (fun p => { p with exitOk := 0 })
       else s.modPower (fun p => { p with exitOk := p.exitOk + 1 }))
    else s.modPower (fun p => { p with exitOk := 0 })
  else s

/-- An over-voltage (R474). -/
def State.overVolt (s : State) : State :=
  if s.power.ovp ≥ 2 ∧ s.ovp = false then (s.setRbit regPwStatus 11 true).bump regPwOvp else s

/-- The thermal ladder (R488); sensors in 0.0625 °C. -/
def State.thermLadder (s : State) : State :=
  let hottest := (upto 16).foldl (fun m i => max m (s.hottest i)) (s.hottest 0)
  let s1 := s.modPower (fun p => { p with
    hot3 := if hottest ≥ 1680 then min 2 (p.hot3 + 1) else 0
    hot4 := if hottest ≥ 1760 then min 2 (p.hot4 + 1) else 0
    cool := if hottest ≤ 1600 then p.cool + 1 else 0 })
  let n := if s1.power.hot4 ≥ 2 then 4 else if s1.power.hot3 ≥ 2 then 3 else 0
  if n > s1.tstep then ((s1.setRfld regPwStatus 10 8 n).bump regPwTherm).modPower (fun p => { p with cool := 0 })
  else if s1.tstep = 3 ∧ s1.pwHeld = false ∧ s1.power.cool ≥ 1000 then s1.setRfld regPwStatus 10 8 0
  else s1

/-- A sample reaches the registers, the energy counter, the governor and the ladder (R318, R477, R478, R481). -/
def State.powerSample (s : State) (p : PowerSample) : State :=
  let pin := p.vin * p.iin / 1000
  let v := BitVec.ofNat 64 (p.vhu % 65536 * 2 ^ 48 + p.vin % 65536 * 2 ^ 32 + p.iin % 65536 * 2 ^ 16 + pin % 65536)
  let s0 := (s.modPower (fun q => { q with started := 0 })).startSwitches
  let s1 := (s0.setReg regPwInput v).addNj regPwEin 64 (p.vin * p.iin)
  let s2 := (s1.modPower (fun q => { q with pins := (pin :: q.pins).take 800 })).countSample p.vin p.vhu
  if s2.lowCount 6 ≥ 2 then s2.brownOut
  else (((s2.governPower).voltLadder p.vin).overVolt).ladderActions

/-! ### Power-up (R18, R19, R539) -/

/-- The map of a group from the slots that pass, and its folds: logical and host (R19). -/
def groupMap (g : Nat) (pass : List Bool) : Word × List (Nat × Nat) :=
  let ok := (upto 9).filter (fun i => pass.getD i false)
  let n := min 8 ok.length
  let slot (i : Nat) : Nat := if i < n then ok.getD i 0 else ok.getD (i - n) 0
  let folds := (upto 8).filterMap (fun i => if n ≤ i then some (8 * g + i, 8 * g + (i - n)) else none)
  let m := ((upto 8).map (fun i => slot i * 16 ^ i)).sum + (if ok.length = 9 then ok.getD 8 15 else 15) * 2 ^ 32 + (if n < 8 then 2 ^ 46 else 0)
  (BitVec.ofNat 64 m, folds)

/-- The self-test's result for one group: its map, its folds, its domains; fewer than four slots are a class M report (R19,
R33), which names cluster-region 9g and leaves the map at its reset value (DESIGN CHOICE, log 62). -/
def State.groupTest (s : State) (g : Nat) (pass : List Bool) : State :=
  let ok := (upto 9).filter (fun i => pass.getD i false)
  if ok.length < 4 then s.report ⟨0x20, ⟨0, 9 * g⟩, 0, 0, none, false⟩
  else
    let (m, folds) := groupMap g pass
    let s1 := s.setReg (regScGroupMap g) m
    let s2 := (ok.take 8).foldl (fun (t : State) i => t.setDom (9 * g + i) 2) s1
    if folds.isEmpty then s2
    else
      let t := (s2.setRbit regBlStatus 4 true).setReg regBlIwhwm 384
      { t with
        blot := { t.blot with folds := smapSet (fun _ => 0) t.blot.folds g folds.length }
        dx := { t.dx with folds := t.dx.folds ++ folds.map (fun f => (⟨g, f.2, f.1, f.2, false, 384 * 32768⟩ : Fold)) } }

/-- The role that a module takes after reset (R400, R401). -/
def State.startRole (s0 : State) : State :=
  let s := s0.setRbit regCbStatus 11 (s0.rbit regFePins 2)
  match s.pairing with
  | none => s.setRfld regCbStatus 2 0 0
  | some (_, letter) => (s.setRbit regCbStatus 5 (letter == 1)).setRole 1

/-- Is V_IN good for a start: 100 ms at or above 42.5 V, with every sensor at 100 °C or less after a thermal L4 (R485, R488)? -/
def State.startOk (s : State) : Bool :=
  decide (s.power.high ≥ 10000) && (decide (s.tstep < 4) || (upto 16).all (fun i => decide (s.hottest i ≤ 1600)))

/-- The registers of the island that show the Ledger (R514); the management addresses (R519, R520). -/
def State.islandStart (s : State) : State :=
  let t := (upto 10).foldl (fun (t : State) i => t.ledShow (i + 1)) s
  let a := (t.led 8).value
  ((t.setRfld regFeStatus 8 2 ((a.getD 0 0#8).toNat % 128)).setRfld regFeStatus 23 16 (a.getD 1 0#8).toNat).setRbit regPwStatus 12 true

end Sys2Proof.Machine
end

