-- ==== Sys2Proof/Machine/FirmwareOps.lean ====
section
/-! DEFINITION. The firmware on the copyists: boot, placement, ring entries as they are consumed, restart (R485, R491 to R502, R505,
R508 to R513, R549). -/

namespace Sys2Proof.Machine

/-! ### Images (R493 to R495) -/

def hashBytes (h : BitVec 256) : List Byte := leBytes 32 h.toNat

/-- The failure code of a slot (R494): 0 accepted. -/
def State.imageFail (s : State) (im : Option FwImage) : Nat :=
  match im with
  | none => 1
  | some i =>
    let owned := decide (s.ledNum 3 ≠ 0)
    if !i.formOk then 1
    else if i.svn.toNat < s.ledNum 6 then 2
    else if i.payDigest ≠ i.payHash ∨ i.runDigest ≠ i.runHash then 3
    else if i.vendorPkHash ≠ Config.vendorKeyHash then 4
    else if !i.vendorSigOk then 5
    else if owned ∧ hashBytes i.ownerPkHash ≠ (s.led 3).value then 6
    else if owned ∧ i.ownerSigOk = false then 7
    else 0

def State.slotImage (s : State) (slot : Nat) : Option FwImage := if slot = 0 then s.fw.slotA else s.fw.slotB
def State.setSlot (s : State) (slot : Nat) (im : Option FwImage) : State :=
  { s with fw := if slot = 0 then { s.fw with slotA := im } else { s.fw with slotB := im } }

/-- The slot that the boot ROM tries first (R495). -/
def State.firstSlot (s : State) : Nat :=
  match (s.led 7).value with
  | b :: _ => b.toNat % 2
  | [] =>
    let svn (i : Option FwImage) : Nat := (i.map (fun x => x.svn.toNat + 1)).getD 0
    if svn s.fw.slotB > svn s.fw.slotA then 1 else 0

/-! ### Placement (R499, R549) -/

def ringCb (r : Nat) : Nat := 0xFFC1000000 + 4096 * r
def ringSq (r : Nat) : Nat := 0xFFC2000000 + 0x200000 * r
def ringCq (r : Nat) : Nat := ringSq r + 0x100000

/-- Create a ring pair: its pages are Exchange pages, its control block is written (R499). -/
def State.ringCreate (s : State) (r : Nat) (fair : Bool) (sq cq : Nat) : State :=
  let s1 := s.setRing r { created := true, cb := ringCb r }
  let b := leBytes 8 (ringSq r) ++ leBytes 8 (ringCq r) ++ leBytes 1 sq ++ leBytes 1 cq ++ leBytes 1 (b2n fair) ++ List.replicate 45 0#8
  let inCq (pa : Nat) : Bool := decide (ringCq r ≤ pa ∧ pa < ringCq r + 64 * 2 ^ cq)
  let s2 := (({ s1 with mem := s1.mem.filter (fun c => !inCq c.1), poison := s1.poison.filter (fun w => !inCq w) } : State).homeForce
    (ringCb r) b)
  ((s2.setVis (ringCb r) 4096 1).setVis (ringSq r) (64 * 2 ^ sq) 1).setVis (ringCq r) (64 * 2 ^ cq) 1

/-- The first boot after a cold start chooses addresses: the visibility table, the journal on Visible pages, ring pair 0; a later one
finds them, and puts back what it has kept (R485, R549; DESIGN CHOICE, log 51). -/
def State.place (s : State) : State :=
  if s.fw.kept.isEmpty then
    let s1 := s.setReg regLnVistab (BitVec.ofNat 64 (0xFFD0000000 + 1))
    let s2 := (s1.setReg regFwJournal (BitVec.ofNat 64 (0xFFC0000000 + 1))).setVis 0xFFC0000000 (64 + 64 * 65536) 2
    (s2.ringCreate 0 true 8 14).setReg regFwRing0 (BitVec.ofNat 64 (ringCb 0 + 1))
  else
    let t := s.fw.kept.foldl (fun (t : State) r => if r.1 = regBlIwhwm then t.iwhwmWrite r.2 else t.setReg r.1 r.2) s
    { t with fw := { t.fw with kept := [] } }

/-! ### Copyists (R491, R492) -/

/-- The working copyists: those whose domain is joined. -/
def State.workers (s : State) : List Nat := (upto 4).filter (fun p => s.joined (163 + p))

/-- The runtime section starts on the working copyists; where it begins is not given, and is free (log 52). -/
def State.startCopyists (s : State) : State :=
  s.workers.foldl (fun (t : State) p =>
    let (w, u) := t.draw
    let c : Ctx := { task := { job := fwJob }, run := .ready, pc := pc48 w &&& ~~~7 }
    let v := (u.setCtx ⟨128 + p, 0⟩ c).setCtx ⟨128 + p, 1⟩ c
    { v with fw := { v.fw with kicks := smapSet (fun _ => 0) v.fw.kicks p v.time } }) s

/-! ### Jobs after a warm reset (R485) -/

/-- Inkwell contents return from the save area (R483, R485). -/
def State.inkwellBack (s : State) : State :=
  let base := s.rfld regPwIwsave 47 30 * 2 ^ 30
  (s.mem.filter (fun c => decide (base ≤ c.1 ∧ c.1 < base + 3 * 2 ^ 30))).foldl (fun (t : State) c =>
    t.wr (inkwellBase ((c.1 - base) / 25165824) + (c.1 - base) % 25165824) c.2) s

/-- A module that runs alone restarts every job from its local sealed image; jobs that need Inkwell contents which nothing restores
are lost (R485). The cause and the record that their events name are not given, and are free (log 53). -/
def State.restartAll (s : State) : State :=
  let js := (upto 16).filter (fun j => (s.job j).loaded && !(s.job j).lost)
  let gone := if s.fw.inkLost then js.filter (fun j => (s.job j).usesInkwell) else []
  let s1 := (upto 16).foldl (fun (t : State) j => if (t.job j).loading then t.setJob j {} else t) s
  let (w, s2) := s1.draw
  let s3 := if s.fw.inkLost then s2 else s2.inkwellBack
  let s4 := s3.loseJobs gone (w.toNat % 256) 0
  let s5 : State := { s4 with fw := { s4.fw with inkLost := false } }
  let s6 := (s5.addRestart (w.toNat % 256) 0 (js.filter (fun j => !gone.contains j)))
  if s6.blot.jobs.isEmpty then s6.settleQueues [] else s6.beginRestart

/-- Commit records that had left before a reset and were not recorded here come to nothing in a module that runs alone. -/
def State.dropCommits (s : State) : State :=
  { s with rings := smapMap (fun _ => {}) (fun _ k => { k with opened := k.opened.map (fun e =>
      if e.compl.isNone then { e with commit := none, cmd := none } else e) }) s.rings }

/-- A module that has just been reset and runs alone. -/
def State.aloneNow (s0 : State) : State :=
  let s := s0.dropCommits
  if s.jobs.any (fun x => decide (x.1 < 16) && (x.2.loaded || x.2.loading)) && s.ctxs.all (fun x => decide (256 ≤ x.1)) then s.restartAll
  else s.settleQueues []

/-! ### Boot (R496, R497) -/

/-- Measurements 0 to 4 (R497). -/
def State.measureBoot (s : State) (slot : Nat) (i : FwImage) : State :=
  let led := ([1] ++ (upto 8).map (fun e => e + 3)).flatMap (fun e => (s.led e).value)
  ((((s.extend 0 Config.romMeasure).extend 1 (hashBytes i.runHash)).extend 2 (hashBytes i.payHash)).extend 3 (sha3 led)).extend 4
    (leBytes 1 slot ++ leBytes 4 i.svn.toNat ++ leBytes 8 i.version.toNat)

/-- The firmware is up: it places its structures, enables caches, serves what waited (R485, R496, R510). -/
def State.bootDone (s : State) : State :=
  let s1 := s.place
  let s2 := ((upto 128).filter (fun k => s1.joined (s1.phys k))).foldl (fun (t : State) k => t.enableCaches k) s1
  let s3 := (s2.workers.foldl (fun (t : State) p => t.enableCaches (128 + p)) s2).startCopyists
  let s4 : State := { (s3.setRbit regFwStatus 0 true) with fw := { s3.fw with eventNo := 0 } }
  let s5 := (upto 64).foldl (fun (t : State) r => t.takeDoorbell r) s4
  ((if s5.role = 0 ∨ s5.role = 4 then s5.aloneNow else s5).folioSettle).settleAll

/-- One slot is read and checked: it boots, or the other is tried, or none is left (R494 to R496). -/
def State.bootSlot (s : State) : State :=
  let slot := s.fw.trying.getD s.firstSlot
  let code := s.imageFail (s.slotImage slot)
  let s1 := if slot = 0 then s.setRfld regFwBoot 7 0 code else s.setRfld regFwBoot 15 8 code
  match s.slotImage slot, decide (code = 0) with
  | some i, true =>
    let s2 := ((s1.setRbit regFwStatus 1 (slot == 1)).setRfld regFwBoot 63 32 i.svn.toNat).measureBoot slot i
    ({ s2 with fw := { s2.fw with trying := none, tried := [], version := i.version } } : State).bootDone
  | _, _ =>
    if s.fw.tried.contains (1 - slot) then
      let s2 := ({ s1 with fw := { s1.fw with trying := none, tried := [] } } : State).setRbit regFwStatus 3 true
      s2.fail.alert 4
    else { s1 with fw := { s1.fw with trying := some (1 - slot), tried := slot :: s1.fw.tried } }

/-- May the boot ROM read flash: copyist 0 is released, the firmware does not run, and flash is reached. -/
def State.bootable (s : State) : Bool :=
  s.joined 163 && s.joined 175 && !s.pwHeld && !s.rbit regFwStatus 0 && !s.rbit regFwStatus 5 && !s.rbit regFwStatus 3

/-! ### Consuming entries (R56, R402, R500 to R505) -/

/-- What R504 says of a command's ORDERED flag. -/
inductive OrdRule where
  | required
  | pair0
  | never
  | neverFair
  deriving DecidableEq, Repr

def opcRule : Nat → Option OrdRule
  | 0x01 => some .never | 0x02 => some .pair0 | 0x03 => some .pair0
  | 0x10 => some .required | 0x11 => some .required | 0x12 => some .required | 0x13 => some .never | 0x14 => some .neverFair
  | 0x15 => some .never | 0x16 => some .never | 0x17 => some .required
  | 0x20 => some .required | 0x21 => some .required | 0x22 => some .never | 0x23 => some .never | 0x24 => some .never
  | 0x30 => some .required | 0x31 => some .required | 0x32 => some .required
  | 0x40 => some .required | 0x41 => some .required | 0x42 => some .required | 0x43 => some .never | 0x44 => some .required
  | _ => none

/-- Entries that a STANDBY answers; a submitted task is Fair-copy by its descriptor (R295, R402, R505). -/
def standbyOpc (opc : Nat) (fair : Bool) : Bool :=
  opc == 0x01 || opc == 0x22 || opc == 0x23 || opc == 0x24 || opc == 0x15 || opc == 0x16 || (opc == 0x13 && fair)

/-- What a consumed entry is answered before it is executed (R402, R502 to R505): none, it goes on. -/
def State.entryAnswer (s : State) (r : Nat) (e : RingEnt) : Option Compl :=
  let opc := e.byte 0
  let ordered := e.byte 1 % 2 == 1
  let fair := s.ringFair r
  let d (reason : Nat) : Option Compl := some (doneWith reason 0 [])
  if (s.role = 3 ∨ s.role = 6) ∧ standbyOpc opc (decide (128 ≤ e.byte 23)) = false then some (notDone 0x11)
  else match opcRule opc with
    | none => d 1
    | some rule =>
      if e.byte 1 ≥ 2 ∨ e.byte 3 ≠ 0 then d 2
      else if ordered && !fair then d 3
      else match rule with
        | .required => if ordered then none else d 3
        | .pair0 => if ordered && r == 0 then none else d 3
        | .never => if ordered then d 3 else none
        | .neverFair => if ordered || !fair then d 3 else none

/-- Is a job loaded, and not stopped? -/
def State.jobRuns (s : State) (j : Nat) : Bool := (s.job j).loaded && !(s.job j).stopped && !(s.job j).lost

/-- The entry that a pair would consume next. -/
def State.nextEnt (s : State) (r : Nat) : RingEnt :=
  { seq := BitVec.ofNat 64 (s.cbf r 40 8), bytes := s.rdN (s.cbf r 0 8 + 64 * (s.cbf r 32 4 % 2 ^ s.cbf r 16 1)) 64 }

/-- Would a pair's next entry submit a task that the queues cannot take (R304)? -/
def State.submitStalls (s : State) (r : Nat) : Bool :=
  let e := s.nextEnt r
  let j := e.byte 2
  let d := padB 64 (sliceB e.bytes 8 32)
  e.byte 0 == 0x13 && (s.entryAnswer r e).isNone && decide (j < 16) && s.jobRuns j && taskDescOk d
    && (s.enqueue (taskOf d j 0 0 none none (128 + r))).isNone

/-- May an entry of a pair be consumed now (R56, R304, R426, R460, R500)? A pair that has stalled waits until its task can go in. -/
def State.mayConsume (s : State) (r : Nat) : Bool :=
  let k := s.ring r
  s.fwUp && k.created && !s.blFailed && s.role != 1 && s.role != 7 && decide (s.ringWaiting r ≠ 0)
    && !(s.ringFair r && (s.role == 5 || decide (s.shed ≥ 3)))
    && !k.opened.any (fun e => e.byte 0 == 0x13 && e.compl.isNone) && !k.deleting
    && !(s.dx.stalled.contains (128 + r) && s.submitStalls r)

/-- Fair-copy pairs come before Draft pairs, each class in turn (R500). -/
def State.ringTurn (s : State) (r : Nat) : Bool :=
  let ready := (upto 64).filter (fun q => s.mayConsume q)
  let fair := ready.filter (fun q => s.ringFair q)
  let cls := if fair.isEmpty then ready else fair
  let fresh := cls.filter (fun q => !s.fw.deferred.contains q)
  if fresh.isEmpty then cls.contains r else fresh.contains r

/-- The firmware consumes the next entry of a pair and answers what needs no execution; one whose task the queues cannot take is not
consumed, and the pair stalls (R304). -/
def State.ringConsume (s : State) (r : Nat) : State :=
  let ready := (upto 64).filter (fun q => s.mayConsume q && (s.ringFair q == s.ringFair r))
  let served := if ready.all (fun q => s.fw.deferred.contains q) then s.fw.deferred.filter (fun q => !ready.contains q) else s.fw.deferred
  let t : State := { s with fw := { s.fw with deferred := r :: served } }
  if t.submitStalls r then t.stall (128 + r) else
  let u := (t.unstall (128 + r)).consume r
  match (u.ring r).opened.getLast? with
  | none => u
  | some e => match u.entryAnswer r e with
    | some c => u.complete r e.seq c
    | none => u

/-! ### Restart (R509 to R513) -/

/-- A restart begins with a cause; the FWDOWN alert is set (R509, R528). -/
def State.fwCrash (s : State) (cause : Nat) : State := if s.rbit regFwStatus 5 then s else s.fwHalt cause

/-- The restart is complete (R511, R512): effect records are answered, every other entry is executed again, deferred requests go on. -/
def State.fwRestarted (s : State) : State :=
  let cause := s.fw.cause
  let s1 := if cause = 5 then
      let slot := s.fw.trying.getD 0
      let v := (s.slotImage slot).map (fun i => (i.version, i.svn.toNat))
      let t := (s.setRbit regFwStatus 1 (slot == 1)).setRfld regFwBoot 63 32 ((v.map (fun x => x.2)).getD 0)
      let u : State := { t with fw := { t.fw with trying := none, version := (v.map (fun x => x.1)).getD t.fw.version } }
      -- the boot preference follows (R513)
      if u.fw.prefDone then { u with fw := { u.fw with prefDone := false } } else (u.ledWrite 7 3 [BitVec.ofNat 8 slot] []).2
    else s
  let s2 := ((s1.setRbit regFwStatus 5 false).setRbit regFwStatus 0 true).bump regFwRestarts
  let recent := s2.time :: s2.fw.restarts.filter (fun t => decide ((s2.time - t).toNat < 60000000000))
  let s3 : State := { s2 with fw := { s2.fw with restarts := recent, cause := 0 } }
  let slot := b2n (s3.rbit regFwStatus 1)
  let s4 := s3.startCopyists.post
    ⟨7, 0, 0, 0, resultBytes [(0, [BitVec.ofNat 8 cause]), (8, leBytes 8 (s3.reg regFwRestarts).toNat), (16, [BitVec.ofNat 8 slot])]⟩
  let s5 := (upto 64).foldl (fun (t : State) r => t.takeDoorbell r) s4
  let s6 := if recent.length ≥ 4 then (s5.setRbit regFwStatus 4 true).report ⟨0x20, ⟨6, 0⟩, 0, 0, none, false⟩ else s5
  (s6.folioSettle).settleAll

end Sys2Proof.Machine
end

