-- ==== Sys2Proof/Machine/EthernetOps.lean ====
section
/-! DEFINITION. The Ethernet ports: queue-pair contexts, inbound messages, the send ring, retransmission and rates, group control
messages, event ingest, and writes of the block's registers (R433 to R448). -/

namespace Sys2Proof.Machine

/-! ### Ports and queue-pair contexts (R433, R435, R440) -/

/-- Is a port up: its domain joined and its link trained? -/
def State.portUp (s : State) (p : Nat) : Bool :=
  decide (p < 2) && s.joined (172 + p) && decide (s.rfld regEnStatus (3 * p + 1) (3 * p) = 2)

def State.qpValid (s : State) (q : Nat) : Bool := decide (q < 1024) && (s.qpFlags q).testBit 0
def State.qpCtrl (s : State) (q : Nat) : Bool := (s.qpFlags q).testBit 1

/-- Is a queue pair ready, on a port that is up? -/
def State.qpReady (s : State) (q : Nat) : Bool := s.qpValid q && decide (s.qpf q 1 1 = 1) && s.portUp (s.qpPort q)

/-- Packets of a message at the path MTU (R435). -/
def packetsOf (n : Nat) : Nat := max 1 ((n + 4095) / 4096)

/-- The page-table side of an inbound or outbound access is kept apart from the cores' (R98). -/
def etherCore : Nat := 200

/-- A range of the bound job's memory in device memory; a host page is none (DESIGN CHOICE, log 54). -/
def State.etherSpan (s : State) (j : Nat) (k : AccKind) (va n : Nat) : State × Option (List Part) :=
  match s.resolve etherCore j k (pieces va n) with
  | (t, .ok ps) => if ps.any (fun p => p.host) then (t, none) else (t, some ps)
  | (t, .poison pa) => (t.poisonedRead pa ⟨8, 2⟩ j, none)
  | (t, _) => (t, none)

/-- Read a range; a poisoned word delivers nothing for the whole range (R368). -/
def State.etherRead (s : State) (j va n : Nat) : State × Option (List Byte) :=
  match s.etherSpan j .load va n with
  | (t, none) => (t, none)
  | (t, some ps) => match ps.findSome? (fun p => t.firstPoison p.pa p.n) with
    | some w => (t.poisonedRead w ⟨8, 2⟩ j, none)
    | none =>
      let u := ps.foldl (fun (u : State) p => u.memRead p.pa p.n) t
      (u, some (ps.flatMap (fun p => u.rdN p.pa p.n)))

/-- Write the parts of a range at their homes. -/
def State.etherWrite (s : State) : List Part → List Byte → State
  | [], _ => s
  | p :: r, b => ((s.homeForce p.pa (b.take p.n))).etherWrite r (b.drop p.n)

/-- Write a range; a Visible page is never written (R100, R436). -/
def State.etherStore (s : State) (j va : Nat) (b : List Byte) : State × Bool :=
  match s.etherSpan j .store va b.length with
  | (t, some ps) =>
    if ps.any (fun p => t.vis p.pa == 2) then (t, false) else (t.etherWrite ps b, true)
  | (t, none) => (t, false)

/-! ### Errors (R436, R439) -/

/-- The queue pair enters the error state under R439: its entries end, QP_ERROR goes out, EN_QPERR counts. -/
def State.qpError (s : State) (q syndrome : Nat) : State :=
  let t := (s.setQpf q 1 1 2).setQp q { s.qpRt q with sent := [], slices := [], waits := [], retries := 0 }
  (t.bump regEnQperr).post ⟨5, s.qpJob q, 0, 0, resultBytes [(0, leBytes 2 q), (2, leBytes 1 syndrome)]⟩

/-- An inbound access fails: NAK remote access error, the error state, EN_RACC (R436). -/
def State.qpRefuse (s : State) (q psn : Nat) : State :=
  let t := (s.qpSend q 0x11 [psn, 0x62] []).setQpf q 1 1 2
  (t.setQp q { t.qpRt q with sent := [], slices := [], waits := [] }).bump regEnRacc

/-! ### Inbound messages (R436, R437, R440) -/

/-- A CE-marked packet is answered with a CNP at most once in 50 µs (R440). -/
def State.cnpTry (s : State) (q : Nat) (ce : Bool) : State :=
  let x := s.qpRt q
  let due := match x.cnpAt with
    | some t => decide ((s.time - t).toNat ≥ 50000)
    | none => true
  if ce && due then ((s.setQp q { x with cnpAt := some s.time }).qpSend q 0x81 [] []).bump regEnCnpTx else s

/-- How an inbound message stands against the expected PSN: it is the next, a repeat, or one has been lost. -/
inductive PsnAt where
  | next
  | repeated
  | ahead
  deriving DecidableEq, Repr

def State.psnAt (s : State) (q psn : Nat) : PsnAt :=
  let d := (psn + 2 ^ 24 - s.qpf q 60 4) % 2 ^ 24
  if d = 0 then .next else if d < 2 ^ 23 then .ahead else .repeated

/-- Take an inbound message whose ICRC is good, at its place in the sequence: a repeat is acknowledged again, a gap draws the NAK of a
sequence error (R436, R439). -/
def State.inbound (s : State) (q : Nat) (m : RdmaMsg) (go : State → State) : State :=
  if !s.qpReady q then s
  else
    let t := s.cnpTry q m.ce
    if !m.icrcOk then t
    else match t.psnAt q m.psn.toNat with
      | .next => if m.rkey.toNat = t.qpf q 8 4 then go t else t.qpRefuse q m.psn.toNat
      | .repeated => t.qpSend q 0x11 [(t.qpf q 60 4 + 2 ^ 24 - 1) % 2 ^ 24, 0] []
      | .ahead => t.qpSend q 0x11 [t.qpf q 60 4, 0x60] []

/-- The message is whole: the expected PSN moves past its packets and its last one is acknowledged. -/
def State.inboundDone (s : State) (q psn n : Nat) : State :=
  (s.setQpf q 60 4 ((psn + n) % 2 ^ 24)).qpSend q 0x11 [(psn + n + 2 ^ 24 - 1) % 2 ^ 24, 0] []

/-- An inbound write, and what follows it (R436, R437). -/
def State.rdmaWrite (s : State) (q : Nat) (m : RdmaMsg) (after : State → State) : State :=
  s.inbound q m (fun t =>
    match t.etherStore (t.qpJob q) m.va.toNat (padB m.len (m.bytes.take m.len)) with
    | (u, false) => u.qpRefuse q m.psn.toNat
    | (u, true) => after (u.inboundDone q m.psn.toNat (packetsOf m.len)))

/-- The control queue pair that joins this module to the peer of a queue pair: of the same job, at the same address (R437, R440). -/
def State.peerCtrl (s : State) (q : Nat) : Option Nat :=
  (s.ctrlPairs (s.qpJob q)).find? (fun c => s.rdN (s.qpBase c + 16) 16 == s.rdN (s.qpBase q + 16) 16)

/-- MARK_DROPPED goes to the sender on the control queue pair (R437). -/
def State.markDropped (s : State) (q handle psn : Nat) : State :=
  match s.peerCtrl q with
  | some c => s.sendCtl c 0x01 (s.qpJob q) [handle, psn]
  | none => s

/-- The mark signal of an immediate (R437, R339); Ethernet is class 6 of R330. -/
def State.immSignal (s : State) (q : Nat) (imm : BitVec 32) (psn : Nat) : State :=
  let hd := imm.toNat % 1024
  let inc := imm.toNat / 1024 % 65536
  if inc = 0 ∨ imm.toNat / 2 ^ 26 ≠ 0 then (s.bump regMkLinkDrop).markDropped q hd psn
  else match s.linkSignal (s.qpJob q) hd inc 6 with
    | (true, t) => t
    | (false, t) => t.markDropped q hd psn

/-- An inbound READ is answered with its data (R436). -/
def State.rdmaRead (s : State) (q : Nat) (m : RdmaMsg) : State :=
  s.inbound q m (fun t =>
    match t.etherRead (t.qpJob q) m.va.toNat m.len with
    | (u, none) => u.qpRefuse q m.psn.toNat
    | (u, some b) => (u.setQpf q 60 4 ((m.psn.toNat + packetsOf m.len) % 2 ^ 24)).qpSend q 0x10 [m.psn.toNat] b)

/-! ### The send ring (R438, R439) -/

/-- A signalled local mark (R340, R438). -/
def State.localSignal (s : State) (j : Nat) (hd : Option Nat) : State :=
  match hd with
  | none => s
  | some h => match s.handle j h with
    | some (n, _) => s.sendMark n ⟨6, .signal 1⟩
    | none => s

/-- Put the packets of an entry on the wire: for a write with its data, which is read as it stands now. -/
def State.emitEntry (s : State) (q : Nat) (e : QpEnt) (b : List Byte) (imm : Nat) : State :=
  let rk := s.qpf q 12 4
  match e.opc with
  | 3 => s.qpSend q 0x0C [e.psn, rk, e.rva.toNat, e.len] []
  | 2 => s.qpSend q 0x0B [e.psn, rk, e.rva.toNat, e.len, imm] b
  | _ => s.qpSend q 0x0A [e.psn, rk, e.rva.toNat, e.len] b

/-- The address and the bytes of ring entry n. -/
def State.sendAddr (s : State) (q n : Nat) : Nat := s.qpf q 40 8 + 64 * (n % max 1 (s.qpf q 48 4))
def State.sendEntry (s : State) (q n : Nat) : List Byte := s.rdN (s.sendAddr q n) 64

/-- Is a send entry well formed (table of R438)? -/
def entryOk (b : List Byte) : Bool :=
  let le (o n : Nat) : Nat := leNat (sliceB b o n)
  decide (1 ≤ le 0 1 ∧ le 0 1 ≤ 3) && decide (le 1 1 < 2) && decide (1 ≤ le 4 4 ∧ le 4 4 ≤ 2 ^ 31) && decide (le 28 36 = 0)

/-- The next ring entry is taken: malformed, or with local data that cannot be read, it stops the queue pair (R438, R439). -/
def State.takeEntry (s : State) (q : Nat) : State :=
  if !s.qpReady q then s
  else
    let x := s.qpRt q
    let b := s.sendEntry q x.taken
    let s := s.memRead (s.sendAddr q x.taken) 64
    let le (o n : Nat) : Nat := leNat (sliceB b o n)
    let stop (t : State) : State := let (w, u) := t.draw; u.qpError q (w.toNat % 256)
    if !entryOk b then stop s
    else
      let e : QpEnt := { opc := le 0 1, psn := s.qpf q 56 4 % 2 ^ 24, packets := packetsOf (le 4 4), done := 0, len := le 4 4
                         lva := BitVec.ofNat 64 (le 8 8), rva := BitVec.ofNat 64 (le 16 8)
                         sig := if le 1 1 = 1 then some (le 2 2 % 1024) else none }
      let got := if e.opc = 3 then (s, some []) else s.etherRead (s.qpJob q) e.lva.toNat e.len
      match got with
      | (t, none) => stop t
      | (t, some d) =>
        let u := (t.setQpf q 56 4 ((e.psn + e.packets) % 2 ^ 24)).setQp q { x with sent := x.sent ++ [e], taken := (x.taken + 1) % 2 ^ 32 }
        u.emitEntry q e d (le 24 4)

/-- The doorbell: every entry up to the tail is taken in ring order, at most as many as the ring holds (R438). -/
def State.qpDoorbell (s : State) (q : Nat) (v : Word) : State :=
  let tail := v.toNat % 2 ^ 32
  let t := s.setReg (regEnQpdb q) (BitVec.ofNat 64 tail)
  if !t.qpReady q then t
  else
    (upto (min ((tail + 2 ^ 32 - (t.qpRt q).taken) % 2 ^ 32) (t.qpf q 48 4))).foldl (fun u _ => u.takeEntry q) t

/-- An entry is complete: the head moves past it and its local mark is signalled (R438). -/
def State.entryDone (s : State) (q : Nat) (e : QpEnt) : State :=
  (s.setQpf q 52 4 ((s.qpf q 52 4 + 1) % 2 ^ 32)).localSignal (s.qpJob q) e.sig

/-- Is packet p at or before PSN n? -/
def psnCovers (n p : Nat) : Bool := decide ((n + 2 ^ 24 - p) % 2 ^ 24 < 2 ^ 23)

/-- Writes acknowledged up to a PSN complete in order; a READ completes by its data alone (R438). -/
def State.ackEntries (s : State) (q psn : Nat) : List QpEnt → State × List QpEnt
  | [] => (s, [])
  | e :: r =>
    if e.opc = 3 then (s, e :: r)
    else if psnCovers psn ((e.psn + e.packets + 2 ^ 24 - 1) % 2 ^ 24) then (s.entryDone q e).ackEntries q psn r
    else if psnCovers psn e.psn then (s, { e with done := max e.done ((psn + 2 ^ 24 - e.psn) % 2 ^ 24 + 1) } :: r)
    else (s, e :: r)

def State.qpAck (s : State) (q psn : Nat) : State :=
  let (t, rest) := s.ackEntries q psn (s.qpRt q).sent
  t.setQp q { t.qpRt q with sent := rest, retries := if rest == (s.qpRt q).sent then (t.qpRt q).retries else 0 }

/-- Go back N: every unacknowledged packet is sent again, up to 7 times (R439). -/
def State.qpResend (s : State) (q : Nat) : State :=
  let x := s.qpRt q
  if x.sent.isEmpty then s
  else if x.retries ≥ 7 then (let (w, t) := s.draw; t.qpError q (w.toNat % 256))
  else
    let n := (x.sent.map (fun e => e.packets - e.done)).sum
    let t := (s.setQp q { x with retries := x.retries + 1 }).bumpBy regEnRetry n
    x.sent.foldl (fun (t : State) e =>
      if e.opc = 3 then t.emitEntry q e [] 0
      else match t.etherRead (t.qpJob q) e.lva.toNat e.len with
        | (u, some b) =>
          let i := x.sent.length - (x.sent.dropWhile (fun y => y != e)).length
          u.emitEntry q e b (leNat (sliceB (u.sendEntry q (x.taken + 2 ^ 32 - x.sent.length + i)) 24 4))
        | (u, none) => u) t

/-- Data of the READ at the front are written locally; the last of them complete it (R438). -/
def State.qpReadData (s : State) (q psn : Nat) (b : List Byte) : State :=
  let x := s.qpRt q
  match x.sent with
  | [] => s
  | e :: rest =>
    if e.opc ≠ 3 ∨ psn ≠ (e.psn + e.done) % 2 ^ 24 then s
    else
      let off := 4096 * e.done
      match s.etherStore (s.qpJob q) (e.lva.toNat + off) (b.take (e.len - off)) with
      | (t, false) => (let (w, u) := t.draw; u.qpError q (w.toNat % 256))
      | (t, true) =>
        let n := packetsOf b.length
        if e.done + n ≥ e.packets then (t.setQp q { x with sent := rest, retries := 0 }).entryDone q e
        else t.setQp q { x with sent := { e with done := e.done + n } :: rest, retries := 0 }

/-! ### Congestion control (R440) -/

/-- The sum of two dyadic numbers. -/
def Dyadic.add (a b : Dyadic) : Dyadic := ⟨a.num * 2 ^ (max a.exp b.exp - a.exp) + b.num * 2 ^ (max a.exp b.exp - b.exp), max a.exp b.exp⟩
def Dyadic.le (a b : Dyadic) : Bool := decide (a.num * 2 ^ b.exp ≤ b.num * 2 ^ a.exp)
/-- 15/16 of α. -/
def Dyadic.decay (a : Dyadic) : Dyadic := ⟨15 * a.num, a.exp + 4⟩

/-- A rate stays between MINR and line rate. -/
def State.clampRate (s : State) (r : Dyadic) : Dyadic :=
  let lo : Dyadic := ⟨s.rfld regEnCc 47 32, 0⟩
  let hi : Dyadic := ⟨800, 0⟩
  if hi.le r then hi else if r.le lo then lo else r

/-- A CNP: rate × (1 − α / 2), then α := 15/16 α + 1/16. -/
def State.cnpTake (s : State) (q : Nat) : State :=
  let x := s.qpRt q
  let a := x.alpha
  let cut : Dyadic := ⟨x.rate.num * (2 ^ (a.exp + 1) - a.num), x.rate.exp + a.exp + 1⟩
  (s.setQp q { x with rate := s.clampRate cut, alpha := a.decay.add ⟨1, 4⟩ }).bump regEnCnpRx

/-- TIMER µs without a CNP: α := 15/16 α and the rate rises by AI. -/
def State.rateRaise (s : State) (q : Nat) : State :=
  let x := s.qpRt q
  s.setQp q { x with rate := s.clampRate (x.rate.add ⟨s.rfld regEnCc 31 16, 0⟩), alpha := x.alpha.decay }

/-! ### Slices and group control messages (R293, R443 to R445) -/

/-- Is a control message taken: its queue pair is a control pair that is ready, and the firmware runs (R443, R510)? -/
def State.ctlOk (s : State) (q : Nat) : Bool := s.qpReady q && s.qpCtrl q && s.fwUp

/-- The pool descriptor that a slice request stands for: binary32, one owner. -/
def slicePool (r : SliceReq) (pub : Bool) (width : Nat) : List Byte :=
  leBytes 8 (10 * 2 ^ 60 + r.pool % 8 * 2 ^ 57 + b2n pub * 2 ^ 56 + 1 * 2 ^ 48 + r.targets % 4096 * 2 ^ 32 + width * 2 ^ 22 + r.table)

/-- The adjacency block has come: the slice is pooled and written by WRITE with Immediate at RESULT + i × TARGETS × WIDTH × 4
(R443). -/
def State.sliceServe (s : State) (q : Nat) (r : SliceReq) (b : List Byte) : State :=
  let j := s.qpJob q
  match s.desc j r.table, adjHead b r.targets with
  | some d, some hd =>
    let go (pub : Bool) (slot : Nat) : State :=
      let (lists, _) := adjLists hd b d.rows
      match s.readRows none none d pub slot none [] (lists.flatMap (fun l => l.map (fun x => x.1))) with
      | (t, _, .ok vals) =>
        let (_, vs, _) := poolPartial (slicePool r pub d.width) (d.readFmt pub) lists vals
        let psn := (t.qpf q 56 4 + packetsOf b.length) % 2 ^ 24
        let n := 4 * r.targets * d.width
        let u := (t.setQpf q 56 4 ((psn + packetsOf n) % 2 ^ 24)).qpSend q 0x0B
          [psn, t.qpf q 12 4, (r.result.toNat + r.slice * n) % 2 ^ 64, n, r.handle % 1024 + 1024] (vs.flatMap (fun v => leBytes 4 v))
        u.sendCtl q 0x03 j [r.edition, 0]
      | (t, _, .poison w) => t.poisonedRead w ⟨8, 2⟩ j
      | (t, _, .bankOver) => t
    (match s.sliceEdition j r with
      | .working => go false 0
      | .slot n => go true n
      | .wait => s
      | .gone => (s.bump regNbWideGone).sendCtl q 0x03 j [r.edition, 1])
  | _, _ => s

/-- READ data on a control pair answer its oldest slice request. -/
def State.sliceData (s : State) (q psn : Nat) (b : List Byte) : State :=
  let x := s.qpRt q
  match x.slices.find? (fun y => y.1 == psn) with
  | some y => (s.setQp q { x with slices := x.slices.erase y }).sliceServe q y.2 b
  | none => s

/-- The oldest task submission of a job that is not complete: its batch is delivered to nobody (R293; which entry is open, log 55). -/
def State.batchGone (s : State) (j : Nat) : State :=
  let hit := (upto 64).findSome? (fun r => ((s.ring r).opened.find? (fun e =>
    e.compl.isNone && e.bytes.getD 0 0 == 0x13#8 && (e.bytes.getD 2 0).toNat == j)).map (fun e => (r, e.seq)))
  match hit with
  | some (r, seq) => let (w, t) := s.draw; t.complete r seq (notDone (w.toNat % 256))
  | none => s

/-- Rank 0 receives a folio request of the group (R444). -/
def State.groupAsk (s : State) (j : Nat) : State :=
  if s.grouped j && decide (s.rank j = 0) && (s.job j).loaded then s.groupFolioAt j else s

/-- FOLIO_AT: the folio is taken after step end S; one that is recorded already counts (R444). -/
def State.folioAt (s : State) (j : Nat) (step : Word) : State :=
  if !s.grouped j || !(s.job j).loaded || (s.group j).folioAt.isSome then s
  else (s.setGroup j { s.group j with folioAt := some step }).groupStep j

/-- SEALED from a member (R444). -/
def State.memberSealed (s : State) (j rank n : Nat) (step : Word) : State :=
  if !s.grouped j then s
  else
    let g := s.group j
    (s.setGroup j { g with sealed := g.sealed.filter (fun x => !(x.1 == rank && x.2.2 == step)) ++ [(rank, n, step)] }).groupCheck j

/-- A member has rolled back. -/
def State.groupAck (s : State) (j rank n : Nat) : State :=
  let g := s.group j
  match g.acks with
  | some (f, l) => (s.setGroup j { g with acks := some (f, if l.contains rank then l else l ++ [rank]) }).groupResume j
  | none => s.setGroup j { g with acks := some (n, [rank]) }

/-- RESTART: this member rolls the job back to the folio that all have sealed, sends ROLLBACK to its twin and answers RESTART_ACK to
every member (R431, R445). Where the sender has seen the seal of a folio that this member sealed too, that one is F. -/
def State.groupRollback (s : State) (j rank n : Nat) : State :=
  if !s.grouped j || !(s.job j).loaded then s
  else
    let g := s.group j
    let late := match g.mine with
      | some (_, st) => g.sealed.any (fun x => x.1 == rank && x.2.1 == n && x.2.2 == st)
      | none => false
    let f := if late then (g.mine.map (fun x => x.1)).getD 0 else g.last
    let im := if late then g.mineImg.getD {} else s.resumeImage j
    let old := match g.acks with
      | some (_, l) => l
      | none => []
    let t := s.setGroup j { g with folioAt := none, mine := none, mineImg := none, last := f, img := some im
                                   acks := some (n, if old.contains rank then old else old ++ [rank]) }
    let u := if t.role = 2 ∨ t.role = 5 then t.cbSend 0x09 j [j, f] [] else t
    let v := (u.rollbackTo j (if late then g.mineGen else 0)).restoreJob im j
    let (w, x) := (v.setJob j { v.job j with held := true }).draw
    let (c, y) := x.draw
    ((y.postResumed j (c.toNat % 256) w.toNat).sendAll 0x08 j [f]).groupResume j

/-! ### Event ingest (R446 to R448) -/

def State.ingSlot (s : State) (r : Nat) : Nat := 256 * 2 ^ s.rfld (regEnIng r) 55 52
/-- The slot of a SEQ: slots follow the CONSUMED word at the next slot boundary. -/
def State.ingAddr (s : State) (r seq : Nat) : Nat :=
  let b := s.rfld (regEnIng r) 35 0 * 4096 + 8
  let z := s.ingSlot r
  (b + z - 1) / z * z + seq % 2 ^ s.rfld (regEnIng r) 51 47 * z
def State.ingHeld (s : State) (r : Nat) : List Nat := smapGet (fun _ => []) s.ingest r

/-- PRODUCER moves past the entries that are written. `n` bounds them. -/
def ingAdvance (held : List Nat) (p : Nat) : Nat → Nat
  | 0 => p
  | n + 1 => if held.contains p then ingAdvance held (p + 1) n else p

/-- PRODUCER passes entries: the ring's mark is signalled once for each EVERY of them (R447). -/
def State.ingSignal (s : State) (r old new : Nat) : State :=
  let e := max 1 (s.rfld (regEnIngmk r) 31 16)
  if s.rbit (regEnIngmk r) 15 then
    match s.handle (s.rfld (regEnIng r) 62 59) (s.rfld (regEnIngmk r) 9 0) with
    | some (n, _) => (upto (new / e - old / e)).foldl (fun (t : State) _ => t.sendMark n ⟨6, .signal 1⟩) s
    | none => s
  else s

/-- An ingest datagram (R446, R447). -/
def State.ingestTake (s : State) (r : Nat) (seq : Word) (len : Nat) (rsv : Bool) (d : List Byte) : State :=
  let q := seq.toNat
  let rel := (s.reg (regEnIngrel r)).toNat
  let prod := (s.reg (regEnIngprod r)).toNat
  let held := s.ingHeld r
  if !s.rbit (regEnIng r) 63 || rsv || decide (len > s.ingSlot r - 16) then s.bump regEnIngBad
  else if q < rel then s.bump regEnIngLate
  else if q ≥ rel + 2 ^ s.rfld (regEnIng r) 51 47 then s.bump regEnIngFull
  else if q < prod ∨ held.contains q = true then s.bump regEnIngDup
  else
    let t := s.homeForce (s.ingAddr r q) (leBytes 8 q ++ leBytes 2 len ++ List.replicate 6 0#8 ++ padB len (d.take len))
    let held' := q :: held
    let p := ingAdvance held' prod held'.length
    let u : State := { t with ingest := smapSet (fun _ => []) t.ingest r (held'.filter (fun x => decide (p ≤ x))) }
    (u.setReg (regEnIngprod r) (BitVec.ofNat 64 p)).ingSignal r prod p

/-! ### Registers of the block (registers of chapter 17) -/

def State.enReject (s : State) : State := s.setRbit regEnStatus 6 true

/-- EN_CFGp: an ACKTO of 0 is stored as 1. -/
def State.enCfgWrite (s : State) (p : Nat) (v : Word) : State :=
  let t := s.swReg (regEnCfg p) v
  if t.rfld (regEnCfg p) 31 16 = 0 then t.setRfld (regEnCfg p) 31 16 1 else t

/-- EN_INGBASE: a value that places port 4791 among the ingest ports is discarded. -/
def State.enIngbaseWrite (s : State) (v : Word) : State :=
  let b := fld v 15 0
  if (upto 64).any (fun r => (b + r) % 65536 == 4791) then s.enReject else s.swReg regEnIngbase v

/-- EN_QPTAB: discarded while a context has V. -/
def State.enQptabWrite (s : State) (v : Word) : State :=
  let b := s.qpBase 0
  if s.mem.any (fun c => decide (b ≤ c.1 ∧ c.1 < b + 262144 ∧ (c.1 - b) % 256 = 0) && c.2.getLsbD 0) then s.enReject else s.swReg regEnQptab v

/-- EN_INGr: discarded while EN is 1. -/
def State.enIngWrite (s : State) (r : Nat) (v : Word) : State :=
  if s.rbit (regEnIng r) 63 then s.enReject else s.swReg (regEnIng r) v

/-- EN_INGMKr: an EVERY of 0 is stored as 1. -/
def State.enIngmkWrite (s : State) (r : Nat) (v : Word) : State :=
  let t := s.swReg (regEnIngmk r) v
  if t.rfld (regEnIngmk r) 31 16 = 0 then t.setRfld (regEnIngmk r) 31 16 1 else t

end Sys2Proof.Machine
end

