-- ==== Sys2Proof/Machine/GatherEvents.lean ====
section
/-! DEFINITION. The events of the gather path: requests served, partials returned, tiles of chunks, load windows, hot areas
(R246, R244, R261, R263, R265). -/

namespace Sys2Proof.Machine

/-- A region serves the pool request that is next in its queue, with what its checkers found and the home whose map entry a lookup found
uncorrectable (R246, R255, R264). -/
def execNbRequestServe (k : Nat) (r : NearEnd) (s : State) : Res :=
  .next (if s.regionLive k then
      match s.nbNext k with
      | some (q, o) => if q.share.isNone ∧ s.resultUsed k + partBytes o.desc ≤ 524288 then
          (s.demandErrs r.errs).nbServe k q o r.check r.bad else s
      | none => s
    else s)

/-- The partial that is next in fan-list order reaches the return unit (R244); a delivery that fails its CRC is repeated once (R135, R255). -/
def execNbPartialReturn (c : Nat) (r : PartialEnd) (s : State) : Res :=
  .next (match s.skOp c r.entry with
    | some o => if o.kind = .pool ∧ s.skLive c o = true ∧ s.nbFailed.contains c = false then
        match s.parts.find? (fun p => p.c == c && p.n == r.entry && p.idx == o.pos) with
        | some p => if r.crcOk then s.nbReturn c o p r.check else s.skCrc c o
        | none => s
      else s
    | none => s)

/-- A Ligature writes a tile of chunks to the back half (R261). -/
def execLgTileComplete (c n : Nat) (r : NearEnd) (s : State) : Res :=
  .next (s.lgComplete c n r.check r.bad r.errs)

/-- A window of 1 ms ends (R263, R266). -/
def execLoadWindowEnd (s : State) : Res := .next s.hotWindow

/-- A write of NB_HOTAREA: accepted only while promotions are disabled, and only for an area inside the region (R265). -/
def execNbHotareaWrite (k : Nat) (v : Word) (s : State) : Res :=
  .next (if k ≥ 128 then s
    else if s.hotOn || decide (fld v 8 0 + fld v 40 32 > 384) then s.setRbit regHmStatus 1 true
    else s.swReg (regNbHotarea (s.phys k)) v)

end Sys2Proof.Machine
end

