-- ==== Sys2Proof/Machine/Power.lean ====
section
/-! DEFINITION. The rows of the power-stage controller and of power-up (R46, R476 to R488, R518, R531, R539, R540). -/

namespace Sys2Proof.Machine

/-- A 10 µs sample (R477). Above 65.0 V no behaviour is stated (R473, R537). -/
def execPowerSample (p : PowerSample) (s : State) : Res :=
  if p.vin > 6500 then .fault .aboveAbsoluteMaximum else .next (s.powerSample p)

/-- A 100 µs sample of the 64 sensors, four of a group together, and of the domains' currents (R477, R488). -/
def execTempSample (t dom : List (BitVec 16)) (s : State) : Res :=
  .next (
    let s1 := (upto 16).foldl (fun (u : State) g => u.setReg (regPwTemp g)
      (BitVec.ofNat 64 ((upto 4).map (fun i => (t.getD (4 * g + i) 0).toNat * 2 ^ (16 * i))).sum)) s
    let s2 := (upto 176).foldl (fun (u : State) d => u.setReg (regPwDomi d) (BitVec.ofNat 64 (dom.getD d 0).toNat)) s1
    ((s2.governTemp).thermLadder).ladderActions)

/-- A VCORE phase leaves service (R476). What unit a lack of phases is reported for is not given: the clock distribution stands for a
unit that every job uses (DESIGN CHOICE, log 50). -/
def execPhaseSpareIn (ph : Nat) (s : State) : Res :=
  .next (if 42 ≤ ph || s.rbit regPwPhase ph then s
    else
      let t := s.setRbit regPwPhase ph true
      let faulted := ((upto 42).filter (fun i => t.rbit regPwPhase i)).length
      if faulted ≤ 2 then t.bump regPwPhaseSpare
      else
        let n := 42 - faulted
        let u := (t.setRfld regPwPhase 53 48 n).setRbit regPwStatus 13 true
        if n < 34 then u.report ⟨0x20, ⟨10, 0⟩, 0, 0, none, false⟩ else u)

/-- A domain reaches regulation or is discharged (R479). -/
def execDomainSwitchComplete (d : Nat) (s : State) : Res :=
  .next (if 176 ≤ d || s.dom d ≠ 3 then s
    else ((s.setDom d (smapGet (fun _ => 0) s.power.target d)).modPower (fun p => { p with target := smapErase p.target d })).powerShow)

/-- The Inkwell save is complete: every region's contents stand in the save area, region k at 24 MiB times k (R483). -/
def execIwsaveComplete (s : State) : Res :=
  .next (if !s.power.saving then s
    else
      let base := s.rfld regPwIwsave 47 30 * 2 ^ 30
      let cells := s.mem.filterMap (fun c => match placeOf c.1 with
        | .inkwell k off => some (base + k * 25165824 + off, c.2)
        | _ => none)
      let t : State := { s with mem := s.mem.filter (fun c => !decide (base ≤ c.1 ∧ c.1 < base + 3 * 2 ^ 30)) }
      let u := cells.foldl (fun (t : State) c => t.wr c.1 c.2) t
      (u.setRbit regPwStatus 14 true).modPower (fun p => { p with saving := false }))

/-- The warm reset after the wait of R485, or one that FE_ORDER has ordered (R523); RESET_N holds it (R536). -/
def execWarmReset (s : State) : Res :=
  .next (if s.pwHeld && !s.power.full && !s.power.booting && !s.resetPin && decide (s.effStep < 5)
      && (s.startOk || (s.power.orderWarm && decide (s.effStep < 4)))
    then s.warmReset else s)

/-- A copyist writes PW_SHEDTHR: a Ledger write (R15, R487). -/
def execPwShedthrWrite (v : Word) (s : State) : Res := .next (if s.fwUp && s.ledPower then s.shedWrite 3 v else s)

/-- The Ferrule island starts: the registers that the Ledger backs are read, and the module is held (R46, R514, R518, R539). -/
def execFerrulePowerOn (s : State) : Res :=
  .next (if !s.power.full || s.pwHeld then s else s.islandStart.powerShow)

/-- The start condition of a power-up is met (R539). -/
def execPowerUp (s : State) : Res :=
  .next (if s.power.full && s.pwHeld && s.startOk && !s.resetPin && !s.power.refLost && !s.power.booting
    then s.ladderClear.bringUp else s)

/-- The self-test ends: maps are rebuilt, active domains are joined, spares stay isolated, PGOOD rises and the copyists are released
(R18, R19, R539 steps 4 and 5). Lists by group and slot say which slots pass, and the repairs of the
memories that it rebuilds. -/
def execSelfTestComplete (r : SelfTest) (s : State) : Res :=
  .next (if !s.power.booting || (upto 176).any (fun d => s.dom d == 3) || !s.power.switchq.isEmpty then s
    else
      let s1 := (upto 16).foldl (fun (t : State) g => t.groupTest g (r.pass.getD g [])) (s.selfRepairs r.fix)
      let s2 := (upto 32).foldl (fun (t : State) i => if i = 22 then t else t.setDom (144 + i) 2) s1
      let s3 := ({ s2 with cycScribe := 0, cycCopyist := 0 } : State).modPower (fun p => { p with booting := false, full := false })
        |>.setRbit regPwStatus 12 false
      ((s3.setRbit regFeStatus 0 false).startRole).powerShow)

/-- The reference is lost: the clock distribution is reported (R458, R531). -/
def execRefclkLoss (s : State) : Res :=
  .next (if s.power.refLost then s
    else (s.modPower (fun p => { p with refLost := true })).report ⟨0x20, ⟨10, 0⟩, 0, 0, none, false⟩)

/-- The reference returns (R46, R531). -/
def execRefclkReturn (s : State) : Res := .next (s.modPower (fun p => { p with refLost := false }))

end Sys2Proof.Machine
end

