-- ==== Sys2Proof/Machine/StrokeEvents.lean ====
section
/-! DEFINITION. The events of the Stroke engine: swaps, starts, requests, deadlines, resumes and queue configuration
(R125 to R144). -/

namespace Sys2Proof.Machine

/-- The conditions of R125 hold and the halves are exchanged: SK.SWAP returns. -/
def execSkSwapComplete (c : Nat) (s : State) : Res :=
  .next (match (s.cl c).swap with
    | some h =>
      if s.coreLive c && (s.cl c).swapReady && decide ((s.ctx h).run = .waiting .swap) then
        ((s.modCl c Cluster.swapHalves).setRbit (regSkHalf (s.phys c)) 0 ((s.cl c).front == 0)).modCtx h Ctx.next
      else s
    | none => s)

/-- Cancelled operations have stopped and drained: SK.CANCEL returns (R116). -/
def execSkCancelComplete (h : Hart) (s : State) : Res := .next (s.skCancelled h)

/-- A waiting inner operation starts once its rate and tag bookings fit (R129). -/
def execInnerOpStart (c n : Nat) (s : State) : Res :=
  .next (match s.skOp c n with
    | some o =>
      if o.state = 2 ∧ s.coreLive c = true ∧ (s.job o.own.job).held = false ∧ o.held = false ∧ s.dx.stopped = false
          ∧ o.park = false then
        s.skStart c o (fun t x => if x.kind = .pool then t.poolBegin c x else t) else s
    | none => s)

/-- The next request of an operation arrives and is checked; tiles complete and marks are signalled (R117, R135). -/
def execStrokeRequestComplete (c n : Nat) (r : RequestEnd) (s : State) : Res :=
  .next (s.skComplete c n r.crcOk r.errs)

/-- A running inner operation has a tile past its deadline: it stops, and the miss is a fault (R131, R250). Halted and
paused operations have no deadline (R139, R140). -/
def execDeadlineMiss (c n : Nat) (s : State) : Res :=
  .next (match s.skOp c n with
    | some o =>
      if s.skLive c o && s.qInner c o.queue && decide (o.tiles < o.assigned) then
        ((s.bump (regSkDeadlineMiss (s.phys c))).report
          ⟨0x09, ⟨0, s.phys c⟩, 0, BitVec.ofNat 64 (o.tiles * 2 ^ 16 + o.n), some o.own.job, false⟩).skFault c o
      else s
    | none => s)

/-- Act on entries whose bit is set and whose operation is halted; a bit that meets both registers is an abort (R138). -/
def State.skHalted (s : State) (c : Nat) (v : Word) (g : State → SkOp → State) : State :=
  (upto 32).foldl (fun t n => match t.skOp c n with
    | some o => if bitOf v n && o.state == 4 then g t o else t
    | none => t) s

/-- A write of SK_RESUME: halted operations go on from their saved positions (R138); during a folio stop they are paused until its end
(R140). -/
def execSkResume (c : Nat) (v : Word) (s : State) : Res :=
  .next (s.skHalted c v (fun t o => t.setSk c (if t.dx.stopped then { o with state := 5, saved := 3 } else { o with state := 3 })))

/-- A write of SK_ABORT: halted operations stop with status ACCESS (R138). -/
def execSkAbort (c : Nat) (v : Word) (s : State) : Res :=
  .next (s.skHalted c v (fun t o => t.skStop c o 1))

/-- A write of SK_QCFGq, applied whole or discarded with CFG_REJ (R144). -/
def execSkQcfgWrite (c q : Nat) (v : Word) (s : State) : Res :=
  .next (
    let p := s.phys c
    let sum (hi lo : Nat) : Nat := ((upto 8).map (fun i => if i = q then fld v hi lo else s.rfld (regSkQcfg p i) hi lo)).sum
    if q ≥ 8 then s
    else if (s.cl c).sk.any (fun o => o.queue == q) || decide (sum 6 0 > 64) || decide (sum 25 16 > 512) then
      s.setRbit (regSkStatus p) 2 true
    else s.swReg (regSkQcfg p q) v)

end Sys2Proof.Machine
end

