-- ==== Sys2Proof/Machine/TableEvents.lean ====
section
/-! DEFINITION. The events of tables and editions: shares, acknowledgements, builds, publications, retention, directories
(R272, R276, R285, R287, R293). -/

namespace Sys2Proof.Machine

/-- An owner admits a share that may be taken up and applies its rows (R275, R276). -/
def execNbUpdateAdmit (k : Nat) (s : State) : Res :=
  .next (
    let t := s.tbRelease .update (fun t k o => t.updateBegin k o)
    if t.regionLive k then t.updServe k (t.updNext k) else t)

/-- An owner's acknowledgement of every row of its share reaches the issuing cluster (R276). -/
def execNbUpdateAck (c n k : Nat) (s : State) : Res := .next (s.updAck c n k)

/-- A build completes, and updates of its table proceed; a build that waits for a slot takes one that has become free (R284, R285, R291). -/
def execNbBuildComplete (c n : Nat) (s : State) : Res :=
  .next (
    let t := s.tbRelease .build (fun t k o => t.buildBegin k o)
    match t.skOp c n with
    | some o => if o.kind = .build ∧ t.skLive c o = true then (t.reclaim o.own.job).buildDone c o else t
    | none => t)

/-- The retention of a retired wide edition ends: of the edition that retired first (R293). -/
def execWideHoldExpire (j tbl : Nat) (s : State) : Res :=
  .next (
    let t := s.table j tbl
    let held := t.slots.filter (fun e => e.role = .retired && e.wide)
    match held.find? (fun e => held.all (fun x => decide (e.last ≤ x.last))) with
    | none => s
    | some f => (s.setTable j tbl { t with slots := t.slots.map (fun e => if e.slot = f.slot then { e with wide := false } else e) }).reclaim j)

/-- A write of NB_TBDIRj: discarded while a task of the job is loaded; with EN set every descriptor is checked (R272). -/
def execNbTbdirWrite (j : Nat) (v : Word) (s : State) : Res :=
  .next (
    if j ≥ 16 then s
    else if s.tasksIn j then s.setRbit regNbDstatus 0 true
    else
      let t := s.swReg (regNbTbdir j) v
      let bad := (upto 4096).any (fun i =>
        let b := t.rdN (t.descAddr j i) 64
        bitOf (wordAt b 0) 63 && !descOk b)
      if bitOf v 0 && bad then t.setRbit regNbDstatus 1 true else t)

/-- The publication at the head of a job's queue is checked and starts its folio (R47 to R49, R287). -/
def execPublicationStart (j : Nat) (s : State) : Res := .next (s.pubStart j)

end Sys2Proof.Machine
end

