-- ==== Sys2Proof/Machine/RegOps.lean ====
section
/-! DEFINITION. Accesses to register space: which register an offset names and whether its block answers, what a read shows, and what a
write of each register does (R9 to R15, R522, R545 to R547, register tables of every chapter). -/

namespace Sys2Proof.Machine

/-! ### Which register an offset names (R545, R546) -/

/-- Where a register is kept and the power domains whose joining lets its block answer: none for the island. -/
structure RegPlace where
  key : Nat
  doms : List Nat
  deriving DecidableEq, Repr

/-- The tails of FW_DBTAILr from r = 32 to 36 stand where the block has counters, which answer there (log 56). -/
def fwPlace (o : Nat) : Nat :=
  if 0x100 ≤ o ∧ o < 0x300 ∧ o % 8 = 0 ∧ (o < 0x200 ∨ 0x228 ≤ o) then dbTailKey ((o - 0x100) / 8) else 0x3200000 + o

/-- The place of the register at an aligned offset: none outside every block. -/
def State.regPlace (s : State) (off : Nat) : Option RegPlace :=
  let window (base size : Nat) : Bool := decide (base ≤ off ∧ off < base + size)
  if off < 0x1000 then some ⟨off, [161]⟩
  else if 0x1000000 ≤ off ∧ off < 0x1800000 then
    let k := (off - 0x1000000) / 0x10000
    let w := (off - 0x1000000) % 0x10000
    let p := s.phys k
    some ⟨if w / 0x1000 = 4 then dxcKey k (w % 0x1000) else winKey p w, [p]⟩
  else if window 0x2000000 0x4000 then some ⟨off, [163 + (off - 0x2000000) / 0x1000]⟩
  else if window 0x3000000 0x1000 then some ⟨off, [161]⟩
  else if window 0x3010000 0x1000 then some ⟨off, [161]⟩
  else if window 0x3020000 0x1000 then some ⟨off, [160]⟩
  else if window 0x3030000 0x4000 then some ⟨off, [148 + (off - 0x3030000) / 0x1000]⟩
  else if window 0x3040000 0x4000 then some ⟨off, [152 + (off - 0x3040000) / 0x1000]⟩
  else if window 0x3050000 0x1000 then some ⟨off, [169]⟩
  else if window 0x3060000 0x1000 then some ⟨off, [171]⟩
  else if window 0x3070000 0x8000 then some ⟨off, [167]⟩
  else if window 0x3100000 0x40000 then some ⟨off, [161]⟩
  else if window 0x3200000 0x1000 then some ⟨fwPlace (off - 0x3200000), [175]⟩
  else if window 0x4000000 0x800000 then
    some ⟨off, if off = 0x4000010 then [172] else if off = 0x4000018 then [173] else [172, 173]⟩
  else if window 0xF000000 0x1000 then some ⟨off, []⟩
  else if window 0xF010000 0x1000 then some ⟨off, []⟩
  else if window 0xF020000 0x1000 then some ⟨off, []⟩
  else none

/-- Does a block answer: its domain, or one of its two, is ON-JOINED? -/
def State.answers (s : State) (p : RegPlace) : Bool := p.doms.isEmpty || p.doms.any (fun d => s.joined d)

/-! ### Registers that show running state -/

/-- The logical cluster whose engines a window of logical cluster k reaches: of a folded pair the active one (R546). -/
def State.shownOf (s : State) (k : Nat) : Nat :=
  match s.foldOf k with
  | some f => f.active
  | none => k

/-- OWNED, JOB and CTX of an engine's owner at their bits. -/
def ownerBits (o : Option Owner) : Nat :=
  match o with
  | some w => 128 + w.job % 16 * 8 + w.hart.ctx % 2 * 4
  | none => 0

/-- Eight level counts of seven bits (DX_CLQ, DX_CLQF). -/
def State.levelBits (s : State) (k : Nat) (fair : Bool) : Nat := ((upto 8).map (fun q => s.dx.level k fair q * 2 ^ (7 * q))).sum

/-- The entry of the half owner's oldest outstanding tiled operation (SK_HALF.OWNER). -/
def Cluster.halfEntry (c : Cluster) : Nat :=
  match c.halfOwner with
  | some w => ((c.sk.find? (fun o => o.tiled && o.own.same w)).map (fun o => o.n)).getD 0
  | none => 0

/-- Fields of the registers of a cluster window that show running state, at the window offset. -/
def State.windowView (s : State) (k w : Nat) (v : Nat) : Nat :=
  let c := s.cl k
  if w = 0x40 then v % 8 / 4 * 4 + b2n (c.sk.any (fun o => o.state == 4)) * 2 + b2n (!c.sk.isEmpty)
  else if w = 0x48 then b2n c.halfOwner.isSome * 64 + c.halfEntry % 32 * 2 + c.front % 2
  else if 0x100 ≤ w ∧ w < 0x200 then
    let n := (w - 0x100) / 8
    match s.skOp k n with
    | some o => (o.stateWord o.state 0).toNat
    | none => (smapGet (fun _ => 0) c.skLast n).toNat
  else if w = 0x1000 then ownerBits c.ql.owner + b2n c.ql.role * 2 + b2n (!c.ql.ops.isEmpty)
  else if w = 0x1008 then c.ql.flags.toNat
  else if w = 0x3008 then c.sp.flags.toNat
  else if w = 0x2000 then min c.br.length 16 * 2 + b2n (!c.br.isEmpty)
  else if w = 0x2008 then (s.ctx ⟨k, 0⟩).brFlags.toNat
  else if w = 0x2010 then (s.ctx ⟨k, 1⟩).brFlags.toNat
  else if w = 0x3000 then b2n c.sp.keyed * 256 + ownerBits c.sp.owner + b2n c.sp.repairing * 2 + b2n (!c.sp.ops.isEmpty)
  else if w = 0x6008 then (s.nbQueue k).length * 2 + b2n (s.nbq.any (fun r => r.region == k))
  else if w = 0x6010 then (s.ctx ⟨k, 0⟩).gaFlags.toNat
  else if w = 0x6018 then (s.ctx ⟨k, 1⟩).gaFlags.toNat
  else v

/-- The DX_ cluster block (R305, R306, R310). -/
def State.clusterView (s : State) (k w : Nat) : Nat :=
  if w = 0 then s.levelBits k false + ((upto 3).filter (fun r => (smapGet (fun _ => none) s.dx.saved (4 * k + r)).isSome)).length * 2 ^ 56
  else if w = 8 then s.levelBits k true
  else if w = 16 then s.dx.delayed k
  else 0

/-- DX_GOVSTATE (R318, R535). -/
def govWord (g : Gov) : Nat :=
  g.tstop.toNat * 2 ^ 32 + g.tthr.toNat * 2 ^ 16 + b2n g.ext * 16 + b2n g.hot * 8 + b2n g.pstop * 4 + b2n g.pthr * 2 + b2n g.padmit

/-- What a register shows. -/
def State.regShow (s : State) (off key : Nat) : Word :=
  let v := s.reg key
  if 0x1000000 ≤ off ∧ off < 0x1800000 then
    let k := (off - 0x1000000) / 0x10000
    let w := (off - 0x1000000) % 0x10000
    if w / 0x1000 = 4 then BitVec.ofNat 64 (s.clusterView k (w % 0x1000))
    else BitVec.ofNat 64 (s.windowView (s.shownOf k) w v.toNat)
  else if off = 0x3000020 then
    BitVec.ofNat 64 (s.dx.spill.length * 2 ^ 34 + s.dx.die * 2 ^ 21 + b2n (!s.dx.stalled.isEmpty) * 4 + b2n (!s.dx.folds.isEmpty) * 2
      + v.toNat % 2)
  else if off = 0x3000028 then BitVec.ofNat 64 (govWord s.dx.gov)
  else if 0x3030000 ≤ off ∧ off < 0x3034000 ∧ off % 0x1000 = 0 then
    (let n := s.lgHeld ((off - 0x3030000) / 0x1000); BitVec.ofNat 64 (n * 2 + b2n (decide (n ≠ 0))))
  else v

/-- A read of the 64-bit register at an aligned offset: 0 where no register answers (R11, R545). -/
def State.regRead (s : State) (off : Nat) : Word :=
  match s.regPlace off with
  | some p => if s.answers p then s.regShow off p.key else 0
  | none => 0

/-- An aligned 32-bit read returns the named half (R10). -/
def State.regReadN (s : State) (off size : Nat) : Option Word :=
  if size = 8 ∧ off % 8 = 0 then some (s.regRead off)
  else if size = 4 ∧ off % 4 = 0 then some (BitVec.ofNat 64 (fld (s.regRead (off / 8 * 8)) (if off % 8 = 0 then 31 else 63) (if off % 8 = 0 then 0 else 32)))
  else none

/-! ### Writes -/

/-- The state that a row which always answers leaves. -/
def resState (s : State) (r : Res) : State :=
  match r with
  | .next t => t
  | _ => s

/-- A time field written 0 is stored as 1. -/
def State.atLeast1 (s : State) (k hi lo : Nat) : State := if s.rfld k hi lo = 0 then s.setRfld k hi lo 1 else s

/-- A write of a register of a cluster window. -/
def State.windowWrite (s : State) (k w key : Nat) (v : Word) : State :=
  if w < 0x40 then resState s (execSkQcfgWrite k (w / 8) v s)
  else if w = 0x300 then resState s (execSkResume k v s)
  else if w = 0x308 then resState s (execSkAbort k v s)
  else if w = 0x5000 then s.ccWrite k (v.toNat / 16 % 16 * 16) (bitOf v 0) (bitOf v 1)
  else if w = 0x5008 then s.ccCfgWrite k v
  else if w = 0x6000 then resState s (execNbHotareaWrite k v s)
  else s.swReg key v

/-- A write of a register of the Lanine block (registers of chapter 15). -/
def State.lnWrite (s : State) (o key : Nat) (v : Word) : State :=
  if o = 0x08 then (((s.swReg key v).atLeast1 key 47 32).atLeast1 key 31 16).atLeast1 key 15 0
  else if o = 0x20 then (if s.rbit key 0 then s else s.swReg key v)
  else if o = 0x28 then s.pgreqWrite v
  else if o = 0x30 then (if bitOf v 0 then s.pgresPop else s)
  else if 0x100 ≤ o ∧ o < 0x300 then (s.swReg key v).atLeast1 key 7 0
  else s.swReg key v

/-- A write of a register of the Carbon block (registers of chapter 16). -/
def State.cbWrite (s : State) (o key : Nat) (v : Word) : State :=
  if o = 0x08 then s.cbCfgWrite v
  else if o = 0x10 then s.folioCfgWrite v
  else if o = 0x18 then (s.swReg key v).atLeast1 key 31 0
  else if o = 0x30 then (if (upto 16).any (fun j => (s.job j).loaded) then s else s.swReg key v)
  else if o = 0x38 then (if s.rbit key 0 then s else s.swReg key v)
  else if o = 0x40 then s.orderWrite v
  else if 0x100 ≤ o ∧ o < 0x180 then (if s.tasksIn ((o - 0x100) / 8) then s else s.swReg key v)
  else s.swReg key v

/-- A write of a register of the device blocks of Ductus, the tables and the hot map. -/
def State.deviceWrite (s : State) (off key : Nat) (v : Word) : State :=
  if off = 0x3000000 then (s.swReg key v).atLeast1 key 7 0
  else if off = 0x3000008 then s.spillWrite v
  else if off = 0x3000010 then s.policyWrite v
  else if 0x3000100 ≤ off ∧ off < 0x3000180 then s.ownareaWrite ((off - 0x3000100) / 8) v
  else if 0x3010000 ≤ off ∧ off < 0x3010080 then resState s (execNbTbdirWrite ((off - 0x3010000) / 8) v s)
  else if 0x3010080 ≤ off ∧ off < 0x3010100 then
    (if s.tasksIn ((off - 0x3010080) / 8) then s.setRbit regNbDstatus 0 true else s.swReg key v)
  else if off = 0x3020000 then resState s (execHmCfgWrite v s)
  else if 0x3020100 ≤ off ∧ off < 0x3020180 then resState s (execHmPinqWrite ((off - 0x3020100) / 8) v s)
  else s.swReg key v

/-- A write of a register of the Ethernet block (registers of chapter 17). -/
def State.enWrite (s : State) (o key : Nat) (v : Word) : State :=
  if o = 0x10 ∨ o = 0x18 then s.enCfgWrite ((o - 0x10) / 8) v
  else if o = 0x28 then s.enIngbaseWrite v
  else if o = 0x30 then s.enQptabWrite v
  else if 0x800 ≤ o ∧ o < 0x1000 ∧ o % 32 = 0 then s.enIngWrite ((o - 0x800) / 32) v
  else if 0x800 ≤ o ∧ o < 0x1000 ∧ o % 32 = 8 then s.enIngmkWrite ((o - 0x800) / 32) v
  else if 0x400000 ≤ o ∧ (o - 0x400000) % 0x1000 = 0 then s.qpDoorbell ((o - 0x400000) / 0x1000) v
  else s.swReg key v

/-- A write of a register of the island: PW_SHEDTHR is a Ledger write of the firmware; only the manager writes FE_ORDER (R15, R487,
R528, registers of chapter 21). -/
def State.islandWrite (s : State) (off key : Nat) (v : Word) : State :=
  if off = 0xF000010 then (if s.ledPower then s.shedWrite 3 v else s)
  else if off = 0xF000018 then (if s.power.saving then s.setRbit regPwStatus 15 true else s.swReg key v)
  else if off = 0xF020008 then s
  else if off = 0xF020010 ∨ off = 0xF020018 then s.alertMove (fun s => s.swReg key v)
  else s.swReg key v

/-- A write of a whole register, with every check, clamp, refusal and effect of its chapter (R10). -/
def State.regPut (s : State) (off key : Nat) (v : Word) : State :=
  if 0x1000000 ≤ off ∧ off < 0x1800000 then
    let k := (off - 0x1000000) / 0x10000
    s.windowWrite (s.shownOf k) ((off - 0x1000000) % 0x10000) key v
  else if 0x2000000 ≤ off ∧ off < 0x2004000 then
    let c := 128 + (off - 0x2000000) / 0x1000
    if off % 0x1000 = 0 then s.ccWrite c (v.toNat / 16 % 16 * 16) (bitOf v 0) (bitOf v 1)
    else if off % 0x1000 = 8 then s.ccCfgWrite c v
    else s.swReg key v
  else if 0x3050000 ≤ off ∧ off < 0x3051000 then s.lnWrite (off % 0x1000) key v
  else if 0x3060000 ≤ off ∧ off < 0x3061000 then s.cbWrite (off % 0x1000) key v
  else if off = 0x3070010 then s.blOrder v
  else if off = 0x3070018 then s.iwhwmWrite v
  else if 0x3110000 ≤ off ∧ off < 0x3118000 then s.writeMark ((off - 0x3110000) / 8) .full v
  else if 0x3120000 ≤ off ∧ off < 0x3128000 then s.writeMap ((off - 0x3120000) / 0x800) ((off - 0x3120000) % 0x800 / 8) v
  else if off = 0x3200010 then (s.swReg key v).setRfld key 4 0 (max 1 (min 20 (fld v 4 0)))
  else if 0x4000000 ≤ off ∧ off < 0x4800000 then s.enWrite (off - 0x4000000) key v
  else if 0xF000000 ≤ off then s.islandWrite off key v
  else s.deviceWrite off key v

/-- A 32-bit write changes the named half: RW bits of the other half keep their value, and W1C and W1S bits there are not written
(R10). -/
def halfWord (d : Option RegDesc) (old v : Word) (high : Bool) : Word :=
  let rw := BitVec.ofNat 64 ((d.map (fun (x : RegDesc) => x.rw)).getD 0)
  let m : Word := if high then 0xFFFFFFFF00000000#64 else 0xFFFFFFFF#64
  ((if high then v <<< 32 else v) &&& m) ||| (old &&& rw &&& ~~~ m)

/-- A write of `size` bytes at an offset of register space: discarded where no register answers; an access that is not aligned or of
another size does not reach the register (R10, R11, R545). -/
def State.regWrite (s : State) (off size : Nat) (v : Word) : State :=
  let base := off / 8 * 8
  if !((size == 8 && off % 8 == 0) || (size == 4 && off % 4 == 0)) then s
  else match s.regPlace base with
    | none => s
    | some p =>
      match regAt p.key with
      | none => s
      | some (d, _, _) =>
        if !s.answers p then s
        else if size = 8 then s.regPut base p.key v
        else if d.name = "MK_MARK" then
          s.writeMark ((base - 0x3110000) / 8) (if off % 8 = 0 then .low else .high) (if off % 8 = 0 then v else v <<< 32)
        else s.regPut base p.key (halfWord (some d) (s.reg p.key) v (off % 8 ≠ 0))

end Sys2Proof.Machine
end

