-- ==== Sys2Proof/Machine/HostOps.lean ====
section
/-! DEFINITION. Host commands: the entry a command stands for, their checks, and the effects that ordered ones take at their commit
point, here and on the twin (R34, R63, R292, R334, R335, R403, R410, R466, R467, R499 to R505, R513, R515, R526). -/

namespace Sys2Proof.Machine

/-! ### The entry of a command (R501 to R503) -/

/-- The entry that a command stands for: the oldest of its pair that is consumed and not executed, with the same fields. An ORDERED
entry waits until every earlier one of its queue has completed (R51, R502). L3 holds every entry of a Fair-copy pair (R56). -/
def State.hostEntry (s : State) (e : EntryHdr) (opc : Nat) : Option RingEnt :=
  let q := (s.ring e.ring).opened
  match q.find? (fun x => x.cmd.isNone && x.compl.isNone && x.commit.isNone) with
  | none => none
  | some x =>
    if s.fwUp && !s.blFailed && !(s.ringFair e.ring && decide (s.shed ≥ 3)) && decide (e.ring < 64) && x.byte 0 == opc && x.byte 1 == b2n e.ordered && x.byte 2 == e.job
        && leNat (sliceB x.bytes 4 4) == e.tag.toNat
        && (!e.ordered || (q.takeWhile (fun y => y.seq != x.seq)).all (fun y => y.compl.isSome))
    then some x else none

/-- A command refused for its content completes DONE with a reason and has no effect (R505). -/
def State.refuse (s : State) (r : Nat) (x : RingEnt) (reason : Nat) : State :=
  (s.unstall (128 + r)).complete r x.seq (doneWith reason 0 [])

/-- A command that takes no commit completes with a result. -/
def State.answered (s : State) (r : Nat) (x : RingEnt) (result : List Byte) : State := s.complete r x.seq (doneWith 0 0 result)

/-- The entry is under way: its command stands in it until its effect. -/
def State.underWay (s : State) (r : Nat) (x : RingEnt) (c : HostCmd) : State :=
  s.modRing r (fun k => { k with opened := k.opened.map (fun y => if y.seq = x.seq then { y with cmd := some c } else y) })

/-- A row of a host command: nothing happens while no entry stands for it; a reserved byte that is not zero is FIELD; a command of a
tainted job that may not run is NOT_DONE TAINT (R335, R504, R505). -/
def State.hostRow (s : State) (e : EntryHdr) (opc : Nat) (taints : Bool) (f : State → RingEnt → State) : Res :=
  .next (match s.hostEntry e opc with
    | none => s
    | some x =>
      if !e.zeroOk || decide (16 ≤ e.job) then s.refuse e.ring x 2
      else if taints && s.rbit (regMkJobstat e.job) 0 then s.complete e.ring x.seq (notDone 0x12)
      else f s x)

/-! ### Checks and effects -/

/-- An effect's end: a state, a reason and a result. -/
structure Done where
  state : State
  reason : Nat := 0
  result : List Byte := []

/-- Bytes of the fixed part of a folio: 512 MiB (R417). -/
def fixedPart : Nat := 536870912

/-- Does the captured state of every loaded job with one more fit an image (R410)? -/
def State.captureFits (s : State) (img : JobImage) : Bool :=
  let used := ((upto 16).map (fun j => if (s.job j).loaded || (s.job j).loading then (s.job j).capturedBytes else 0)).sum
  let size := s.rfld regCbFolioarea 1 0
  size == 0 || decide (used + img.capturedBytes + fixedPart ≤ size * 2 ^ 30)

/-- COUNTs that an earlier unloading read into the job's image return to its marks (R327). -/
def State.restoreCounts (s : State) (j : Nat) : State :=
  match s.fw.counts.find? (fun x => x.1 == (s.job j).image) with
  | some (_, l) => l.foldl (fun (t : State) x => match t.handle j x.1 with
    | some (n, _) => t.writeCount n x.2
    | none => t) s
  | none => s

/-- The firmware loads a job: memory, settings, Exchange pages, its first task, BL_IWHWM, measurement 5 (R327, R403, R466, R497,
R550). `run` is whether its first task is submitted here. -/
def State.loadImage (s0 : State) (j : Nat) (img : JobImage) (run : Bool) : State :=
  let s := if (s0.job j).lost then s0.unload j else s0
  let s1 := img.cells.foldl (fun (t : State) c => t.wrN c.1 [c.2]) s
  let s2 := img.regs.foldl (fun (t : State) r => t.regWrite r.1 8 r.2) s1
  let s3 := img.exchange.foldl (fun (t : State) a => t.setVis a 4096 1) s2
  let s4 := s3.iwhwmWrite (BitVec.ofNat 64 (max (s3.rfld regBlIwhwm 9 0) img.iwUnits))
  let s5 := ((s4.extend 5 (hashBytes img.hash)).setJob j
    { captured := img.captured, capturedBytes := img.capturedBytes, iwUnits := img.iwUnits, exchange := img.exchange
      usesInkwell := img.usesInkwell, image := hashBytes img.hash, loading := true, gone := [(0, s4.assignedCsn)] }).restoreCounts j
  if run && taskDescOk (padB 64 img.task) then
    let (n, t) := s5.taskNum j
    let k := taskOf (padB 64 img.task) j n 0 none none 192
    (t.setDx { t.dx with buf := t.dx.buf ++ [k] }).drainBuf
  else s5

/-- Why a load is refused: 7 a job that is loaded, 2 an image that does not fit (R410, R467). -/
def State.loadRefused (s : State) (j : Nat) (img : JobImage) : Nat :=
  if (s.job j).loaded || (s.job j).loading then 7
  else if !s.captureFits img || (s.rbit regBlStatus 4 && decide (img.iwUnits > 384)) || decide (img.iwUnits > 768) then 2
  else 0

/-- A pair is deleted: its pages are Working again, the generations it held are released (R64, R504). -/
def State.ringDelete (s : State) (p : Nat) : State :=
  let js := (s.holds.filter (fun h => h.ring == p)).map (fun h => h.job)
  let s1 := ((s.setVis (ringCb p) 4096 0).setVis (ringSq p) (64 * 2 ^ s.cbf p 16 1) 0).setVis (ringCq p) (64 * 2 ^ s.cbf p 17 1) 0
  let s2 : State := { s1 with rings := smapErase s1.rings p, holds := s1.holds.filter (fun h => h.ring != p) }
  js.foldl (fun (t : State) j => t.reclaim j) s2

/-- The offsets that CONFIG_WRITE accepts (R504). -/
def configOffsets : List Nat :=
  [regDxPolicy, regDxCfg, regDxEdefault, regHmCfg] ++ (upto 16).map regHmPinq ++ [regCbCfg, regCbFoliocfg, regCbMtbf, regBlCfg, regNbWidehold]
    ++ (upto 64).map regLnIntcoal ++ (upto 2).map regEnCfg ++ [regEnCc]

/-- Does the block of an offset answer? -/
def State.offAnswers (s : State) (off : Nat) : Bool :=
  match s.regPlace off with
  | some p => s.answers p
  | none => false

/-- The reason with which an ordered command is refused for its content before its commit; 0 for none (R505). A buffer that meets a hole
is FIELD (DESIGN CHOICE, log 78); which pages else it stands on is not asked (DESIGN CHOICE, log 77). -/
def State.hostCheck (s : State) (c : HostCmd) : Nat :=
  match c with
  | .ringCreate p cls sq cq =>
    if !(decide (1 ≤ p ∧ p ≤ 63 ∧ cls ≤ 1 ∧ 6 ≤ sq ∧ sq ≤ 12 ∧ sq ≤ cq ∧ cq ≤ 14)) then 2 else if (s.ring p).created then 7 else 0
  | .ringDelete p => if !(decide (1 ≤ p ∧ p ≤ 63)) then 2 else if !(s.ring p).created then 7 else 0
  | .jobLoad j img => s.loadRefused j img
  | .jobUnload j => if (s.job j).loaded then 0 else 7
  | .jobStop j => if s.jobRuns j then 0 else 7
  | .stateRead j t first rows buf =>
    if !(s.job j).loaded then 7
    else match (if t < 4096 then s.desc j t else none) with
      | some d => if first + rows ≤ d.rows ∧ bufOk buf (rows * (if d.kind = 1 then 64 else d.rb)) = true then 0 else 2
      | none => 2
  | .configWrite off _ => if !configOffsets.contains off then 2 else if s.offAnswers off then 0 else 7
  | .ledgerWrite n v sig => (match s.ledCheck n 1 v sig with
    | .ok => 0
    | .path => 2
    | .value => 2
    | .limit => 5
    | .auth => 6)
  | .qpConnect q ctx => if 1024 ≤ q ∨ ctx.length ≠ 256 then 2 else if !s.rbit regEnQptab 0 || s.qpValid q then 7 else 0
  | .qpReset q => if 1024 ≤ q then 2 else if s.rbit regEnQptab 0 && s.qpValid q then 0 else 7
  | .ingestCfg r _ _ => if r < 64 then 0 else 2
  | .fwStage slot _ => if 2 ≤ slot then 2 else if s.mgr.upd.isSome then 4 else if slot = b2n (s.rbit regFwStatus 1) ∨ s.joined 175 = false then 7 else 0
  | .fwActivate slot =>
    if 2 ≤ slot then 2 else if slot = b2n (s.rbit regFwStatus 1) then 7 else if s.imageFail (s.slotImage slot) ≠ 0 then 6 else 0
  | .debugAttach j => if (s.job j).loaded then 0 else 7
  | .debugDetach j => if (s.job j).loaded then 0 else 7
  | .debugHandSet j hd _ =>
    if !(s.job j).loaded then 7 else if (s.handle j hd).isNone then 2 else if (s.job j).debug then 0 else 7
  | _ => 0

/-- What a refused check leaves beside its reason: counters and flags of the refusing unit. -/
def State.hostRefused (s : State) (c : HostCmd) : State :=
  match c with
  | .ledgerWrite n v sig => (s.ledWrite n 1 v sig).2
  | .debugHandSet j hd _ => if (s.job j).loaded && (s.handle j hd).isSome then s.mkReject else s
  | _ => s

/-- The effect of an ordered command at its commit point (R503, R504). -/
def State.hostEffect (s : State) (c : HostCmd) : Done :=
  match c with
  | .ringCreate p cls sq cq => { state := s.ringCreate p (cls == 1) sq cq, result := leBytes 8 (ringCb p) }
  | .ringDelete p => { state := s.ringDelete p }
  | .jobUnload j => { state := (s.saveCounts j).unload j }
  | .jobStop j => { state := (s.stopJob j 7 0 0).reclaim j }
  | .configWrite off v => (let t := s.regWrite off 8 v; { state := t, result := leBytes 8 (t.regRead off).toNat })
  | .ledgerWrite n v sig =>
    let (r, t) := s.ledWrite n 1 v sig
    (match r with
      | .ok => { state := t, result := leBytes 4 (t.led n).count }
      | .limit => { state := t, reason := 5 }
      | .auth => { state := t, reason := 6 }
      | _ => { state := t, reason := 2 })
  | .qpConnect q ctx =>
    let t := s.homeForce (s.qpBase q) ctx
    { state := { t with qps := smapErase t.qps q } }
  | .qpReset q =>
    let t := s.homeForce (s.qpBase q) (List.replicate 256 0#8)
    { state := { t with qps := smapErase t.qps q } }
  | .ingestCfg r v w => { state := (s.enIngmkWrite r w).enIngWrite r v }
  | .fwStage slot img => { state := s.setSlot slot (some img), reason := if s.imageFail (some img) = 0 then 0 else 6 }
  | .fwActivate slot =>
    let svn := ((s.slotImage slot).map (fun (i : FwImage) => i.svn.toNat)).getD 0
    { state := ({ s with fw := { s.fw with trying := some slot } } : State).fwHalt 5, result := leBytes 4 svn }
  | .debugAttach j => { state := s.setJob j { s.job j with debug := true } }
  | .debugDetach j =>
    let t := s.setJob j { s.job j with debug := false }
    { state := { t with ctxs := smapMap (fun _ => {}) (fun _ x =>
        if x.run = .halted ∧ x.task.job = j then { x with run := .ready } else x) t.ctxs } }
  | .debugHandSet j hd v => (match s.handle j hd with
    | some (n, _) => { state := s.writeCount n v.toNat }
    | none => { state := s })
  | .roleOrderDepart => { state := s.orderWrite 1 }
  | .roleOrderTakeover => { state := s.orderWrite 2 }
  | _ => { state := s }

/-- The effect and the completion of a committed entry. The effect record is written with the effect, so a restart of the firmware in
the effect leaves the completion to the restarted firmware (R508, R511). -/
def State.hostNow (s : State) (r : Nat) (x : RingEnt) (c : HostCmd) (csn : Nat) : State :=
  match c with
  | .jobLoad j _ => s.loadNow r x j csn
  | .stateRead j t first rows buf => s.stateReadNow r x j t first rows buf csn
  | _ =>
    let d := s.hostEffect c
    d.state.complete r x.seq (doneWith d.reason (BitVec.ofNat 64 csn) d.result)

/-- Is it the turn of an ordered command of a job: no publication and no ordered command of a lower job stands at the sequencer with it
(R37; log 73)? -/
def State.orderedTurn (s : State) (j : Nat) : Bool :=
  !(upto 16).any (fun i => s.pubReady i) && !s.orderedWait.any (fun i => decide (i < j))

/-- An ordered command with nothing else to wait for: it is refused, or goes to its commit point (R503). -/
def State.hostOrdered (s : State) (r j : Nat) (x : RingEnt) (c : HostCmd) : State :=
  if s.hostCheck c ≠ 0 then (s.hostRefused c).refuse r x (s.hostCheck c)
  else if !s.mayCommit || !s.orderedTurn j then s
  else
    let t := s.underWay r x c
    t.commitEntry r { x with cmd := some c } j (fun (u : State) n => u.hostNow r x c n)

/-! ### Commits that the twin has acknowledged, and what the twin applies (R40, R408, R503) -/

/-- The entry whose commit record carries a CSN. -/
def State.entryOf (s : State) (csn : Nat) : Option (Nat × RingEnt) :=
  (upto 64).findSome? (fun r => ((s.ring r).opened.find? (fun e =>
    e.compl.isNone && (match e.commit with
      | some c => c.csn.toNat == csn
      | none => false))).map (fun e => (r, e)))

/-- A commit whose record the twin has acknowledged, or that a module alone records: a step end, an ordered command, the publication of
a sealed folio (R40, R49, R301, R428). -/
def State.resolveCsn (s : State) (csn : Nat) : State :=
  match s.dx.steps.find? (fun q => (match q.csn with
      | some n => n == csn
      | none => false)) with
  | some q => (match q.crec with
    | some r => s.recordStep r q
    | none => s)
  | none => match s.entryOf csn with
    | some (r, e) => (match e.commit, e.cmd with
      | some c, some i =>
        let t := (s.journal c).hostNow r e i csn
        if e.byte 0 = 0x17 then t.releaseHeld (e.byte 2) else t
      | _, _ => s)
    | none =>
      match s.folio.pub with
      | some r => if s.folio.sealing && r.csn.toNat == csn then (s.recordPub r).folioOver else s
      | none => s

/-- The command that a 64 B entry of a kind 3 record names, as far as its effect is the pair's: its fields are packed 8 B each (DESIGN
CHOICE, log 59), and data buffers have come in FIRMWARE records. Effects on a member's own island, flash, role and host are not the
pair's (DEDUCED, log 60). -/
def entryCmd (b : List Byte) (msgs : List (List Byte)) : Option HostCmd :=
  let p (i : Nat) : Nat := leNat (sliceB b (8 + 8 * i) 8)
  let j := (b.getD 2 0).toNat
  match (b.getD 0 0).toNat with
  | 0x02 => some (.ringCreate (p 0) (p 1) (p 2) (p 3))
  | 0x03 => some (.ringDelete (p 0))
  | 0x10 => some (.jobLoad j (Config.jobImageOf msgs))
  | 0x11 => some (.jobUnload j)
  | 0x12 => some (.jobStop j)
  | 0x20 => some (.configWrite (p 0) (BitVec.ofNat 64 (p 1)))
  | 0x30 => some (.qpConnect (p 0) (msgs.flatten.take 256))
  | 0x31 => some (.qpReset (p 0))
  | 0x32 => some (.ingestCfg (p 0) (BitVec.ofNat 64 (p 1)) (BitVec.ofNat 64 (p 2)))
  | 0x42 => (match p 0 with
    | 0 => some (.debugAttach j)
    | 1 => some (.debugDetach j)
    | 2 => some (.debugHandSet j (p 1) (BitVec.ofNat 32 (p 2)))
    | _ => none)
  | _ => none

/-- The twin applies the effect of an ordered command (R408, R503): a load places the job from the image that FIRMWARE records brought,
without starting it. -/
def State.twinEffect (s : State) (b : List Byte) : State :=
  let t : State := { s with twin := { s.twin with fwMsgs := [] } }
  match entryCmd b s.twin.fwMsgs with
  | none => s
  | some (.jobLoad j img) =>
    let u := if (t.job j).loaded then (t.saveCounts j).unload j else t
    let v := u.loadImage j img false
    v.setJob j { v.job j with loaded := true, loading := false }
  | some (.ringDelete p) => if t.hostCheck (.ringDelete p) = 0 then (t.hostEffect (.ringDelete p)).state else t
  | some c => if t.hostCheck c = 0 then (t.hostEffect c).state else t

end Sys2Proof.Machine
end

