-- ==== Sys2Proof/Machine/PairOps.lean ====
section
/-! DEFINITION. What a member of a pair does with frames and records, and how roles change: becoming SOLO, pairing, the resync, the
standby's copies, a takeover's end (R46, R400, R401, R405 to R408, R412 to R415, R418, R420, R421, R425 to R432). -/

namespace Sys2Proof.Machine

/-! ### Becoming SOLO (R421, R426, R428) -/

/-- CSNs assigned and not recorded, rising: step ends, ordered commands, a publication whose folio is sealed. -/
def State.openCsns (s : State) : List Nat :=
  let a := s.dx.steps.filterMap (fun q => q.csn)
  let b := (upto 64).flatMap (fun r => (s.ring r).opened.filterMap (fun e =>
    if e.compl.isNone then e.commit.map (fun c => c.csn.toNat) else none))
  let c := match s.folio.pub with
    | some r => if s.folio.sealing then [r.csn.toNat] else []
    | none => []
  (a ++ b ++ c).foldl (fun l x => insertNat x l) []

/-- A member goes on alone: its buffers are discarded, commits that waited for the twin are recorded here, a folio on its way is sealed
here (R406, R421, R426). -/
def State.becomeSolo (s : State) : State :=
  let was := s.role
  let s1 := (s.cbDiscard).setRole 4
  let s2 := s1.setTwin { s1.twin with lapsed := false, paired := false }
  let s3 := s2.openCsns.foldl (fun (t : State) n => t.resolveCsn n) s2
  let phase := s3.folioPhase
  let s4 : State := { s3 with folio := { s3.folio with toTwin := false } }
  let s5 := if phase = 3 ∧ s4.folio.sealing = false then s4.folioSeal else s4
  let s6 := if was = 1 ∧ s5.fwUp = true then s5.aloneNow else s5
  s6.folioSettle.commitsGoOn

/-- TWIN_HB is deasserted: in the filtered level of CB_STATUS and FE_PINS. -/
def State.twinDead (s : State) : Bool := !s.rbit regFePins 2

/-! ### Pairing (R400, R401) -/

/-- Do the records show that each journal holds commits the other lacks? Only the member whose RECORDED_CSN is at least the other's
can tell. -/
def State.diverges (s : State) (p : PairRec) : Bool :=
  decide (p.recorded ≠ 0) && decide (p.recorded.toNat ≤ s.recordedCsn)
    && (match s.journalFind p.recorded.toNat, p.record with
      | some b, some r => b != commitBytes r
      | _, _ => true)

/-- Does this member win the pairing: higher TAKEOVERS, then SEALED_CSN, then RECORDED_CSN, then letter A? -/
def State.wins (s : State) (p : PairRec) (letter : Nat) : Bool :=
  if s.takeovers ≠ p.takeovers.toNat then decide (s.takeovers > p.takeovers.toNat)
  else if s.sealedCsn ≠ p.sealedCsn.toNat then decide (s.sealedCsn > p.sealedCsn.toNat)
  else if s.recordedCsn ≠ p.recorded.toNat then decide (s.recordedCsn > p.recorded.toNat)
  else letter == 0

/-- The ranges that a resync copies: the journal window, every carbon-mirrored table, every active edition (R430). -/
def State.resyncRanges (s : State) : List (Nat × Nat) :=
  let tables := (upto 16).flatMap (fun j => if (s.job j).loaded then (upto 4096).flatMap (fun t => match s.desc j t with
    | some d =>
      if !s.mirrored j t d then []
      else if d.kind = 1 then [(d.base, d.rows * 64)]
      else if d.home = 1 then [(d.base, d.rows * d.rb)]
      else d.ownerList.map (fun k => (inkwellBase k + d.base, d.localRows d.ownerList.length * d.rb))
    | none => []) else [])
  let eds := s.tables.flatMap (fun x => match s.desc (x.1 / 4096) (x.1 % 4096) with
    | some d => (x.2.slots.filter (fun e => e.role = .active)).flatMap (fun e => s.slotRanges d e.slot)
    | none => [])
  (s.jbase, 64 + 64 * 65536) :: tables ++ eds

/-- Lines of 64 B with listed bytes in some ranges, in address order. -/
def State.resyncLines (s : State) : List Nat :=
  let rs := s.resyncRanges
  (s.mem.filter (fun c => rs.any (fun r => decide (r.1 ≤ c.1 ∧ c.1 < r.1 + r.2)))).foldr (fun c l => match l with
    | a :: _ => if a = lineOf c.1 then l else lineOf c.1 :: l
    | [] => [lineOf c.1]) []

/-- The winner: it runs alone while the resync copies (R401, R430). Everything is queued at once; lines that hold only what unlisted
memory reads as are not sent. The pairing begins F and T_op anew (R423). -/
def State.pairWin (s : State) : State :=
  let s1 := s.folioAbandon
  let s2 := if s1.role = 3 ∨ s1.role = 6 then s1.takeover else if s1.role = 4 then s1 else s1.becomeSolo
  let s3 := (s2.setRbit regCbStatus 12 true).setTwin { s2.twin with since := s2.time, faults := 0, lapsed := false, paired := true }
  s3.resyncLines.foldl (fun (t : State) a => t.cbSend 0x0C 0xFF [a] (t.rdN a 64)) s3

/-- Registers that belong to jobs, and go with a state that is discarded. -/
def jobReg (k : Nat) : Bool :=
  match regAt k with
  | some (d, _, _) => ["SC_JOB_PTBR", "NB_TBDIR", "CB_MIRMAP", "NB_UNDO", "NB_EDGEN", "HM_PINQ", "MK_MARK", "MK_MAP", "MK_JOBSTAT"].contains d.name
  | none => false

/-- Where the firmware's own structures begin (R549; log 51). -/
def fwArea (pa : Nat) : Bool := decide (0xFFC0000000 ≤ pa ∧ pa < 0x10000000000)

/-- Entries whose commit record had left keep it: what became of it shows in the journal that the resync brings (R55, R69). -/
def State.parkCommits (s : State) : State :=
  { s with rings := smapMap (fun _ => {}) (fun _ k => { k with opened := k.opened.map (fun e => { e with cmd := none }) }) s.rings }

/-- Entries whose commit record stands in the journal are DONE, and every other is NOT_DONE (R55, R69). The journal holds no result
bytes. -/
def State.settleByJournal (s : State) : State :=
  let settle (e : RingEnt) : RingEnt :=
    match e.compl, e.commit with
    | none, some c => { e with commit := none, compl := some (if s.journalFind c.csn.toNat = some (commitBytes c)
        then doneWith 0 c.csn [] else notDone 0x10) }
    | _, _ => e
  let t : State := { s with rings := smapMap (fun _ => {}) (fun _ k => { k with opened := k.opened.map settle }) s.rings }
  t.settleAll

/-- A member gives up its state for a resync: jobs, tasks, tables and memory; its journal stays readable, and its Fair-copy queues are
settled, as far as they do not wait for the other member's journal (R55, R69, R401, R430). -/
def State.discardState (s : State) : State :=
  let s1 := (s.parkCommits).settleQueues []
  { s1 with
    regs := s1.regs.filter (fun r => !jobReg r.1)
    mem := s1.mem.filter (fun c => fwArea c.1)
    poison := s1.poison.filter fwArea
    tlb := [], ctxs := s1.ctxs.filter (fun x => decide (256 ≤ x.1)), jobs := [], marks := [], clu := []
    dx := { folds := s1.dx.folds, gov := s1.dx.gov, em := s1.dx.em, rem := s1.dx.rem }
    sets := [], nbq := [], parts := [], lgq := [], hot := {}, tables := [], undo := [], pubq := [], holds := [], swaps := [], sealedImg := none
    twin := { s1.twin with
      plog := [], heldDelta := none, units := [], sealedUnits := [], sealedNum := 0, pubSeal := none, ackHeld := none, builds := []
      fwMsgs := [], jheld := [], restoring := false, discarded := true } }

/-- The loser: PAIRING until its resync ends (R401, R430). -/
def State.pairLose (s : State) : State :=
  let s1 := ((s.folioAbandon).setRole 1).discardState
  (s1.setRbit regCbStatus 12 true).setTwin { s1.twin with since := s1.time, faults := 0, lapsed := false, paired := true }

/-- Entries that do not name each other, or equal letters: the module acts as UNPAIRED (R400). -/
def State.pairBad (s : State) : State :=
  let t := ((s.setRbit regCbStatus 4 true).cbDiscard).setRole 0
  if t.fwUp then (t.aloneNow).folioSettle else t

/-- PAIR: identities, the journals, then the roles (R400, R401). A second PAIR with its flag only tells that the journals differ. -/
def State.pairRec (s : State) (p : PairRec) : State :=
  if p.diverged then s.setRbit regCbStatus 13 true
  else
    let s0 := if s.twin.paired then s else s.sendPair false
    match s0.pairing with
    | none => s
    | some (partner, letter) =>
      if partner ≠ padB 24 (p.identity.take 24) ∨ letter = p.letter then s0.pairBad
      else if rolesMatch s0.role p.role then s0
      else
        let s1 := if s0.diverges p then (s0.setRbit regCbStatus 13 true).sendPair true else s0
        if s1.wins p letter then s1.pairWin else s1.pairLose

/-! ### Frames (R379, R405, R406) -/

/-- A standby takes its partner's time, corrected by half the measured round trip; a count that is ahead runs slow until the two agree
(R46). -/
def State.takeTime (s : State) (time : Word) : State :=
  if s.role = 3 ∨ s.role = 6 then
    let want := time + BitVec.ofNat 64 Config.halfTrip
    if s.time ≤ want then ({ s with time := want } : State).setTwin { s.twin with ahead := 0 }
    else s.setTwin { s.twin with ahead := (s.time - want).toNat }
  else s

/-- A kept role meets the partner's first frame: roles that fit go on, else the roles are settled again (R406, R426). -/
def State.keptCheck (s : State) (role : Nat) : State :=
  if !s.twin.keep then s
  else
    let t := s.setTwin { s.twin with keep := false }
    if rolesMatch t.role role then t else (t.cbDiscard).sendPair false

/-- A frame whose CRC is good, by its place in the stream. A body that breaks its layout takes the link down (R407). -/
def State.frameTake (s : State) (f : Frame) : State :=
  let want := (s.twin.rxSeq + 1) % 65536
  if f.ftype = 3 then s
  else if f.ftype = 2 then
    (if f.seq.toNat = want ∧ s.twin.nakOpen = false then (s.takeTime f.time).frameHeader f
     else if s.twin.nakOpen ∨ (s.twin.rxSeq + 65536 - f.seq.toNat) % 65536 < 32768 then s else s.cbFail)
  else if f.seq.toNat ≠ want then
    (if (s.twin.rxSeq + 65536 - f.seq.toNat) % 65536 < 32768 ∨ s.twin.nakOpen = true then s else s.cbFail)
  else if s.twin.nakOpen && f.ftype ≠ 1 then s
  else
    let t := (s.takeTime f.time).setTwin { (s.takeTime f.time).twin with
      rxSeq := want, freed := s.twin.freed + 1, nakOpen := false, naksOut := 0 }
    match recsCheck 4096 (t.twin.rxPart ++ f.payload) with
    | some part => (t.setTwin { t.twin with rxPart := part }).frameHeader f
    | none => t.cbDown

/-- A frame arrives. -/
def State.frameReceive (s : State) (f : Frame) : State :=
  if !s.cbOpen then s
  else if !f.crcOk then s.cbFail
  else (s.keptCheck f.role).frameTake f

/-- The link trains up. Members whose roles stand replay from the first frame that is not acknowledged; others begin afresh and send PAIR
(R401, R406). A module without an image area cannot pair. -/
def State.cbLinkUp (s : State) : State :=
  if s.cbUp || !s.rbit regCbCfg 63 || !s.joined 171 || s.role == 0 || s.role == 7 then s
  else
    let t := s.setRbit regCbStatus 10 true
    if t.isPaired then t.setTwin { t.twin with keep := true, resend := t.twin.replay, retraining := false }
    else
      let u := t.cbDiscard
      if u.rfld regCbFolioarea 1 0 = 0 then u else u.sendPair false

/-! ### The standby's copies (R408, R412 to R415, R418, R420) -/

/-- Do records of the active member act here: a standby, or a member whose resync runs? -/
def State.follows (s : State) : Bool := s.cbOpen && (s.role == 3 || s.role == 6 || (s.role == 1 && s.twin.discarded))

/-- A member that joins loads a job that a record names from the image that FIRMWARE records brought (R403); memory that a resync has
written stands. -/
def State.joinJob (s : State) (j : Nat) : State :=
  if (s.job j).loaded || !s.twin.discarded then s
  else
    let img := Config.jobImageOf ([BitVec.ofNat 8 j] :: s.twin.fwMsgs)
    let fresh := img.cells.filter (fun c => s.rd c.1 == emptyByte c.1)
    let t := s.loadImage j { img with cells := fresh } false
    t.setJob j { t.job j with loaded := true, loading := false, gone := [] }

/-- The bytes of a delta in the pending log: its body (R412). -/
def State.deltaSize (s : State) (j : Nat) (d : DeltaRec) : Nat :=
  let rb := ((s.desc j d.table).map (fun (x : Desc) => x.rb)).getD 0
  24 + rb / 16 + (d.xors.map (fun x => deltaLen (deltaCode x.2.toNat))).sum

/-- Bytes of a job in the pending log, and its area's size. -/
def State.plogUsed (s : State) (j : Nat) : Nat := ((s.twin.plog.filter (fun e => e.job == j)).map (fun e => e.size)).sum

/-- A delta enters the log, and its segment is dirty (R413, R414). -/
def State.plogAdd (s : State) (j : Nat) (d : DeltaRec) : State :=
  let t := s.setTwin { s.twin with plog := s.twin.plog ++ [⟨j, d, s.deltaSize j d, false⟩] }
  match t.desc j d.table with
  | some x =>
    let rt := t.table j d.table
    let seg := d.row / x.rps
    t.setTable j d.table { rt with dirty := if rt.dirty.contains seg then rt.dirty else rt.dirty ++ [seg] }
  | none => t

def State.plogFits (s : State) (j : Nat) (d : DeltaRec) : Bool := decide (s.plogUsed j + s.deltaSize j d ≤ s.undoSize j)

/-- A delta arrives: with no space the record is held, LOG_FULL leaves, and what is behind it waits (R413). -/
def State.deltaTake (s : State) (j : Nat) (d : DeltaRec) : State :=
  let t := s.joinJob j
  if t.plogFits j d then t.plogAdd j d
  else ((t.setTwin { t.twin with heldDelta := some (j, d) }).bump regCbPlogFull).cbSend 0x0A j [j] []

/-- Space has been freed: the held delta enters. -/
def State.heldRetry (s : State) : State :=
  match s.twin.heldDelta with
  | some (j, d) => if s.plogFits j d then (s.setTwin { s.twin with heldDelta := none }).plogAdd j d else s
  | none => s

/-- The standby's own staging edition: of a carbon-mirrored table from its rows with the pending deltas applied and not written back, of
a folio-class tensor from the segments of the record (R414). -/
def State.twinBuild (s : State) (j t : Nat) (step : Word) (segs : List SegData) : State :=
  match s.desc j t with
  | none => s
  | some d =>
    let s0 := s.setTable j t { s.table j t with lastStep := step }
    let rt := s0.table j t
    let slot : Option (EdSlot × Bool) := match rt.slots.find? (fun e => e.role = .staging) with
      | some e => some (e, false)
      | none => ((upto 4).find? (fun i => !rt.slots.any (fun e => e.slot == i))).map (fun i => (⟨i, .staging, 0, [], 0, 0, false⟩, true))
    match slot with
    | none => s0
    | some (e, fresh) =>
      if s0.mirrored j t d then
        let ds := (s0.twin.plog.filter (fun x => x.job == j && x.d.table == t)).map (fun x => x.d)
        let u := (ds.foldl (fun (v : State) x => v.applyDelta j x) s0).buildInto j t d e fresh
        ds.foldl (fun (v : State) x => v.wrRaw (d.homeOf x.row) (s0.rdN (d.homeOf x.row) d.rb)) u
      else
        let act := rt.slots.find? (fun x => x.role = .active)
        let u0 := match fresh, act with
          | true, some a => if d.kind = 1 then s0 else s0.memWrite (d.dirAddr e.slot) (s0.rdN (d.dirAddr a.slot) (8 * d.segs))
          | _, _ => s0
        let slots : List EdSlot :=
          if fresh then rt.slots ++ [{ e with step := step }]
          else rt.slots.map (fun x => if x.slot = e.slot then { x with step := step } else x)
        let u1 := u0.setTable j t { rt with slots := slots }
        segs.foldl (fun (v : State) g =>
          if d.kind = 1 then v.memWrite (d.blockAddr e.slot + 65536 * g.index) g.bytes
          else match (v.freeSegs d (v.table j t)).head? with
            | some a => (v.memWrite a g.bytes).memWrite (d.dirAddr e.slot + 8 * g.index) (leBytes 8 a)
            | none => v) u1

/-- Units of an image, the newer ones first. -/
def mergeUnits (old new : List UnitData) : List UnitData := new ++ old.filter (fun u => !new.any (fun v => v.addr == u.addr))

/-- The sealed image as memory and contexts: the layout of its fixed part is not given (R417, R418). -/
def State.twinImage (s : State) : Image :=
  let im := Config.imageParts s.twin.sealedUnits
  { im with
    num := s.twin.sealedNum
    mem := s.twin.sealedUnits.foldl (fun (m : List Host.Cell) u =>
      (upto u.bytes.length).foldl (fun (m : List Host.Cell) i => smapSet emptyByte m (u.addr + i) (u.bytes.getD i 0)) m) [] }

/-- Is an address in the window of the journal? -/
def State.inJournal (s : State) (pa : Nat) : Bool := decide (s.jbase ≤ pa ∧ pa < s.jbase + 64 + 64 * 65536)

/-- The seal that ends a resync: the journal becomes the active member's, and the member is STANDBY (R401, R430). -/
def State.resyncEnd (s : State) : State :=
  if s.role = 1 ∧ s.twin.discarded = true then
    let js := s.twinImage.jobs
    let s1 := js.foldl (fun (t : State) j => t.joinJob j) s
    let s2 := s1.twin.jheld.foldl (fun (t : State) u => t.wrN u.addr u.bytes)
      ({ s1 with mem := s1.mem.filter (fun c => !s1.inJournal c.1) } : State)
    let s3 := ((s2.setTwin { s2.twin with discarded := false, jheld := [] }).setRbit regCbStatus 12 false).setRole 3
    let s4 := s3.setJr 32 s3.recordedCsn   -- on a standby ASSIGNED_CSN follows RECORDED_CSN (R36)
    ((s4.bump regCbResync).settleByJournal).folioSettle
  else s

/-- The seal on the standby, in the order of R420: image, deltas marked, pointers, SEALED_CSN, SEAL_ACK; then the marked deltas are
applied (R413). -/
def State.sealApply (s0 : State) (x : SealRec) : State :=
  let s := s0.setTwin { s0.twin with sealedUnits := mergeUnits s0.twin.sealedUnits s0.twin.units, units := [], sealedNum := x.folio, ackHeld := none }
  let s1 := (s.resyncEnd).setReg regCbSealed (BitVec.ofNat 64 x.folio)
  let s2 := s1.setTwin { s1.twin with
    plog := s1.twin.plog.map (fun e => if e.d.epoch.toNat ≤ x.folio then { e with marked := true } else e)
    pubSeal := if x.pub.isSome then some x else s1.twin.pubSeal }
  let js := (x.ptrs.map (fun p => p.1)).dedup
  let s3 := js.foldl (fun (t : State) j => t.activate j ((x.ptrs.filter (fun p => p.1 == j)).map (fun p => p.2))) s2
  let s4 := (s3.seal x.covered.toNat).ringRelease (some s3.twinImage)
  let s5 := s4.cbSend 0x08 0xFF [x.folio] []
  (s5.applyMarked).heldRetry

/-- Does a standby build of a table that the seal names still run? -/
def State.sealWaits (s : State) (x : SealRec) : Bool := s.twin.builds.any (fun b => x.ptrs.contains (b.1, b.2.1))

/-- SEAL: held while standby builds of named tables run, which CB_SEAL_WAIT counts (R414). -/
def State.sealTake (s : State) (x : SealRec) : State :=
  if s.sealWaits x then (s.setTwin { s.twin with ackHeld := some x }).bump regCbSealWait else s.sealApply x

/-- ROLLBACK: the job's deltas above the resume folio go, with its staging editions whose build step is withdrawn; a partial image is
discarded (R415, R421). -/
def State.rollbackTake (s : State) (j n : Nat) : State :=
  let t := s.setTwin { s.twin with
    plog := s.twin.plog.filter (fun e => e.job != j || decide (e.d.epoch.toNat ≤ n))
    heldDelta := s.twin.heldDelta.filter (fun e => e.1 != j || decide (e.2.epoch.toNat ≤ n))
    builds := s.twin.builds.filter (fun b => b.1 != j)
    units := [], ackHeld := none }
  (t.restoreTables t.twinImage j).heldRetry

/-- COMMIT: the record goes into the journal, ASSIGNED_CSN follows, a publication's CSN is sealed, an ordered command takes its effect,
and COMMIT_ACK leaves (R36, R408). -/
def State.commitTake (s : State) (r : CommitRec) (e : List Byte) : State :=
  let s1 := s.journal r
  let s2 := if s1.assignedCsn < s1.recordedCsn then s1.setJr 32 s1.recordedCsn else s1
  let s3 := if r.kind = 2 then (s2.seal r.csn.toNat).setTwin { s2.twin with pubSeal := none } else s2
  let s4 := if r.kind = 3 then s3.twinEffect e else s3
  s4.cbSend 0x03 0xFF [r.csn.toNat] []

/-! ### Transfers (R339, R340, R432) -/

/-- A transfer's data is written, then its signal applied; XFER_ACK reports 0 OK, 1 ACCESS, 2 MARK_DROPPED. -/
def State.transferTake (s : State) (x : XferRec) : State :=
  match s.etherStore x.job x.va.toNat x.bytes with
  | (t, false) => t.cbSend 0x0E x.job [x.num, 1] []
  | (t, true) =>
    let (ok, u) := t.linkSignal x.job x.handle x.inc 5
    u.cbSend 0x0E x.job [x.num, if ok then 0 else 2] []

/-- XFER_ACK: the sender signals its own mark, whatever the status. -/
def State.xferDone (s : State) (n : Nat) : State :=
  match s.twin.xfers.find? (fun x => x.num == n) with
  | none => s
  | some x =>
    let t := s.setTwin { s.twin with xfers := s.twin.xfers.filter (fun y => y.num != n) }
    match x.mark with
    | some m => t.sendMark m ⟨5, .signal 1⟩
    | none => t

/-! ### Folios and the takeover (R419 to R421, R428, R430) -/

/-- Has every Quill and Stipple operation that left its command queue completed, in clusters that run (R176, R229)? -/
def State.unitsIdle (s : State) : Bool :=
  s.clu.all (fun x => !s.coreLive x.1
    || ((x.2.ql.failed || (x.2.ql.weight.isNone && x.2.ql.array.isNone && x.2.ql.drain.isNone))
      && (x.2.sp.failed || (x.2.sp.load.isNone && x.2.sp.lanes.isNone && x.2.sp.port.isNone && x.2.sp.comp.isNone))))

/-- Are the conditions of the quiesce's end met: nothing of what was in flight is left, every unit has sent a
heartbeat, and every step end that has a CSN is recorded, so
that none recorded later lies at or below what the seal covers (R65, R419, R456)? -/
def State.quiesced (s : State) : Bool :=
  decide (s.folioPhase = 1) && s.folio.beat && s.unitsIdle && s.reports.isEmpty && (s.role != 2 || (s.twin.sendq.isEmpty && s.twin.txPart.isEmpty))
    && s.dx.steps.all (fun q => q.csn.isNone)

/-- The capture; the image goes to the twin of an ACTIVE member, or of a winner whose resync copy is done (R417, R430). -/
def State.quiesceEnd (s : State) : State :=
  let dest := s.role == 2 || (s.role == 4 && s.rbit regCbStatus 12 && s.twin.folioAll)
  ({ s with folio := { s.folio with toTwin := dest } } : State).folioCapture

/-- The tables whose staged pointers a seal carries, as pairs of a job and a handle. -/
def State.sealPtrs (s : State) : List Nat :=
  match s.pubq.find? (fun p => p.started) with
  | some p => p.tables.flatMap (fun t => [p.job, t])
  | none => []

/-- A publication whose job has become tainted before its commit point stops with NOT_DONE; its folio goes on (R49, R335). -/
def State.pubTaint (s : State) : State :=
  match s.folio.pub, s.pubq.find? (fun p => p.started) with
  | some r, some p => if s.rbit (regMkJobstat r.job) 0 then
      (({ s with folio := { s.folio with pub := none } } : State).pubResult p none 0x12) else s
  | _, _ => s

/-- The capture is done: FOLIO_DATA and SEAL leave, or the folio is sealed here (R420). `changed` units of the image are sent. -/
def State.captureEnd (s0 : State) (changed stopUs : Nat) : State :=
  let s := s0.pubTaint
  let s1 : State := { s with folio := { s.folio with stop := stopUs } }
  if s1.folio.toTwin then
    let data := (s1.folio.cap.map Config.imageBytes).getD []
    let s2 := s1.cbSend 0x06 0xFF [s1.folio.num, 0, changed] data
    let pub := match s2.folio.pub with
      | some r => commitBytes r
      | none => []
    (s2.cbSend 0x07 0xFF ([s2.folio.num, s2.folio.covered.toNat] ++ s2.sealPtrs) pub).setPhase 3
  else s1.folioSeal

/-- SEAL_ACK: the folio is sealed here too; the one that ends a resync makes the winner ACTIVE (R420, R430). -/
def State.sealAckTake (s : State) (n : Nat) : State :=
  if s.folioPhase ≠ 3 ∨ s.folio.num ≠ n ∨ s.folio.sealing = true then s
  else
    let t := if s.role = 4 ∧ s.rbit regCbStatus 12 = true then
        let u := ((s.setRole 2).setRbit regCbStatus 12 false).bump regCbResync
        u.setTwin { u.twin with folioAll := false }
      else s
    t.folioSeal

/-- The end of a takeover: marked deltas are applied, the image is placed, RESUMED is posted, the jobs resume; group jobs are restarted by
every member (R428, R431). -/
def State.takeoverEnd (s : State) : State :=
  let s1 := s.applyMarked
  let im := s1.twinImage
  let s2 : State := { s1 with sealedImg := some im, twin := { s1.twin with restoring := false } }
  let s3 := im.jobs.foldl (fun (t : State) j =>
    let u := (t.groupRestart j).placeJob im j
    (u.groupHold j).postResumed j 0xF0 0) s2
  let s4 : State := { s3 with dx := { s3.dx with stopped := false } }
  s4.settleQueues im.jobs

/-- A lease lapses (R425, R426, R528): counted, reported, alerted; then by TWIN_HB. -/
def State.leaseLapse (s : State) : State :=
  let t := (s.bump regCbLinkLoss).setTwin { s.twin with lapsed := true }
  let u := (t.report ⟨0x31, carbonUnit, 0, 0, none, false⟩).alert 3
  if u.role = 5 then (if u.twinDead then u.becomeSolo else u)
  else if u.twinDead then u.takeover else u.setRole 6

/-- TWIN_HB takes a level: once the lease has lapsed, its deassertion acts at once (R426). -/
def State.twinHb (s : State) (asserted : Bool) : State :=
  let t := (s.setRbit regFePins 2 asserted).setRbit regCbStatus 11 asserted
  if asserted || !t.twin.lapsed then t
  else if t.role = 5 then t.becomeSolo
  else if t.role = 6 then t.takeover
  else t

end Sys2Proof.Machine
end

