-- ==== Sys2Proof/Machine/Carbon.lean ====
section
/-! DEFINITION. The rows of the Carbon link and of the records that cross it (R401, R405 to R408, R412 to R415, R418, R420, R427, R430,
R432). -/

namespace Sys2Proof.Machine

/-- A record of the active member acts on a member that follows it, behind no held delta (R407, R413). -/
def State.followRec (s : State) (f : State → State) : Res :=
  .next (if s.follows && s.twin.heldDelta.isNone then f s else s)

/-- A frame is checked and accepted, discarded or refused (R405, R406). -/
def execCarbonFrameReceive (f : Frame) (s : State) : Res := .next (s.frameReceive f)

/-- No replay has come within 4 µs: NAK again (R406). -/
def execCarbonNakTimeout (s : State) : Res := .next (if s.cbOpen && s.twin.nakOpen then s.cbNak else s)

/-- The link trains up (R401, R406). -/
def execCarbonLinkUp (s : State) : Res := .next s.cbLinkUp

/-- The partner drops its lanes (R406). -/
def execCarbonLinkDown (s : State) : Res := .next s.cbDown

/-- A retrain ends: spares and width are chosen and the replay begins, or the link is down (R406). -/
def execCarbonRetrainEnd (r : TrainResult) (s : State) : Res :=
  .next (if !(s.cbUp && s.twin.retraining) then s
    else
      let (t, ok) := s.cbLanes r
      if ok then (t.setTwin { t.twin with retraining := false, nakOpen := false, naks := 0, naksOut := 0 }).cbReplay else t.cbDown)

/-- The link layer sends its next frame (R405, R411). -/
def execCarbonFrameSend (s : State) : Res := .next s.cbSendFrame

/-- PAIR (R400, R401). -/
def execPair (p : PairRec) (s : State) : Res :=
  .next (if s.cbOpen && s.role != 0 && s.role != 7 && decide (s.rfld regCbFolioarea 1 0 ≠ 0) then s.pairRec p else s)

/-- COMMIT on a standby (R408). -/
def execCommit (r : CommitRec) (e : List Byte) (s : State) : Res :=
  s.followRec (fun s => if s.role = 1 ∨ s.jplaced = false then s else s.commitTake r e)

/-- COMMIT_ACK records the commit (R40, R301, R503). -/
def execCommitAck (csn : Nat) (s : State) : Res :=
  .next (if s.cbOpen && (s.role == 2 || s.role == 5) then s.resolveCsn csn else s)

/-- DELTA into the pending log (R412, R413). -/
def execDelta (j : Nat) (d : DeltaRec) (s : State) : Res := s.followRec (fun s => s.deltaTake j d)

/-- BUILD: the standby builds its own staging edition, which is complete with STANDBY_BUILD_COMPLETE (R414). -/
def execBuild (j t : Nat) (step : Word) (segs : List SegData) (s : State) : Res :=
  s.followRec (fun s =>
    let u := (s.joinJob j).twinBuild j t step segs
    u.setTwin { u.twin with builds := u.twin.builds ++ [(j, t, step, segs)] })

/-- FOLIO_DATA: changed units of the image, from its beginning at offset 0 (R418). -/
def execFolioData (_n off : Nat) (units : List UnitData) (s : State) : Res :=
  s.followRec (fun s => s.setTwin { s.twin with units := if off = 0 then units else mergeUnits s.twin.units units })

/-- SEAL (R414, R420). -/
def execSeal (x : SealRec) (s : State) : Res := s.followRec (fun s => if s.twin.ackHeld.isSome then s else s.sealTake x)

/-- SEAL_ACK (R420). -/
def execSealAck (n : Nat) (s : State) : Res := .next (if s.cbOpen && s.folio.toTwin then s.sealAckTake n else s)

/-- ROLLBACK (R415). It passes a held delta, whose space it may free. -/
def execRollback (j n : Nat) (s : State) : Res := .next (if s.follows then s.rollbackTake j n else s)

/-- LOG_FULL requests a folio (R413, R416). -/
def execLogFull (_j : Nat) (s : State) : Res :=
  .next (if s.cbOpen && (s.role == 2 || s.role == 5 || (s.role == 4 && s.rbit regCbStatus 12)) then s.requestFolio true else s)

/-- DEPART: a standby takes over at once, an active member becomes SOLO at once (R421, R427). -/
def execDepart (_cause : Nat) (s : State) : Res :=
  .next (if !s.cbOpen then s
    else if s.role = 3 ∨ s.role = 6 then s.takeover
    else if s.role = 2 ∨ s.role = 5 then s.becomeSolo
    else if s.role = 4 ∧ s.rbit regCbStatus 12 = true then s.cbDown
    else s)

/-- RESYNC: copied bytes; those of the own journal's window wait until the resync ends (R401, R430). -/
def execResync (pa : Nat) (d : List Byte) (s : State) : Res :=
  .next (if s.cbOpen && s.role == 1 && s.twin.discarded then
      (if s.inJournal pa then s.setTwin { s.twin with jheld := s.twin.jheld ++ [⟨pa, d⟩] } else s.wrN pa d)
    else s)

/-- TRANSFER (R432). -/
def execTransfer (x : XferRec) (s : State) : Res := .next (if s.cbOpen then s.transferTake x else s)

/-- XFER_ACK, whatever its status (R340, R432). -/
def execXferAck (n _st : Nat) (s : State) : Res := .next (if s.cbOpen then s.xferDone n else s)

/-- FIRMWARE: a message between copyists (R407). -/
def execFirmware (d : List Byte) (s : State) : Res :=
  .next (if s.cbOpen then s.setTwin { s.twin with fwMsgs := s.twin.fwMsgs ++ [d] } else s)

/-- A staging edition of the standby is complete; a SEAL that waited for it goes on (R414). -/
def execStandbyBuildComplete (j t : Nat) (s : State) : Res :=
  .next (if !s.twin.builds.any (fun b => b.1 == j && b.2.1 == t) then s
    else
      let u := s.setTwin { s.twin with builds := s.twin.builds.filter (fun b => !(b.1 == j && b.2.1 == t)) }
      match u.twin.ackHeld with
      | some x => if u.sealWaits x then u else u.sealApply x
      | none => u)

end Sys2Proof.Machine
end

