-- ==== Sys2Proof/Machine/Control.lean ====
section
/-! DEFINITION. Branches and jumps, group 0x04 (R85, R86). -/

namespace Sys2Proof.Machine

/-- imm32 is a multiple of 8 in every operation of the group (R85). -/
def brImmOk (f : FormK) : Bool := decide (f.imm.toNat % 8 = 0)

/-- The words that a compare branch may be. -/
def cmpLegal (f : FormK) : Bool := isA f.dst && isA f.src && isZ f.ctl && brImmOk f

/-- The effect of a branch: pc + simm when taken, else the next instruction; no link is written (R85, R86). -/
def State.branchEff (h : Hart) (f : FormK) (taken : Ctx → Bool) (s : State) : State :=
  s.modCtx h (fun c => if taken c then c.goto (c.pc + simm f.imm) else c.next)

/-- A compare branch on A[dst] and A[src] (R85). -/
def State.cmpBranch (s : State) (op : Nat) (h : Hart) (f : FormK) (g : Word → Word → Bool) : Res :=
  .next (s.issue h (wordK 0x04 op f) (cmpLegal f) f.mask.toNat [f.dst.toNat, f.src.toNat] []
    (State.branchEff h f (fun c => g (c.getA f.dst.toNat) (c.getA f.src.toNat))))

/-- The words that a branch on a mask register may be (R85). -/
def maskBrLegal (f : FormK) : Bool := isZ f.dst && isM f.src && isZ f.ctl && brImmOk f

/-- A branch on M[src] (R85). -/
def State.maskBranch (s : State) (op : Nat) (h : Hart) (f : FormK) (g : Word → Bool) : Res :=
  .next (s.issue h (wordK 0x04 op f) (maskBrLegal f) f.mask.toNat [] [f.src.toNat]
    (State.branchEff h f (fun c => g (c.getM f.src.toNat))))

/-- BEQ (R85). -/
def execBeq (h : Hart) (f : FormK) (s : State) : Res := s.cmpBranch 0x00 h f (fun a b => a == b)
/-- BNE (R85). -/
def execBne (h : Hart) (f : FormK) (s : State) : Res := s.cmpBranch 0x01 h f (fun a b => a != b)
/-- BLT, signed (R85). -/
def execBlt (h : Hart) (f : FormK) (s : State) : Res := s.cmpBranch 0x02 h f (fun a b => a.slt b)
/-- BGE, signed (R85). -/
def execBge (h : Hart) (f : FormK) (s : State) : Res := s.cmpBranch 0x03 h f (fun a b => !a.slt b)
/-- BLTU (R85). -/
def execBltu (h : Hart) (f : FormK) (s : State) : Res := s.cmpBranch 0x04 h f (fun a b => a.ult b)
/-- BGEU (R85). -/
def execBgeu (h : Hart) (f : FormK) (s : State) : Res := s.cmpBranch 0x05 h f (fun a b => !a.ult b)
/-- BMANY: taken when M[src] is not 0 (R85). -/
def execBmany (h : Hart) (f : FormK) (s : State) : Res := s.maskBranch 0x08 h f (fun m => m != 0)
/-- BMNONE: taken when M[src] is 0 (R85). -/
def execBmnone (h : Hart) (f : FormK) (s : State) : Res := s.maskBranch 0x09 h f (fun m => m == 0)

/-- JAL: A[dst] := pc + 8; pc := pc + simm (R85). src is not used. -/
def execJal (h : Hart) (f : FormK) (s : State) : Res :=
  .next (s.issue h (wordK 0x04 0x10 f) (isA f.dst && isZ f.src && isZ f.ctl && brImmOk f) f.mask.toNat [f.dst.toNat] []
    (fun s => s.modCtx h (fun c =>
      (c.setA f.dst.toNat (c.pc + 8)).goto (c.pc + simm f.imm))))

/-- JALR: the target is formed before the link is written; a misaligned target raises MISALIGNED_FETCH at the jump with
the target in SC_XVAL and no link (R85, R86). -/
def execJalr (h : Hart) (f : FormK) (s : State) : Res :=
  .next (s.issue h (wordK 0x04 0x11 f) (isA f.dst && isA f.src && isZ f.ctl && brImmOk f) f.mask.toNat
    [f.dst.toNat, f.src.toNat] []
    (fun s =>
      let t := (s.ctx h).getA f.src.toNat + simm f.imm
      if t.toNat % 8 ≠ 0 then s.raise h .misalignedFetch t
      else s.modCtx h (fun c => (c.setA f.dst.toNat (c.pc + 8)).goto t)))

end Sys2Proof.Machine
end

