-- ==== Sys2Proof/Machine/Ethernet.lean ====
section
/-! DEFINITION. The Ethernet rows: port events, frames, RDMA messages and answers, doorbells, congestion, group control messages and
ingest (R433 to R448). -/

namespace Sys2Proof.Machine

/-- A port trains up, goes down or reports a fault (R433). -/
def execEthPortLinkChange (p st : Nat) (fault : Bool) (s : State) : Res :=
  .next (
    if p ≥ 2 ∨ st > 2 ∨ s.joined (172 + p) = false ∨ (st ≠ 0 ∧ s.rbit (regEnCfg p) 63 = false) then s
    else (s.setRfld regEnStatus (3 * p + 1) (3 * p) st).setRbit regEnStatus (3 * p + 2) fault)

/-- A frame is accepted, answered by the firmware, or dropped (R434); what an accepted one carries has a row of its own. -/
def execEthFrameReceive (p : Nat) (k : EthKind) (s : State) : Res :=
  .next (
    if !s.portUp p then s
    else match k with
      | .roce => s
      | .ingest => s
      | .arpNd => if s.fwUp then s.send (.ether p) 0x0806 [] [] else s
      | .icmpEcho => if s.fwUp then s.send (.ether p) 0x0001 [] [] else s
      | .badFcs => s.bump regEnFcsErr
      | .fragment => s.bump regEnDrop
      | .other => s.bump regEnDrop)

/-- Inbound WRITE (R436). -/
def execRdmaWrite (q : Nat) (m : RdmaMsg) (s : State) : Res := .next (s.rdmaWrite q m (fun t => t))

/-- Inbound WRITE with Immediate: the data, then the mark signal (R437). -/
def execRdmaWriteImm (q : Nat) (m : RdmaMsg) (imm : BitVec 32) (s : State) : Res :=
  .next (s.rdmaWrite q m (fun t => t.immSignal q imm m.psn.toNat))

/-- Inbound READ (R436). -/
def execRdmaRead (q : Nat) (m : RdmaMsg) (s : State) : Res := .next (s.rdmaRead q m)

/-- An answer to an outbound operation (R438, R439). -/
def execRdmaAck (q : Nat) (a : RdmaAck) (s : State) : Res :=
  .next (
    if !s.qpReady q then s
    else match a with
      | .ack psn => s.qpAck q psn.toNat
      | .nakSequence psn => (s.qpAck q ((psn.toNat + 2 ^ 24 - 1) % 2 ^ 24)).qpResend q
      | .nakOther y => s.qpError q y
      | .readData psn b => if s.qpCtrl q then s.sliceData q psn.toNat b else s.qpReadData q psn.toNat b)

/-- An unacknowledged packet is resent, or the retries have run out (R439). -/
def execRdmaAckTimeout (q : Nat) (s : State) : Res := .next (if s.qpReady q then s.qpResend q else s)

/-- A job writes a send-ring tail (R438). -/
def execQpDoorbell (q : Nat) (v : Word) (s : State) : Res := .next (if q < 1024 then s.qpDoorbell q v else s)

/-- A CNP (R440). -/
def execCnpReceive (q : Nat) (s : State) : Res := .next (if s.qpReady q then s.cnpTake q else s)

/-- TIMER µs without a CNP (R440). -/
def execCcTimerExpire (q : Nat) (s : State) : Res := .next (if s.qpReady q then s.rateRaise q else s)

/-- A remote mark signal of this module's was dropped (R437). -/
def execMarkDropped (q _handle _psn : Nat) (s : State) : Res := .next (if s.ctlOk q then s.bump regEnMarkNote else s)

/-- A member pools its slice for a requester (R293, R443). -/
def execSliceReq (q : Nat) (r : SliceReq) (s : State) : Res := .next (if s.ctlOk q then s.sliceReq q r else s)

/-- The answer to a slice request (R293). -/
def execSliceRsp (q : Nat) (_ed : Word) (st : Nat) (s : State) : Res :=
  .next (if s.ctlOk q && decide (st = 1) then s.batchGone (s.qpJob q) else s)

/-- A forwarded folio request reaches rank 0 (R444). -/
def execEthFolioReq (j _src : Nat) (s : State) : Res := .next (if s.fwUp then s.groupAsk j else s)

/-- The step of the group folio (R444). -/
def execFolioAt (j : Nat) (step : Word) (s : State) : Res := .next (if s.fwUp then s.folioAt j step else s)

/-- A member has sealed its group folio (R444). -/
def execSealed (j rank n : Nat) (step : Word) (s : State) : Res := .next (if s.fwUp then s.memberSealed j rank n step else s)

/-- A member restarts the group's job (R445). -/
def execRestart (j rank n : Nat) (s : State) : Res := .next (if s.fwUp then s.groupRollback j rank n else s)

/-- A member has rolled back (R445). -/
def execRestartAck (j rank n : Nat) (s : State) : Res := .next (if s.fwUp then s.groupAck j rank n else s)

/-- An ingest datagram (R446, R447). -/
def execIngestDatagram (r : Nat) (seq : Word) (len : Nat) (rsv : Bool) (d : List Byte) (s : State) : Res :=
  .next (if r < 64 && (s.portUp 0 || s.portUp 1) then s.ingestTake r seq len rsv d else s)

end Sys2Proof.Machine
end

