-- ==== Sys2Proof/Machine/Firmware.lean ====
section
/-! DEFINITION. The rows of the firmware's boot, ring service and restart (R494, R500, R509, R511). -/

namespace Sys2Proof.Machine

/-- A slot has been read and hashed (R494). -/
def execBootImageLoaded (s : State) : Res := .next (if s.bootable then s.bootSlot else s)

/-- The firmware consumes an entry of a pair (R500, R501). -/
def execRingEntryConsume (r : Nat) (s : State) : Res :=
  .next (if decide (r < 64) && s.mayConsume r && s.ringTurn r then s.ringConsume r else s)

/-- A working copyist's watchdog expires (R509). -/
def execFwWatchdogExpire (p : Nat) (s : State) : Res :=
  .next (if s.workers.contains p && s.rbit regFwStatus 0 then s.fwCrash 1 else s)

/-- The restart is complete (R511, R512). -/
def execFwRestartComplete (s : State) : Res := .next (if s.rbit regFwStatus 5 && !s.pwHeld then s.fwRestarted else s)

end Sys2Proof.Machine
end

