-- ==== Sys2Proof/Machine/Gather.lean ====
section
/-! DEFINITION. The gather instructions, groups 0x13 and 0x14 (R246 to R249, R253, R258, R259). -/

namespace Sys2Proof.Machine

/-- A pool starts at once on an outer queue and by booking on an inner one (R249, R250). -/
def State.poolStart (s : State) (k : Nat) (o : SkOp) : State :=
  if s.qInner k o.queue then
    (s.setSk k { o with state := 1 }).skStart k { o with state := 1 } (fun t x => t.poolBegin k x)
  else s.poolBegin k o

/-- NB.POOL (R246 to R249). -/
def execNbPool (h : Hart) (f : FormD) (s : State) : Res :=
  .next (s.issue h (wordD 0x13 0x00 f) (decide (f.areg.toNat < 32) && sigOk f && isZ f.imm && isZ f.ctl) f.mask.toNat
    [f.areg.toNat] []
    (fun s => s.withSlot h f (fun d s =>
      let l := s.rdN (sheetPa h.core (s.cl h.core).front (plList d)) (16 * plFan d)
      s.checked h (wordD 0x13 0x00 f) (poolDescOk d (s.qInner h.core f.queue.toNat) && fanOk l (plFan d)) (fun s =>
        s.withSig h f (fun m s => s.skEnter h (s.skNew h f .pool (d ++ l) m false) (fun s o => s.poolStart h.core o))))))

/-- NB.RDFL: waits for the task's earlier gathers, then reads the gather flags (R253). -/
def execNbRdfl (h : Hart) (f : FormD) (s : State) : Res :=
  .next (s.issue h (wordD 0x13 0x11 f)
    (decide (f.areg.toNat < 32) && isZ f.slot && isZ f.queue && isZ f.mark && isZ f.mask && isZ f.sig && isZ f.imm
      && decide (f.ctl.toNat ≤ 1)) f.mask.toNat [f.areg.toNat] []
    (fun s =>
      let o := ownerOf h (s.ctx h)
      if (s.cl h.core).sk.any (fun x => x.own.same o && (x.kind == .pool || x.kind == .gather)) then s.waits h
      else s.modCtx h (fun c =>
        let c1 := c.setA f.areg.toNat c.gaFlags
        (if f.ctl = 1 then { c1 with gaFlags := 0 } else c1).next)))

/-- LG.GATHER (R258, R259). -/
def execLgGather (h : Hart) (f : FormD) (s : State) : Res :=
  .next (s.issue h (wordD 0x14 0x00 f)
    (decide (f.areg.toNat < 32) && sigOk f && isZ f.imm && decide (f.ctl.toNat ≤ 1)) f.mask.toNat [f.areg.toNat] []
    (fun s => s.withSlot h f (fun d s =>
      s.checked h (wordD 0x14 0x00 f) (gatherDescOk d) (fun s =>
        s.withSig h f (fun m s =>
          s.skEnter h (s.skNew h f .gather d m (f.ctl.getLsbD 0)) (fun s o => s.gatherBegin h.core o))))))

end Sys2Proof.Machine
end

