-- ==== Sys2Proof/Machine/HostCmds.lean ====
section
/-! DEFINITION. The rows of the host commands (R504). -/

namespace Sys2Proof.Machine

/-- IDENTIFY: part number, serial number, firmware VERSION. -/
def execIdentify (e : EntryHdr) (s : State) : Res :=
  s.hostRow e 0x01 false (fun s x => s.answered e.ring x (partNumber ++ sliceB s.identity 16 8 ++ leBytes 8 s.fw.version.toNat))

/-- RING_CREATE (R499). -/
def execRingCreate (e : EntryHdr) (pair cls sqlog cqlog : Nat) (s : State) : Res :=
  s.hostRow e 0x02 false (fun s x => s.hostOrdered e.ring e.job x (.ringCreate pair cls sqlog cqlog))

/-- RING_DELETE: the pair takes no further entry, and goes once its entries have completed. -/
def execRingDelete (e : EntryHdr) (pair : Nat) (s : State) : Res :=
  s.hostRow e 0x03 false (fun s x =>
    if s.hostCheck (.ringDelete pair) = 0 ∧ (s.ring pair).opened.isEmpty = false then s.modRing pair (fun k => { k with deleting := true })
    else s.hostOrdered e.ring e.job x (.ringDelete pair))

/-- JOB_LOAD: the job is loaded and a folio requested; its commit point comes with the seal (R416, R504). -/
def execJobLoad (e : EntryHdr) (img : JobImage) (s : State) : Res :=
  s.hostRow e 0x10 true (fun s x =>
    if s.loadRefused e.job img ≠ 0 then s.refuse e.ring x (s.loadRefused e.job img)
    else ((s.loadImage e.job img true).underWay e.ring x (.jobLoad e.job img)).requestFolio true)

/-- JOB_UNLOAD (R550). -/
def execJobUnload (e : EntryHdr) (s : State) : Res :=
  s.hostRow e 0x11 true (fun s x => s.hostOrdered e.ring e.job x (.jobUnload e.job))

/-- JOB_STOP: as R105 with code TRAP. -/
def execJobStop (e : EntryHdr) (s : State) : Res :=
  s.hostRow e 0x12 true (fun s x => s.hostOrdered e.ring e.job x (.jobStop e.job))

/-- TASK_SUBMIT: FIELD for a descriptor that R299 would refuse; an entry that the queues cannot take waits (R304). -/
def execTaskSubmit (e : EntryHdr) (d : List Byte) (s : State) : Res :=
  s.hostRow e 0x13 false (fun s x =>
    let b := padB 64 (d.take 32)
    if !s.jobRuns e.job then s.refuse e.ring x 7
    else if !taskDescOk b then s.refuse e.ring x 2
    else
      let (n, t) := s.taskNum e.job
      match t.enqueue (taskOf b e.job n 0 none none (128 + e.ring)) with
      | some u => (u.unstall (128 + e.ring)).answered e.ring x (leBytes 4 n)
      | none => s.stall (128 + e.ring))

/-- PUBLISH: the checks of R287, then the job's publication queue. -/
def execPublish (e : EntryHdr) (buf : Nat) (s : State) : Res :=
  s.hostRow e 0x14 true (fun s x =>
    if !s.jobRuns e.job then s.refuse e.ring x 7
    else match (if bufOk buf 16 then parseList (s.rdN buf 144) else none).filter (fun ts => bufOk buf (16 + 2 * ts.length)) with
      | none => s.refuse e.ring x 2
      | some ts => match s.stageStep e.job ts with
        | none => s.refuse e.ring x 7
        | some w =>
          let t := s.underWay e.ring x (.publish e.job buf)
          { t with pubq := t.pubq ++ [⟨e.job, ts, w, buf + 8, some (e.ring, x.seq.toNat), none, false⟩] })

/-- GEN_HOLD: at most 16 generations a pair (R292). -/
def execGenHold (e : EntryHdr) (s : State) : Res :=
  s.hostRow e 0x15 false (fun s x =>
    if !(s.job e.job).loaded || decide ((s.holds.filter (fun h => h.ring == e.ring)).length ≥ 16) then s.refuse e.ring x 7
    else
      let g := (s.reg (regNbEdgen e.job)).toNat
      ({ s with holds := s.holds ++ [⟨e.job, g, e.ring⟩] } : State).answered e.ring x (leBytes 8 g))

/-- GEN_RELEASE (R292). -/
def execGenRelease (e : EntryHdr) (gen : Nat) (s : State) : Res :=
  s.hostRow e 0x16 false (fun s x =>
    if s.holds.contains ⟨e.job, gen, e.ring⟩ then
      (({ s with holds := s.holds.erase ⟨e.job, gen, e.ring⟩ } : State).reclaim e.job).answered e.ring x []
    else s.refuse e.ring x 7)

/-- STATE_READ: it waits for the job's next step boundary (R63, R301). -/
def execStateRead (e : EntryHdr) (t first rows buf : Nat) (s : State) : Res :=
  s.hostRow e 0x17 true (fun s x =>
    let c : HostCmd := .stateRead e.job t first rows buf
    if s.hostCheck c ≠ 0 then s.refuse e.ring x (s.hostCheck c) else s.underWay e.ring x c)

/-- CONFIG_WRITE. -/
def execConfigWrite (e : EntryHdr) (off : Nat) (v : Word) (s : State) : Res :=
  s.hostRow e 0x20 false (fun s x => s.hostOrdered e.ring e.job x (.configWrite off v))

/-- LEDGER_WRITE: it waits for V_HU (R486, R516). -/
def execLedgerWrite (e : EntryHdr) (entry : Nat) (val sig : List Byte) (s : State) : Res :=
  s.hostRow e 0x21 false (fun s x =>
    if s.ledPower then s.hostOrdered e.ring e.job x (.ledgerWrite entry val sig) else s)

/-- LEDGER_READ: up to 32 B in the result, more in the buffer; DEVICE_SEED is never read (R498). -/
def execLedgerRead (e : EntryHdr) (entry buf : Nat) (s : State) : Res :=
  s.hostRow e 0x22 false (fun s x =>
    if entry = 0 ∨ entry = 2 ∨ entry > 10 then s.refuse e.ring x 2
    else
      let v := (s.led entry).value
      if v.length ≤ 32 then s.answered e.ring x v
      else if buf = 0 ∨ bufOk buf v.length = false then s.refuse e.ring x 2
      else (s.homeForce buf v).answered e.ring x [])

/-- LOG_READ: the records and the signature go to the buffer, the number of records is the result (R517). -/
def execLogRead (e : EntryHdr) (nonce : List Byte) (buf : Nat) (s : State) : Res :=
  s.hostRow e 0x23 false (fun s x =>
    if buf = 0 ∨ bufOk buf (64 * s.logCount + 2420) = false then s.refuse e.ring x 2 else (s.homeForce buf (s.logRead nonce)).answered e.ring x (leBytes 4 s.logCount))

/-- ATTEST: the signed report goes to the buffer, its length is the result (R498, R527). -/
def execAttest (e : EntryHdr) (nonce : List Byte) (buf : Nat) (s : State) : Res :=
  s.hostRow e 0x24 false (fun s x =>
    if buf = 0 ∨ bufOk buf 2804 = false then s.refuse e.ring x 2
    else (((s.homeForce buf (s.attest nonce)).bump regFeAttest)).answered e.ring x (leBytes 4 2804))

/-- QP_CONNECT: the context is installed (R435, R440). -/
def execQpConnect (e : EntryHdr) (q : Nat) (ctx : List Byte) (s : State) : Res :=
  s.hostRow e 0x30 false (fun s x => s.hostOrdered e.ring e.job x (.qpConnect q ctx))

/-- QP_RESET (R439). -/
def execQpReset (e : EntryHdr) (q : Nat) (s : State) : Res :=
  s.hostRow e 0x31 false (fun s x => s.hostOrdered e.ring e.job x (.qpReset q))

/-- INGEST_CFG. -/
def execIngestCfg (e : EntryHdr) (r : Nat) (v mk : Word) (s : State) : Res :=
  s.hostRow e 0x32 false (fun s x => s.hostOrdered e.ring e.job x (.ingestCfg r v mk))

/-- FW_STAGE (R513, R526). -/
def execFwStage (e : EntryHdr) (slot : Nat) (img : FwImage) (s : State) : Res :=
  s.hostRow e 0x40 false (fun s x => s.hostOrdered e.ring e.job x (.fwStage slot img))

/-- FW_ACTIVATE (R513). -/
def execFwActivate (e : EntryHdr) (slot : Nat) (s : State) : Res :=
  s.hostRow e 0x41 false (fun s x => s.hostOrdered e.ring e.job x (.fwActivate slot))

/-- DEBUG attach. -/
def execDebugAttach (e : EntryHdr) (s : State) : Res :=
  s.hostRow e 0x42 true (fun s x => s.hostOrdered e.ring e.job x (.debugAttach e.job))

/-- DEBUG detach. -/
def execDebugDetach (e : EntryHdr) (s : State) : Res :=
  s.hostRow e 0x42 true (fun s x => s.hostOrdered e.ring e.job x (.debugDetach e.job))

/-- DEBUG hand set (R334). -/
def execDebugHandSet (e : EntryHdr) (handle : Nat) (v : BitVec 32) (s : State) : Res :=
  s.hostRow e 0x42 true (fun s x => s.hostOrdered e.ring e.job x (.debugHandSet e.job handle v))

/-- FOLIO_REQ sets CB_ORDER.FOLIO (R416). -/
def execFolioReq (e : EntryHdr) (s : State) : Res :=
  s.hostRow e 0x43 false (fun s x => (s.orderWrite 4).answered e.ring x [])

/-- ROLE_ORDER DEPART (R427). -/
def execRoleOrderDepart (e : EntryHdr) (s : State) : Res :=
  s.hostRow e 0x44 false (fun s x => s.hostOrdered e.ring e.job x .roleOrderDepart)

/-- ROLE_ORDER TAKEOVER (R427). -/
def execRoleOrderTakeover (e : EntryHdr) (s : State) : Res :=
  s.hostRow e 0x44 false (fun s x => s.hostOrdered e.ring e.job x .roleOrderTakeover)

end Sys2Proof.Machine
end

