-- ==== Sys2Proof/Machine/LoadStore.lean ====
section
/-! DEFINITION. Loads, stores, descriptor slots and cache lines, group 0x05 (R10, R87 to R90, R98 to R100, R341 to R351, R543 to
R547). -/

namespace Sys2Proof.Machine

/-! ### Where an access goes -/

/-- May an access reach a memory unit: its cluster-region is joined and not fenced, and the Sheet of a folded logical cluster waits
until that cluster is active (R26, R33, R544). -/
def State.reached (s : State) (pa : Nat) : Bool :=
  match placeOf pa with
  | .inkwell k _ => s.joined (s.phys k) && !s.fenced (s.phys k)
  | .sheet k _ => s.joined (s.phys k) && !s.fenced (s.phys k) && s.active k
  | _ => true

/-- Offsets of the doorbell pages of queue pairs, the one part of register space that jobs reach (R438, R547). -/
def qpPage (off : Nat) : Bool := decide (0x4400000 ≤ off ∧ off < 0x4800000)

/-- An access of a core to register space: an aligned 8 B or 4 B access; any other size is an access error, and C.ZERO writes 64 zero
bytes in place (R10, R11, R342, R545, R547). -/
def State.regAccess (s : State) (h : Hart) (va : Word) (off : Nat) (op : CoreOp) : State :=
  if !isCopyist h.core && !qpPage off then s.raise h .access va
  else match op with
    | .load dst n signed =>
      (match s.regReadN off n with
      | some v => s.modCtx h (fun c => (c.setA dst (loadVal n signed v.toNat)).next)
      | none => s.raise h .access va)
    | .store n v => if n = 8 ∨ n = 4 then (s.modCtx h Ctx.next).regWrite off n v else s.raise h .access va
    | .lineZero => (upto 8).foldl (fun (t : State) i => t.regWrite (lineOf off + 8 * i) 8 0) (s.modCtx h Ctx.next)
    | _ => s.raise h .access va

/-- Has the access been made or begun: the context has gone on, or waits? -/
def State.began (s : State) (h : Hart) (pc : Word) : Bool := decide ((s.ctx h).pc ≠ pc) || decide ((s.ctx h).run ≠ .ready)

/-- An access to memory trains the stream of its instruction once it is made or begun (R348). -/
def State.memAccess (s : State) (h : Hart) (va : Word) (pa : Nat) (host : Bool) (op : CoreOp) : State :=
  let pc := (s.ctx h).pc
  let t := if host then s.hostAccess h va pa op
    else if op = .lineZero then s.zeroLine h pa
    else s.deviceAccess h pa op
  if op = .lineZero ∨ (!host ∧ !cacheable pa) ∨ t.began h pc = false then t
  else t.stride h pc va.toNat

/-- An access of a core that translation has let through (R342, R358, R543). -/
def State.coreGo (h : Hart) (va : Word) (op : CoreOp) (pa : Nat) (host : Bool) (s : State) : State :=
  if host then s.memAccess h va pa true op
  else match placeOf pa with
    | .hole => s.raise h .access va
    | .regs off => s.regAccess h va off op
    | _ => if s.reached pa then s.memAccess h va pa false op else s

/-! ### Instructions -/

/-- The address A[src] + simm (R87). -/
def kAddr (c : Ctx) (f : FormK) : Word := c.getA f.src.toNat + sext 32 f.imm.toNat

/-- A load into A[dst] (R87, R88). -/
def State.loadEff (h : Hart) (f : FormK) (n : Nat) (signed : Bool) (s : State) : State :=
  let va := kAddr (s.ctx h) f
  s.aligned h va n (fun s => s.coreAccess h va .load (State.coreGo h va (.load f.dst.toNat n signed)))

/-- A store of A[dst] (R87, R88). -/
def State.storeEff (h : Hart) (f : FormK) (n : Nat) (s : State) : State :=
  let va := kAddr (s.ctx h) f
  let v := (s.ctx h).getA f.dst.toNat
  s.aligned h va n (fun s => s.coreAccess h va .store (State.coreGo h va (.store n v)))

/-- A load or a store of group 0x05: A[dst] and A[src], ctl 0. -/
def State.memInstr (s : State) (op : Nat) (h : Hart) (f : FormK) (body : State → State) : Res :=
  .next (s.issue h (wordK 0x05 op f) (isA f.dst && isA f.src && isZ f.ctl) f.mask.toNat [f.dst.toNat, f.src.toNat] [] body)

/-- A descriptor slot's load or store: SD[dst] and A[src]. -/
def State.slotInstr (s : State) (op : Nat) (h : Hart) (f : FormK) (body : State → State) : Res :=
  .next (s.issue h (wordK 0x05 op f) (isM f.dst && isA f.src && isZ f.ctl) f.mask.toNat [f.src.toNat] [] body)

/-- A line instruction: A[src], the dst field 0. -/
def State.lineInstr (s : State) (op : Nat) (h : Hart) (f : FormK) (k : AccKind) (g : Word → Nat → Bool → State → State) : Res :=
  .next (s.issue h (wordK 0x05 op f) (isZ f.dst && isA f.src && isZ f.ctl) f.mask.toNat [f.src.toNat] [] (fun s =>
    let va := kAddr (s.ctx h) f
    s.aligned h va 64 (fun s => s.coreAccess h va k (g va))))

/-- LD.B (R87). -/
def execLdB (h : Hart) (f : FormK) (s : State) : Res := s.memInstr 0x00 h f (State.loadEff h f 1 true)
/-- LD.H (R87). -/
def execLdH (h : Hart) (f : FormK) (s : State) : Res := s.memInstr 0x01 h f (State.loadEff h f 2 true)
/-- LD.W (R87). -/
def execLdW (h : Hart) (f : FormK) (s : State) : Res := s.memInstr 0x02 h f (State.loadEff h f 4 true)
/-- LD.D (R87). -/
def execLdD (h : Hart) (f : FormK) (s : State) : Res := s.memInstr 0x03 h f (State.loadEff h f 8 false)
/-- LD.BU (R87). -/
def execLdBu (h : Hart) (f : FormK) (s : State) : Res := s.memInstr 0x04 h f (State.loadEff h f 1 false)
/-- LD.HU (R87). -/
def execLdHu (h : Hart) (f : FormK) (s : State) : Res := s.memInstr 0x05 h f (State.loadEff h f 2 false)
/-- LD.WU (R87). -/
def execLdWu (h : Hart) (f : FormK) (s : State) : Res := s.memInstr 0x06 h f (State.loadEff h f 4 false)
/-- ST.B (R87). -/
def execStB (h : Hart) (f : FormK) (s : State) : Res := s.memInstr 0x08 h f (State.storeEff h f 1)
/-- ST.H (R87). -/
def execStH (h : Hart) (f : FormK) (s : State) : Res := s.memInstr 0x09 h f (State.storeEff h f 2)
/-- ST.W (R87). -/
def execStW (h : Hart) (f : FormK) (s : State) : Res := s.memInstr 0x0A h f (State.storeEff h f 4)
/-- ST.D (R87). -/
def execStD (h : Hart) (f : FormK) (s : State) : Res := s.memInstr 0x0B h f (State.storeEff h f 8)

/-- DS.LD: 64 B into a descriptor slot (R87). -/
def execDsLd (h : Hart) (f : FormK) (s : State) : Res :=
  s.slotInstr 0x10 h f (fun s =>
    let va := kAddr (s.ctx h) f
    s.aligned h va 64 (fun s => s.coreAccess h va .load (State.coreGo h va (.slotLoad f.dst.toNat))))
/-- DS.ST: a descriptor slot as 64 B, zeros for an empty one (R89). -/
def execDsSt (h : Hart) (f : FormK) (s : State) : Res :=
  s.slotInstr 0x11 h f (fun s =>
    let va := kAddr (s.ctx h) f
    s.aligned h va 64 (fun s => s.coreAccess h va .store (State.coreGo h va (.slotStore ((s.ctx h).getSd f.dst.toNat)))))
/-- DS.CLR: the slot is empty (R89). -/
def execDsClr (h : Hart) (f : FormK) (s : State) : Res :=
  .next (s.issue h (wordK 0x05 0x12 f) (isM f.dst && isZ f.src && isZ f.imm && isZ f.ctl) f.mask.toNat [] []
    (fun s => s.modCtx h (fun c => (c.setSd f.dst.toNat []).next)))

/-- C.ZERO (R350). -/
def execCZero (h : Hart) (f : FormK) (s : State) : Res :=
  s.lineInstr 0x18 h f .store (fun va => State.coreGo h va .lineZero)
/-- C.CLEAN (R351). -/
def execCClean (h : Hart) (f : FormK) (s : State) : Res :=
  s.lineInstr 0x19 h f .either (fun _ pa host s => s.cleanOrFlush h pa host false)
/-- C.FLUSH (R351). -/
def execCFlush (h : Hart) (f : FormK) (s : State) : Res :=
  s.lineInstr 0x1A h f .either (fun _ pa host s => s.cleanOrFlush h pa host true)
/-- I.SYNC: the line leaves this core's instruction cache (R90, R351). -/
def execISync (h : Hart) (f : FormK) (s : State) : Res :=
  s.lineInstr 0x1B h f .fetch (fun _ pa host s =>
    let line := lineOf (if host then hostPa pa else pa)
    (s.idrop h.core line).modCtx h Ctx.next)

end Sys2Proof.Machine
end

