-- ==== Sys2Proof/Machine/ManagerOps.lean ====
section
/-! DEFINITION. The management port: packets, answers, register access, Ledger access, bus addresses, sensors, updates and SPDM (R518 to
R528). Numbers of standard messages and completion codes are those of the DMTF and MIPI standards (PRESUMED, log 57). -/

namespace Sys2Proof.Machine

/-- Does the port answer: the island has started (R518). -/
def State.mgrUp (s : State) : Bool := !(s.power.full && !s.pwHeld)
def State.setMgr (s : State) (m : Mgr) : State := { s with mgr := m }

/-- The answer to the request that a command stands for: its message type and command, a completion code, values and bytes. The request
is no longer held (R520). -/
def State.answer (s : State) (ty cmd : Nat) (args : List Nat) (data : List Byte) : State :=
  (s.send .mctp (256 * ty + cmd) args data).setMgr { s.mgr with held := s.mgr.held - 1 }

/-- A PLDM type under MCTP type 0x01. -/
def pldm (ty : Nat) : Nat := 256 + ty

/-- A row of the port acts while the port answers. -/
def State.port (s : State) (f : State → State) : Res := .next (if s.mgrUp then f s else s)

/-! ### Packets (R520) -/

/-- A packet is dropped, or a message discarded. -/
def State.mctpErr (s : State) : State := (s.bump regFeMctpErr).setMgr { s.mgr with protErr := true }

def State.asmOf (s : State) (tag : Nat) : Option MctpAsm := s.mgr.asm.find? (fun a => a.tag == tag)
def State.dropAsm (s : State) (tag : Nat) : State := s.setMgr { s.mgr with asm := s.mgr.asm.filter (fun a => a.tag != tag) }

/-- A message is whole: one of a supported type is held, the fifth is answered with an error, another type is discarded. -/
def State.mctpWhole (s : State) (a : MctpAsm) : State :=
  let t := s.dropAsm a.tag
  if [0x00, 0x01, 0x05, 0x7F].contains a.ty then
    let u := t.bump regFeMctpRx
    if u.mgr.held ≥ 4 then u.send .mctp (256 * a.ty) [1] []
    else u.setMgr { u.mgr with held := u.mgr.held + 1 }
  else t.mctpErr

/-- A packet (R520): 64 B of payload at most, a good PEC and the next number; the first packet of a message discards an unfinished one of
its tag (PRESUMED, log 57). -/
def State.mctpPacket (s : State) (p : MctpPacket) : State :=
  if !p.pecOk || decide (p.bytes.length > 64) then s.mctpErr
  else if p.som then
    let t := if (s.asmOf p.tag).isSome then (s.mctpErr).dropAsm p.tag else s
    let a : MctpAsm := ⟨p.tag, (p.seq.toNat + 1) % 4, p.ty, p.bytes⟩
    if p.eom then t.mctpWhole a else t.setMgr { t.mgr with asm := t.mgr.asm ++ [a] }
  else match s.asmOf p.tag with
    | none => s.mctpErr
    | some a =>
      if a.next ≠ p.seq.toNat then s.mctpErr
      else
        let b : MctpAsm := { a with next := (a.next + 1) % 4, bytes := a.bytes ++ p.bytes }
        if p.eom then s.mctpWhole b
        else (s.dropAsm p.tag).setMgr { s.mgr with asm := (s.dropAsm p.tag).mgr.asm ++ [b] }

/-! ### Registers (R521, R522) -/

/-- Is the block a copyist's, with the copyist held in reset? -/
def State.heldCopyist (s : State) (off : Nat) : Bool :=
  decide (0x2000000 ≤ off ∧ off < 0x2004000) && (s.rbit regFwStatus 5 || s.pwHeld)

/-- Does the block of an offset answer the port? -/
def State.portReaches (s : State) (off : Nat) : Bool :=
  match s.regPlace (off / 8 * 8) with
  | some p => s.answers p && !s.heldCopyist off
  | none => true

/-- A read of BL_LOG marks the record as read (R471). -/
def State.logSeen (s : State) (off : Nat) : State :=
  if 0x3071000 ≤ off ∧ off < 0x3075000 then
    let n := (s.reg regBlLogptr).toNat
    let i := (off - 0x3071000) / 64
    if n = 0 then s
    else
      let q := n - 1 - (n - 1 + 256 - i) % 256
      { s with blot := { s.blot with readTo := max s.blot.readTo (min n (q + 1)) } }
  else s

/-- REG_READ: 0 OK, 1 REFUSED for an offset that is not aligned, 2 UNAVAILABLE. -/
def State.portRead (s : State) (off : Nat) : State :=
  if off % 8 ≠ 0 then s.answer 0x7F 1 [1, 0] []
  else if s.portReaches off then (s.logSeen off).answer 0x7F 1 [0, (s.regRead off).toNat] []
  else s.answer 0x7F 1 [2, 0] []

/-- The registers that the port may write (R522). -/
def portWritable : List Nat := [0x3070010, 0x3070008, 0x3060040, 0xF020008, 0xF020018]

/-- REG_WRITE: the register's own rules apply, and the answer carries what it then reads. -/
def State.portWrite (s : State) (off : Nat) (v : Word) : State :=
  if !portWritable.contains off then s.answer 0x7F 2 [1, 0] []
  else if !s.portReaches off then s.answer 0x7F 2 [2, 0] []
  else
    let t := s.bump regFeWrites
    let u := if off = 0xF020008 then (if bitOf v 0 then t.feOrderWarm else t) else t.regWrite off 8 v
    u.answer 0x7F 2 [0, (u.regRead off).toNat] []

/-! ### Ledger and logs (R514 to R517, R521) -/

/-- LEDGER_READ of the port: DEVICE_SEED is never readable. -/
def State.portLedRead (s : State) (e : Nat) : State :=
  if e = 0 ∨ e = 2 ∨ e > 10 then s.answer 0x7F 3 [1] [] else s.answer 0x7F 3 [0] (s.led e).value

def ledCode : LedRes → Nat
  | .ok => 0
  | .path => 1
  | .value => 1
  | .limit => 3
  | .auth => 4

/-- One address of MGMT_ADDR in use: the entry's byte when it is not 0, else what the bus has assigned (R519, R520). -/
def addrNow (old new cur : Nat) : Nat := if new ≠ 0 then new else if old ≠ 0 then 0 else cur

/-- A byte of MGMT_ADDR. -/
def State.mgmtAddr (s : State) (i : Nat) : Nat := ((s.led 8).value.getD i 0#8).toNat

/-- A write of MGMT_ADDR moves the addresses in use. -/
def State.mgmtMoved (t s : State) : State :=
  (t.setRfld regFeStatus 8 2 (addrNow (s.mgmtAddr 0 % 128) (t.mgmtAddr 0 % 128) (s.rfld regFeStatus 8 2))).setRfld regFeStatus 23 16
    (addrNow (s.mgmtAddr 1) (t.mgmtAddr 1) (s.rfld regFeStatus 23 16))

/-- LEDGER_WRITE of the port; a write waits for V_HU (R486). -/
def State.portLedWrite (s : State) (e : Nat) (v sig : List Byte) : State :=
  if !s.ledPower then s
  else
    let (r, t) := s.ledWrite e 2 v sig
    let u := if r = .ok ∧ e = 8 then t.mgmtMoved s else t
    u.answer 0x7F 4 [ledCode r, (u.led e).count] []

/-- BLOG_READ: records from a SEQ, at most four, that the log still holds. -/
def State.blogRead (s : State) (first count : Nat) : State :=
  if !s.joined 167 then s.answer 0x7F 6 [2] []
  else
    let n := (s.reg regBlLogptr).toNat
    let seqs := ((upto (min count 4)).map (fun i => first + i)).filter (fun q => decide (q < n ∧ n ≤ q + 256))
    let bytes := seqs.flatMap (fun q => (upto 8).flatMap (fun w => leBytes 8 (s.reg (regBlLog (q % 256) w)).toNat))
    ({ s with blot := { s.blot with readTo := seqs.foldl (fun m q => max m (q + 1)) s.blot.readTo } } : State).answer 0x7F 6
      [0, seqs.length] bytes

/-! ### Bus addresses (R519) -/

/-- The provisional ID: the low 48 bits of the serial number (R519). -/
def State.provId (s : State) : Nat := leNat (sliceB s.identity 16 6)

/-! ### Sensors (R524) -/

/-- The state of sensor 102: 1 FAILED, 2 DEPARTED, 0 neither. -/
def State.failState (s : State) : Nat := if s.blFailed then 1 else if s.role = 7 then 2 else 0
/-- The state of sensor 103: 1 READY, 2 RESTARTING, 3 NOIMAGE. -/
def State.fwState (s : State) : Nat :=
  if s.rbit regFwStatus 5 then 2 else if s.rbit regFwStatus 0 then 1 else if s.rbit regFwStatus 3 then 3 else 0

/-- A numeric sensor: 10 mV, 10 mA, 0.1 W or 0.0625 °C. -/
def State.numSensor (s : State) (id : Nat) : Option Nat :=
  match id with
  | 1 => some (s.rfld regPwInput 47 32)
  | 2 => some (s.rfld regPwInput 31 16)
  | 3 => some (s.rfld regPwInput 15 0)
  | 4 => some (s.rfld regPwInput 63 48)
  | n => if 16 ≤ n ∧ n < 80 then some (s.rfld (regPwTemp ((n - 16) / 4)) (16 * (n % 4) + 15) (16 * (n % 4))) else none

/-- A state sensor. -/
def State.stateSensor (s : State) (id : Nat) : Option Nat :=
  match id with
  | 100 => some s.shedNow
  | 101 => some s.role
  | 102 => some s.failState
  | 103 => some s.fwState
  | _ => none

/-- The sensors in the order of their records: 4, 64 and 4. -/
def sensorIds : List Nat := [1, 2, 3, 4] ++ (upto 64).map (fun i => 16 + i) ++ [100, 101, 102, 103]

/-- The answer of a sensor, or code 0x80 for an ID that names none. -/
def sensorAnswer : Option Nat → List Nat
  | some v => [0, v]
  | none => [0x80]

/-! ### Updates (R525, R526) -/

/-- A host FW_STAGE is in progress: consumed and not completed. -/
def State.hostStage (s : State) : Bool :=
  s.rings.any (fun x => x.2.opened.any (fun e => e.byte 0 == 0x40 && e.compl.isNone))

/-- The slot an update writes: the one that is not running, or without firmware the one that BOOT_PREF does not name (R525). -/
def State.idleSlot (s : State) : Nat :=
  if s.rbit regFwStatus 0 || s.rbit regFwStatus 5 then 1 - b2n (s.rbit regFwStatus 1) else 1 - s.firstSlot

def State.showUpdate (s : State) : State := s.setRbit regFeStatus 1 s.mgr.upd.isSome

/-- An update ends or is cancelled; the slot is left as it is. -/
def State.endUpdate (s : State) : State := (s.setMgr { s.mgr with upd := none }).showUpdate

/-- RequestUpdate: 0x80 ALREADY_IN_UPDATE_MODE where an update or a host FW_STAGE is in progress; else transfers of at most 1,024 B, and
the first request for image data leaves. -/
def State.requestUpdate (s : State) (maxXfer : Nat) : State :=
  if s.mgr.upd.isSome || s.hostStage then s.answer (pldm 5) 0x10 [0x80] []
  else if !s.joined 175 then s.answer (pldm 5) 0x10 [1] []
  else
    let t := ((s.setMgr { s.mgr with upd := some ⟨s.idleSlot, 0, none⟩ }).showUpdate).answer (pldm 5) 0x10 [0, min 1024 maxXfer] []
    t.send .mctp (256 * pldm 5 + 0x15) [0, 1024] []

/-- Image data: a slot that is half written holds no image; the last data completes it, and the checks of R494 are reported when the
firmware runs. -/
def State.updateData (s : State) (off : Nat) (last : Option FwImage) : State :=
  match s.mgr.upd with
  | none => s
  | some u =>
    if u.off ≠ off || u.img.isSome || !s.joined 175 then s
    else
      let t := (s.setSlot u.slot last).setMgr { s.mgr with upd := some { u with off := off + 1024, img := last } }
      match last with
      | none => t.send .mctp (256 * pldm 5 + 0x15) [off + 1024, 1024] []
      | some _ => t.send .mctp (256 * pldm 5 + 0x17) [if s.fwUp then s.imageFail last else 0] []

/-- ActivateFirmware: BOOT_PREF by the manager's path, then with the firmware running its restart as FW_ACTIVATE does; 0x81 where no
whole image stands or the checks have failed. -/
def State.activateUpdate (s : State) : State :=
  match s.mgr.upd with
  | none => s.answer (pldm 5) 0x1A [0x81] []
  | some u =>
    if u.img.isNone || (s.fwUp && decide (s.imageFail u.img ≠ 0)) then s.answer (pldm 5) 0x1A [0x81] []
    else if !s.ledPower then s
    else
      let (r, t) := s.ledWrite 7 2 [BitVec.ofNat 8 u.slot] []
      if r ≠ .ok then t.answer (pldm 5) 0x1A [1, ledCode r] []
      else
        let v := ((t.bump regFeUpdates).endUpdate).answer (pldm 5) 0x1A [0] []
        if v.fwUp then ({ v with fw := { v.fw with trying := some u.slot, prefDone := true } } : State).fwHalt 5 else v

/-! ### SPDM (R527) -/

/-- The chain of copy 1, or of copy 2 where copy 1 does not verify. -/
def chainOf (copy1Ok : Bool) : List Byte := Config.certChain (if copy1Ok then 1 else 2)

/-- The algorithms offered: ML-DSA-44 and SHA3-256, as Sundeb extended algorithms. -/
def algorithms : List Nat := [44, 256]

end Sys2Proof.Machine
end

