-- ==== Sys2Proof/Machine/Manager.lean ====
section
/-! DEFINITION. The rows of the management port (R519 to R528). -/

namespace Sys2Proof.Machine

/-- A packet arrives (R520). -/
def execMctpPacket (p : MctpPacket) (s : State) : Res := s.port (fun s => s.mctpPacket p)

/-- A message stays incomplete for 100 ms and is discarded (R520). -/
def execMctpReassemblyTimeout (tag : Nat) (s : State) : Res :=
  s.port (fun s => if (s.asmOf tag).isSome then (s.mctpErr).dropAsm tag else s)

/-- REG_READ (R521, R522). -/
def execRegRead (off : Nat) (s : State) : Res := s.port (fun s => s.portRead off)

/-- REG_WRITE (R521, R522). -/
def execRegWrite (off : Nat) (v : Word) (s : State) : Res := s.port (fun s => s.portWrite off v)

/-- LEDGER_READ (R521). -/
def execMgmtLedgerRead (entry : Nat) (s : State) : Res := s.port (fun s => s.portLedRead entry)

/-- LEDGER_WRITE (R516, R521). -/
def execMgmtLedgerWrite (entry : Nat) (val sig : List Byte) (s : State) : Res := s.port (fun s => s.portLedWrite entry val sig)

/-- LOG_READ: the records and the signature (R517). -/
def execMgmtLogRead (nonce : List Byte) (s : State) : Res := s.port (fun s => s.answer 0x7F 5 [0, s.logCount] (s.logRead nonce))

/-- BLOG_READ (R471, R521). -/
def execBlogRead (first count : Nat) (s : State) : Res := s.port (fun s => s.blogRead first count)

/-! ### I3C (R519) -/

/-- ENTDAA: a port without a static address and without one assigned takes the address. -/
def execEntdaa (addr : Nat) (s : State) : Res :=
  s.port (fun s => if s.mgmtAddr 0 % 128 ≠ 0 ∨ s.rfld regFeStatus 8 2 ≠ 0 then s
    else (s.setRfld regFeStatus 8 2 (addr % 128)).send .i3c 0x07 [s.provId, Config.i3cBcr, Config.i3cDcr] [])

/-- SETDASA: the port with that static address takes the dynamic one. -/
def execSetdasa (st addr : Nat) (s : State) : Res :=
  s.port (fun s => if st ≠ 0 ∧ s.mgmtAddr 0 % 128 = st then s.setRfld regFeStatus 8 2 (addr % 128) else s)

/-- RSTDAA: the dynamic address goes; a static one answers again. -/
def execRstdaa (s : State) : Res := s.port (fun s => s.setRfld regFeStatus 8 2 (s.mgmtAddr 0 % 128))

/-- ENEC: in-band interrupts are enabled (R528). -/
def execEnec (s : State) : Res := s.port (fun s => s.setMgr { s.mgr with ibi := true })

/-- DISEC. -/
def execDisec (s : State) : Res := s.port (fun s => s.setMgr { s.mgr with ibi := false })

/-- GETPID. -/
def execGetpid (s : State) : Res := s.port (fun s => s.send .i3c 0x8D [s.provId] [])

/-- GETBCR. -/
def execGetbcr (s : State) : Res := s.port (fun s => s.send .i3c 0x8E [Config.i3cBcr] [])

/-- GETDCR. -/
def execGetdcr (s : State) : Res := s.port (fun s => s.send .i3c 0x8F [Config.i3cDcr] [])

/-- GETMWL: 69 B. -/
def execGetmwl (s : State) : Res := s.port (fun s => s.send .i3c 0x8B [69] [])

/-- GETMRL: 69 B. -/
def execGetmrl (s : State) : Res := s.port (fun s => s.send .i3c 0x8C [69] [])

/-- GETSTATUS: bit 5 tells of a packet dropped since the last one, and clears (PRESUMED, log 57). -/
def execGetstatus (s : State) : Res :=
  s.port (fun s => (s.send .i3c 0x90 [b2n s.mgr.protErr * 32] []).setMgr { s.mgr with protErr := false })

/-! ### MCTP control (R520) -/

/-- Set Endpoint ID: refused where MGMT_ADDR gives one; 0 and 255 are no endpoint IDs. -/
def execSetEndpointId (eid : Nat) (s : State) : Res :=
  s.port (fun s => if s.mgmtAddr 1 ≠ 0 then s.answer 0 1 [0, 0x10, s.rfld regFeStatus 23 16] []
    else if eid = 0 ∨ 255 ≤ eid then s.answer 0 1 [2] []
    else (s.setRfld regFeStatus 23 16 eid).answer 0 1 [0, 0, eid] [])

/-- Get Endpoint ID. -/
def execGetEndpointId (s : State) : Res := s.port (fun s => s.answer 0 2 [0, s.rfld regFeStatus 23 16] [])

/-- Get Endpoint UUID. -/
def execGetEndpointUuid (s : State) : Res := s.port (fun s => s.answer 0 3 [0] Config.endpointUuid)

/-- Get MCTP Version Support: 1.3. -/
def execGetMctpVersionSupport (s : State) : Res := s.port (fun s => s.answer 0 4 [0, 1, 3] [])

/-- Get Message Type Support: control, PLDM, SPDM and vendor-defined. -/
def execGetMessageTypeSupport (s : State) : Res := s.port (fun s => s.answer 0 5 [0, 0x00, 0x01, 0x05, 0x7F] [])

/-- Get Vendor Defined Message Support: enterprise number 0x5D3B. -/
def execGetVendorMessageSupport (s : State) : Res := s.port (fun s => s.answer 0 6 [0, 0x5D3B] [])

/-! ### PLDM (R524 to R526) -/

/-- GetTID. -/
def execGettid (s : State) : Res := s.port (fun s => s.answer (pldm 0) 0x02 [0, s.mgr.tid] [])

/-- SetTID: 0 and 255 are no terminus IDs. -/
def execSettid (tid : Nat) (s : State) : Res :=
  s.port (fun s => if tid = 0 ∨ 255 ≤ tid then s.answer (pldm 0) 0x01 [2] []
    else (s.setMgr { s.mgr with tid := tid }).answer (pldm 0) 0x01 [0] [])

/-- GetPLDMVersion: types 0, 2 and 5. -/
def execGetpldmversion (ty : Nat) (s : State) : Res :=
  s.port (fun s => if [0, 2, 5].contains ty then s.answer (pldm 0) 0x03 [0] (Config.pldmVersion ty) else s.answer (pldm 0) 0x03 [0x83] [])

/-- GetPLDMTypes: 0, 2 and 5. -/
def execGetpldmtypes (s : State) : Res := s.port (fun s => s.answer (pldm 0) 0x04 [0, 0, 2, 5] [])

/-- GetPLDMCommands. -/
def execGetpldmcommands (ty : Nat) (s : State) : Res :=
  s.port (fun s => match ty with
    | 0 => s.answer (pldm 0) 0x05 [0, 0x01, 0x02, 0x03, 0x04, 0x05] []
    | 2 => s.answer (pldm 0) 0x05 [0, 0x11, 0x21, 0x50, 0x51] []
    | 5 => s.answer (pldm 0) 0x05 [0, 0x10, 0x15, 0x17, 0x1A, 0x1D] []
    | _ => s.answer (pldm 0) 0x05 [0x83] [])

/-- GetPDRRepositoryInfo: one record for each sensor. -/
def execGetpdrrepositoryinfo (s : State) : Res := s.port (fun s => s.answer (pldm 2) 0x50 [0, sensorIds.length] [])

/-- GetPDR: record n is of the n-th sensor; the next record follows, 0 after the last. -/
def execGetpdr (n : Nat) (s : State) : Res :=
  s.port (fun s => if n = 0 then s.answer (pldm 2) 0x51 [0x82] []
    else match sensorIds[n - 1]? with
      | some id => s.answer (pldm 2) 0x51 [0, if n < sensorIds.length then n + 1 else 0, id, b2n (decide (100 ≤ id))] []
      | none => s.answer (pldm 2) 0x51 [0x82] [])

/-- GetSensorReading. -/
def execGetsensorreading (id : Nat) (s : State) : Res := s.port (fun s => s.answer (pldm 2) 0x11 (sensorAnswer (s.numSensor id)) [])

/-- GetStateSensorReadings. -/
def execGetstatesensorreadings (id : Nat) (s : State) : Res := s.port (fun s => s.answer (pldm 2) 0x21 (sensorAnswer (s.stateSensor id)) [])

/-- RequestUpdate (R525, R526). -/
def execRequestupdate (maxXfer : Nat) (s : State) : Res := s.port (fun s => s.requestUpdate maxXfer)

/-- The data of one RequestFirmwareData (R525). -/
def execRequestfirmwaredata (off : Nat) (last : Option FwImage) (s : State) : Res := s.port (fun s => s.updateData off last)

/-- ActivateFirmware (R525). -/
def execActivatefirmware (s : State) : Res := s.port (fun s => s.activateUpdate)

/-- CancelUpdate (R526). -/
def execCancelupdate (s : State) : Res := s.port (fun s => (s.endUpdate).answer (pldm 5) 0x1D [if s.mgr.upd.isSome then 0 else 0x81] [])

/-- No data within 5 s: the update is cancelled (R526). -/
def execUpdateDataTimeout (s : State) : Res := s.port (fun s => s.endUpdate)

/-! ### SPDM (R527) -/

/-- GET_VERSION: 1.3. -/
def execGetVersion (s : State) : Res := s.port (fun s => s.answer 5 0x84 [0, 1, 3] [])

/-- GET_CAPABILITIES: certificates and signed measurements. -/
def execGetCapabilities (s : State) : Res := s.port (fun s => s.answer 5 0xE1 [0, 1, 1] [])

/-- NEGOTIATE_ALGORITHMS: the only algorithms offered. -/
def execNegotiateAlgorithms (s : State) : Res := s.port (fun s => s.answer 5 0xE3 (0 :: algorithms) [])

/-- GET_DIGESTS: the digest of the chain, UNAVAILABLE while the flash interface is off. Whether copy 1 verifies is not part of the row,
and is free. -/
def execGetDigests (s : State) : Res :=
  s.port (fun s => if s.joined 175 then
      let (w, t) := s.draw
      t.answer 5 0x81 [0] (sha3 (chainOf (bitOf w 0)))
    else s.answer 5 0x81 [2] [])

/-- GET_CERTIFICATE: the chain of copy 1, or of copy 2. -/
def execGetCertificate (copy1Ok : Bool) (s : State) : Res :=
  s.port (fun s => if s.joined 175 then s.answer 5 0x82 [0] (chainOf copy1Ok) else s.answer 5 0x82 [2] [])

/-- GET_MEASUREMENTS with a nonce: the signed report. -/
def execGetMeasurements (nonce : List Byte) (s : State) : Res :=
  s.port (fun s => (s.bump regFeAttest).answer 5 0xE0 [0] (s.attest nonce))

/-! ### Orders and alerts (R523, R528) -/

/-- FE_ORDER.WARM. -/
def execFeOrderWarm (s : State) : Res := s.port (fun s => s.feOrderWarm)

/-- A write of FE_ALERT clears the bits written 1. -/
def execFeAlertClear (v : Word) (s : State) : Res := .next (s.alertMove (fun s => s.swReg regFeAlert v))

/-- A write of FE_ALERTEN. -/
def execFeAlertenWrite (v : Word) (s : State) : Res := .next (s.alertMove (fun s => s.swReg regFeAlerten v))

end Sys2Proof.Machine
end

