-- ==== Sys2Proof/Machine/MaskOps.lean ====
section
/-! DEFINITION. Mask instructions, group 0x07 (R94). -/

namespace Sys2Proof.Machine

/-- Which operands an operation of group 0x07 names. -/
inductive MForm where
  | mmm        -- M[dst], M[src1], M[src2]
  | mm         -- M[dst], M[src1]
  | ma         -- M[dst], A[src1]
  | am         -- A[dst], M[src1]
  deriving DecidableEq, Repr

/-- The words of group 0x07 that R75 and R94 allow. -/
def maskLegal (k : MForm) (f : FormT) : Bool :=
  isZ f.ext && (match k with
    | .mmm => isM f.dst && isM f.src1 && isM f.src2
    | .mm => isM f.dst && isM f.src1 && isZ f.src2
    | .ma => isM f.dst && isA f.src1 && isZ f.src2
    | .am => isA f.dst && isM f.src1 && isZ f.src2)

/-- The A registers an operation names. -/
def maskAs (k : MForm) (f : FormT) : List Nat :=
  match k with
  | .ma => [f.src1.toNat]
  | .am => [f.dst.toNat]
  | _ => []
/-- The M registers an operation names. -/
def maskMs (k : MForm) (f : FormT) : List Nat :=
  match k with
  | .mmm => [f.dst.toNat, f.src1.toNat, f.src2.toNat]
  | .mm => [f.dst.toNat, f.src1.toNat]
  | .ma => [f.dst.toNat]
  | .am => [f.src1.toNat]

/-- The effect: `g` of the two source values, written to the destination file (R94). -/
def State.maskEff (k : MForm) (h : Hart) (f : FormT) (g : Word → Word → Word) (s : State) : State :=
  s.modCtx h (fun c =>
    let x := if k = .ma then c.getA f.src1.toNat else c.getM f.src1.toNat
    let r := g x (c.getM f.src2.toNat)
    (if k = .am then c.setA f.dst.toNat r else c.setM f.dst.toNat r).next)

/-- Group 0x07 (R94). -/
def State.maskOp (s : State) (op : Nat) (k : MForm) (h : Hart) (f : FormT) (g : Word → Word → Word) : Res :=
  .next (s.issue h (wordT 0x07 op f) (maskLegal k f) f.mask.toNat (maskAs k f) (maskMs k f) (State.maskEff k h f g))

/-- M.AND (R94). -/
def execMAnd (h : Hart) (f : FormT) (s : State) : Res := s.maskOp 0x00 .mmm h f (fun a b => a &&& b)
/-- M.OR (R94). -/
def execMOr (h : Hart) (f : FormT) (s : State) : Res := s.maskOp 0x01 .mmm h f (fun a b => a ||| b)
/-- M.XOR (R94). -/
def execMXor (h : Hart) (f : FormT) (s : State) : Res := s.maskOp 0x02 .mmm h f (fun a b => a ^^^ b)
/-- M.ANDN (R94). -/
def execMAndn (h : Hart) (f : FormT) (s : State) : Res := s.maskOp 0x03 .mmm h f (fun a b => a &&& ~~~ b)
/-- M.NOT (R94). -/
def execMNot (h : Hart) (f : FormT) (s : State) : Res := s.maskOp 0x04 .mm h f (fun a _ => ~~~ a)
/-- M.FROMA (R94). -/
def execMFroma (h : Hart) (f : FormT) (s : State) : Res := s.maskOp 0x08 .ma h f (fun a _ => a)
/-- M.TOA (R94). -/
def execMToa (h : Hart) (f : FormT) (s : State) : Res := s.maskOp 0x09 .am h f (fun a _ => a)
/-- M.POPC (R94). -/
def execMPopc (h : Hart) (f : FormT) (s : State) : Res := s.maskOp 0x0A .am h f (fun a _ => popc a)
/-- M.FIRST (R94). -/
def execMFirst (h : Hart) (f : FormT) (s : State) : Res := s.maskOp 0x0B .am h f (fun a _ => ctz a)

end Sys2Proof.Machine
end

