-- ==== Sys2Proof/Machine/Pins.lean ====
section
/-! DEFINITION. The side-band inputs: RESET_N, THROT_N and TWIN_HB, and chattering ones (R426, R533 to R536, R540). -/

namespace Sys2Proof.Machine

/-- RESET_N is taken as asserted: the actions of L4 that have not been performed, and everything but the island is held. One that meets
a module coming up ends that start; the Reservoir stays in self-refresh where it held its contents (R535, R536, R539). -/
def State.resetOn (s : State) : State :=
  let t := s.setRbit regFePins 0 true
  if t.power.booting then
    let u := t.modPower (fun p => { p with booting := false })
    (u.queueDoms (shedRows ++ (if u.power.full then lastRow else [])) 0).powerShow
  else if t.power.full then t.powerShow
  else t.enterL4.powerShow

/-- RESET_N is released: a warm reset without the wait, unless a wait of R485 or a power-up still stands (R535, R536, R540). -/
def State.resetOff (s : State) : State :=
  let t := s.setRbit regFePins 0 false
  if s.resetPin && t.pwHeld && !t.power.full && !t.power.booting && decide (t.effStep < 4) then t.warmReset else t.powerShow

/-- RESET_N takes a level. -/
def State.resetLevel (s : State) (asserted : Bool) : State :=
  if s.resetPin = asserted then s else if asserted then s.resetOn else s.resetOff

/-- THROT_N takes a level: a governor action (R318, R320, R535). -/
def State.throtLevel (s : State) (asserted : Bool) : State :=
  let t := (s.setRbit regFePins 1 asserted).govStart s.dx.gov.ext asserted (upto 16)
  t.setDx { t.dx with gov := { t.dx.gov with ext := asserted } }

def pinNum : SidePin → Nat
  | .resetN => 0
  | .throtN => 1
  | .twinHb => 2

/-- An input takes a level. -/
def State.pinLevel (s : State) (p : SidePin) (asserted : Bool) : State :=
  match p with
  | .resetN => s.resetLevel asserted
  | .throtN => s.throtLevel asserted
  | .twinHb => s.twinHb asserted

/-- Is an input declared chattering (R534)? -/
def State.chatters (s : State) (p : SidePin) : Bool := s.rbit regFePins (3 + pinNum p)

/-- A new level that has been stable: without effect while the input chatters, and while the island does not run (R533, R534). -/
def State.pinChange (s : State) (p : SidePin) (asserted : Bool) : State :=
  if s.mgrUp && !s.chatters p then s.pinLevel p asserted else s

/-- RESET_N is asserted (R535, R536). -/
def execResetNAssert (s : State) : Res := .next (s.pinChange .resetN true)

/-- RESET_N is released (R535, R536, R540). -/
def execResetNRelease (s : State) : Res := .next (s.pinChange .resetN false)

/-- THROT_N changes (R320, R535). -/
def execThrotNChange (asserted : Bool) (s : State) : Res := .next (s.pinChange .throtN asserted)

/-- TWIN_HB changes (R426, R535). -/
def execTwinHbChange (asserted : Bool) (s : State) : Res := .next (s.pinChange .twinHb asserted)

/-- An input is declared chattering: counted, and treated as asserted (R534). -/
def execChatterDeclare (p : SidePin) (s : State) : Res :=
  .next (if !s.mgrUp || s.chatters p then s
    else ((s.setRbit regFePins (3 + pinNum p) true).bump regFeChatter).pinLevel p true)

/-- A chattering input has stayed unchanged for 100 ms: it takes its level (R534). -/
def execChatterClear (p : SidePin) (asserted : Bool) (s : State) : Res :=
  .next (if s.mgrUp && s.chatters p then (s.setRbit regFePins (3 + pinNum p) false).pinLevel p asserted else s)

end Sys2Proof.Machine
end

