-- ==== Sys2Proof/Machine/QuillEvents.lean ====
section
/-! DEFINITION. The completion of Quill operations (R151, R162, R175). -/

namespace Sys2Proof.Machine

/-- The operation that a unit of a cluster's Quill executes completes, with what the checkers found (R162, R175). -/
def execQlOpComplete (c : Nat) (r : QuillEnd) (s : State) : Res := .next (s.qlComplete c r.unit r.check)

end Sys2Proof.Machine
end

