-- ==== Sys2Proof/Machine/QuillIssue.lean ====
section
/-! DEFINITION. The Quill instructions, groups 0x09 to 0x0B (R155 to R170): each checks its word and its operand words and
enters the command queue. -/

namespace Sys2Proof.Machine

/-- An assigned operand format, and semirings 1 to 4 only with formats 0 and 1 (R149, R159). -/
def qlFmtOk (f semi : Nat) : Bool := decide (f ≤ 10) && decide (semi ≤ 4) && (decide (semi = 0) || decide (f ≤ 1))
/-- An output format (R159, R168). -/
def outFmtOk (f : Nat) : Bool := decide (f ≤ 4) || decide (f = 10)
/-- 1 to 2,048 rows that fit from the accumulator row (R159). -/
def accOk (cnt : Word) (acc : Nat) : Bool := decide (1 ≤ cntRows cnt) && decide (acc % 2048 + cntRows cnt ≤ 2048)

/-- The fields of a Quill Form T ext. -/
def qlFmt (f : FormT) : Nat := exf f.ext 15 12
def qlSemi (f : FormT) : Nat := exf f.ext 18 16
def qlAcc (f : FormT) : Nat := exf f.ext 11 0

/-- Issue of a Quill Form T instruction: the word's own check, then the operand words' check, then the queue. -/
def State.qlGo (s : State) (h : Hart) (group op : Nat) (f : FormT) (legal : Bool)
    (ok : Word → Word → Bool) (kind : Word → Word → Word → QlKind) : State :=
  s.issue h (wordT group op f) (legal && isZ f.dst && isA f.src1 && isA f.src2) 0 [f.src1.toNat, f.src2.toNat] [f.mask.toNat]
    (fun s =>
      let a := (s.ctx h).getA f.src1.toNat
      let c := (s.ctx h).getA f.src2.toNat
      s.checked h (wordT group op f) (ok a c) (fun s => s.qlIssue h group (kind a c ((s.ctx h).getM f.mask.toNat))))

/-- QL.LDW: load a K by 32 block of weights (R156, R163). -/
def execQlLdw (h : Hart) (f : FormT) (s : State) : Res :=
  let tr := f.ext.getLsbD 21
  let g := qlFmt f
  .next (s.qlGo h 0x09 0x00 f (isZ f.mask && onlyBits f.ext 0x30F000 && decide (g ≤ 10))
    (fun a c => decide (cntRows c = 0) && cntOk c (isMx g) && adrOk a (ldwShape g tr).1 (rowBytes g (ldwShape g tr).2))
    (fun a c _ => .ldw a c tr (exf f.ext 20 20) g))

/-- QL.MMA: stream rows against a weight buffer (R156, R163). -/
def execQlMma (h : Hart) (f : FormT) (s : State) : Res :=
  let g := qlFmt f
  .next (s.qlGo h 0x09 0x01 f (onlyBits f.ext 0x1FFFFF && qlFmtOk g (qlSemi f))
    (fun a c => accOk c (qlAcc f) && cntOk c (isMx g) && adrOk a (cntRows c) (rowBytes g (fmtK g)))
    (fun a c m => .mma a c m (f.ext.getLsbD 19) (exf f.ext 20 20) (qlSemi f) g (qlAcc f)))

/-- QL.WB: write rows out, rounded to a format (R168, R169). -/
def execQlWb (h : Hart) (f : FormT) (s : State) : Res :=
  let g := qlFmt f
  .next (s.qlGo h 0x0A 0x00 f (onlyBits f.ext 0x3FFFF && outFmtOk g)
    (fun a c => accOk c (qlAcc f) && cntOk c false && adrOk a (cntRows c) (outBytes g))
    (fun a c m => .wb a c m (f.ext.getLsbD 16) (f.ext.getLsbD 17) g (qlAcc f)))

/-- QL.SAVE: write rows at full width (R170). -/
def execQlSave (h : Hart) (f : FormT) (s : State) : Res :=
  .next (s.qlGo h 0x0A 0x01 f (isZ f.mask && onlyBits f.ext 0xFFF)
    (fun a c => accOk c (qlAcc f) && cntOk c false && adrOk a (cntRows c) 256)
    (fun a c _ => .save a c (qlAcc f)))

/-- QL.RESTORE: load rows at full width (R170). -/
def execQlRestore (h : Hart) (f : FormT) (s : State) : Res :=
  .next (s.qlGo h 0x0A 0x02 f (isZ f.mask && onlyBits f.ext 0xFFF)
    (fun a c => accOk c (qlAcc f) && cntOk c false && adrOk a (cntRows c) 256)
    (fun a c _ => .restore a c (qlAcc f)))

/-- QL.ACCADD: combine source rows into rows (R158). -/
def execQlAccadd (h : Hart) (f : FormT) (s : State) : Res :=
  let full := f.ext.getLsbD 19
  .next (s.qlGo h 0x0A 0x03 f (onlyBits f.ext 0xF0FFF && decide (qlSemi f ≤ 4))
    (fun a c => accOk c (qlAcc f) && cntOk c false && adrOk a (cntRows c) (if full then 256 else 128))
    (fun a c m => .accadd a c m full (qlSemi f) (qlAcc f)))

/-- QL.FILL: set rows to the identity of a semiring (R149, R156). -/
def execQlFill (h : Hart) (f : FormT) (s : State) : Res :=
  .next (s.qlGo h 0x0A 0x04 f (isZ f.src1 && onlyBits f.ext 0x70FFF && decide (qlSemi f ≤ 4))
    (fun _ c => accOk c (qlAcc f) && cntOk c false)
    (fun _ c m => .fill c m (qlSemi f) (qlAcc f)))

/-- QL.SWAP: exchange the front and shadow roles for every operation behind it (R164). -/
def execQlSwap (h : Hart) (f : FormT) (s : State) : Res :=
  .next (s.qlGo h 0x0A 0x08 f (isZ f.src1 && isZ f.src2 && isZ f.mask && isZ f.ext) (fun _ _ => true) (fun _ _ _ => .swap))

/-- QL.SIG: signal a mark once every earlier Quill operation has completed; an unmapped handle raises MARK (R158, R159). -/
def execQlSig (h : Hart) (f : FormK) (s : State) : Res :=
  .next (s.issue h (wordK 0x0B 0x00 f) (isZ f.dst && isZ f.src && isZ f.mask && mkImmOk f) 0 [] []
    (fun s => s.withMark h f (fun n s => s.qlIssue h 0x0B (.sig n))))

/-- QL.SEED: set the generator of Writeback (R169). -/
def execQlSeed (h : Hart) (f : FormK) (s : State) : Res :=
  .next (s.issue h (wordK 0x0B 0x01 f) (isZ f.dst && isA f.src && isZ f.mask && isZ f.ctl && isZ f.imm) 0 [f.src.toNat] []
    (fun s => s.qlIssue h 0x0B (.seed ((s.ctx h).getA f.src.toNat))))

/-- QL.RDFL: wait for the task's earlier operations, then read the Quill flags (R158). -/
def execQlRdfl (h : Hart) (f : FormK) (s : State) : Res :=
  .next (s.issue h (wordK 0x0B 0x02 f) (isA f.dst && isZ f.src && isZ f.mask && decide (f.ctl.toNat < 2) && isZ f.imm) 0
    [f.dst.toNat] [] (fun s => s.qlReadFlags h 0x0B f.dst.toNat (f.ctl.getLsbD 0)))

end Sys2Proof.Machine
end

