-- ==== Sys2Proof/Machine/RegHost.lean ====
section
/-! DEFINITION. The host's accesses to registers over Lanine (R10, R11, R393, R394). -/

namespace Sys2Proof.Machine

/-- The host reads a register: `off` is the byte in the line, `wide` the size of 8 B (R394). One outside register space is answered
ERR HOLE; one that is not aligned does not reach the register and is answered ERR REG (R10, R393). -/
def execRgRd (tag line off : Nat) (wide : Bool) (s : State) : Res :=
  let at0 := lineOf line
  .next (if !s.lanOpen then s
    else if at0 < 0x1F000000000 ∨ 0x1F010000000 ≤ at0 then s.hostErr tag 3
    else match s.regReadN (at0 - 0x1F000000000 + off % 64) (if wide then 8 else 4) with
      | some v => s.send .lanine 0x36 [tag] (leBytes 8 v.toNat)
      | none => s.hostErr tag 4)

/-- The host writes no register (R394). -/
def execRgWr (tag _line _off : Nat) (_wide : Bool) (_v : Word) (s : State) : Res :=
  .next (if s.lanOpen then s.hostErr tag 4 else s)

end Sys2Proof.Machine
end

