-- ==== Sys2Proof/Machine/RegWrite.lean ====
section
/-! DEFINITION. REGISTER_WRITE: a copyist writes a register that has no row of its own (R10 to R14). -/

namespace Sys2Proof.Machine

/-- A register write of the firmware (R10 to R13). -/
def execRegisterWrite (off size : Nat) (v : Word) (s : State) : Res := .next (s.regWrite off size v)

end Sys2Proof.Machine
end

