-- ==== Sys2Proof/Machine/ScalarFloat.lean ====
section
/-! DEFINITION. Scalar floating point, group 0x03 (R81 to R84). -/

namespace Sys2Proof.Machine

/-- The words of group 0x03 that R75 and R81 allow. -/
def fpLegal (f : FormT) (two : Bool) : Bool :=
  isA f.dst && isA f.src1 && (if two then isA f.src2 else isZ f.src2) && fpExtOk f.ext

/-- The effect: `g` gives the result from the format, the rounding and the operands (old A[dst], A[src1], A[src2]). -/
def State.fpEff (h : Hart) (f : FormT) (g : Fmt → Rnd → Word → Word → Word → Word × FFlags) (s : State) : State :=
  s.modCtx h (fun c =>
    let r := g (precOf f.ext) (rndOf (exf f.ext 3 1)) (c.getA f.dst.toNat) (c.getA f.src1.toNat) (c.getA f.src2.toNat)
    ((c.setA f.dst.toNat r.1).flag r.2).next)

/-- Group 0x03 (R81). -/
def State.fpOp (s : State) (op : Nat) (two : Bool) (h : Hart) (f : FormT)
    (g : Fmt → Rnd → Word → Word → Word → Word × FFlags) : Res :=
  .next (s.issue h (wordT 0x03 op f) (fpLegal f two) f.mask.toNat (intRegs f) [] (State.fpEff h f g))

/-- A number as a result word: a binary32 result clears the upper half (R81). -/
def fpOut (r : Nat × FFlags) : Word × FFlags := (BitVec.ofNat 64 r.1, r.2)

/-- A comparison: 0 with any NaN; `quiet` sets NV only for a signalling one (R82). -/
def fpCmp (p : Fmt) (quiet : Bool) (a b : Word) (g : Fp → Fp → Bool) : Word × FFlags :=
  let x := p.unpack (fpIn p a)
  let y := p.unpack (fpIn p b)
  if x.isNan || y.isNan then (0, { nv := x.isSnan || y.isSnan || !quiet }) else (b2w (g x y), .none)

/-- FADD (R81). -/
def execFadd (h : Hart) (f : FormT) (s : State) : Res :=
  s.fpOp 0x00 true h f (fun p r _ a b => fpOut (p.add r (fpIn p a) (fpIn p b)))
/-- FSUB (R81). -/
def execFsub (h : Hart) (f : FormT) (s : State) : Res :=
  s.fpOp 0x01 true h f (fun p r _ a b => fpOut (p.sub r (fpIn p a) (fpIn p b)))
/-- FMUL (R81). -/
def execFmul (h : Hart) (f : FormT) (s : State) : Res :=
  s.fpOp 0x02 true h f (fun p r _ a b => fpOut (p.mul r (fpIn p a) (fpIn p b)))
/-- FDIV (R81). -/
def execFdiv (h : Hart) (f : FormT) (s : State) : Res :=
  s.fpOp 0x03 true h f (fun p r _ a b => fpOut (p.div r (fpIn p a) (fpIn p b)))
/-- FSQRT (R81). -/
def execFsqrt (h : Hart) (f : FormT) (s : State) : Res :=
  s.fpOp 0x04 false h f (fun p r _ a _ => fpOut (p.sqrt r (fpIn p a)))
/-- FMA: A[dst] + src1 * src2, rounded once (R81). -/
def execFma (h : Hart) (f : FormT) (s : State) : Res :=
  s.fpOp 0x05 true h f (fun p r d a b => fpOut (p.fma r (fpIn p d) (fpIn p a) (fpIn p b)))
/-- FMIN (R82). -/
def execFmin (h : Hart) (f : FormT) (s : State) : Res :=
  s.fpOp 0x06 true h f (fun p _ _ a b => fpOut (p.minmax false (fpIn p a) (fpIn p b)))
/-- FMAX (R82). -/
def execFmax (h : Hart) (f : FormT) (s : State) : Res :=
  s.fpOp 0x07 true h f (fun p _ _ a b => fpOut (p.minmax true (fpIn p a) (fpIn p b)))
/-- FEQ (R82). -/
def execFeq (h : Hart) (f : FormT) (s : State) : Res :=
  s.fpOp 0x08 true h f (fun p _ _ a b => fpCmp p true a b Fp.eq)
/-- FLT (R82). -/
def execFlt (h : Hart) (f : FormT) (s : State) : Res :=
  s.fpOp 0x09 true h f (fun p _ _ a b => fpCmp p false a b Fp.lt)
/-- FLE (R82). -/
def execFle (h : Hart) (f : FormT) (s : State) : Res :=
  s.fpOp 0x0A true h f (fun p _ _ a b => fpCmp p false a b (fun x y => Fp.lt x y || Fp.eq x y))
/-- FCVT.I: to a signed 64-bit integer with saturation (R82). -/
def execFcvtI (h : Hart) (f : FormT) (s : State) : Res :=
  s.fpOp 0x0C false h f (fun p r _ a _ => let x := p.toInt 64 r (fpIn p a); (ofI x.1, x.2))
/-- FCVT.F: from a signed 64-bit integer (R81). -/
def execFcvtF (h : Hart) (f : FormT) (s : State) : Res :=
  s.fpOp 0x0D false h f (fun p r _ a _ => fpOut (p.ofInt r a.toInt))
/-- FCVT.P: from the precision that ext[0] selects to the other (R81). -/
def execFcvtP (h : Hart) (f : FormT) (s : State) : Res :=
  s.fpOp 0x0E false h f (fun p r _ a _ =>
    fpOut (p.convert (if p = fmt64 then fmt32 else fmt64) r (fpIn p a)))
/-- FCLASS (R83). -/
def execFclass (h : Hart) (f : FormT) (s : State) : Res :=
  s.fpOp 0x0F false h f (fun p _ _ a _ => (BitVec.ofNat 64 (p.classify (fpIn p a)), .none))

end Sys2Proof.Machine
end

