-- ==== Sys2Proof/Machine/StippleEvents.lean ====
section
/-! DEFINITION. The completion of Stipple operations and their repair passes (R226, R232). -/

namespace Sys2Proof.Machine

/-- A repair pass computes the mispredicted rows in full after the main pass (R226). -/
def execSpRepairPass (r : RepairEnd) (s : State) : Res := .next (s.spRepair r.cluster r.check)

/-- The operation that a unit of a cluster's Stipple executes completes, with what befell it (R232). -/
def execSpOpComplete (c : Nat) (r : StippleEnd) (s : State) : Res := .next (s.spComplete c r.unit r.check)

end Sys2Proof.Machine
end

