-- ==== Sys2Proof/Machine/StippleIssue.lean ====
section
/-! DEFINITION. The Stipple instructions, groups 0x10 and 0x11 (R205 to R231): each checks its word and its operand words and
enters the command queue. -/

namespace Sys2Proof.Machine

/-- The fields of a Stipple Form T ext. -/
def spFmt (f : FormT) : Nat := exf f.ext 15 12
def spSemi (f : FormT) : Nat := exf f.ext 18 16
def spRow (f : FormT) : Nat := exf f.ext 10 0

/-- A semiring that the format allows: codes 1 to 4 not with the 8-bit formats (R206, R215). -/
def spSemiOk (g semi : Nat) : Bool := decide (semi ≤ 4) && (decide (semi = 0) || !(decide (2 ≤ g ∧ g ≤ 4)))
/-- 1 to 2,048 rows and no SCALE (R156, R215). -/
def spCntOk (c : Word) : Bool := cntOk c false && decide (1 ≤ cntRows c ∧ cntRows c ≤ 2048)
/-- A tile or record block starts at a multiple of 16 inside a region (R207, R215). -/
def tileOffOk (a : Word) : Bool := decide (fld a 20 0 % 16 = 0) && offOk (fld a 20 0)

/-- Issue of a Form T instruction: the word's own check, then the operand words' check, then the queue. -/
def State.spGo (s : State) (h : Hart) (op : Nat) (f : FormT) (legal : Bool) (as : List Nat)
    (ok : Word → Word → Word → Bool) (kind : Word → Word → Word → Word → SpKind) : Res :=
  .next (s.issue h (wordT 0x10 op f) legal 0 as [f.mask.toNat] (fun s =>
    let c := s.ctx h
    let d := c.getA f.dst.toNat
    let a := c.getA f.src1.toNat
    let b := c.getA f.src2.toNat
    s.checked h (wordT 0x10 op f) (ok d a b) (fun s => s.spIssue h 0x10 (kind d a b (c.getM f.mask.toNat)))))

/-- SP.LDB: load a dense block into a B buffer (R216, R230). -/
def execSpLdb (h : Hart) (f : FormT) (s : State) : Res :=
  let g := spFmt f
  s.spGo h 0x00 f (onlyBits f.ext 0x20F000 && decide (g ≤ 4) && isZ f.dst && isA f.src1 && isA f.src2 && isZ f.mask)
    [f.src1.toNat, f.src2.toNat]
    (fun _ a c => spCntOk c && decide (cntRows c * (4 * elemBits g) ≤ 65536) && adrOk a (cntRows c) (4 * elemBits g))
    (fun _ a c _ => .ldb a c (exf f.ext 21 21) g)

/-- A predictor word: BIAS a multiple of 16 and PMAP a multiple of 8, inside their regions (R215). -/
def predOk (w : Word) : Bool :=
  decide (fld w 63 45 = 0) && decide (fld w 23 21 = 0) && decide (fld w 44 24 % 16 = 0) && decide (fld w 20 0 % 8 = 0) &&
    offOk (fld w 44 24) && inRegion (fld w 44 24) 128 && offOk (fld w 20 0)

/-- Does the bitmap of a predictor word stay in its region, for the rows of the tile as its header stands at issue (R215)? A tile that is not
built yet is checked as the operation leaves the queue (DESIGN CHOICE, log 94). -/
def State.bitmapFits (s : State) (k off : Nat) (pred : Word) (tr : Bool) : Bool :=
  match s.tileAt k (s.cl k).front off with
  | some t => bitmapIn pred (outRows t tr)
  | none => true

/-- SP.MMA: multiply a tile by the B buffer into buffer rows (R217, R224). -/
def execSpMma (h : Hart) (f : FormT) (s : State) : Res :=
  let g := spFmt f
  let usePred := f.ext.getLsbD 23
  let start := f.ext.getLsbD 20
  s.spGo h 0x01 f (onlyBits f.ext 0xF7F7FF && decide (g ≤ 4) && spSemiOk g (spSemi f) && isZ f.src2 && isA f.src1 &&
      (if usePred then isA f.dst && start && decide (spSemi f = 0) else isZ f.dst)) [f.dst.toNat, f.src1.toNat]
    (fun d a _ => tileOffOk a && (!usePred || (predOk d && s.bitmapFits h.core (fld a 20 0) d (f.ext.getLsbD 22))))
    (fun d a _ m => .mma a d usePred (f.ext.getLsbD 22) start (exf f.ext 21 21) (spSemi f) g (spRow f) m)

/-- SP.KADD: add each record of a block into its keyed entry (R220, R222). -/
def execSpKadd (h : Hart) (f : FormT) (s : State) : Res :=
  let g := spFmt f
  s.spGo h 0x02 f (onlyBits f.ext 0x7F000 && outFmtOk' g && spSemiOk g (spSemi f) && isZ f.dst && isA f.src1 && isZ f.src2)
    [f.src1.toNat] (fun _ a _ => tileOffOk a) (fun _ a _ m => .kadd a (spSemi f) g m)
where
  /-- A record format (R222). -/
  outFmtOk' (g : Nat) : Bool := decide (g ≤ 4) || decide (g = 10)

/-- SP.DRAIN: write rows, or a record block when dst names a register (R223). -/
def execSpDrain (h : Hart) (f : FormT) (s : State) : Res :=
  let g := spFmt f
  s.spGo h 0x03 f (onlyBits f.ext 0x9FF7FF && (decide (g ≤ 4) || decide (g = 10)) && spSemiOk g (spSemi f) && isA f.dst &&
      isA f.src1 && isA f.src2) [f.dst.toNat, f.src1.toNat, f.src2.toNat]
    (fun _ a c => spCntOk c && (if f.dst = 0 then adrOk a (cntRows c) (4 * elemBits g) else adrOk a 1 (16 + cntRows c * recBytes g)))
    (fun _ a c m => .drain f.dst.toNat a c (f.ext.getLsbD 23) (f.ext.getLsbD 20) (f.ext.getLsbD 19) (spSemi f) g (spRow f) m)

/-- The bytes that a destination of SP.CMP must have (R215). -/
def cmpRoom (rows kdim vb : Nat) : Nat := 64 + up16 (4 * (rows + 1)) + up16 (2 * rows * kdim) + rows * kdim * vb

/-- SP.CMP: build a tile from a dense source (R212, R213). -/
def execSpCmp (h : Hart) (f : FormT) (s : State) : Res :=
  let g := spFmt f
  let kind := exf f.ext 25 24
  let kdim := 4 * spRow f
  s.spGo h 0x04 f (onlyBits f.ext 0x307F7FF && decide (g ≤ 4) && spSemiOk g (spSemi f) && decide (1 ≤ kind) &&
      decide (1 ≤ spRow f ∧ kdim ≤ kdimMax g) && isA f.dst && isA f.src1 && isA f.src2 && isZ f.mask)
    [f.dst.toNat, f.src1.toNat, f.src2.toNat]
    (fun d a c => spCntOk c && decide (kind ≠ 2 ∨ cntRows c % 4 = 0) && adrOk a (cntRows c) (kdim * valBytes g) && tileOffOk d &&
      inRegion (fld d 20 0) (cmpRoom (cntRows c) kdim (valBytes g)))
    (fun d a c _ => .cmp f.dst.toNat d a c kind (spSemi f) g (spRow f))

/-- SP.SIG: signal a mark once every earlier Stipple operation has completed; an unmapped handle raises MARK (R215, R230). -/
def execSpSig (h : Hart) (f : FormK) (s : State) : Res :=
  .next (s.issue h (wordK 0x11 0x00 f) (isZ f.dst && isZ f.src && isZ f.mask && mkImmOk f) 0 [] []
    (fun s => s.withMark h f (fun n s => s.spIssue h 0x11 (.sig n))))

/-- SP.SEED: set the Stipple's generator (R229). -/
def execSpSeed (h : Hart) (f : FormK) (s : State) : Res :=
  .next (s.issue h (wordK 0x11 0x01 f) (isZ f.dst && isA f.src && isZ f.mask && isZ f.ctl && isZ f.imm) 0 [f.src.toNat] []
    (fun s => s.spIssue h 0x11 (.seed ((s.ctx h).getA f.src.toNat))))

/-- SP.RDFL: wait for the task's earlier operations, then read the Stipple flags (R215). -/
def execSpRdfl (h : Hart) (f : FormK) (s : State) : Res :=
  .next (s.issue h (wordK 0x11 0x02 f) (isA f.dst && isZ f.src && isZ f.mask && decide (f.ctl.toNat < 2) && isZ f.imm) 0
    [f.dst.toNat] [] (fun s => s.spReadFlags h 0x11 f.dst.toNat (f.ctl.getLsbD 0)))

/-- SP.CLR: clear rows, or set the whole buffer to indexed or keyed mode (R219). -/
def execSpClr (h : Hart) (f : FormK) (s : State) : Res :=
  let mode := exf f.ctl 1 0
  .next (s.issue h (wordK 0x11 0x03 f) (isZ f.dst && isZ f.src && isZ f.mask &&
      (if mode = 0 then decide (exf f.ctl 4 2 ≤ 4) && decide (f.imm.toNat < 2 ^ 23)
       else decide (mode ≤ 2) && decide (exf f.ctl 4 2 = 0) && isZ f.imm)) 0 [] []
    (fun s => s.spIssue h 0x11 (.clr mode (exf f.imm 11 0) (exf f.imm 22 12) (exf f.ctl 4 2))))

end Sys2Proof.Machine
end

