-- ==== Sys2Proof/Machine/Tables.lean ====
section
/-! DEFINITION. The table and edition instructions, group 0x16 (R274, R275, R284, R287, R290). -/

namespace Sys2Proof.Machine

/-- TB.UPDATE (R275). -/
def execTbUpdate (h : Hart) (f : FormD) (s : State) : Res :=
  .next (s.issue h (wordD 0x16 0x00 f) (decide (f.areg.toNat < 32) && sigOk f && isZ f.imm && isZ f.ctl) f.mask.toNat
    [f.areg.toNat] []
    (fun s => s.withSlot h f (fun d s =>
      s.checked h (wordD 0x16 0x00 f) (updDescOk d) (fun s =>
        s.withSig h f (fun m s => s.skEnter h (s.skNew h f .update d m false) (fun s o =>
          s.tbStart h.core o (fun s o => s.updateBegin h.core o)))))))

/-- TB.BUILD (R284). -/
def execTbBuild (h : Hart) (f : FormD) (s : State) : Res :=
  .next (s.issue h (wordD 0x16 0x01 f)
    (isZ f.slot && isZ f.areg && sigOk f && isZ f.ctl && decide (f.imm.toNat < 4096)) f.mask.toNat [] []
    (fun s => s.withSig h f (fun m s => s.skEnter h (s.skNew h f .build [] m false) (fun s o =>
      s.tbStart h.core o (fun s o => s.buildBegin h.core o)))))

/-- TB.PUBLISH (R287). -/
def execTbPublish (h : Hart) (f : FormD) (s : State) : Res :=
  .next (s.issue h (wordD 0x16 0x02 f)
    (isZ f.slot && decide (f.areg.toNat < 32) && sigOk f && isZ f.ctl && isZ f.imm) f.mask.toNat [f.areg.toNat] []
    (fun s => s.withSig h f (fun m s => s.skEnter h (s.skNew h f .publish [] m false) (fun s o => s.publishBegin h.core o))))

/-- The base that TB.EDADDR returns: the directory, or the block of KIND 1; 0 with no edition (R290). -/
def State.edAddr (s : State) (j t gen : Nat) : Word :=
  match s.desc j t with
  | none => 0
  | some d => match (s.table j t).editionAt gen with
    | none => 0
    | some e => BitVec.ofNat 64 (if d.kind = 1 then d.blockAddr e.slot else d.dirAddr e.slot)

/-- TB.EDADDR (R290). -/
def execTbEdaddr (h : Hart) (f : FormD) (s : State) : Res :=
  .next (s.issue h (wordD 0x16 0x03 f)
    (decide (f.areg.toNat < 32) && isZ f.slot && isZ f.queue && isZ f.mark && isZ f.mask && isZ f.sig && isZ f.ctl
      && decide (f.imm.toNat < 4096)) f.mask.toNat [f.areg.toNat] []
    (fun s =>
      let v := s.edAddr (s.ctx h).task.job f.imm.toNat (s.ctx h).task.gen
      s.modCtx h (fun c => (c.setA f.areg.toNat v).next)))

end Sys2Proof.Machine
end

