-- ==== Sys2Proof/Machine/Twin.lean ====
section
/-! DEFINITION. The rows of leases, takeovers, pairing, resync, folios and Carbon orders (R401, R416 to R428, R430, R456). -/

namespace Sys2Proof.Machine

/-- Half the lease has passed: HOLD-ACTIVE (R426). -/
def execLeaseHalfExpire (s : State) : Res := .next (if s.role = 2 then s.setRole 5 else s)

/-- The lease has lapsed (R425, R426). -/
def execLeaseExpire (s : State) : Res := .next (if (s.role = 5 ∨ s.role = 3) ∧ s.twin.lapsed = false then s.leaseLapse else s)

/-- The image of a takeover stands (R428). -/
def execTakeoverRestoreEnd (s : State) : Res := .next (if s.twin.restoring && s.role == 4 then s.takeoverEnd else s)

/-- PAIRTO with TWIN_HB deasserted and the link down: SOLO, but not with a state given up for a resync (R401, R430). -/
def execPairingTimeout (s : State) : Res :=
  .next (if s.role = 1 ∧ s.cbUp = false ∧ s.twinDead = true ∧ s.twin.discarded = false then s.becomeSolo else s)

/-- The resync copy has crossed: a forced folio that sends every unit (R416, R418, R430). -/
def execResyncCopyEnd (s : State) : Res :=
  .next (if s.cbOpen && s.role == 4 && s.rbit regCbStatus 12 && !s.twin.folioAll && !s.twin.sendq.any (fun r => r.ty == 0x0C)
    then (s.setTwin { s.twin with folioAll := true }).requestFolio true else s)

/-- The interval timer, which runs in roles that seal; a later interval request is dropped (R416, R422). -/
def execFolioIntervalExpire (s : State) : Res := .next (if s.runs then s.requestFolio false else s)

/-- The quiesce ends and the capture begins (R417, R456). -/
def execFolioQuiesceEnd (s : State) : Res := .next (if s.quiesced then s.quiesceEnd else s)

/-- The capture is done (R420). -/
def execFolioCaptureEnd (changed stopUs : Nat) (s : State) : Res :=
  .next (if s.folioPhase = 2 then s.captureEnd changed stopUs else s)

/-- CB_ORDER.FOLIO (R416). -/
def execCbOrderFolio (s : State) : Res := .next (if s.joined 171 then s.orderWrite 4 else s)

/-- CB_ORDER.TAKEOVER (R427). -/
def execCbOrderTakeover (s : State) : Res := .next (if s.joined 171 then s.orderWrite 2 else s)

/-- CB_ORDER.DEPART (R427). -/
def execCbOrderDepart (s : State) : Res := .next (if s.joined 171 then s.orderWrite 1 else s)

/-- A write of CB_CFG (R425). -/
def execCbCfgWrite (v : Word) (s : State) : Res := .next (if s.joined 171 then s.cbCfgWrite v else s)

/-- A write of CB_FOLIOCFG (R424). -/
def execCbFoliocfgWrite (v : Word) (s : State) : Res := .next (if s.joined 171 then s.folioCfgWrite v else s)

end Sys2Proof.Machine
end

