-- ==== Sys2Proof/Machine/Dispatch.lean ====
section
/-! DEFINITION. The meaning of every command: one arm per constructor of `Instr`. -/

namespace Sys2Proof.Machine

/-- What a command does to everything but the queue. -/
def exec (i : Instr) (s : State) : Host.Outcome State Fault Refusal :=
  match i with
  | .add h f => Sys2Proof.Machine.execAdd h f s
  | .sub h f => Sys2Proof.Machine.execSub h f s
  | .and h f => Sys2Proof.Machine.execAnd h f s
  | .or h f => Sys2Proof.Machine.execOr h f s
  | .xor h f => Sys2Proof.Machine.execXor h f s
  | .andn h f => Sys2Proof.Machine.execAndn h f s
  | .sll h f => Sys2Proof.Machine.execSll h f s
  | .srl h f => Sys2Proof.Machine.execSrl h f s
  | .sra h f => Sys2Proof.Machine.execSra h f s
  | .slt h f => Sys2Proof.Machine.execSlt h f s
  | .sltu h f => Sys2Proof.Machine.execSltu h f s
  | .min h f => Sys2Proof.Machine.execMin h f s
  | .max h f => Sys2Proof.Machine.execMax h f s
  | .minu h f => Sys2Proof.Machine.execMinu h f s
  | .maxu h f => Sys2Proof.Machine.execMaxu h f s
  | .mul h f => Sys2Proof.Machine.execMul h f s
  | .mulh h f => Sys2Proof.Machine.execMulh h f s
  | .mulhu h f => Sys2Proof.Machine.execMulhu h f s
  | .div h f => Sys2Proof.Machine.execDiv h f s
  | .divu h f => Sys2Proof.Machine.execDivu h f s
  | .rem h f => Sys2Proof.Machine.execRem h f s
  | .remu h f => Sys2Proof.Machine.execRemu h f s
  | .clz h f => Sys2Proof.Machine.execClz h f s
  | .ctz h f => Sys2Proof.Machine.execCtz h f s
  | .popc h f => Sys2Proof.Machine.execPopc h f s
  | .addi h f => Sys2Proof.Machine.execAddi h f s
  | .andi h f => Sys2Proof.Machine.execAndi h f s
  | .ori h f => Sys2Proof.Machine.execOri h f s
  | .xori h f => Sys2Proof.Machine.execXori h f s
  | .slli h f => Sys2Proof.Machine.execSlli h f s
  | .srli h f => Sys2Proof.Machine.execSrli h f s
  | .srai h f => Sys2Proof.Machine.execSrai h f s
  | .slti h f => Sys2Proof.Machine.execSlti h f s
  | .sltiu h f => Sys2Proof.Machine.execSltiu h f s
  | .movi h f => Sys2Proof.Machine.execMovi h f s
  | .movhi h f => Sys2Proof.Machine.execMovhi h f s
  | .auipc h f => Sys2Proof.Machine.execAuipc h f s
  | .fadd h f => Sys2Proof.Machine.execFadd h f s
  | .fsub h f => Sys2Proof.Machine.execFsub h f s
  | .fmul h f => Sys2Proof.Machine.execFmul h f s
  | .fdiv h f => Sys2Proof.Machine.execFdiv h f s
  | .fsqrt h f => Sys2Proof.Machine.execFsqrt h f s
  | .fma h f => Sys2Proof.Machine.execFma h f s
  | .fmin h f => Sys2Proof.Machine.execFmin h f s
  | .fmax h f => Sys2Proof.Machine.execFmax h f s
  | .feq h f => Sys2Proof.Machine.execFeq h f s
  | .flt h f => Sys2Proof.Machine.execFlt h f s
  | .fle h f => Sys2Proof.Machine.execFle h f s
  | .fcvtI h f => Sys2Proof.Machine.execFcvtI h f s
  | .fcvtF h f => Sys2Proof.Machine.execFcvtF h f s
  | .fcvtP h f => Sys2Proof.Machine.execFcvtP h f s
  | .fclass h f => Sys2Proof.Machine.execFclass h f s
  | .beq h f => Sys2Proof.Machine.execBeq h f s
  | .bne h f => Sys2Proof.Machine.execBne h f s
  | .blt h f => Sys2Proof.Machine.execBlt h f s
  | .bge h f => Sys2Proof.Machine.execBge h f s
  | .bltu h f => Sys2Proof.Machine.execBltu h f s
  | .bgeu h f => Sys2Proof.Machine.execBgeu h f s
  | .bmany h f => Sys2Proof.Machine.execBmany h f s
  | .bmnone h f => Sys2Proof.Machine.execBmnone h f s
  | .jal h f => Sys2Proof.Machine.execJal h f s
  | .jalr h f => Sys2Proof.Machine.execJalr h f s
  | .ldB h f => Sys2Proof.Machine.execLdB h f s
  | .ldH h f => Sys2Proof.Machine.execLdH h f s
  | .ldW h f => Sys2Proof.Machine.execLdW h f s
  | .ldD h f => Sys2Proof.Machine.execLdD h f s
  | .ldBu h f => Sys2Proof.Machine.execLdBu h f s
  | .ldHu h f => Sys2Proof.Machine.execLdHu h f s
  | .ldWu h f => Sys2Proof.Machine.execLdWu h f s
  | .stB h f => Sys2Proof.Machine.execStB h f s
  | .stH h f => Sys2Proof.Machine.execStH h f s
  | .stW h f => Sys2Proof.Machine.execStW h f s
  | .stD h f => Sys2Proof.Machine.execStD h f s
  | .dsLd h f => Sys2Proof.Machine.execDsLd h f s
  | .dsSt h f => Sys2Proof.Machine.execDsSt h f s
  | .dsClr h f => Sys2Proof.Machine.execDsClr h f s
  | .cZero h f => Sys2Proof.Machine.execCZero h f s
  | .cClean h f => Sys2Proof.Machine.execCClean h f s
  | .cFlush h f => Sys2Proof.Machine.execCFlush h f s
  | .iSync h f => Sys2Proof.Machine.execISync h f s
  | .fence h f => Sys2Proof.Machine.execFence h f s
  | .amoSwap h f => Sys2Proof.Machine.execAmoSwap h f s
  | .amoAdd h f => Sys2Proof.Machine.execAmoAdd h f s
  | .amoAnd h f => Sys2Proof.Machine.execAmoAnd h f s
  | .amoOr h f => Sys2Proof.Machine.execAmoOr h f s
  | .amoXor h f => Sys2Proof.Machine.execAmoXor h f s
  | .amoMin h f => Sys2Proof.Machine.execAmoMin h f s
  | .amoMax h f => Sys2Proof.Machine.execAmoMax h f s
  | .amoMinu h f => Sys2Proof.Machine.execAmoMinu h f s
  | .amoMaxu h f => Sys2Proof.Machine.execAmoMaxu h f s
  | .amoCas h f => Sys2Proof.Machine.execAmoCas h f s
  | .mAnd h f => Sys2Proof.Machine.execMAnd h f s
  | .mOr h f => Sys2Proof.Machine.execMOr h f s
  | .mXor h f => Sys2Proof.Machine.execMXor h f s
  | .mAndn h f => Sys2Proof.Machine.execMAndn h f s
  | .mNot h f => Sys2Proof.Machine.execMNot h f s
  | .mFroma h f => Sys2Proof.Machine.execMFroma h f s
  | .mToa h f => Sys2Proof.Machine.execMToa h f s
  | .mPopc h f => Sys2Proof.Machine.execMPopc h f s
  | .mFirst h f => Sys2Proof.Machine.execMFirst h f s
  | .nop h f => Sys2Proof.Machine.execNop h f s
  | .endTask h f => Sys2Proof.Machine.execEndTask h f s
  | .yield h f => Sys2Proof.Machine.execYield h f s
  | .srr h f => Sys2Proof.Machine.execSrr h f s
  | .srw h f => Sys2Proof.Machine.execSrw h f s
  | .trap h f => Sys2Proof.Machine.execTrap h f s
  | .breakI h f => Sys2Proof.Machine.execBreakI h f s
  | .retx h f => Sys2Proof.Machine.execRetx h f s
  | .waiti h f => Sys2Proof.Machine.execWaiti h f s
  | .tlbInv h f => Sys2Proof.Machine.execTlbInv h f s
  | .tlbInvj h f => Sys2Proof.Machine.execTlbInvj h f s
  | .fwKick h v => Sys2Proof.Machine.execFwKick h v s
  | .engineException h => Sys2Proof.Machine.execEngineException h s
  | .pageFaultResolve h r => Sys2Proof.Machine.execPageFaultResolve h r s
  | .skLoad h f => Sys2Proof.Machine.execSkLoad h f s
  | .skStore h f => Sys2Proof.Machine.execSkStore h f s
  | .skCopy h f => Sys2Proof.Machine.execSkCopy h f s
  | .skSwap h f => Sys2Proof.Machine.execSkSwap h f s
  | .skSwapComplete c => Sys2Proof.Machine.execSkSwapComplete c s
  | .skCancel h f => Sys2Proof.Machine.execSkCancel h f s
  | .skCancelComplete h => Sys2Proof.Machine.execSkCancelComplete h s
  | .innerOpStart c n => Sys2Proof.Machine.execInnerOpStart c n s
  | .strokeRequestComplete c n r => Sys2Proof.Machine.execStrokeRequestComplete c n r s
  | .deadlineMiss c n => Sys2Proof.Machine.execDeadlineMiss c n s
  | .skResume c v => Sys2Proof.Machine.execSkResume c v s
  | .skAbort c v => Sys2Proof.Machine.execSkAbort c v s
  | .skQcfgWrite c q v => Sys2Proof.Machine.execSkQcfgWrite c q v s
  | .qlLdw h f => Sys2Proof.Machine.execQlLdw h f s
  | .qlMma h f => Sys2Proof.Machine.execQlMma h f s
  | .qlWb h f => Sys2Proof.Machine.execQlWb h f s
  | .qlSave h f => Sys2Proof.Machine.execQlSave h f s
  | .qlRestore h f => Sys2Proof.Machine.execQlRestore h f s
  | .qlAccadd h f => Sys2Proof.Machine.execQlAccadd h f s
  | .qlFill h f => Sys2Proof.Machine.execQlFill h f s
  | .qlSwap h f => Sys2Proof.Machine.execQlSwap h f s
  | .qlSig h f => Sys2Proof.Machine.execQlSig h f s
  | .qlSeed h f => Sys2Proof.Machine.execQlSeed h f s
  | .qlRdfl h f => Sys2Proof.Machine.execQlRdfl h f s
  | .qlOpComplete c r => Sys2Proof.Machine.execQlOpComplete c r s
  | .brAdd h f => Sys2Proof.Machine.execBrAdd h f s
  | .brSub h f => Sys2Proof.Machine.execBrSub h f s
  | .brMul h f => Sys2Proof.Machine.execBrMul h f s
  | .brFma h f => Sys2Proof.Machine.execBrFma h f s
  | .brMin h f => Sys2Proof.Machine.execBrMin h f s
  | .brMax h f => Sys2Proof.Machine.execBrMax h f s
  | .brAbs h f => Sys2Proof.Machine.execBrAbs h f s
  | .brNeg h f => Sys2Proof.Machine.execBrNeg h f s
  | .brDiv h f => Sys2Proof.Machine.execBrDiv h f s
  | .brSqrt h f => Sys2Proof.Machine.execBrSqrt h f s
  | .brExp2 h f => Sys2Proof.Machine.execBrExp2 h f s
  | .brLog2 h f => Sys2Proof.Machine.execBrLog2 h f s
  | .brAnd h f => Sys2Proof.Machine.execBrAnd h f s
  | .brOr h f => Sys2Proof.Machine.execBrOr h f s
  | .brXor h f => Sys2Proof.Machine.execBrXor h f s
  | .brSll h f => Sys2Proof.Machine.execBrSll h f s
  | .brSrl h f => Sys2Proof.Machine.execBrSrl h f s
  | .brSra h f => Sys2Proof.Machine.execBrSra h f s
  | .brCeq h f => Sys2Proof.Machine.execBrCeq h f s
  | .brClt h f => Sys2Proof.Machine.execBrClt h f s
  | .brCle h f => Sys2Proof.Machine.execBrCle h f s
  | .brSel h f => Sys2Proof.Machine.execBrSel h f s
  | .brMov h f => Sys2Proof.Machine.execBrMov h f s
  | .brBcast h f => Sys2Proof.Machine.execBrBcast h f s
  | .brPerm h f => Sys2Proof.Machine.execBrPerm h f s
  | .brToa h f => Sys2Proof.Machine.execBrToa h f s
  | .brFroma h f => Sys2Proof.Machine.execBrFroma h f s
  | .brCvtn h f => Sys2Proof.Machine.execBrCvtn h f s
  | .brCvtw h f => Sys2Proof.Machine.execBrCvtw h f s
  | .brItof h f => Sys2Proof.Machine.execBrItof h f s
  | .brFtoi h f => Sys2Proof.Machine.execBrFtoi h f s
  | .brMxs h f => Sys2Proof.Machine.execBrMxs h f s
  | .brMxq h f => Sys2Proof.Machine.execBrMxq h f s
  | .brGath h f => Sys2Proof.Machine.execBrGath h f s
  | .brScat h f => Sys2Proof.Machine.execBrScat h f s
  | .brLd h f => Sys2Proof.Machine.execBrLd h f s
  | .brSt h f => Sys2Proof.Machine.execBrSt h f s
  | .brAddi h f => Sys2Proof.Machine.execBrAddi h f s
  | .brMuli h f => Sys2Proof.Machine.execBrMuli h f s
  | .brMini h f => Sys2Proof.Machine.execBrMini h f s
  | .brMaxi h f => Sys2Proof.Machine.execBrMaxi h f s
  | .brMovi h f => Sys2Proof.Machine.execBrMovi h f s
  | .brSeed h f => Sys2Proof.Machine.execBrSeed h f s
  | .brRdfl h f => Sys2Proof.Machine.execBrRdfl h f s
  | .rsSum h f => Sys2Proof.Machine.execRsSum h f s
  | .rsMax h f => Sys2Proof.Machine.execRsMax h f s
  | .rsMin h f => Sys2Proof.Machine.execRsMin h f s
  | .rsArgmax h f => Sys2Proof.Machine.execRsArgmax h f s
  | .rsScan h f => Sys2Proof.Machine.execRsScan h f s
  | .rsDot h f => Sys2Proof.Machine.execRsDot h f s
  | .smSoftmax h f => Sys2Proof.Machine.execSmSoftmax h f s
  | .smLse h f => Sys2Proof.Machine.execSmLse h f s
  | .brOpComplete c r => Sys2Proof.Machine.execBrOpComplete c r s
  | .spLdb h f => Sys2Proof.Machine.execSpLdb h f s
  | .spMma h f => Sys2Proof.Machine.execSpMma h f s
  | .spKadd h f => Sys2Proof.Machine.execSpKadd h f s
  | .spDrain h f => Sys2Proof.Machine.execSpDrain h f s
  | .spCmp h f => Sys2Proof.Machine.execSpCmp h f s
  | .spSig h f => Sys2Proof.Machine.execSpSig h f s
  | .spSeed h f => Sys2Proof.Machine.execSpSeed h f s
  | .spRdfl h f => Sys2Proof.Machine.execSpRdfl h f s
  | .spClr h f => Sys2Proof.Machine.execSpClr h f s
  | .spRepairPass r => Sys2Proof.Machine.execSpRepairPass r s
  | .spOpComplete c r => Sys2Proof.Machine.execSpOpComplete c r s
  | .nbPool h f => Sys2Proof.Machine.execNbPool h f s
  | .nbRdfl h f => Sys2Proof.Machine.execNbRdfl h f s
  | .nbRequestServe k r => Sys2Proof.Machine.execNbRequestServe k r s
  | .nbPartialReturn c r => Sys2Proof.Machine.execNbPartialReturn c r s
  | .lgGather h f => Sys2Proof.Machine.execLgGather h f s
  | .hmPin h f => Sys2Proof.Machine.execHmPin h f s
  | .hmUnpin h f => Sys2Proof.Machine.execHmUnpin h f s
  | .hmUnpinall h f => Sys2Proof.Machine.execHmUnpinall h f s
  | .hmLook h f => Sys2Proof.Machine.execHmLook h f s
  | .hmCopyComplete r => Sys2Proof.Machine.execHmCopyComplete r s
  | .hmRateTick => Sys2Proof.Machine.execHmRateTick s
  | .loadWindowEnd => Sys2Proof.Machine.execLoadWindowEnd s
  | .nbHotareaWrite k v => Sys2Proof.Machine.execNbHotareaWrite k v s
  | .hmCfgWrite v => Sys2Proof.Machine.execHmCfgWrite v s
  | .hmPinqWrite j v => Sys2Proof.Machine.execHmPinqWrite j v s
  | .tbUpdate h f => Sys2Proof.Machine.execTbUpdate h f s
  | .nbUpdateAdmit k => Sys2Proof.Machine.execNbUpdateAdmit k s
  | .nbUpdateAck c n k => Sys2Proof.Machine.execNbUpdateAck c n k s
  | .tbBuild h f => Sys2Proof.Machine.execTbBuild h f s
  | .nbBuildComplete c n => Sys2Proof.Machine.execNbBuildComplete c n s
  | .tbPublish h f => Sys2Proof.Machine.execTbPublish h f s
  | .tbEdaddr h f => Sys2Proof.Machine.execTbEdaddr h f s
  | .wideHoldExpire j t => Sys2Proof.Machine.execWideHoldExpire j t s
  | .nbTbdirWrite j v => Sys2Proof.Machine.execNbTbdirWrite j v s
  | .dxSpawn h f => Sys2Proof.Machine.execDxSpawn h f s
  | .dxSleep h f => Sys2Proof.Machine.execDxSleep h f s
  | .dxStepend h f => Sys2Proof.Machine.execDxStepend h f s
  | .dxRde h f => Sys2Proof.Machine.execDxRde h f s
  | .stependRequest j => Sys2Proof.Machine.execStependRequest j s
  | .devqForward c => Sys2Proof.Machine.execDevqForward c s
  | .spillRefill => Sys2Proof.Machine.execSpillRefill s
  | .taskDispatch c => Sys2Proof.Machine.execTaskDispatch c s
  | .preempt c => Sys2Proof.Machine.execPreempt c s
  | .ownerSwap c e => Sys2Proof.Machine.execOwnerSwap c e s
  | .delayTick => Sys2Proof.Machine.execDelayTick s
  | .energyUpdate e => Sys2Proof.Machine.execEnergyUpdate e s
  | .foldSwap g => Sys2Proof.Machine.execFoldSwap g s
  | .dxPolicyWrite v => Sys2Proof.Machine.execDxPolicyWrite v s
  | .dxSpillWrite v => Sys2Proof.Machine.execDxSpillWrite v s
  | .dxOwnareaWrite j v => Sys2Proof.Machine.execDxOwnareaWrite j v s
  | .mkSig h f => Sys2Proof.Machine.execMkSig h f s
  | .mkWait h f => Sys2Proof.Machine.execMkWait h f s
  | .mkWaitdec h f => Sys2Proof.Machine.execMkWaitdec h f s
  | .mkTest h f => Sys2Proof.Machine.execMkTest h f s
  | .mkSet h f => Sys2Proof.Machine.execMkSet h f s
  | .markUpdate n => Sys2Proof.Machine.execMarkUpdate n s
  | .waitHang h => Sys2Proof.Machine.execWaitHang h s
  | .mkMarkWrite n half v => Sys2Proof.Machine.execMkMarkWrite n half v s
  | .mkMapWrite j k v => Sys2Proof.Machine.execMkMapWrite j k v s
  | .ccDinv c => Sys2Proof.Machine.execCcDinv c s
  | .ccIinv c => Sys2Proof.Machine.execCcIinv c s
  | .ccClean c => Sys2Proof.Machine.execCcClean c s
  | .ccFlush c => Sys2Proof.Machine.execCcFlush c s
  | .ccDen c on => Sys2Proof.Machine.execCcDen c on s
  | .ccIen c on => Sys2Proof.Machine.execCcIen c on s
  | .ccCmdComplete c => Sys2Proof.Machine.execCcCmdComplete c s
  | .ccDrainComplete c => Sys2Proof.Machine.execCcDrainComplete c s
  | .ccCfgWrite c v => Sys2Proof.Machine.execCcCfgWrite c v s
  | .cacheFillComplete r => Sys2Proof.Machine.execCacheFillComplete r s
  | .evbWriteAck c => Sys2Proof.Machine.execEvbWriteAck c s
  | .cacheScrub c r => Sys2Proof.Machine.execCacheScrub c r s
  | .patrolInkwell k e => Sys2Proof.Machine.execPatrolInkwell k e s
  | .patrolReservoir x0 x1 x2 => Sys2Proof.Machine.execPatrolReservoir x0 x1 x2 s
  | .pprComplete x0 x1 x2 => Sys2Proof.Machine.execPprComplete x0 x1 x2 s
  | .flitReceive f => Sys2Proof.Machine.execFlitReceive f s
  | .nakTimeout => Sys2Proof.Machine.execNakTimeout s
  | .rdShr tag line => Sys2Proof.Machine.execRdShr tag line s
  | .rdOwn tag line => Sys2Proof.Machine.execRdOwn tag line s
  | .rdCur tag line => Sys2Proof.Machine.execRdCur tag line s
  | .wrLine tag line d pmask => Sys2Proof.Machine.execWrLine tag line d pmask s
  | .wrPtl tag line be d pmask => Sys2Proof.Machine.execWrPtl tag line be d pmask s
  | .wbDirty tag line d pmask => Sys2Proof.Machine.execWbDirty tag line d pmask s
  | .evictClean tag line => Sys2Proof.Machine.execEvictClean tag line s
  | .rgRd tag line off wide => Sys2Proof.Machine.execRgRd tag line off wide s
  | .rgWr tag line off wide v => Sys2Proof.Machine.execRgWr tag line off wide v s
  | .snpInv tag line => Sys2Proof.Machine.execSnpInv tag line s
  | .snpShr tag line => Sys2Proof.Machine.execSnpShr tag line s
  | .data tag st d pmask => Sys2Proof.Machine.execData tag st d pmask s
  | .cmp tag => Sys2Proof.Machine.execCmp tag s
  | .srsp tag line st => Sys2Proof.Machine.execSrsp tag line st s
  | .srspData tag line st d pmask => Sys2Proof.Machine.execSrspData tag line st d pmask s
  | .err tag code => Sys2Proof.Machine.execErr tag code s
  | .doorbell r tail => Sys2Proof.Machine.execDoorbell r tail s
  | .pageDone id st => Sys2Proof.Machine.execPageDone id st s
  | .snoopTimeout tag => Sys2Proof.Machine.execSnoopTimeout tag s
  | .lanineRequestTimeout tag => Sys2Proof.Machine.execLanineRequestTimeout tag s
  | .laneErrorWindow rx tx => Sys2Proof.Machine.execLaneErrorWindow rx tx s
  | .lanineRetrain => Sys2Proof.Machine.execLanineRetrain s
  | .lanineRetrainEnd r => Sys2Proof.Machine.execLanineRetrainEnd r s
  | .lanineLinkDown => Sys2Proof.Machine.execLanineLinkDown s
  | .lanineLinkUp r => Sys2Proof.Machine.execLanineLinkUp r s
  | .intrHoldoffExpire r => Sys2Proof.Machine.execIntrHoldoffExpire r s
  | .lnPgreqSend v => Sys2Proof.Machine.execLnPgreqSend v s
  | .lnPgresPop => Sys2Proof.Machine.execLnPgresPop s
  | .pageDoneTimeout id => Sys2Proof.Machine.execPageDoneTimeout id s
  | .carbonFrameReceive f => Sys2Proof.Machine.execCarbonFrameReceive f s
  | .carbonNakTimeout => Sys2Proof.Machine.execCarbonNakTimeout s
  | .carbonLinkUp => Sys2Proof.Machine.execCarbonLinkUp s
  | .carbonLinkDown => Sys2Proof.Machine.execCarbonLinkDown s
  | .pair p => Sys2Proof.Machine.execPair p s
  | .commit r e => Sys2Proof.Machine.execCommit r e s
  | .commitAck csn => Sys2Proof.Machine.execCommitAck csn s
  | .delta j d => Sys2Proof.Machine.execDelta j d s
  | .build j t step segs => Sys2Proof.Machine.execBuild j t step segs s
  | .folioData n off units => Sys2Proof.Machine.execFolioData n off units s
  | .seal x0 => Sys2Proof.Machine.execSeal x0 s
  | .sealAck n => Sys2Proof.Machine.execSealAck n s
  | .rollback j n => Sys2Proof.Machine.execRollback j n s
  | .logFull j => Sys2Proof.Machine.execLogFull j s
  | .depart cause => Sys2Proof.Machine.execDepart cause s
  | .resync pa d => Sys2Proof.Machine.execResync pa d s
  | .transfer x => Sys2Proof.Machine.execTransfer x s
  | .xferAck n st => Sys2Proof.Machine.execXferAck n st s
  | .firmware d => Sys2Proof.Machine.execFirmware d s
  | .leaseHalfExpire => Sys2Proof.Machine.execLeaseHalfExpire s
  | .leaseExpire => Sys2Proof.Machine.execLeaseExpire s
  | .takeoverRestoreEnd => Sys2Proof.Machine.execTakeoverRestoreEnd s
  | .pairingTimeout => Sys2Proof.Machine.execPairingTimeout s
  | .resyncCopyEnd => Sys2Proof.Machine.execResyncCopyEnd s
  | .folioIntervalExpire => Sys2Proof.Machine.execFolioIntervalExpire s
  | .folioQuiesceEnd => Sys2Proof.Machine.execFolioQuiesceEnd s
  | .folioCaptureEnd changed stopUs => Sys2Proof.Machine.execFolioCaptureEnd changed stopUs s
  | .cbOrderFolio => Sys2Proof.Machine.execCbOrderFolio s
  | .cbOrderTakeover => Sys2Proof.Machine.execCbOrderTakeover s
  | .cbOrderDepart => Sys2Proof.Machine.execCbOrderDepart s
  | .cbCfgWrite v => Sys2Proof.Machine.execCbCfgWrite v s
  | .cbFoliocfgWrite v => Sys2Proof.Machine.execCbFoliocfgWrite v s
  | .publicationStart j => Sys2Proof.Machine.execPublicationStart j s
  | .ethFrameReceive p k => Sys2Proof.Machine.execEthFrameReceive p k s
  | .rdmaWrite q m => Sys2Proof.Machine.execRdmaWrite q m s
  | .rdmaWriteImm q m imm => Sys2Proof.Machine.execRdmaWriteImm q m imm s
  | .rdmaRead q m => Sys2Proof.Machine.execRdmaRead q m s
  | .rdmaAck q a => Sys2Proof.Machine.execRdmaAck q a s
  | .rdmaAckTimeout q => Sys2Proof.Machine.execRdmaAckTimeout q s
  | .qpDoorbell q v => Sys2Proof.Machine.execQpDoorbell q v s
  | .cnpReceive q => Sys2Proof.Machine.execCnpReceive q s
  | .ccTimerExpire q => Sys2Proof.Machine.execCcTimerExpire q s
  | .markDropped q handle psn => Sys2Proof.Machine.execMarkDropped q handle psn s
  | .sliceReq q r => Sys2Proof.Machine.execSliceReq q r s
  | .sliceRsp q ed st => Sys2Proof.Machine.execSliceRsp q ed st s
  | .ethFolioReq j src => Sys2Proof.Machine.execEthFolioReq j src s
  | .folioAt j step => Sys2Proof.Machine.execFolioAt j step s
  | .sealed j rank n step => Sys2Proof.Machine.execSealed j rank n step s
  | .restart j rank n => Sys2Proof.Machine.execRestart j rank n s
  | .restartAck j rank n => Sys2Proof.Machine.execRestartAck j rank n s
  | .ingestDatagram r seq len rsv d => Sys2Proof.Machine.execIngestDatagram r seq len rsv d s
  | .blotterReport r => Sys2Proof.Machine.execBlotterReport r s
  | .heartbeatCheck missed => Sys2Proof.Machine.execHeartbeatCheck missed s
  | .fillComplete ok => Sys2Proof.Machine.execFillComplete ok s
  | .imageRestoreComplete => Sys2Proof.Machine.execImageRestoreComplete s
  | .blOrderFence v => Sys2Proof.Machine.execBlOrderFence v s
  | .blIwhwmWrite v => Sys2Proof.Machine.execBlIwhwmWrite v s
  | .powerSample p => Sys2Proof.Machine.execPowerSample p s
  | .tempSample t dom => Sys2Proof.Machine.execTempSample t dom s
  | .phaseSpareIn ph => Sys2Proof.Machine.execPhaseSpareIn ph s
  | .iwsaveComplete => Sys2Proof.Machine.execIwsaveComplete s
  | .warmReset => Sys2Proof.Machine.execWarmReset s
  | .pwShedthrWrite v => Sys2Proof.Machine.execPwShedthrWrite v s
  | .ferrulePowerOn => Sys2Proof.Machine.execFerrulePowerOn s
  | .powerUp => Sys2Proof.Machine.execPowerUp s
  | .selfTestComplete r => Sys2Proof.Machine.execSelfTestComplete r s
  | .bootImageLoaded => Sys2Proof.Machine.execBootImageLoaded s
  | .ringEntryConsume r => Sys2Proof.Machine.execRingEntryConsume r s
  | .identify e => Sys2Proof.Machine.execIdentify e s
  | .ringCreate e pair cls sqlog cqlog => Sys2Proof.Machine.execRingCreate e pair cls sqlog cqlog s
  | .ringDelete e pair => Sys2Proof.Machine.execRingDelete e pair s
  | .jobLoad e img => Sys2Proof.Machine.execJobLoad e img s
  | .jobUnload e => Sys2Proof.Machine.execJobUnload e s
  | .jobStop e => Sys2Proof.Machine.execJobStop e s
  | .taskSubmit e d => Sys2Proof.Machine.execTaskSubmit e d s
  | .publish e buf => Sys2Proof.Machine.execPublish e buf s
  | .genHold e => Sys2Proof.Machine.execGenHold e s
  | .genRelease e gen => Sys2Proof.Machine.execGenRelease e gen s
  | .stateRead e t first rows buf => Sys2Proof.Machine.execStateRead e t first rows buf s
  | .configWrite e off v => Sys2Proof.Machine.execConfigWrite e off v s
  | .ledgerWrite e entry val sig => Sys2Proof.Machine.execLedgerWrite e entry val sig s
  | .ledgerRead e entry buf => Sys2Proof.Machine.execLedgerRead e entry buf s
  | .logRead e nonce buf => Sys2Proof.Machine.execLogRead e nonce buf s
  | .attest e nonce buf => Sys2Proof.Machine.execAttest e nonce buf s
  | .qpConnect e q ctx => Sys2Proof.Machine.execQpConnect e q ctx s
  | .qpReset e q => Sys2Proof.Machine.execQpReset e q s
  | .ingestCfg e r v mk => Sys2Proof.Machine.execIngestCfg e r v mk s
  | .fwStage e slot img => Sys2Proof.Machine.execFwStage e slot img s
  | .fwActivate e slot => Sys2Proof.Machine.execFwActivate e slot s
  | .debugAttach e => Sys2Proof.Machine.execDebugAttach e s
  | .debugDetach e => Sys2Proof.Machine.execDebugDetach e s
  | .debugHandSet e handle v => Sys2Proof.Machine.execDebugHandSet e handle v s
  | .folioReq e => Sys2Proof.Machine.execFolioReq e s
  | .roleOrderDepart e => Sys2Proof.Machine.execRoleOrderDepart e s
  | .roleOrderTakeover e => Sys2Proof.Machine.execRoleOrderTakeover e s
  | .fwWatchdogExpire p => Sys2Proof.Machine.execFwWatchdogExpire p s
  | .fwRestartComplete => Sys2Proof.Machine.execFwRestartComplete s
  | .mctpPacket p => Sys2Proof.Machine.execMctpPacket p s
  | .mctpReassemblyTimeout tag => Sys2Proof.Machine.execMctpReassemblyTimeout tag s
  | .regRead off => Sys2Proof.Machine.execRegRead off s
  | .regWrite off v => Sys2Proof.Machine.execRegWrite off v s
  | .mgmtLedgerRead entry => Sys2Proof.Machine.execMgmtLedgerRead entry s
  | .mgmtLedgerWrite entry val sig => Sys2Proof.Machine.execMgmtLedgerWrite entry val sig s
  | .mgmtLogRead nonce => Sys2Proof.Machine.execMgmtLogRead nonce s
  | .blogRead first count => Sys2Proof.Machine.execBlogRead first count s
  | .entdaa addr => Sys2Proof.Machine.execEntdaa addr s
  | .setdasa st addr => Sys2Proof.Machine.execSetdasa st addr s
  | .rstdaa => Sys2Proof.Machine.execRstdaa s
  | .enec => Sys2Proof.Machine.execEnec s
  | .disec => Sys2Proof.Machine.execDisec s
  | .getpid => Sys2Proof.Machine.execGetpid s
  | .getbcr => Sys2Proof.Machine.execGetbcr s
  | .getdcr => Sys2Proof.Machine.execGetdcr s
  | .getmwl => Sys2Proof.Machine.execGetmwl s
  | .getmrl => Sys2Proof.Machine.execGetmrl s
  | .getstatus => Sys2Proof.Machine.execGetstatus s
  | .setEndpointId eid => Sys2Proof.Machine.execSetEndpointId eid s
  | .getEndpointId => Sys2Proof.Machine.execGetEndpointId s
  | .getEndpointUuid => Sys2Proof.Machine.execGetEndpointUuid s
  | .getMctpVersionSupport => Sys2Proof.Machine.execGetMctpVersionSupport s
  | .getMessageTypeSupport => Sys2Proof.Machine.execGetMessageTypeSupport s
  | .getVendorMessageSupport => Sys2Proof.Machine.execGetVendorMessageSupport s
  | .gettid => Sys2Proof.Machine.execGettid s
  | .settid tid => Sys2Proof.Machine.execSettid tid s
  | .getpldmversion ty => Sys2Proof.Machine.execGetpldmversion ty s
  | .getpldmtypes => Sys2Proof.Machine.execGetpldmtypes s
  | .getpldmcommands ty => Sys2Proof.Machine.execGetpldmcommands ty s
  | .getpdrrepositoryinfo => Sys2Proof.Machine.execGetpdrrepositoryinfo s
  | .getpdr rec => Sys2Proof.Machine.execGetpdr rec s
  | .getsensorreading id => Sys2Proof.Machine.execGetsensorreading id s
  | .getstatesensorreadings id => Sys2Proof.Machine.execGetstatesensorreadings id s
  | .requestupdate maxXfer => Sys2Proof.Machine.execRequestupdate maxXfer s
  | .requestfirmwaredata off last => Sys2Proof.Machine.execRequestfirmwaredata off last s
  | .activatefirmware => Sys2Proof.Machine.execActivatefirmware s
  | .cancelupdate => Sys2Proof.Machine.execCancelupdate s
  | .updateDataTimeout => Sys2Proof.Machine.execUpdateDataTimeout s
  | .getVersion => Sys2Proof.Machine.execGetVersion s
  | .getCapabilities => Sys2Proof.Machine.execGetCapabilities s
  | .negotiateAlgorithms => Sys2Proof.Machine.execNegotiateAlgorithms s
  | .getDigests => Sys2Proof.Machine.execGetDigests s
  | .getCertificate copy1Ok => Sys2Proof.Machine.execGetCertificate copy1Ok s
  | .getMeasurements nonce => Sys2Proof.Machine.execGetMeasurements nonce s
  | .feOrderWarm => Sys2Proof.Machine.execFeOrderWarm s
  | .feAlertClear v => Sys2Proof.Machine.execFeAlertClear v s
  | .feAlertenWrite v => Sys2Proof.Machine.execFeAlertenWrite v s
  | .resetNAssert => Sys2Proof.Machine.execResetNAssert s
  | .resetNRelease => Sys2Proof.Machine.execResetNRelease s
  | .throtNChange asserted => Sys2Proof.Machine.execThrotNChange asserted s
  | .twinHbChange asserted => Sys2Proof.Machine.execTwinHbChange asserted s
  | .chatterDeclare p => Sys2Proof.Machine.execChatterDeclare p s
  | .chatterClear p asserted => Sys2Proof.Machine.execChatterClear p asserted s
  | .refclkLoss => Sys2Proof.Machine.execRefclkLoss s
  | .registerWrite off size v => Sys2Proof.Machine.execRegisterWrite off size v s
  | .ethPortLinkChange p st fault => Sys2Proof.Machine.execEthPortLinkChange p st fault s
  | .refclkReturn => Sys2Proof.Machine.execRefclkReturn s
  | .carbonRetrainEnd r => Sys2Proof.Machine.execCarbonRetrainEnd r s
  | .standbyBuildComplete j t => Sys2Proof.Machine.execStandbyBuildComplete j t s
  | .lgTileComplete c n r => Sys2Proof.Machine.execLgTileComplete c n r s
  | .carbonFrameSend => Sys2Proof.Machine.execCarbonFrameSend s
  | .atomicComplete h => Sys2Proof.Machine.execAtomicComplete h s
  | .domainSwitchComplete d => Sys2Proof.Machine.execDomainSwitchComplete d s
  | .foldSwapComplete g => Sys2Proof.Machine.execFoldSwapComplete g s

end Sys2Proof.Machine
end

