-- ==== Sys2Proof/Machine/Step.lean ====
section
/-! DEFINITION. One step of the block: the command that has waited longest has its effect. -/

namespace Sys2Proof.Machine

/-- Take the command at the front of the queue and let it have its effect with the rest of the queue; on an empty queue the block
idles (DESIGN CHOICE, log 1). -/
def step (s : State) : Host.Outcome State Fault Refusal :=
  match s.pending with
  | [] => .next s
  | c :: r => Sys2Proof.Machine.exec c { s with pending := r }

/-- The state with the command that a word of the operation table spells at the front of its queue. -/
def State.withFetchWord (s : State) (nbits w : Nat) : State :=
  match Sys2Proof.decodeTableWord nbits w with
  | some c => { s with pending := c :: s.pending }
  | none => s

end Sys2Proof.Machine
end

