-- ==== Sys2Proof/Machine/Issued.lean ====
section
/-! DEFINITION. An instruction at its issue as data: its word, what R75 asks of the word, and what holds it back (R71 to R77). The
statements speak of instructions through it. -/

namespace Sys2Proof.Machine

/-- An instruction at its issue: the context, its word, whether R75 allows the word, its predicate's mask register (0 where the
mask field is none), and the A and M registers that it names. -/
structure Issued where
  h : Hart
  word : Word
  legal : Bool
  mask : Nat
  as : List Nat
  ms : List Nat

/-- Group 0x01 (R78). -/
def intIss (op : Nat) (two : Bool) (h : Hart) (f : FormT) : Issued := ⟨h, wordT 0x01 op f, intLegal f two, f.mask.toNat, intRegs f, []⟩
/-- Group 0x02 (R80). -/
def immIss (op : Nat) (shift noSrc : Bool) (h : Hart) (f : FormK) : Issued :=
  ⟨h, wordK 0x02 op f, immLegal f shift noSrc, f.mask.toNat, [f.dst.toNat, f.src.toNat], []⟩
/-- Group 0x03 (R81). -/
def fpIss (op : Nat) (two : Bool) (h : Hart) (f : FormT) : Issued := ⟨h, wordT 0x03 op f, fpLegal f two, f.mask.toNat, intRegs f, []⟩
/-- Compare branches of group 0x04 (R85). -/
def cmpIss (op : Nat) (h : Hart) (f : FormK) : Issued :=
  ⟨h, wordK 0x04 op f, cmpLegal f, f.mask.toNat, [f.dst.toNat, f.src.toNat], []⟩
/-- Branches on a mask register (R85). -/
def maskBrIss (op : Nat) (h : Hart) (f : FormK) : Issued := ⟨h, wordK 0x04 op f, maskBrLegal f, f.mask.toNat, [], [f.src.toNat]⟩
/-- Loads and stores of group 0x05 (R87). -/
def memIss (op : Nat) (h : Hart) (f : FormK) : Issued :=
  ⟨h, wordK 0x05 op f, isA f.dst && isA f.src && isZ f.ctl, f.mask.toNat, [f.dst.toNat, f.src.toNat], []⟩
/-- Descriptor slots (R87). -/
def slotIss (op : Nat) (h : Hart) (f : FormK) : Issued :=
  ⟨h, wordK 0x05 op f, isM f.dst && isA f.src && isZ f.ctl, f.mask.toNat, [f.src.toNat], []⟩
/-- Lines (R87). -/
def lineIss (op : Nat) (h : Hart) (f : FormK) : Issued :=
  ⟨h, wordK 0x05 op f, isZ f.dst && isA f.src && isZ f.ctl, f.mask.toNat, [f.src.toNat], []⟩
/-- Atomics (R92). -/
def amoIss (op : Nat) (h : Hart) (f : FormT) : Issued := ⟨h, wordT 0x06 op f, amoLegal f, f.mask.toNat, intRegs f, []⟩
/-- Mask instructions (R94). -/
def maskIss (op : Nat) (k : MForm) (h : Hart) (f : FormT) : Issued :=
  ⟨h, wordT 0x07 op f, maskLegal k f, f.mask.toNat, maskAs k f, maskMs k f⟩
/-- Stroke streams (R114). -/
def skStreamIss (op : Nat) (kind : SkKind) (h : Hart) (f : FormD) : Issued :=
  ⟨h, wordD 0x12 op f, decide (f.areg.toNat < 32) && sigOk f && isZ f.imm && decide (f.ctl.toNat ≤ (if kind = .copy then 0 else 1)),
    f.mask.toNat, [f.areg.toNat], []⟩
/-- Lane arithmetic (R178 to R185). -/
def brArithIss (op : Nat) (tys : List Nat) (two rounds : Bool) (h : Hart) (f : FormT) : Issued :=
  ⟨h, wordT 0x0C op f, onlyBits f.ext 0xFF000 && tys.contains (brTy f) && (two || isZ f.src2) &&
    decide (brRm f ≤ (if rounds then 3 else 0)), 0, [], [f.mask.toNat]⟩
/-- Reductions to an A register (R193). -/
def brReduceIss (op tyMax : Nat) (two : Bool) (h : Hart) (f : FormT) : Issued :=
  ⟨h, wordT 0x0F op f, onlyBits f.ext 0x8F000 && decide (brTy f ≤ tyMax) && isA f.dst && (two || isZ f.src2), 0, [f.dst.toNat],
    [f.mask.toNat]⟩

/-- The instruction that a command issues; none for a command that is no instruction word. -/
def issued : Instr → Option Issued
  | .add h f => some (intIss 0x00 true h f)
  | .sub h f => some (intIss 0x01 true h f)
  | .and h f => some (intIss 0x02 true h f)
  | .or h f => some (intIss 0x03 true h f)
  | .xor h f => some (intIss 0x04 true h f)
  | .andn h f => some (intIss 0x05 true h f)
  | .sll h f => some (intIss 0x06 true h f)
  | .srl h f => some (intIss 0x07 true h f)
  | .sra h f => some (intIss 0x08 true h f)
  | .slt h f => some (intIss 0x09 true h f)
  | .sltu h f => some (intIss 0x0A true h f)
  | .min h f => some (intIss 0x0B true h f)
  | .max h f => some (intIss 0x0C true h f)
  | .minu h f => some (intIss 0x0D true h f)
  | .maxu h f => some (intIss 0x0E true h f)
  | .mul h f => some (intIss 0x10 true h f)
  | .mulh h f => some (intIss 0x11 true h f)
  | .mulhu h f => some (intIss 0x12 true h f)
  | .div h f => some (intIss 0x13 true h f)
  | .divu h f => some (intIss 0x14 true h f)
  | .rem h f => some (intIss 0x15 true h f)
  | .remu h f => some (intIss 0x16 true h f)
  | .clz h f => some (intIss 0x18 false h f)
  | .ctz h f => some (intIss 0x19 false h f)
  | .popc h f => some (intIss 0x1A false h f)
  | .addi h f => some (immIss 0x00 false false h f)
  | .andi h f => some (immIss 0x02 false false h f)
  | .ori h f => some (immIss 0x03 false false h f)
  | .xori h f => some (immIss 0x04 false false h f)
  | .slli h f => some (immIss 0x06 true false h f)
  | .srli h f => some (immIss 0x07 true false h f)
  | .srai h f => some (immIss 0x08 true false h f)
  | .slti h f => some (immIss 0x09 false false h f)
  | .sltiu h f => some (immIss 0x0A false false h f)
  | .movi h f => some (immIss 0x10 false true h f)
  | .movhi h f => some (immIss 0x11 false false h f)
  | .auipc h f => some (immIss 0x12 false true h f)
  | .fadd h f => some (fpIss 0x00 true h f)
  | .fsub h f => some (fpIss 0x01 true h f)
  | .fmul h f => some (fpIss 0x02 true h f)
  | .fdiv h f => some (fpIss 0x03 true h f)
  | .fsqrt h f => some (fpIss 0x04 false h f)
  | .fma h f => some (fpIss 0x05 true h f)
  | .fmin h f => some (fpIss 0x06 true h f)
  | .fmax h f => some (fpIss 0x07 true h f)
  | .feq h f => some (fpIss 0x08 true h f)
  | .flt h f => some (fpIss 0x09 true h f)
  | .fle h f => some (fpIss 0x0A true h f)
  | .fcvtI h f => some (fpIss 0x0C false h f)
  | .fcvtF h f => some (fpIss 0x0D false h f)
  | .fcvtP h f => some (fpIss 0x0E false h f)
  | .fclass h f => some (fpIss 0x0F false h f)
  | .beq h f => some (cmpIss 0x00 h f)
  | .bne h f => some (cmpIss 0x01 h f)
  | .blt h f => some (cmpIss 0x02 h f)
  | .bge h f => some (cmpIss 0x03 h f)
  | .bltu h f => some (cmpIss 0x04 h f)
  | .bgeu h f => some (cmpIss 0x05 h f)
  | .bmany h f => some (maskBrIss 0x08 h f)
  | .bmnone h f => some (maskBrIss 0x09 h f)
  | .jal h f => some (⟨h, wordK 0x04 0x10 f, isA f.dst && isZ f.src && isZ f.ctl && brImmOk f, f.mask.toNat, [f.dst.toNat], []⟩)
  | .jalr h f => some (⟨h, wordK 0x04 0x11 f, isA f.dst && isA f.src && isZ f.ctl && brImmOk f, f.mask.toNat, [f.dst.toNat, f.src.toNat], []⟩)
  | .ldB h f => some (memIss 0x00 h f)
  | .ldH h f => some (memIss 0x01 h f)
  | .ldW h f => some (memIss 0x02 h f)
  | .ldD h f => some (memIss 0x03 h f)
  | .ldBu h f => some (memIss 0x04 h f)
  | .ldHu h f => some (memIss 0x05 h f)
  | .ldWu h f => some (memIss 0x06 h f)
  | .stB h f => some (memIss 0x08 h f)
  | .stH h f => some (memIss 0x09 h f)
  | .stW h f => some (memIss 0x0A h f)
  | .stD h f => some (memIss 0x0B h f)
  | .dsLd h f => some (slotIss 0x10 h f)
  | .dsSt h f => some (slotIss 0x11 h f)
  | .dsClr h f => some (⟨h, wordK 0x05 0x12 f, isM f.dst && isZ f.src && isZ f.imm && isZ f.ctl, f.mask.toNat, [], []⟩)
  | .cZero h f => some (lineIss 0x18 h f)
  | .cClean h f => some (lineIss 0x19 h f)
  | .cFlush h f => some (lineIss 0x1A h f)
  | .iSync h f => some (lineIss 0x1B h f)
  | .fence h f => some (⟨h, wordT 0x06 0x00 f, isZ f.dst && isZ f.src1 && isZ f.src2 && isZ f.ext, f.mask.toNat, [], []⟩)
  | .amoSwap h f => some (amoIss 0x10 h f)
  | .amoAdd h f => some (amoIss 0x11 h f)
  | .amoAnd h f => some (amoIss 0x12 h f)
  | .amoOr h f => some (amoIss 0x13 h f)
  | .amoXor h f => some (amoIss 0x14 h f)
  | .amoMin h f => some (amoIss 0x15 h f)
  | .amoMax h f => some (amoIss 0x16 h f)
  | .amoMinu h f => some (amoIss 0x17 h f)
  | .amoMaxu h f => some (amoIss 0x18 h f)
  | .amoCas h f => some (amoIss 0x19 h f)
  | .mAnd h f => some (maskIss 0x00 .mmm h f)
  | .mOr h f => some (maskIss 0x01 .mmm h f)
  | .mXor h f => some (maskIss 0x02 .mmm h f)
  | .mAndn h f => some (maskIss 0x03 .mmm h f)
  | .mNot h f => some (maskIss 0x04 .mm h f)
  | .mFroma h f => some (maskIss 0x08 .ma h f)
  | .mToa h f => some (maskIss 0x09 .am h f)
  | .mPopc h f => some (maskIss 0x0A .am h f)
  | .mFirst h f => some (maskIss 0x0B .am h f)
  | .nop h f => some (⟨h, wordK 0x08 0x00 f, sysLegal f false false false, f.mask.toNat, [], []⟩)
  | .endTask h f => some (⟨h, wordK 0x08 0x01 f, sysLegal f false false false, f.mask.toNat, [], []⟩)
  | .yield h f => some (⟨h, wordK 0x08 0x02 f, sysLegal f false false false, f.mask.toNat, [], []⟩)
  | .srr h f => some (⟨h, wordK 0x08 0x03 f, sysLegal f true false true && decide (f.imm.toNat < 4096), f.mask.toNat, [f.dst.toNat], []⟩)
  | .srw h f => some (⟨h, wordK 0x08 0x04 f, sysLegal f false true true && decide (f.imm.toNat < 4096), f.mask.toNat, [f.src.toNat], []⟩)
  | .trap h f => some (⟨h, wordK 0x08 0x05 f, sysLegal f false false true && decide (f.imm.toNat < 65536), f.mask.toNat, [], []⟩)
  | .breakI h f => some (⟨h, wordK 0x08 0x06 f, sysLegal f false false false, f.mask.toNat, [], []⟩)
  | .retx h f => some (⟨h, wordK 0x08 0x07 f, sysLegal f false false false, f.mask.toNat, [], []⟩)
  | .waiti h f => some (⟨h, wordK 0x08 0x08 f, sysLegal f false false false, f.mask.toNat, [], []⟩)
  | .tlbInv h f => some (⟨h, wordK 0x08 0x10 f, sysLegal f false true true && decide (f.imm.toNat < 16), f.mask.toNat, [f.src.toNat], []⟩)
  | .tlbInvj h f => some (⟨h, wordK 0x08 0x11 f, sysLegal f false false true && decide (f.imm.toNat < 16), f.mask.toNat, [], []⟩)
  | .skLoad h f => some (skStreamIss 0x00 .load h f)
  | .skStore h f => some (skStreamIss 0x01 .store h f)
  | .skCopy h f => some (skStreamIss 0x02 .copy h f)
  | .skSwap h f => some (⟨h, wordD 0x12 0x08 f, isZ f.slot && isZ f.queue && isZ f.mark && isZ f.areg && isZ f.sig && isZ f.ctl &&
      isZ f.imm, f.mask.toNat, [], []⟩)
  | .skCancel h f => some (⟨h, wordD 0x12 0x10 f, isZ f.slot && isZ f.mark && isZ f.areg && isZ f.sig && isZ f.imm &&
      decide (f.ctl.toNat ≤ 1) && (isZ f.ctl || isZ f.queue), f.mask.toNat, [], []⟩)
  | .qlLdw h f => some (let g := qlFmt f; ⟨h, wordT 0x09 0x00 f, (isZ f.mask && onlyBits f.ext 0x30F000 && decide (g ≤ 10)) && isZ f.dst &&
      isA f.src1 && isA f.src2, 0, [f.src1.toNat, f.src2.toNat], [f.mask.toNat]⟩)
  | .qlMma h f => some (let g := qlFmt f; ⟨h, wordT 0x09 0x01 f, (onlyBits f.ext 0x1FFFFF && qlFmtOk g (qlSemi f)) && isZ f.dst &&
      isA f.src1 && isA f.src2, 0, [f.src1.toNat, f.src2.toNat], [f.mask.toNat]⟩)
  | .qlWb h f => some (let g := qlFmt f; ⟨h, wordT 0x0A 0x00 f, (onlyBits f.ext 0x3FFFF && outFmtOk g) && isZ f.dst && isA f.src1 &&
      isA f.src2, 0, [f.src1.toNat, f.src2.toNat], [f.mask.toNat]⟩)
  | .qlSave h f => some (⟨h, wordT 0x0A 0x01 f, (isZ f.mask && onlyBits f.ext 0xFFF) && isZ f.dst && isA f.src1 && isA f.src2, 0,
      [f.src1.toNat, f.src2.toNat], [f.mask.toNat]⟩)
  | .qlRestore h f => some (⟨h, wordT 0x0A 0x02 f, (isZ f.mask && onlyBits f.ext 0xFFF) && isZ f.dst && isA f.src1 && isA f.src2, 0,
      [f.src1.toNat, f.src2.toNat], [f.mask.toNat]⟩)
  | .qlAccadd h f => some (⟨h, wordT 0x0A 0x03 f, (onlyBits f.ext 0xF0FFF && decide (qlSemi f ≤ 4)) && isZ f.dst && isA f.src1 &&
      isA f.src2, 0, [f.src1.toNat, f.src2.toNat], [f.mask.toNat]⟩)
  | .qlFill h f => some (⟨h, wordT 0x0A 0x04 f, (isZ f.src1 && onlyBits f.ext 0x70FFF && decide (qlSemi f ≤ 4)) && isZ f.dst &&
      isA f.src1 && isA f.src2, 0, [f.src1.toNat, f.src2.toNat], [f.mask.toNat]⟩)
  | .qlSwap h f => some (⟨h, wordT 0x0A 0x08 f, (isZ f.src1 && isZ f.src2 && isZ f.mask && isZ f.ext) && isZ f.dst && isA f.src1 &&
      isA f.src2, 0, [f.src1.toNat, f.src2.toNat], [f.mask.toNat]⟩)
  | .qlSig h f => some (⟨h, wordK 0x0B 0x00 f, isZ f.dst && isZ f.src && isZ f.mask && mkImmOk f, 0, [], []⟩)
  | .qlSeed h f => some (⟨h, wordK 0x0B 0x01 f, isZ f.dst && isA f.src && isZ f.mask && isZ f.ctl && isZ f.imm, 0, [f.src.toNat], []⟩)
  | .qlRdfl h f => some (⟨h, wordK 0x0B 0x02 f, isA f.dst && isZ f.src && isZ f.mask && decide (f.ctl.toNat < 2) && isZ f.imm, 0,
      [f.dst.toNat], []⟩)
  | .brAdd h f => some (brArithIss 0x00 [0, 1, 2, 3, 4] true true h f)
  | .brSub h f => some (brArithIss 0x01 [0, 1, 2, 3, 4] true true h f)
  | .brMul h f => some (brArithIss 0x02 [0, 1, 2, 3, 4] true true h f)
  | .brFma h f => some (brArithIss 0x03 [0, 1, 2, 3, 4] true true h f)
  | .brMin h f => some (brArithIss 0x04 [0, 1, 2, 3, 4] true false h f)
  | .brMax h f => some (brArithIss 0x05 [0, 1, 2, 3, 4] true false h f)
  | .brAbs h f => some (brArithIss 0x06 [0, 1, 3, 4] false false h f)
  | .brNeg h f => some (brArithIss 0x07 [0, 1, 3, 4] false false h f)
  | .brDiv h f => some (brArithIss 0x08 [0, 3, 4] true true h f)
  | .brSqrt h f => some (brArithIss 0x09 [0, 3, 4] false true h f)
  | .brExp2 h f => some (brArithIss 0x0A [0] false false h f)
  | .brLog2 h f => some (brArithIss 0x0B [0] false false h f)
  | .brAnd h f => some (brArithIss 0x10 [1, 2] true false h f)
  | .brOr h f => some (brArithIss 0x11 [1, 2] true false h f)
  | .brXor h f => some (brArithIss 0x12 [1, 2] true false h f)
  | .brSll h f => some (brArithIss 0x13 [1, 2] true false h f)
  | .brSrl h f => some (brArithIss 0x14 [1, 2] true false h f)
  | .brSra h f => some (brArithIss 0x15 [1, 2] true false h f)
  | .brCeq h f => some (⟨h, wordT 0x0C 0x18 f, onlyBits f.ext 0x8F000 && decide (brTy f ≤ 2) && isM f.dst, 0, [], [f.dst.toNat, f.mask.toNat]⟩)
  | .brClt h f => some (⟨h, wordT 0x0C 0x19 f, onlyBits f.ext 0x8F000 && decide (brTy f ≤ 2) && isM f.dst, 0, [], [f.dst.toNat, f.mask.toNat]⟩)
  | .brCle h f => some (⟨h, wordT 0x0C 0x1A f, onlyBits f.ext 0x8F000 && decide (brTy f ≤ 2) && isM f.dst, 0, [], [f.dst.toNat, f.mask.toNat]⟩)
  | .brSel h f => some (⟨h, wordT 0x0C 0x1C f, onlyBits f.ext 0xF000 && decide (brTy f ≤ 4), 0, [], [f.mask.toNat]⟩)
  | .brMov h f => some (⟨h, wordT 0x0D 0x00 f, onlyBits f.ext 0x80000 && (isZ f.src2), 0, [], [f.mask.toNat]⟩)
  | .brBcast h f => some (⟨h, wordT 0x0D 0x01 f, onlyBits f.ext 0x80000 && isA f.src1 && isZ f.src2, 0, [f.src1.toNat], [f.mask.toNat]⟩)
  | .brPerm h f => some (⟨h, wordT 0x0D 0x02 f, onlyBits f.ext 0x80000 && true, 0, [], [f.mask.toNat]⟩)
  | .brToa h f => some (⟨h, wordT 0x0D 0x04 f, onlyBits f.ext 0x8003F && isA f.dst && isZ f.src2, 0, [f.dst.toNat], [f.mask.toNat]⟩)
  | .brFroma h f => some (⟨h, wordT 0x0D 0x05 f, onlyBits f.ext 0x8003F && isA f.src1 && isZ f.src2 && isZ f.mask, 0, [f.src1.toNat], [0]⟩)
  | .brCvtn h f => some (⟨h, wordT 0x0D 0x08 f, onlyBits f.ext 0xF0F00 && (isZ f.src2 && decide (brFmt f ≤ 4) && decide (brRm f ≤ 4)), 0,
      [], [f.mask.toNat]⟩)
  | .brCvtw h f => some (⟨h, wordT 0x0D 0x09 f, onlyBits f.ext 0x80FC0 && (isZ f.src2 && decide (brFmt f ≤ 4) &&
      decide (brPart f ≤ (if brFmt f ≤ 1 then 1 else 3))), 0, [], [f.mask.toNat]⟩)
  | .brItof h f => some (⟨h, wordT 0x0D 0x0A f, onlyBits f.ext 0xFF000 && (isZ f.src2 && (brTy f == 1 || brTy f == 2) &&
      decide (brRm f ≤ 3)), 0, [], [f.mask.toNat]⟩)
  | .brFtoi h f => some (⟨h, wordT 0x0D 0x0B f, onlyBits f.ext 0xFF000 && (isZ f.src2 && (brTy f == 1 || brTy f == 2) &&
      decide (brRm f ≤ 3)), 0, [], [f.mask.toNat]⟩)
  | .brMxs h f => some (⟨h, wordT 0x0D 0x0C f, onlyBits f.ext 0x80F00 && (isZ f.src2 && decide (5 ≤ brFmt f ∧ brFmt f ≤ 9)), 0, [],
      [f.mask.toNat]⟩)
  | .brMxq h f => some (⟨h, wordT 0x0D 0x0D f, onlyBits f.ext 0xF0F00 && (decide (5 ≤ brFmt f ∧ brFmt f ≤ 9) && decide (brRm f ≤ 4)), 0,
      [], [f.mask.toNat]⟩)
  | .brGath h f => some (⟨h, wordT 0x0D 0x10 f, onlyBits f.ext 0x80000 && isA f.src1, 0, [f.src1.toNat], [f.mask.toNat]⟩)
  | .brScat h f => some (⟨h, wordT 0x0D 0x11 f, onlyBits f.ext 0x80000 && isA f.src1, 0, [f.src1.toNat], [f.mask.toNat]⟩)
  | .brLd h f => some (⟨h, wordK 0x0E 0x00 f, (isZ f.mask) && isA f.src && decide (f.ctl.toNat ≤ 8), 0, [f.src.toNat], [f.mask.toNat]⟩)
  | .brSt h f => some (⟨h, wordK 0x0E 0x01 f, (isZ f.mask || isZ f.ctl) && isA f.src && decide (f.ctl.toNat ≤ 8), 0, [f.src.toNat],
      [f.mask.toNat]⟩)
  | .brAddi h f => some (⟨h, wordK 0x0E 0x04 f, true && decide (exf f.ctl 2 0 ≤ 4), 0, [], [f.mask.toNat]⟩)
  | .brMuli h f => some (⟨h, wordK 0x0E 0x05 f, true && decide (exf f.ctl 2 0 ≤ 4), 0, [], [f.mask.toNat]⟩)
  | .brMini h f => some (⟨h, wordK 0x0E 0x06 f, true && decide (exf f.ctl 2 0 ≤ 4), 0, [], [f.mask.toNat]⟩)
  | .brMaxi h f => some (⟨h, wordK 0x0E 0x07 f, true && decide (exf f.ctl 2 0 ≤ 4), 0, [], [f.mask.toNat]⟩)
  | .brMovi h f => some (⟨h, wordK 0x0E 0x08 f, (isZ f.src) && decide (exf f.ctl 2 0 ≤ 4), 0, [], [f.mask.toNat]⟩)
  | .brSeed h f => some (⟨h, wordK 0x0E 0x10 f, isZ f.dst && isA f.src && isZ f.mask && isZ f.ctl && isZ f.imm, 0, [f.src.toNat], []⟩)
  | .brRdfl h f => some (⟨h, wordK 0x0E 0x11 f, isA f.dst && isZ f.src && isZ f.mask && decide (f.ctl.toNat < 2) && isZ f.imm, 0,
      [f.dst.toNat], []⟩)
  | .rsSum h f => some (brReduceIss 0x00 2 false h f)
  | .rsMax h f => some (brReduceIss 0x01 2 false h f)
  | .rsMin h f => some (brReduceIss 0x02 2 false h f)
  | .rsArgmax h f => some (brReduceIss 0x03 2 false h f)
  | .rsScan h f => some (⟨h, wordT 0x0F 0x04 f, onlyBits f.ext 0x8F03F && decide (brTy f ≤ 2) && isZ f.src2 && decide (brLow f < 16), 0,
      [], [f.mask.toNat, brLow f]⟩)
  | .rsDot h f => some (brReduceIss 0x05 0 true h f)
  | .smSoftmax h f => some (⟨h, wordT 0x0F 0x08 f, smOk f && decide (f.dst.toNat + brLow f ≤ 63), 0, [f.src2.toNat], (smMasks f)⟩)
  | .smLse h f => some (⟨h, wordT 0x0F 0x09 f, smOk f && isA f.dst, 0, [f.dst.toNat, f.src2.toNat], (smMasks f)⟩)
  | .spLdb h f => some (let g := spFmt f; ⟨h, wordT 0x10 0x00 f, onlyBits f.ext 0x20F000 && decide (g ≤ 4) && isZ f.dst && isA f.src1 &&
      isA f.src2 && isZ f.mask, 0, [f.src1.toNat, f.src2.toNat], [f.mask.toNat]⟩)
  | .spMma h f => some (let g := spFmt f; let usePred := f.ext.getLsbD 23; let start := f.ext.getLsbD 20; ⟨h, wordT 0x10 0x01 f,
      onlyBits f.ext 0xF7F7FF && decide (g ≤ 4) && spSemiOk g (spSemi f) && isZ f.src2 && isA f.src1 && (if usePred then isA f.dst &&
      start && decide (spSemi f = 0) else isZ f.dst), 0, [f.dst.toNat, f.src1.toNat], [f.mask.toNat]⟩)
  | .spKadd h f => some (let g := spFmt f; ⟨h, wordT 0x10 0x02 f, onlyBits f.ext 0x7F000 && execSpKadd.outFmtOk' g &&
      spSemiOk g (spSemi f) && isZ f.dst && isA f.src1 && isZ f.src2, 0, [f.src1.toNat], [f.mask.toNat]⟩)
  | .spDrain h f => some (let g := spFmt f; ⟨h, wordT 0x10 0x03 f, onlyBits f.ext 0x9FF7FF && (decide (g ≤ 4) || decide (g = 10)) &&
      spSemiOk g (spSemi f) && isA f.dst && isA f.src1 && isA f.src2, 0, [f.dst.toNat, f.src1.toNat, f.src2.toNat], [f.mask.toNat]⟩)
  | .spCmp h f => some (let g := spFmt f; let kind := exf f.ext 25 24; let kdim := 4 * spRow f; ⟨h, wordT 0x10 0x04 f,
      onlyBits f.ext 0x307F7FF && decide (g ≤ 4) && spSemiOk g (spSemi f) && decide (1 ≤ kind) &&
      decide (1 ≤ spRow f ∧ kdim ≤ kdimMax g) && isA f.dst && isA f.src1 && isA f.src2 && isZ f.mask, 0, [f.dst.toNat, f.src1.toNat,
      f.src2.toNat], [f.mask.toNat]⟩)
  | .spSig h f => some (⟨h, wordK 0x11 0x00 f, isZ f.dst && isZ f.src && isZ f.mask && mkImmOk f, 0, [], []⟩)
  | .spSeed h f => some (⟨h, wordK 0x11 0x01 f, isZ f.dst && isA f.src && isZ f.mask && isZ f.ctl && isZ f.imm, 0, [f.src.toNat], []⟩)
  | .spRdfl h f => some (⟨h, wordK 0x11 0x02 f, isA f.dst && isZ f.src && isZ f.mask && decide (f.ctl.toNat < 2) && isZ f.imm, 0,
      [f.dst.toNat], []⟩)
  | .spClr h f => some (let mode := exf f.ctl 1 0; ⟨h, wordK 0x11 0x03 f, isZ f.dst && isZ f.src && isZ f.mask &&
      (if mode = 0 then decide (exf f.ctl 4 2 ≤ 4) && decide (f.imm.toNat < 2 ^ 23) else decide (mode ≤ 2) && decide (exf f.ctl 4 2 = 0) &&
      isZ f.imm), 0, [], []⟩)
  | .nbPool h f => some (⟨h, wordD 0x13 0x00 f, decide (f.areg.toNat < 32) && sigOk f && isZ f.imm && isZ f.ctl, f.mask.toNat,
      [f.areg.toNat], []⟩)
  | .nbRdfl h f => some (⟨h, wordD 0x13 0x11 f, decide (f.areg.toNat < 32) && isZ f.slot && isZ f.queue && isZ f.mark && isZ f.mask &&
      isZ f.sig && isZ f.imm && decide (f.ctl.toNat ≤ 1), f.mask.toNat, [f.areg.toNat], []⟩)
  | .lgGather h f => some (⟨h, wordD 0x14 0x00 f, decide (f.areg.toNat < 32) && sigOk f && isZ f.imm && decide (f.ctl.toNat ≤ 1),
      f.mask.toNat, [f.areg.toNat], []⟩)
  | .hmPin h f => some (⟨h, wordK 0x17 0x00 f, isA f.dst && isA f.src && isZ f.ctl && decide (f.imm.toNat < 32), f.mask.toNat,
      [f.dst.toNat, f.src.toNat], []⟩)
  | .hmUnpin h f => some (⟨h, wordK 0x17 0x01 f, isA f.dst && isA f.src && isZ f.ctl && isZ f.imm, f.mask.toNat, [f.dst.toNat, f.src.toNat], []⟩)
  | .hmUnpinall h f => some (⟨h, wordK 0x17 0x02 f, isA f.dst && isZ f.src && isZ f.ctl && isZ f.imm, f.mask.toNat, [f.dst.toNat], []⟩)
  | .hmLook h f => some (⟨h, wordK 0x17 0x03 f, isA f.dst && isA f.src && isZ f.ctl && isZ f.imm, f.mask.toNat, [f.dst.toNat, f.src.toNat], []⟩)
  | .tbUpdate h f => some (⟨h, wordD 0x16 0x00 f, decide (f.areg.toNat < 32) && sigOk f && isZ f.imm && isZ f.ctl, f.mask.toNat,
      [f.areg.toNat], []⟩)
  | .tbBuild h f => some (⟨h, wordD 0x16 0x01 f, isZ f.slot && isZ f.areg && sigOk f && isZ f.ctl && decide (f.imm.toNat < 4096),
      f.mask.toNat, [], []⟩)
  | .tbPublish h f => some (⟨h, wordD 0x16 0x02 f, isZ f.slot && decide (f.areg.toNat < 32) && sigOk f && isZ f.ctl && isZ f.imm,
      f.mask.toNat, [f.areg.toNat], []⟩)
  | .tbEdaddr h f => some (⟨h, wordD 0x16 0x03 f, decide (f.areg.toNat < 32) && isZ f.slot && isZ f.queue && isZ f.mark && isZ f.mask &&
      isZ f.sig && isZ f.ctl && decide (f.imm.toNat < 4096), f.mask.toNat, [f.areg.toNat], []⟩)
  | .dxSpawn h f => some (let dly := f.ctl.getLsbD 0; ⟨h, wordD 0x18 0x00 f, isZ f.queue && decide (f.areg.toNat < 32) && sigOk f &&
      onlyBits f.ctl 1 && (dly == decide (f.imm ≠ 0)), f.mask.toNat, [f.areg.toNat], []⟩)
  | .dxSleep h f => some (⟨h, wordD 0x18 0x01 f, isZ f.slot && isZ f.queue && isZ f.mark && isZ f.areg && isZ f.sig && isZ f.ctl &&
      decide (f.imm ≠ 0), f.mask.toNat, [], []⟩)
  | .dxStepend h f => some (⟨h, wordD 0x18 0x02 f, isZ f.slot && isZ f.queue && decide (f.areg.toNat < 32) && sigOk f && isZ f.ctl &&
      isZ f.imm, f.mask.toNat, [f.areg.toNat], []⟩)
  | .dxRde h f => some (⟨h, wordD 0x18 0x03 f, isZ f.slot && isZ f.queue && isZ f.mark && decide (f.areg.toNat < 32) && isZ f.sig &&
      isZ f.ctl && isZ f.imm, f.mask.toNat, [f.areg.toNat], []⟩)
  | .mkSig h f => some (⟨h, wordK 0x15 0x00 f, isZ f.dst && isZ f.src && isZ f.ctl && decide (f.imm.toNat < 2 ^ 26) &&
      decide (exf f.imm 25 10 ≠ 0), f.mask.toNat, [], []⟩)
  | .mkWait h f => some (⟨h, wordK 0x15 0x01 f, isA f.dst && isA f.src && mkImmOk f, f.mask.toNat, [f.dst.toNat, f.src.toNat], []⟩)
  | .mkWaitdec h f => some (⟨h, wordK 0x15 0x02 f, isA f.dst && isA f.src && mkImmOk f, f.mask.toNat, [f.dst.toNat, f.src.toNat], []⟩)
  | .mkTest h f => some (⟨h, wordK 0x15 0x03 f, isA f.dst && isZ f.src && mkImmOk f, f.mask.toNat, [f.dst.toNat], []⟩)
  | .mkSet h f => some (⟨h, wordK 0x15 0x04 f, isZ f.dst && isA f.src && mkImmOk f, f.mask.toNat, [f.src.toNat], []⟩)
  | _ => none

/-- May the context of an instruction issue: it is ready, its core runs, nothing holds Draft issue, and its pc is aligned. -/
def State.MayIssue (s : State) (x : Issued) : Prop := s.canIssue x.h = true ∧ (s.ctx x.h).pc.toNat % 8 = 0

/-- Does the core decode the word: R75 allows it, and a copyist has no group from 0x09 up (log 32)? -/
def Issued.Decodes (x : Issued) : Prop := x.legal = true ∧ (isCopyist x.h.core && decide (9 ≤ fld x.word 63 59)) = false

/-- Everything that lets an instruction have its own effect: it may issue, its word decodes, no result under way holds a register
that it names, and its predicate is on (R72, R75, R76, R195). -/
def State.Runs (s : State) (i : Instr) : Prop :=
  match issued i with
  | some x => s.MayIssue x ∧ x.Decodes ∧ s.regsFree x.h x.as (x.mask :: x.ms) = true ∧ s.predOn x.h x.mask = true
  | none => False

end Sys2Proof.Machine
end

