-- ==== Sys2Proof/Safety.lean ====
section
/-! DEFINITION. What counts as a sound state of the block and as a safe step of it. -/

namespace Sys2Proof.Machine

/-- The register file holds its canonical form: no entry repeats a reset value. -/
abbrev RegsWf (m : SMap Word) : Prop := SMapWf resetOf m

/-- A sound state: memory and the register file are in canonical form, so that equal contents are equal data. -/
def State.Sound (s : State) : Prop := Memory.wf s.mem ∧ RegsWf s.regs

/-- A step that neither faults nor refuses. -/
def State.Goes (s : State) : Prop := ∃ t, step s = .next t

end Sys2Proof.Machine
end

