-- ==== Sys2Proof/Certificates/Slice0/Obligations.lean ====
section
/-! DEFINITION. The statements for the provers, by chapter of the spec. -/

open Sys2Proof Sys2Proof.Machine

/-! ### The block: its queue, its steps, its reset -/

/-- A step takes the command at the front of the queue and runs it with the rest of the queue; with no command waiting the block
idles (log 1). -/
def Obligations.StepRunsTheFrontCommand : Prop :=
  (∀ (c : Instr) (q : List Instr) (s : State), s.pending = c :: q → step s = exec c { s with pending := q }) ∧
  ∀ s : State, s.pending = [] → step s = .next s

/-- The machine after reset is sound: its memory and its register file hold nothing that an unlisted entry reads as, and its queue is
empty. -/
def Says.ResetIsSound : Prop :=
  State.reset.Sound ∧ State.reset.pending = []

/-- After reset every register of the file reads its reset value, every byte of memory reads 0 (log 2), every power domain is OFF,
no task context holds a task, and the module time is 0. -/
def Says.ResetValues : Prop :=
  (∀ k, State.reset.reg k = resetOf k) ∧ (∀ pa, State.reset.rd pa = 0) ∧ (∀ d, d < 176 → State.reset.dom d = 0) ∧
  (∀ h, (State.reset.ctx h).run = .idle) ∧ State.reset.time = 0 ∧ State.reset.role = 0

/-- From every sound state, a step that goes on gives a sound state. -/
def Obligations.StepKeepsSound : Prop :=
  ∀ s t : State, s.Sound → step s = .next t → t.Sound

/-- A step takes exactly one command off the queue and puts none on it: what waited behind it waits still, in order. -/
def Obligations.StepTakesOneCommand : Prop :=
  ∀ (c : Instr) (q : List Instr) (s t : State), s.pending = c :: q → step s = .next t → t.pending = q

/-- A step never stops, but for a sample of V_IN above its absolute maximum of 65.0 V, for which the spec gives no behaviour. -/
def Says.OnlyOvervoltageStops : Prop :=
  ∀ s : State, (∀ x q, s.pending = .powerSample x :: q → x.vin ≤ 6500) → s.Goes

/-- A sample of V_IN above 65.0 V is a fault by name. -/
def Says.OvervoltageFaults : Prop :=
  ∀ (x : PowerSample) (s : State), x.vin > 6500 → exec (.powerSample x) s = .fault .aboveAbsoluteMaximum

/-! ### Issue (R71 to R77) -/

/-- A context that may not issue does nothing; from a misaligned pc it raises MISALIGNED_FETCH with the pc. -/
def Says.IssueGate : Prop :=
  ∀ (i : Instr) (x : Issued) (s : State), issued i = some x →
    (s.canIssue x.h = false → exec i s = .next s) ∧
    (s.canIssue x.h = true → (s.ctx x.h).pc.toNat % 8 ≠ 0 → exec i s = .next (s.raise x.h .misalignedFetch (s.ctx x.h).pc))

/-- A word that R75 forbids raises ILLEGAL with the word in SC_XVAL, takes no other effect and issues nothing; on a copyist so does
every word of a group from 0x09 up (log 32). -/
def Says.IllegalWordRaises : Prop :=
  ∀ (i : Instr) (x : Issued) (s : State), issued i = some x → s.MayIssue x → ¬ x.Decodes →
    exec i s = .next (s.raise x.h .illegal x.word)

/-- With its predicate off an instruction has no effect and raises no exception: the task goes on at the next instruction. -/
def Says.PredicateOffSkips : Prop :=
  ∀ (i : Instr) (x : Issued) (s : State), issued i = some x → s.MayIssue x → x.Decodes →
    s.regsFree x.h x.as (x.mask :: x.ms) = true → bitOf ((s.ctx x.h).getM x.mask) 0 = false →
    exec i s = .next (s.modCtx x.h Ctx.next)
/-! ### Scalar instructions (R78 to R86) -/

/-- Group 0x01: A[dst] := A[src1] op A[src2] with the results of R78 and R79; the task goes on at the next instruction and nothing
else changes. -/
def Says.ScalarIntegerResults : Prop :=
  ∀ e ∈ ([(.add, fun a b => a + b), (.sub, fun a b => a - b), (.and, fun a b => a &&& b), (.or, fun a b => a ||| b),
      (.xor, fun a b => a ^^^ b), (.andn, fun a b => a &&& ~~~ b), (.sll, fun a b => a <<< (b.toNat % 64)),
      (.srl, fun a b => a >>> (b.toNat % 64)), (.sra, fun a b => a.sshiftRight (b.toNat % 64)),
      (.slt, fun a b => if a.toInt < b.toInt then 1 else 0), (.sltu, fun a b => if a.toNat < b.toNat then 1 else 0),
      (.min, fun a b => if a.toInt ≤ b.toInt then a else b), (.max, fun a b => if a.toInt ≤ b.toInt then b else a),
      (.minu, fun a b => if a.toNat ≤ b.toNat then a else b), (.maxu, fun a b => if a.toNat ≤ b.toNat then b else a),
      (.mul, fun a b => a * b), (.mulh, fun a b => BitVec.ofInt 64 (a.toInt * b.toInt / 2 ^ 64)),
      (.mulhu, fun a b => BitVec.ofNat 64 (a.toNat * b.toNat / 2 ^ 64)),
      (.div, fun a b => if b = 0 then BitVec.allOnes 64 else BitVec.ofInt 64 (a.toInt.tdiv b.toInt)),
      (.divu, fun a b => if b = 0 then BitVec.allOnes 64 else BitVec.ofNat 64 (a.toNat / b.toNat)),
      (.rem, fun a b => if b = 0 then a else BitVec.ofInt 64 (a.toInt.tmod b.toInt)),
      (.remu, fun a b => if b = 0 then a else BitVec.ofNat 64 (a.toNat % b.toNat)),
      (.clz, fun a _ => clz a), (.ctz, fun a _ => ctz a), (.popc, fun a _ => popc a)] :
      List ((Hart → FormT → Instr) × (Word → Word → Word))),
    ∀ (s : State) (h : Hart) (f : FormT), s.Runs (e.1 h f) → exec (e.1 h f) s = .next (s.modCtx h fun c =>
      (c.setA f.dst.toNat (e.2 (c.getA f.src1.toNat) (c.getA f.src2.toNat))).next)

/-- CLZ, CTZ and POPC count what their names say: the zeros above the highest set bit, the zeros below the lowest, the set bits. -/
def Says.BitCounts : Prop :=
  (∀ a : Word, clz 0 = 64 ∧ (∀ n, n < 64 → a.getLsbD n = true → (∀ m, n < m → a.getLsbD m = false) → (clz a).toNat = 63 - n)) ∧
  (∀ a : Word, ctz 0 = 64 ∧ (∀ n, n < 64 → a.getLsbD n = true → (∀ m, m < n → a.getLsbD m = false) → (ctz a).toNat = n)) ∧
  ∀ a : Word, (popc a).toNat = ((List.range 64).filter (fun n => a.getLsbD n)).length

/-- DIV and REM by zero, and of the most negative number by -1 (R79). -/
def Says.DivisionCorners : Prop :=
  ∀ (s : State) (h : Hart) (f : FormT) (a : Word), (s.ctx h).getA f.src1.toNat = a →
    ((s.ctx h).getA f.src2.toNat = 0 →
      (∀ i ∈ [Instr.div h f, .divu h f], s.Runs i → exec i s = .next (s.modCtx h fun c => (c.setA f.dst.toNat (BitVec.allOnes 64)).next)) ∧
      (∀ i ∈ [Instr.rem h f, .remu h f], s.Runs i → exec i s = .next (s.modCtx h fun c => (c.setA f.dst.toNat a).next))) ∧
    (a = 0x8000000000000000#64 → (s.ctx h).getA f.src2.toNat = BitVec.allOnes 64 →
      (s.Runs (.div h f) → exec (.div h f) s = .next (s.modCtx h fun c => (c.setA f.dst.toNat 0x8000000000000000#64).next)) ∧
      (s.Runs (.rem h f) → exec (.rem h f) s = .next (s.modCtx h fun c => (c.setA f.dst.toNat 0).next)))

/-- Group 0x02: A[dst] from A[src], the pc and the constant, sign-extended (R80). -/
def Says.ScalarConstantResults : Prop :=
  ∀ e ∈ ([(.addi, fun a i _ => a + i.signExtend 64), (.andi, fun a i _ => a &&& i.signExtend 64),
      (.ori, fun a i _ => a ||| i.signExtend 64), (.xori, fun a i _ => a ^^^ i.signExtend 64),
      (.slli, fun a i _ => a <<< i.toNat), (.srli, fun a i _ => a >>> i.toNat), (.srai, fun a i _ => a.sshiftRight i.toNat),
      (.slti, fun a i _ => if a.toInt < (i.signExtend 64).toInt then 1 else 0),
      (.sltiu, fun a i _ => if a.toNat < (i.signExtend 64).toNat then 1 else 0),
      (.movi, fun _ i _ => i.signExtend 64), (.movhi, fun a i _ => i ++ a.extractLsb' 0 32),
      (.auipc, fun _ i pc => pc + i.signExtend 64)] :
      List ((Hart → FormK → Instr) × (Word → BitVec 32 → Word → Word))),
    ∀ (s : State) (h : Hart) (f : FormK), s.Runs (e.1 h f) → exec (e.1 h f) s = .next (s.modCtx h fun c =>
      (c.setA f.dst.toNat (e.2 (c.getA f.src.toNat) f.imm c.pc)).next)

/-- MOVI and then MOVHI on the same register set any 64-bit constant (R80). -/
def Says.TwoInstructionsSetAnyConstant : Prop :=
  ∀ (s : State) (h : Hart) (r : BitVec 6) (v : Word) (t : State),
    r ≠ 0 → r.toNat < 32 → s.canIssue h = true → (s.ctx h).pc = 0x1000#64 → s.regsFree h [r.toNat, 0] [0] = true →
    exec (.movi h ⟨r, 0, 0, 0, v.extractLsb' 0 32⟩) s = .next t →
    ∃ u, exec (.movhi h ⟨r, r, 0, 0, v.extractLsb' 32 32⟩) t = .next u ∧ (u.ctx h).getA r.toNat = v ∧ (u.ctx h).pc = 0x1010#64

/-- Group 0x03: the result of each operation in the format and rounding that ext selects, and its flags added to SC_FFLAGS
(R81, R82, R84). -/
def Says.ScalarFloatResults : Prop :=
  ∀ e ∈ ([(.fadd, fun p r _ a b => fpOut (p.add r (fpIn p a) (fpIn p b))), (.fsub, fun p r _ a b => fpOut (p.sub r (fpIn p a) (fpIn p b))),
      (.fmul, fun p r _ a b => fpOut (p.mul r (fpIn p a) (fpIn p b))), (.fdiv, fun p r _ a b => fpOut (p.div r (fpIn p a) (fpIn p b))),
      (.fsqrt, fun p r _ a _ => fpOut (p.sqrt r (fpIn p a))), (.fma, fun p r d a b => fpOut (p.fma r (fpIn p d) (fpIn p a) (fpIn p b))),
      (.fmin, fun p _ _ a b => fpOut (p.minmax false (fpIn p a) (fpIn p b))),
      (.fmax, fun p _ _ a b => fpOut (p.minmax true (fpIn p a) (fpIn p b))),
      (.feq, fun p _ _ a b => fpCmp p true a b Fp.eq), (.flt, fun p _ _ a b => fpCmp p false a b Fp.lt),
      (.fle, fun p _ _ a b => fpCmp p false a b (fun x y => Fp.lt x y || Fp.eq x y)),
      (.fcvtI, fun p r _ a _ => (BitVec.ofInt 64 (p.toInt 64 r (fpIn p a)).1, (p.toInt 64 r (fpIn p a)).2)),
      (.fcvtF, fun p r _ a _ => fpOut (p.ofInt r a.toInt)),
      (.fcvtP, fun p r _ a _ => fpOut (p.convert (if p = fmt64 then fmt32 else fmt64) r (fpIn p a))),
      (.fclass, fun p _ _ a _ => (BitVec.ofNat 64 (p.classify (fpIn p a)), .none))] :
      List ((Hart → FormT → Instr) × (Fmt → Rnd → Word → Word → Word → Word × FFlags))),
    ∀ (s : State) (h : Hart) (f : FormT), s.Runs (e.1 h f) → exec (e.1 h f) s = .next (s.modCtx h fun c =>
      let r := e.2 (precOf f.ext) (rndOf (exf f.ext 3 1)) (c.getA f.dst.toNat) (c.getA f.src1.toNat) (c.getA f.src2.toNat)
      ((c.setA f.dst.toNat r.1).flag r.2).next)

/-- FCLASS sets exactly one bit of A[dst] and no flag, in both precisions; the bits from bit 0 are: -∞, negative normal, negative subnormal,
-0, +0, positive subnormal, positive normal, +∞, signalling NaN, quiet NaN (R83). -/
def Obligations.FclassIsOneHot : Prop :=
  (∀ p ∈ [fmt32, fmt64], ∀ a : Word,
    (∃ n, n < 10 ∧ p.classify (fpIn p a) = 2 ^ n) ∧
    ∀ neg ex fr, neg = (fpIn p a).testBit (p.ew + p.mw) → ex = fpIn p a / 2 ^ p.mw % 2 ^ p.ew → fr = fpIn p a % 2 ^ p.mw →
      p.classify (fpIn p a) =
        if ex = 2 ^ p.ew - 1 then
          (if fr = 0 then (if neg then 2 ^ 0 else 2 ^ 7) else if fr.testBit (p.mw - 1) then 2 ^ 9 else 2 ^ 8)
        else if ex = 0 then
          (if fr = 0 then (if neg then 2 ^ 3 else 2 ^ 4) else if neg then 2 ^ 2 else 2 ^ 5)
        else if neg then 2 ^ 1 else 2 ^ 6) ∧
  ∀ (s : State) (h : Hart) (f : FormT), s.Runs (.fclass h f) → exec (.fclass h f) s = .next (s.modCtx h fun c =>
    (c.setA f.dst.toNat (BitVec.ofNat 64 ((precOf f.ext).classify (fpIn (precOf f.ext) (c.getA f.src1.toNat))))).next)

/-- FEQ, FLT and FLE return 0 with a NaN; FLT and FLE set NV then, FEQ only for a signalling NaN; FCVT.I of a NaN returns 0 and sets
NV (R82). -/
def Says.FloatNanRules : Prop :=
  ∀ p ∈ [fmt32, fmt64], ∀ a b : Word, ((p.unpack (fpIn p a)).isNan = true ∨ (p.unpack (fpIn p b)).isNan = true) →
    (∀ g, fpCmp p false a b g = (0, { nv := true })) ∧
    (∀ g, (fpCmp p true a b g).1 = 0 ∧
      (fpCmp p true a b g).2 = { nv := (p.unpack (fpIn p a)).isSnan || (p.unpack (fpIn p b)).isSnan }) ∧
    (∀ r, (p.unpack (fpIn p a)).isNan = true → (p.toInt 64 r (fpIn p a)).1 = 0 ∧ (p.toInt 64 r (fpIn p a)).2.nv = true)

/-- SC_FFLAGS is sticky: no scalar instruction but SRW clears one of its bits (R84). -/
def Says.FlagsAreSticky : Prop :=
  ∀ (s : State) (h : Hart) (f : FormT) (i : Instr), i ∈ [Instr.fadd h f, .fsub h f, .fmul h f, .fdiv h f, .fsqrt h f, .fma h f, .fmin h f,
      .fmax h f, .feq h f, .flt h f, .fle h f, .fcvtI h f, .fcvtF h f, .fcvtP h f, .fclass h f] → s.Runs i →
    ∃ t, exec i s = .next t ∧ (t.ctx h).fflags ||| (s.ctx h).fflags = (t.ctx h).fflags ∧
      (t.ctx h).fflags &&& ~~~ (0x1F#64 ||| (s.ctx h).fflags) = 0

/-- Compare branches: pc + simm when taken, else pc + 8; nothing else changes (R85). -/
def Says.Branches : Prop :=
  (∀ e ∈ ([(.beq, fun a b => decide (a = b)), (.bne, fun a b => decide (a ≠ b)), (.blt, fun a b => decide (a.toInt < b.toInt)),
      (.bge, fun a b => decide (b.toInt ≤ a.toInt)), (.bltu, fun a b => decide (a.toNat < b.toNat)),
      (.bgeu, fun a b => decide (b.toNat ≤ a.toNat))] : List ((Hart → FormK → Instr) × (Word → Word → Bool))),
    ∀ (s : State) (h : Hart) (f : FormK), s.Runs (e.1 h f) → exec (e.1 h f) s = .next (s.modCtx h fun c =>
      if e.2 (c.getA f.dst.toNat) (c.getA f.src.toNat) then c.goto (c.pc + f.imm.signExtend 64) else c.goto (c.pc + 8))) ∧
  ∀ e ∈ ([(.bmany, fun m => decide (m ≠ 0)), (.bmnone, fun m => decide (m = 0))] : List ((Hart → FormK → Instr) × (Word → Bool))),
    ∀ (s : State) (h : Hart) (f : FormK), s.Runs (e.1 h f) → exec (e.1 h f) s = .next (s.modCtx h fun c =>
      if e.2 (c.getM f.src.toNat) then c.goto (c.pc + f.imm.signExtend 64) else c.goto (c.pc + 8))

/-- JAL and JALR write pc + 8 to A[dst] and go to their target; a target of JALR that is not a multiple of 8 raises MISALIGNED_FETCH
with the target, and no link is written (R85, R86). -/
def Says.Jumps : Prop :=
  ∀ (s : State) (h : Hart) (f : FormK),
    (s.Runs (.jal h f) → exec (.jal h f) s = .next (s.modCtx h fun c =>
      (c.setA f.dst.toNat (c.pc + 8)).goto (c.pc + f.imm.signExtend 64))) ∧
    (s.Runs (.jalr h f) → ((s.ctx h).getA f.src.toNat + f.imm.signExtend 64).toNat % 8 = 0 →
      exec (.jalr h f) s = .next (s.modCtx h fun c =>
        (c.setA f.dst.toNat (c.pc + 8)).goto (c.getA f.src.toNat + f.imm.signExtend 64))) ∧
    (s.Runs (.jalr h f) → ((s.ctx h).getA f.src.toNat + f.imm.signExtend 64).toNat % 8 ≠ 0 →
      exec (.jalr h f) s = .next (s.raise h .misalignedFetch ((s.ctx h).getA f.src.toNat + f.imm.signExtend 64)))

/-- Mask instructions (R94). -/
def Says.MaskResults : Prop :=
  (∀ e ∈ ([(.mAnd, fun a b => a &&& b), (.mOr, fun a b => a ||| b), (.mXor, fun a b => a ^^^ b), (.mAndn, fun a b => a &&& ~~~ b),
      (.mNot, fun a _ => ~~~ a)] : List ((Hart → FormT → Instr) × (Word → Word → Word))),
    ∀ (s : State) (h : Hart) (f : FormT), s.Runs (e.1 h f) → exec (e.1 h f) s = .next (s.modCtx h fun c =>
      (c.setM f.dst.toNat (e.2 (c.getM f.src1.toNat) (c.getM f.src2.toNat))).next)) ∧
  (∀ (s : State) (h : Hart) (f : FormT), s.Runs (.mFroma h f) → exec (.mFroma h f) s = .next (s.modCtx h fun c =>
    (c.setM f.dst.toNat (c.getA f.src1.toNat)).next)) ∧
  ∀ e ∈ ([(.mToa, fun m => m), (.mPopc, fun m => popc m), (.mFirst, fun m => ctz m)] : List ((Hart → FormT → Instr) × (Word → Word))),
    ∀ (s : State) (h : Hart) (f : FormT), s.Runs (e.1 h f) → exec (e.1 h f) s = .next (s.modCtx h fun c =>
      (c.setA f.dst.toNat (e.2 (c.getM f.src1.toNat))).next)

/-- A0 reads 0 and M0 reads all ones; writes to them are discarded; a write to another register reads back and leaves the others. -/
def Says.HardWiredRegisters : Prop :=
  ∀ (c : Ctx) (v : Word), c.getA 0 = 0 ∧ c.setA 0 v = c ∧ c.getM 0 = BitVec.allOnes 64 ∧ c.setM 0 v = c ∧
    ∀ r, r ≠ 0 → ((c.setA r v).getA r = v ∧ ∀ q, q ≠ r → (c.setA r v).getA q = c.getA q) ∧
      ((c.setM r v).getM r = v ∧ ∀ q, q ≠ r → (c.setM r v).getM q = c.getM q)

/-- What a register-only scalar instruction leaves unchanged: memory, the register file, every other context, and of its own context
every A register but A[dst], every M register but M[dst] of a mask instruction, the V registers, the slots, the exception registers
and the task; floating point alone touches the flags. -/
def Says.ScalarFrame : Prop :=
  ∀ (s t : State) (h : Hart) (f : FormT) (i : Instr), s.Runs i → exec i s = .next t →
    i ∈ [Instr.add h f, .sub h f, .and h f, .or h f, .xor h f, .andn h f, .sll h f, .srl h f, .sra h f, .slt h f, .sltu h f, .min h f,
      .max h f, .minu h f, .maxu h f, .mul h f, .mulh h f, .mulhu h f, .div h f, .divu h f, .rem h f, .remu h f, .clz h f, .ctz h f,
      .popc h f, .mAnd h f, .mOr h f, .mXor h f, .mAndn h f, .mNot h f, .mFroma h f, .mToa h f, .mPopc h f, .mFirst h f] →
    t = { s with ctxs := t.ctxs } ∧ (∀ g, hartKey g ≠ hartKey h → t.ctx g = s.ctx g) ∧
    (∀ r, r ≠ f.dst.toNat → (t.ctx h).getA r = (s.ctx h).getA r ∧ (t.ctx h).getM r = (s.ctx h).getM r) ∧
    t.ctx h = { s.ctx h with a := (t.ctx h).a, m := (t.ctx h).m, pc := (t.ctx h).pc, run := .ready, yields := false }
/-! ### Loads, stores, slots, lines, atomics (R87 to R93, R341 to R353) -/

/-- No upset has struck a line that a cache holds (R356). -/
def Intact (s : State) : Prop := ∀ core line, (s.lineAt core line).bind (fun l => l.bad) = none

/-- The core reaches memory past its data cache: it is off, the address is not cached, or the cache drains and holds no such line. -/
def GoesPast (s : State) (h : Hart) (pa : Nat) : Prop :=
  s.dact h.core = false ∨ cacheable pa = false ∨ (s.draining h.core = true ∧ s.lineIn h.core (lineOf pa) = false)

/-- An access to a byte range of memory that the core can make at once for reading: its line is in the data cache, or it goes
straight to memory, where no word is poisoned and the host holds no line as its own; no upset waits in a cache. -/
def ReadsNow (s : State) (h : Hart) (pa n : Nat) : Prop :=
  Intact s ∧ ((s.dact h.core = true ∧ cacheable pa = true ∧ s.lineIn h.core (lineOf pa) = true) ∨
    (GoesPast s h pa ∧ s.firstPoison pa n = none ∧ s.hostHeld pa n true = []))

/-- The same for writing: the host holds no line of the range, and the line is in the data cache or the access goes straight to
memory. -/
def WritesNow (s : State) (h : Hart) (pa n : Nat) : Prop :=
  Intact s ∧ s.hostHeld pa n false = [] ∧
    ((s.dact h.core = true ∧ cacheable pa = true ∧ s.lineIn h.core (lineOf pa) = true) ∨ GoesPast s h pa)

/-- An address of Reservoir, Inkwell or a Sheet that the core can reach, as translation gives it. -/
def Reaches (s : State) (h : Hart) (va : Word) (k : AccKind) (t : State) (pa : Nat) : Prop :=
  s.coreAddr h va k = (.ok pa false, t) ∧ isMem pa = true ∧ t.reached pa = true

/-- A load delivers the bytes at its address, sign- or zero-extended, and changes no byte of memory; a load of a slot takes 64 bytes
(R87). -/
def Says.LoadsDeliver : Prop :=
  (∀ e ∈ ([(.ldB, 1, true), (.ldH, 2, true), (.ldW, 4, true), (.ldD, 8, false), (.ldBu, 1, false), (.ldHu, 2, false), (.ldWu, 4, false)] :
      List ((Hart → FormK → Instr) × Nat × Bool)),
    ∀ (s t : State) (h : Hart) (f : FormK) (pa : Nat), s.Runs (e.1 h f) → (kAddr (s.ctx h) f).toNat % e.2.1 = 0 →
      Reaches s h (kAddr (s.ctx h) f) .load t pa → ReadsNow t h pa e.2.1 →
      ∃ u, exec (e.1 h f) s = .next u ∧ (∀ a, u.rd a = t.rd a) ∧ u.ctx h = ((t.ctx h).setA f.dst.toNat
        (if e.2.2 then sext (8 * e.2.1) (t.rdLe pa e.2.1) else BitVec.ofNat 64 (t.rdLe pa e.2.1))).next) ∧
  ∀ (s t : State) (h : Hart) (f : FormK) (pa : Nat), s.Runs (.dsLd h f) → (kAddr (s.ctx h) f).toNat % 64 = 0 →
    Reaches s h (kAddr (s.ctx h) f) .load t pa → ReadsNow t h pa 64 →
    ∃ u, exec (.dsLd h f) s = .next u ∧ (∀ a, u.rd a = t.rd a) ∧ u.ctx h = ((t.ctx h).setSd f.dst.toNat (t.rdN pa 64)).next

/-- A store writes the low bytes of A[dst] at its address and no other byte of memory; DS.ST writes a slot's 64 bytes, zeros for an
empty one; C.ZERO writes 64 zero bytes (R87, R89). No register changes. -/
def Says.StoresWrite : Prop :=
  ∀ e ∈ ([(.stB, 1, fun c f => leBytes 1 (c.getA f.dst.toNat).toNat), (.stH, 2, fun c f => leBytes 2 (c.getA f.dst.toNat).toNat),
      (.stW, 4, fun c f => leBytes 4 (c.getA f.dst.toNat).toNat), (.stD, 8, fun c f => leBytes 8 (c.getA f.dst.toNat).toNat),
      (.dsSt, 64, fun c f => padB 64 (c.getSd f.dst.toNat)), (.cZero, 64, fun _ _ => List.replicate 64 0#8)] :
      List ((Hart → FormK → Instr) × Nat × (Ctx → FormK → List Byte))),
    ∀ (s t : State) (h : Hart) (f : FormK) (pa : Nat), s.Runs (e.1 h f) → (kAddr (s.ctx h) f).toNat % e.2.1 = 0 →
      Reaches s h (kAddr (s.ctx h) f) .store t pa → pa % e.2.1 = 0 → WritesNow t h pa e.2.1 →
      ∃ u, exec (e.1 h f) s = .next u ∧ u.rdN pa e.2.1 = e.2.2 (s.ctx h) f ∧ (∀ a, a < pa ∨ pa + e.2.1 ≤ a → u.rd a = t.rd a) ∧
        u.ctx h = (t.ctx h).next

/-- An access whose address is not a multiple of its alignment raises MISALIGNED_DATA with the address and touches no memory
(R88, R93). -/
def Says.MisalignedAccessesTrap : Prop :=
  (∀ e ∈ ([(.ldH, 2), (.ldHu, 2), (.ldW, 4), (.ldWu, 4), (.ldD, 8), (.stH, 2), (.stW, 4), (.stD, 8), (.dsLd, 64), (.dsSt, 64), (.cZero, 64),
      (.cClean, 64), (.cFlush, 64), (.iSync, 64)] : List ((Hart → FormK → Instr) × Nat)),
    ∀ (s : State) (h : Hart) (f : FormK), s.Runs (e.1 h f) → (kAddr (s.ctx h) f).toNat % e.2 ≠ 0 →
      exec (e.1 h f) s = .next (s.raise h .misalignedData (kAddr (s.ctx h) f))) ∧
  ∀ i ∈ [Instr.amoSwap, .amoAdd, .amoAnd, .amoOr, .amoXor, .amoMin, .amoMax, .amoMinu, .amoMaxu, .amoCas],
    ∀ (s : State) (h : Hart) (f : FormT), s.Runs (i h f) → ((s.ctx h).getA f.src1.toNat).toNat % (if f.ext.getLsbD 0 then 4 else 8) ≠ 0 →
      exec (i h f) s = .next (s.raise h .misalignedData ((s.ctx h).getA f.src1.toNat))

/-- A load that misses an enabled data cache waits for its line at the same instruction, with no register written (R344). -/
def Says.MissWaitsForItsLine : Prop :=
  ∀ (s t : State) (h : Hart) (f : FormK) (pa : Nat), s.Runs (.ldD h f) → (kAddr (s.ctx h) f).toNat % 8 = 0 →
    Reaches s h (kAddr (s.ctx h) f) .load t pa → t.dact h.core = true → t.draining h.core = false → cacheable pa = true →
    t.lineHeld h.core (lineOf pa) = false → t.missBusy h (lineOf pa) = false →
    ∃ u, exec (.ldD h f) s = .next u ∧ u.ctx h = { t.ctx h with run := .waiting (.fill pa (.load f.dst.toNat 8 false)) }

/-- DS.CLR empties its slot; C.CLEAN, C.FLUSH and I.SYNC go on with every byte of memory as it was; after C.FLUSH the core holds the
line no more, and after I.SYNC its instruction cache does not (R87, R351). -/
def Says.LineInstructions : Prop :=
  ∀ (s t : State) (h : Hart) (f : FormK) (pa : Nat),
    (s.Runs (.dsClr h f) → exec (.dsClr h f) s = .next (s.modCtx h fun c => (c.setSd f.dst.toNat []).next)) ∧
    (∀ e ∈ ([(.cClean, .either), (.cFlush, .either), (.iSync, .fetch)] : List ((Hart → FormK → Instr) × AccKind)),
      s.Runs (e.1 h f) → (kAddr (s.ctx h) f).toNat % 64 = 0 → s.coreAddr h (kAddr (s.ctx h) f) e.2 = (.ok pa false, t) → Intact t →
      ∃ u, exec (e.1 h f) s = .next u ∧ (∀ a, u.rd a = t.rd a) ∧ u.ctx h = (t.ctx h).next) ∧
    (s.Runs (.cFlush h f) → (kAddr (s.ctx h) f).toNat % 64 = 0 → s.coreAddr h (kAddr (s.ctx h) f) .either = (.ok pa false, t) →
      t.dact h.core = true → Intact t → ∃ u, exec (.cFlush h f) s = .next u ∧ u.lineHeld h.core (lineOf pa) = false) ∧
    (s.Runs (.iSync h f) → (kAddr (s.ctx h) f).toNat % 64 = 0 → s.coreAddr h (kAddr (s.ctx h) f) .fetch = (.ok pa false, t) →
      ∃ u, exec (.iSync h f) s = .next u ∧ u.ilineIn h.core (lineOf pa) = false)

/-- An atomic at its home stores the combined value and no other byte, and sends the old value, sign-extended at 4 B, to its core;
ATOMIC_COMPLETE puts it into A[dst] (R92, R93). -/
def Says.AtomicsReadModifyWrite : Prop :=
  (∀ e ∈ ([(.amoSwap, fun _ _ b _ => b), (.amoAdd, fun _ a b _ => a + b), (.amoAnd, fun _ a b _ => a &&& b), (.amoOr, fun _ a b _ => a ||| b),
      (.amoXor, fun _ a b _ => a ^^^ b), (.amoMin, fun _ a b _ => if b.toInt < a.toInt then b else a),
      (.amoMax, fun _ a b _ => if a.toInt < b.toInt then b else a),
      (.amoMinu, fun n a b _ => if b.toNat % 2 ^ (8 * n) < a.toNat % 2 ^ (8 * n) then b else a),
      (.amoMaxu, fun n a b _ => if a.toNat % 2 ^ (8 * n) < b.toNat % 2 ^ (8 * n) then b else a),
      (.amoCas, fun _ a b d => if a = d then b else a)] : List ((Hart → FormT → Instr) × (Nat → Word → Word → Word → Word))),
    ∀ (s t : State) (h : Hart) (f : FormT) (pa n : Nat) (old : Word), s.Runs (e.1 h f) → n = (if f.ext.getLsbD 0 then 4 else 8) →
      ((s.ctx h).getA f.src1.toNat).toNat % n = 0 → s.coreAddr h ((s.ctx h).getA f.src1.toNat) .both = (.ok pa false, t) →
      isMem pa = true → Intact t → t.firstPoison pa n = none → t.hostHeld pa n false = [] → old = amoVal n (BitVec.ofNat 64 (t.rdLe pa n)) →
      ∃ u, exec (e.1 h f) s = .next u ∧ (u.ctx h).run = .waiting (.atomic f.dst.toNat old) ∧
        u.rdN pa n = leBytes n (e.2 n old (amoVal n ((s.ctx h).getA f.src2.toNat)) (amoVal n ((s.ctx h).getA f.dst.toNat))).toNat ∧
        ∀ a, a < pa ∨ pa + n ≤ a → u.rd a = t.rd a) ∧
  ∀ (s : State) (h : Hart) (dst : Nat) (v : Word), (s.ctx h).run = .waiting (.atomic dst v) →
    exec (.atomicComplete h) s = .next (s.modCtx h fun c => (c.setA dst v).next)

/-- An atomic on a page of host memory raises ACCESS and touches nothing (R93). -/
def Says.AtomicOnHostPageTraps : Prop :=
  ∀ i ∈ [Instr.amoSwap, .amoAdd, .amoAnd, .amoOr, .amoXor, .amoMin, .amoMax, .amoMinu, .amoMaxu, .amoCas],
    ∀ (s t : State) (h : Hart) (f : FormT) (pa : Nat), s.Runs (i h f) →
      ((s.ctx h).getA f.src1.toNat).toNat % (if f.ext.getLsbD 0 then 4 else 8) = 0 →
      s.coreAddr h ((s.ctx h).getA f.src1.toNat) .both = (.ok pa true, t) →
      exec (i h f) s = .next (t.raise h .access ((s.ctx h).getA f.src1.toNat))

/-- FENCE goes on when no engine operation of the task is outstanding, and waits at itself otherwise (R60, R91; that operations
without writes count is log 39). -/
def Says.FenceWaits : Prop :=
  ∀ (s : State) (h : Hart) (f : FormT), s.Runs (.fence h f) →
    (s.engBusy h = 0 → exec (.fence h f) s = .next (s.modCtx h Ctx.next)) ∧ (s.engBusy h ≠ 0 → exec (.fence h f) s = .next (s.waits h))

/-- The memory that an access touches reads back: the written bytes at their addresses, every other byte as before, and the form of
the table kept (the laws of the addressed memory). -/
def Says.MemoryReadsBack : Prop :=
  ∀ (s : State) (pa : Nat) (bs : List Byte), (s.wrN pa bs).rdN pa bs.length = bs ∧
    (∀ a, a < pa ∨ pa + bs.length ≤ a → (s.wrN pa bs).rd a = s.rd a) ∧ (Memory.wf s.mem → Memory.wf (s.wrN pa bs).mem)
/-! ### System instructions and exceptions (R95 to R107) -/

/-- A state that differs from another in one context alone. -/
def OnlyCtx (s t : State) (h : Hart) (c : Ctx) : Prop :=
  t = { s with ctxs := t.ctxs } ∧ t.ctx h = c ∧ ∀ g, hartKey g ≠ hartKey h → t.ctx g = s.ctx g

/-- Taking an exception with a handler set and none active: SC_XPC the pc of the instruction, SC_XCAUSE the code, SC_XVAL the value,
XACTIVE 1, and the task goes on at SC_XVEC; nothing else changes (R102, R103). -/
def Says.ExceptionEntry : Prop :=
  ∀ (s : State) (h : Hart) (code : XCode) (v : Word), (s.job (s.ctx h).task.job).xvec ≠ 0 → (s.ctx h).xactive = false →
    (code = .brk → (s.job (s.ctx h).task.job).debug = false) → code ≠ .engine →
    OnlyCtx s (s.raise h code v) h { s.ctx h with
      xpc := (s.ctx h).pc, xcause := BitVec.ofNat 64 code.num, xval := v, xactive := true
      pc := pc48 (s.job (s.ctx h).task.job).xvec, run := .ready }

/-- An exception with no handler, or raised while one is active, stops the job of a control core's task: JOB_STOPPED (code 2) is posted
with the exception code, SC_XVAL and the task, no context holds a task of the job, and memory is as it was (R103, R105). -/
def Says.ExceptionStopsJob : Prop :=
  ∀ (s : State) (h : Hart) (code : XCode) (v : Word), isCopyist h.core = false → code ≠ .brk →
    ((s.job (s.ctx h).task.job).xvec = 0 ∨ (s.ctx h).xactive = true) → s.events.length < 65536 →
    ∃ t, s.raise h code v = t ∧ (t.job (s.ctx h).task.job).stopped = true ∧ t.mem = s.mem ∧
      (∀ e ∈ t.ctxs, ¬ (e.2.run ≠ .idle ∧ e.2.task.job = (s.ctx h).task.job)) ∧
      t.events = s.events ++ [⟨2, (s.ctx h).task.job, 0, 0, resultBytes [(0, leBytes 1 code.num), (8, leBytes 8 v.toNat),
        (16, leBytes 8 (taskId h (s.ctx h)).toNat)]⟩]

/-- TRAP raises TRAP with its code in TRAPCODE and 0 in SC_XVAL; BREAK raises BREAK with the pc, or halts the task for an attached
debugger (R95, R97, R101, R103). -/
def Says.TrapAndBreak : Prop :=
  ∀ (s : State) (h : Hart) (f : FormK),
    (s.Runs (.trap h f) → (s.job (s.ctx h).task.job).xvec ≠ 0 → (s.ctx h).xactive = false →
      exec (.trap h f) s = .next (s.modCtx h fun c => { c with
        xpc := c.pc, xcause := BitVec.ofNat 64 (f.imm.toNat * 65536 + 7), xval := 0
        xactive := true, pc := pc48 (s.job (s.ctx h).task.job).xvec, run := .ready })) ∧
    (s.Runs (.breakI h f) → (s.job (s.ctx h).task.job).debug = true →
      exec (.breakI h f) s = .next (s.modCtx h fun c => { c with run := .halted })) ∧
    (s.Runs (.breakI h f) → (s.job (s.ctx h).task.job).debug = false → (s.job (s.ctx h).task.job).xvec ≠ 0 → (s.ctx h).xactive = false →
      exec (.breakI h f) s = .next (s.modCtx h fun c => { c with
        xpc := c.pc, xcause := 8, xval := c.pc
        xactive := true, pc := pc48 (s.job (s.ctx h).task.job).xvec, run := .ready }))

/-- RETX returns to SC_XPC and clears XACTIVE; with XACTIVE at 0 it raises ILLEGAL (R95, R96). -/
def Says.ReturnFromException : Prop :=
  ∀ (s : State) (h : Hart) (f : FormK), s.Runs (.retx h f) →
    ((s.ctx h).xactive = true → exec (.retx h f) s = .next (s.modCtx h fun c => { c with pc := pc48 c.xpc, run := .ready, xactive := false, yields := false })) ∧
    ((s.ctx h).xactive = false → exec (.retx h f) s = .next (s.raise h .illegal (wordK 0x08 0x07 f)))

/-- NOP goes on; a control core's YIELD goes on and leaves the core to the other resident context; WAITI waits for an interrupt (R95,
R107). -/
def Says.NopYieldWaiti : Prop :=
  ∀ (s : State) (h : Hart) (f : FormK),
    (s.Runs (.nop h f) → exec (.nop h f) s = .next (s.modCtx h Ctx.next)) ∧
    (s.Runs (.yield h f) → isCopyist h.core = false → exec (.yield h f) s = .next (s.modCtx h fun c => { c.next with yields := true })) ∧
    (s.Runs (.waiti h f) → exec (.waiti h f) s = .next (s.modCtx h fun c => { c with run := .waiting .interrupt }))

/-- SRR delivers each system register of R96, SC_TASKID and SC_XSTATE laid out as R97 states. -/
def Says.SystemRegisterReads : Prop :=
  ∀ (s : State) (h : Hart) (f : FormK), s.Runs (.srr h f) →
    ∀ e ∈ ([(0x000, BitVec.ofNat 64 (h.core * 2 ^ 40 + (s.ctx h).task.job % 16 * 2 ^ 36 + b2n (s.ctx h).task.fair * 2 ^ 35 + h.ctx * 2 ^ 34
          + (s.ctx h).task.num % 2 ^ 32)),
        (0x001, if isCopyist h.core then s.cycCopyist else s.cycScribe), (0x002, s.time), (0x003, (s.ctx h).fflags),
        (0x010, (s.job (s.ctx h).task.job).xvec), (0x011, (s.ctx h).xpc), (0x012, (s.ctx h).xcause), (0x013, (s.ctx h).xval),
        (0x014, BitVec.ofNat 64 (b2n (s.ctx h).xactive + 2 * b2n (s.job (s.ctx h).task.job).debug)), (0x020, s.engBusy h)] :
        List (Nat × Word)), f.imm.toNat = e.1 → exec (.srr h f) s = .next (s.modCtx h fun c => (c.setA f.dst.toNat e.2).next)

/-- SRW writes the RW system registers: SC_FFLAGS its five flags, SC_XVEC the job's one value with bits [2:0] 0, SC_XPC, and XACTIVE of
SC_XSTATE; the others raise ILLEGAL, and the firmware-only ones raise PRIVILEGED at job level (R71, R96, R97). -/
def Says.SystemRegisterWrites : Prop :=
  ∀ (s : State) (h : Hart) (f : FormK) (v : Word), s.Runs (.srw h f) → v = (s.ctx h).getA f.src.toNat →
    (f.imm = 0x003 → ∃ t, exec (.srw h f) s = .next t ∧
      OnlyCtx s t h { s.ctx h with fflags := v &&& 0x1F#64, pc := pc48 ((s.ctx h).pc + 8), run := .ready, yields := false }) ∧
    (f.imm = 0x010 → exec (.srw h f) s = .next ((s.setJob (s.ctx h).task.job
      { s.job (s.ctx h).task.job with xvec := v &&& ~~~ 7#64 }).modCtx h Ctx.next)) ∧
    (f.imm = 0x011 → ∃ t, exec (.srw h f) s = .next t ∧
      OnlyCtx s t h { s.ctx h with xpc := v, pc := pc48 ((s.ctx h).pc + 8), run := .ready, yields := false }) ∧
    (f.imm = 0x014 → ∃ t, exec (.srw h f) s = .next t ∧
      OnlyCtx s t h { s.ctx h with xactive := v.getLsbD 0, pc := pc48 ((s.ctx h).pc + 8), run := .ready, yields := false }) ∧
    (f.imm.toNat ∈ [0x000, 0x001, 0x002, 0x012, 0x013, 0x020] → exec (.srw h f) s = .next (s.raise h .illegal (wordK 0x08 0x04 f))) ∧
    (f.imm.toNat ∈ [0x100, 0x101] → isCopyist h.core = false → exec (.srw h f) s = .next (s.raise h .privileged (wordK 0x08 0x04 f)))

/-- TLB.INV and TLB.INVJ are firmware's: at job level they raise PRIVILEGED; on a copyist no core holds a translation of the job for the
page, or of the job, afterwards, and the others stay (R71, R95). -/
def Says.TlbInvalidation : Prop :=
  ∀ (s : State) (h : Hart) (f : FormK),
    (s.Runs (.tlbInv h f) → isCopyist h.core = false → exec (.tlbInv h f) s = .next (s.raise h .privileged (wordK 0x08 0x10 f))) ∧
    (s.Runs (.tlbInvj h f) → isCopyist h.core = false → exec (.tlbInvj h f) s = .next (s.raise h .privileged (wordK 0x08 0x11 f))) ∧
    (s.Runs (.tlbInvj h f) → isCopyist h.core = true → ∃ t, exec (.tlbInvj h f) s = .next t ∧ t.ctx h = (s.ctx h).next ∧
      t.tlb = s.tlb.filter (fun e => decide (e.job ≠ f.imm.toNat))) ∧
    (s.Runs (.tlbInv h f) → isCopyist h.core = true → ∃ t, exec (.tlbInv h f) s = .next t ∧ t.ctx h = (s.ctx h).next ∧
      ∀ e, e ∈ t.tlb ↔ e ∈ s.tlb ∧ ¬ (e.job = f.imm.toNat ∧ e.vbase ≤ ((s.ctx h).getA f.src.toNat).toNat ∧
        ((s.ctx h).getA f.src.toNat).toNat < e.vbase + e.size))

/-- END does not issue while a report of the task is not yet raised, and waits while an engine operation of it is outstanding; then the
context is free (R95, R103). -/
def Says.EndFreesTheContext : Prop :=
  ∀ (s : State) (h : Hart) (f : FormK),
    ((s.ctx h).reports ≠ [] → exec (.endTask h f) s = .next s) ∧
    (s.Runs (.endTask h f) → s.engBusy h ≠ 0 → exec (.endTask h f) s = .next (s.waits h)) ∧
    (s.Runs (.endTask h f) → s.engBusy h = 0 → ∃ t, exec (.endTask h f) s = .next t ∧ (t.ctx h).run = .idle)

/-- Events that end a core's wait: an engine's report enters the handler as ENGINE with IMPRECISE, its group and its operation tag; a
page fault that the firmware maps executes again, one that it denies raises ACCESS with the address; a kick restarts the copyist's
watchdog (R103, R104, R492). -/
def Says.CoreEvents : Prop :=
  (∀ (s : State) (h : Hart) (r : EngReport) (q : List EngReport), (s.ctx h).reports = r :: q → s.canRun h = true →
    (s.job (s.ctx h).task.job).xvec ≠ 0 → (s.ctx h).xactive = false →
    ∃ t, exec (.engineException h) s = .next t ∧ OnlyCtx s t h { s.ctx h with
      reports := q, xpc := (s.ctx h).pc
      xcause := BitVec.ofNat 64 (2 ^ 63 + r.group * 2 ^ 32 + 11), xval := r.val, xactive := true
      pc := pc48 (s.job (s.ctx h).task.job).xvec, run := .ready }) ∧
  (∀ (s : State) (h : Hart) (va : Word) (st : Bool), (s.ctx h).run = .suspended va st → s.fwUp = true →
    (∀ a pte, bitOf pte 55 = true → s.hostHeld (alignDown a 8) 8 false = [] → ∃ t, exec (.pageFaultResolve h (.mapped a pte)) s = .next t ∧
      t.ctx h = { s.ctx h with run := .ready } ∧ t.rdN (alignDown a 8) 8 = leBytes 8 pte.toNat) ∧
    exec (.pageFaultResolve h .denied) s = .next ((s.modCtx h fun c => { c with run := .ready }).raise h .access va)) ∧
  ∀ (s : State) (h : Hart) (v : Word), isCopyist h.core = true → h.core < 132 → s.canIssue h = true →
    ∃ t, exec (.fwKick h v) s = .next t ∧ t = { s with fw := t.fw } ∧ s.kickLeft (h.core % 4) ≤ t.kickLeft (h.core % 4) ∧
      t.kickLeft (h.core % 4) = 1000 * s.rfld regFwWdog 4 0
/-! ### Stroke streams (R110 to R144) -/

/-- A Form D word's mark: none with sig at 0, the handle's physical mark with sig at 1 (R77). -/
def SigMark (s : State) (h : Hart) (f : FormD) (m : Option Nat) : Prop :=
  (f.sig = 0 ∧ m = none) ∨ (f.sig = 1 ∧ ∃ x, s.handle (s.ctx h).task.job f.mark.toNat = some x ∧ m = some x.1)

/-- SK.LOAD, SK.STORE and SK.COPY on an outer queue: the operation takes a free entry with the descriptor and A[areg] as they stood, the
task, the mark and TSIG, starts, and the task goes on (R77, R110, R113 to R115). -/
def Says.StreamsEnterTheEngine : Prop :=
  ∀ e ∈ ([(.skLoad, .load), (.skStore, .store), (.skCopy, .copy)] : List ((Hart → FormD → Instr) × SkKind)),
    ∀ (s : State) (h : Hart) (f : FormD) (d : List Byte) (m : Option Nat) (n : Nat), s.Runs (e.1 h f) →
      (s.ctx h).getSd f.slot.toNat = d → d ≠ [] → skDescOk (padB 64 d) (e.2 == .copy) = true → SigMark s h f m →
      (s.cl h.core).freeEntry = some n → s.halfBusy h.core (ownerOf h (s.ctx h)) = false → s.qInner h.core f.queue.toNat = false →
      ∃ t o, exec (e.1 h f) s = .next t ∧ s.skOp h.core n = none ∧ t.skOp h.core n = some o ∧ t.ctx h = (s.ctx h).next ∧
        o.kind = e.2 ∧ o.own = ownerOf h (s.ctx h) ∧ o.desc = padB 64 d ∧ o.areg = (s.ctx h).getA f.areg.toNat ∧
        o.queue = f.queue.toNat ∧ o.mark = m ∧ o.tsig = f.ctl.getLsbD 0 ∧ o.state = 3 ∧ o.pos = 0

/-- A descriptor that R114 refuses raises ILLEGAL, an empty slot raises SLOT_EMPTY with its number, an unmapped handle raises MARK with the
handle; with all 32 entries taken the issue stalls (R77, R89, R114, R115). -/
def Says.StreamIssueChecks : Prop :=
  ∀ e ∈ ([(.skLoad, 0, false), (.skStore, 1, false), (.skCopy, 2, true)] : List ((Hart → FormD → Instr) × Nat × Bool)),
    ∀ (s : State) (h : Hart) (f : FormD), s.Runs (e.1 h f) →
      ((s.ctx h).getSd f.slot.toNat = [] → exec (e.1 h f) s = .next (s.raise h .slotEmpty (BitVec.ofNat 64 f.slot.toNat))) ∧
      ((s.ctx h).getSd f.slot.toNat ≠ [] → skDescOk (padB 64 ((s.ctx h).getSd f.slot.toNat)) e.2.2 = false →
        exec (e.1 h f) s = .next (s.raise h .illegal (wordD 0x12 e.2.1 f))) ∧
      ((s.ctx h).getSd f.slot.toNat ≠ [] → skDescOk (padB 64 ((s.ctx h).getSd f.slot.toNat)) e.2.2 = true → f.sig = 1 →
        s.handle (s.ctx h).task.job f.mark.toNat = none → exec (e.1 h f) s = .next (s.raise h .mark (BitVec.ofNat 64 f.mark.toNat))) ∧
      ((s.ctx h).getSd f.slot.toNat ≠ [] → skDescOk (padB 64 ((s.ctx h).getSd f.slot.toNat)) e.2.2 = true → f.sig = 0 →
        (s.cl h.core).freeEntry = none → exec (e.1 h f) s = .next s)

/-- The address of every byte of a pattern is the one that the loops of R111 give it: the run whose indices are i1 to i5 starts at
BASE + A[areg] + the sum of i × STRIDE, modulo 2 ^ 64. -/
def Says.PatternWalk : Prop :=
  ∀ (o : SkOp) (i1 i2 i3 i4 i5 b : Nat), b < skRun o.desc → i1 < skCount o.desc 0 → i2 < skCount o.desc 1 → i3 < skCount o.desc 2 →
    i4 < skCount o.desc 3 →
    o.memVa (((((i5 * skCount o.desc 3 + i4) * skCount o.desc 2 + i3) * skCount o.desc 1 + i2) * skCount o.desc 0 + i1) * skRun o.desc + b) =
      (BitVec.ofInt 64 ((skBase o.desc : Int) + (o.areg.toNat : Int) + i1 * skStride o.desc 0 + i2 * skStride o.desc 1
        + i3 * skStride o.desc 2 + i4 * skStride o.desc 3 + i5 * skStride o.desc 4 + b)).toNat

/-- A request of a tiled load that holds or finds a tag and whose memory side is one range of device memory: its bytes stand in the back
half at DEST, and no byte elsewhere changes (R112, R119, R124, R135). A request never crosses a 1 KiB boundary, a run or a tile (R117). -/
def Says.StrokeRequestMovesData : Prop :=
  (∀ o : SkOp, 1 ≤ skRun o.desc → 1 ≤ o.tileLen → 1 ≤ o.nextReq.2 ∧ o.nextReq.2 ≤ 1024 ∧
    o.nextReq.1 / 1024 = (o.nextReq.1 + o.nextReq.2 - 1) / 1024 ∧ o.pos / o.tileLen = (o.pos + o.nextReq.2 - 1) / o.tileLen) ∧
  ∀ (s t : State) (k n : Nat) (o : SkOp) (pa : Nat), s.skOp k n = some o → s.skLive k o = true → o.kind = .load → skTile o.desc ≠ 0 →
    o.pos / o.tileLen < o.assigned → (o.pos ≠ 0 ∨ s.skBreaks k { o with tag := true } = false) → (o.tag = true ∨ s.tagFree k o.queue = true) →
    (s.setSk k { o with tag := true }).resolve k o.own.job .load (pieces o.nextReq.1 o.nextReq.2) = (t, .ok [⟨pa, false, o.nextReq.2⟩]) →
    t.skRoute k { o with tag := true } [⟨pa, false, o.nextReq.2⟩] [⟨t.tileSide k o, false, o.nextReq.2⟩] = false → Intact t →
    t.firstPoison pa o.nextReq.2 = none → t.hostHeld pa o.nextReq.2 true = [] → t.hostHeld (t.tileSide k o) o.nextReq.2 false = [] →
    ∃ u, exec (.strokeRequestComplete k n ⟨true, []⟩) s = .next u ∧ u.rdN (t.tileSide k o) o.nextReq.2 = t.rdN pa o.nextReq.2 ∧
      ∀ a, a < t.tileSide k o ∨ t.tileSide k o + o.nextReq.2 ≤ a → u.rd a = t.rd a

/-- SK.SWAP waits for its exchange; SK_SWAP_COMPLETE exchanges the halves, shows the new front half in SK_HALF and lets the task go on;
refused to a task that is not the half owner, SK.SWAP reports SHEET_BUSY with SWAP set (R123, R125, R143). -/
def Says.SwapExchangesHalves : Prop :=
  (∀ (s : State) (h : Hart) (f : FormD), s.Runs (.skSwap h f) → s.halfBusy h.core (ownerOf h (s.ctx h)) = false → (s.cl h.core).swap = none →
    ∃ t, exec (.skSwap h f) s = .next t ∧ t.ctx h = { s.ctx h with run := .waiting .swap } ∧
      t.cl h.core = { s.cl h.core with swap := some h }) ∧
  (∀ (s : State) (h : Hart) (f : FormD), s.Runs (.skSwap h f) → s.halfBusy h.core (ownerOf h (s.ctx h)) = true →
    exec (.skSwap h f) s = .next ((s.modCtx h Ctx.next).engReport h.core (ownerOf h (s.ctx h)) 0x12 0x10500#64)) ∧
  ∀ (s : State) (c : Nat) (h : Hart), (s.cl c).swap = some h → s.coreLive c = true → (s.cl c).swapReady = true →
    (s.ctx h).run = .waiting .swap → ∃ t, exec (.skSwapComplete c) s = .next t ∧ t.ctx h = (s.ctx h).next ∧
      (t.cl c).front = 1 - (s.cl c).front ∧ (t.cl c).swap = none ∧ t.mem = s.mem ∧
      t.rbit (regSkHalf (s.phys c)) 0 = ((s.cl c).front == 0)

/-- SK.CANCEL stops every operation of the task on the named queue, or on all with ctl[0], and waits; SK_CANCEL_COMPLETE frees them without
a signal and lets the task go on (R116). -/
def Says.CancelFreesEntries : Prop :=
  (∀ (s : State) (h : Hart) (f : FormD), s.Runs (.skCancel h f) → ∃ t, exec (.skCancel h f) s = .next t ∧
    t.ctx h = { s.ctx h with run := .waiting .cancel } ∧
    (t.cl h.core).sk = (s.cl h.core).sk.map (fun x =>
      if x.own.same (ownerOf h (s.ctx h)) && (f.ctl == 1 || x.queue == f.queue.toNat) then { x with state := 6 } else x)) ∧
  ∀ (s : State) (h : Hart), (s.ctx h).run = .waiting .cancel → ∃ t, exec (.skCancelComplete h) s = .next t ∧
    t.ctx h = (s.ctx h).next ∧ t.marks = s.marks ∧
    ∀ o ∈ (t.cl h.core).sk, ¬ (o.own.same (ownerOf h (s.ctx h)) = true ∧ o.state = 6)

/-- A waiting inner operation starts when its queue's rate and tag bookings fit, and waits on otherwise (R129). -/
def Says.InnerOperationStarts : Prop :=
  ∀ (s : State) (c n : Nat) (o : SkOp), s.skOp c n = some o → o.n = n → o.state = 2 → o.rateWait = true → o.kind ≠ .pool →
    s.coreLive c = true → (s.job o.own.job).held = false → o.held = false → s.dx.stopped = false → o.park = false →
    (s.booking c o = .fits → exec (.innerOpStart c n) s = .next (s.setSk c { o with state := 3 })) ∧
    (s.booking c o = .waits → exec (.innerOpStart c n) s = .next s)

/-- A tile past its deadline stops its operation without an exception, is counted and reported to the Blotter as detector 0x09 with the
cluster, the entry and the tile (R131). -/
def Says.DeadlineMissStops : Prop :=
  ∀ (s : State) (c n : Nat) (o : SkOp), s.skOp c n = some o → s.skLive c o = true → s.qInner c o.queue = true → o.tiles < o.assigned →
    ∃ t, exec (.deadlineMiss c n) s = .next t ∧ t.skOp c n = none ∧ (∀ h, (t.ctx h).reports = (s.ctx h).reports) ∧
      t.reg (regSkDeadlineMiss (s.phys c)) = s.reg (regSkDeadlineMiss (s.phys c)) + 1 ∧
      t.reports = s.reports ++ [⟨0x09, ⟨0, s.phys c⟩, 0, BitVec.ofNat 64 (o.tiles * 65536 + o.n), some o.own.job, false⟩]

/-- SK_RESUME lets a halted operation go on from its saved position, at the end of a folio stop where one stands; SK_ABORT stops it with status ACCESS; a bit of an operation that is
not halted is ignored (R138, R143). -/
def Says.HaltsEnd : Prop :=
  ∀ (s : State) (c n : Nat) (v : Word) (o : SkOp), n < 32 → s.skOp c n = some o → o.n = n → v = BitVec.ofNat 64 (2 ^ n) →
    (o.state = 4 → s.dx.stopped = false → exec (.skResume c v) s = .next (s.setSk c { o with state := 3 })) ∧
    (o.state = 4 → s.dx.stopped = true → exec (.skResume c v) s = .next (s.setSk c { o with state := 5, saved := 3 })) ∧
    (o.state = 4 → exec (.skAbort c v) s = .next ((s.skFree c o 7 1).engReport c o.own o.group (BitVec.ofNat 64 (256 + n)))) ∧
    (o.state ≠ 4 → exec (.skResume c v) s = .next s ∧ exec (.skAbort c v) s = .next s)

/-- A write of SK_QCFGq is applied whole when the queue has no entry in use and the sums of WEIGHT and TAGRES stay within 64 and 512; else
it is discarded and CFG_REJ is set (R144). -/
def Says.QueueConfigWrites : Prop :=
  ∀ (s : State) (c q : Nat) (v : Word), q < 8 →
    (((s.cl c).sk.all (fun o => decide (o.queue ≠ q)) = true ∧
        ((upto 8).map (fun i => if i = q then fld v 6 0 else s.rfld (regSkQcfg (s.phys c) i) 6 0)).sum ≤ 64 ∧
        ((upto 8).map (fun i => if i = q then fld v 25 16 else s.rfld (regSkQcfg (s.phys c) i) 25 16)).sum ≤ 512) →
      exec (.skQcfgWrite c q v) s = .next (s.swReg (regSkQcfg (s.phys c) q) v)) ∧
    ((∃ o ∈ (s.cl c).sk, o.queue = q) → exec (.skQcfgWrite c q v) s = .next (s.setRbit (regSkStatus (s.phys c)) 2 true))
/-! ### The Quill (R145 to R177) -/

/-- The Quill takes operations of the task: it is free or the task's own, the task's operations are not being discarded, and the command
queue has room (R161, R162, R167). -/
def QlTakes (s : State) (h : Hart) : Prop :=
  s.qlDead h.core (ownerOf h (s.ctx h)) = false ∧ s.qlBusy h.core (ownerOf h (s.ctx h)) = false ∧ (s.cl h.core).ql.queue.length < 16

/-- An operation has entered the command queue last, with what it captured; the task is owner and goes on, and the queue has passed on what
its units can take. -/
def QlEnters (s : State) (h : Hart) (group : Nat) (kind : QlKind) (t : State) : Prop :=
  ∃ u : State, t = u.qlFlow h.core 16 ∧ u = { s with ctxs := u.ctxs, clu := u.clu } ∧ u.ctx h = (s.ctx h).next ∧
    u.cl h.core = { s.cl h.core with ql := (u.cl h.core).ql } ∧
    (∃ w, (u.cl h.core).ql.owner = some w ∧ w.same (ownerOf h (s.ctx h)) = true) ∧
    (u.cl h.core).ql.queue = (s.cl h.core).ql.queue ++
      [⟨(s.cl h.core).ql.nextSlot, group, ownerOf h (s.ctx h), (s.cl h.core).front, kind, false⟩] ∧
    (u.cl h.core).ql = { (s.cl h.core).ql with
      owner := (u.cl h.core).ql.owner, queue := (u.cl h.core).ql.queue, nextSlot := ((s.cl h.core).ql.nextSlot + 1) % 16
      w0 := if (s.cl h.core).ql.owner = none then none else (s.cl h.core).ql.w0
      w1 := if (s.cl h.core).ql.owner = none then none else (s.cl h.core).ql.w1
      flags := if (s.cl h.core).ql.owner = none then 0 else (s.cl h.core).ql.flags }

/-- Quill instructions whose words and operand words pass their checks enter the command queue of a Quill that takes them; a task that
becomes owner finds the flags clear and no weights loaded (R155 to R162, R177). -/
def Says.QuillIssues : Prop :=
  (∀ (s : State) (h : Hart) (f : FormT) (a c m : Word), a = (s.ctx h).getA f.src1.toNat → c = (s.ctx h).getA f.src2.toNat →
    m = (s.ctx h).getM f.mask.toNat → QlTakes s h →
    (s.Runs (.qlLdw h f) → cntRows c = 0 → cntOk c (isMx (qlFmt f)) = true →
      adrOk a (ldwShape (qlFmt f) (f.ext.getLsbD 21)).1 (rowBytes (qlFmt f) (ldwShape (qlFmt f) (f.ext.getLsbD 21)).2) = true →
      ∃ t, exec (.qlLdw h f) s = .next t ∧ QlEnters s h 0x09 (.ldw a c (f.ext.getLsbD 21) (exf f.ext 20 20) (qlFmt f)) t) ∧
    (s.Runs (.qlMma h f) → accOk c (qlAcc f) = true → cntOk c (isMx (qlFmt f)) = true →
      adrOk a (cntRows c) (rowBytes (qlFmt f) (fmtK (qlFmt f))) = true →
      ∃ t, exec (.qlMma h f) s = .next t ∧
        QlEnters s h 0x09 (.mma a c m (f.ext.getLsbD 19) (exf f.ext 20 20) (qlSemi f) (qlFmt f) (qlAcc f)) t) ∧
    (s.Runs (.qlWb h f) → accOk c (qlAcc f) = true → cntOk c false = true → adrOk a (cntRows c) (outBytes (qlFmt f)) = true →
      ∃ t, exec (.qlWb h f) s = .next t ∧ QlEnters s h 0x0A (.wb a c m (f.ext.getLsbD 16) (f.ext.getLsbD 17) (qlFmt f) (qlAcc f)) t) ∧
    (s.Runs (.qlSave h f) → accOk c (qlAcc f) = true → cntOk c false = true → adrOk a (cntRows c) 256 = true →
      ∃ t, exec (.qlSave h f) s = .next t ∧ QlEnters s h 0x0A (.save a c (qlAcc f)) t) ∧
    (s.Runs (.qlRestore h f) → accOk c (qlAcc f) = true → cntOk c false = true → adrOk a (cntRows c) 256 = true →
      ∃ t, exec (.qlRestore h f) s = .next t ∧ QlEnters s h 0x0A (.restore a c (qlAcc f)) t) ∧
    (s.Runs (.qlAccadd h f) → accOk c (qlAcc f) = true → cntOk c false = true →
      adrOk a (cntRows c) (if f.ext.getLsbD 19 then 256 else 128) = true →
      ∃ t, exec (.qlAccadd h f) s = .next t ∧ QlEnters s h 0x0A (.accadd a c m (f.ext.getLsbD 19) (qlSemi f) (qlAcc f)) t) ∧
    (s.Runs (.qlFill h f) → accOk c (qlAcc f) = true → cntOk c false = true →
      ∃ t, exec (.qlFill h f) s = .next t ∧ QlEnters s h 0x0A (.fill c m (qlSemi f) (qlAcc f)) t) ∧
    (s.Runs (.qlSwap h f) → ∃ t, exec (.qlSwap h f) s = .next t ∧ QlEnters s h 0x0A .swap t)) ∧
  ∀ (s : State) (h : Hart) (f : FormK), QlTakes s h →
    (∀ n, s.Runs (.qlSig h f) → s.handle (s.ctx h).task.job (f.imm.toNat % 1024) = some n →
      ∃ t, exec (.qlSig h f) s = .next t ∧ QlEnters s h 0x0B (.sig n.1) t) ∧
    (s.Runs (.qlSeed h f) → ∃ t, exec (.qlSeed h f) s = .next t ∧ QlEnters s h 0x0B (.seed ((s.ctx h).getA f.src.toNat)) t)

/-- In a Quill with nothing under way an instruction has its effect at once: QL.SWAP exchanges the roles, QL.SEED sets the generator (0
becomes 1), QL.SIG signals its mark; QL.LDW, QL.MMA and the drain operations stand in their units (R158, R162, R164, R169). -/
def Says.IdleQuillActs : Prop :=
  ∀ (s t : State) (h : Hart) (group : Nat) (kind : QlKind) (q : Quill), QlTakes s h → QlEnters s h group kind t → q = (t.cl h.core).ql →
    (s.cl h.core).ql.ops = [] → (s.cl h.core).ql.failed = false → (s.job (s.ctx h).task.job).held = false → s.dx.stopped = false →
    (kind = .swap → q.role = !(s.cl h.core).ql.role ∧ q.ops = []) ∧
    (∀ v, kind = .seed v → q.gen = (if v = 0 then 1 else v) ∧ q.ops = []) ∧
    (∀ n, kind = .sig n → ∃ u : State, t = u.engSignal h.core (some n) ∧ (u.cl h.core).ql.ops = []) ∧
    (∀ a c tr b g, kind = .ldw a c tr b g → q.queue = [] ∧ ∃ o, q.weight = some o ∧ o.kind = kind ∧ o.half = (s.cl h.core).front) ∧
    (∀ a c m st b semi g acc w, kind = .mma a c m st b semi g acc → (s.cl h.core).ql.owner ≠ none →
      (if b = 0 then (s.cl h.core).ql.w0 else (s.cl h.core).ql.w1) = some w → fmtMeet g w.fmt = true →
      q.queue = [] ∧ ∃ o, q.array = some o ∧ o.kind = kind ∧ o.role = (s.cl h.core).ql.role) ∧
    ((∃ a c m sr cl g acc, kind = .wb a c m sr cl g acc) ∨ (∃ a c acc, kind = .save a c acc) ∨ (∃ a c acc, kind = .restore a c acc) ∨
      (∃ a c m fu semi acc, kind = .accadd a c m fu semi acc) ∨ (∃ c m semi acc, kind = .fill c m semi acc) →
      q.queue = [] ∧ ∃ o, q.drain = some o ∧ o.kind = kind ∧ o.role = (s.cl h.core).ql.role)

/-- A Quill instruction of a task that does not own the Quill reports ACC_BUSY and is not queued; with operation words that R159 refuses it
raises ILLEGAL; a full command queue stalls issue (R77, R159, R161, R167). -/
def Says.QuillRefusals : Prop :=
  ∀ (s : State) (h : Hart) (f : FormT), s.Runs (.qlSwap h f) → s.qlDead h.core (ownerOf h (s.ctx h)) = false →
    (∀ g, g.core = h.core → hartKey g ≠ hartKey h → (s.ctx g).run = .idle ∨ (s.ctx g).task.num ≠ (s.ctx h).task.num) →
    (s.qlBusy h.core (ownerOf h (s.ctx h)) = true → exec (.qlSwap h f) s = .next (s.qlRefuse h 0x0A) ∧
      (s.qlRefuse h 0x0A).ctx h = { (s.ctx h).next with
        reports := (s.ctx h).reports ++ [⟨0x0A, BitVec.ofNat 64 (0x100 + (s.cl h.core).ql.nextSlot)⟩] } ∧
      (∀ o ∈ ((s.qlRefuse h 0x0A).cl h.core).ql.queue, o.own.same (ownerOf h (s.ctx h)) = false)) ∧
    (s.qlBusy h.core (ownerOf h (s.ctx h)) = false → 16 ≤ (s.cl h.core).ql.queue.length → exec (.qlSwap h f) s = .next s)

/-- QL.RDFL waits for the task's earlier Quill operations, then A[dst] := the Quill flags, and clears them with ctl[0] (R158, R177). -/
def Says.QuillReadsFlags : Prop :=
  ∀ (s : State) (h : Hart) (f : FormK) (w : Owner), s.Runs (.qlRdfl h f) → s.qlDead h.core (ownerOf h (s.ctx h)) = false →
    (s.cl h.core).ql.owner = some w → w.same (ownerOf h (s.ctx h)) = true →
    (s.qlDone h.core (ownerOf h (s.ctx h)) = false → exec (.qlRdfl h f) s = .next (s.waits h)) ∧
    (s.qlDone h.core (ownerOf h (s.ctx h)) = true → ∃ t, exec (.qlRdfl h f) s = .next t ∧
      t.ctx h = ((s.ctx h).setA f.dst.toNat (s.cl h.core).ql.flags).next ∧
      (t.cl h.core).ql = { (s.cl h.core).ql with flags := if f.ctl.getLsbD 0 then 0 else (s.cl h.core).ql.flags } ∧ t.mem = s.mem)

/-- What a unit executes completes with its effect and leaves the unit idle: QL.LDW fills its weight buffer, QL.FILL sets the enabled columns
of its rows to the identity and leaves the others, QL.SAVE writes each row's entries at full width at its address, and QL.MMA, QL.WB,
QL.RESTORE and QL.ACCADD have the effect of their rules; a QL.MMA whose format does not meet its weights, or that finds none, stops with
WFMT as it would leave the queue (R149, R157, R160, R162, R167 to R170). -/
def Says.QuillCompletes : Prop :=
  ∀ (s : State) (k : Nat) (o : QlOp), s.cluLive k = true → (s.cl k).ql.failed = false → (s.job o.own.job).held = false →
    ((s.cl k).ql.queue = [] →
      (∀ addr cnt tr wb g, (s.cl k).ql.weight = some o → o.kind = .ldw addr cnt tr wb g → ∃ t, exec (.qlOpComplete k ⟨.weight, .ok⟩) s = .next t ∧
        (t.cl k).ql = { (s.cl k).ql with
          weight := none
          w0 := if wb = 0 then some (s.loadWeights k o.half addr cnt tr g) else (s.cl k).ql.w0
          w1 := if wb = 0 then (s.cl k).ql.w1 else some (s.loadWeights k o.half addr cnt tr g) } ∧ t.mem = s.mem) ∧
      (∀ addr cnt mask st wb semi g acc w, (s.cl k).ql.array = some o → o.kind = .mma addr cnt mask st wb semi g acc →
        (if wb = 0 then (s.cl k).ql.w0 else (s.cl k).ql.w1) = some w →
        exec (.qlOpComplete k ⟨.array, .ok⟩) s = .next ((s.qlMma k o.half o.role addr cnt mask st w semi g acc none).modQl k fun q =>
          { q with array := none })) ∧
      ((s.cl k).ql.drain = some o →
        (∀ cnt mask semi acc, o.kind = .fill cnt mask semi acc → acc % 2048 + cntRows cnt ≤ 2048 →
          ∃ t, exec (.qlOpComplete k ⟨.drain, .ok⟩) s = .next t ∧ (t.cl k).ql.drain = none ∧
          ∀ i c, i < cntRows cnt → c < 32 → (t.cl k).ql.getAcc (accKey o.role acc i + c) =
            (if mask.getLsbD c then BitVec.ofNat 64 (semiId semi) else (s.cl k).ql.getAcc (accKey o.role acc i + c))) ∧
        (∀ addr cnt acc, o.kind = .save addr cnt acc → adrOk addr (cntRows cnt) 256 = true → 256 ≤ adrStride addr →
          ∃ t, exec (.qlOpComplete k ⟨.drain, .ok⟩) s = .next t ∧ (t.cl k).ql = { (s.cl k).ql with drain := none } ∧
          ∀ i c, i < cntRows cnt → c < 32 → BitVec.ofNat 64 (t.rdLe (sheetPa k o.half (adrOff addr + i * adrStride addr) + 8 * c) 8) =
            (s.cl k).ql.getAcc (accKey o.role acc i + c)) ∧
        (∀ addr cnt acc, o.kind = .restore addr cnt acc → acc % 2048 + cntRows cnt ≤ 2048 →
          ∃ t, exec (.qlOpComplete k ⟨.drain, .ok⟩) s = .next t ∧ (t.cl k).ql.drain = none ∧ t.mem = s.mem ∧
          ∀ i c, i < cntRows cnt → c < 32 → (t.cl k).ql.getAcc (accKey o.role acc i + c) =
            BitVec.ofNat 64 (s.rdLe (sheetPa k o.half (adrOff addr + i * adrStride addr) + 8 * c) 8)) ∧
        (∀ addr cnt mask sr clear g acc, o.kind = .wb addr cnt mask sr clear g acc → exec (.qlOpComplete k ⟨.drain, .ok⟩) s =
          .next ((s.qlWb k o.half o.role addr cnt mask sr clear g acc).modQl k fun q => { q with drain := none })) ∧
        (∀ addr cnt mask full semi acc, o.kind = .accadd addr cnt mask full semi acc → exec (.qlOpComplete k ⟨.drain, .ok⟩) s =
          .next ((s.qlAccadd k o.half o.role addr cnt mask full semi acc).modQl k fun q => { q with drain := none })))) ∧
    (∀ u addr cnt mask st wb semi g acc, (s.cl k).ql.queue = [o] → (s.cl k).ql.array = none → (s.cl k).ql.drain = none →
      (s.cl k).ql.weight = none → s.dx.stopped = false → o.kind = .mma addr cnt mask st wb semi g acc →
      (∀ w, (if wb = 0 then (s.cl k).ql.w0 else (s.cl k).ql.w1) = some w → fmtMeet g w.fmt = false) →
      exec (.qlOpComplete k ⟨u, .ok⟩) s = .next (s.qlStop k o.own o.group o.slot 2))

/-- A pass sum of a row and a column enters its accumulator entry as R152 and R157 state: QL.MMA leaves the entry of every disabled column
and of every row outside its range, and an enabled column's entry takes its pass sums over its old value, or over the identity with
START. -/
def Says.MmaCombinesColumns : Prop :=
  ∀ (q : Quill) (role : Bool) (semi g acc i : Nat) (mask : Word) (start : Bool) (row : List Fp) (cols : List (List Fp)) (key : Nat),
    (∀ c, c < 32 → mask.getLsbD c = true → key = accKey role acc i + c →
      (q.mmaRow role semi g acc i mask start row cols none).1.getAcc key =
        (combineAll semi (if start then BitVec.ofNat 64 (semiId semi) else q.getAcc key) (passes semi g row (cols.getD c []))).1) ∧
    ((∀ c, c < 32 → mask.getLsbD c = true → key ≠ accKey role acc i + c) →
      (q.mmaRow role semi g acc i mask start row cols none).1.getAcc key = q.getAcc key)

/-- Accumulation: in semiring 0 a finite sum carries the error term of R152, a sum that is not finite holds e at 0; in the others e is 0
(R150, R152). -/
def Says.CompensatedAddition : Prop :=
  ∀ (w : Word) (p : Nat),
    (isFin32 (add32 (accS w) p) = true → (accAdd w p).1 = accEntry (add32 (accS w) p) (add32 (accE w)
      (add32 (sub32 (accS w) (sub32 (add32 (accS w) p) (sub32 (add32 (accS w) p) (accS w)))) (sub32 p (sub32 (add32 (accS w) p) (accS w)))))) ∧
    (isFin32 (add32 (accS w) p) = false → (accAdd w p).1 = accEntry (add32 (accS w) p) 0) ∧
    ∀ semi, semi ≠ 0 → p < 2 ^ 32 → accE (accCombine semi w p).1 = 0

/-- QL.SAVE and then QL.RESTORE of the same rows leave every accumulator entry as it was, at full width (R170). -/
def Says.SaveThenRestore : Prop :=
  ∀ (s : State) (k : Nat) (role : Bool) (addr cnt : Word) (acc : Nat), adrOk addr (cntRows cnt) 256 = true → 256 ≤ adrStride addr →
    1 ≤ cntRows cnt → acc % 2048 + cntRows cnt ≤ 2048 →
    ∀ key, (((s.qlSave k 0 role addr cnt acc).qlRestore k 0 role addr cnt acc).cl k).ql.getAcc key = (s.cl k).ql.getAcc key
/-! ### The Brush (R178 to R203) -/

/-- Brush and reduction operations enter the cluster's queue of 16 with what they capture at issue (the A operands, the masks, the front
half), and the task goes on (R77, R180, R190, R191, R198). -/
def Says.BrushIssues : Prop :=
  (∀ e ∈ ([(.brAdd, 0x0C, 0x00), (.brSub, 0x0C, 0x01), (.brMul, 0x0C, 0x02), (.brFma, 0x0C, 0x03), (.brMin, 0x0C, 0x04),
      (.brMax, 0x0C, 0x05), (.brAbs, 0x0C, 0x06), (.brNeg, 0x0C, 0x07), (.brDiv, 0x0C, 0x08), (.brSqrt, 0x0C, 0x09),
      (.brExp2, 0x0C, 0x0A), (.brLog2, 0x0C, 0x0B), (.brAnd, 0x0C, 0x10), (.brOr, 0x0C, 0x11), (.brXor, 0x0C, 0x12),
      (.brSll, 0x0C, 0x13), (.brSrl, 0x0C, 0x14), (.brSra, 0x0C, 0x15), (.brCeq, 0x0C, 0x18), (.brClt, 0x0C, 0x19),
      (.brCle, 0x0C, 0x1A), (.brSel, 0x0C, 0x1C), (.brMov, 0x0D, 0x00), (.brBcast, 0x0D, 0x01), (.brPerm, 0x0D, 0x02),
      (.brToa, 0x0D, 0x04), (.brFroma, 0x0D, 0x05), (.brCvtn, 0x0D, 0x08), (.brCvtw, 0x0D, 0x09), (.brItof, 0x0D, 0x0A),
      (.brFtoi, 0x0D, 0x0B), (.brMxs, 0x0D, 0x0C), (.brMxq, 0x0D, 0x0D), (.brGath, 0x0D, 0x10), (.brScat, 0x0D, 0x11),
      (.rsSum, 0x0F, 0x00), (.rsMax, 0x0F, 0x01), (.rsMin, 0x0F, 0x02), (.rsArgmax, 0x0F, 0x03), (.rsScan, 0x0F, 0x04),
      (.rsDot, 0x0F, 0x05), (.smSoftmax, 0x0F, 0x08), (.smLse, 0x0F, 0x09)] : List ((Hart → FormT → Instr) × Nat × Nat)),
    ∀ (s : State) (h : Hart) (f : FormT), s.Runs (e.1 h f) → (s.cl h.core).br.length < 16 →
      (e.2.1 = 0x0D → 0x10 ≤ e.2.2 → ((s.ctx h).getA f.src1.toNat).toNat % 4 = 0 ∧ offOk ((s.ctx h).getA f.src1.toNat).toNat = true) →
      ∃ t o, exec (e.1 h f) s = .next t ∧ t.ctx h = (s.ctx h).next ∧ (t.cl h.core).br = (s.cl h.core).br ++ [o] ∧
        o.own = ownerOf h (s.ctx h) ∧ o.half = (s.cl h.core).front ∧ o.group = e.2.1 ∧ o.op = e.2.2 ∧ o.dst = f.dst.toNat ∧
        o.s1 = f.src1.toNat ∧ o.s2 = f.src2.toNat ∧ o.ext = f.ext.toNat ∧ o.a1 = (s.ctx h).getA f.src1.toNat ∧
        o.a2 = (s.ctx h).getA f.src2.toNat ∧ (e.2.1 = 0x0C → o.masks = [(s.ctx h).getM f.mask.toNat]) ∧
        t.mem = s.mem ∧ t.regs = s.regs ∧ t.marks = s.marks) ∧
  ∀ e ∈ ([(.brLd, 0x00), (.brSt, 0x01), (.brAddi, 0x04), (.brMuli, 0x05), (.brMini, 0x06), (.brMaxi, 0x07), (.brMovi, 0x08),
      (.brSeed, 0x10)] : List ((Hart → FormK → Instr) × Nat)),
    ∀ (s : State) (h : Hart) (f : FormK), s.Runs (e.1 h f) → (s.cl h.core).br.length < 16 →
      (e.2 ≤ 1 → brOff (s.brOpK h e.2 f) % 2 = 0 ∧ offOk (brOff (s.brOpK h e.2 f)) = true ∧
        inRegion (brOff (s.brOpK h e.2 f)) ((brLen f.ctl.toNat).getD 0) = true) →
      ∃ t o, exec (e.1 h f) s = .next t ∧ t.ctx h = (s.ctx h).next ∧ (t.cl h.core).br = (s.cl h.core).br ++ [o] ∧
        o.own = ownerOf h (s.ctx h) ∧ o.half = (s.cl h.core).front ∧ o.group = 0x0E ∧ o.op = e.2 ∧ o.dst = f.dst.toNat ∧
        o.s1 = f.src.toNat ∧ o.ext = f.ctl.toNat ∧ o.imm = f.imm ∧ o.a1 = (s.ctx h).getA f.src.toNat ∧
        o.masks = [(s.ctx h).getM f.mask.toNat] ∧ t.mem = s.mem ∧ t.regs = s.regs ∧ t.marks = s.marks

/-- A full queue of 16 stalls lane arithmetic and reductions (R77, R198); a base or an offset that R190 and R191 refuse raises ILLEGAL. -/
def Says.BrushIssueChecks : Prop :=
  (∀ (i : Instr) (x : Issued) (s : State), issued i = some x → fld x.word 63 59 = 0x0C ∨ fld x.word 63 59 = 0x0F → s.Runs i →
    16 ≤ (s.cl x.h.core).br.length → exec i s = .next s) ∧
  (∀ e ∈ ([(.brGath, 0x10), (.brScat, 0x11)] : List ((Hart → FormT → Instr) × Nat)), ∀ (s : State) (h : Hart) (f : FormT),
    s.Runs (e.1 h f) → ((s.ctx h).getA f.src1.toNat).toNat % 4 ≠ 0 ∨ offOk ((s.ctx h).getA f.src1.toNat).toNat = false →
    exec (e.1 h f) s = .next (s.raise h .illegal (wordT 0x0D e.2 f))) ∧
  ∀ e ∈ ([(.brLd, 0x00), (.brSt, 0x01)] : List ((Hart → FormK → Instr) × Nat)), ∀ (s : State) (h : Hart) (f : FormK),
    s.Runs (e.1 h f) → brOff (s.brOpK h e.2 f) % 2 ≠ 0 ∨ inRegion (brOff (s.brOpK h e.2 f)) ((brLen f.ctl.toNat).getD 0) = false →
    exec (e.1 h f) s = .next (s.raise h .illegal (wordK 0x0E e.2 f))

/-- BR.RDFL waits for the task's earlier operations, then A[dst] := BR_FLAGS, cleared with ctl[0] (chapter 6, Flags, counters and
registers). -/
def Says.BrushReadsFlags : Prop :=
  ∀ (s : State) (h : Hart) (f : FormK), s.Runs (.brRdfl h f) →
    ((∃ o ∈ (s.cl h.core).br, o.own.hart = h) → exec (.brRdfl h f) s = .next (s.waits h)) ∧
    ((∀ o ∈ (s.cl h.core).br, o.own.hart ≠ h) → ∃ t, exec (.brRdfl h f) s = .next t ∧
      (t.ctx h).pc = (s.ctx h).next.pc ∧ (t.ctx h).brFlags = (if f.ctl.getLsbD 0 then 0 else (s.ctx h).brFlags) ∧
      (f.dst.toNat ≠ 0 → (t.ctx h).getA f.dst.toNat = (s.ctx h).brFlags) ∧
      (∀ r, r ≠ f.dst.toNat → (t.ctx h).getA r = (s.ctx h).getA r) ∧ (t.ctx h).v = (s.ctx h).v ∧ t.mem = s.mem ∧ t.regs = s.regs)

/-- The oldest Brush or reduction operation completes and leaves the queue: an enabled lane of V[dst] takes its result, a disabled one is
kept or, with ZM, zeroed; comparisons write M[dst]; the flags of enabled lanes are ORed into BR_FLAGS; V registers but dst stand (R180,
R181, R185, R198). -/
def Says.BrushCompletes : Prop :=
  ∀ (s : State) (k : Nat) (o : BrOp) (q : List BrOp) (h : Hart), (s.cl k).br = o :: q → o.own.hart = h → k < 128 → s.coreLive k = true →
    (s.cl k).brFailed = false → (s.job o.own.job).held = false → s.dx.stopped = false → o.dst < 64 →
    (∃ t, exec (.brOpComplete k .ok) s = .next t ∧ (t.cl k).br = q ∧ (t.ctx h).pc = (s.ctx h).pc ∧ t.marks = s.marks ∧
      t.reg (regBrOps (s.phys k)) = s.reg (regBrOps (s.phys k)) + 1) ∧
    (o.group = 0x0C → o.op < 0x18 → ∃ t, exec (.brOpComplete k .ok) s = .next t ∧ t.mem = s.mem ∧
      (∀ l, l < 64 → (t.ctx h).getV o.dst l = (if (o.mask 0).getLsbD l then
          (brLane o.op o.ty (rmOf o.rm) ((s.ctx h).getV o.dst l) ((s.ctx h).getV o.s1 l) ((s.ctx h).getV o.s2 l)).1
        else if o.zm then 0 else (s.ctx h).getV o.dst l)) ∧
      (∀ r l, r < 64 → l < 64 → r ≠ o.dst → (t.ctx h).getV r l = (s.ctx h).getV r l) ∧
      (t.ctx h).brFlags = ((List.range 64).filter (fun l => (o.mask 0).getLsbD l)).foldl (fun w l => w ||| BitVec.ofNat 64
        (brLane o.op o.ty (rmOf o.rm) ((s.ctx h).getV o.dst l) ((s.ctx h).getV o.s1 l) ((s.ctx h).getV o.s2 l)).2.bits) (s.ctx h).brFlags) ∧
    (o.group = 0x0C → 0x18 ≤ o.op → o.op ≤ 0x1A → 1 ≤ o.dst → o.dst < 16 → ∃ t, exec (.brOpComplete k .ok) s = .next t ∧
      t.mem = s.mem ∧ (t.ctx h).v = (s.ctx h).v ∧
      ∀ l, l < 64 → ((t.ctx h).getM o.dst).getLsbD l = ((o.mask 0).getLsbD l &&
        (brCompare o.op o.ty ((s.ctx h).getV o.s1 l) ((s.ctx h).getV o.s2 l)).1)) ∧
    (o.group = 0x0C → o.op = 0x1C → ∃ t, exec (.brOpComplete k .ok) s = .next t ∧ t.mem = s.mem ∧
      ∀ l, l < 64 → (t.ctx h).getV o.dst l = (if (o.mask 0).getLsbD l then (s.ctx h).getV o.s1 l else (s.ctx h).getV o.s2 l))

/-- What the movements, Sheet accesses and reductions write when they complete (R180, R183, R190 to R195). -/
def Says.BrushMoves : Prop :=
  ∀ (s : State) (k : Nat) (o : BrOp) (q : List BrOp) (h : Hart), (s.cl k).br = o :: q → o.own.hart = h → k < 128 → s.coreLive k = true →
    (s.cl k).brFailed = false → (s.job o.own.job).held = false → s.dx.stopped = false → o.dst < 64 →
    (∀ e ∈ ([(0x00, fun l => (s.ctx h).getV o.s1 l), (0x01, fun _ => o.a1.setWidth 32),
        (0x02, fun l => (s.ctx h).getV o.s1 (((s.ctx h).getV o.s2 l).toNat % 64))] : List (Nat × (Nat → Lane))),
      o.group = 0x0D → o.op = e.1 → ∃ t, exec (.brOpComplete k .ok) s = .next t ∧ t.mem = s.mem ∧
        ∀ l, l < 64 → (t.ctx h).getV o.dst l = (if (o.mask 0).getLsbD l then e.2 l else if o.zm then 0 else (s.ctx h).getV o.dst l)) ∧
    (o.group = 0x0D → o.op = 0x04 → 1 ≤ o.dst → o.dst < 32 → (o.mask 0).getLsbD o.low = true → ∃ t,
      exec (.brOpComplete k .ok) s = .next t ∧ (t.ctx h).getA o.dst = ((s.ctx h).getV o.s1 o.low).setWidth 64) ∧
    (o.group = 0x0E → o.op = 0x10 → ∃ t, exec (.brOpComplete k .ok) s = .next t ∧ (t.ctx h).brGen = (if o.a1 = 0 then 1 else o.a1)) ∧
    (o.group = 0x0E → o.op = 0x00 → ∀ n, brLen (o.ext % 16) = some n → ∃ t, exec (.brOpComplete k .ok) s = .next t ∧ t.mem = s.mem ∧
      ∀ b, b < 256 → ((t.ctx h).vBytes o.dst).getD b 0 = (if b < n then s.rd (sheetPa k o.half (brOff o) + b) else 0)) ∧
    (o.group = 0x0E → o.op = 0x01 → ∀ n, brLen (o.ext % 16) = some n → n ≠ 256 → ∃ t, exec (.brOpComplete k .ok) s = .next t ∧
      (∀ b, b < n → t.rd (sheetPa k o.half (brOff o) + b) = ((s.ctx h).vBytes o.dst).getD b 0) ∧
      ∀ a, a < sheetPa k o.half (brOff o) ∨ sheetPa k o.half (brOff o) + n ≤ a → t.rd a = s.rd a) ∧
    (o.group = 0x0F → o.op = 0x00 → o.ty ≠ 0 → 1 ≤ o.dst → o.dst < 32 → ∃ t, exec (.brOpComplete k .ok) s = .next t ∧ t.mem = s.mem ∧
      (t.ctx h).getA o.dst = (((List.range 64).filter (fun l => (o.mask 0).getLsbD l)).map (fun l =>
        laneWord (o.ty == 1) ((s.ctx h).getV o.s1 l))).foldl (· + ·) 0 ∧ (t.ctx h).v = (s.ctx h).v)

/-- Integer lanes: wrapping arithmetic, and shifts by the low five bits (R178, R179). -/
def Says.BrushIntegerLanes : Prop :=
  ∀ (r : Rnd) (d a b : Lane), ∀ ty ∈ [1, 2],
    ∀ e ∈ ([(0x00, a + b), (0x01, a - b), (0x02, a * b), (0x03, d + a * b), (0x10, a &&& b), (0x11, a ||| b), (0x12, a ^^^ b),
      (0x13, a <<< (b.toNat % 32)), (0x14, a >>> (b.toNat % 32)), (0x15, a.sshiftRight (b.toNat % 32)),
      (0x04, if ty = 1 then (if b.slt a then b else a) else (if b.ult a then b else a)),
      (0x05, if ty = 1 then (if a.slt b then b else a) else (if a.ult b then b else a))] : List (Nat × Lane)),
    (brLane e.1 ty r d a b).1 = e.2 ∧ (brLane e.1 ty r d a b).2.bits = 0

/-- A mismatch of the duplicated reduction unit is counted, reported to the Blotter as detector 0x05 with the cluster, and stops every later
completion; the operation has no effect. A lane that comes out wrong with another residue fails too, and one with the same residue stands as
it came out (R202, R203). -/
def Says.BrushMismatch : Prop :=
  ∀ (s : State) (k : Nat) (o : BrOp) (q : List BrOp), (s.cl k).br = o :: q → k < 128 → s.coreLive k = true → (s.cl k).brFailed = false →
    (s.job o.own.job).held = false → s.dx.stopped = false →
    (∀ r, (o.group = 0x0F ∧ r = .mismatch) ∨ (∃ i j v x, o.group ≠ 0x0F ∧ r = .upset i j v ∧ ((s.brRun k o).ctx o.own.hart).resultAt o i = some x ∧
        o.residues v ≠ o.residues x) →
      ∃ t, exec (.brOpComplete k r) s = .next t ∧ (t.cl k).brFailed = true ∧ (t.cl k).br = o :: q ∧ t.mem = s.mem ∧
      (∀ h, t.ctx h = s.ctx h) ∧ t.reg (regBrResFail (s.phys k)) = s.reg (regBrResFail (s.phys k)) + 1 ∧
      t.reports = s.reports ++ [⟨0x05, ⟨0, s.phys k⟩, 0, 0, none, false⟩]) ∧
    (∀ i j v x, o.group ≠ 0x0F → ((s.brRun k o).ctx o.own.hart).resultAt o i = some x → o.residues v = o.residues x →
      ∃ t, exec (.brOpComplete k (.upset i j v)) s = .next t ∧ (t.cl k).br = q ∧ t.ctx o.own.hart =
        ((s.brRun k o).ctx o.own.hart).putResult o i v) ∧
    ∀ (u : State) (r : OpCheck), (u.cl k).brFailed = true → exec (.brOpComplete k r) u = .next u

/-- The special rows of the softmax unit: an invalid scale or a NaN, no finite element, and +∞ settle a row before any exponential is taken
(R196). -/
def Says.SoftmaxCases : Prop :=
  ∀ (sf : Nat) (xs : List Nat), sf < 2 ^ 32 → (∀ x ∈ xs, x < 2 ^ 32) →
    ((∃ x ∈ xs, isNan32 x = true) → smCase sf xs = .invalid) ∧
    (sf = 0 → smCase sf xs = .invalid) ∧
    (sf = 0x3F800000 → (∀ x ∈ xs, x = 0xFF800000) → smCase sf xs = .empty) ∧
    (sf = 0x3F800000 → (∀ x ∈ xs, isNan32 x = false) → 0x7F800000 ∈ xs → smCase sf xs = .infs (xs.count 0x7F800000))
/-! ### The Stipple (R205 to R233) -/

/-- The Stipple takes operations of the task: it is free or the task's own, the task's operations are not being discarded, and the command
queue has room (R229, R230, R231). -/
def SpTakes (s : State) (h : Hart) : Prop :=
  s.spDead h.core (ownerOf h (s.ctx h)) = false ∧ s.spBusy h.core (ownerOf h (s.ctx h)) = false ∧ (s.cl h.core).sp.queue.length < 16

/-- An operation as it stands at its issue, with the slot and the place in the order that are next. -/
def spOpAt (s : State) (h : Hart) (group : Nat) (kind : SpKind) : SpOp :=
  ⟨(s.cl h.core).sp.nextSlot, group, ownerOf h (s.ctx h), (s.cl h.core).front, kind, (s.cl h.core).sp.count⟩

/-- An operation has entered the command queue last, with what it captured; the task is owner and goes on, a new owner finds the Stipple
empty, and the queue has passed on what its units can take. -/
def SpEnters (s : State) (h : Hart) (group : Nat) (kind : SpKind) (t : State) : Prop :=
  ∃ u : State, t = u.spFlow h.core 16 ∧ u = { s with ctxs := u.ctxs, clu := u.clu } ∧ u.ctx h = (s.ctx h).next ∧
    u.cl h.core = { s.cl h.core with sp := (u.cl h.core).sp } ∧
    (∃ w, (u.cl h.core).sp.owner = some w ∧ w.same (ownerOf h (s.ctx h)) = true) ∧
    (u.cl h.core).sp.queue = (s.cl h.core).sp.queue ++ [spOpAt s h group kind] ∧
    ((s.cl h.core).sp.owner ≠ none → (u.cl h.core).sp = { (s.cl h.core).sp with
      queue := (u.cl h.core).sp.queue, nextSlot := ((s.cl h.core).sp.nextSlot + 1) % 16, count := (s.cl h.core).sp.count + 1 }) ∧
    ((s.cl h.core).sp.owner = none → (u.cl h.core).sp = { (s.cl h.core).sp with
      owner := (u.cl h.core).sp.owner, queue := (u.cl h.core).sp.queue, nextSlot := ((s.cl h.core).sp.nextSlot + 1) % 16
      count := (s.cl h.core).sp.count + 1, keyed := false, buf := [], keys := [], b0 := none, b1 := none, skipped := [], flags := 0 })

/-- Stipple instructions whose words and operand words pass their checks enter the command queue of a Stipple that takes them; an unmapped
handle of SP.SIG raises MARK (R77, R215, R216, R229, R230). -/
def Says.StippleIssues : Prop :=
  (∀ (s : State) (h : Hart) (f : FormT) (d a c m : Word), d = (s.ctx h).getA f.dst.toNat → a = (s.ctx h).getA f.src1.toNat →
    c = (s.ctx h).getA f.src2.toNat → m = (s.ctx h).getM f.mask.toNat → SpTakes s h →
    (s.Runs (.spLdb h f) → spCntOk c = true → cntRows c * (4 * elemBits (spFmt f)) ≤ 65536 →
      adrOk a (cntRows c) (4 * elemBits (spFmt f)) = true →
      ∃ t, exec (.spLdb h f) s = .next t ∧ SpEnters s h 0x10 (.ldb a c (exf f.ext 21 21) (spFmt f)) t) ∧
    (s.Runs (.spMma h f) → tileOffOk a = true → (f.ext.getLsbD 23 = true → predOk d = true) →
      ∃ t, exec (.spMma h f) s = .next t ∧ SpEnters s h 0x10 (.mma a d (f.ext.getLsbD 23) (f.ext.getLsbD 22) (f.ext.getLsbD 20)
        (exf f.ext 21 21) (spSemi f) (spFmt f) (spRow f) m) t) ∧
    (s.Runs (.spKadd h f) → tileOffOk a = true →
      ∃ t, exec (.spKadd h f) s = .next t ∧ SpEnters s h 0x10 (.kadd a (spSemi f) (spFmt f) m) t) ∧
    (s.Runs (.spDrain h f) → spCntOk c = true → (f.dst = 0 → adrOk a (cntRows c) (4 * elemBits (spFmt f)) = true) →
      (f.dst ≠ 0 → adrOk a 1 (16 + cntRows c * recBytes (spFmt f)) = true) →
      ∃ t, exec (.spDrain h f) s = .next t ∧ SpEnters s h 0x10 (.drain f.dst.toNat a c (f.ext.getLsbD 23) (f.ext.getLsbD 20)
        (f.ext.getLsbD 19) (spSemi f) (spFmt f) (spRow f) m) t) ∧
    (s.Runs (.spCmp h f) → spCntOk c = true → (exf f.ext 25 24 ≠ 2 ∨ cntRows c % 4 = 0) →
      adrOk a (cntRows c) (4 * spRow f * valBytes (spFmt f)) = true → tileOffOk d = true →
      inRegion (fld d 20 0) (cmpRoom (cntRows c) (4 * spRow f) (valBytes (spFmt f))) = true →
      ∃ t, exec (.spCmp h f) s = .next t ∧
        SpEnters s h 0x10 (.cmp f.dst.toNat d a c (exf f.ext 25 24) (spSemi f) (spFmt f) (spRow f)) t)) ∧
  ∀ (s : State) (h : Hart) (f : FormK), SpTakes s h →
    (∀ n, s.Runs (.spSig h f) → s.handle (s.ctx h).task.job (f.imm.toNat % 1024) = some n →
      ∃ t, exec (.spSig h f) s = .next t ∧ SpEnters s h 0x11 (.sig n.1) t) ∧
    (s.Runs (.spSig h f) → s.handle (s.ctx h).task.job (f.imm.toNat % 1024) = none →
      exec (.spSig h f) s = .next (s.raise h .mark (BitVec.ofNat 64 (f.imm.toNat % 1024)))) ∧
    (s.Runs (.spSeed h f) → ∃ t, exec (.spSeed h f) s = .next t ∧ SpEnters s h 0x11 (.seed ((s.ctx h).getA f.src.toNat)) t) ∧
    (s.Runs (.spClr h f) → ∃ t, exec (.spClr h f) s = .next t ∧ SpEnters s h 0x11
      (.clr (f.ctl.toNat % 4) (f.imm.toNat % 4096) (f.imm.toNat / 4096 % 2048) (f.ctl.toNat / 4 % 8)) t)

/-- In a Stipple with nothing under way SP.SEED sets the generator and SP.SIG signals its mark at once; every other operation stands in its
unit, or stops with the status that refuses it (R216, R230, R231). -/
def Says.IdleStippleActs : Prop :=
  ∀ (s t : State) (h : Hart) (group : Nat) (kind : SpKind), SpTakes s h → SpEnters s h group kind t → (s.cl h.core).sp.ops = [] →
    (s.cl h.core).sp.failed = false → (s.cl h.core).sp.repairing = false → (s.job (s.ctx h).task.job).held = false → s.dx.stopped = false →
    (∀ n, kind = .sig n → ∃ u : State, t = (u.engSignal h.core (some n)).bump (regSpOps (s.phys h.core)) ∧ (u.cl h.core).sp.ops = []) ∧
    (∀ v, kind = .seed v → (t.cl h.core).sp.gen = (if v = 0 then 1 else v) ∧ (t.cl h.core).sp.ops = [] ∧
      t.reg (regSpOps (s.phys h.core)) = s.reg (regSpOps (s.phys h.core)) + 1) ∧
    (∀ x, kind.unit = some x → (s.cl h.core).sp.owner ≠ none →
      (s.spRefusal h.core (spOpAt s h group kind) = none → (t.cl h.core).sp.queue = [] ∧
        (t.cl h.core).sp.unit x = some (spOpAt s h group kind)) ∧
      (∀ st, s.spRefusal h.core (spOpAt s h group kind) = some st → ∃ u : State, t = u.spStop h.core (spOpAt s h group kind) st ∧
        (u.cl h.core).sp.queue = [spOpAt s h group kind]))

/-- A Stipple operation of a task that is not the owner stops with OWN_BUSY, reported with its slot; a full queue stalls issue; an operand
word that R215 refuses raises ILLEGAL (R77, R215, R229, R231). -/
def Says.StippleRefusals : Prop :=
  (∀ (s : State) (h : Hart) (f : FormK), s.Runs (.spClr h f) → s.spDead h.core (ownerOf h (s.ctx h)) = false →
    (∀ g, g.core = h.core → hartKey g ≠ hartKey h → (s.ctx g).run = .idle ∨ (s.ctx g).task.num ≠ (s.ctx h).task.num) →
    (s.spBusy h.core (ownerOf h (s.ctx h)) = true → ∃ t, exec (.spClr h f) s = .next t ∧
      t.ctx h = { (s.ctx h).next with
        reports := (s.ctx h).reports ++ [⟨0x11, BitVec.ofNat 64 (0x100 + (s.cl h.core).sp.nextSlot)⟩] } ∧
      (t.cl h.core).sp.queue = (s.cl h.core).sp.queue ∧ (t.cl h.core).sp.buf = (s.cl h.core).sp.buf) ∧
    (s.spBusy h.core (ownerOf h (s.ctx h)) = false → 16 ≤ (s.cl h.core).sp.queue.length → exec (.spClr h f) s = .next s)) ∧
  ∀ (s : State) (h : Hart) (f : FormT), s.Runs (.spKadd h f) → ((s.ctx h).getA f.src1.toNat).toNat % 16 ≠ 0 →
    exec (.spKadd h f) s = .next (s.raise h .illegal (wordT 0x10 0x02 f))

/-- SP.RDFL waits for the task's earlier operations, then A[dst] := the Stipple flags, cleared with ctl[0] (R215). -/
def Says.StippleReadsFlags : Prop :=
  ∀ (s : State) (h : Hart) (f : FormK) (w : Owner), s.Runs (.spRdfl h f) → s.spDead h.core (ownerOf h (s.ctx h)) = false →
    (s.cl h.core).sp.owner = some w → w.same (ownerOf h (s.ctx h)) = true →
    (s.spDone h.core (ownerOf h (s.ctx h)) = false → exec (.spRdfl h f) s = .next (s.waits h)) ∧
    (s.spDone h.core (ownerOf h (s.ctx h)) = true → ∃ t, exec (.spRdfl h f) s = .next t ∧
      t.ctx h = ((s.ctx h).setA f.dst.toNat (s.cl h.core).sp.flags).next ∧ t.mem = s.mem ∧
      (t.cl h.core).sp = { (s.cl h.core).sp with flags := if f.ctl.getLsbD 0 then 0 else (s.cl h.core).sp.flags })

/-- What a unit of the Stipple executes completes with its effect and leaves the unit idle: SP.LDB loads a B buffer, SP.CLR sets rows or the
whole buffer, a drain of rows writes the enabled columns; operations in the wrong mode or on a bad header stop with MODE or FORMAT and change
no entry. SP.SEED and SP.SIG act as they leave the queue (R207, R210, R215, R216, R219, R223, R228, R231). -/
def Says.StippleCompletes : Prop :=
  (∀ (s : State) (k : Nat) (o : SpOp), s.cluLive k = true → (s.cl k).sp.failed = false → (s.job o.own.job).held = false →
    (s.cl k).sp.queue = [] →
    (∀ a c b g, (s.cl k).sp.load = some o → o.kind = .ldb a c b g → ∃ t, exec (.spOpComplete k ⟨.load, .ok⟩) s = .next t ∧
      (t.cl k).sp.load = none ∧ t.mem = s.mem ∧
      (t.cl k).sp.buf = (s.cl k).sp.buf ∧ ∃ x, (if b = 0 then (t.cl k).sp.b0 else (t.cl k).sp.b1) = some x ∧ x.fmt = g ∧ x.rows = cntRows c ∧
        (if b = 0 then (t.cl k).sp.b1 = (s.cl k).sp.b1 else (t.cl k).sp.b0 = (s.cl k).sp.b0)) ∧
    (∀ rows first semi, (s.cl k).sp.port = some o → o.kind = .clr 0 rows first semi → first + rows ≤ 2048 →
      ∃ t, exec (.spOpComplete k ⟨.port, .ok⟩) s = .next t ∧ (t.cl k).sp.port = none ∧ (t.cl k).sp.keyed = (s.cl k).sp.keyed ∧
      ∀ r c, c < 32 → smapGet (fun _ => 0) (t.cl k).sp.buf (32 * r + c) =
        (if first ≤ r ∧ r < first + rows then BitVec.ofNat 64 (semiId semi) else smapGet (fun _ => 0) (s.cl k).sp.buf (32 * r + c))) ∧
    (∀ m rows first semi, (s.cl k).sp.port = some o → o.kind = .clr m rows first semi → 1 ≤ m → m ≤ 2 →
      ∃ t, exec (.spOpComplete k ⟨.port, .ok⟩) s = .next t ∧ (t.cl k).sp.port = none ∧ (t.cl k).sp.keyed = decide (m = 2) ∧
      (t.cl k).sp.buf = [] ∧ (t.cl k).sp.keys = [] ∧ (t.cl k).sp.skipped = []) ∧
    (∀ d p u tr st b semi g row m, (s.cl k).sp.lanes = some o → (s.cl k).sp.repairing = false →
      o.kind = .mma d p u tr st b semi g row m →
      (s.tileAt k o.half (fld d 20 0) = none → exec (.spOpComplete k ⟨.lanes, .ok⟩) s = .next (s.spStop k o 2)) ∧
      ((∃ x, s.tileAt k o.half (fld d 20 0) = some x ∧ (tr = false ∨ x.kind = 2)) → (s.cl k).sp.keyed = true →
        exec (.spOpComplete k ⟨.lanes, .ok⟩) s = .next (s.spStop k o 4)) ∧
      ((∃ x, s.tileAt k o.half (fld d 20 0) = some x ∧ (tr = false ∨ x.kind = 2)) → (s.cl k).sp.keyed = false →
        (if b = 0 then (s.cl k).sp.b0 else (s.cl k).sp.b1) = none → exec (.spOpComplete k ⟨.lanes, .ok⟩) s = .next (s.spStop k o 3)) ∧
      (∀ x y, s.spMmaCheck k o.half (fld d 20 0) tr b g row = .inr (x, y) → u = false → (s.cl k).sp.repair = [] →
        ∃ t, exec (.spOpComplete k ⟨.lanes, .ok⟩) s = .next t ∧
        (t.cl k).sp.lanes = none ∧ t.mem = s.mem ∧ ∀ r c, c < 32 → (m.getLsbD c = false ∨ r < row ∨ row + outRows x tr ≤ r) →
          smapGet (fun _ => 0) (t.cl k).sp.buf (32 * r + c) = smapGet (fun _ => 0) (s.cl k).sp.buf (32 * r + c))) ∧
    (∀ d semi g m, (s.cl k).sp.port = some o → o.kind = .kadd d semi g m →
      (s.recHead k o.half (fld d 20 0) = none → exec (.spOpComplete k ⟨.port, .ok⟩) s = .next (s.spStop k o 2)) ∧
      (∀ x, s.recHead k o.half (fld d 20 0) = some x → (s.cl k).sp.keyed = false →
        exec (.spOpComplete k ⟨.port, .ok⟩) s = .next (s.spStop k o 4)) ∧
      (∀ x, s.recHead k o.half (fld d 20 0) = some (x, 0) → (s.cl k).sp.keyed = true → ∃ t, exec (.spOpComplete k ⟨.port, .ok⟩) s = .next t ∧
        (t.cl k).sp.port = none ∧ (t.cl k).sp.keys = (s.cl k).sp.keys)) ∧
    (∀ d a c relu clr sr semi g row m, (s.cl k).sp.port = some o → o.kind = .drain d a c relu clr sr semi g row m →
      ((s.cl k).sp.keyed ≠ decide (d ≠ 0) → exec (.spOpComplete k ⟨.port, .ok⟩) s = .next (s.spStop k o 4)) ∧
      (d = 0 → (s.cl k).sp.keyed = false → clr = false → row + cntRows c ≤ 2048 → ∃ t, exec (.spOpComplete k ⟨.port, .ok⟩) s = .next t ∧
        (t.cl k).sp.port = none ∧ (t.cl k).sp.buf = (s.cl k).sp.buf ∧ (t.cl k).sp.skipped = (s.cl k).sp.skipped)) ∧
    (∀ dst d a c kd semi g kdim, (s.cl k).sp.comp = some o → o.kind = .cmp dst d a c kd semi g kdim →
      ∃ t, exec (.spOpComplete k ⟨.comp, .ok⟩) s = .next t ∧ (t.cl k).sp.comp = none ∧ (t.cl k).sp.buf = (s.cl k).sp.buf)) ∧
  ∀ (s : State) (k : Nat) (x : SpUnit) (o : SpOp), s.cluLive k = true → (s.cl k).sp.failed = false → (s.job o.own.job).held = false →
    s.dx.stopped = false → (s.cl k).sp.repairing = false → (s.cl k).sp.ops = [o] → (s.cl k).sp.queue = [o] →
    (∀ v, o.kind = .seed v → ∃ t, exec (.spOpComplete k ⟨x, .ok⟩) s = .next t ∧ (t.cl k).sp.ops = [] ∧
      (t.cl k).sp.gen = (if v = 0 then 1 else v)) ∧
    (∀ n, o.kind = .sig n → ∃ t, exec (.spOpComplete k ⟨x, .ok⟩) s = .next t ∧ (t.cl k).sp.ops = [] ∧ t.mem = s.mem)

/-- The 2:4 pattern: a group of more than two present values keeps two, among them no value of smaller magnitude than a dropped one, and
a group of two or fewer keeps them all (R212); in a block of kind 2 no row and no column keeps more than two (R213). -/
def Says.PruningPatterns : Prop :=
  (∀ (f : Nat) (l : List (Nat × Nat)), l.length ≤ 2 → keepTwo f l = (l, false)) ∧
  (∀ (f : Nat) (l : List (Nat × Nat)), 3 ≤ l.length → l.Nodup → (keepTwo f l).2 = true ∧ (keepTwo f l).1.length = 2 ∧
    (keepTwo f l).1.Sublist l ∧ ∀ x ∈ (keepTwo f l).1, ∀ y ∈ l, y ∉ (keepTwo f l).1 → magAbove (elemFp f y.2) (elemFp f x.2) = false) ∧
  ∀ (f i : Nat) (l : List (Nat × Nat)), l.Nodup → i < 4 → ((keepBlock f l).1.filter (fun x => x.1 / 4 == i)).length ≤ 2 ∧
    ((keepBlock f l).1.filter (fun x => x.1 % 4 == i)).length ≤ 2

/-- The sets of R220: a key has one set and one bank, and a record of a key that has an entry goes to that entry. -/
def Says.KeyedPlaces : Prop :=
  (∀ row cb : Nat, keySet row cb < 512) ∧
  ∀ (q : Stipple) (row cb : Nat),
    (∀ p, q.place row cb = .held p → ∃ e ∈ q.keys, e.row = row ∧ e.cb = cb ∧ e.place = p) ∧
    (∀ p, q.place row cb = .fresh p false → p / 4 = keySet row cb ∧ ∀ e ∈ q.keys, e.place ≠ p) ∧
    (∀ p, q.place row cb = .fresh p true → 2048 ≤ p ∧ p < 2112 ∧ (∀ e ∈ q.keys, e.place ≠ p) ∧
      ∀ w, w < 4 → ∃ e ∈ q.keys, e.place = 4 * keySet row cb + w)

/-- A repair pass computes the queued rows and ends the operation (R226). A mismatch stops every later Stipple operation of the cluster, is
counted and is reported as detector 0x06 (R232). -/
def Says.StippleRepairAndFaults : Prop :=
  ∀ (s : State) (k : Nat) (o : SpOp), (s.cl k).sp.lanes = some o → s.cluLive k = true → (s.job o.own.job).held = false →
    (s.cl k).sp.failed = false → (s.cl k).sp.queue = [] → ∀ d p u tr st b semi g row m, o.kind = .mma d p u tr st b semi g row m →
    (∀ x y, (s.cl k).sp.repairing = true →
      s.tileAt k o.half (fld d 20 0) = some x → (if b = 0 then (s.cl k).sp.b0 else (s.cl k).sp.b1) = some y →
      ∃ t, exec (.spRepairPass ⟨k, .ok⟩) s = .next t ∧ (t.cl k).sp.lanes = none ∧ (t.cl k).sp.repair = [] ∧ (t.cl k).sp.repairing = false ∧
        t.reg (regSpOps (s.phys k)) = s.reg (regSpOps (s.phys k)) + 1) ∧
    ((s.cl k).sp.repairing = true → (∀ r, exec (.spOpComplete k ⟨.lanes, r⟩) s = .next s) ∧
      ∀ x y, s.tileAt k o.half (fld d 20 0) = some x → (if b = 0 then (s.cl k).sp.b0 else (s.cl k).sp.b1) = some y →
        exec (.spRepairPass ⟨k, .mismatch⟩) s = .next (s.spFail k o.slot 0x06)) ∧
    ((s.cl k).sp.repairing = false → (∀ r, exec (.spRepairPass ⟨k, r⟩) s = .next s) ∧ ∃ t, exec (.spOpComplete k ⟨.lanes, .mismatch⟩) s = .next t ∧
      (t.cl k).sp = { (s.cl k).sp with failed := true } ∧ t.mem = s.mem ∧ (∀ h, t.ctx h = s.ctx h) ∧
      t.reg (regSpResFail (s.phys k)) = s.reg (regSpResFail (s.phys k)) + 1 ∧
      t.reports = s.reports ++ [⟨0x06, ⟨0, s.phys k⟩, 0, BitVec.ofNat 64 o.slot, none, false⟩])
/-! ### Gather and the hot-row map (R235 to R271) -/

/-- NB.POOL on an outer queue and LG.GATHER take a free Stroke entry with the descriptor (NB.POOL with its fan list) and A[areg] as they
stood, and go on; a pool's fan entries become requests at their owners in fan-list order (R77, R115, R246 to R249, R258, R259). -/
def Says.GatherIssues : Prop :=
  ∀ (s : State) (h : Hart) (f : FormD) (d : List Byte) (m : Option Nat) (n : Nat), (s.ctx h).getSd f.slot.toNat ≠ [] →
    padB 64 ((s.ctx h).getSd f.slot.toNat) = d → SigMark s h f m → (s.cl h.core).freeEntry = some n →
    s.halfBusy h.core (ownerOf h (s.ctx h)) = false → s.qInner h.core f.queue.toNat = false →
    (∀ l, s.Runs (.nbPool h f) → l = s.rdN (sheetPa h.core (s.cl h.core).front (plList d)) (16 * plFan d) →
      poolDescOk d false = true → fanOk l (plFan d) = true →
      (s.readTable (s.ctx h).task.job (plTable d) (plWidth d) (s.ctx h).task.gen (plPub d)).isSome = true →
      ∃ t o rs, exec (.nbPool h f) s = .next t ∧ s.skOp h.core n = none ∧ t.skOp h.core n = some o ∧ t.ctx h = (s.ctx h).next ∧
        o.kind = .pool ∧ o.own = ownerOf h (s.ctx h) ∧ o.desc = d ++ l ∧ o.areg = (s.ctx h).getA f.areg.toNat ∧ o.queue = f.queue.toNat ∧
        o.mark = m ∧ o.pos = 0 ∧ t.nbq = s.nbq ++ rs ∧ rs.length = plFan d ∧
        ∀ i, i < plFan d → ∃ r, rs[i]? = some r ∧ r.c = h.core ∧ r.n = n ∧ r.idx = i ∧ r.region = fld (skWord l (2 * i + 1)) 7 0) ∧
    (s.Runs (.lgGather h f) → gatherDescOk d = true →
      (s.readTable (s.ctx h).task.job (lgTable d) (lgWidth d) (s.ctx h).task.gen (lgPub d)).isSome = true →
      ∃ t o, exec (.lgGather h f) s = .next t ∧ s.skOp h.core n = none ∧ t.skOp h.core n = some o ∧ t.ctx h = (s.ctx h).next ∧
        o.kind = .gather ∧ o.own = ownerOf h (s.ctx h) ∧ o.desc = d ∧ o.areg = (s.ctx h).getA f.areg.toNat ∧ o.mark = m ∧
        o.tsig = f.ctl.getLsbD 0 ∧ o.pos = 0 ∧ o.tiles = 0)

/-- A descriptor or a fan list that R247, R248 and R259 refuse raises ILLEGAL at issue, before the table is looked at. -/
def Says.GatherIssueChecks : Prop :=
  ∀ (s : State) (h : Hart) (f : FormD), (s.ctx h).getSd f.slot.toNat ≠ [] →
    (s.Runs (.nbPool h f) → poolDescOk (padB 64 ((s.ctx h).getSd f.slot.toNat)) (s.qInner h.core f.queue.toNat) = false →
      exec (.nbPool h f) s = .next (s.raise h .illegal (wordD 0x13 0x00 f))) ∧
    (s.Runs (.lgGather h f) → gatherDescOk (padB 64 ((s.ctx h).getSd f.slot.toNat)) = false →
      exec (.lgGather h f) s = .next (s.raise h .illegal (wordD 0x14 0x00 f)))

/-- NB.RDFL waits for the task's earlier gathers, then A[areg] := the gather flags, cleared with ctl[0] (R253). -/
def Says.GatherReadsFlags : Prop :=
  ∀ (s : State) (h : Hart) (f : FormD), s.Runs (.nbRdfl h f) →
    ((∃ o ∈ (s.cl h.core).sk, o.own.same (ownerOf h (s.ctx h)) = true ∧ (o.kind = .pool ∨ o.kind = .gather)) →
      exec (.nbRdfl h f) s = .next (s.waits h)) ∧
    ((∀ o ∈ (s.cl h.core).sk, o.own.same (ownerOf h (s.ctx h)) = true → o.kind ≠ .pool ∧ o.kind ≠ .gather) →
      ∃ t, exec (.nbRdfl h f) s = .next t ∧ (t.ctx h).gaFlags = (if f.ctl = 1 then 0 else (s.ctx h).gaFlags) ∧
        (t.ctx h).pc = (s.ctx h).next.pc ∧ (f.areg.toNat ≠ 0 → (t.ctx h).getA f.areg.toNat = (s.ctx h).gaFlags) ∧
        (∀ r, r ≠ f.areg.toNat → (t.ctx h).getA r = (s.ctx h).getA r) ∧ (t.ctx h).v = (s.ctx h).v ∧ t.mem = s.mem ∧ t.regs = s.regs)

/-- A pool's or a gather's sums do not depend on the order of the neighbours (R243, R245). -/
def Says.PoolingIsOrderFree : Prop :=
  ∀ (xs ys : List (Fp × Fp)), xs.Perm ys → poolElem 0 xs = poolElem 0 ys ∧ poolElem 1 xs = poolElem 1 ys ∧ poolElem 3 xs = poolElem 3 ys

/-- What an empty target gets: +0, and EMPTY with MEAN and MAX; +∞ for MINPLUS, −∞ for MAXPLUS and MAXTIMES (R242). -/
def Says.EmptyTargets : Prop :=
  ∀ (pool : Nat), pool < 8 → ∃ v fl, poolEmpty pool = some (v, fl) ∧
    (narrow 10 .even v).1 = (if pool = 4 then 0x7F800000 else if pool = 5 ∨ pool = 6 then 0xFF800000 else 0) ∧
    fl = (if pool = 1 ∨ pool = 2 then 32 else 0)

/-- A region serves the request that is next in its queue: on a lost table the operation stops with TABLE, on a bad block header with ADJ, and
its rows read, the owner's partial joins its result buffer and the request leaves the queue (R240, R243, R246, R248). -/
def Says.NibServesRequests : Prop :=
  ∀ (s u : State) (k : Nat) (q : NbReq) (o : SkOp) (map : Option Nat) (e : List MemErr), s.regionLive k = true → s.nbNext k = some (q, o) →
    q.share = none → s.resultUsed k + partBytes o.desc ≤ 524288 → u = s.demandErrs e →
    (u.readTable o.own.job (plTable o.desc) (plWidth o.desc) o.gen (plPub o.desc) = none →
      exec (.nbRequestServe k ⟨.ok, map, e⟩) s = .next (u.skStop q.c o 8)) ∧
    ∀ (tab : Desc) (slot va : Nat) (t1 t2 : State) (ps : List Part) (hb : List Byte),
      u.readTable o.own.job (plTable o.desc) (plWidth o.desc) o.gen (plPub o.desc) = some (tab, slot) →
      va = (o.areg.toNat + (o.fanList.getD q.idx (0, 0)).1) % 2 ^ 64 → u.resolve k o.own.job .load (pieces va 32) = (t1, .ok ps) →
      t1.readParts (.stroke q.c o.n) o.hl ps = (t2, .bytes hb) →
      (adjHead hb (plTargets o.desc) = none → exec (.nbRequestServe k ⟨.ok, map, e⟩) s = .next (t2.skStop q.c o 7)) ∧
      ∀ (hd : AdjHead) (t3 t4 t5 : State) (ps2 : List Part) (b : List Byte) (bank : SMap Nat) (vals : List (List Nat)),
        adjHead hb (plTargets o.desc) = some hd → u.qInner q.c o.queue = false → t4.qInner q.c o.queue = false →
        t2.resolve k o.own.job .load (pieces va hd.bytes) = (t3, .ok ps2) → t3.readParts (.stroke q.c o.n) o.hl ps2 = (t4, .bytes b) →
        (t4.countParts ps2).readRows (some (q.c, o.seq)) map tab (plPub o.desc) slot none o.bank
          ((adjLists hd b tab.rows).1.flatMap (fun l => l.map (fun x => x.1))) = (t5, bank, .ok vals) →
        ∃ t p, exec (.nbRequestServe k ⟨.ok, map, e⟩) s = .next t ∧ t.parts = t5.parts ++ [p] ∧ t.nbq = t5.nbq.erase q ∧ p.region = k ∧
          p.c = q.c ∧ p.n = q.n ∧ p.idx = q.idx ∧
          (p.counts, p.vals, p.flags) = poolPartial o.desc (tab.readFmt (plPub o.desc)) (adjLists hd b tab.rows).1 vals ∧
          t.reg (regNbOps (t5.phys k)) = t5.reg (regNbOps (t5.phys k)) + 1

/-- With no request to take up, or in a fenced region, serving does nothing; a partial that has not come is waited for; one whose delivery
fails its CRC is asked for again, or stops its job the second time (R135, R244, R246, R254, R255). -/
def Says.NibWaits : Prop :=
  (∀ (s : State) (k : Nat) (r : OpCheck) (map : Option Nat) (e : List MemErr), s.regionLive k = false ∨ s.nbNext k = none →
    exec (.nbRequestServe k ⟨r, map, e⟩) s = .next s) ∧
  ∀ (s : State) (c n : Nat) (o : SkOp) (r : OpCheck), s.skOp c n = some o →
    (∀ ok, (∀ p ∈ s.parts, ¬ (p.c = c ∧ p.n = n ∧ p.idx = o.pos)) → exec (.nbPartialReturn c ⟨n, ok, r⟩) s = .next s) ∧
    ((∃ p ∈ s.parts, p.c = c ∧ p.n = n ∧ p.idx = o.pos) → o.kind = .pool → s.skLive c o = true → s.nbFailed.contains c = false →
      exec (.nbPartialReturn c ⟨n, false, r⟩) s = .next (s.skCrc c o))

/-- The partial that is next in fan-list order reaches the return unit and leaves its result buffer, whatever order the partials came in;
after the last one the entry is free and the gather flags of the task that stands on its core take the operation's (R244, R246, R253). -/
def Says.PartialsReturnInOrder : Prop :=
  ∀ (s : State) (c n : Nat) (o : SkOp) (p : NbPart), s.skOp c n = some o → o.n = n → o.kind = .pool → s.skLive c o = true →
    s.nbFailed.contains c = false → s.parts.find? (fun p => p.c == c && p.n == n && p.idx == o.pos) = some p →
    (o.pos + 1 < plFan o.desc → ∃ t x, exec (.nbPartialReturn c ⟨n, true, .ok⟩) s = .next t ∧ t.skOp c n = some x ∧ x.pos = o.pos + 1 ∧
      x.desc = o.desc ∧ t.parts = s.parts.erase p) ∧
    (o.pos + 1 = plFan o.desc → ∃ t, exec (.nbPartialReturn c ⟨n, true, .ok⟩) s = .next t ∧ t.skOp c n = none ∧
      (∀ r ∈ t.parts, ¬ (r.c = c ∧ r.n = n)) ∧
      ((s.ctx ⟨c, 0⟩).run ≠ .idle → (s.ctx ⟨c, 0⟩).task.job = o.own.job → (s.ctx ⟨c, 0⟩).task.num = o.own.num →
        (s.ctx ⟨c, 0⟩).gaFlags ||| BitVec.ofNat 64 (o.gfl ||| p.flags) ||| (t.ctx ⟨c, 0⟩).gaFlags = (t.ctx ⟨c, 0⟩).gaFlags))

/-- A tile of a Ligature gather: a Ligature that is absent or failed, or serves another gather, does nothing for it; a group of heavy targets
past COUNT stops with HEAVY, a bad list header with ADJ; with its lists and rows read, the tile of chunks is written (R124, R257 to R262). -/
def Says.LigatureTiles : Prop :=
  (∀ (s : State) (c n : Nat) (r : OpCheck) (map : Option Nat) (e : List MemErr),
    s.joined (148 + s.ligature c) = false ∨ s.nbFailed.contains (128 + s.ligature c) = true →
    exec (.lgTileComplete c n ⟨r, map, e⟩) s = .next s) ∧
  ∀ (s u : State) (c n : Nat) (map : Option Nat) (e : List MemErr), s.joined (148 + s.ligature c) = true →
    s.nbFailed.contains (128 + s.ligature c) = false → u = s.lgTake (s.ligature c) 16 →
    (∀ r, (∀ x, u.lgNext (s.ligature c) = some x → ¬ (x.1 = c ∧ x.2.n = n)) → exec (.lgTileComplete c n ⟨r, map, e⟩) s = .next u) ∧
    ∀ (o : SkOp) (v : State), u.lgNext (s.ligature c) = some (c, o) → o.n = n → v = u.demandErrs e →
      (v.readTable o.own.job (lgTable o.desc) (lgWidth o.desc) o.gen (lgPub o.desc) = none →
        exec (.lgTileComplete c n ⟨.ok, map, e⟩) s = .next (v.skStop c o 8)) ∧
      ∀ (tab : Desc) (slot : Nat) (t : State) (hb : List Byte),
        v.readTable o.own.job (lgTable o.desc) (lgWidth o.desc) o.gen (lgPub o.desc) = some (tab, slot) →
        v.readVa c o ((fld (skWord o.desc 2) 47 0 + o.areg.toNat) % 2 ^ 64) 16 = (t, .bytes hb) →
        (leNat (sliceB hb 12 4) ≠ (crc32c (hb.take 12)).toNat → exec (.lgTileComplete c n ⟨.ok, map, e⟩) s = .next (t.skStop c o 7)) ∧
        (leNat (sliceB hb 12 4) = (crc32c (hb.take 12)).toNat → leNat (sliceB hb 4 8) = 0 →
          (4096 < leNat (hb.take 4) ∨ leNat (hb.take 4) < lgFirst o.desc + lgNh o.desc →
            exec (.lgTileComplete c n ⟨.ok, map, e⟩) s = .next (t.skStop c o 0xA)) ∧
          ∀ (t1 t2 t3 : State) (eb : List Byte) (ents : List (Nat × Nat)) (lists : List (List Heavy)) (bank : SMap Nat)
            (vals : List (List Nat)), leNat (hb.take 4) ≤ 4096 → lgFirst o.desc + lgNh o.desc ≤ leNat (hb.take 4) →
            t.readVa c o ((fld (skWord o.desc 2) 47 0 + o.areg.toNat) % 2 ^ 64 + 16 + 16 * lgFirst o.desc) (16 * lgNh o.desc) =
              (t1, .bytes eb) →
            ents = (List.range (lgNh o.desc)).map (fun i => (fld (wordAt eb (16 * i + 8)) 39 0, fld (wordAt eb (16 * i + 8)) 63 40)) →
            t1.readHeavy c o ents = (t2, some lists) →
            t2.readRows (some (c, o.seq)) map tab (lgPub o.desc) slot none []
              ((((mergeHeavy (lists.map List.length).sum lists).filter (fun p => decide (p.1 < tab.rows))).drop (32 * o.pos)).take
                (32 * lgRoom o.desc) |>.map (fun p => p.1)) = (t3, bank, .ok vals) →
            exec (.lgTileComplete c n ⟨.ok, map, e⟩) s = .next (t3.gatherWrite c o .ok tab ents lists vals))

/-- A tile written: short of the last one the gather stands at its next places, with one tile more; the last one frees its entry
(R258, R261). -/
def Says.TilesEndTheGather : Prop :=
  ∀ (t : State) (c : Nat) (o : SkOp) (tab : Desc) (ents : List (Nat × Nat)) (lists : List (List Heavy)) (vals : List (List Nat)),
    t.skOp c o.n = some o → ∀ good : Nat,
    good = ((mergeHeavy (lists.map List.length).sum lists).filter (fun p => decide (p.1 < tab.rows))).length →
    vals.length = min (32 * lgRoom o.desc) (good - 32 * o.pos) →
    (32 * (o.pos + lgRoom o.desc) < good → ∃ x, (t.gatherWrite c o .ok tab ents lists vals).skOp c o.n = some x ∧
      x.tiles = o.tiles + 1 ∧ x.pos = o.pos + lgRoom o.desc ∧ x.desc = o.desc) ∧
    (good ≤ 32 * (o.pos + lgRoom o.desc) → (t.gatherWrite c o .ok tab ents lists vals).skOp c o.n = none)

/-- The chunk of R261: 2,048 + 64 × WIDTH bytes, and what it holds at a neighbour and a target without an edge is 0. -/
def Says.ChunkLayout : Prop :=
  ∀ (coef f rf width : Nat) (deg : List Nat) (places : List (Merged × List Nat)),
    (chunkBytes coef f rf width deg places).length = 2048 + 64 * width ∧
    ∀ k j p, k < 32 → j < 32 → places[k]? = some p → (∀ e ∈ p.1.2, e.1 ≠ j) →
      sliceB (chunkBytes coef f rf width deg places) (64 * k + 2 * j) 2 = [0, 0]

/-- The statuses of HM.PIN (R270): not a row, pinned by this job already, pinned by another, the quota, four pinned ways; else an ordinary copy
is pinned and counted in USED, and a pin that held on its own is confirmed. Statuses from 0x10 count in HM_PIN_REFUSE and change nothing else. -/
def Says.PinStatuses : Prop :=
  ∀ (s t : State) (h : Hart) (f : FormK) (pa : Nat), s.Runs (.hmPin h f) →
    s.translate h.core (s.ctx h).task.job ((s.ctx h).getA f.src.toNat) .load = (.ok pa false, t) → (t.ctx h) = (s.ctx h) →
    (t.rowAt (s.ctx h).task.job pa = none → exec (.hmPin h f) s = .next (t.pinAnswer h f.dst.toNat 0x13)) ∧
    ∀ (d : Desc) (r : Nat) (e : HotEnt), t.rowAt (s.ctx h).task.job pa = some (d, r) → d.rb = 64 * (f.imm.toNat + 1) →
      (t.hotArea (d.owner r)).2 ≠ 0 → t.hotEnt pa = some e →
      (∀ j, e.pin = some j → j ≠ (s.ctx h).task.job → exec (.hmPin h f) s = .next (t.pinAnswer h f.dst.toNat 0x14)) ∧
      (e.pin = some (s.ctx h).task.job → e.due = false → exec (.hmPin h f) s = .next (t.pinAnswer h f.dst.toNat 1)) ∧
      (e.pin = some (s.ctx h).task.job → e.due = true → ∃ u x, exec (.hmPin h f) s = .next u ∧ u.hotEnt pa = some x ∧
        x = { e with due := false } ∧ u.ctx h = ((s.ctx h).setA f.dst.toNat 0).next) ∧
      (e.pin = none → e.pend.isSome = true → exec (.hmPin h f) s = .next (t.waits h)) ∧
      (e.pin = none → e.pend = none → t.rfld (regHmPinq (s.ctx h).task.job) 15 0 ≤ t.rfld (regHmPinq (s.ctx h).task.job) 47 32 →
        exec (.hmPin h f) s = .next (t.pinAnswer h f.dst.toNat 0x10)) ∧
      (e.pin = none → e.pend = none → t.rfld (regHmPinq (s.ctx h).task.job) 47 32 < t.rfld (regHmPinq (s.ctx h).task.job) 15 0 →
        4 ≤ t.pinnedWays pa → exec (.hmPin h f) s = .next (t.pinAnswer h f.dst.toNat 0x11)) ∧
      (e.pin = none → e.pend = none → t.rfld (regHmPinq (s.ctx h).task.job) 47 32 < t.rfld (regHmPinq (s.ctx h).task.job) 15 0 →
        t.pinnedWays pa < 4 → ∃ u x, exec (.hmPin h f) s = .next u ∧ u.hotEnt pa = some x ∧ x.pin = some (s.ctx h).task.job ∧
          u.ctx h = ((s.ctx h).setA f.dst.toNat 0).next ∧
          u.rfld (regHmPinq (s.ctx h).task.job) 47 32 = t.rfld (regHmPinq (s.ctx h).task.job) 47 32 + 1)

/-- HM.UNPIN of a row that this job has not pinned answers NOTPINNED; HM.UNPINALL ends every pin of the job and answers their number;
HM.LOOK answers the hit, the pin, the bank group and the copy's address, or 0 on a miss (R270). -/
def Says.PinsEnd : Prop :=
  ∀ (s t : State) (h : Hart) (f : FormK) (pa : Nat),
    s.translate h.core (s.ctx h).task.job ((s.ctx h).getA f.src.toNat) .load = (.ok pa false, t) → (t.ctx h) = (s.ctx h) →
    (s.Runs (.hmUnpin h f) → (∀ e, t.hotEnt pa = some e → e.pin ≠ some (s.ctx h).task.job) →
      exec (.hmUnpin h f) s = .next (t.pinAnswer h f.dst.toNat 0x15)) ∧
    (s.Runs (.hmUnpin h f) → ∀ e, t.hotEnt pa = some e → e.pin = some (s.ctx h).task.job →
      ∃ u, exec (.hmUnpin h f) s = .next u ∧ (e.lost = false → u.hotEnt pa = some { e with pin := none, due := false }) ∧
        (e.lost = true → u.hotEnt pa = none) ∧ u.ctx h = ((s.ctx h).setA f.dst.toNat 0).next) ∧
    (s.Runs (.hmLook h f) → ∃ u, exec (.hmLook h f) s = .next u ∧ u = t.modCtx h (fun c => (c.setA f.dst.toNat (t.hmLook pa)).next) ∧
      (t.hotEnt pa = none → t.hmLook pa = 0)) ∧
    (s.Runs (.hmUnpinall h f) → ∃ u, exec (.hmUnpinall h f) s = .next u ∧ (∀ e ∈ u.hot.ents, e.pin ≠ some (s.ctx h).task.job) ∧
      u.ctx h = ((s.ctx h).setA f.dst.toNat (BitVec.ofNat 64 (s.hot.ents.filter (fun e => e.pin == some (s.ctx h).task.job)).length)).next)

/-- A copy completes in one write of its entry: from then on lookups find the new place, whose bytes equal the home's (R237, R268). -/
def Says.CopyCompletes : Prop :=
  ∀ (s : State) (pa : Nat) (e : HotEnt) (p : HotPend), s.hotEnt pa = some e → e.home = pa → e.pend = some p → p.pin = none →
    e.lost = false → s.poisoned pa (64 * e.units) = false → Intact s → (pa + 64 * e.units ≤ p.target ∨ p.target + 64 * e.units ≤ pa) →
    ∃ t x, exec (.hmCopyComplete ⟨pa, false⟩) s = .next t ∧ t.hotEnt pa = some x ∧ x.copy = some p.target ∧ x.pend = none ∧
      t.rdN p.target (64 * e.units) = s.rdN pa (64 * e.units) ∧ t.rdN pa (64 * e.units) = s.rdN pa (64 * e.units)

/-- The registers of the hot-row map and the windows: HM_CFG is clamped and says so, HM_PINQj and NB_HOTAREA discard what R265 and R270
refuse; at a window's end the loads are latched and counts and heats halve (R263, R265 to R267, R270). -/
def Says.HotMapRegisters : Prop :=
  (∀ (s : State) (v : Word), ∃ t, exec (.hmCfgWrite v) s = .next t ∧
    t.rfld regHmCfg 12 8 = (if fld v 12 8 = 0 then 1 else min (fld v 12 8) 16) ∧ t.rfld regHmCfg 7 0 = max 1 (fld v 7 0) ∧
    t.rbit regHmStatus 0 = (s.rbit regHmStatus 0 || decide (fld v 12 8 = 0 ∨ 16 < fld v 12 8 ∨ fld v 7 0 = 0))) ∧
  (∀ (s : State) (j : Nat) (v : Word), j < 16 →
    ((fld v 15 0 < s.rfld (regHmPinq j) 47 32 ∨ 32768 < ((List.range 16).map (fun i =>
        if i = j then fld v 15 0 else s.rfld (regHmPinq i) 15 0)).sum) →
      exec (.hmPinqWrite j v) s = .next (s.setRbit regHmStatus 1 true)) ∧
    (¬ (fld v 15 0 < s.rfld (regHmPinq j) 47 32 ∨ 32768 < ((List.range 16).map (fun i =>
        if i = j then fld v 15 0 else s.rfld (regHmPinq i) 15 0)).sum) →
      exec (.hmPinqWrite j v) s = .next (s.swReg (regHmPinq j) v))) ∧
  (∀ (s : State) (k : Nat) (v : Word), k < 128 →
    ((s.hotOn = true ∨ 384 < fld v 8 0 + fld v 40 32) → exec (.nbHotareaWrite k v) s = .next (s.setRbit regHmStatus 1 true)) ∧
    (s.hotOn = false → fld v 8 0 + fld v 40 32 ≤ 384 → exec (.nbHotareaWrite k v) s = .next (s.swReg (regNbHotarea (s.phys k)) v))) ∧
  ∀ s : State, (∃ t, exec .loadWindowEnd s = .next t ∧ (s.hotOn = false → t.mem = s.mem ∧
      t.hot.ents = (s.hot.ents.map (fun e => { e with heat := e.heat / 2 })).filter (fun e => e.pin.isSome || e.pend.isSome || e.heat != 0) ∧
      t.hot.bg = [] ∧ ∀ c, c < 64 → t.reg (regHmChload c) = BitVec.ofNat 64 (smapGet (fun _ => 0) s.hot.ch c))) ∧
    (∃ t, exec .hmRateTick s = .next t ∧ ((∀ c ∈ s.hot.cand, c.deferred = false) → s.hot.moves = [] →
      t = { s with hot := { s.hot with spent := [] } }))
/-! ### Tables, updates and editions (R272 to R293) -/

/-- TB.UPDATE, TB.BUILD and TB.PUBLISH on an outer queue take a free Stroke entry and go on: an update's record block is split by owner
into one share each, a build locks its table and takes the staging slot or the lowest free one, or waits for one and is counted, a publication enters the job's
queue (R115, R275, R284, R285, R287). -/
def Says.TableOperationsStart : Prop :=
  ∀ (s : State) (h : Hart) (f : FormD) (m : Option Nat) (n : Nat), SigMark s h f m → (s.cl h.core).freeEntry = some n →
    s.qInner h.core f.queue.toNat = false → s.stepHolds (s.ctx h).task.job = false →
    (∀ d tab g x, s.Runs (.tbUpdate h f) → (s.ctx h).getSd f.slot.toNat ≠ [] → padB 64 ((s.ctx h).getSd f.slot.toNat) = d →
      updDescOk d = true → s.desc (s.ctx h).task.job (upTable d) = some tab → tab.kind = 0 →
      offOk (fld ((s.ctx h).getA f.areg.toNat) 20 0) = true →
      s.recHead h.core (s.cl h.core).front (fld ((s.ctx h).getA f.areg.toNat) 20 0) = some (g, x) → x ≤ 1024 →
      (∃ r ∈ (keepRecs tab (s.readRecs (sheetPa h.core (s.cl h.core).front (fld ((s.ctx h).getA f.areg.toNat) 20 0) + 16) g x).1).1,
        tab.owner r.row < 128) →
      ∃ t o rs, exec (.tbUpdate h f) s = .next t ∧ t.skOp h.core n = some o ∧ t.ctx h = (s.ctx h).next ∧ o.kind = .update ∧
        o.own = ownerOf h (s.ctx h) ∧ o.desc = d ∧ o.mark = m ∧
        t.nbq = (({ s with nbq := s.nbq ++ rs } : State).buildHold (s.ctx h).task.job (upTable d)).nbq ∧
        ((s.table (s.ctx h).task.job (upTable d)).build = none → t.nbq = s.nbq ++ rs) ∧ rs.map (fun r => r.region) = o.wait ∧
        ∀ r ∈ rs, r.c = h.core ∧ r.n = n ∧ ∃ sh, r.share = some sh ∧ sh.table = upTable d ∧ sh.recs ≠ [] ∧
          ∀ g ∈ sh.recs, tab.owner g.row = r.region ∧ g.row < tab.rows) ∧
    (∀ tab, s.Runs (.tbBuild h f) → s.desc (s.ctx h).task.job f.imm.toNat = some tab →
      (s.table (s.ctx h).task.job f.imm.toNat).build = none →
      ∃ t o b, exec (.tbBuild h f) s = .next t ∧ t.skOp h.core n = some o ∧ t.ctx h = (s.ctx h).next ∧ o.kind = .build ∧ o.state = 3 ∧
        o.mark = m ∧ (t.table (s.ctx h).task.job f.imm.toNat).build = some b ∧ b.c = h.core ∧ b.n = n ∧
        (∀ e, (s.table (s.ctx h).task.job f.imm.toNat).slots.find? (fun e => e.role = .staging) = some e →
          b.slot = some e.slot ∧ t.mem = s.mem) ∧
        ((∀ e ∈ (s.table (s.ctx h).task.job f.imm.toNat).slots, e.role ≠ .staging) →
          (∀ i, (List.range 4).find? (fun i => !(s.table (s.ctx h).task.job f.imm.toNat).slots.any (fun e => e.slot == i)) = some i →
            b.slot = some i) ∧
          ((∀ i, i < 4 → ∃ e ∈ (s.table (s.ctx h).task.job f.imm.toNat).slots, e.slot = i) →
            b.slot = none ∧ b.waited = true ∧ t.mem = s.mem ∧ t.reg regNbEdWait = s.reg regNbEdWait + 1))) ∧
    (∀ ts w, s.Runs (.tbPublish h f) → (s.ctx h).task.fair = true → offOk (fld ((s.ctx h).getA f.areg.toNat) 20 0) = true →
      inRegion (fld ((s.ctx h).getA f.areg.toNat) 20 0) 16 = true →
      parseList (s.rdN (sheetPa h.core (s.cl h.core).front (fld ((s.ctx h).getA f.areg.toNat) 20 0)) 144) = some ts →
      inRegion (fld ((s.ctx h).getA f.areg.toNat) 20 0) (16 + 2 * ts.length) = true → s.stageStep (s.ctx h).task.job ts = some w →
      ∃ t o p, exec (.tbPublish h f) s = .next t ∧ t.skOp h.core n = some o ∧ t.ctx h = (s.ctx h).next ∧ o.kind = .publish ∧ o.mark = m ∧
        t.pubq = s.pubq ++ [p] ∧ p.job = (s.ctx h).task.job ∧ p.tables = ts ∧ p.step = w ∧ p.started = false)

/-- A table operation that stops: TABLE for a handle that is not registered, FORMAT for a bad record block or list, STAGE where a named
table has no staging edition of one step, CLASS for a publication of a Draft task (R275, R287). Each frees its entry and reports the
status. -/
def Says.TableOperationsStop : Prop :=
  (∀ (s : State) (k : Nat) (o : SkOp), s.qInner k o.queue = false →
    (s.desc o.own.job (upTable o.desc) = none → s.updateBegin k o = s.skStop k o 8) ∧
    (s.desc o.own.job (o.imm % 4096) = none → s.buildBegin k o = s.skStop k o 8) ∧
    (∀ d, s.desc o.own.job (upTable o.desc) = some d → d.kind = 0 → offOk (fld o.areg 20 0) = true →
      s.recHead k o.ctl (fld o.areg 20 0) = none → s.updateBegin k o = s.skStop k o 0xD) ∧
    (o.fair = false → s.publishBegin k o = s.skStop k o 0xC) ∧
    (∀ ts, o.fair = true → offOk (fld o.areg 20 0) = true → inRegion (fld o.areg 20 0) 16 = true →
      parseList (s.rdN (sheetPa k o.ctl (fld o.areg 20 0)) 144) = some ts → inRegion (fld o.areg 20 0) (16 + 2 * ts.length) = true →
      s.stageStep o.own.job ts = none → s.publishBegin k o = s.skStop k o 0xB)) ∧
  ∀ (s : State) (k : Nat) (o : SkOp) (status : Nat), ((s.skStop k o status).cl k).sk = (s.cl k).sk.filter (fun x => x.n != o.n) ∧
    (s.skStop k o status).mem = s.mem ∧ (s.skStop k o status).marks = s.marks

/-- TB.EDADDR: the directory of the edition that the task sampled, and 0 with no such edition or for a handle that is not registered (R289,
R290). -/
def Says.EditionAddress : Prop :=
  ∀ (s : State) (h : Hart) (f : FormD), s.Runs (.tbEdaddr h f) →
    (∃ t, exec (.tbEdaddr h f) s = .next t ∧
      OnlyCtx s t h (((s.ctx h).setA f.areg.toNat (s.edAddr (s.ctx h).task.job f.imm.toNat (s.ctx h).task.gen)).next)) ∧
    (s.desc (s.ctx h).task.job f.imm.toNat = none → s.edAddr (s.ctx h).task.job f.imm.toNat (s.ctx h).task.gen = 0) ∧
    ∀ d e, s.desc (s.ctx h).task.job f.imm.toNat = some d → d.kind = 0 →
      (s.table (s.ctx h).task.job f.imm.toNat).editionAt (s.ctx h).task.gen = some e →
      s.edAddr (s.ctx h).task.job f.imm.toNat (s.ctx h).task.gen = BitVec.ofNat 64 (d.earea + e.slot * d.dirBytes)

/-- The optimisers: what one element of an updated column block becomes, in binary32 with round to nearest even (R277). -/
def Says.OptimiserSteps : Prop :=
  ∀ (lr b1 b2 eps c1 c2 w g m v : Nat),
    updElem 0 lr b1 b2 eps c1 c2 w g [] = ([], sub32 w (mul32 lr g)) ∧
    updElem 1 lr b1 b2 eps c1 c2 w g [m] = ([add32 (mul32 b1 m) g], sub32 w (mul32 lr (add32 (mul32 b1 m) g))) ∧
    updElem 2 lr b1 b2 eps c1 c2 w g [m] = ([add32 m (mul32 g g)],
      sub32 w (mul32 lr (div32 g (add32 (sqrt32 (add32 m (mul32 g g))) eps)))) ∧
    updElem 3 lr b1 b2 eps c1 c2 w g [m, v] =
      (let m' := add32 (mul32 b1 m) (mul32 (sub32 one32 b1) g)
       let v' := add32 (mul32 b2 v) (mul32 (mul32 (sub32 one32 b2) g) g)
       ([m', v'], sub32 w (mul32 lr (div32 (div32 m' c1) (add32 (sqrt32 (div32 v' c2)) eps)))))

/-- A row that an update changes: its length stays, STEP becomes the operation's, UPDATES counts one, columns that no record carries keep
their values and state (R276, R277). A gradient that is not finite leaves the row wholly unchanged, sets NV and is counted (R278). -/
def Says.RowUpdates : Prop :=
  (∀ (d : Desc) (u : List Byte) (row : Nat) (old new : List Byte) (grads : List (Nat × Nat)), old.length = d.rb →
    1 ≤ d.width → (d.vfmt = 0 ∨ d.vfmt = 1 ∨ d.vfmt = 10) → d.opt ≤ 3 → (∀ g ∈ grads, g.1 < d.width) → updRow d u row old grads = some new →
    new.length = old.length ∧ leNat (sliceB new (d.valBytes + optArrays d.opt * 4 * d.width) 8) = (upStep u).toNat ∧
    leNat (sliceB new (d.valBytes + optArrays d.opt * 4 * d.width + 8) 4) =
      (leNat (sliceB old (d.valBytes + optArrays d.opt * 4 * d.width + 8) 4) + 1) % 2 ^ 32 ∧
    ∀ c, c < d.width → (∀ g ∈ grads, g.1 ≠ c) →
      sliceB new (elemBits d.vfmt / 8 * c) (elemBits d.vfmt / 8) = sliceB old (elemBits d.vfmt / 8 * c) (elemBits d.vfmt / 8)) ∧
  (∀ (d : Desc) (u : List Byte) (row : Nat) (old : List Byte) (grads : List (Nat × Nat)),
    (∃ g ∈ grads, isFin32 g.2 = false) → updRow d u row old grads = none) ∧
  ∀ (s : State) (sh : Share) (d : Desc) (row : Nat) (recs : List GradRec), s.firstPoison (d.homeOf row) d.rb = none →
    updRow d sh.desc row ((s.memSnoop (d.homeOf row) d.rb).rdN (d.homeOf row) d.rb) (sumGrads d.width recs) = none →
    ∃ t, s.updateRow sh d row recs = .done t 8 ∧ t.mem = (s.memSnoop (d.homeOf row) d.rb).mem ∧
      t.reg regNbUpdSkip = (s.memSnoop (d.homeOf row) d.rb).reg regNbUpdSkip + 1

/-- Gradients of one row are summed exactly and rounded once, whatever order its records stand in (R276, R279). -/
def Says.GradientSumsAreOrderFree : Prop :=
  ∀ (width : Nat) (xs ys : List GradRec), xs.Perm ys → sumGrads width xs = sumGrads width ys

/-- First-touch undo: the first update of a row in a generation writes its pre-image into the job's undo ring, a later one writes nothing,
and a record that does not fit makes the update wait (R281, R282). -/
def Says.FirstTouchUndo : Prop :=
  ∀ (s : State) (j t r : Nat) (old : List Byte),
    ((s.undoRt j).has t r = true → s.undoRecord j t r old = some s) ∧
    ((s.undoRt j).has t r = false → s.undoSize j < (s.undoRt j).used + 16 + old.length → s.undoRecord j t r old = none) ∧
    ((s.undoRt j).has t r = false → (s.undoRt j).used + 16 + old.length ≤ s.undoSize j →
      ∃ u, s.undoRecord j t r old = some u ∧ (u.undoRt j).has t r = true ∧ (u.undoRt j).used = (s.undoRt j).used + 16 + old.length)

/-- At an owner: with no share that may be taken up nothing happens; a share of a table whose build runs waits and is counted once; a
share whose row is written is applied; an acknowledgement of an applied share leaves the queue, and the last one completes the update, frees its entry and gives the task its flags
(R275, R276, R285). -/
def Says.SharesAreServed : Prop :=
  (∀ (s : State) (k : Nat), (∀ c o, o ∈ (s.cl c).sk → o.kind ≠ .update) → s.regionLive k = false ∨ s.updNext k = [] →
    exec (.nbUpdateAdmit k) s = .next s) ∧
  (∀ (s : State) (k : Nat) (q : NbReq) (sh : Share) (o : SkOp) (d : Desc), s.desc sh.job sh.table = some d →
    (s.table sh.job sh.table).build.isSome = true →
    (sh.held = true → s.admitShare k q sh o = s) ∧
    (sh.held = false → (s.admitShare k q sh o).reg regNbBuildWait = s.reg regNbBuildWait + 1 ∧ (s.admitShare k q sh o).mem = s.mem)) ∧
  (∀ (s t : State) (k fl : Nat) (q : NbReq) (sh : Share) (o : SkOp) (d : Desc) (g : GradRec),
    (∀ c o, o ∈ (s.cl c).sk → o.kind = .update → o.state ≠ 1) → s.regionLive k = true → s.updNext k = [(q, sh, o)] → q ∈ s.nbq →
    q.share = some sh → q.region = k → s.desc sh.job sh.table = some d → (s.table sh.job sh.table).build = none → sh.admitted = true →
    sh.held = false → sh.recs = [g] → s.updateRow sh d g.row [g] = .done t fl →
    ∃ u, exec (.nbUpdateAdmit k) s = .next u ∧ u.mem = t.mem ∧ ∃ r ∈ u.nbq, r.region = k ∧ r.c = q.c ∧ r.n = q.n ∧
      r.share = some { sh with recs := [], stalled := false, txWait := false, applied := true }) ∧
  (∀ (s : State) (c n k : Nat) (o : SkOp) (q : NbReq) (sh : Share), s.skOp c n = some o → o.n = n →
    s.nbq.find? (fun r => r.region == k && r.c == c && r.n == n && (match r.share with
      | some sh => sh.applied
      | none => false)) = some q → q.share = some sh →
    (o.wait = [k] → ∃ t, exec (.nbUpdateAck c n k) s = .next t ∧ t.skOp c n = none) ∧
    (∀ x, x ≠ k → x ∈ o.wait → ∃ t y, exec (.nbUpdateAck c n k) s = .next t ∧ t.skOp c n = some y ∧ y.wait = o.wait.filter (fun i => i != k) ∧
      t.nbq = s.nbq.erase q)) ∧
  ∀ (s : State) (c n k : Nat), s.skOp c n = none → exec (.nbUpdateAck c n k) s = .next s

/-- A build completes: its staging edition records the step of the table's last acknowledged update, a copied segment's dirty bit is
cleared and kept in its list, no other bit is set, and the table is open to updates again; with no free slot it waits, counted once, and it
takes one that has become free (R284, R285). -/
def Says.BuildsComplete : Prop :=
  ∀ (s u : State) (c n : Nat) (o : SkOp) (d : Desc) (b : Build), (∀ k x, x ∈ (s.cl k).sk → x.kind = .build → x.state ≠ 1) →
    s.skOp c n = some o → o.n = n → o.kind = .build → s.skLive c o = true → u = s.reclaim o.own.job →
    u.desc o.own.job (o.imm % 4096) = some d → (u.table o.own.job (o.imm % 4096)).build = some b →
    (∀ e, d.kind = 0 → u.mirrors = false → b.slot = some e.slot →
      (u.table o.own.job (o.imm % 4096)).slots.find? (fun x => x.slot = e.slot) = some e → e.role = .staging →
      u.buildPoison d (u.table o.own.job (o.imm % 4096)).dirty = none →
      ∃ t x, exec (.nbBuildComplete c n) s = .next t ∧ t.skOp c n = none ∧ x ∈ (t.table o.own.job (o.imm % 4096)).slots ∧
        x.slot = e.slot ∧ x.role = .staging ∧ x.step = (u.table o.own.job (o.imm % 4096)).lastStep ∧
        (t.table o.own.job (o.imm % 4096)).build = none ∧
        (∀ g ∈ (t.table o.own.job (o.imm % 4096)).dirty, g ∈ (u.table o.own.job (o.imm % 4096)).dirty) ∧
        ∀ g a, (List.range d.segs).filter (fun g => (u.table o.own.job (o.imm % 4096)).dirty.contains g) = [g] →
          u.segPlace d (u.table o.own.job (o.imm % 4096)) e.slot g = some a →
          g ∉ (t.table o.own.job (o.imm % 4096)).dirty ∧ g ∈ x.cleared) ∧
    (b.slot = none → (∀ e ∈ (u.table o.own.job (o.imm % 4096)).slots, e.role ≠ .staging) →
      ((∀ i, i < 4 → ∃ e ∈ (u.table o.own.job (o.imm % 4096)).slots, e.slot = i) →
        (b.waited = true → exec (.nbBuildComplete c n) s = .next u) ∧
        (b.waited = false → ∃ t, exec (.nbBuildComplete c n) s = .next t ∧ t.mem = u.mem ∧ t.skOp c n = some o ∧
          t.reg regNbEdWait = u.reg regNbEdWait + 1)) ∧
      ∀ i, (List.range 4).find? (fun i => !(u.table o.own.job (o.imm % 4096)).slots.any (fun e => e.slot == i)) = some i →
        ∃ t, exec (.nbBuildComplete c n) s = .next t ∧ t.skOp c n = some o ∧
          (t.table o.own.job (o.imm % 4096)).build = some { b with slot := some i })

/-- NB_TBDIRj is discarded while a task of the job is loaded, and CFG_REJ says so; a table is registered exactly when its directory is
enabled and its descriptor keeps the layout of R272. -/
def Says.TableDirectories : Prop :=
  (∀ (s : State) (j : Nat) (v : Word), j < 16 →
    (s.tasksIn j = true → exec (.nbTbdirWrite j v) s = .next (s.setRbit regNbDstatus 0 true)) ∧
    (s.tasksIn j = false → ∃ t, exec (.nbTbdirWrite j v) s = .next t ∧ t.rfld (regNbTbdir j) 47 18 = fld v 47 18 ∧
      t.rbit (regNbTbdir j) 0 = bitOf v 0 ∧ t.mem = s.mem)) ∧
  ∀ (s : State) (j t : Nat), (s.desc j t).isSome = (s.rbit (regNbTbdir j) 0 && descOk (s.rdN (s.descAddr j t) 64))

/-- Row placement (R273): owners are the clusters of OWNERS, and rows of one table with one home address are one row. -/
def Says.RowPlacement : Prop :=
  ∀ (d : Desc), d.ownerList ≠ [] →
    (∀ r, d.owner r < 128 ∧ d.owners.testBit (d.owner r) = true) ∧
    (∀ r q, d.home = 1 → d.homeOf r = d.homeOf q → r = q) ∧
    ∀ r q, d.home = 0 → d.owner r = d.owner q → d.homeOf r = d.homeOf q → r = q

/-- A publication at the head of its job's queue waits while its gate is shut, while one of a lower job is ready, and until its parent step
end is recorded; with its job tainted, its staging editions changed or no CSN left it is NOT_DONE; else it takes a CSN and its folio starts
(R37, R48, R49, R287, R335). -/
def Says.PublicationChecks : Prop :=
  (∀ (s : State) (j : Nat), (∀ p ∈ s.pubq, p.job ≠ j) → exec (.publicationStart j) s = .next s) ∧
  ∀ (s : State) (j : Nat) (p : PubEnt), s.pubq.find? (fun p => p.job == j) = some p →
    (p.started = true ∨ s.mayCommit = false ∨ s.folioPhase ≠ 0 ∨ (s.job j).held = true ∨ 3 ≤ s.shed ∨ (∃ i, i < j ∧ s.pubReady i = true) →
      exec (.publicationStart j) s = .next s) ∧
    (s.pubGate p = true → (∀ i, i < j → s.pubReady i = false) →
      (s.rbit (regMkJobstat j) 0 = true → exec (.publicationStart j) s = .next (s.pubResult p none 0x12)) ∧
      (s.rbit (regMkJobstat j) 0 = false → s.stageStep j p.tables ≠ some p.step →
        exec (.publicationStart j) s = .next (s.pubResult p none 0x13)) ∧
      (s.rbit (regMkJobstat j) 0 = false → s.stageStep j p.tables = some p.step →
        (s.stepCsn j p.step = none → exec (.publicationStart j) s = .next s) ∧
        ∀ parent, s.stepCsn j p.step = some parent →
          (∀ u, s.assign = (none, u) → exec (.publicationStart j) s = .next (u.pubResult p none 0x14)) ∧
          ∀ n u, s.assign = (some n, u) → ∃ t r, exec (.publicationStart j) s = .next t ∧ t.folio.pub = some r ∧
            r.csn = BitVec.ofNat 64 n ∧ r.parent = BitVec.ofNat 64 parent ∧ r.kind = 2 ∧ r.job = j ∧ t.dx.stopped = true ∧
            t.folioPhase = 1 ∧ t.mem = u.mem))

/-- The retention of a wide edition ends: of a table's retired editions that it keeps, the one that retired first is kept no longer, and the
job's editions that nothing keeps are reclaimed (R291, R293). -/
def Says.WideRetentionEnds : Prop :=
  ∀ (s : State) (j tbl : Nat),
    ((∀ e ∈ (s.table j tbl).slots, e.role = .retired → e.wide = false) → exec (.wideHoldExpire j tbl) s = .next s) ∧
    ∀ f ∈ (s.table j tbl).slots, f.role = .retired → f.wide = true →
      (∀ e ∈ (s.table j tbl).slots, e.role = .retired → e.wide = true → e = f ∨ f.last < e.last) →
      ∃ u : State, exec (.wideHoldExpire j tbl) s = .next (u.reclaim j) ∧ u = { s with tables := u.tables } ∧
        (u.table j tbl).slots = (s.table j tbl).slots.map (fun e => if e.slot = f.slot then { e with wide := false } else e)
/-! ### Ductus (R295 to R324) -/

/-- DX.SPAWN submits the slot's descriptor as a task of the spawner's job with A[areg] as its value, and goes on: with room on the die it
stands in the device queue at once. A descriptor that R299 refuses raises ILLEGAL, and a spawn buffer of 8 entries stalls issue (R295,
R298, R299, R303). -/
def Says.SpawnSubmitsTasks : Prop :=
  ∀ (s : State) (h : Hart) (f : FormD) (d : List Byte), s.Runs (.dxSpawn h f) → (s.ctx h).getSd f.slot.toNat ≠ [] →
    padB 64 ((s.ctx h).getSd f.slot.toNat) = d →
    (taskDescOk d = false → exec (.dxSpawn h f) s = .next (s.raise h .illegal (wordD 0x18 0x00 f))) ∧
    (∀ m, taskDescOk d = true → SigMark s h f m → 8 ≤ (s.dx.buf.filter (fun t => t.src == h.core)).length →
      exec (.dxSpawn h f) s = .next s) ∧
    (∀ m, taskDescOk d = true → SigMark s h f m → s.dx.buf = [] → s.dx.die < 4096 → s.dx.drafts < 3072 → s.dx.spill = [] →
      ∃ t x, exec (.dxSpawn h f) s = .next t ∧ t.ctx h = (s.ctx h).next ∧ t.dx.buf = [] ∧ t.dx.devq = s.dx.devq ++ [x] ∧
        x.job = (s.ctx h).task.job ∧ x.num = smapGet (fun _ => 0) s.dx.nextNum (s.ctx h).task.job ∧ x.fair = bitOf (wordAt d 8) 63 ∧
        x.prio = fld (wordAt d 8) 62 60 ∧ x.target = fld (wordAt d 8) 46 40 ∧ x.entry = BitVec.ofNat 64 (fld (wordAt d 0) 47 0) ∧
        x.a1 = (s.ctx h).getA f.areg.toNat ∧ x.a2 = wordAt d 16 ∧ x.a3 = wordAt d 24 ∧ x.mark = m ∧
        x.delay = (if f.ctl.getLsbD 0 then some (s.time.toNat + 1000 * f.imm.toNat) else none) ∧
        smapGet (fun _ => 0) t.dx.nextNum (s.ctx h).task.job = (x.num + 1) % 2 ^ 32 ∧ t.mem = s.mem ∧ t.marks = s.marks)

/-- DX.SLEEP: with a free save record and room in the delay list the context leaves its slot for the record; with none the task waits in
place; either way until imm20 µs from now; with Brush operations of the task under way it stays (R300, R306, R311; log 41). -/
def Says.SleepLeavesTheContext : Prop :=
  ∀ (s : State) (h : Hart) (f : FormD), s.Runs (.dxSleep h f) →
    (s.freeRecord h.core = none → exec (.dxSleep h f) s =
      .next (s.modCtx h (fun c => { c with run := .waiting (.sleep (s.time.toNat + 1000 * f.imm.toNat)) }))) ∧
    ∀ r, s.freeRecord h.core = some r →
      (s.canLeave h = false → exec (.dxSleep h f) s = .next s) ∧
      (s.canLeave h = true → 1024 ≤ s.dx.delayed h.core → exec (.dxSleep h f) s =
        .next (s.modCtx h (fun c => { c with run := .waiting (.sleep (s.time.toNat + 1000 * f.imm.toNat)) }))) ∧
      (s.canLeave h = true → s.dx.delayed h.core < 1024 →
        ∃ t, exec (.dxSleep h f) s = .next t ∧ (t.ctx h).run = .idle ∧
          smapGet (fun _ => none) t.dx.saved (4 * h.core + r) =
            some ⟨{ (s.ctx h).next with run := .ready, yields := false }, true⟩ ∧
          t.dx.delay = s.dx.delay ++ [DelayEnt.mk h.core (s.time.toNat + 1000 * f.imm.toNat) (.sleeper r)] ∧ t.mem = s.mem)

/-- DX.STEPEND waits as FENCE does; a step that is not above the job's last, or a tainted job, gets CSN 0 and is counted; else the task
waits for its commit (R301, R302). DX.RDE reads the task's energy in nJ (chapter 10, Instructions). -/
def Says.StepEndAndEnergy : Prop :=
  ∀ (s : State) (h : Hart) (f : FormD),
    (∀ m, s.Runs (.dxStepend h f) → SigMark s h f m →
      (s.fenceDone h = false → exec (.dxStepend h f) s = .next (s.waits h)) ∧
      (s.fenceDone h = true → s.stepRefused (s.ctx h).task.job ((s.ctx h).getA f.areg.toNat) = true →
        ∃ t, exec (.dxStepend h f) s = .next t ∧ t.ctx h = ((s.ctx h).setA f.areg.toNat 0).next ∧ t.dx = s.dx ∧
          t.reg regDxStepRej = s.reg regDxStepRej + 1) ∧
      (s.fenceDone h = true → s.stepRefused (s.ctx h).task.job ((s.ctx h).getA f.areg.toNat) = false →
        ∃ t q, exec (.dxStepend h f) s = .next t ∧ t.ctx h = { s.ctx h with run := .waiting .stepEnd } ∧
          t.dx = { s.dx with steps := s.dx.steps ++ [q] } ∧ q.job = (s.ctx h).task.job ∧ q.step = (s.ctx h).getA f.areg.toNat ∧
          q.dst = f.areg.toNat ∧ q.mark = m ∧ q.csn = none)) ∧
    (s.Runs (.dxRde h f) → ∃ t, exec (.dxRde h f) s = .next t ∧
      OnlyCtx s t h (((s.ctx h).setA f.areg.toNat (BitVec.ofNat 64 (s.ctx h).energy)).next))

/-- A step end is requested once the job's updates and builds are done: with a twin its record leaves and its task waits, without one it
is recorded at once; one that R302 refuses at the sequencer gets CSN 0; while rows are out, or commits of lower jobs, ordered commands or
publications stand with it, nothing happens (R37 to R39, R301, R302; log 73). -/
def Says.StepEndsAreRequested : Prop :=
  ∀ (s : State) (j : Nat) (q : StepReq), s.dx.steps.find? (fun q => q.job == j && q.csn.isNone) = some q →
    (s.rowsOut j = true ∨ s.stepHolds j = true ∨ s.mayCommit = false ∨ s.dx.stopped = true ∨ (s.job j).held = true →
      exec (.stependRequest j) s = .next s) ∧
    (s.rowsOut j = false → s.stepHolds j = false → s.mayCommit = true → s.dx.stopped = false → (s.job j).held = false →
      (s.stepRefused j q.step = true → ∃ t, exec (.stependRequest j) s = .next t ∧ t.dx.steps = s.dx.steps.erase q ∧ t.mem = s.mem ∧
        ((s.ctx q.hart).run = .waiting .stepEnd → t.ctx q.hart = ((s.ctx q.hart).setA q.dst 0).next)) ∧
      (s.stepRefused j q.step = false → s.stepTurn j = false → exec (.stependRequest j) s = .next s) ∧
      (∀ u, s.stepRefused j q.step = false → s.stepTurn j = true → s.assign = (none, u) →
        exec (.stependRequest j) s = .next (u.stepReject q)) ∧
      (∀ n u, s.stepRefused j q.step = false → s.stepTurn j = true → s.role = 2 → s.assign = (some n, u) → ∃ t x, exec (.stependRequest j) s = .next t ∧
        x ∈ t.dx.steps ∧ x.job = q.job ∧ x.csn = some n ∧ (t.ctx q.hart) = (u.ctx q.hart)) ∧
      (∀ n u, s.stepRefused j q.step = false → s.stepTurn j = true → s.role ≠ 2 → q.gone = false → s.assign = (some n, u) → ∃ t,
        exec (.stependRequest j) s = .next t ∧ smapGet (fun _ => (0, 0)) t.dx.prevStep j = (q.step, BitVec.ofNat 64 n))) ∧
    ∀ (p : State), (∀ q ∈ p.dx.steps, q.job ≠ j ∨ q.csn.isSome = true) → exec (.stependRequest j) p = .next p

/-- A new task's context: the pc at ENTRY, A1 the submitter's value, A2 and A3 its arguments, every other A, V and M register 0, every slot
empty and every flag 0 (R298). -/
def Says.NewTaskContext : Prop :=
  ∀ (s : State) (t : Task), (s.newCtx t).pc = t.entry ∧ (s.newCtx t).getA 1 = t.a1 ∧ (s.newCtx t).getA 2 = t.a2 ∧
    (s.newCtx t).getA 3 = t.a3 ∧ (∀ r, 4 ≤ r ∨ r = 0 → (s.newCtx t).getA r = 0) ∧ (∀ r l, (s.newCtx t).getV r l = 0) ∧
    (∀ r, r ≠ 0 → (s.newCtx t).getM r = 0) ∧ (∀ r, (s.newCtx t).getSd r = []) ∧ (s.newCtx t).fflags = 0 ∧ (s.newCtx t).brFlags = 0 ∧
    (s.newCtx t).gaFlags = 0 ∧ (s.newCtx t).xactive = false ∧ (s.newCtx t).energy = 0 ∧ (s.newCtx t).task.num = t.num ∧
    (s.newCtx t).task.gen = (s.reg (regNbEdgen t.job)).toNat

/-- The device queue forwards its oldest entry for a cluster whose level has room, in submission order, and one
spawned with DLY to its delay list; a spilled entry returns when the
die has room (R303 to R305). -/
def Says.QueuesForwardInOrder : Prop :=
  (∀ (s : State) (c : Nat) (t : Task) (rest : List Task), s.clusterUp c = true → s.dx.stopped = false → s.dx.expired = [] → s.dx.buf = [] →
    s.dx.devq = t :: rest → t.any = false → t.target = c → t.delay = none → s.dx.level c t.fair t.prio < 64 →
    ∃ u x, exec (.devqForward c) s = .next u ∧ u.dx.devq = rest ∧ u.dx.clq = s.dx.clq ++ [x] ∧ x.num = t.num ∧ x.job = t.job ∧
      x.target = c ∧ x.arrival = s.dx.arrivals) ∧
  (∀ (s : State) (c e : Nat) (t : Task) (rest : List Task), s.clusterUp c = true → s.dx.stopped = false → s.dx.expired = [] →
    s.dx.buf = [] → s.dx.devq = t :: rest → t.any = false → t.target = c → t.delay = some e → s.dx.delayed c < 1024 →
    ∃ u, exec (.devqForward c) s = .next u ∧ u.dx.devq = rest ∧ u.dx.delay = s.dx.delay ++ [DelayEnt.mk c e (.spawn t)]) ∧
  (∀ (s : State) (c : Nat), s.clusterUp c = false → exec (.devqForward c) s = .next s) ∧
  (∀ (s : State) (t : Task) (rest : List Task), s.dx.stopped = false → s.dx.buf = [] → s.dx.spill = t :: rest → s.dx.die < 4096 →
    s.dx.drafts < 3072 → ∃ u, exec .spillRefill s = .next u ∧ u.dx.spill = rest ∧ u.dx.devq = s.dx.devq ++ [t]) ∧
  ∀ s : State, s.dx.spill = [] → exec .spillRefill s = .next s

/-- Dispatch: a free context takes the highest-ranked task that may run and whose engines are free; a Fair-copy task needs no admission;
a Draft task whose cluster is behind in the ring waits, and one that is refused counts and stays queued (R307, R312, R315, R316). -/
def Says.DispatchTakesTheBest : Prop :=
  ∀ (s : State) (c : Nat) (h : Hart) (t : Task), c < 128 → s.coreLive c = true → s.dx.stopped = false → s.freeSlot c = some h →
    s.dx.restored = [] → (∀ r, r < 3 → smapGet (fun _ => none) s.dx.saved (4 * c + r) = none) →
    s.dx.clq.filter (fun t => t.target == c) = [t] → s.mayRun t false = true → s.usesOk c t = true →
    (s.ctx ⟨c, 1 - h.ctx % 2⟩).reports = [] →
    (t.fair = true ∨ (s.ringBehind c = false ∧ s.admits t c = true) →
      ∃ u, exec (.taskDispatch c) s = .next u ∧ u.dx.clq = s.dx.clq.erase t ∧ (u.ctx h).run = .ready ∧ (u.ctx h).pc = t.entry ∧
        (u.ctx h).getA 1 = t.a1 ∧ (u.ctx h).task.num = t.num ∧ (u.ctx h).task.job = t.job) ∧
    (t.fair = false → s.ringBehind c = true → exec (.taskDispatch c) s = .next s) ∧
    (t.fair = false → s.ringBehind c = false → s.admits t c = false → exec (.taskDispatch c) s = .next (s.refuseAdmit t c))

/-- The ranking of R307: Fair-copy above Draft, then priority, then a resumed task, then arrival; it is a strict order. -/
def Says.Ranking : Prop :=
  (∀ (a b : Task) (x y : Bool), a.fair = true → b.fair = false → outranks a x b y = true) ∧
  (∀ (a b : Task) (x y : Bool), a.fair = b.fair → b.prio < a.prio → outranks a x b y = true) ∧
  (∀ (a b : Task), a.fair = b.fair → a.prio = b.prio → outranks a true b false = true) ∧
  (∀ (a b : Task) (x y : Bool), outranks a x b y = true → outranks b y a x = false) ∧
  ∀ (a b c : Task) (x y z : Bool), outranks a x b y = true → outranks b y c z = true → outranks a x c z = true

/-- Pre-emption moves a Draft context whole into a save record and frees its slot; a Fair-copy context is never taken (R309, R311). -/
def Says.PreemptionSavesTheContext : Prop :=
  (∀ (s : State) (c r : Nat) (x : Cand) (h : Hart), c < 128 → s.coreLive c = true → s.dx.stopped = false → s.freeSlot c = none →
    s.topCand c = some x → s.freeRecord c = some r → s.pickVictim c x = some h → h.ctx < 2 → s.canLeave h = true → (s.ctx h).run = .ready →
    (s.ctx h).reports = [] → ∃ t, exec (.preempt c) s = .next t ∧ (t.ctx h).run = .idle ∧
      smapGet (fun _ => none) t.dx.saved (4 * c + r) = some ⟨{ s.ctx h with yields := false }, false⟩ ∧
      t.reg regDxPreempt = s.reg regDxPreempt + 1 ∧ t.clu = s.clu ∧ t.mem = s.mem) ∧
  (∀ (s : State) (c : Nat) (x : Cand) (h : Hart), s.pickVictim c x = some h → (s.ctx h).task.fair = false) ∧
  ∀ (s : State) (c : Nat), (s.freeSlot c).isSome = true → exec (.preempt c) s = .next s

/-- An owner swap releases the engine of a saved task of lower rank once its operations are done, keeping the owner's state; without EN
of DX_OWNAREAj nothing is swapped (R312). -/
def Says.OwnerSwaps : Prop :=
  ∀ (s : State) (c : Nat) (o : Owner), c < 128 → (s.cl c).ql.owner = some o →
    (s.rbit (regDxOwnarea o.job) 0 = false → exec (.ownerSwap c .quill) s = .next s) ∧
    (s.rbit (regDxOwnarea o.job) 0 = true → (∀ x ∈ (s.cl c).ql.ops, x.own.same o = false) → s.swapFor c .quill o = true →
      s.coreLive c = true → s.dx.stopped = false →
      ∃ t, exec (.ownerSwap c .quill) s = .next t ∧ (t.cl c).ql = { (s.cl c).ql with owner := none } ∧
        t.reg regDxOwnswap = s.reg regDxOwnswap + 1 ∧ ∃ v ∈ t.swaps, v.cluster = c ∧ v.own = o ∧ v.ql = some (s.cl c).ql)

/-- The tick of 1 µs: module time comes to the next whole microsecond, a task that waits in place goes on when its time has come, and one
whose time has not come waits on (R46, R300, R306). -/
def Says.DelayTicks : Prop :=
  ∀ s : State, ∃ t, exec .delayTick s = .next t ∧ (s.role ≠ 3 → t.time = BitVec.ofNat 64 (1000 * (s.time.toNat / 1000 + 1))) ∧
    (s.dx.stopped = false → s.dx.delay = [] → t.dx.delay = [] ∧ t.mem = s.mem ∧
      ∀ h e, (s.ctx h).run = .waiting (.sleep e) → t.ctx h = (if e ≤ t.time.toNat then (s.ctx h).next else s.ctx h)) ∧
    (s.dx.stopped = false → s.dx.expired = [] → ∀ c e x, c < 128 → s.clusterUp c = true → (∀ i, (s.ctx ⟨c, i⟩).reports = []) → s.dx.delay = [DelayEnt.mk c e (.spawn x)] → x.target = c →
      e ≤ t.time.toNat → s.dx.level c x.fair x.prio < 64 → t.dx.delay = [] ∧ ∃ y, t.dx.clq = s.dx.clq ++ [y] ∧ y.num = x.num ∧ y.job = x.job)

/-- An energy sample of a running Draft task counts in its energy, its domain and E_m; idle contexts and copyists count nothing of a task
(R314, R478). -/
def Says.EnergyCounts : Prop :=
  ∀ (s : State) (e : EnergySample), e.dom < 176 →
    ((s.ctx e.hart).run = .idle → ∃ t, exec (.energyUpdate [e]) s = .next t ∧ t.ctx e.hart = s.ctx e.hart ∧
      t.reg (regPwEdom e.dom) = s.reg (regPwEdom e.dom) + BitVec.ofNat 64 e.uj) ∧
    ((s.ctx e.hart).run ≠ .idle → s.dx.stopped = false → e.hart.core < 128 → (s.ctx e.hart).task.fair = false →
      (s.ctx e.hart).task.job < 16 →
      ∃ t, exec (.energyUpdate [e]) s = .next t ∧ t.ctx e.hart = { s.ctx e.hart with energy := (s.ctx e.hart).energy + e.nj } ∧
        t.reg (regPwEdom e.dom) = s.reg (regPwEdom e.dom) + BitVec.ofNat 64 e.uj ∧ t.eMeasured = s.eMeasured + e.nj ∧ t.mem = s.mem)

/-- A fold swap pauses the active cluster's operations and empties its contexts' waits, then the other cluster is active; outside a fold
nothing happens (R321). -/
def Says.FoldSwaps : Prop :=
  (∀ (s : State) (g : Nat), s.foldAt g = none → exec (.foldSwap g) s = .next s ∧ exec (.foldSwapComplete g) s = .next s) ∧
  ∀ (s : State) (g : Nat) (f : Fold), s.foldAt g = some f →
    (f.swapping = false → s.dx.stopped = false → (s.ctx ⟨f.active, 0⟩).run = .idle → (s.ctx ⟨f.active, 1⟩).run = .idle →
      ∃ t, exec (.foldSwap g) s = .next t ∧ t.foldAt g = some { f with swapping := true } ∧ t.mem = s.mem ∧
        (∀ o ∈ (t.cl f.active).sk, o.state ≠ 3) ∧ t.reg regDxFoldswap = s.reg regDxFoldswap + 1) ∧
    (f.swapping = true → f.host ≠ f.guest → f.active = f.host ∨ f.active = f.guest → ∃ t x, exec (.foldSwapComplete g) s = .next t ∧
      t.foldAt g = some x ∧ x.swapping = false ∧ x.active ≠ f.active ∧ (x.active = f.host ∨ x.active = f.guest))

/-- Registers of Ductus: DX_POLICY is clamped and counts a clamp (R320); DX_SPILL and DX_OWNAREAj are discarded while they are in use, and
CFG_REJ says so. -/
def Says.DuctusRegisters : Prop :=
  (∀ (s : State) (v : Word), ∃ t, exec (.dxPolicyWrite v) s = .next t ∧
    t.rfld regDxPolicy 9 0 = min (fld v 9 0) (950 * s.phases / 40) ∧ t.rfld regDxPolicy 39 32 = max 60 (min 100 (fld v 39 32)) ∧
    (fld v 9 0 ≤ 950 * s.phases / 40 → 60 ≤ fld v 39 32 → fld v 39 32 ≤ 100 → t.reg regDxPolClamp = s.reg regDxPolClamp) ∧
    (950 * s.phases / 40 < fld v 9 0 → t.reg regDxPolClamp = s.reg regDxPolClamp + 1)) ∧
  (∀ (s : State) (v : Word), (s.dx.spill ≠ [] → exec (.dxSpillWrite v) s = .next (s.setRbit regDxStatus 0 true)) ∧
    (s.dx.spill = [] → exec (.dxSpillWrite v) s = .next (s.swReg regDxSpill v))) ∧
  ∀ (s : State) (j : Nat) (v : Word), j < 16 →
    (s.tasksIn j = true ∨ 356 < fld v 24 16 → exec (.dxOwnareaWrite j v) s = .next (s.setRbit regDxStatus 0 true)) ∧
    (s.tasksIn j = false → fld v 24 16 ≤ 356 → exec (.dxOwnareaWrite j v) s = .next (s.swReg (regDxOwnarea j) v))
/-! ### Marks (R325 to R340) -/

/-- MK.SIG and MK.SET send their update to the mark's home and go on; an unmapped handle raises MARK with the handle and sends nothing
(R326, R328, R330). -/
def Says.MarkUpdatesAreSent : Prop :=
  ∀ (s : State) (h : Hart) (f : FormK),
    (∀ e ∈ ([(.mkSig, .signal (f.imm.toNat / 1024 % 65536)), (.mkSet, .set (fld ((s.ctx h).getA f.src.toNat) 31 0))] :
        List ((Hart → FormK → Instr) × MarkOp)), s.Runs (e.1 h f) →
      (∀ x, s.handle (s.ctx h).task.job (f.imm.toNat % 1024) = some x → ∃ t, exec (e.1 h f) s = .next t ∧ t.ctx h = (s.ctx h).next ∧
        (t.markRt x.1).inflight = (s.markRt x.1).inflight ++ [⟨if s.markHome x.1 = h.core then 2 else 4, e.2⟩] ∧
        t.markCount x.1 = s.markCount x.1 ∧ t.mem = s.mem)) ∧
    ∀ e ∈ ([.mkSig, .mkWait, .mkWaitdec, .mkTest, .mkSet] : List (Hart → FormK → Instr)), s.Runs (e h f) →
      s.handle (s.ctx h).task.job (f.imm.toNat % 1024) = none →
      exec (e h f) s = .next (s.raise h .mark (BitVec.ofNat 64 (f.imm.toNat % 1024)))

/-- A wait that reaches a mark with nothing under way: MK.TEST gets COUNT, MK.WAIT gets COUNT when it is at least the target, MK.WAITDEC gets
what its subtraction leaves; a wait whose target is above COUNT is pending at the mark (R330, R332). -/
def Says.MarkWaits : Prop :=
  ∀ (s : State) (h : Hart) (f : FormK) (x : Nat × Bool), s.handle (s.ctx h).task.job (f.imm.toNat % 1024) = some x →
    (s.markRt x.1).inflight = [] → (s.markRt x.1).waits = [] →
    (s.Runs (.mkTest h f) → ∃ t, exec (.mkTest h f) s = .next t ∧ t.markCount x.1 = s.markCount x.1 ∧
      t.ctx h = (({ s.ctx h with since := s.time } : Ctx).setA f.dst.toNat (BitVec.ofNat 64 (s.markCount x.1))).next) ∧
    (s.Runs (.mkWait h f) → fld ((s.ctx h).getA f.src.toNat) 31 0 ≤ s.markCount x.1 → ∃ t, exec (.mkWait h f) s = .next t ∧
      t.markCount x.1 = s.markCount x.1 ∧
      t.ctx h = (({ s.ctx h with since := s.time } : Ctx).setA f.dst.toNat (BitVec.ofNat 64 (s.markCount x.1))).next) ∧
    (s.Runs (.mkWaitdec h f) → fld ((s.ctx h).getA f.src.toNat) 31 0 ≤ s.markCount x.1 → ∃ t, exec (.mkWaitdec h f) s = .next t ∧
      t.markCount x.1 = s.markCount x.1 - fld ((s.ctx h).getA f.src.toNat) 31 0 ∧
      t.ctx h = (({ s.ctx h with since := s.time } : Ctx).setA f.dst.toNat
        (BitVec.ofNat 64 (s.markCount x.1 - fld ((s.ctx h).getA f.src.toNat) 31 0))).next) ∧
    ∀ e ∈ ([(.mkWait, fun g d t => .wait g d t), (.mkWaitdec, fun g d t => .waitDec g d t)] :
        List ((Hart → FormK → Instr) × (Hart → Nat → Nat → MarkOp))), s.Runs (e.1 h f) →
      s.markCount x.1 < fld ((s.ctx h).getA f.src.toNat) 31 0 → ∃ t, exec (e.1 h f) s = .next t ∧
        (t.ctx h) = { s.ctx h with run := .waiting (.mark x.1), since := s.time } ∧ t.markCount x.1 = s.markCount x.1 ∧
        (t.markRt x.1).waits = [e.2 h f.dst.toNat (fld ((s.ctx h).getA f.src.toNat) 31 0)]

/-- The home applies the update of the lowest class first: a signal adds and saturates at 2^32 - 1 with OVF and MK_OVF, a set replaces the
count (R330, R331); with nothing under way, and during a folio stop, the home does nothing (R337). -/
def Says.HomesApplyUpdates : Prop :=
  ∀ (s : State) (n : Nat), n < 4096 →
    ((s.markRt n).inflight = [] ∨ s.dx.stopped = true → exec (.markUpdate n) s = .next s) ∧
    (s.dx.stopped = false → (s.markRt n).waits = [] → ∀ u, (s.markRt n).inflight = [u] →
      (∀ i, u.op = .signal i → s.markCount n + i ≤ 0xFFFFFFFF → ∃ t, exec (.markUpdate n) s = .next t ∧ (t.markRt n).inflight = [] ∧
        t.markCount n = s.markCount n + i ∧ t.reg regMkOvf = s.reg regMkOvf ∧ ∀ h, t.ctx h = s.ctx h) ∧
      (∀ i, u.op = .signal i → 0xFFFFFFFF < s.markCount n + i → ∃ t, exec (.markUpdate n) s = .next t ∧ (t.markRt n).inflight = [] ∧
        t.markCount n = 0xFFFFFFFF ∧ t.rbit (regMkMark n) 62 = true ∧ t.reg regMkOvf = s.reg regMkOvf + 1) ∧
      (∀ v, u.op = .set v → v < 2 ^ 32 → ∃ t, exec (.markUpdate n) s = .next t ∧ (t.markRt n).inflight = [] ∧ t.markCount n = v)) ∧
    ∀ u l, pickUpd l = some u → u.1 ∈ l ∧ u.2 = l.erase u.1 ∧ ∀ v ∈ l, u.1.cls ≤ v.cls

/-- A signal that would take COUNT beyond 0xFFFF_FFFF leaves it at 0xFFFF_FFFF, sets OVF and adds one to MK_OVF; it reports no fault, raises
no exception and posts nothing, and then the pending waits are tested (R331). -/
def Obligations.SignalsSaturate : Prop :=
  ∀ (s : State) (n : Nat) (u : MarkUpd) (i : Nat), n < 4096 → s.dx.stopped = false → (s.markRt n).inflight = [u] → u.op = .signal i → 0xFFFFFFFF < s.markCount n + i →
    (∃ t : State, exec (.markUpdate n) s = .next (t.retestAll n) ∧ t.markCount n = 0xFFFFFFFF ∧ t.rbit (regMkMark n) 62 = true ∧
      t.reg regMkOvf = s.reg regMkOvf + 1 ∧ (∀ h, t.ctx h = s.ctx h) ∧ t.reports = s.reports ∧ t.events = s.events ∧ t.mem = s.mem) ∧
    ((s.markRt n).waits = [] → ∃ t, exec (.markUpdate n) s = .next t ∧ t.markCount n = 0xFFFFFFFF ∧ t.rbit (regMkMark n) 62 = true ∧
      t.reg regMkOvf = s.reg regMkOvf + 1 ∧ (∀ h, t.ctx h = s.ctx h) ∧ t.reports = s.reports ∧ t.events = s.events ∧ t.mem = s.mem)

/-- Two MK.WAITDEC never consume the same counts: a re-test subtracts each satisfied wait's target before the next is tested, in arrival
order, so the count never falls below what the satisfied targets leave (R332). -/
def Says.WaitsNeverShareCounts : Prop :=
  ∀ (s : State) (n : Nat) (ws : List (Hart × Nat × Nat)),
    let ops := ws.map (fun w => MarkOp.waitDec w.1 w.2.1 w.2.2)
    ∃ done : List (Hart × Nat × Nat), done.Sublist ws ∧ (s.retest n ops).1.markCount n + (done.map (fun w => w.2.2)).sum = s.markCount n ∧
      (s.retest n ops).2.length + done.length = ws.length

/-- A wait past MK_HANGLIM sets HANG of its job, is counted and posts an event, and waits on; a limit of 0 reports nothing (R336). -/
def Says.HungWaits : Prop :=
  ∀ (s : State) (h : Hart) (n : Nat), (s.ctx h).run = .waiting (.mark n) →
    (s.rfld regMkHanglim 31 0 = 0 ∨ s.waited h ≤ s.rfld regMkHanglim 31 0 → exec (.waitHang h) s = .next s) ∧
    (s.rfld regMkHanglim 31 0 ≠ 0 → s.rfld regMkHanglim 31 0 < s.waited h → s.events.length < 65536 → ∃ t v, exec (.waitHang h) s = .next t ∧ t.rbit (regMkJobstat (s.ctx h).task.job) 1 = true ∧
      t.reg regMkHangs = s.reg regMkHangs + 1 ∧ t.events = s.events ++ [v] ∧ v.code = 4 ∧ v.job = (s.ctx h).task.job ∧
      v.result = resultBytes [(0, leBytes 2 (s.rfld (regMkMark n) 57 48)), (8, leBytes 8 (taskId h (s.ctx h)).toNat),
        (16, leBytes 8 (s.waited h))] ∧ t.ctx h = s.ctx h ∧ (t.markRt n) = (s.markRt n))

/-- Writes of MK_MARKn: an unmapped mark moves to the directory or to a cluster with fewer than 64 marks, any other HOME is discarded with
CFG_REJ, and of a mapped mark every other HOME (R325); a COUNT write of a loaded job's mark is discarded without its debugger, and under it is a hand set that taints the job;
else it is a restore (R327, R334). -/
def Says.MarkRegisterWrites : Prop :=
  ∀ (s : State) (n : Nat) (v : Word), n < 4096 → bitOf v 62 = false →
    (s.markMapped n = false → fld v 47 40 ≠ s.markHome n →
      ((128 ≤ fld v 47 40 ∧ fld v 47 40 ≠ 255) ∨ (fld v 47 40 < 128 ∧ 64 ≤ s.homedAt (fld v 47 40)) →
        exec (.mkMarkWrite n .high v) s = .next s.mkReject ∧ exec (.mkMarkWrite n .full v) s = .next s.mkReject) ∧
      (fld v 47 40 = 255 ∨ (fld v 47 40 < 128 ∧ s.homedAt (fld v 47 40) < 64) →
        exec (.mkMarkWrite n .high v) s = .next (s.setRfld (regMkMark n) 47 40 (fld v 47 40)))) ∧
    (s.markMapped n = true → fld v 47 40 ≠ s.markHome n → exec (.mkMarkWrite n .high v) s = .next s.mkReject ∧
      ((128 ≤ fld v 47 40 ∧ fld v 47 40 ≠ 255) ∨ (fld v 47 40 < 128 ∧ 64 ≤ s.homedAt (fld v 47 40)) →
        exec (.mkMarkWrite n .full v) s = .next s.mkReject)) ∧
    ((s.markRt n).waits = [] →
      (s.markMapped n = true → (s.job (s.markJob n)).loaded = true → (s.job (s.markJob n)).debug = false →
        exec (.mkMarkWrite n .low v) s = .next s.mkReject) ∧
      (s.markMapped n = true → (s.job (s.markJob n)).loaded = true → (s.job (s.markJob n)).debug = true →
        ∃ t, exec (.mkMarkWrite n .low v) s = .next t ∧ t.markCount n = fld v 31 0 ∧ t.rbit (regMkJobstat (s.markJob n)) 0 = true ∧
          t.reg regMkHandset = s.reg regMkHandset + 1) ∧
      (s.markMapped n = false ∨ (s.job (s.markJob n)).loaded = false →
        ∃ t, exec (.mkMarkWrite n .low v) s = .next t ∧ t.markCount n = fld v 31 0 ∧ t.reg regMkHandset = s.reg regMkHandset))

/-- A write of MK_MAPj_k that would map a mark already mapped is discarded whole with CFG_REJ; a first mapping takes effect with COUNT and
OVF at 0 (R326, R327, R333). -/
def Says.MarkMapping : Prop :=
  ∀ (s : State) (j k p : Nat), j < 16 → k < 256 → p < 4096 → s.reg (regMkMap j k) = 0 →
    (s.markMapped p = true → exec (.mkMapWrite j k (BitVec.ofNat 64 (0x8000 + p))) s = .next s.mkReject) ∧
    (s.markMapped p = false → ∃ t, exec (.mkMapWrite j k (BitVec.ofNat 64 (0x8000 + p))) s = .next t ∧ t.markMapped p = true ∧
      t.markJob p = j ∧ t.rfld (regMkMark p) 57 48 = 4 * k ∧ t.markCount p = 0 ∧ t.rbit (regMkMark p) 62 = false ∧
      t.markHome p = s.markHome p ∧ t.handle j (4 * k) = some (p, false))
/-! ### Control-core caches (R341 to R357) -/

/-- Whole-cache commands: CMD_REJ while another runs, for DINV while the data cache is in use, for CLEAN and FLUSH while it is not; an
accepted one sets BUSY (R354). -/
def Says.WholeCacheCommands : Prop :=
  ∀ (s : State) (c : Nat), c < 132 →
    (∀ e ∈ ([(.ccDinv, 6), (.ccIinv, 7), (.ccClean, 5), (.ccFlush, 4)] : List ((Nat → Instr) × Nat)),
      (s.rbit (s.ccKey c 0x10) 5 = true → exec (e.1 c) s = .next (s.setRbit (s.ccKey c 0x10) 7 true)) ∧
      (s.rbit (s.ccKey c 0x10) 5 = false →
        (e.2 = 6 ∧ (s.denNow c = true ∨ s.dact c = true ∨ s.draining c = true)) ∨ (e.2 < 6 ∧ s.dact c = false) →
        exec (e.1 c) s = .next (s.setRbit (s.ccKey c 0x10) 7 true)) ∧
      (s.rbit (s.ccKey c 0x10) 5 = false →
        (e.2 = 7 ∨ (e.2 = 6 ∧ s.denNow c = false ∧ s.dact c = false ∧ s.draining c = false) ∨ (e.2 < 6 ∧ s.dact c = true)) →
        ∃ t, exec (e.1 c) s = .next t ∧ t.rbit (s.ccKey c 0x10) 5 = true ∧ (t.cache c).cmd = some (2 ^ e.2) ∧
          t.rbit (s.ccKey c 0) e.2 = true ∧ t.mem = s.mem ∧ t.sets = s.sets)) ∧
    ((s.cache c).cmd = none → exec (.ccCmdComplete c) s = .next s) ∧
    ((s.cache c).cmd = some 64 → (s.cache c).thenOff = false → ∃ t, exec (.ccCmdComplete c) s = .next t ∧
      t.rbit (s.ccKey c 0x10) 4 = true ∧ t.rbit (s.ccKey c 0x10) 5 = false ∧ (∀ k, k / 128 = c → t.cset k = {}) ∧ t.mem = s.mem) ∧
    ((s.cache c).cmd = some 128 → (s.cache c).thenOff = false → ∃ t, exec (.ccCmdComplete c) s = .next t ∧
      t.rbit (s.ccKey c 0x10) 3 = true ∧ t.rbit (s.ccKey c 0x10) 5 = false ∧ (t.cache c).isets = [] ∧ t.mem = s.mem)

/-- DEN and IEN are accepted only after a completed whole-cache invalidate, else EN_REJ is set and the bit stays 0 (R352). A disable with no
dirty line acts at once and clears DINVD; with dirty ones DRAINING reads 1, and DEN is refused until the drain ends (R353). -/
def Says.CacheEnables : Prop :=
  ∀ (s : State) (c : Nat), c < 132 →
    (s.denNow c = false → s.rbit (s.ccKey c 0x10) 4 = false ∨ s.draining c = true →
      exec (.ccDen c true) s = .next (s.setRbit (s.ccKey c 0x10) 6 true)) ∧
    (s.denNow c = false → s.rbit (s.ccKey c 0x10) 4 = true → s.draining c = false → ∃ t, exec (.ccDen c true) s = .next t ∧
      t.denNow c = true ∧ t.dact c = true) ∧
    (s.ienNow c = false → s.rbit (s.ccKey c 0x10) 3 = false → exec (.ccIen c true) s = .next (s.setRbit (s.ccKey c 0x10) 6 true)) ∧
    (s.ienNow c = false → s.rbit (s.ccKey c 0x10) 3 = true → ∃ t, exec (.ccIen c true) s = .next t ∧ t.ienNow c = true ∧
      t.rbit (s.ccKey c 0x10) 1 = true) ∧
    (s.ienNow c = true → ∃ t, exec (.ccIen c false) s = .next t ∧ t.ienNow c = false ∧ t.rbit (s.ccKey c 0x10) 1 = false) ∧
    (s.denNow c = true → s.anyDirty c = false → ∃ t, exec (.ccDen c false) s = .next t ∧ t.denNow c = false ∧ t.dact c = false ∧
      t.rbit (s.ccKey c 0x10) 4 = false) ∧
    (s.denNow c = true → s.anyDirty c = true → ∃ t, exec (.ccDen c false) s = .next t ∧ t.denNow c = false ∧ t.draining c = true ∧
      t.dact c = s.dact c ∧ t.sets = s.sets) ∧
    (s.draining c = false → exec (.ccDrainComplete c) s = .next s) ∧
    (s.draining c = true → ∃ t, exec (.ccDrainComplete c) s = .next t ∧ t.draining c = false ∧ t.dact c = false ∧
      t.rbit (s.ccKey c 0x10) 4 = false ∧ ∀ k, k / 128 = c → t.cset k = {})

/-- CC_CFG is discarded with CFG_REJ while the cache is enabled or draining; else stored with PFD at most 8 (R347, R348). -/
def Says.CacheConfiguration : Prop :=
  ∀ (s : State) (c : Nat) (v : Word), c < 132 →
    (s.denNow c = true ∨ s.dact c = true ∨ s.draining c = true → exec (.ccCfgWrite c v) s = .next (s.setRbit (s.ccKey c 0x10) 8 true)) ∧
    (s.denNow c = false → s.dact c = false → s.draining c = false → ∃ t, exec (.ccCfgWrite c v) s = .next t ∧
      t.rbit (s.ccKey c 8) 8 = bitOf v 8 ∧ t.rfld (s.ccKey c 8) 7 4 = min (fld v 7 4) 8 ∧ t.rfld (s.ccKey c 8) 1 0 = fld v 1 0)

/-- A miss ends: the line stands in the cache and the waiting load its value; with the cache disabled it executes again; a full eviction
buffer holds a dirty victim's fill, counted once (R344, R347). -/
def Says.MissesEnd : Prop :=
  (∀ (s : State) (h : Hart) (e : List MemErr), (s.cache h.core).miss = none → exec (.cacheFillComplete ⟨h, .miss, e⟩) s = .next s) ∧
  ∀ (s : State) (h : Hart) (pa dst : Nat) (m : Miss) (e : List MemErr), h.core < 132 → (s.cache h.core).miss = some m →
    s.waiter h.core m.line = some (h, pa, .load dst 8 false) →
    (s.dact h.core = false → ∃ t, exec (.cacheFillComplete ⟨h, .miss, e⟩) s = .next t ∧ t.ctx h = { s.ctx h with run := .ready } ∧
      (t.cache h.core).miss = none ∧ t.mem = s.mem) ∧
    (s.dact h.core = true → s.draining h.core = false → s.fillBlocked h.core m.line = true →
      (m.full = true → exec (.cacheFillComplete ⟨h, .miss, e⟩) s = .next s) ∧
      (m.full = false → ∃ t, exec (.cacheFillComplete ⟨h, .miss, e⟩) s = .next t ∧ t.ctxs = s.ctxs ∧ t.mem = s.mem ∧
        (t.cache h.core).miss = some ⟨m.line, true⟩ ∧ t.reg (s.ccKey h.core 0x38) = s.reg (s.ccKey h.core 0x38) + 1)) ∧
    (s.dact h.core = true → s.draining h.core = false → s.fillBlocked h.core m.line = false → Intact s →
      (s.demandErrs (errsIn [(m.line, 64)] e)).firstPoison m.line 64 = none → s.hostHeld m.line 64 true = [] →
      ∃ t, exec (.cacheFillComplete ⟨h, .miss, e⟩) s = .next t ∧ t.lineIn h.core m.line = true ∧ (t.cache h.core).miss = none ∧
        t.ctx h = ((s.ctx h).setA dst (BitVec.ofNat 64 (s.rdLe pa 8))).next ∧ ∀ a, t.rd a = s.rd a)

/-- A prefetched line enters the array where a way is invalid or clean, changing no byte; an instruction line enters its cache, a miss
counting once (R346, R349). -/
def Says.OtherFillsEnd : Prop :=
  (∀ (s : State) (h : Hart) (line : Nat) (e : List MemErr),
    ((s.cache h.core).pf.contains line = false → exec (.cacheFillComplete ⟨h, (.prefetch line), e⟩) s = .next s) ∧
    ∀ i, h.core < 132 → (s.cache h.core).pf.contains line = true → s.dact h.core = true → s.draining h.core = false → Intact s →
      s.waiter h.core line = none → (s.demandErrs (errsIn [(line, 64)] e)).firstPoison line 64 = none → s.hostHeld line 64 true = [] →
      s.lineIn h.core line = false → (s.cset (setKey h.core line)).cleanWay = some i →
      ∃ t, exec (.cacheFillComplete ⟨h, (.prefetch line), e⟩) s = .next t ∧ t.lineIn h.core line = true ∧
        (t.cache h.core).pf = (s.cache h.core).pf.erase line ∧ t.ctxs = s.ctxs ∧ ∀ a, t.rd a = s.rd a) ∧
  ∀ (s : State) (h : Hart) (pa : Nat) (e : List MemErr), h.core < 132 →
    (s.rbit (s.ccKey h.core 0x10) 1 = false ∨ cacheable (lineOf pa) = false →
      exec (.cacheFillComplete ⟨h, (.fetch pa), e⟩) s = .next s) ∧
    (s.rbit (s.ccKey h.core 0x10) 1 = true → cacheable (lineOf pa) = true →
      ∃ t, exec (.cacheFillComplete ⟨h, (.fetch pa), e⟩) s = .next t ∧ t.ilineIn h.core (lineOf pa) = true ∧ t.mem = s.mem ∧ t.ctxs = s.ctxs ∧
        t.sets = s.sets ∧ t.reg (s.ccKey h.core 0x28) = s.reg (s.ccKey h.core 0x28) +
          (if s.ilineIn h.core (lineOf pa) = true then 0 else 1))

/-- A write-back's acknowledgement takes the oldest entry from the eviction buffer, for a host line only the host's answer (R347, R390). The
scrubber: a good line changes nothing; a clean data line with bad parity leaves, counted and reported as corrected; a dirty one, or a bad
tag, is lost, counted and reported as a fault; an instruction line is dropped and counted (R356, R357). -/
def Says.EvictionAndScrub : Prop :=
  ∀ (s : State) (c : Nat), c < 132 →
    ((s.cache c).evb = [] → exec (.evbWriteAck c) s = .next s) ∧
    (∀ l rest, (s.cache c).evb = l :: rest →
      (s.hreqs.any (fun r => r.who == .cache c && r.op == .wbDirty && hostPa r.line == l.line) = true →
        exec (.evbWriteAck c) s = .next s) ∧
      (s.hreqs.any (fun r => r.who == .cache c && r.op == .wbDirty && hostPa r.line == l.line) = false →
        ∃ t, exec (.evbWriteAck c) s = .next t ∧ (t.cache c).evb = rest ∧ t.mem = s.mem ∧ t.sets = s.sets)) ∧
    exec (.cacheScrub c .good) s = .next s ∧
    (∀ line, s.dact c = true → s.lineHeld c (lineOf line) = false → exec (.cacheScrub c (.dataError line)) s = .next s ∧
      exec (.cacheScrub c (.tagError line)) s = .next s) ∧
    (∀ line l, s.dact c = true → (s.cset (setKey c (lineOf line))).find (lineOf line) = some l → l.dirty = false →
      (∃ t, exec (.cacheScrub c (.dataError line)) s = .next t ∧
        t.reg (s.ccKey c 0x58) = s.reg (s.ccKey c 0x58) + 1 ∧ t.mem = s.mem ∧
        t.reports = s.reports ++ [⟨0x42, s.coreUnit c, 0, BitVec.ofNat 64 (lineOf line), none, false⟩]) ∧
      ∃ t, exec (.cacheScrub c (.tagError line)) s = .next t ∧
        t.reg (s.ccKey c 0x60) = s.reg (s.ccKey c 0x60) + 1 ∧ t.mem = s.mem ∧
        t.reports = s.reports ++ [⟨0x0C, s.coreUnit c, 0, BitVec.ofNat 64 (lineOf line), none, false⟩]) ∧
    (∀ line l, s.dact c = true → (s.cset (setKey c (lineOf line))).find (lineOf line) = some l → l.dirty = true →
      l.backing.length = 64 → ∃ t, exec (.cacheScrub c (.dataError line)) s = .next t ∧
        t.reg (s.ccKey c 0x60) = s.reg (s.ccKey c 0x60) + 1 ∧ t.rdN (lineOf line) 64 = l.backing ∧
        t.reports = s.reports ++ [⟨0x0C, s.coreUnit c, 0, BitVec.ofNat 64 (lineOf line), none, false⟩]) ∧
    (∀ line, s.rbit (s.ccKey c 0x10) 1 = true → ∃ t, exec (.cacheScrub c (.instrError line)) s = .next t ∧
      t.ilineIn c (lineOf line) = false ∧ t.reg (s.ccKey c 0x58) = s.reg (s.ccKey c 0x58) + 1 ∧ t.mem = s.mem ∧ t.sets = s.sets ∧
      t.reports = s.reports ++ [⟨0x42, s.coreUnit c, 0, BitVec.ofNat 64 line, none, false⟩]) ∧
    ∀ line tag l, s.dact c = true → (s.cset (setKey c (lineOf line))).find (lineOf line) = some l →
      ∃ t, exec (.cacheScrub c (.strikes line tag)) s = .next t ∧ t.lineAt c (lineOf line) = some { l with bad := some tag } ∧
        t.mem = s.mem ∧ t.regs = s.regs ∧ t.reports = s.reports
/-! ### Inkwell and Reservoir (R358 to R373) -/

/-- A region's patrol reads its next granule, a full pass counting in PASSES; a corrected word counts in IW_CE and is reported 0x40, an
uncorrectable one is poisoned, counts in IW_UE and is reported 0x0A; poisoned words only count; a region not joined is not walked; no byte
changes (R364, R365, R367, R369, R371). -/
def Says.InkwellPatrol : Prop :=
  (∀ (s : State) (k : Nat) (e : List WordErr), 128 ≤ k ∨ s.joined (s.phys k) = false → exec (.patrolInkwell k e) s = .next s) ∧
  ∀ (s : State) (k pos : Nat), k < 128 → s.joined (s.phys k) = true → s.joined 162 = true → s.phys k < 144 →
    pos = s.rfld (regIwPatrol (s.phys k)) 18 0 → pos < 393216 →
    (∃ t, exec (.patrolInkwell k []) s = .next t ∧ t.mem = s.mem ∧ t.poison = s.poison ∧ t.reports = s.reports ∧
      t.rfld (regIwPatrol (s.phys k)) 18 0 = (if pos = 393215 then 0 else pos + 1) ∧
      t.rfld (regIwPatrol (s.phys k)) 63 32 = (if pos = 393215 then (s.rfld (regIwPatrol (s.phys k)) 63 32 + 1) % 2 ^ 32
        else s.rfld (regIwPatrol (s.phys k)) 63 32)) ∧
    ∀ x : WordErr, x.word < 8 → s.poison.contains (inkwellBase k + 64 * pos + 8 * x.word) = false → x.addrMismatch = false →
      (x.bits = 1 → s.tiers.seen = [] → ∃ t, exec (.patrolInkwell k [x]) s = .next t ∧ t.mem = s.mem ∧ t.poison = s.poison ∧
        t.reg (regIwCe (s.phys k)) = s.reg (regIwCe (s.phys k)) + 1 ∧
        t.reports = s.reports ++ [⟨0x40, ⟨0, s.phys k⟩, inkwellBase k + 64 * pos + 8 * x.word, 0, none, false⟩]) ∧
      (3 ≤ x.bits → ∃ t, exec (.patrolInkwell k [x]) s = .next t ∧ t.mem = s.mem ∧
        t.poison.contains (inkwellBase k + 64 * pos + 8 * x.word) = true ∧
        t.reg (regIwUe (s.phys k)) = s.reg (regIwUe (s.phys k)) + 1 ∧
        t.reports = s.reports ++ [⟨0x0A, ⟨0, s.phys k⟩, inkwellBase k + 64 * pos + 8 * x.word, 0, none, false⟩])

/-- A Reservoir controller's patrol reads the next slot of its four groups; an overdue read sets URGENT and counts; in self-refresh it rests
(R370, R371). -/
def Says.ReservoirPatrol : Prop :=
  (∀ (s : State) (i : Nat) (e : List WordErr) (d : Bool), 4 ≤ i ∨ s.joined (152 + i) = false ∨ s.rbit (regRvStatus i) 2 = true →
    exec (.patrolReservoir i e d) s = .next s) ∧
  ∀ (s : State) (i : Nat) (d : Bool) (pos : Nat), i < 4 → s.joined (152 + i) = true → s.joined 162 = true →
    s.rbit (regRvStatus i) 2 = false → pos = s.rfld (regRvPatrol i) 27 0 → ∃ t, exec (.patrolReservoir i [] d) s = .next t ∧ t.mem = s.mem ∧
      t.poison = s.poison ∧ t.reports = s.reports ∧ t.rbit (regRvStatus i) 0 = d ∧
      t.reg (regRvPatrolUrgent i) = s.reg (regRvPatrolUrgent i) + BitVec.ofNat 64 (b2n d) ∧
      t.rfld (regRvPatrol i) 27 0 = (if pos = 268435455 then 0 else pos + 1)

/-- At each position the groups read one slot each: no two name one slot, and every address of a group is met (R363, R370). -/
def Says.PatrolCoversReservoir : Prop :=
  (∀ g pos, g < 16 → pos < 268435456 → rvGroup (rvPatrolAddr g pos) = g ∧ rvPatrolAddr g pos < 2 ^ 40 ∧ rvPatrolAddr g pos % 256 = 0) ∧
  ∀ pa, pa < 2 ^ 40 → pa % 256 = 0 → ∃ pos, pos < 268435456 ∧ rvPatrolAddr (rvGroup pa) pos = pa

/-- A post-package repair that ends counts in RV_PPR, spends its channel's resource and releases the bank; one not under way is nothing
(R373). -/
def Says.RowRepairsEnd : Prop :=
  ∀ (s : State) (i g b : Nat),
    ((∀ x ∈ s.tiers.ppr, ¬ (x.ctl = i ∧ x.group = g ∧ x.bank = b)) → exec (.pprComplete i g b) s = .next s) ∧
    ∀ x, s.tiers.ppr.find? (fun x => x.ctl == i && x.group == g && x.bank == b) = some x → ∃ t, exec (.pprComplete i g b) s = .next t ∧
      t.tiers.ppr = s.tiers.ppr.erase x ∧ ((g * 16 + b) * 8 + x.chan) ∈ t.tiers.pprUsed ∧ t.mem = s.mem ∧
      (i < 4 → t.reg (regRvPpr i) = s.reg (regRvPpr i) + 1 ∧
        t.rbit (regRvStatus i) 1 = (s.tiers.ppr.erase x).any (fun y => y.ctl == i)) ∧
      t.reports = s.reports ++ [⟨0x44, ⟨4, g⟩, 0, BitVec.ofNat 64 (x.row * 16 + b), none, false⟩]

/-! ### Lanine (R375 to R399) -/

/-- A message of a class leaves at once: the link is open, its class has credits and nothing waits before it. -/
def CanSend (s : State) (code : Nat) : Prop := s.lanOpen = true ∧ s.lan.room code = true ∧ s.lan.waiting = []

/-- No command of the link acts while the link is down or retrains: nothing crosses (R396, R398). -/
def Says.NothingCrossesAClosedLink : Prop :=
  ∀ (s : State) (f : Flit) (g l n : Nat) (d : List Byte) (be : Word) (w : Bool) (p : Byte), s.lanOpen = false →
    ∀ i ∈ ([.nakTimeout, .lanineRetrain, .flitReceive f, .rdShr g l, .rdOwn g l, .rdCur g l, .wrLine g l d p, .wrPtl g l be d p,
      .wbDirty g l d p, .evictClean g l, .snpInv g l, .snpShr g l, .data g n d p, .cmp g, .srsp g l n, .srspData g l n d p, .err g n,
      .doorbell g n, .pageDone g n, .rgRd g l n w, .rgWr g l n w be] : List Instr), exec i s = .next s

/-- A flit that fails its FEC or its CRC is discarded, counted and answered with a NAK; nothing in it takes effect, whatever it holds. Once a
NAK is out further flits are discarded too. A control flit and a flit accepted before do nothing (R377 to R379). -/
def Says.FailedFlitsAreDiscarded : Prop :=
  ∀ (s : State) (f : Flit), s.lanOpen = true →
    (f.fecOk = false ∨ f.crcOk = false → s.lan.nakOpen = false → s.lan.naksOut < 7 → ∃ t, exec (.flitReceive f) s = .next t ∧
      t.reg regLnCrcErr = s.reg regLnCrcErr + 1 ∧ t.reg regLnFecCorr = s.reg regLnFecCorr + BitVec.ofNat 64 f.fecCorrected ∧
      t.out = ⟨.lanine, 0, [1, s.lan.rxSeq], []⟩ :: s.out ∧ t.lan = { s.lan with
        nakOpen := true, naksOut := s.lan.naksOut + 1, wire := [flitBytes (flitHdr s.lan.txSeq s.lan.rxSeq 0 true) []] } ∧
      t.mem = s.mem) ∧
    (f.fecOk = true → f.crcOk = true → f.ftype = 2 → exec (.flitReceive f) s = .next (s.bumpBy regLnFecCorr f.fecCorrected)) ∧
    (f.fecOk = true → f.crcOk = true → f.ftype.toNat < 2 → s.lan.rxSeq < 1024 → f.seq.toNat = s.lan.rxSeq →
      exec (.flitReceive f) s = .next (s.bumpBy regLnFecCorr f.fecCorrected)) ∧
    (f.fecOk = true → f.crcOk = true → f.ftype = 0 → f.seq.toNat = (s.lan.rxSeq + 1) % 1024 → s.lan.nakOpen = true →
      exec (.flitReceive f) s = .next (s.bumpBy regLnFecCorr f.fecCorrected))

/-- A flit is accepted when its FEC, its CRC and its messages are in order and its SEQ is the next expected: it acknowledges what was sent
up to its ACK and returns the credits it carries, each to its class; with NAK set every flit not acknowledged is resent and counted
(R379, R380, R383). -/
def Says.AcceptedFlits : Prop :=
  ∀ (s : State) (f : Flit) (need : List Bool), s.lanOpen = true → f.fecOk = true → f.crcOk = true →
    slotsCheck s.lan.rxData f.slots = some need →
    f.seq.toNat = (s.lan.rxSeq + 1) % 1024 → (f.ftype = 1 ∨ (f.ftype = 0 ∧ s.lan.nakOpen = false)) → s.lan.waiting = [] → s.lan.naks < 7 →
    ∃ t, exec (.flitReceive f) s = .next t ∧ t.mem = s.mem ∧ t.out = s.out ∧ t.lan.rxSeq = f.seq.toNat ∧ t.lan.rxData = need ∧ t.lan.nakOpen = false ∧
      t.lan.naksOut = 0 ∧ t.lan.waiting = [] ∧
      t.lan.replay = s.lan.replay.drop (match s.lan.replay.findIdx? (fun x => x.seq == f.ack.toNat) with
        | some i => i + 1
        | none => 0) ∧
      t.lan.reqCr = s.lan.reqCr + (if f.crcls = 0 then f.crcnt.toNat else 0) ∧
      t.lan.datCr = s.lan.datCr + (if f.crcls = 1 then f.crcnt.toNat else 0) ∧
      t.lan.snpCr = s.lan.snpCr + (if f.crcls = 2 then f.crcnt.toNat else 0) ∧
      t.lan.msgCr = s.lan.msgCr + (if f.crcls = 3 then f.crcnt.toNat else 0) ∧
      t.reg regLnReplay = s.reg regLnReplay + (if f.nak then BitVec.ofNat 64 t.lan.replay.length else 0) ∧
      (f.nak = true → ∀ x r, t.lan.replay = x :: r → t.lan.wire.drop 1 = r.map (fun y => y.bytes))

/-- With no replay within 2 µs NAK goes out again; the eighth NAK of one flit starts a retrain (R379, R380, R396). -/
def Says.NaksAreRepeated : Prop :=
  ∀ s : State, s.lanOpen = true →
    (s.lan.nakOpen = false → exec .nakTimeout s = .next s) ∧
    (s.lan.nakOpen = true → s.lan.naksOut < 7 → ∃ t, exec .nakTimeout s = .next t ∧ t.mem = s.mem ∧ t.lanOpen = true ∧
      t.out = ⟨.lanine, 0, [1, s.lan.rxSeq], []⟩ :: s.out) ∧
    (s.lan.nakOpen = true → 7 ≤ s.lan.naksOut → s.hreqs = [] → ∃ t, exec .nakTimeout s = .next t ∧ t.lanOpen = false ∧ t.mem = s.mem ∧
      t.reg regLnRetrain = s.reg regLnRetrain + 1)

/-- A retrain stops the link without losing what is in the replay buffer and counts in LN_RETRAIN; a fourth within 1 s takes the link
down. It ends with a replay of every flit not acknowledged, with its lanes placed, or, where it fails, with the link down
(R396 to R398). -/
def Says.Retrains : Prop :=
  (∀ s : State, s.lanOpen = true →
    ((s.lan.retrains.filter (fun x => decide ((s.time - x).toNat < 1000000000))).length < 3 → ∃ t, exec .lanineRetrain s = .next t ∧
      t.lanUp = true ∧ t.lanOpen = false ∧ t.lan.replay = s.lan.replay ∧ t.lan.waiting = s.lan.waiting ∧ t.hdir = s.hdir ∧ t.mem = s.mem ∧
      t.reg regLnRetrain = s.reg regLnRetrain + 1) ∧
    (3 ≤ (s.lan.retrains.filter (fun x => decide ((s.time - x).toNat < 1000000000))).length → s.hreqs = [] → ∃ t,
      exec .lanineRetrain s = .next t ∧ t.lanUp = false ∧ t.hdir = [] ∧ t.mem = s.mem ∧ t.reg regLnLinkdown = s.reg regLnLinkdown + 1)) ∧
  ∀ s : State, s.lanUp = true → s.rbit regLnStatus 2 = true →
    (s.lan.rxBad = [] → s.lan.txBad = [] → s.lan.rxDead = [] → s.lan.txDead = [] → s.lan.waiting = [] → ∃ t,
      exec (.lanineRetrainEnd ⟨false, [], []⟩) s = .next t ∧ t.lanOpen = true ∧ t.lan.replay = s.lan.replay ∧ t.mem = s.mem ∧
      t.reg regLnReplay = s.reg regLnReplay + BitVec.ofNat 64 s.lan.replay.length) ∧
    (s.hreqs = [] → ∀ r : TrainResult, r.failed = true → ∃ t, exec (.lanineRetrainEnd r) s = .next t ∧ t.lanUp = false ∧ t.hdir = [] ∧
      t.mem = s.mem)

/-- A lane that fails training takes the next spare of its direction, recorded in LN_LANEMAP and counted; with both spares used the link trains
at half width (R397). -/
def Says.LanesAreSpared : Prop :=
  ∀ (s : State) (lane : Nat), s.lanUp = true → s.rbit regLnStatus 2 = true → lane < 32 → s.lan.rxBad = [] → s.lan.txBad = [] →
    s.lan.rxDead = [] → s.lan.txDead = [] → s.lan.waiting = [] →
    s.rfld regLnLanemap 5 0 ≠ lane → s.rfld regLnLanemap 13 8 ≠ lane →
    (s.rfld regLnStatus 11 10 = 0 → ∃ t, exec (.lanineRetrainEnd ⟨false, [lane], []⟩) s = .next t ∧ t.lanOpen = true ∧
      t.rfld regLnLanemap 5 0 = lane ∧ t.rfld regLnStatus 11 10 = 1 ∧ t.rbit regLnStatus 3 = false ∧
      t.reg regLnLaneSpare = s.reg regLnLaneSpare + 1 ∧ t.mem = s.mem) ∧
    (s.rfld regLnStatus 11 10 = 2 → ∃ t, exec (.lanineRetrainEnd ⟨false, [lane], []⟩) s = .next t ∧ t.lanOpen = true ∧
      t.reg regLnLanemap = s.reg regLnLanemap ∧ t.rfld regLnStatus 11 10 = 2 ∧ t.rbit regLnStatus 3 = true ∧ t.lan.rxDead = [lane])

/-- A lane with more corrected bytes than THRESH in three successive windows is marked, and a retrain starts; a window without them begins the
count anew (R397). -/
def Says.LaneWindows : Prop :=
  ∀ s : State, s.lanOpen = true →
    (∀ rx tx : List Nat, (∀ n ∈ rx, n ≤ s.rfld regLnLanecfg 15 0) → (∀ n ∈ tx, n ≤ s.rfld regLnLanecfg 15 0) →
      ∃ t, exec (.laneErrorWindow rx tx) s = .next t ∧ t = { s with lan := { s.lan with rxHot := [], txHot := [] } }) ∧
    ∀ (n lane : Nat), lane < 32 → s.rfld regLnLanecfg 15 0 < n → s.lan.rxHot = [(lane, 2)] → s.lan.rxBad = [] →
      (s.lan.retrains.filter (fun x => decide ((s.time - x).toNat < 1000000000))).length < 3 →
      ∃ t, exec (.laneErrorWindow (List.replicate lane 0 ++ [n]) []) s = .next t ∧ t.lan.rxBad = [lane] ∧ t.lanOpen = false ∧ t.mem = s.mem

/-- When the host drops its lanes the link goes down: the loss is counted and reported, every line the host held is taken as invalid and keeps
what its home holds, snoops are over, nothing waits to be sent (R398). -/
def Says.LinkLoss : Prop :=
  ∀ s : State, (s.rfld regLnStatus 1 0 = 0 → exec .lanineLinkDown s = .next s) ∧
    (s.rfld regLnStatus 1 0 ≠ 0 → s.hreqs = [] → (∀ c, s.dirtyHost c = []) → ∃ t, exec .lanineLinkDown s = .next t ∧
      t.rfld regLnStatus 1 0 = 0 ∧ t.reg regLnLinkdown = s.reg regLnLinkdown + 1 ∧ t.hdir = [] ∧ t.snoops = [] ∧ t.lan.waiting = [] ∧
      t.lan.replay = [] ∧ t.mem = s.mem ∧ t.poison = s.poison ∧ t.reports = s.reports ++ [⟨0x30, lanUnit, 0, 0, none, false⟩])

/-- The link comes up with both sides out of reset, EN at 1 and the host's credits at their minima or above: the credits are those it
advertises, the host directory starts empty and INTR goes out at once for a vector with
pending entries (R383, R395, R399). -/
def Says.LinkUp : Prop :=
  ∀ (s : State) (r : TrainResult) (adv : List Nat),
    (s.rbit regLnCfg 63 = false ∨ s.lanUp = true ∨ s.joined 169 = false ∨ s.joined 170 = false ∨ r.failed = true ∨ adv.getD 0 0 < 512 ∨
      adv.getD 1 0 < 256 ∨ adv.getD 2 0 < 128 ∨ adv.getD 3 0 < 64 → exec (.lanineLinkUp ⟨r, adv⟩) s = .next s) ∧
    (s.rbit regLnCfg 63 = true → s.lanUp = false → s.joined 169 = true → s.joined 170 = true → s.lan.rxBad = [] → s.lan.txBad = [] →
      s.lan.rxDead = [] → s.lan.txDead = [] → 512 ≤ adv.getD 0 0 → 256 ≤ adv.getD 1 0 → 128 ≤ adv.getD 2 0 → 64 ≤ adv.getD 3 0 →
      ∃ t, exec (.lanineLinkUp ⟨⟨false, [], []⟩, adv⟩) s = .next t ∧ t.lanUp = true ∧ t.hdir = [] ∧
        t.snoops = [] ∧ t.lan.rxSeq = 1023 ∧ t.mem = s.mem ∧ t.lan.reqCr = adv.getD 0 0 ∧ t.lan.datCr = adv.getD 1 0 ∧
        t.lan.snpCr = adv.getD 2 0 ∧
        ∀ v, v < 64 → smapGet (fun _ => 0) s.lan.intr v ≠ 0 → s.rbit regLnStatus 2 = false → s.rbit regLnPgreq 11 = false →
          ⟨.lanine, 0x42, [v], []⟩ ∈ t.out)

/-- The holdoff of a vector ends: with entries pending one INTR goes out and none is pending any more; with none nothing happens (R395). -/
def Says.HoldoffEnds : Prop :=
  ∀ (s : State) (r : Nat), r < 64 →
    (smapGet (fun _ => 0) s.lan.intr r = 0 → exec (.intrHoldoffExpire r) s = .next s) ∧
    (smapGet (fun _ => 0) s.lan.intr r ≠ 0 → s.lanUp = false → exec (.intrHoldoffExpire r) s = .next s) ∧
    (smapGet (fun _ => 0) s.lan.intr r ≠ 0 → CanSend s 0x42 → ∃ t, exec (.intrHoldoffExpire r) s = .next t ∧ t.mem = s.mem ∧
      t.out = ⟨.lanine, 0x42, [r], []⟩ :: s.out ∧ t.reg regLnIntr = s.reg regLnIntr + 1 ∧ smapGet (fun _ => 0) t.lan.intr r = 0)

/-- A host read of a device line: a Working page answers ERR WORKING, RD_OWN of a Visible page ERR VISIBLE, a line outside Reservoir ERR HOLE
and a poisoned line ERR POISON; else DATA carries the line's 64 bytes, with STATUS by the request, and the home records the line unless
the host keeps no copy. Memory does not change (R385, R386, R393). -/
def Says.HostReads : Prop :=
  ∀ (s : State) (tag line : Nat), line % 64 = 0 → CanSend s 0x32 → (∀ q ∈ s.snoops, q.line ≠ line) →
    ∀ x ∈ ([(.rdShr tag line, 0, some false), (.rdOwn tag line, 1, some true), (.rdCur tag line, 2, none)] : List (Instr × Nat × Option Bool)),
      (2 ^ 40 ≤ line → exec x.1 s = .next ((s.bump regLnErrRsp).send .lanine 0x35 [tag, 3] [])) ∧
      (line < 2 ^ 40 → s.vis line = 0 → exec x.1 s = .next ((s.bump regLnErrRsp).send .lanine 0x35 [tag, 1] [])) ∧
      (line < 2 ^ 40 → s.vis line = 2 → x.2.2 = some true → exec x.1 s = .next ((s.bump regLnErrRsp).send .lanine 0x35 [tag, 2] [])) ∧
      (line < 2 ^ 40 → s.vis line ≠ 0 → ¬ (s.vis line = 2 ∧ x.2.2 = some true) → s.poisoned line 64 = true → ∃ t, exec x.1 s = .next t ∧
        t.out = ⟨.lanine, 0x35, [tag, 5], []⟩ :: s.out ∧ t.mem = s.mem ∧ t.hdir = s.hdir ∧ t.reg regLnErrRsp = s.reg regLnErrRsp + 1) ∧
      (line < 2 ^ 40 → s.vis line ≠ 0 → ¬ (s.vis line = 2 ∧ x.2.2 = some true) → s.poisoned line 64 = false → Intact s →
        (s.hdir.filter (fun e => dirSet e.line == dirSet line && e.line != line)).length < 16 → ∃ t, exec x.1 s = .next t ∧
          t.out = ⟨.lanine, 0x32, [tag, x.2.1], s.rdN line 64⟩ :: s.out ∧ t.mem = s.mem ∧ t.poison = s.poison ∧
          (∀ own, x.2.2 = some own → (⟨line, own⟩ : DirEnt) ∈ t.hdir ∧ ∀ e ∈ t.hdir, e.line = line → e.owned = own) ∧
          (x.2.2 = none → t.hdir = s.hdir))

/-- A request that needs an entry of a full set of the directory first has the set's least recently used line invalidated, counted in
LN_BACKINV, and waits (R386). -/
def Says.DirectoryBackInvalidates : Prop :=
  ∀ (s : State) (tag line : Nat) (v : DirEnt), line % 64 = 0 → line < 2 ^ 40 → CanSend s 0x21 → s.snoops = [] → s.vis line = 1 →
    s.poisoned line 64 = false →
    16 ≤ (s.hdir.filter (fun e => dirSet e.line == dirSet line && e.line != line)).length →
    (s.hdir.filter (fun e => dirSet e.line == dirSet line && e.line != line)).getLast? = some v →
    ∀ i ∈ ([.rdShr tag line, .rdOwn tag line] : List Instr), ∃ t, exec i s = .next t ∧ t.hdir = s.hdir ∧ t.mem = s.mem ∧
      t.reg regLnBackinv = s.reg regLnBackinv + 1 ∧ t.snoops = [⟨0, v.line, true, false⟩] ∧
      t.out = ⟨.lanine, 0x21, [0, v.line], []⟩ :: s.out

/-- A host write of an Exchange line stores its 64 bytes, or with WR_PTL the bytes its mask enables, changes no other byte and is answered with
CMP; on a Working or a Visible page it changes nothing and is answered with ERR (R385, R393). -/
def Says.HostWrites : Prop :=
  ∀ (s : State) (tag line : Nat) (d : List Byte) (be : Word), line % 64 = 0 → line < 2 ^ 40 → d.length = 64 → s.lanOpen = true →
    (∀ q ∈ s.snoops, q.line ≠ line) → (∀ w ∈ s.poison, w % 8 = 0) →
    (∀ i ∈ ([.wrLine tag line d 0, .wrPtl tag line be d 0] : List Instr),
      (s.vis line = 0 → exec i s = .next ((s.bump regLnErrRsp).send .lanine 0x35 [tag, 1] [])) ∧
      (s.vis line = 2 → exec i s = .next ((s.bump regLnErrRsp).send .lanine 0x35 [tag, 2] []))) ∧
    (s.vis line = 1 → CanSend s 0x31 → Intact s →
      (∃ t, exec (.wrLine tag line d 0) s = .next t ∧ t.out = ⟨.lanine, 0x31, [tag], []⟩ :: s.out ∧ t.rdN line 64 = d ∧
        (∀ a, a < line ∨ line + 64 ≤ a → t.rd a = s.rd a) ∧ t.poisoned line 64 = false ∧ t.reports = s.reports ∧
        ∀ e ∈ t.hdir, e.line ≠ line) ∧
      ∃ t, exec (.wrPtl tag line be d 0) s = .next t ∧ t.out = ⟨.lanine, 0x31, [tag], []⟩ :: s.out ∧ t.reports = s.reports ∧
        (∀ b, b < 64 → t.rd (line + b) = if be.getLsbD b then d.getD b 0 else s.rd (line + b)) ∧
        (∀ a, a < line ∨ line + 64 ≤ a → t.rd a = s.rd a) ∧ ∀ w ∈ t.poison, w ∈ s.poison)

/-- WB_DIRTY of a line the host owns on an Exchange page writes it back; on another page, or of a line it does not own, it writes nothing; both
it and EVICT_CLEAN give the line up and are answered with CMP (R385). -/
def Says.HostGivesLinesUp : Prop :=
  ∀ (s : State) (tag line : Nat) (d : List Byte), line % 64 = 0 → line < 2 ^ 40 → d.length = 64 → CanSend s 0x31 →
    (∃ t, exec (.evictClean tag line) s = .next t ∧ t.out = ⟨.lanine, 0x31, [tag], []⟩ :: s.out ∧ t.mem = s.mem ∧
      ∀ e, e ∈ t.hdir ↔ e ∈ s.hdir ∧ e.line ≠ line) ∧
    (∃ t, exec (.wbDirty tag line d 0) s = .next t ∧ t.out = ⟨.lanine, 0x31, [tag], []⟩ :: s.out ∧
      (∀ e, e ∈ t.hdir ↔ e ∈ s.hdir ∧ e.line ≠ line) ∧
      (s.vis line = 1 → (⟨line, true⟩ : DirEnt) ∈ s.hdir → Intact s → t.rdN line 64 = d ∧ ∀ a, a < line ∨ line + 64 ≤ a → t.rd a = s.rd a) ∧
      (s.vis line ≠ 1 ∨ ⟨line, true⟩ ∉ s.hdir → t.mem = s.mem))

/-- The host's answers to snoops: invalid ends the snoop and the line, still shared leaves it shared, WBP leaves the snoop until the write-back
comes, and modified data are stored at their home. An answer to nothing is nothing (R386, R388). -/
def Says.SnoopAnswers : Prop :=
  ∀ (s : State) (tag line : Nat) (q : Snoop), line % 64 = 0 → s.lanOpen = true →
    s.snoops.find? (fun x => x.tag == tag && x.line == line) = some q →
    (∃ t, exec (.srsp tag line 0) s = .next t ∧ t.snoops = s.snoops.erase q ∧ (∀ e ∈ t.hdir, e.line ≠ line) ∧ t.mem = s.mem) ∧
    (∃ t, exec (.srsp tag line 1) s = .next t ∧ t.snoops = s.snoops.erase q ∧ (∀ e ∈ t.hdir, e.line = line → e.owned = false) ∧
      t.mem = s.mem) ∧
    ((∃ e ∈ s.hdir, e.line = line) → ∃ t, exec (.srsp tag line 2) s = .next t ∧ t.hdir = s.hdir ∧ t.mem = s.mem ∧
      ∃ x ∈ t.snoops, x.tag = tag ∧ x.line = line ∧ x.wbp = true) ∧
    ∀ (d : List Byte) (st : Nat), d.length = 64 → Intact s → ∃ t, exec (.srspData tag line st d 0) s = .next t ∧ t.snoops = s.snoops.erase q ∧
      t.rdN line 64 = d ∧ (∀ a, a < line ∨ line + 64 ≤ a → t.rd a = s.rd a) ∧ (st = 0 → ∀ e ∈ t.hdir, e.line ≠ line) ∧
      (st ≠ 0 → ∀ e ∈ t.hdir, e.line = line → e.owned = false)

/-- A snoop left unanswered past SNPTO takes the link down (R389). -/
def Says.UnansweredSnoops : Prop :=
  ∀ (s : State) (tag : Nat), ((∀ q ∈ s.snoops, q.tag ≠ tag) → exec (.snoopTimeout tag) s = .next s) ∧
    ((∃ q ∈ s.snoops, q.tag = tag) → s.lanUp = true → s.hreqs = [] → ∃ t, exec (.snoopTimeout tag) s = .next t ∧ t.lanUp = false ∧
      t.hdir = [] ∧ t.snoops = [] ∧ t.mem = s.mem)

/-- The host snoops a line of host memory: with a write-back of it outstanding the answer is WBP, with modified data in a cache the data, else
whether the caches still share it; after SNP_INV no cache holds it (R388, R390). -/
def Says.ModuleAnswersSnoops : Prop :=
  ∀ (s : State) (tag line : Nat), line % 64 = 0 → CanSend s 0x33 → Intact s →
    (∀ i ∈ ([.snpInv tag line, .snpShr tag line] : List Instr), ((∃ r ∈ s.hreqs, r.line = line ∧ r.op = .wbDirty) → ∃ t, exec i s = .next t ∧
      t.out = ⟨.lanine, 0x33, [tag, line, 2], []⟩ :: s.out ∧ t.mem = s.mem)) ∧
    ((∀ r ∈ s.hreqs, r.line ≠ line) → (∀ e ∈ s.sets, e.2.has (hostPa line) = false) →
      (∃ t, exec (.snpInv tag line) s = .next t ∧ t.out = ⟨.lanine, 0x33, [tag, line, 0], []⟩ :: s.out ∧ t.mem = s.mem) ∧
      ∃ t, exec (.snpShr tag line) s = .next t ∧ t.out = ⟨.lanine, 0x33, [tag, line, 0], []⟩ :: s.out ∧ t.mem = s.mem) ∧
    ∃ t, exec (.snpInv tag line) s = .next t ∧ ∀ e ∈ t.sets, e.1 / 128 < 132 → e.2.has (hostPa line) = false

/-- The host answers a module request of a core: a write completes and the task goes on; ERR NOT_RESIDENT is a page fault, any other refusal
ACCESS with the virtual address; data with poison, or no answer in time, delivers nothing and is reported, the latter as TIMEOUT.
An answer to nothing is nothing (R368, R391). -/
def Says.HostAnswers : Prop :=
  (∀ (s : State) (tag st code : Nat) (d : List Byte) (p : Byte), s.hostReq tag = none →
    ∀ i ∈ ([.data tag st d p, .cmp tag, .err tag code, .lanineRequestTimeout tag] : List Instr), exec i s = .next s) ∧
  ∀ (s : State) (tag pa : Nat) (r : HostReq) (h : Hart) (va : Word) (op : CoreOp), s.lanOpen = true → s.hostReq tag = some r →
    r.tag = tag → r.who = .core h → (s.ctx h).run = .waiting (.host tag pa va op) →
    (∃ t, exec (.cmp tag) s = .next t ∧ t.hreqs = s.hreqs.erase r ∧ t.ctx h = (s.ctx h).next ∧
      (s.lineIn h.core (lineOf (hostPa pa)) = false → t.mem = s.mem)) ∧
    exec (.err tag 6) s = .next (({ s with hreqs := s.hreqs.erase r } : State).pageFault h va op.writes) ∧
    (∀ code, code ≠ 6 → exec (.err tag code) s =
      .next ((({ s with hreqs := s.hreqs.erase r } : State).modCtx h (fun c => { c with run := .ready })).raise h .access va)) ∧
    (∃ t, exec (.lanineRequestTimeout tag) s = .next t ∧ t.hreqs = s.hreqs.erase r ∧ t.mem = s.mem ∧ (t.ctx h).run = .waiting .dead ∧
      t.reg regLnTimeout = s.reg regLnTimeout + 1 ∧ ∃ x, t.reports = s.reports ++ [x] ∧ x.code = 0x0B) ∧
    (∀ (st : Nat) (d : List Byte) (p : Byte), st ≤ 2 → p ≠ 0 → ∃ t, exec (.data tag st d p) s = .next t ∧ t.hreqs = s.hreqs.erase r ∧
      t.mem = s.mem ∧ (t.ctx h).run = .waiting .dead ∧ ∃ x, t.reports = s.reports ++ [x] ∧ x.code = 0x0B) ∧
    ∀ (st : Nat) (d : List Byte), st ≤ 2 → exec (.data tag st d 0) s =
      .next ((({ s with hreqs := s.hreqs.erase r } : State).hostFill h r.line d).hostCoreDone h tag false)

/-- A DOORBELL records the pair's tail, counts in LN_DOORBELL and passes to the firmware, which takes a tail that lies within the ring and
reports one that runs further ahead (R394, R500). -/
def Says.Doorbells : Prop :=
  ∀ (s : State) (r tail : Nat), r < 64 → tail < 2 ^ 32 → s.lanOpen = true → ∃ t, exec (.doorbell r tail) s = .next t ∧
    t.rfld (dbTailKey r) 31 0 = tail ∧ t.reg regLnDoorbell = s.reg regLnDoorbell + 1 ∧
    (s.fwUp = true → (s.ring r).created = true → (tail + 2 ^ 32 - s.cbf r 32 4) % 2 ^ 32 ≤ 2 ^ s.cbf r 16 1 →
      (t.ring r).tail = tail ∧ t.mem = s.mem ∧ t.reg regFwRingErr = s.reg regFwRingErr) ∧
    (s.fwUp = true → (s.ring r).created = true → (s.ring r).tail ≠ tail → 2 ^ s.cbf r 16 1 < (tail + 2 ^ 32 - s.cbf r 32 4) % 2 ^ 32 →
      t.reg regFwRingErr = s.reg regFwRingErr + 1 ∧ (t.ring r).tail = (s.ring r).tail)

/-- Page messages: PAGE_REQ carries what LN_PGREQ names and SEND clears; PAGE_DONE joins a queue of 16, which a full queue holds; LN_PGRES
shows the oldest answer, and writing VALID removes it; a request without an answer in time is over (R392). -/
def Says.PageMessages : Prop :=
  (∀ (s : State) (v : Word), s.fwUp = true → CanSend s 0x43 → s.rbit regLnPgreq 11 = false → bitOf v 11 = true → fld v 1 0 < 3 → ∃ t,
    exec (.lnPgreqSend v) s = .next t ∧ t.out = ⟨.lanine, 0x43, [fld v 47 12 * 4096, fld v 63 48, fld v 1 0], []⟩ :: s.out ∧
    t.rbit regLnPgreq 11 = false ∧ t.lan.pgreq = s.lan.pgreq ++ [fld v 63 48] ∧ t.mem = s.mem) ∧
  (∀ (s : State) (id st : Nat), s.lanOpen = true → s.lan.pgres.length < 16 → ∃ t, exec (.pageDone id st) s = .next t ∧
    t.lan.pgres = s.lan.pgres ++ [(id, st)] ∧ t.lan.pgreq = s.lan.pgreq.erase id ∧ t.mem = s.mem ∧
    (s.lan.pgres = [] → id < 65536 → st < 16 → t.rfld regLnPgres 63 48 = id ∧ t.rfld regLnPgres 7 4 = st ∧ t.rbit regLnPgres 0 = true)) ∧
  (∀ (s : State) (id st : Nat), 16 ≤ s.lan.pgres.length → exec (.pageDone id st) s = .next s) ∧
  (∀ s : State, s.fwUp = true → ∃ t, exec .lnPgresPop s = .next t ∧ t.lan.pgres = s.lan.pgres.tail ∧ t.mem = s.mem ∧
    (s.lan.pgres.length ≤ 1 → t.reg regLnPgres = 0)) ∧
  ∀ (s : State) (id : Nat), exec (.pageDoneTimeout id) s = .next { s with lan := { s.lan with pgreq := s.lan.pgreq.erase id } }

/-- The host reads any register and writes none: a read outside register space answers ERR HOLE, an aligned one inside it the value a register
read gives, every write ERR REG (R394). -/
def Says.HostRegisterAccess : Prop :=
  ∀ (s : State) (tag line off : Nat) (wide : Bool) (v : Word), line % 64 = 0 → off < 64 → CanSend s 0x36 →
    exec (.rgWr tag line off wide v) s = .next ((s.bump regLnErrRsp).send .lanine 0x35 [tag, 4] []) ∧
    (line < 0x1F000000000 ∨ 0x1F010000000 ≤ line → exec (.rgRd tag line off wide) s = .next ((s.bump regLnErrRsp).send .lanine 0x35 [tag, 3] [])) ∧
    (∀ x, 0x1F000000000 ≤ line → line < 0x1F010000000 → s.regReadN (line - 0x1F000000000 + off) (if wide then 8 else 4) = some x → ∃ t,
      exec (.rgRd tag line off wide) s = .next t ∧ t.out = ⟨.lanine, 0x36, [tag], leBytes 8 x.toNat⟩ :: s.out ∧ t.mem = s.mem ∧
      t.regs = s.regs)

/-! ### The pair: Carbon, roles, folios (R400 to R432) -/

/-- No commit that was held goes on: no entry waits for its commit, and no job stands at a step boundary (R37, R63). -/
def NoHeldCommits (s : State) : Prop :=
  (∀ r, ∀ e ∈ (s.ring r).opened, e.cmd = none ∨ e.commit ≠ none) ∧ ∀ j, (s.job j).boundary = false

/-- A frame whose CRC fails is discarded, counted and answered with NAK in the next frame; one with an expected SEQ and sound records is
accepted: it frees a buffer here, returns credits, acknowledges frames sent, and keeps the bytes of a record that goes on in the next;
one whose records break their layout takes the link down. While the link is down or retrains, no frame arrives (R405 to R407). -/
def Says.CarbonFrames : Prop :=
  (∀ (s : State) (f : Frame), s.cbOpen = false → exec (.carbonFrameReceive f) s = .next s) ∧
  ∀ (s : State) (f : Frame), s.cbOpen = true →
    (f.crcOk = false → s.twin.nakOpen = false → s.twin.naksOut < 7 → ∃ t, exec (.carbonFrameReceive f) s = .next t ∧
      t.reg regCbCrcErr = s.reg regCbCrcErr + 1 ∧ t.mem = s.mem ∧
      t.twin = { s.twin with nakDue := true, nakOpen := true, naksOut := s.twin.naksOut + 1 }) ∧
    (f.crcOk = true → s.twin.keep = false → f.ftype = 3 → exec (.carbonFrameReceive f) s = .next s) ∧
    (f.crcOk = true → s.twin.keep = false → f.ftype = 0 → f.seq.toNat = (s.twin.rxSeq + 1) % 65536 → s.twin.nakOpen = false → f.nak = false →
      s.role = 2 → f.role ≠ 3 → f.role ≠ 6 →
      (∀ part, recsCheck 4096 (s.twin.rxPart ++ f.payload) = some part → ∃ t, exec (.carbonFrameReceive f) s = .next t ∧ t.mem = s.mem ∧
        t.regs = s.regs ∧ t.twin.rxPart = part ∧ t.twin.rxSeq = f.seq.toNat ∧
        t.twin.freed = s.twin.freed + 1 ∧ t.twin.credit = s.twin.credit + f.credit.toNat ∧ t.twin.sendq = s.twin.sendq ∧
        t.twin.replay = s.twin.replay.drop (match s.twin.replay.findIdx? (fun x => x.1 == f.ack.toNat) with
          | some i => i + 1
          | none => 0)) ∧
      (recsCheck 4096 (s.twin.rxPart ++ f.payload) = none → s.rbit regCbStatus 12 = false → ∃ t, exec (.carbonFrameReceive f) s = .next t ∧ t.cbUp = false ∧ t.mem = s.mem ∧
        t.twin.replay = s.twin.replay ∧ t.twin.sendq = s.twin.sendq))

/-- A member in a hold that meets a frame of the kept partner returns to its role: HOLD-ACTIVE to ACTIVE, HOLD-STANDBY to STANDBY
(R426). -/
def Says.HoldsEnd : Prop :=
  ∀ (s : State) (f : Frame) (part : List Byte), s.cbOpen = true → f.crcOk = true → s.twin.keep = false → f.ftype = 0 → f.nak = false →
    recsCheck 4096 (s.twin.rxPart ++ f.payload) = some part → f.seq.toNat = (s.twin.rxSeq + 1) % 65536 → s.twin.nakOpen = false →
    s.folio.waits = none → NoHeldCommits s →
    ((s.role = 5 → f.role = 3 ∨ f.role = 6 → ∃ t, exec (.carbonFrameReceive f) s = .next t ∧ t.role = 2 ∧ t.twin.lapsed = false ∧
      t.mem = s.mem) ∧
    (s.role = 6 → f.role = 2 ∨ f.role = 5 → ∃ t, exec (.carbonFrameReceive f) s = .next t ∧ t.role = 3 ∧ t.twin.lapsed = false ∧
      t.mem = s.mem))

/-- The link layer sends idle frames while it has nothing to send, no credit, or a full replay buffer of 256; else the oldest records leave in
order, their bytes in frames of 4,076 that stand in the replay buffer and take one credit each; a replay sends every frame that is not
acknowledged, counted, the first with FTYPE 1 (R405 to R407). -/
def Says.CarbonSends : Prop :=
  (∀ s : State, s.cbOpen = false → exec .carbonFrameSend s = .next s) ∧
  ∀ s : State, s.cbOpen = true →
    (s.twin.resend = [] → (s.twin.sendq = [] ∧ s.twin.txPart = []) ∨ s.twin.credit = 0 ∨ 256 ≤ s.twin.replay.length → ∃ t, exec .carbonFrameSend s = .next t ∧
      t.out = ⟨.carbon, 2, [s.twin.txSeq, s.twin.rxSeq, b2n s.twin.nakDue, s.role, s.twin.freed, s.time.toNat],
        frameBytes s.twin.txSeq s.twin.rxSeq 2 s.role s.twin.freed s.time.toNat s.twin.nakDue []⟩ :: s.out ∧
      t.twin = { s.twin with nakDue := false, freed := 0 } ∧ t.regs = s.regs ∧ t.mem = s.mem) ∧
    (s.twin.resend = [] → s.twin.sendq ≠ [] ∨ s.twin.txPart ≠ [] → 0 < s.twin.credit → s.twin.replay.length < 256 →
      ∃ (t : State) (now : List CbRec) (body : List Byte), exec .carbonFrameSend s = .next t ∧ s.twin.sendq = now ++ t.twin.sendq ∧
      s.twin.txPart ++ now.flatMap CbRec.bytes = body ++ t.twin.txPart ∧ body.length ≤ 4076 ∧
      (t.twin.txPart ≠ [] ∨ t.twin.sendq ≠ [] → body.length = 4076) ∧
      t.twin.replay = s.twin.replay ++ [(s.twin.txSeq, frameBytes s.twin.txSeq s.twin.rxSeq 0 s.role s.twin.freed s.time.toNat s.twin.nakDue body)] ∧
      t.out.map (fun o => o.data) = frameBytes s.twin.txSeq s.twin.rxSeq 0 s.role s.twin.freed s.time.toNat s.twin.nakDue body ::
        s.out.map (fun o => o.data) ∧
      t.twin.txSeq = (s.twin.txSeq + 1) % 65536 ∧ t.twin.credit = s.twin.credit - 1 ∧ t.mem = s.mem) ∧
    ∀ x rest, s.twin.resend = x :: rest → ∃ t, exec .carbonFrameSend s = .next t ∧ t.twin.resend = rest ∧ t.twin.replay = s.twin.replay ∧
      t.out.map (fun o => o.data) = (if s.twin.resend.length = s.twin.replay.length then replayFirst x.2 else x.2) :: s.out.map (fun o => o.data) ∧
      t.twin.sendq = s.twin.sendq ∧ t.reg regCbReplay = s.reg regCbReplay + 1 ∧ t.mem = s.mem

/-- With no replay in 4 µs NAK goes out again (R406). The link comes up for a module that can pair; a link that is lost keeps the buffers of
members whose roles stand; a retrain's end begins a replay, or the link is down (R401, R406). -/
def Says.CarbonTraining : Prop :=
  (∀ s : State, (s.cbOpen = false ∨ s.twin.nakOpen = false → exec .carbonNakTimeout s = .next s) ∧
    (s.cbOpen = true → s.twin.nakOpen = true → s.twin.naksOut < 7 → exec .carbonNakTimeout s =
      .next { s with twin := { s.twin with nakDue := true, nakOpen := true, naksOut := s.twin.naksOut + 1 } })) ∧
  (∀ s : State, (s.cbUp = false → exec .carbonLinkDown s = .next s) ∧
    (s.cbUp = true → s.rbit regCbStatus 12 = false → ∃ t, exec .carbonLinkDown s = .next t ∧ t.cbUp = false ∧ t.role = s.role ∧
      t.twin.replay = s.twin.replay ∧ t.twin.sendq = s.twin.sendq ∧ t.twin.rxSeq = s.twin.rxSeq ∧ t.twin.txSeq = s.twin.txSeq ∧
      t.mem = s.mem)) ∧
  (∀ s : State, (s.cbUp = true ∨ s.rbit regCbCfg 63 = false ∨ s.role = 0 ∨ s.role = 7 → exec .carbonLinkUp s = .next s) ∧
    (s.cbUp = false → s.rbit regCbCfg 63 = true → s.joined 171 = true → s.isPaired = true → ∃ t, exec .carbonLinkUp s = .next t ∧
      t.cbUp = true ∧ t.role = s.role ∧ t.twin.replay = s.twin.replay ∧ t.twin.resend = s.twin.replay ∧ t.twin.sendq = s.twin.sendq ∧
      t.mem = s.mem) ∧
    (s.cbUp = false → s.rbit regCbCfg 63 = true → s.joined 171 = true → s.role = 1 ∨ s.role = 4 → s.rfld regCbFolioarea 1 0 ≠ 0 → ∃ t,
      exec .carbonLinkUp s = .next t ∧ t.cbUp = true ∧ t.twin.replay = [] ∧ t.twin.rxSeq = 65535 ∧ t.mem = s.mem ∧
      ∃ r, t.twin.sendq = [r] ∧ r.ty = 1)) ∧
  ∀ s : State, s.cbUp = true → s.twin.retraining = true →
    (s.twin.rxBad = [] → s.twin.txBad = [] → ∃ t, exec (.carbonRetrainEnd ⟨false, [], []⟩) s = .next t ∧ t.cbOpen = true ∧
      t.twin.resend = s.twin.replay ∧ t.twin.replay = s.twin.replay ∧ t.mem = s.mem) ∧
    (s.rbit regCbStatus 12 = false → ∀ r : TrainResult, r.failed = true → ∃ t, exec (.carbonRetrainEnd r) s = .next t ∧ t.cbUp = false ∧
      t.twin.replay = s.twin.replay ∧ t.mem = s.mem)

/-- The leases: at LEASE / 2 an ACTIVE member holds; at LEASE a STANDBY with TWIN_HB asserted becomes HOLD-STANDBY, a HOLD-ACTIVE member with
it asserted stays so. Each lapse counts in CB_LINK_LOSS (R425, R426). -/
def Says.Leases : Prop :=
  ∀ s : State,
    (s.role ≠ 2 → exec .leaseHalfExpire s = .next s) ∧
    (s.role = 2 → ∃ t, exec .leaseHalfExpire s = .next t ∧ t.role = 5 ∧ t.mem = s.mem ∧ t.twin = s.twin) ∧
    (s.role ≠ 5 → s.role ≠ 3 → exec .leaseExpire s = .next s) ∧
    (s.twin.lapsed = false → s.rbit regFePins 2 = true →
      (s.role = 5 → ∃ t, exec .leaseExpire s = .next t ∧ t.role = 5 ∧ t.twin.lapsed = true ∧ t.mem = s.mem ∧
        t.reg regCbLinkLoss = s.reg regCbLinkLoss + 1) ∧
      (s.role = 3 → ∃ t, exec .leaseExpire s = .next t ∧ t.role = 6 ∧ t.twin.lapsed = true ∧ t.mem = s.mem ∧
        t.reg regCbLinkLoss = s.reg regCbLinkLoss + 1))

/-- With TWIN_HB deasserted a STANDBY whose lease lapses takes over: SOLO, TAKEOVERS and CB_TAKEOVER up by one, only deltas marked for
application kept, its buffers discarded (R426, R428). -/
def Says.TakeoverOnLapse : Prop :=
  ∀ s : State, s.role = 3 → s.twin.lapsed = false → s.rbit regFePins 2 = false → s.twin.pubSeal = none → s.folio.waits = none →
    s.jbase + 64 ≤ 2 ^ 40 → s.hdir = [] → Intact s → s.rbit regCbStatus 12 = false → s.takeovers < 2 ^ 64 - 1 → s.recordedCsn ≤ s.assignedCsn → ∃ t, exec .leaseExpire s = .next t ∧ t.role = 4 ∧
      t.takeovers = s.takeovers + 1 ∧ t.reg regCbTakeover = s.reg regCbTakeover + 1 ∧ t.twin.plog = s.twin.plog.filter (fun e => e.marked) ∧
      t.twin.sendq = [] ∧ t.twin.replay = [] ∧ t.twin.restoring = true ∧ t.recordedCsn = s.recordedCsn ∧
      ∀ a, a < s.jbase + 24 ∨ s.jbase + 32 ≤ a → t.rd a = s.rd a

/-- The image of a takeover stands: the marked deltas are applied and the member runs on; while none is restored nothing happens (R428). -/
def Says.TakeoverEnds : Prop :=
  ∀ s : State, (s.twin.restoring = false → exec .takeoverRestoreEnd s = .next s) ∧
    (s.twin.restoring = true → s.role = 4 → ∃ t, exec .takeoverRestoreEnd s = .next t ∧ t.twin.restoring = false ∧
      t.pending = s.pending)

/-- A module in PAIRING whose link stays down and whose TWIN_HB stays deasserted becomes SOLO, unless it has given up its state for a resync
(R401, R430). -/
def Says.PairingTimesOut : Prop :=
  ∀ s : State,
    (s.role ≠ 1 ∨ s.cbUp = true ∨ s.rbit regFePins 2 = true ∨ s.twin.discarded = true → exec .pairingTimeout s = .next s) ∧
    (s.role = 1 → s.cbUp = false → s.rbit regFePins 2 = false → s.twin.discarded = false → s.fwUp = false → s.openCsns = [] →
      s.folioPhase = 0 → s.folio.waits = none → NoHeldCommits s → ∃ t, exec .pairingTimeout s = .next t ∧ t.role = 4 ∧ t.mem = s.mem)

/-- Orders of CB_ORDER: TAKEOVER outside HOLD-STANDBY is refused and counted; DEPART, in any role, stops dispatch, sends DEPART, asserts FAULT_N
and leaves the module DEPARTED; FOLIO in STANDBY, HOLD-STANDBY or DEPARTED is refused, else its bit is set and a forced folio is
requested (R416, R427). -/
def Says.CarbonOrders : Prop :=
  ∀ s : State, s.joined 171 = true →
    (s.role ≠ 6 → exec .cbOrderTakeover s = .next ((s.setRbit regCbOrder 1 false).bump regCbOrderRej)) ∧
    (s.role = 6 → exec .cbOrderTakeover s = .next s.takeover) ∧
    (s.role = 3 ∨ s.role = 6 ∨ s.role = 7 → exec .cbOrderFolio s = .next ((s.setRbit regCbOrder 2 false).bump regCbOrderRej)) ∧
    (s.role = 0 ∨ s.role = 2 ∨ s.role = 4 → s.fwUp = true → s.folioPhase = 0 → s.groupJobs = [] → ∃ t, exec .cbOrderFolio s = .next t ∧
      t.folioPhase = 1 ∧ t.folio.forced = true ∧ t.dx.stopped = true ∧ t.mem = s.mem ∧ t.rbit regCbOrder 2 = true) ∧
    (s.role = 1 ∨ s.role = 5 → ∃ t, exec .cbOrderFolio s = .next t ∧ t.folio.waits = some true ∧ t.rbit regCbOrder 2 = true ∧ t.mem = s.mem) ∧
    (s.role = 7 → ∃ t, exec .cbOrderDepart s = .next t ∧ t.role = 7 ∧ t.mem = s.mem ∧ t.twin = s.twin) ∧
    (s.role < 7 → s.folioPhase = 0 → (∀ j, j < 16 → (s.job j).loading = false) → ∃ t, exec .cbOrderDepart s = .next t ∧ t.role = 7 ∧
      t.dx.stopped = true ∧ t.rbit regFePins 8 = true ∧ t.rbit regBlStatus 1 = true)

/-- Written settings are clamped, each adjustment counting in CB_POL_CLAMP (R424, R425). -/
def Says.CarbonSettings : Prop :=
  ∀ (s : State) (v : Word), s.joined 171 = true →
    (bitOf v 63 = true → ∃ t, exec (.cbCfgWrite v) s = .next t ∧ t.rfld regCbCfg 11 0 = max 1000 (min 4000 (fld v 11 0)) ∧
      t.rfld regCbCfg 47 32 = max 1 (fld v 47 32) ∧ t.rbit regCbCfg 63 = true ∧ t.mem = s.mem ∧
      (1000 ≤ fld v 11 0 → fld v 11 0 ≤ 4000 → fld v 47 32 ≠ 0 → t.reg regCbPolClamp = s.reg regCbPolClamp) ∧
      (fld v 11 0 < 1000 → fld v 47 32 ≠ 0 → t.reg regCbPolClamp = s.reg regCbPolClamp + 1)) ∧
    ∃ t, exec (.cbFoliocfgWrite v) s = .next t ∧ t.mem = s.mem ∧ t.rbit regCbFoliocfg 63 = bitOf v 63 ∧
      t.rfld regCbFoliocfg 9 0 = max 1 (min 600 (fld v 9 0)) ∧ t.rfld regCbFoliocfg 25 16 = max 1 (min 600 (fld v 25 16)) ∧
      t.rfld regCbFoliocfg 41 32 = max 1 (min 600 (fld v 41 32)) ∧
      (1 ≤ fld v 9 0 → fld v 9 0 ≤ 600 → 1 ≤ fld v 25 16 → fld v 25 16 ≤ 600 → 1 ≤ fld v 41 32 → fld v 41 32 ≤ 600 →
        t.reg regCbPolClamp = s.reg regCbPolClamp)

/-- Does a record of the active member act here? -/
def Follower (s : State) : Prop := s.cbOpen = true ∧ (s.role = 3 ∨ s.role = 6)

/-- COMMIT on a standby: the record stands in the journal's next slot, WRITTEN and RECORDED_CSN advance, and COMMIT_ACK with the CSN leaves
(R44, R408). -/
def Says.CommitsReachTheJournal : Prop :=
  (∀ (s : State) (r : CommitRec) (e : List Byte), s.follows = false → exec (.commit r e) s = .next s) ∧
  ∀ (s : State) (r : CommitRec) (e : List Byte), Follower s → s.twin.heldDelta = none → s.jplaced = true → s.hdir = [] → Intact s → r.kind = 0 ∨ r.kind = 1 →
    s.recordedCsn < r.csn.toNat → r.csn.toNat ≤ s.assignedCsn → s.written < 2 ^ 64 - 1 → ∃ t, exec (.commit r e) s = .next t ∧
      t.rdN (s.jbase + 64 + 64 * (s.written % 65536)) 64 = commitBytes r ∧ t.written = s.written + 1 ∧ t.recordedCsn = r.csn.toNat ∧
      t.sealedCsn = s.sealedCsn ∧ (∃ x, t.twin.sendq = s.twin.sendq ++ [x] ∧ x.ty = 3 ∧ x.args = [r.csn.toNat]) ∧
      ∀ a, (a < s.jbase ∨ s.jbase + 8 ≤ a) → (a < s.jbase + 16 ∨ s.jbase + 24 ≤ a) →
        (a < s.jbase + 64 + 64 * (s.written % 65536) ∨ s.jbase + 128 + 64 * (s.written % 65536) ≤ a) → t.rd a = s.rd a

/-- COMMIT_ACK records the commit that waits for it on an ACTIVE or HOLD-ACTIVE member; elsewhere, and for a CSN that nothing waits for, it does
nothing (R40, R408). -/
def Says.CommitAcks : Prop :=
  ∀ (s : State) (n : Nat), (s.cbOpen = false ∨ (s.role ≠ 2 ∧ s.role ≠ 5) → exec (.commitAck n) s = .next s) ∧
    (s.cbOpen = true → s.role = 2 ∨ s.role = 5 → exec (.commitAck n) s = .next (s.resolveCsn n)) ∧
    (s.dx.steps = [] → s.rings = [] → s.folio.pub = none → exec (.commitAck n) s = .next s)

/-- DELTA enters the pending log, in order and unapplied, and its segment is dirty; with no space it is held, counted, LOG_FULL leaves, and everything behind it waits
(R413, R414). -/
def Says.DeltasArePended : Prop :=
  ∀ (s : State) (j : Nat) (d : DeltaRec), Follower s → s.twin.discarded = false →
    (s.twin.heldDelta = none → s.plogUsed j + s.deltaSize j d ≤ s.undoSize j → ∃ t, exec (.delta j d) s = .next t ∧
      t.twin.plog = s.twin.plog ++ [⟨j, d, s.deltaSize j d, false⟩] ∧ t.mem = s.mem ∧ t.regs = s.regs ∧
      ∀ x : Desc, s.desc j d.table = some x → (t.table j d.table).dirty.contains (d.row / x.rps) = true) ∧
    (s.twin.heldDelta = none → s.undoSize j < s.plogUsed j + s.deltaSize j d → ∃ t, exec (.delta j d) s = .next t ∧
      t.twin.heldDelta = some (j, d) ∧ t.twin.plog = s.twin.plog ∧ t.mem = s.mem ∧ t.reg regCbPlogFull = s.reg regCbPlogFull + 1 ∧
      ∃ x, t.twin.sendq = s.twin.sendq ++ [x] ∧ x.ty = 0x0A ∧ x.job = j) ∧
    (s.twin.heldDelta ≠ none → ∀ (n off t : Nat) (r : CommitRec) (e : List Byte) (u : List UnitData) (x : SealRec) (w : Word) (g : List SegData),
      ∀ i ∈ ([.delta j d, .commit r e, .folioData n off u, .seal x, .build j t w g] : List Instr), exec i s = .next s)

/-- ROLLBACK discards every delta of the job whose EPOCH is above the resume folio's number, and no other job's (R415). -/
def Says.RollbacksDiscardDeltas : Prop :=
  (∀ (s : State) (j n : Nat), s.follows = false → exec (.rollback j n) s = .next s) ∧
  ∀ (s : State) (j n : Nat), Follower s → s.twin.heldDelta = none → ∃ t, exec (.rollback j n) s = .next t ∧
    t.twin.plog = s.twin.plog.filter (fun e => e.job != j || decide (e.d.epoch.toNat ≤ n)) ∧
    ∀ b ∈ t.twin.builds, b ∈ s.twin.builds ∧ b.1 ≠ j

/-- BUILD starts the standby's own staging edition; SEAL waits while a build of a table it names runs, counted in CB_SEAL_WAIT, and is
acknowledged once they are complete (R414, R420). -/
def Says.StandbyBuilds : Prop :=
  (∀ (s : State) (j t : Nat) (w : Word) (g : List SegData), Follower s → s.twin.heldDelta = none → s.twin.discarded = false → s.desc j t = none →
    exec (.build j t w g) s = .next { s with twin := { s.twin with builds := s.twin.builds ++ [(j, t, w, g)] } }) ∧
  (∀ (s : State) (x : SealRec), Follower s → s.twin.heldDelta = none → s.twin.ackHeld = none →
    (∃ b ∈ s.twin.builds, (b.1, b.2.1) ∈ x.ptrs) → ∃ u, exec (.seal x) s = .next u ∧ u.twin.ackHeld = some x ∧ u.mem = s.mem ∧
      u.twin.sendq = s.twin.sendq ∧ u.reg regCbSealWait = s.reg regCbSealWait + 1) ∧
  ∀ (s : State) (j t : Nat),
    ((∀ b ∈ s.twin.builds, ¬ (b.1 = j ∧ b.2.1 = t)) → exec (.standbyBuildComplete j t) s = .next s) ∧
    ((∃ b ∈ s.twin.builds, b.1 = j ∧ b.2.1 = t) → s.twin.ackHeld = none → exec (.standbyBuildComplete j t) s =
      .next { s with twin := { s.twin with builds := s.twin.builds.filter (fun b => !(b.1 == j && b.2.1 == t)) } })

/-- FOLIO_DATA fills the standby's spare image, the newer bytes of a unit in front; one at offset 0 begins an image (R418). SEAL makes it the
sealed image, marks for application every pending delta whose EPOCH it covers and applies them, shows its number in CB_SEALED and
sends SEAL_ACK (R413, R420). -/
def Says.StandbySeals : Prop :=
  (∀ (s : State) (n off : Nat) (u : List UnitData), Follower s → s.twin.heldDelta = none → ∃ t, exec (.folioData n off u) s = .next t ∧
    t.mem = s.mem ∧ t.regs = s.regs ∧ t.twin.sealedUnits = s.twin.sealedUnits ∧
    (off = 0 → t.twin.units = u) ∧ (off ≠ 0 → t.twin.units = u ++ s.twin.units.filter (fun x => !u.any (fun v => v.addr == x.addr)))) ∧
  ∀ (s : State) (x : SealRec), Follower s → s.twin.heldDelta = none → s.twin.ackHeld = none → s.twin.builds = [] → x.ptrs = [] → x.pub = none →
    s.twin.plog = [] → s.hdir = [] → s.sets = [] → x.covered.toNat ≤ s.sealedCsn → x.folio < 2 ^ 64 → ∃ t, exec (.seal x) s = .next t ∧
      t.twin.sealedNum = x.folio ∧ t.twin.units = [] ∧ t.mem = s.mem ∧ (t.reg regCbSealed).toNat = x.folio ∧
      t.twin.sealedUnits = s.twin.units ++ s.twin.sealedUnits.filter (fun y => !s.twin.units.any (fun v => v.addr == y.addr)) ∧
      ∃ r, t.twin.sendq = s.twin.sendq ++ [r] ∧ r.ty = 8 ∧ r.args = [x.folio]

/-- SEAL_ACK seals the folio on the active member: CB_SEALED holds its number, CB_FOLIOS counts it, CB_FOLIO_FORCED too when a forced source
asked for it, the image is the resume point, and dispatch resumes; an acknowledgement of no folio under way is nothing (R416, R420). -/
def Says.FolioSealed : Prop :=
  (∀ (s : State) (n : Nat), s.folioPhase ≠ 3 ∨ s.folio.num ≠ n ∨ s.cbOpen = false ∨ s.folio.toTwin = false →
    exec (.sealAck n) s = .next s) ∧
  ∀ (s : State) (n : Nat), s.cbOpen = true → s.folio.toTwin = true → s.folioPhase = 3 → s.folio.num = n → n < 2 ^ 64 → s.folio.sealing = false → s.role = 2 →
    s.folio.pub = none → s.folio.next = false → s.clu = [] → s.jobs = [] → s.rings = [] → s.tables = [] → s.groups = [] → s.hdir = [] →
    s.folio.covered.toNat ≤ s.sealedCsn → (∀ im, s.folio.cap = some im → im.rings = [] ∧ im.jobs = []) → ∃ t, exec (.sealAck n) s = .next t ∧
      (t.reg regCbSealed).toNat = n ∧ t.reg regCbFolios = s.reg regCbFolios + 1 ∧
      t.reg regCbFolioForced = s.reg regCbFolioForced + (if s.folio.forced then 1 else 0) ∧ t.sealedImg = s.folio.cap ∧ t.folioPhase = 0 ∧
      t.dx.stopped = false ∧ t.mem = s.mem

/-- The interval requests a folio only in roles that seal; the quiesce ends once nothing is in flight, every unit has sent
a heartbeat and every step end with a CSN is recorded; the end of a capture on a module without
a twin seals it here, else FOLIO_DATA and SEAL leave, in that order (R416, R417, R420). -/
def Says.FolioPhases : Prop :=
  (∀ s : State, (s.runs = false → exec .folioIntervalExpire s = .next s) ∧
    (s.runs = true → s.fwUp = true → s.groupJobs = [] →
      (s.folioPhase = 0 → ∃ t, exec .folioIntervalExpire s = .next t ∧ t.folioPhase = 1 ∧ t.folio.forced = false ∧ t.dx.stopped = true ∧
        t.folio.num = (s.reg regCbSealed).toNat + 1 ∧ t.mem = s.mem) ∧
      (2 ≤ s.folioPhase → exec .folioIntervalExpire s = .next s))) ∧
  (∀ s : State, (s.folioPhase ≠ 1 ∨ s.folio.beat = false ∨ s.unitsIdle = false ∨ s.reports ≠ [] ∨ (s.role = 2 ∧ s.twin.sendq ≠ []) ∨
      (∃ q ∈ s.dx.steps, q.csn ≠ none) → exec .folioQuiesceEnd s = .next s) ∧
    (s.folioPhase = 1 → s.folio.beat = true → s.unitsIdle = true → s.reports = [] → s.role ≠ 2 ∨ (s.twin.sendq = [] ∧ s.twin.txPart = []) →
      (∀ q ∈ s.dx.steps, q.csn = none) → Intact s → ∃ t, exec .folioQuiesceEnd s = .next t ∧
      t.folioPhase = 2 ∧ t.folio.cap ≠ none ∧ t.mem = s.mem ∧
      (s.role = 2 → t.folio.toTwin = true) ∧ (s.role = 0 → t.folio.toTwin = false))) ∧
  ∀ (s : State) (changed stop : Nat), (s.folioPhase ≠ 2 → exec (.folioCaptureEnd changed stop) s = .next s) ∧
    (s.folioPhase = 2 → s.folio.toTwin = true → (∀ r, s.folio.pub = some r → s.rbit (regMkJobstat r.job) 0 = false) → ∃ t a b, exec (.folioCaptureEnd changed stop) s = .next t ∧ t.folioPhase = 3 ∧
      t.twin.sendq = s.twin.sendq ++ [a, b] ∧ a.ty = 6 ∧ a.data = (s.folio.cap.map Config.imageBytes).getD [] ∧ b.ty = 7 ∧ b.args.take 2 = [s.folio.num, s.folio.covered.toNat] ∧ t.mem = s.mem ∧
      t.sealedImg = s.sealedImg)

/-- LOG_FULL has the active member request a forced folio; elsewhere it does nothing (R413, R416). -/
def Says.LogFullForcesAFolio : Prop :=
  ∀ (s : State) (j : Nat), (s.cbOpen = false ∨ s.role = 3 ∨ s.role = 6 ∨ s.role = 0 → exec (.logFull j) s = .next s) ∧
    (s.cbOpen = true → s.role = 2 → s.fwUp = true → s.groupJobs = [] →
      (s.folioPhase = 0 → ∃ t, exec (.logFull j) s = .next t ∧ t.folioPhase = 1 ∧ t.folio.forced = true ∧ t.mem = s.mem) ∧
      (2 ≤ s.folioPhase → ∃ t, exec (.logFull j) s = .next t ∧ t.folio.next = true ∧ t.folioPhase = s.folioPhase ∧ t.mem = s.mem))

/-- DEPART: a standby takes over at once, an active member becomes SOLO at once, and a winner's resync ends with its link (R427, R430). -/
def Says.PartnerDeparts : Prop :=
  ∀ (s : State) (c : Nat), (s.cbOpen = false → exec (.depart c) s = .next s) ∧
    (s.cbOpen = true → s.role = 3 ∨ s.role = 6 → exec (.depart c) s = .next s.takeover) ∧
    (s.cbOpen = true → s.role = 2 ∨ s.role = 5 → s.openCsns = [] → s.folioPhase = 0 → s.folio.waits = none → NoHeldCommits s →
      ∃ t, exec (.depart c) s = .next t ∧ t.role = 4 ∧ t.mem = s.mem ∧ t.twin.sendq = [] ∧ t.twin.replay = []) ∧
    (s.cbOpen = true → s.role = 4 → s.rbit regCbStatus 12 = true → exec (.depart c) s = .next s.cbDown)

/-- RESYNC bytes reach memory on a joining member alone, those of its own journal window only when the resync ends (R401, R430). The copy
crossed, a forced folio that sends every unit is requested (R416, R418). -/
def Says.ResyncCopies : Prop :=
  (∀ (s : State) (pa : Nat) (d : List Byte), (s.role ≠ 1 ∨ s.twin.discarded = false ∨ s.cbOpen = false → exec (.resync pa d) s = .next s) ∧
    (s.role = 1 → s.twin.discarded = true → s.cbOpen = true →
      (pa < s.jbase ∨ s.jbase + 64 + 64 * 65536 ≤ pa → ∃ t, exec (.resync pa d) s = .next t ∧ t.rdN pa d.length = d ∧
        (∀ a, a < pa ∨ pa + d.length ≤ a → t.rd a = s.rd a) ∧ t.regs = s.regs) ∧
      (s.jbase ≤ pa → pa < s.jbase + 64 + 64 * 65536 → ∃ t, exec (.resync pa d) s = .next t ∧ t.mem = s.mem))) ∧
  ∀ s : State, ((∃ r ∈ s.twin.sendq, r.ty = 0x0C) ∨ s.role ≠ 4 ∨ s.rbit regCbStatus 12 = false → exec .resyncCopyEnd s = .next s) ∧
    (s.cbOpen = true → s.role = 4 → s.rbit regCbStatus 12 = true → s.twin.folioAll = false → (∀ r ∈ s.twin.sendq, r.ty ≠ 0x0C) → s.fwUp = true →
      s.groupJobs = [] → s.folioPhase = 0 → ∃ t, exec .resyncCopyEnd s = .next t ∧ t.folioPhase = 1 ∧ t.folio.forced = true ∧
        t.twin.folioAll = true ∧ t.mem = s.mem)

/-- A transfer whose pages refuse is answered ACCESS and writes nothing, any other writes its data, signals and is answered OK or, with the
mark's mapping gone, MARK_DROPPED; XFER_ACK, whatever its status, signals the sender's own mark and ends the
transfer; FIRMWARE records reach the copyists in order (R340, R407, R432). -/
def Says.TransfersAndMessages : Prop :=
  (∀ (s : State) (x : XferRec), (s.cbOpen = false → exec (.transfer x) s = .next s) ∧
    ∀ t, s.cbOpen = true → s.etherStore x.job x.va.toNat x.bytes = (t, false) → ∃ u, exec (.transfer x) s = .next u ∧ u.mem = t.mem ∧
      ∃ r, u.twin.sendq = t.twin.sendq ++ [r] ∧ r.ty = 0x0E ∧ r.args = [x.num, 1]) ∧
  (∀ (s : State) (x : XferRec) (t : State), s.cbOpen = true → s.etherStore x.job x.va.toNat x.bytes = (t, true) → exec (.transfer x) s =
    .next ((t.linkSignal x.job x.handle x.inc 5).2.cbSend 0x0E x.job [x.num, if (t.linkSignal x.job x.handle x.inc 5).1 then 0 else 2] [])) ∧
  (∀ (s : State) (n st : Nat), ((∀ x ∈ s.twin.xfers, x.num ≠ n) → exec (.xferAck n st) s = .next s) ∧
    (s.cbOpen = true → ∀ x m, s.twin.xfers.find? (fun y => y.num == n) = some x → x.mark = some m → ∃ t, exec (.xferAck n st) s = .next t ∧
      t.twin.xfers = s.twin.xfers.filter (fun y => y.num != n) ∧ t.mem = s.mem ∧
      (t.markRt m).inflight = (s.markRt m).inflight ++ [⟨5, .signal 1⟩])) ∧
  ∀ (s : State) (d : List Byte), s.cbOpen = true →
    exec (.firmware d) s = .next { s with twin := { s.twin with fwMsgs := s.twin.fwMsgs ++ [d] } }

/-- PAIR between modules whose entries do not name each other, or whose letters are equal, sets PAIR_BAD and leaves each UNPAIRED; else the
higher TAKEOVERS, then SEALED_CSN, then RECORDED_CSN, then member A, is the winner, and the loser is PAIRING for a resync; a PAIR with
its DIVERGED flag sets DIVERGED (R400, R401). -/
def Says.Pairing : Prop :=
  ∀ (s : State) (p : PairRec), s.cbOpen = true → s.rfld regCbFolioarea 1 0 ≠ 0 → s.role = 1 → s.twin.paired = true →
    (p.diverged = true → ∃ t, exec (.pair p) s = .next t ∧ t.rbit regCbStatus 13 = true ∧ t.mem = s.mem) ∧
    ∀ partner letter, s.pairing = some (partner, letter) → p.diverged = false → s.folioPhase = 0 → s.rings = [] → s.jobs = [] →
      (partner ≠ padB 24 (p.identity.take 24) ∨ letter = p.letter → s.fwUp = false → ∃ t, exec (.pair p) s = .next t ∧
        t.rbit regCbStatus 4 = true ∧ t.role = 0 ∧ t.mem = s.mem) ∧
      (partner = padB 24 (p.identity.take 24) → letter ≠ p.letter → p.recorded = 0 →
        (s.takeovers < p.takeovers.toNat ∨ (s.takeovers = p.takeovers.toNat ∧ s.sealedCsn < p.sealedCsn.toNat) → ∃ t, exec (.pair p) s = .next t ∧
          t.role = 1 ∧ t.twin.discarded = true ∧ t.rbit regCbStatus 12 = true ∧ t.jobs = [] ∧ t.tables = []) ∧
        (p.takeovers.toNat < s.takeovers → s.fwUp = false → s.openCsns = [] → s.folio.waits = none → ∃ t, exec (.pair p) s = .next t ∧ t.role = 4 ∧ t.rbit regCbStatus 12 = true ∧ t.twin.faults = 0))

/-! ### The Ethernet ports (R433 to R448) -/

/-- A frame with a bad FCS, a fragment and every frame of another kind are dropped and counted; ARP, Neighbour Discovery and echo are
answered while the firmware runs; what a RoCEv2 or ingest frame carries has rows of its own (R434). A port takes the state its link
reports (R433). -/
def Says.EthernetFrames : Prop :=
  (∀ (s : State) (p : Nat) (k : EthKind), s.portUp p = false → exec (.ethFrameReceive p k) s = .next s) ∧
  (∀ (s : State) (p : Nat), s.portUp p = true →
    exec (.ethFrameReceive p .badFcs) s = .next (s.bump regEnFcsErr) ∧ exec (.ethFrameReceive p .fragment) s = .next (s.bump regEnDrop) ∧
    exec (.ethFrameReceive p .other) s = .next (s.bump regEnDrop) ∧ exec (.ethFrameReceive p .roce) s = .next s ∧
    exec (.ethFrameReceive p .ingest) s = .next s ∧
    (s.fwUp = true → exec (.ethFrameReceive p .arpNd) s = .next { s with out := ⟨.ether p, 0x0806, [], []⟩ :: s.out } ∧
      exec (.ethFrameReceive p .icmpEcho) s = .next { s with out := ⟨.ether p, 0x0001, [], []⟩ :: s.out }) ∧
    (s.fwUp = false → exec (.ethFrameReceive p .arpNd) s = .next s)) ∧
  ∀ (s : State) (p st : Nat) (fault : Bool),
    (2 ≤ p ∨ 2 < st ∨ s.joined (172 + p) = false → exec (.ethPortLinkChange p st fault) s = .next s) ∧
    (p < 2 → st ≤ 2 → s.joined (172 + p) = true → s.rbit (regEnCfg p) 63 = true → ∃ t, exec (.ethPortLinkChange p st fault) s = .next t ∧
      t.rfld regEnStatus (3 * p + 1) (3 * p) = st ∧ t.rbit regEnStatus (3 * p + 2) = fault ∧ t.mem = s.mem ∧
      (∀ q, q < 2 → q ≠ p → t.rfld regEnStatus (3 * q + 1) (3 * q) = s.rfld regEnStatus (3 * q + 1) (3 * q)))

/-- An inbound message that stands at its place: the queue pair is ready, the message is whole and in sequence, unmarked. -/
def InPlace (s : State) (q : Nat) (m : RdmaMsg) : Prop :=
  s.qpReady q = true ∧ m.icrcOk = true ∧ m.ce = false ∧ m.psn.toNat = s.qpf q 60 4

/-- An inbound message on a pair that is not ready does nothing, one whose ICRC fails neither; one with another R_Key draws the NAK remote
access error, puts the pair into the error state, writes nothing else and counts in EN_RACC; a repeat is acknowledged again and a gap
draws the NAK of a sequence error, neither written (R436, R439). -/
def Says.InboundMessagesAreChecked : Prop :=
  ∀ (s : State) (q : Nat) (m : RdmaMsg) (imm : BitVec 32), ∀ i ∈ ([.rdmaWrite q m, .rdmaWriteImm q m imm, .rdmaRead q m] : List Instr),
    (s.qpReady q = false → exec i s = .next s) ∧
    (m.icrcOk = false → m.ce = false → exec i s = .next s) ∧
    (InPlace s q m → m.rkey.toNat ≠ s.qpf q 8 4 → s.hdir = [] → Intact s → ∃ t, exec i s = .next t ∧ t.qpf q 1 1 = 2 ∧ t.reg regEnRacc = s.reg regEnRacc + 1 ∧
      t.out = ⟨.ether (s.qpPort q), 0x11, [q, m.psn.toNat, 0x62], []⟩ :: s.out ∧
      ∀ a, a ≠ s.qpBase q + 1 → t.rd a = s.rd a) ∧
    (s.qpReady q = true → m.icrcOk = true → m.ce = false → s.qpf q 60 4 < 2 ^ 24 →
      (m.psn.toNat = (s.qpf q 60 4 + 1) % 2 ^ 24 → exec i s =
        .next { s with out := ⟨.ether (s.qpPort q), 0x11, [q, s.qpf q 60 4, 0x60], []⟩ :: s.out }) ∧
      (s.qpf q 60 4 = (m.psn.toNat + 1) % 2 ^ 24 → exec i s =
        .next { s with out := ⟨.ether (s.qpPort q), 0x11, [q, m.psn.toNat, 0], []⟩ :: s.out }))

/-- An inbound WRITE whose range is writable is written whole, its last packet acknowledged, and no byte changes but those and the pair's
expected PSN; one whose range is not writable, or lies on a Visible page, is refused and writes nothing (R436). -/
def Says.InboundWrites : Prop :=
  ∀ (s t : State) (q : Nat) (m : RdmaMsg) (p : Part), InPlace s q m → m.rkey.toNat = s.qpf q 8 4 → m.bytes.length = m.len → 1 ≤ m.len → m.len ≤ 4096 →
    s.etherSpan (s.qpJob q) .store m.va.toNat m.len = (t, some [p]) → t.hdir = [] → Intact t → p.n = m.len →
    p.pa + p.n ≤ t.qpBase q ∨ t.qpBase q + 256 ≤ p.pa →
    (t.vis p.pa ≠ 2 → ∃ u, exec (.rdmaWrite q m) s = .next u ∧ u.rdN p.pa m.len = m.bytes ∧
      u.out = ⟨.ether (t.qpPort q), 0x11, [q, m.psn.toNat, 0], []⟩ :: t.out ∧ u.qpf q 60 4 = (m.psn.toNat + 1) % 2 ^ 24 ∧
      ∀ a, (a < p.pa ∨ p.pa + p.n ≤ a) → (a < t.qpBase q + 60 ∨ t.qpBase q + 64 ≤ a) → u.rd a = t.rd a) ∧
    (t.vis p.pa = 2 → ∃ u, exec (.rdmaWrite q m) s = .next u ∧ u.qpf q 1 1 = 2 ∧ u.reg regEnRacc = t.reg regEnRacc + 1 ∧
      u.out = ⟨.ether (t.qpPort q), 0x11, [q, m.psn.toNat, 0x62], []⟩ :: t.out ∧
      ∀ a, a ≠ t.qpBase q + 1 → u.rd a = t.rd a)

/-- A WRITE with Immediate writes its data as a WRITE does, then its signal is applied through the handle of the pair's job; an INC of 0 or a
reserved bit drops the signal, counted in MK_LINK_DROP, with the data written (R437). -/
def Says.InboundImmediates : Prop :=
  ∀ (s u : State) (q : Nat) (m : RdmaMsg) (imm : BitVec 32), InPlace s q m → m.rkey.toNat = s.qpf q 8 4 →
    s.etherStore (s.qpJob q) m.va.toNat (padB m.len (m.bytes.take m.len)) = (u, true) →
    exec (.rdmaWriteImm q m imm) s = .next ((u.inboundDone q m.psn.toNat (packetsOf m.len)).immSignal q imm m.psn.toNat) ∧
    ∀ t : State,
      (imm.toNat / 1024 % 65536 = 0 ∨ imm.toNat / 2 ^ 26 ≠ 0 → (t.immSignal q imm m.psn.toNat).mem = t.mem ∧
        (t.immSignal q imm m.psn.toNat).marks = t.marks ∧
        (t.immSignal q imm m.psn.toNat).reg regMkLinkDrop = t.reg regMkLinkDrop + 1) ∧
      ∀ n, imm.toNat / 1024 % 65536 ≠ 0 → imm.toNat / 2 ^ 26 = 0 → t.handle (t.qpJob q) (imm.toNat % 1024) = some (n, true) →
        t.immSignal q imm m.psn.toNat = t.sendMark n ⟨6, .signal (imm.toNat / 1024 % 65536)⟩

/-- An inbound READ of a readable range is answered with its bytes and changes no byte but the expected PSN; one that is not readable is
refused (R436). -/
def Says.InboundReads : Prop :=
  ∀ (s t : State) (q : Nat) (m : RdmaMsg), InPlace s q m → m.rkey.toNat = s.qpf q 8 4 →
    (∀ b, s.etherRead (s.qpJob q) m.va.toNat m.len = (t, some b) → t.hdir = [] → Intact t → ∃ u, exec (.rdmaRead q m) s = .next u ∧
      u.out = ⟨.ether (t.qpPort q), 0x10, [q, m.psn.toNat], b⟩ :: t.out ∧ u.qpf q 60 4 = (m.psn.toNat + packetsOf m.len) % 2 ^ 24 ∧
      ∀ a, (a < t.qpBase q + 60 ∨ t.qpBase q + 64 ≤ a) → u.rd a = t.rd a) ∧
    (s.etherRead (s.qpJob q) m.va.toNat m.len = (t, none) → t.hdir = [] → Intact t → ∃ u, exec (.rdmaRead q m) s = .next u ∧ u.qpf q 1 1 = 2 ∧
      u.reg regEnRacc = t.reg regEnRacc + 1 ∧ ∀ a, a ≠ t.qpBase q + 1 → u.rd a = t.rd a)

/-- A doorbell takes the entries of the send ring up to the tail in order: a READ leaves as its request; a malformed entry stops the queue
pair: error state, QP_ERROR to the host, EN_QPERR (R438, R439). -/
def Says.SendRings : Prop :=
  (∀ (s : State) (q : Nat) (v : Word), 1024 ≤ q → exec (.qpDoorbell q v) s = .next s) ∧
  ∀ (s : State) (q : Nat) (v : Word), q < 1024 → s.qpReady q = true → s.hdir = [] → Intact s → s.qpf q 48 4 = 64 →
    (v.toNat % 2 ^ 32 = (s.qpRt q).taken → ∃ t, exec (.qpDoorbell q v) s = .next t ∧ t.mem = s.mem ∧ t.out = s.out ∧
      (t.reg (regEnQpdb q)).toNat = v.toNat % 2 ^ 32) ∧
    (v.toNat % 2 ^ 32 = ((s.qpRt q).taken + 1) % 2 ^ 32 → (s.qpRt q).taken < 2 ^ 32 →
      (entryOk (s.sendEntry q (s.qpRt q).taken) = false → ∃ t, exec (.qpDoorbell q v) s = .next t ∧ t.qpf q 1 1 = 2 ∧
        t.reg regEnQperr = s.reg regEnQperr + 1 ∧ t.out = s.out ∧ (t.qpRt q).sent = [] ∧ ∀ a, a ≠ s.qpBase q + 1 → t.rd a = s.rd a) ∧
      (entryOk (s.sendEntry q (s.qpRt q).taken) = true → (s.sendEntry q (s.qpRt q).taken).getD 0 0 = 3 → ∃ t e,
        exec (.qpDoorbell q v) s = .next t ∧ (t.qpRt q).sent = (s.qpRt q).sent ++ [e] ∧ e.opc = 3 ∧ e.psn = s.qpf q 56 4 % 2 ^ 24 ∧
        e.len = leNat (sliceB (s.sendEntry q (s.qpRt q).taken) 4 4) ∧
        t.qpf q 56 4 = (e.psn + packetsOf e.len) % 2 ^ 24 ∧
        t.out = ⟨.ether (s.qpPort q), 0x0C, [q, e.psn, s.qpf q 12 4, e.rva.toNat, e.len], []⟩ :: s.out ∧
        ∀ a, (a < s.qpBase q + 56 ∨ s.qpBase q + 60 ≤ a) → t.rd a = s.rd a))

/-- Answers to outbound operations: an acknowledgement completes in order the WRITEs whose last packets it covers, each signalling its mark and
moving the head; a NAK other than a sequence error, and an eighth timeout, put the pair into the error state; READ data are written locally
and the last of them complete the READ (R438, R439). -/
def Says.OutboundAnswers : Prop :=
  (∀ (s : State) (q : Nat) (a : RdmaAck), s.qpReady q = false → exec (.rdmaAck q a) s = .next s ∧ exec (.rdmaAckTimeout q) s = .next s) ∧
  ∀ (s : State) (q : Nat), s.qpReady q = true → s.hdir = [] → Intact s →
    (∀ y, ∃ t, exec (.rdmaAck q (.nakOther y)) s = .next t ∧ t.qpf q 1 1 = 2 ∧ (t.qpRt q).sent = [] ∧ t.marks = s.marks ∧
      t.reg regEnQperr = s.reg regEnQperr + 1 ∧ ∀ a, a ≠ s.qpBase q + 1 → t.rd a = s.rd a) ∧
    ((s.qpRt q).sent = [] → exec (.rdmaAckTimeout q) s = .next s) ∧
    ((s.qpRt q).sent ≠ [] → 7 ≤ (s.qpRt q).retries → ∃ t, exec (.rdmaAckTimeout q) s = .next t ∧ t.qpf q 1 1 = 2 ∧ (t.qpRt q).sent = [] ∧
      t.reg regEnQperr = s.reg regEnQperr + 1) ∧
    (∀ e : QpEnt, (s.qpRt q).sent = [e] → e.opc = 3 → e.done = 0 → (s.qpRt q).retries < 7 → ∃ t, exec (.rdmaAckTimeout q) s = .next t ∧
      t.mem = s.mem ∧ (t.qpRt q).retries = (s.qpRt q).retries + 1 ∧ (t.qpRt q).sent = [e] ∧
      t.reg regEnRetry = s.reg regEnRetry + BitVec.ofNat 64 e.packets ∧
      t.out = ⟨.ether (s.qpPort q), 0x0C, [q, e.psn, s.qpf q 12 4, e.rva.toNat, e.len], []⟩ :: s.out) ∧
    (∀ (e : QpEnt) (psn : BitVec 24), (s.qpRt q).sent = [e] → e.opc = 1 → psn.toNat = (e.psn + e.packets + 2 ^ 24 - 1) % 2 ^ 24 → e.sig = none →
      ∃ t, exec (.rdmaAck q (.ack psn)) s = .next t ∧ (t.qpRt q).sent = [] ∧ t.qpf q 52 4 = (s.qpf q 52 4 + 1) % 2 ^ 32 ∧ t.out = s.out ∧
        ∀ a, (a < s.qpBase q + 52 ∨ s.qpBase q + 56 ≤ a) → t.rd a = s.rd a) ∧
    (∀ (e : QpEnt) (psn : BitVec 24) (b : List Byte), s.qpCtrl q = false → (s.qpRt q).sent = [e] → e.opc = 3 → psn.toNat ≠ (e.psn + e.done) % 2 ^ 24 →
      exec (.rdmaAck q (.readData psn b)) s = .next s) ∧
    ∀ (e : QpEnt) (psn : BitVec 24) (b : List Byte) (t : State), s.qpCtrl q = false → (s.qpRt q).sent = [e] → e.opc = 3 → e.sig = none → e.done = 0 →
      e.packets = 1 → psn.toNat = e.psn → s.etherStore (s.qpJob q) e.lva.toNat (b.take e.len) = (t, true) → t.qps = s.qps → ∃ u,
        exec (.rdmaAck q (.readData psn b)) s = .next u ∧ (u.qpRt q).sent = []

/-- The value of a dyadic number. -/
def dyVal (d : Machine.Dyadic) : ℚ := d.num / 2 ^ d.exp

/-- Each CNP cuts the rate by half of α and moves α to 15/16 α + 1/16; the timer without one decays α and raises the rate by AI; the rate
stays between MINR and line rate. CNPs received are counted (R440). -/
def Says.CongestionControl : Prop :=
  (∀ (s : State) (q : Nat), s.qpReady q = false → exec (.cnpReceive q) s = .next s ∧ exec (.ccTimerExpire q) s = .next s) ∧
  ∀ (s : State) (q : Nat), s.qpReady q = true → dyVal (s.qpRt q).alpha ≤ 1 → s.rfld regEnCc 47 32 ≤ 800 →
    (∃ t, exec (.cnpReceive q) s = .next t ∧ t.mem = s.mem ∧ t.reg regEnCnpRx = s.reg regEnCnpRx + 1 ∧
      dyVal (t.qpRt q).alpha = 15 / 16 * dyVal (s.qpRt q).alpha + 1 / 16 ∧
      dyVal (t.qpRt q).rate = max (s.rfld regEnCc 47 32 : ℚ) (min 800 (dyVal (s.qpRt q).rate * (1 - dyVal (s.qpRt q).alpha / 2)))) ∧
    ∃ t, exec (.ccTimerExpire q) s = .next t ∧ t.mem = s.mem ∧ dyVal (t.qpRt q).alpha = 15 / 16 * dyVal (s.qpRt q).alpha ∧
      dyVal (t.qpRt q).rate = max (s.rfld regEnCc 47 32 : ℚ) (min 800 (dyVal (s.qpRt q).rate + (s.rfld regEnCc 31 16 : ℚ)))

/-- A CE-marked packet is answered with a CNP at most once in 50 µs (R440). -/
def Says.CnpsAreLimited : Prop :=
  ∀ (s : State) (q : Nat) (m : RdmaMsg), s.qpReady q = true → m.icrcOk = false → m.ce = true →
    ((s.qpRt q).cnpAt = none → ∃ t, exec (.rdmaWrite q m) s = .next t ∧ t.out = ⟨.ether (s.qpPort q), 0x81, [q], []⟩ :: s.out ∧
      t.reg regEnCnpTx = s.reg regEnCnpTx + 1 ∧ (t.qpRt q).cnpAt = some s.time ∧ t.mem = s.mem) ∧
    ∀ x : Word, (s.qpRt q).cnpAt = some x → (s.time - x).toNat < 50000 → exec (.rdmaWrite q m) s = .next s

/-- The control messages of a group reach a firmware that runs, over a ready control pair: MARK_DROPPED counts, a slice request of an edition
that is gone is answered EDITION_GONE, of one that is not yet active waits, of one that stands by reading its adjacency block (R293, R437, R443). -/
def Says.SliceMessages : Prop :=
  (∀ (s : State) (q a b : Nat) (r : SliceReq) (e : Word), s.ctlOk q = false →
    exec (.markDropped q a b) s = .next s ∧ exec (.sliceReq q r) s = .next s ∧ exec (.sliceRsp q e 1) s = .next s) ∧
  ∀ (s : State) (q a b : Nat) (r : SliceReq) (d : Desc), s.ctlOk q = true → s.desc (s.qpJob q) r.table = some d →
    exec (.markDropped q a b) s = .next (s.bump regEnMarkNote) ∧
    (r.edition = 0 → ∃ t, exec (.sliceReq q r) s = .next t ∧ t.mem = s.mem ∧
      t.out = ⟨.ether (s.qpPort q), 0x0C, [q, s.qpf q 56 4 % 2 ^ 24, s.qpf q 12 4, r.adj.toNat], []⟩ :: s.out ∧
      (t.qpRt q).slices = (s.qpRt q).slices ++ [(s.qpf q 56 4 % 2 ^ 24, r)]) ∧
    (r.edition ≠ 0 → (s.table (s.qpJob q) r.table).editionAt r.edition = none →
      ((s.reg (regNbEdgen (s.qpJob q))).toNat < r.edition → exec (.sliceReq q r) s =
        .next (s.setQp q { s.qpRt q with waits := (s.qpRt q).waits ++ [r] })) ∧
      (r.edition ≤ (s.reg (regNbEdgen (s.qpJob q))).toNat → exec (.sliceReq q r) s =
        .next ((s.bump regNbWideGone).sendCtl q 0x03 (s.qpJob q) [r.edition, 1]))) ∧
    (∀ e : Word, exec (.sliceRsp q e 0) s = .next s) ∧
    (∀ e : Word, exec (.sliceRsp q e 1) s = .next (s.batchGone (s.qpJob q))) ∧
    (s.rings = [] → ∀ e : Word, exec (.sliceRsp q e 1) s = .next s)

/-- Group folios: rank 0 answers a request with FOLIO_AT two above the step it runs, a pending one is joined; a member keeps the step and takes
its folio after it; SEALED from each member is kept once a rank (R444). -/
def Says.GroupFolios : Prop :=
  (∀ (s : State) (j a b : Nat) (w : Word), s.fwUp = false → exec (.ethFolioReq j a) s = .next s ∧ exec (.folioAt j w) s = .next s ∧
    exec (.sealed j a b w) s = .next s ∧ exec (.restart j a b) s = .next s ∧ exec (.restartAck j a b) s = .next s) ∧
  (∀ (s : State) (j a : Nat), s.fwUp = true → s.grouped j = true → (s.job j).loaded = true →
    (s.group j).folioAt ≠ none → exec (.ethFolioReq j a) s = .next s) ∧
  (∀ (s : State) (j a : Nat), s.fwUp = true → s.grouped j = true → (s.job j).loaded = true → (s.group j).folioAt = none →
    ∃ t, exec (.ethFolioReq j a) s = .next t ∧ t.mem = s.mem ∧ (s.rank j ≠ 0 → t = s) ∧
      (s.rank j = 0 → (t.group j).folioAt = some ((smapGet (fun _ => (0, 0)) s.dx.prevStep j).1 + 3))) ∧
  (∀ (s : State) (j : Nat) (w : Word), s.fwUp = true → s.grouped j = true → (s.job j).loaded = true →
    ((s.group j).folioAt ≠ none → exec (.folioAt j w) s = .next s) ∧
    ((s.group j).folioAt = none → w ≠ (smapGet (fun _ => (0, 0)) s.dx.prevStep j).1 → ∃ t, exec (.folioAt j w) s = .next t ∧
      (t.group j).folioAt = some w ∧ t.folioPhase = s.folioPhase ∧ t.mem = s.mem) ∧
    ((s.group j).folioAt = none → w = (smapGet (fun _ => (0, 0)) s.dx.prevStep j).1 → s.folioPhase = 0 → ∃ t, exec (.folioAt j w) s = .next t ∧
      (t.group j).folioAt = some w ∧ t.folioPhase = 1 ∧ t.mem = s.mem)) ∧
  ∀ (s : State) (j rank n : Nat) (w : Word), s.fwUp = true → s.grouped j = true → (s.group j).mine = none → ∃ t,
    exec (.sealed j rank n w) s = .next t ∧ t.mem = s.mem ∧ (rank, n, w) ∈ (t.group j).sealed ∧
    ∀ x, x ∈ (t.group j).sealed ↔ x = (rank, n, w) ∨ (x ∈ (s.group j).sealed ∧ ¬ (x.1 = rank ∧ x.2.2 = w))

/-- Group restarts: a job that is no group's, or not loaded, is not rolled back; RESTART_ACKs are kept once a rank, and the job goes on when
every member has answered (R445). -/
def Says.GroupRestarts : Prop :=
  (∀ (s : State) (j a b : Nat), s.grouped j = false ∨ (s.job j).loaded = false → exec (.restart j a b) s = .next s) ∧
  (∀ (s : State) (j a b : Nat), s.fwUp = true → s.grouped j = true → (s.job j).loaded = true → ∃ t, exec (.restart j a b) s = .next t ∧
    t.pending = s.pending) ∧
  ∀ (s : State) (j rank n f : Nat) (l : List Nat), s.fwUp = true →
    ((s.group j).acks = none → ∃ t, exec (.restartAck j rank n) s = .next t ∧ (t.group j).acks = some (n, [rank]) ∧ t.mem = s.mem) ∧
    ((s.group j).acks = some (f, l) → rank ∉ l → (l ++ [rank]).dedup.length < (s.ctrlPairs j).length → ∃ t,
      exec (.restartAck j rank n) s = .next t ∧ (t.group j).acks = some (f, l ++ [rank]) ∧ t.mem = s.mem ∧ (t.job j).held = (s.job j).held) ∧
    ((s.group j).acks = some (f, l) → rank ∉ l → (s.ctrlPairs j).length ≤ (l ++ [rank]).dedup.length → s.blot.jobs = [] → ∃ t,
      exec (.restartAck j rank n) s = .next t ∧ (t.group j).acks = none ∧ t.mem = s.mem ∧ (t.job j).held = false)

/-- An ingest datagram outside [RELEASE, RELEASE + 2^LOGN), of a ring that is off, with a length that its slot cannot hold or reserved bytes
set, or repeated, is dropped and counted by its cause, nothing written; one that is accepted stands whole in its slot behind its header, no
other byte changes, and PRODUCER is the lowest SEQ not yet written (R446, R447). -/
def Says.IngestDatagrams : Prop :=
  (∀ (s : State) (r : Nat) (q : Word) (n : Nat) (b : Bool) (d : List Byte), 64 ≤ r ∨ (s.portUp 0 = false ∧ s.portUp 1 = false) →
    exec (.ingestDatagram r q n b d) s = .next s) ∧
  ∀ (s : State) (r : Nat) (q : Word) (n : Nat) (b : Bool) (d : List Byte), r < 64 → s.portUp 0 = true →
    (s.rbit (regEnIng r) 63 = false ∨ b = true ∨ s.ingSlot r - 16 < n → exec (.ingestDatagram r q n b d) s = .next (s.bump regEnIngBad)) ∧
    (s.rbit (regEnIng r) 63 = true → b = false → n ≤ s.ingSlot r - 16 →
      (q.toNat < (s.reg (regEnIngrel r)).toNat → exec (.ingestDatagram r q n b d) s = .next (s.bump regEnIngLate)) ∧
      ((s.reg (regEnIngrel r)).toNat + 2 ^ s.rfld (regEnIng r) 51 47 ≤ q.toNat →
        exec (.ingestDatagram r q n b d) s = .next (s.bump regEnIngFull)) ∧
      ((s.reg (regEnIngrel r)).toNat ≤ q.toNat → q.toNat < (s.reg (regEnIngrel r)).toNat + 2 ^ s.rfld (regEnIng r) 51 47 →
        (q.toNat < (s.reg (regEnIngprod r)).toNat ∨ q.toNat ∈ s.ingHeld r → exec (.ingestDatagram r q n b d) s = .next (s.bump regEnIngDup)) ∧
        ((s.reg (regEnIngprod r)).toNat ≤ q.toNat → q.toNat ∉ s.ingHeld r → s.hdir = [] → Intact s → d.length = n → q.toNat < 2 ^ 64 - 1 → ∃ t,
          exec (.ingestDatagram r q n b d) s = .next t ∧
          t.rdN (s.ingAddr r q.toNat) (16 + n) = leBytes 8 q.toNat ++ leBytes 2 n ++ List.replicate 6 0#8 ++ d ∧
          (∀ a, a < s.ingAddr r q.toNat ∨ s.ingAddr r q.toNat + 16 + n ≤ a → t.rd a = s.rd a) ∧
          (q.toNat ≠ (s.reg (regEnIngprod r)).toNat → (s.reg (regEnIngprod r)).toNat ∉ s.ingHeld r → t.reg (regEnIngprod r) = s.reg (regEnIngprod r)) ∧
          (q.toNat = (s.reg (regEnIngprod r)).toNat → q.toNat + 1 ∉ s.ingHeld r → (t.reg (regEnIngprod r)).toNat = q.toNat + 1))))

/-! ### The Blotter (R449 to R472) -/

/-- Nothing is under way that a fault would abandon or settle: no folio, no load, no job, no ring pair. -/
def Quiet (s : State) : Prop :=
  s.folioPhase = 0 ∧ s.jobs = [] ∧ s.rings = [] ∧ s.blot.fills = [] ∧ s.blot.jobs = [] ∧ s.blot.restoring = false

/-- A report with the Blotter's domain not joined is gone and changes nothing else. One of class C, that is not a retirement of a tag entry
with the unit's sixteen spares used up, is counted in BL_CORRECTED and, with LOGCE at 0, writes no record; one of class I writes a record whose SEQ is its number since reset and
advances BL_LOGPTR, and neither fences anything (R451, R471). -/
def Says.ReportsWithoutReaction : Prop :=
  ∀ (s : State) (r : Report),
    (s.joined 167 = false → exec (.blotterReport r) s = .next { s with reports := s.reports.erase r }) ∧
    (blClass r.code = .c → (r.code = 0x46 → smapGet (fun _ => 0) s.blot.tags (unitWord r.unit) < 16) → s.joined 167 = true →
      s.rbit regBlCfg 1 = false → ∃ t, exec (.blotterReport r) s = .next t ∧
      t.reg regBlCorrected = s.reg regBlCorrected + 1 ∧ t.reg regBlLogptr = s.reg regBlLogptr ∧ t.reg regBlFences = s.reg regBlFences ∧
      t.reports = s.reports.erase r ∧ t.mem = s.mem ∧ t.reg regBlFaults = s.reg regBlFaults) ∧
    (blClass r.code = .i → s.joined 167 = true → ∃ t, exec (.blotterReport r) s = .next t ∧
      t.reg (regBlLog ((s.reg regBlLogptr).toNat % 256) 0) = s.reg regBlLogptr ∧ t.reg regBlLogptr = s.reg regBlLogptr + 1 ∧
      t.reg regBlFences = s.reg regBlFences ∧ t.reg regBlFaults = s.reg regBlFaults ∧ t.reports = s.reports.erase r ∧ t.mem = s.mem)

/-- A class M fault in SOLO or UNPAIRED makes the module FAILED: dispatch stops and FAULT_N is asserted; on an ACTIVE member it starts a
takeover, on a STANDBY it departs to rejoin. Each counts in BL_FAULTS and BL_FENCES (R459, R460, R472). -/
def Says.ClassMFaults : Prop :=
  ∀ (s : State) (r : Report), r.code = 0x20 → unitOf r.unit ≠ .checker → s.joined 167 = true → Quiet s →
    (s.role = 0 ∨ s.role = 4 → ∃ t, exec (.blotterReport r) s = .next t ∧ t.rbit regBlStatus 6 = true ∧ t.rbit regBlStatus 1 = true ∧
      t.rbit regFePins 8 = true ∧ t.dx.stopped = true ∧ t.role = s.role ∧ t.mem = s.mem ∧ t.reg regBlFaults = s.reg regBlFaults + 1 ∧
      t.reg regBlFences = s.reg regBlFences + 1) ∧
    (s.role = 2 ∨ s.role = 5 ∨ s.role = 3 ∨ s.role = 6 → ∃ t, exec (.blotterReport r) s = .next t ∧ t.role = 7 ∧ t.rbit regBlStatus 6 = s.rbit regBlStatus 6 ∧
      t.rbit regFePins 8 = true ∧ t.dx.stopped = true ∧ t.mem = s.mem ∧ t.reg regBlFaults = s.reg regBlFaults + 1)

/-- A disagreement of the Blotter and its checker, or a report that names the Blotter, fences nothing: CKERR is set, FAULT_N asserted, the module
DEPARTED until reset (R454, R457). -/
def Says.CheckerDisagreement : Prop :=
  ∀ (s : State) (r : Report), (r.code = 0x21 ∨ ((blClass r.code = .f ∨ blClass r.code = .m) ∧ unitOf r.unit = .checker)) →
    s.joined 167 = true → Quiet s → s.role < 7 → ∃ t, exec (.blotterReport r) s = .next t ∧ t.role = 7 ∧ t.rbit regBlStatus 7 = true ∧
      t.rbit regFePins 8 = true ∧ t.reg regBlFences = s.reg regBlFences ∧ t.mem = s.mem

/-- A class F fault of a Ligature engine, and of a hot-row map slice, is fenced with no job effect: the engine's domain stands ON-ISOLATED, and
goes OFF at once where its over-current detector has tripped; the slice's lookups miss, and its domain stays joined (R34, R457, R461). -/
def Says.UnitsWithoutJobEffect : Prop :=
  ∀ (s : State) (code i : Nat) (a : Nat) (d : Word), i < 4 → 1 ≤ code → code ≤ 0x10 → code ≠ 0x0A → code ≠ 0x0B → s.joined 167 = true → Quiet s →
    (s.dom (148 + i) = 2 → code = 0x0E → ∃ t, exec (.blotterReport ⟨code, ⟨2, i⟩, a, d, none, false⟩) s = .next t ∧ t.dom (148 + i) = 3 ∧
      smapGet (fun _ => 0) t.power.target (148 + i) = 0 ∧ t.role = s.role ∧ t.mem = s.mem) ∧
    (s.dom (148 + i) = 2 → code ≠ 0x0E → ∃ t, exec (.blotterReport ⟨code, ⟨2, i⟩, a, d, none, false⟩) s = .next t ∧ t.dom (148 + i) = 1 ∧ t.role = s.role ∧
      t.reg regBlFences = s.reg regBlFences + 1 ∧ t.rbit regBlStatus 0 = true ∧ t.mem = s.mem ∧ t.ctxs = s.ctxs ∧
      (∀ k, k < 176 → k ≠ 148 + i → t.dom k = s.dom k)) ∧
    ((∀ e ∈ s.hot.ents, e.pin = none) → code ≠ 0x0E → ∃ t, exec (.blotterReport ⟨code, ⟨3, i⟩, a, d, none, false⟩) s = .next t ∧ (∀ e ∈ t.hot.ents, hmSlice e.home ≠ i) ∧
      (∀ k, k < 176 → t.dom k = s.dom k) ∧ t.reg regBlFences = s.reg regBlFences + 1 ∧ t.mem = s.mem ∧ t.ctxs = s.ctxs)

/-- A class F fault of a cluster-region whose group has its spare, with LOCAL at 1 or alone: the physical cluster is fenced and ON-ISOLATED, the
spare's domain is joined, FILLING is set and BL_FILL shows the fill (R457, R462). -/
def Says.ClusterFaultsFillTheSpare : Prop :=
  ∀ (s : State) (r : Report) (p k x : Nat), r.code = 0x01 ∨ r.code = 0x03 ∨ r.code = 0x05 → r.unit = ⟨0, p⟩ → p < 144 → r.sourceLost = false →
    s.joined 167 = true → Quiet s → s.role = 0 → s.logicalsOf p = [k] → s.fenced p = false → s.dom p = 2 →
    s.rfld (regScGroupMap (p / 9)) 35 32 = x → x < 9 → s.fenced (9 * (p / 9) + x) = false → 9 * (p / 9) + x ≠ p → s.hot.ents = [] →
    s.sets = [] → s.caches = [] → ∃ t, exec (.blotterReport r) s = .next t ∧ t.fenced p = true ∧ t.dom p = 1 ∧ t.dom (9 * (p / 9) + x) = 2 ∧
      t.rbit regBlStatus 2 = true ∧ t.rbit regBlFill 63 = true ∧ t.blot.fills = [⟨p / 9, [k], false⟩] ∧
      t.reg regBlFences = s.reg regBlFences + 1 ∧ (t.ctx ⟨k, 0⟩).run = .idle ∧ (t.ctx ⟨k, 1⟩).run = .idle ∧ t.mem = s.mem

/-- A fill ends: with the firmware running, the logical cluster stands on the spare slot, SPARE_SLOT shows that none is left and BL_SPARES
counts the fill; with no fill under way nothing happens (R462). -/
def Says.FillsComplete : Prop :=
  (∀ (s : State) (ok : Bool), s.blot.fills = [] ∨ s.fwUp = false → exec (.fillComplete ok) s = .next s) ∧
  ∀ (s : State) (g i x : Nat), g < 16 → i < 8 → s.fwUp = true → s.blot.fills = [⟨g, [8 * g + i], false⟩] → s.blot.jobs = [] →
    s.rfld (regScGroupMap g) 35 32 = x → x < 9 → s.sets = [] → s.caches = [] → ∃ t, exec (.fillComplete true) s = .next t ∧
      t.phys (8 * g + i) = 9 * g + x ∧ t.rfld (regScGroupMap g) 35 32 = 15 ∧ t.reg regBlSpares = s.reg regBlSpares + 1 ∧
      t.rbit regBlStatus 2 = false ∧ t.rbit regBlFill 63 = false ∧ t.blot.fills = [] ∧
      (∀ n, n < 8 → n ≠ i → t.phys (8 * g + n) = s.phys (8 * g + n)) ∧
      ∀ a, (a < sheetBase (8 * g + i) ∨ sheetBase (8 * g + i) + 0x180000 ≤ a) → t.rd a = s.rd a

/-- The image of a restart stands: nothing happens while none is restored or the firmware is down; else the wait of the affected jobs is over
(R464). -/
def Says.RestartsComplete : Prop :=
  ∀ s : State, (s.blot.restoring = false ∨ s.fwUp = false → exec .imageRestoreComplete s = .next s) ∧
    (s.blot.restoring = true → s.fwUp = true → s.blot.jobs = [] → s.rings = [] → ∃ t, exec .imageRestoreComplete s = .next t ∧
      t.blot.restoring = false ∧ t.mem = s.mem) ∧
    (s.blot.restoring = true → s.fwUp = true → ∃ t, exec .imageRestoreComplete s = .next t ∧ t.pending = s.pending)

/-- Heartbeats: every missed one counts in BL_HB_MISS; a unit missed for the first time is only remembered, one missed twice in succession is a
class F report 0x0F on it (R452). With none missed, every unit has sent the heartbeat that a quiesce waits for (R456; log 109). -/
def Says.Heartbeats : Prop :=
  ∀ (s : State), (∃ t, exec (.heartbeatCheck []) s = .next t ∧ t.reg regBlHbMiss = s.reg regBlHbMiss ∧ t.blot = { s.blot with missed := [] } ∧
      t.folio = { s.folio with beat := true } ∧ t.mem = s.mem) ∧
    (∀ u : UnitId, u ∉ s.blot.missed → u ∉ s.blot.units → ∃ t, exec (.heartbeatCheck [u]) s = .next t ∧ t.reg regBlHbMiss = s.reg regBlHbMiss + 1 ∧
      t.blot.missed = [u] ∧ t.folio = s.folio ∧ t.mem = s.mem ∧ t.reg regBlFaults = s.reg regBlFaults) ∧
    (∀ i, i < 4 → ⟨2, i⟩ ∈ s.blot.missed → s.dom (148 + i) = 2 → s.joined 167 = true → Quiet s → ∃ t, exec (.heartbeatCheck [⟨2, i⟩]) s = .next t ∧
      t.reg regBlHbMiss = s.reg regBlHbMiss + 1 ∧ t.blot.missed = [] ∧ t.dom (148 + i) = 1 ∧ t.reg regBlFaults = s.reg regBlFaults + 1)

/-- BL_ORDER stores its UNIT; with FENCE it is a report 0x10 on the unit; a second one while FENCE is 1 is discarded with CFG_REJ. BL_IWHWM
above 12 MiB while a group is folded is discarded with CFG_REJ (R467, registers of chapter 18). -/
def Says.BlotterOrders : Prop :=
  ∀ (s : State) (v : Word),
    (bitOf v 0 = false → ∃ t, exec (.blOrderFence v) s = .next t ∧ t.rfld regBlOrder 31 16 = fld v 31 16 ∧ t.mem = s.mem ∧
      t.reg regBlFences = s.reg regBlFences) ∧
    (bitOf v 0 = true → s.rbit regBlOrder 0 = true → exec (.blOrderFence v) s = .next (s.setRbit regBlStatus 8 true)) ∧
    (bitOf v 0 = true → s.rbit regBlOrder 0 = false → s.joined 167 = true → Quiet s → ∀ i, i < 4 → fld v 31 28 = 2 → fld v 27 16 = i → s.dom (148 + i) = 2 → ∃ t,
      exec (.blOrderFence v) s = .next t ∧ t.dom (148 + i) = 1 ∧ t.reg regBlFences = s.reg regBlFences + 1 ∧ t.rbit regBlOrder 0 = false) ∧
    (s.fwUp = false → exec (.blIwhwmWrite v) s = .next s) ∧
    (s.fwUp = true → s.rbit regBlStatus 4 = true → 384 < fld v 9 0 → exec (.blIwhwmWrite v) s = .next (s.setRbit regBlStatus 8 true)) ∧
    (s.fwUp = true → s.rbit regBlStatus 4 = false ∨ fld v 9 0 ≤ 384 → ∃ t, exec (.blIwhwmWrite v) s = .next t ∧
      t.rfld regBlIwhwm 9 0 = min 768 (fld v 9 0) ∧ t.mem = s.mem ∧ t.rbit regBlStatus 8 = s.rbit regBlStatus 8)

/-! ### Power and shedding (R473 to R490) -/

/-- No ladder step stands, none is due, and no count runs. -/
def Steady (s : State) : Prop :=
  s.rfld regPwStatus 7 5 = 0 ∧ s.rfld regPwStatus 10 8 = 0 ∧ s.rbit regPwStatus 11 = false ∧ s.power.done = 0 ∧ s.power.low = [] ∧
  s.power.ovp = 0

/-- A sample of a supply above every threshold is shown in PW_INPUT and enters no step (R477, R481). -/
def Says.SteadySupply : Prop :=
  ∀ (s : State) (p : PowerSample), Steady s → p.vin ≤ 6100 → (∀ i, 1 ≤ i → i ≤ 4 → s.shedThr i ≤ p.vin) → s.shedThr 5 ≤ p.vhu → 2800 ≤ p.vhu →
    p.vhu < 65536 → p.iin < 65536 → ∃ t, exec (.powerSample p) s = .next t ∧ t.rfld regPwInput 63 48 = p.vhu ∧ t.rfld regPwInput 47 32 = p.vin ∧
      t.rfld regPwInput 31 16 = p.iin ∧ t.effStep = 0 ∧ t.role = s.role ∧ t.mem = s.mem ∧ t.ctxs = s.ctxs ∧
      t.power.pins.head? = some (p.vin * p.iin / 1000)

/-- A step is entered on the second consecutive sample below its threshold, not on the first: L1 here; the sample that is not below it begins the
count anew (R482). L1 is left after 1 ms of samples at or above its exit level (R481, R482). -/
def Says.LadderSteps : Prop :=
  (∀ (s : State) (p : PowerSample), Steady s → p.vin < s.shedThr 1 → (∀ i, 2 ≤ i → i ≤ 4 → s.shedThr i ≤ p.vin) → s.shedThr 5 ≤ p.vhu →
    2800 ≤ p.vhu → p.vin ≤ 6100 → ∃ t, exec (.powerSample p) s = .next t ∧ t.effStep = 0 ∧ t.lowCount 1 = 1 ∧ t.mem = s.mem) ∧
  (∀ (s : State) (p : PowerSample), s.rfld regPwStatus 7 5 = 0 → s.rfld regPwStatus 10 8 = 0 → s.rbit regPwStatus 11 = false → s.power.done = 0 →
    s.power.low = [(1, 1)] → s.power.ovp = 0 → p.vin < s.shedThr 1 → (∀ i, 2 ≤ i → i ≤ 4 → s.shedThr i ≤ p.vin) → s.shedThr 5 ≤ p.vhu →
    2800 ≤ p.vhu → p.vin ≤ 6100 → ∃ t, exec (.powerSample p) s = .next t ∧ t.effStep = 1 ∧ t.rfld regPwStatus 4 2 = 1 ∧
      t.reg regPwL1 = s.reg regPwL1 + 1 ∧ t.mem = s.mem ∧ t.ctxs = s.ctxs ∧ t.power.done = 1) ∧
  ∀ (s : State) (p : PowerSample), s.rfld regPwStatus 7 5 = 1 → s.rfld regPwStatus 10 8 = 0 → s.rbit regPwStatus 11 = false → s.power.done = 1 →
    s.power.low = [] → s.power.ovp = 0 → s.pwHeld = false → (∀ i, 1 ≤ i → i ≤ 4 → s.shedThr i + 50 ≤ p.vin) → s.shedThr 5 ≤ p.vhu → 2800 ≤ p.vhu →
    p.vin ≤ 6100 →
    (s.power.exitOk < 99 → ∃ t, exec (.powerSample p) s = .next t ∧ t.effStep = 1 ∧ t.power.exitOk = s.power.exitOk + 1 ∧ t.mem = s.mem) ∧
    (99 ≤ s.power.exitOk → ∃ t, exec (.powerSample p) s = .next t ∧ t.effStep = 0 ∧ t.rfld regPwStatus 4 2 = 0 ∧ t.mem = s.mem)

/-- Entry to L3 performs the actions of every step not yet performed: the emergency folio is requested as a forced one, dispatch stops, PGOOD falls,
SHED shows 3 (R482, R489, R490). -/
def Says.EnteringL3 : Prop :=
  ∀ (s : State) (p : PowerSample), s.rfld regPwStatus 7 5 = 2 → s.rfld regPwStatus 10 8 = 0 → s.rbit regPwStatus 11 = false → s.power.done = 2 →
    s.power.low = [(1, 2), (2, 2), (3, 1)] → s.power.ovp = 0 → s.pwHeld = false → p.vin < s.shedThr 3 → p.vin < s.shedThr 2 → p.vin < s.shedThr 1 → s.shedThr 4 ≤ p.vin →
    s.shedThr 5 ≤ p.vhu → 2800 ≤ p.vhu → p.vin ≤ 6100 → s.role = 0 → s.fwUp = true → s.groupJobs = [] → s.folioPhase = 0 →
    ∃ t, exec (.powerSample p) s = .next t ∧ t.effStep = 3 ∧ t.folioPhase = 1 ∧ t.folio.forced = true ∧ t.dx.stopped = true ∧
      t.rbit regPwStatus 1 = false ∧ t.rbit regFePins 10 = false ∧ t.rfld regFePins 13 11 = 3 ∧ t.mem = s.mem ∧ t.power.saveDue = true

/-- Below the reset level for the second time the whole module is in brown-out reset: only the Ledger, its log and the flash keep their contents
(R481). -/
def Says.BrownOut : Prop :=
  ∀ (s : State) (p : PowerSample), smapGet (fun _ => 0) s.power.low 6 = 1 ∨ smapGet (fun _ => 0) s.power.low 6 = 2 → p.vhu < 2800 → p.vin ≤ 6500 →
    ∃ t, exec (.powerSample p) s = .next t ∧ t.ledger = s.ledger ∧ t.ledlog = s.ledlog ∧ t.fw.slotA = s.fw.slotA ∧ t.fw.slotB = s.fw.slotB ∧
      t.mem = [] ∧ t.regs = [] ∧ t.ctxs = [] ∧ t.jobs = [] ∧ t.pending = s.pending ∧ t.power.full = true

/-- A domain is to take a state: it stands in it, switches to it, or waits for its turn to switch (R479, R480). -/
def Ordered (s : State) (d x : Nat) : Prop :=
  s.dom d = x ∨ (s.dom d = 3 ∧ smapGet (fun _ => 0) s.power.target d = x) ∨ (d, x) ∈ s.power.switchq

/-- The second consecutive sample above 61.0 V is an over-voltage: counted, with the actions of L4, which order rows 1 to 7 of R480 OFF; the
module is held (R35, R474, R480, R485). -/
def Says.OverVoltage : Prop :=
  ∀ (s : State) (p : PowerSample), s.rbit regPwStatus 11 = false → s.power.ovp = 1 → 6100 < p.vin → p.vin ≤ 6500 → s.power.low = [] → s.power.done = 0 →
    s.rfld regPwStatus 7 5 = 0 → s.rfld regPwStatus 10 8 = 0 →
    (∀ i, 1 ≤ i → i ≤ 4 → s.shedThr i ≤ p.vin) → s.shedThr 5 ≤ p.vhu → 2800 ≤ p.vhu → s.role = 0 → s.fwUp = false → s.jobs = [] → s.folioPhase = 0 →
    s.hreqs = [] → s.pwHeld = false → ∃ t, exec (.powerSample p) s = .next t ∧ t.reg regPwOvp = s.reg regPwOvp + 1 ∧ t.rbit regPwStatus 11 = true ∧ t.effStep = 4 ∧
      t.pwHeld = true ∧ t.dx.stopped = true ∧ ∀ d ∈ shedRows, Ordered t d 0

/-- Temperatures are shown group by group; the second consecutive sample with a sensor at 105.0 °C enters thermal L3, counted in PW_THERM
(R477, R488). -/
def Says.Temperatures : Prop :=
  ∀ (s : State) (l d : List (BitVec 16)), s.rfld regPwStatus 7 5 = 0 → s.rfld regPwStatus 10 8 = 0 → s.rbit regPwStatus 11 = false → l.length = 64 →
    (s.power.done = 0 → (∀ x ∈ l, x.toInt ≤ 1600) → ∃ t, exec (.tempSample l d) s = .next t ∧ t.effStep = 0 ∧ t.mem = s.mem ∧
      t.role = s.role ∧ (∀ g i, g < 16 → i < 4 → fld (t.reg (regPwTemp g)) (16 * i + 15) (16 * i) = (l.getD (4 * g + i) 0).toNat) ∧
      ∀ k, k < 176 → (t.reg (regPwDomi k)).toNat = (d.getD k 0).toNat) ∧
    (s.power.done = 0 → s.power.hot3 = 1 → s.pwHeld = false → s.fwUp = false → s.folioPhase = 0 → (∃ x ∈ l, 1680 ≤ x.toInt) → (∀ x ∈ l, x.toInt < 1760) →
      ∃ t, exec (.tempSample l d) s = .next t ∧ t.rfld regPwStatus 10 8 = 3 ∧ t.effStep = 3 ∧ t.reg regPwTherm = s.reg regPwTherm + 1 ∧
        t.mem = s.mem)

/-- A faulty phase is replaced by a spare and counted; with both spares used the rail runs on the phases that remain, shown with DERATE; fewer than
34 are reported as class M (R476). -/
def Says.Phases : Prop :=
  ∀ (s : State) (ph : Nat), (42 ≤ ph ∨ s.rbit regPwPhase ph = true → exec (.phaseSpareIn ph) s = .next s) ∧
    (ph < 42 → s.rbit regPwPhase ph = false →
      (((upto 42).filter (fun i => s.rbit regPwPhase i)).length < 2 → ∃ t, exec (.phaseSpareIn ph) s = .next t ∧ t.rbit regPwPhase ph = true ∧
        t.reg regPwPhaseSpare = s.reg regPwPhaseSpare + 1 ∧ t.phases = s.phases ∧ t.reports = s.reports ∧ t.mem = s.mem) ∧
      (2 ≤ ((upto 42).filter (fun i => s.rbit regPwPhase i)).length → ∃ t, exec (.phaseSpareIn ph) s = .next t ∧ t.rbit regPwPhase ph = true ∧
        t.phases = 41 - ((upto 42).filter (fun i => s.rbit regPwPhase i)).length ∧ t.rbit regPwStatus 13 = true ∧
        t.reg regPwPhaseSpare = s.reg regPwPhaseSpare ∧ t.mem = s.mem ∧
        (((upto 42).filter (fun i => s.rbit regPwPhase i)).length < 8 → t.reports = s.reports) ∧
        (8 ≤ ((upto 42).filter (fun i => s.rbit regPwPhase i)).length → ∃ x, t.reports = s.reports ++ [x] ∧ x.code = 0x20)))

/-- A switching domain takes the state it moves to; one that does not switch stays (R479). -/
def Says.DomainsSwitch : Prop :=
  ∀ (s : State) (d : Nat), (176 ≤ d ∨ s.dom d ≠ 3 → exec (.domainSwitchComplete d) s = .next s) ∧
    (d < 176 → s.dom d = 3 → smapGet (fun _ => 0) s.power.target d < 3 → ∃ t, exec (.domainSwitchComplete d) s = .next t ∧
      t.dom d = smapGet (fun _ => 0) s.power.target d ∧ (∀ k, k < 176 → k ≠ d → t.dom k = s.dom k) ∧ t.mem = s.mem)

/-- The Inkwell save stands: every word of every region is copied to its place in the save area and IWSAVED is set; with none under way nothing
happens (R483). -/
def Says.InkwellSave : Prop :=
  ∀ s : State, (s.power.saving = false → exec .iwsaveComplete s = .next s) ∧
    (s.power.saving = true → s.rfld regPwIwsave 47 30 < 1021 → Memory.wf s.mem → ∃ t, exec .iwsaveComplete s = .next t ∧ t.rbit regPwStatus 14 = true ∧
      t.power.saving = false ∧
      (∀ k off, k < 128 → off < 25165824 → t.rd (s.rfld regPwIwsave 47 30 * 2 ^ 30 + k * 25165824 + off) = s.rd (inkwellBase k + off)) ∧
      ∀ a, (a < s.rfld regPwIwsave 47 30 * 2 ^ 30 ∨ s.rfld regPwIwsave 47 30 * 2 ^ 30 + 3 * 2 ^ 30 ≤ a) → t.rd a = s.rd a)

/-- The warm reset waits for 100 ms of a good supply with RESET_N released; it keeps the Reservoir and the island, empties Inkwell and the Sheets,
deasserts FAULT_N, stops every context, and holds the module while its domains come up, none of them joined (R485, R540). -/
def Says.WarmReset : Prop :=
  ∀ s : State,
    (s.pwHeld = false ∨ s.power.full = true ∨ s.power.booting = true ∨ s.resetPin = true ∨ (s.power.high < 10000 ∧ s.power.orderWarm = false) →
      exec .warmReset s = .next s) ∧
    (s.pwHeld = true → s.power.full = false → s.power.booting = false → s.resetPin = false → s.effStep < 5 → 10000 ≤ s.power.high →
      s.rfld regPwStatus 10 8 < 4 → ∃ t, exec .warmReset s = .next t ∧ t.pwHeld = true ∧ t.power.booting = true ∧ t.effStep = 0 ∧ t.ctxs = [] ∧
        t.rbit regFePins 8 = false ∧ t.role = 0 ∧ (∀ d, d < 176 → Ordered t d 1 ∧ t.dom d ≠ 2) ∧ t.rings = s.rings ∧ t.sealedImg = s.sealedImg ∧ t.undo = s.undo ∧
        t.ledger = s.ledger ∧ t.pending = s.pending ∧
        (∀ a, a < 2 ^ 40 → t.rd a = s.rd a) ∧ ∀ a, 2 ^ 40 ≤ a → t.rd a = 0)

/-- A write of PW_SHEDTHR: while V_HU is below 30.5 V, or the firmware is down, none begins; one with a threshold out of range, or less than 1.0 V
below the one above it, leaves value and count and sets CFG_REJ; within its write limit a legal one is stored, counted and logged
(R15, R486, R487). -/
def Says.ShedThresholds : Prop :=
  ∀ (s : State) (v : Word), (s.fwUp = false ∨ s.rfld regPwInput 63 48 < 3050 → exec (.pwShedthrWrite v) s = .next s) ∧
    (s.fwUp = true → 3050 ≤ s.rfld regPwInput 63 48 →
      (shedOk (v &&& 0x0003FFFFFFFFFFFF#64) = false → ∃ t, exec (.pwShedthrWrite v) s = .next t ∧ t.rbit regPwStatus 15 = true ∧ t.ledger = s.ledger ∧
        t.ledlog = s.ledlog ∧ t.reg regPwShedthr = s.reg regPwShedthr ∧ t.mem = s.mem) ∧
      (shedOk (v &&& 0x0003FFFFFFFFFFFF#64) = true → 16 ≤ (s.led 5).count → ∃ t, exec (.pwShedthrWrite v) s = .next t ∧ t.ledger = s.ledger ∧
        t.rbit regLdStatus 0 = true ∧ t.reg regLdRefused = s.reg regLdRefused + 1 ∧ t.reg regPwShedthr = s.reg regPwShedthr) ∧
      (shedOk (v &&& 0x0003FFFFFFFFFFFF#64) = true → (s.led 5).count < 16 → ∃ t, exec (.pwShedthrWrite v) s = .next t ∧
        (t.led 5).count = (s.led 5).count + 1 ∧ leWord (t.led 5).value = (v &&& 0x0003FFFFFFFFFFFF#64) ∧
        t.reg regPwShedthr = (v &&& 0x0003FFFFFFFFFFFF#64) ∧ t.ledlog.length = s.ledlog.length + 1 ∧ t.reg regLdWrites = s.reg regLdWrites + 1 ∧
        t.mem = s.mem))

/-- Power-up: the island starts with the Ledger-backed registers and the module held; with V_IN good for 100 ms the domains come up ON-ISOLATED in
the reverse order of R480, 8 at most at once; the self-test's end maps each group, rebuilds the repair maps, joins what serves, starts the
cycle counts at 0 and releases the module (R18, R19, R479, R480, R539, R552). -/
def Says.PowerUps : Prop :=
  (∀ s : State, (s.power.full = false ∨ s.pwHeld = true → exec .ferrulePowerOn s = .next s) ∧
    (s.power.full = true → s.pwHeld = false → ∃ t, exec .ferrulePowerOn s = .next t ∧ t.pwHeld = true ∧ t.mem = s.mem ∧ t.rbit regPwStatus 1 = false ∧
      t.reg regPwShedthr = leWord (s.led 5).value &&& 0x0003FFFFFFFFFFFF#64 ∧ ∀ e, 1 ≤ e → e ≤ 10 → (s.led e).count < 2 ^ 32 → t.rfld (regLdCnt (e - 1)) 31 0 = (s.led e).count)) ∧
  (∀ s : State, (s.power.full = false ∨ s.pwHeld = false ∨ s.power.high < 10000 ∨ s.resetPin = true ∨ s.power.refLost = true ∨
      s.power.booting = true → exec .powerUp s = .next s) ∧
    (s.power.full = true → s.pwHeld = true → 10000 ≤ s.power.high → s.rfld regPwStatus 10 8 < 4 → s.resetPin = false → s.power.refLost = false →
      s.power.booting = false → (∀ d, d < 176 → s.dom d = 0) → ∃ t, exec .powerUp s = .next t ∧ t.power.booting = true ∧ t.mem = s.mem ∧ t.effStep = 0 ∧
        t.power.switchq = ((shedRows ++ lastRow).reverse.map (fun d => (d, 1))).drop (8 - s.power.started) ∧
        ∀ d, d < 176 → t.dom d = 3 ∧ smapGet (fun _ => 0) t.power.target d = 1 ∨ t.dom d = 0 ∧ (d, 1) ∈ t.power.switchq)) ∧
  ∀ (s : State) (pass : List (List Bool)) (fix : List Repair),
    (s.power.booting = false ∨ (∃ d, d < 176 ∧ s.dom d = 3) ∨ s.power.switchq ≠ [] → exec (.selfTestComplete ⟨pass, fix⟩) s = .next s) ∧
    (∀ p off, p < 144 → (s.selfRepairs [.bankRow p off]).tiers.remapped = [iwRowId p off]) ∧
    (∀ p b n, p < 144 → b < 8 → n < 16 → (s.selfRepairs [.bank p b n]).tiers.banks = [(8 * p + b, n)]) ∧
    (s.power.booting = true → s.power.switchq = [] → (∀ d, d < 176 → s.dom d = 1) → pass = List.replicate 16 (List.replicate 9 true) → s.effStep = 0 →
      (s.led 4).value.all (fun b => b == 0#8) = true → ∃ t, exec (.selfTestComplete ⟨pass, fix⟩) s = .next t ∧ t.pwHeld = false ∧ t.power.booting = false ∧ t.role = 0 ∧
        t.rbit regPwStatus 1 = true ∧
        (∀ g, g < 16 → t.reg (regScGroupMap g) = 0x0000000876543210#64 ∧ t.dom (9 * g + 8) = 1 ∧ ∀ i, i < 8 → t.dom (9 * g + i) = 2) ∧
        t.dom 166 = 1 ∧ t.mem = s.mem ∧ t.tiers = (s.selfRepairs fix).tiers ∧ t.cycScribe = 0 ∧ t.cycCopyist = 0)

/-- The reference: its loss is reported once, as a fault of a unit that every job uses; its return ends it (R531). -/
def Says.Reference : Prop :=
  ∀ s : State, (s.power.refLost = true → exec .refclkLoss s = .next s) ∧
    (s.power.refLost = false → ∃ t, exec .refclkLoss s = .next t ∧ t.power.refLost = true ∧ t.mem = s.mem ∧
      ∃ x, t.reports = s.reports ++ [x] ∧ x.code = 0x20 ∧ unitOf x.unit = .shared) ∧
    ∃ t, exec .refclkReturn s = .next t ∧ t.power.refLost = false ∧ t.mem = s.mem ∧ t.reports = s.reports

/-! ### The firmware: boot, rings, restart (R491 to R513) -/

/-- The checks of an image (R494), in their order: an image with a wrong form, below the version floor, with a wrong digest, with another
vendor key, with a bad vendor signature, with another owner key while one is held, with a bad owner signature; the first that fails
names the slot's code, and a slot with no image has a wrong form. The preferred slot is tried first, or the one with the higher SVN, slot
A on a tie (R495). -/
def Says.ImageChecks : Prop :=
  (∀ s : State, s.imageFail none = 1) ∧
  (∀ (s : State) (i : FwImage),
    (i.formOk = false → s.imageFail (some i) = 1) ∧
    (i.formOk = true → i.svn.toNat < s.ledNum 6 → s.imageFail (some i) = 2) ∧
    (i.formOk = true → s.ledNum 6 ≤ i.svn.toNat →
      (i.payDigest ≠ i.payHash ∨ i.runDigest ≠ i.runHash → s.imageFail (some i) = 3) ∧
      (i.payDigest = i.payHash → i.runDigest = i.runHash →
        (i.vendorPkHash ≠ Config.vendorKeyHash → s.imageFail (some i) = 4) ∧
        (i.vendorPkHash = Config.vendorKeyHash →
          (i.vendorSigOk = false → s.imageFail (some i) = 5) ∧
          (i.vendorSigOk = true →
            (s.ledNum 3 = 0 → s.imageFail (some i) = 0) ∧
            (s.ledNum 3 ≠ 0 →
              (leBytes 32 i.ownerPkHash.toNat ≠ (s.led 3).value → s.imageFail (some i) = 6) ∧
              (leBytes 32 i.ownerPkHash.toNat = (s.led 3).value → s.imageFail (some i) = if i.ownerSigOk then 0 else 7))))))) ∧
  ∀ s : State,
    (∀ b r, (s.led 7).value = b :: r → s.firstSlot = b.toNat % 2) ∧
    ((s.led 7).value = [] → ∀ a b, s.fw.slotA = some a → s.fw.slotB = some b → s.firstSlot = if a.svn.toNat < b.svn.toNat then 1 else 0)

/-- The boot ROM reads a slot when copyist 0 is released and flash is reached and nothing else runs. A slot that passes its checks is
recorded with its SVN, measured and started; the first that fails leaves its code and the other is tried; when neither passes, the module
is FAILED with NOIMAGE (R494 to R497). -/
def Says.Boot : Prop :=
  ∀ s : State,
    (s.bootable = false → exec .bootImageLoaded s = .next s) ∧
    (s.bootable = true → ∀ slot, slot < 2 → s.fw.trying.getD s.firstSlot = slot →
      (∀ im, s.slotImage slot = some im → s.imageFail (some im) = 0 → ∃ t : State, exec .bootImageLoaded s = .next t.bootDone ∧
        t.rbit regFwStatus 1 = (slot == 1) ∧ t.rfld regFwBoot 63 32 = im.svn.toNat ∧ t.rfld regFwBoot (8 * slot + 7) (8 * slot) = 0 ∧
        t.fw.version = im.version ∧ t.meas 0 = sha3 (s.meas 0 ++ Config.romMeasure) ∧
        t.meas 1 = sha3 (s.meas 1 ++ leBytes 32 im.runHash.toNat) ∧ t.meas 2 = sha3 (s.meas 2 ++ leBytes 32 im.payHash.toNat) ∧
        t.mem = s.mem ∧ t.ctxs = s.ctxs ∧ t.rings = s.rings ∧ t.jobs = s.jobs) ∧
      (s.imageFail (s.slotImage slot) ≠ 0 → s.fw.tried.contains (1 - slot) = false → ∃ t, exec .bootImageLoaded s = .next t ∧
        t.rfld regFwBoot (8 * slot + 7) (8 * slot) = s.imageFail (s.slotImage slot) ∧ t.fw.trying = some (1 - slot) ∧
        t.rbit regFwStatus 0 = false ∧ t.mem = s.mem ∧ t.ctxs = s.ctxs ∧ t.rings = s.rings) ∧
      (s.imageFail (s.slotImage slot) ≠ 0 → s.fw.tried.contains (1 - slot) = true → s.rings = [] → ∃ t, exec .bootImageLoaded s = .next t ∧
        t.rfld regFwBoot (8 * slot + 7) (8 * slot) = s.imageFail (s.slotImage slot) ∧ t.rbit regFwStatus 3 = true ∧
        t.rbit regFwStatus 0 = false ∧ t.rbit regBlStatus 6 = true ∧ t.dx.stopped = true))

/-- The firmware consumes the entry of a pair at SQHEAD when it is the pair's turn: the entry takes NEXTSEQ as its number, SQHEAD and
NEXTSEQ advance by one, no other byte changes. An entry that needs no execution is answered with its reason at once; one whose task the
queues cannot take is not consumed, and its pair stalls (R304, R402, R500 to R505). -/
def Says.EntriesAreConsumed : Prop :=
  ∀ (s : State) (r : Nat),
    (64 ≤ r ∨ s.mayConsume r = false ∨ s.ringTurn r = false → exec (.ringEntryConsume r) s = .next s) ∧
    (r < 64 → s.mayConsume r = true → s.ringTurn r = true → s.submitStalls r = true → ∃ t, exec (.ringEntryConsume r) s = .next t ∧
      t.dx.stalled.contains (128 + r) = true ∧ t.rings = s.rings ∧ t.mem = s.mem ∧ t.jobs = s.jobs ∧
      t.reg regDxStall = s.reg regDxStall + (if s.dx.stalled.contains (128 + r) then 0 else 1)) ∧
    (r < 64 → s.mayConsume r = true → s.ringTurn r = true → s.submitStalls r = false → s.hdir = [] → Intact s → ∃ (t : State) (x : RingEnt),
      x = (⟨BitVec.ofNat 64 (s.cbf r 40 8), s.rdN (s.cbf r 0 8 + 64 * (s.cbf r 32 4 % 2 ^ s.cbf r 16 1)) 64, none, none, none⟩ : RingEnt) ∧
      (t.ring r).opened = (s.ring r).opened ++ [x] ∧ (t.ring r).produced = (s.ring r).produced ∧
      t.cbf r 32 4 = (s.cbf r 32 4 + 1) % 2 ^ 32 ∧ t.cbf r 40 8 = (s.cbf r 40 8 + 1) % 2 ^ 64 ∧
      (∀ q, q ≠ r → t.ring q = s.ring q) ∧ (s.sets = [] → s.caches = [] → t.regs = s.regs) ∧ t.jobs = s.jobs ∧ t.events = s.events ∧
      (∀ a, (a < (s.ring r).cb + 32 ∨ (s.ring r).cb + 36 ≤ a) → (a < (s.ring r).cb + 40 ∨ (s.ring r).cb + 48 ≤ a) → t.rd a = s.rd a) ∧
      (t.entryAnswer r x = none → exec (.ringEntryConsume r) s = .next t) ∧
      ∀ c, t.entryAnswer r x = some c → exec (.ringEntryConsume r) s = .next (t.complete r x.seq c))

/-- What an entry is answered without execution: an opcode that no command has OPCODE; FLAGS above bit 0 or a reserved byte FIELD; ORDERED
on a Draft pair CLASS, and a command whose ORDERED flag or pair R504 does not allow CLASS; on a STANDBY whatever it does not answer itself
NOT_DONE with STANDBY (R402, R502 to R505). A pair's next entry waits while a task it submitted cannot be passed on (R304, R500), and all
Fair-copy entries wait from shed level 3 up. -/
def Says.EntryAnswers : Prop :=
  ∀ (s : State) (r : Nat) (x : RingEnt),
    (s.role = 3 ∨ s.role = 6 → standbyOpc (x.byte 0) (decide (128 ≤ x.byte 23)) = false → s.entryAnswer r x = some (notDone 0x11)) ∧
    (s.role ≠ 3 → s.role ≠ 6 →
      (opcRule (x.byte 0) = none → s.entryAnswer r x = some (doneWith 1 0 [])) ∧
      (∀ rule, opcRule (x.byte 0) = some rule →
        (2 ≤ x.byte 1 ∨ x.byte 3 ≠ 0 → s.entryAnswer r x = some (doneWith 2 0 [])) ∧
        (x.byte 1 = 1 → x.byte 3 = 0 → s.ringFair r = false → s.entryAnswer r x = some (doneWith 3 0 [])) ∧
        (x.byte 1 = 0 → x.byte 3 = 0 → s.entryAnswer r x =
          if rule = .never ∨ (rule = .neverFair ∧ s.ringFair r = true) then none else some (doneWith 3 0 [])) ∧
        (x.byte 1 = 1 → x.byte 3 = 0 → s.ringFair r = true → s.entryAnswer r x =
          if rule = .required ∨ (rule = .pair0 ∧ r = 0) then none else some (doneWith 3 0 [])))) ∧
    (s.mayConsume r = true → s.fwUp = true ∧ s.ringWaiting r ≠ 0 ∧ s.blFailed = false ∧
      (s.ringFair r = true → s.shed < 3) ∧ ∀ y ∈ (s.ring r).opened, y.byte 0 = 0x13 → y.compl ≠ none)

/-- A completion is held in its entry while the firmware is down or the completion ring has no room; else it is written as one 64 B entry
at its slot with the PHASE of the pass, FW_CMDS counts it and no other byte changes. On a Fair-copy pair it waits for every earlier entry
(R51, R502, R504, R507). -/
def Says.Completions : Prop :=
  ∀ (s : State) (r : Nat) (seq : Word) (c : Compl),
    (s.fwUp = false ∨ s.cqRoom r = false → s.complete r seq c = s.modRing r (fun k => { k with opened := k.opened.map (fun e =>
      if e.seq = seq then { e with cmd := none, compl := some c } else e) })) ∧
    (∀ x y, s.ringFair r = true → (s.ring r).opened = [x, y] → x.seq ≠ seq → y.seq = seq → x.compl = none →
      ((s.complete r seq c).ring r).opened = [x, { y with cmd := none, compl := some c }] ∧ (s.complete r seq c).mem = s.mem) ∧
    (∀ x at_ b, s.fwUp = true → s.cqRoom r = true → (s.ring r).opened = [x] → x.seq = seq → s.hdir = [] → Intact s → x.bytes.length = 64 →
      at_ = s.cbf r 8 8 + 64 * ((s.ring r).produced % 2 ^ s.cbf r 17 1) →
      b = leBytes 1 1 ++ leBytes 1 c.status ++ leBytes 1 c.reason ++ leBytes 1 r ++ sliceB x.bytes 4 4 ++ leBytes 8 seq.toNat ++
        leBytes 8 c.csn.toNat ++ padB 32 c.result ++ List.replicate 7 0#8 ++ leBytes 1 (1 - (s.ring r).produced / 2 ^ s.cbf r 17 1 % 2) →
      ((s.complete r seq c).ring r).opened = [] ∧ ((s.complete r seq c).ring r).produced = (s.ring r).produced + 1 ∧
      (s.complete r seq c).reg regFwCmds = s.reg regFwCmds + 1 ∧ (s.complete r seq c).rdN at_ 64 = b ∧
      ∀ a, (a < at_ ∨ at_ + 64 ≤ a) → (s.complete r seq c).rd a = s.rd a)

/-- A watchdog that expires on a working copyist crashes the firmware with cause 1: RESTARTING set, READY cleared, the copyists' contexts
gone, the FWDOWN alert set; the tasks of the clusters, jobs, memory and marks go on untouched (R509, R510). -/
def Says.FirmwareCrash : Prop :=
  ∀ (s : State) (p : Nat),
    (s.workers.contains p = false ∨ s.rbit regFwStatus 0 = false → exec (.fwWatchdogExpire p) s = .next s) ∧
    (s.workers.contains p = true → s.rbit regFwStatus 0 = true → s.rbit regFwStatus 5 = false → ∃ t, exec (.fwWatchdogExpire p) s = .next t ∧
      t.rbit regFwStatus 5 = true ∧ t.rbit regFwStatus 0 = false ∧ t.fw.cause = 1 ∧ t.rbit regFeAlert 4 = true ∧ t.fwUp = false ∧
      (∀ h : Hart, h.core < 128 → t.ctx h = s.ctx h) ∧ (∀ h : Hart, 128 ≤ h.core → t.ctx h = {}) ∧
      t.mem = s.mem ∧ t.jobs = s.jobs ∧ t.marks = s.marks ∧ t.dx = s.dx ∧ t.clu = s.clu ∧ t.rings = s.rings)

/-- A restart that completes posts FW_RESTART with its cause, counts in FW_RESTARTS, starts the working copyists and serves again; the
fourth within 60 s sets CRASHLOOP and reports code 0x20 (R511, R512). An activation goes over to the staged slot (R513). -/
def Says.FirmwareRestarts : Prop :=
  ∀ s : State,
    (s.rbit regFwStatus 5 = false ∨ s.pwHeld = true → exec .fwRestartComplete s = .next s) ∧
    (s.rbit regFwStatus 5 = true → s.pwHeld = false → s.rings = [] → s.folio.waits = none → s.fw.cause ≠ 5 → ∃ t,
      exec .fwRestartComplete s = .next t ∧ t.rbit regFwStatus 5 = false ∧ t.rbit regFwStatus 0 = true ∧
      t.reg regFwRestarts = s.reg regFwRestarts + 1 ∧ t.fw.cause = 0 ∧
      (∃ e, t.events = s.events ++ [e] ∧ e.code = 7 ∧ e.result.take 1 = [BitVec.ofNat 8 s.fw.cause]) ∧
      (∀ h : Hart, h.core < 128 → t.ctx h = s.ctx h) ∧ t.mem = s.mem ∧ t.jobs = s.jobs ∧ t.marks = s.marks ∧
      t.rbit regFwStatus 1 = s.rbit regFwStatus 1 ∧
      (3 ≤ (s.fw.restarts.filter (fun u => decide ((s.time - u).toNat < 60000000000))).length →
        t.rbit regFwStatus 4 = true ∧ t.reports = s.reports ++ [⟨0x20, ⟨6, 0⟩, 0, 0, none, false⟩]) ∧
      ((s.fw.restarts.filter (fun u => decide ((s.time - u).toNat < 60000000000))).length < 3 →
        t.rbit regFwStatus 4 = s.rbit regFwStatus 4 ∧ t.reports = s.reports)) ∧
    (s.rbit regFwStatus 5 = true → s.pwHeld = false → s.rings = [] → s.folio.waits = none → s.fw.cause = 5 → ∀ slot, slot < 2 →
      s.fw.trying = some slot → ∃ t, exec .fwRestartComplete s = .next t ∧ t.rbit regFwStatus 5 = false ∧ t.rbit regFwStatus 0 = true ∧
        t.rbit regFwStatus 1 = (slot == 1) ∧ t.fw.trying = none ∧
        (s.fw.prefDone = false → (s.led 7).count < 128 → (t.led 7).value = [BitVec.ofNat 8 slot] ∧ (t.led 7).count = (s.led 7).count + 1))

/-! ### Host commands (R499 to R505) -/

/-- The header of a host command, its opcode, and whether a tainted job refuses it (R335, R504). -/
def hostCmdOf : Instr → Option (EntryHdr × Nat × Bool)
  | .identify e => some (e, 0x01, false)
  | .ringCreate e _ _ _ _ => some (e, 0x02, false)
  | .ringDelete e _ => some (e, 0x03, false)
  | .jobLoad e _ => some (e, 0x10, true)
  | .jobUnload e => some (e, 0x11, true)
  | .jobStop e => some (e, 0x12, true)
  | .taskSubmit e _ => some (e, 0x13, false)
  | .publish e _ => some (e, 0x14, true)
  | .genHold e => some (e, 0x15, false)
  | .genRelease e _ => some (e, 0x16, false)
  | .stateRead e _ _ _ _ => some (e, 0x17, true)
  | .configWrite e _ _ => some (e, 0x20, false)
  | .ledgerWrite e _ _ _ => some (e, 0x21, false)
  | .ledgerRead e _ _ => some (e, 0x22, false)
  | .logRead e _ _ => some (e, 0x23, false)
  | .attest e _ _ => some (e, 0x24, false)
  | .qpConnect e _ _ => some (e, 0x30, false)
  | .qpReset e _ => some (e, 0x31, false)
  | .ingestCfg e _ _ _ => some (e, 0x32, false)
  | .fwStage e _ _ => some (e, 0x40, false)
  | .fwActivate e _ => some (e, 0x41, false)
  | .debugAttach e => some (e, 0x42, true)
  | .debugDetach e => some (e, 0x42, true)
  | .debugHandSet e _ _ => some (e, 0x42, true)
  | .folioReq e => some (e, 0x43, false)
  | .roleOrderDepart e => some (e, 0x44, false)
  | .roleOrderTakeover e => some (e, 0x44, false)
  | _ => none

/-- The commands that take effect at their commit point with nothing else to wait for. -/
def orderedCmdOf : Instr → Option HostCmd
  | .ringCreate _ p c sq cq => some (.ringCreate p c sq cq)
  | .ringDelete _ p => some (.ringDelete p)
  | .jobUnload e => some (.jobUnload e.job)
  | .jobStop e => some (.jobStop e.job)
  | .configWrite _ off v => some (.configWrite off v)
  | .ledgerWrite _ n v g => some (.ledgerWrite n v g)
  | .qpConnect _ q x => some (.qpConnect q x)
  | .qpReset _ q => some (.qpReset q)
  | .ingestCfg _ r v m => some (.ingestCfg r v m)
  | .fwStage _ slot im => some (.fwStage slot im)
  | .fwActivate _ slot => some (.fwActivate slot)
  | .debugAttach e => some (.debugAttach e.job)
  | .debugDetach e => some (.debugDetach e.job)
  | .debugHandSet e hd v => some (.debugHandSet e.job hd v)
  | .roleOrderDepart _ => some .roleOrderDepart
  | .roleOrderTakeover _ => some .roleOrderTakeover
  | _ => none

/-- An entry stands for a command that may run: its reserved bytes are zero, its job is one, and the job is not tainted where that counts. -/
def Stands (s : State) (i : Instr) (e : EntryHdr) (x : RingEnt) : Prop :=
  ∃ opc taints, hostCmdOf i = some (e, opc, taints) ∧ s.hostEntry e opc = some x ∧ e.zeroOk = true ∧ e.job < 16 ∧
    (taints = true → s.rbit (regMkJobstat e.job) 0 = false)

/-- A host command runs when an entry that the firmware has consumed stands for it, the oldest one of its pair that is not executed; with
none it does nothing. A refused one completes DONE with its reason; a reserved byte that is not zero is FIELD, and a command of a tainted job that may not run
NOT_DONE with TAINT (R335, R504, R505). An ORDERED entry waits until every earlier one of its pair has completed, and shed level 3 holds
every Fair-copy entry (R51, R56, R502). -/
def Says.HostCommandsNeedTheirEntry : Prop :=
  (∀ (i : Instr) (e : EntryHdr) (opc : Nat) (taints : Bool) (s : State), hostCmdOf i = some (e, opc, taints) →
    (s.hostEntry e opc = none → exec i s = .next s) ∧
    ∀ x, s.hostEntry e opc = some x →
      (e.zeroOk = false ∨ 16 ≤ e.job → exec i s = .next (s.refuse e.ring x 2)) ∧
      (e.zeroOk = true → e.job < 16 → taints = true → s.rbit (regMkJobstat e.job) 0 = true →
        exec i s = .next (s.complete e.ring x.seq (notDone 0x12)))) ∧
  (∀ (s : State) (r k : Nat) (x : RingEnt), s.refuse r x k = (s.unstall (128 + r)).complete r x.seq (doneWith k 0 [])) ∧
  ∀ (s : State) (e : EntryHdr) (opc : Nat) (x : RingEnt), s.hostEntry e opc = some x →
    s.fwUp = true ∧ s.blFailed = false ∧ (s.ringFair e.ring = true → s.shed < 3) ∧ x ∈ (s.ring e.ring).opened ∧ x.cmd = none ∧ x.compl = none ∧ x.commit = none ∧
    x.byte 0 = opc ∧ x.byte 2 = e.job ∧ x.byte 1 = (if e.ordered then 1 else 0) ∧
    (e.ordered = true → ∀ pre post, (s.ring e.ring).opened = pre ++ x :: post → (∀ y ∈ pre, y.seq ≠ x.seq) → ∀ y ∈ pre, y.compl ≠ none)

/-- An ordered command is refused for its content, waits while the sequencer takes no commit or one of a lower job stands there, is refused SEQUENCE when the sequence is
exhausted, or reaches its commit point: a CSN is assigned and a kind 3 record made; with a twin the record leaves first and the effect waits
for its acknowledgement, alone the record is written and then the effect and its completion with the CSN (R36 to R38, R40, R503). -/
def Says.OrderedCommands : Prop :=
  ∀ (s : State) (i : Instr) (e : EntryHdr) (x : RingEnt) (c : HostCmd), Stands s i e x → orderedCmdOf i = some c →
    (∀ p, c = .ringDelete p → (s.ring p).opened = []) → ((∃ n v g, c = .ledgerWrite n v g) → 3050 ≤ s.rfld regPwInput 63 48) →
    (s.hostCheck c ≠ 0 → exec i s = .next ((s.hostRefused c).refuse e.ring x (s.hostCheck c))) ∧
    (s.hostCheck c = 0 → s.mayCommit = false ∨ s.orderedTurn e.job = false → exec i s = .next s) ∧
    (s.hostCheck c = 0 → s.mayCommit = true → s.orderedTurn e.job = true →
      (2 ^ 64 - 1 ≤ s.assignedCsn + 1 → x.byte 0 ≠ 0x10 → exec i s =
        .next (((s.underWay e.ring x c).report ⟨0x34, ⟨7, 0⟩, 0, 0, none, false⟩).complete e.ring x.seq (notDone 0x14))) ∧
      (s.assignedCsn + 1 < 2 ^ 64 - 1 → s.hdir = [] → Intact s →
        (s.role ≠ 2 → ∃ u : State, u.assignedCsn = s.assignedCsn + 1 ∧ u.written = (s.written + 1) % 2 ^ 64 ∧
          (s.recordedCsn ≤ s.assignedCsn → u.recordedCsn = s.assignedCsn + 1) ∧
          (s.sets = [] → s.caches = [] → u.regs = s.regs) ∧ u.jobs = s.jobs ∧ u.tables = s.tables ∧ u.marks = s.marks ∧ u.ctxs = s.ctxs ∧
          (∀ a, (a < s.jbase ∨ s.jbase + 64 + 64 * 65536 ≤ a) → u.rd a = s.rd a) ∧
          exec i s = .next ((u.hostEffect c).state.complete e.ring x.seq
            (doneWith (u.hostEffect c).reason (BitVec.ofNat 64 (s.assignedCsn + 1)) (u.hostEffect c).result))) ∧
        (s.role = 2 → ∃ t, exec i s = .next t ∧ t.assignedCsn = s.assignedCsn + 1 ∧ t.recordedCsn = s.recordedCsn ∧
          t.jobs = s.jobs ∧ t.tables = s.tables ∧ t.marks = s.marks ∧ t.ctxs = s.ctxs ∧
          ∃ z ∈ (t.ring e.ring).opened, z.seq = x.seq ∧ z.bytes = x.bytes ∧ z.cmd = some c ∧ z.compl = none ∧
            ∃ k, z.commit = some k ∧ k.csn = BitVec.ofNat 64 (s.assignedCsn + 1) ∧ k.kind = 3 ∧ k.subject = x.seq ∧ k.ring = e.ring)))

/-- What R504 asks of the fields of an ordered command: FIELD for one out of range, STATE where the pair, the job, the queue pair or the slot
does not allow it, BUSY for a stage that meets the manager's update, AUTH for a slot that fails its checks; CONFIG_WRITE takes only the
listed registers, and STATE where their block does not answer. -/
def Says.OrderedCommandChecks : Prop :=
  ∀ s : State,
    (∀ p cls sq cq, s.hostCheck (.ringCreate p cls sq cq) =
      if 1 ≤ p ∧ p ≤ 63 ∧ cls ≤ 1 ∧ 6 ≤ sq ∧ sq ≤ 12 ∧ sq ≤ cq ∧ cq ≤ 14 then (if (s.ring p).created then 7 else 0) else 2) ∧
    (∀ p, s.hostCheck (.ringDelete p) = if 1 ≤ p ∧ p ≤ 63 then (if (s.ring p).created then 0 else 7) else 2) ∧
    (∀ j, s.hostCheck (.jobUnload j) = if (s.job j).loaded then 0 else 7) ∧
    (∀ j, s.hostCheck (.jobStop j) = if (s.job j).loaded ∧ (s.job j).stopped = false ∧ (s.job j).lost = false then 0 else 7) ∧
    (∀ off v, s.hostCheck (.configWrite off v) = if off ∈ configOffsets then (if s.offAnswers off then 0 else 7) else 2) ∧
    (∀ q x, q < 1024 → x.length = 256 → s.rbit regEnQptab 0 = true → s.hostCheck (.qpConnect q x) = if s.qpValid q then 7 else 0) ∧
    (∀ q, q < 1024 → s.rbit regEnQptab 0 = true → s.hostCheck (.qpReset q) = if s.qpValid q then 0 else 7) ∧
    (∀ r v m, s.hostCheck (.ingestCfg r v m) = if r < 64 then 0 else 2) ∧
    (∀ slot im, slot < 2 → s.hostCheck (.fwStage slot im) = if s.mgr.upd.isSome then 4 else
      if (slot = 1 ↔ s.rbit regFwStatus 1 = true) ∨ s.joined 175 = false then 7 else 0) ∧
    (∀ slot, slot < 2 → s.hostCheck (.fwActivate slot) = if (slot = 1 ↔ s.rbit regFwStatus 1 = true) then 7 else
      if s.imageFail (s.slotImage slot) = 0 then 0 else 6) ∧
    (∀ j hd v, (s.job j).loaded = true → s.handle j hd ≠ none →
      s.hostCheck (.debugHandSet j hd v) = if (s.job j).debug then 0 else 7)

/-- The effects of the ordered commands on rings, jobs and registers (R499, R504): a pair created stands at its addresses with its sizes and
class; one deleted is gone with the generations it held; a job unloaded is gone with its tables, pages and translations; a job stopped is
stopped with the event of a TRAP; a configuration write is the register write, and answers what reads back. -/
def Says.OrderedEffectsOnRingsAndJobs : Prop :=
  (∀ (s : State) (p cls sq cq : Nat), p < 64 → sq ≤ 12 → cq ≤ 14 → s.rbit regLnVistab 0 = false → s.hdir = [] → Intact s →
    ∃ t, s.hostEffect (.ringCreate p cls sq cq) = ⟨t, 0, leBytes 8 (ringCb p)⟩ ∧
      t.ring p = { created := true, cb := ringCb p } ∧ t.cbf p 0 8 = ringSq p ∧ t.cbf p 8 8 = ringCq p ∧ t.cbf p 16 1 = sq ∧
      t.cbf p 17 1 = cq ∧ t.ringFair p = (cls == 1) ∧ t.cbf p 24 4 = 0 ∧ t.cbf p 32 4 = 0 ∧ t.cbf p 40 8 = 0 ∧
      (∀ q, q ≠ p → t.ring q = s.ring q) ∧
      ∀ a, (a < ringCb p ∨ ringCb p + 64 ≤ a) → (a < ringCq p ∨ ringCq p + 64 * 2 ^ cq ≤ a) → t.rd a = s.rd a) ∧
  (∀ (s : State) (p : Nat), ∃ t, s.hostEffect (.ringDelete p) = ⟨t, 0, []⟩ ∧ t.ring p = {} ∧ (∀ q, q ≠ p → t.ring q = s.ring q) ∧
    ∀ h, h ∈ t.holds ↔ h ∈ s.holds ∧ h.ring ≠ p) ∧
  (∀ (s : State) (j : Nat), ∃ t, s.hostEffect (.jobUnload j) = ⟨t, 0, []⟩ ∧ t.job j = {} ∧ (∀ h ∈ t.holds, h.job ≠ j) ∧
    (∀ x ∈ t.tables, x.1 / 4096 ≠ j) ∧ (∀ x ∈ t.tlb, x.job ≠ j)) ∧
  (∀ (s : State) (j : Nat), ∃ t, s.hostEffect (.jobStop j) = ⟨t, 0, []⟩ ∧ (t.job j).stopped = true ∧
    ∃ v, t.events = v ++ [⟨2, j, 0, 0, resultBytes [(0, [7#8]), (8, List.replicate 8 0#8), (16, List.replicate 8 0#8)]⟩]) ∧
  ∀ (s : State) (off : Nat) (v : Word), s.hostEffect (.configWrite off v) =
    ⟨s.regWrite off 8 v, 0, leBytes 8 ((s.regWrite off 8 v).regRead off).toNat⟩

/-- The effects of the ordered commands on the ports, the Ledger, flash and debugging (R334, R435, R439, R440, R447, R504, R513, R515). -/
def Says.OrderedEffectsElsewhere : Prop :=
  (∀ (s : State) (n : Nat) (v g : List Byte), s.ledCheck n 1 v g = .ok → ∃ t, s.hostEffect (.ledgerWrite n v g) =
    ⟨t, 0, leBytes 4 ((s.led n).count + 1)⟩ ∧ (t.led n).value = v ∧ (t.led n).count = (s.led n).count + 1 ∧ t.mem = s.mem) ∧
  (∀ (s : State) (q : Nat) (x : List Byte), x.length = 256 → s.hdir = [] → Intact s → ∃ t, s.hostEffect (.qpConnect q x) = ⟨t, 0, []⟩ ∧
    t.rdN (s.qpBase q) 256 = x ∧ t.qpRt q = {} ∧ ∀ a, (a < s.qpBase q ∨ s.qpBase q + 256 ≤ a) → t.rd a = s.rd a) ∧
  (∀ (s : State) (q : Nat), s.hdir = [] → Intact s → ∃ t, s.hostEffect (.qpReset q) = ⟨t, 0, []⟩ ∧
    t.rdN (s.qpBase q) 256 = List.replicate 256 0#8 ∧ t.qpRt q = {} ∧ ∀ a, (a < s.qpBase q ∨ s.qpBase q + 256 ≤ a) → t.rd a = s.rd a) ∧
  (∀ (s : State) (r : Nat) (v m : Word), ∃ t, s.hostEffect (.ingestCfg r v m) = ⟨t, 0, []⟩ ∧ t = (s.enIngmkWrite r m).enIngWrite r v) ∧
  (∀ (s : State) (slot : Nat) (im : FwImage), slot < 2 → ∃ t, s.hostEffect (.fwStage slot im) =
    ⟨t, if s.imageFail (some im) = 0 then 0 else 6, []⟩ ∧ t.slotImage slot = some im ∧ t.slotImage (1 - slot) = s.slotImage (1 - slot) ∧
    t.mem = s.mem ∧ t.regs = s.regs ∧ t.ctxs = s.ctxs) ∧
  (∀ (s : State) (slot : Nat) (im : FwImage), s.slotImage slot = some im → ∃ t, s.hostEffect (.fwActivate slot) =
    ⟨t, 0, leBytes 4 im.svn.toNat⟩ ∧ t.rbit regFwStatus 5 = true ∧ t.rbit regFwStatus 0 = false ∧ t.fw.cause = 5 ∧ t.fw.trying = some slot ∧
    (∀ h : Hart, h.core < 128 → t.ctx h = s.ctx h) ∧ t.mem = s.mem ∧ t.jobs = s.jobs) ∧
  (∀ (s : State) (j : Nat), ∃ t, s.hostEffect (.debugAttach j) = ⟨t, 0, []⟩ ∧ (t.job j).debug = true ∧ t.ctxs = s.ctxs ∧
    ∀ k, k ≠ j → t.job k = s.job k) ∧
  (∀ (s : State) (j : Nat), ∃ t, s.hostEffect (.debugDetach j) = ⟨t, 0, []⟩ ∧ (t.job j).debug = false ∧ (∀ k, k ≠ j → t.job k = s.job k)) ∧
  (∀ (s : State) (j hd n : Nat) (w : Bool) (v : BitVec 32), s.handle j hd = some (n, w) → (s.job j).debug = true → (s.job j).loaded = true →
    s.markMapped n = true → s.markJob n = j → ∃ t, s.hostEffect (.debugHandSet j hd v) = ⟨t, 0, []⟩ ∧
      t = ((s.bump regMkHandset).setRbit (regMkJobstat j) 0 true).applyMark n (.set v.toNat)) ∧
  ∀ s : State, s.hostEffect .roleOrderDepart = ⟨s.orderWrite 1, 0, []⟩ ∧ s.hostEffect .roleOrderTakeover = ⟨s.orderWrite 2, 0, []⟩

/-- IDENTIFY, LEDGER_READ, LOG_READ, ATTEST and FOLIO_REQ complete with their results (R498, R504, R517): DEVICE_SEED is never read, a value
above 32 B goes to its buffer, and a missing buffer, or one that meets a hole (log 78), is FIELD. -/
def Says.ReadingCommands : Prop :=
  (∀ (s : State) (e : EntryHdr) (x : RingEnt), Stands s (.identify e) e x → exec (.identify e) s = .next (s.complete e.ring x.seq (doneWith 0 0
    (padB 16 [71#8, 76#8, 84#8, 45#8, 57#8, 54#8, 48#8, 45#8, 49#8, 84#8] ++ (s.identity.drop 16).take 8 ++ leBytes 8 s.fw.version.toNat)))) ∧
  (∀ (s : State) (e : EntryHdr) (x : RingEnt) (n buf : Nat), Stands s (.ledgerRead e n buf) e x →
    (n = 0 ∨ n = 2 ∨ 10 < n → exec (.ledgerRead e n buf) s = .next (s.refuse e.ring x 2)) ∧
    (n ≠ 0 → n ≠ 2 → n ≤ 10 → (s.led n).value.length ≤ 32 →
      exec (.ledgerRead e n buf) s = .next (s.complete e.ring x.seq (doneWith 0 0 (s.led n).value))) ∧
    (n ≠ 0 → n ≠ 2 → n ≤ 10 → 32 < (s.led n).value.length → buf = 0 ∨ bufOk buf (s.led n).value.length = false →
      exec (.ledgerRead e n buf) s = .next (s.refuse e.ring x 2)) ∧
    (n ≠ 0 → n ≠ 2 → n ≤ 10 → 32 < (s.led n).value.length → buf ≠ 0 → bufOk buf (s.led n).value.length = true → s.hdir = [] → Intact s → ∃ t : State, t.rdN buf (s.led n).value.length = (s.led n).value ∧
      (∀ a, (a < buf ∨ buf + (s.led n).value.length ≤ a) → t.rd a = s.rd a) ∧
      exec (.ledgerRead e n buf) s = .next (t.complete e.ring x.seq (doneWith 0 0 [])))) ∧
  (∀ (s : State) (e : EntryHdr) (x : RingEnt) (nonce : List Byte) (buf : Nat), Stands s (.logRead e nonce buf) e x →
    (buf = 0 ∨ bufOk buf (64 * s.logCount + 2420) = false → exec (.logRead e nonce buf) s = .next (s.refuse e.ring x 2)) ∧
    (buf ≠ 0 → bufOk buf (64 * s.logCount + 2420) = true → s.hdir = [] → ∃ t : State, t.rdN buf (s.logRead nonce).length = s.logRead nonce ∧
      exec (.logRead e nonce buf) s = .next (t.complete e.ring x.seq (doneWith 0 0 (leBytes 4 s.logCount))))) ∧
  (∀ (s : State) (e : EntryHdr) (x : RingEnt) (nonce : List Byte) (buf : Nat), Stands s (.attest e nonce buf) e x → buf ≠ 0 → bufOk buf 2804 = true →
    s.hdir = [] → ∃ t : State, t.rdN buf 2804 = s.attest nonce ∧ t.reg regFeAttest = s.reg regFeAttest + 1 ∧
      exec (.attest e nonce buf) s = .next (t.complete e.ring x.seq (doneWith 0 0 (leBytes 4 2804)))) ∧
  ∀ (s : State) (e : EntryHdr) (x : RingEnt), Stands s (.folioReq e) e x →
    exec (.folioReq e) s = .next ((s.orderWrite 4).complete e.ring x.seq (doneWith 0 0 []))

/-- TASK_SUBMIT of a job that does not run is STATE, a descriptor that R299 would refuse FIELD; one the device queue can take enters it with
its task number as the result, and one it cannot take waits, its pair's stall counted once (R295, R304). -/
def Says.TasksAreSubmitted : Prop :=
  ∀ (s : State) (e : EntryHdr) (x : RingEnt) (d : List Byte), Stands s (.taskSubmit e d) e x → d.length = 32 →
    (s.jobRuns e.job = false → exec (.taskSubmit e d) s = .next (s.refuse e.ring x 7)) ∧
    (s.jobRuns e.job = true → taskDescOk (padB 64 d) = false → exec (.taskSubmit e d) s = .next (s.refuse e.ring x 2)) ∧
    (s.jobRuns e.job = true → taskDescOk (padB 64 d) = true →
      (∀ k, k = taskOf (padB 64 d) e.job (smapGet (fun _ => 0) s.dx.nextNum e.job) 0 none none (128 + e.ring) →
        s.dx.room k.fair = true → ∃ t : State, t.dx.devq = s.dx.devq ++ [k] ∧ t.mem = s.mem ∧ t.regs = s.regs ∧
          smapGet (fun _ => 0) t.dx.nextNum e.job = (k.num + 1) % 2 ^ 32 ∧ 128 + e.ring ∉ t.dx.stalled ∧
          exec (.taskSubmit e d) s = .next (t.complete e.ring x.seq (doneWith 0 0 (leBytes 4 k.num)))) ∧
      (s.dx.room ((wordAt d 8).toNat.testBit 63) = false → ((wordAt d 8).toNat.testBit 63 = true ∨ s.rbit regDxSpill 0 = false) → ∃ t,
        exec (.taskSubmit e d) s = .next t ∧ t.ring e.ring = s.ring e.ring ∧ t.dx.devq = s.dx.devq ∧ 128 + e.ring ∈ t.dx.stalled ∧
        (128 + e.ring ∉ s.dx.stalled → t.reg regDxStall = s.reg regDxStall + 1)))

/-- GEN_HOLD holds the job's current generation, at most 16 a pair; GEN_RELEASE gives up one that the pair holds (R292, R504). PUBLISH checks
its list and the staging editions that it names and enters the job's publication queue (R287). -/
def Says.GenerationsAndPublications : Prop :=
  (∀ (s : State) (e : EntryHdr) (x : RingEnt), Stands s (.genHold e) e x →
    ((s.job e.job).loaded = false ∨ 16 ≤ (s.holds.filter (fun h => h.ring == e.ring)).length →
      exec (.genHold e) s = .next (s.refuse e.ring x 7)) ∧
    ((s.job e.job).loaded = true → (s.holds.filter (fun h => h.ring == e.ring)).length < 16 → exec (.genHold e) s =
      .next (({ s with holds := s.holds ++ [⟨e.job, (s.reg (regNbEdgen e.job)).toNat, e.ring⟩] } : State).complete e.ring x.seq
        (doneWith 0 0 (leBytes 8 (s.reg (regNbEdgen e.job)).toNat))))) ∧
  (∀ (s : State) (e : EntryHdr) (x : RingEnt) (g : Nat), Stands s (.genRelease e g) e x →
    (⟨e.job, g, e.ring⟩ ∉ s.holds → exec (.genRelease e g) s = .next (s.refuse e.ring x 7)) ∧
    (⟨e.job, g, e.ring⟩ ∈ s.holds → exec (.genRelease e g) s =
      .next ((({ s with holds := s.holds.erase ⟨e.job, g, e.ring⟩ } : State).reclaim e.job).complete e.ring x.seq (doneWith 0 0 [])))) ∧
  ∀ (s : State) (e : EntryHdr) (x : RingEnt) (buf : Nat), Stands s (.publish e buf) e x →
    (s.jobRuns e.job = false → exec (.publish e buf) s = .next (s.refuse e.ring x 7)) ∧
    (s.jobRuns e.job = true → bufOk buf 16 = false ∨ parseList (s.rdN buf 144) = none → exec (.publish e buf) s = .next (s.refuse e.ring x 2)) ∧
    ∀ ts, s.jobRuns e.job = true → bufOk buf 16 = true → parseList (s.rdN buf 144) = some ts → bufOk buf (16 + 2 * ts.length) = true →
      (s.stageStep e.job ts = none → exec (.publish e buf) s = .next (s.refuse e.ring x 7)) ∧
      ∀ w, s.stageStep e.job ts = some w → ∃ t, exec (.publish e buf) s = .next t ∧
        t.pubq = s.pubq ++ [⟨e.job, ts, w, buf + 8, some (e.ring, x.seq.toNat), none, false⟩] ∧ t.mem = s.mem ∧ t.regs = s.regs ∧
        ∀ y ∈ (t.ring e.ring).opened, y.seq = x.seq → y.cmd = some (.publish e.job buf)

/-- JOB_LOAD refuses a job that is loaded, and an image that does not fit; else the job stands as its image says, not yet loaded, its entry
under way, and a forced folio is asked for (R410, R416, R504). STATE_READ waits in its entry for the job's step boundary (R63, R301).
RING_DELETE waits for the entries of its pair. LEDGER_WRITE waits for the island's power (R486). -/
def Says.WaitingCommands : Prop :=
  (∀ (s : State) (e : EntryHdr) (x : RingEnt) (im : JobImage), Stands s (.jobLoad e im) e x →
    ((s.job e.job).loaded = true ∨ (s.job e.job).loading = true → exec (.jobLoad e im) s = .next (s.refuse e.ring x 7)) ∧
    (s.loadRefused e.job im = 0 → ∃ t : State, exec (.jobLoad e im) s = .next (t.requestFolio true) ∧ (t.job e.job).loading = true ∧
      (t.job e.job).loaded = false ∧ (t.job e.job).captured = im.captured ∧ (t.job e.job).image = leBytes 32 im.hash.toNat ∧
      ∀ y ∈ (t.ring e.ring).opened, y.seq = x.seq → y.cmd = some (.jobLoad e.job im))) ∧
  (∀ (s : State) (e : EntryHdr) (x : RingEnt) (n first rows buf : Nat), Stands s (.stateRead e n first rows buf) e x →
    ((s.job e.job).loaded = false → exec (.stateRead e n first rows buf) s = .next (s.refuse e.ring x 7)) ∧
    (∀ d, (s.job e.job).loaded = true → n < 4096 → s.desc e.job n = some d →
      (d.rows < first + rows ∨ bufOk buf (rows * (if d.kind = 1 then 64 else d.rb)) = false → exec (.stateRead e n first rows buf) s = .next (s.refuse e.ring x 2)) ∧
      (first + rows ≤ d.rows → bufOk buf (rows * (if d.kind = 1 then 64 else d.rb)) = true → ∃ t, exec (.stateRead e n first rows buf) s = .next t ∧ t.mem = s.mem ∧ t.regs = s.regs ∧
        ∀ y ∈ (t.ring e.ring).opened, y.seq = x.seq → y.cmd = some (.stateRead e.job n first rows buf)))) ∧
  (∀ (s : State) (e : EntryHdr) (x : RingEnt) (p : Nat), Stands s (.ringDelete e p) e x → s.hostCheck (.ringDelete p) = 0 →
    (s.ring p).opened ≠ [] → exec (.ringDelete e p) s = .next (s.modRing p (fun k => { k with deleting := true }))) ∧
  ∀ (s : State) (e : EntryHdr) (x : RingEnt) (n : Nat) (v g : List Byte), Stands s (.ledgerWrite e n v g) e x →
    s.rfld regPwInput 63 48 < 3050 → exec (.ledgerWrite e n v g) s = .next s

/-! ### The Ledger (R15, R514 to R517) -/

/-- A Ledger write is checked for its path and size, its value, its count and its signature, in this order; the first that fails refuses it,
sets only its own bit and leaves value, count and log; an accepted write stores value, count and one log record chained to the last, posts the
LEDGER event and counts. -/
def Obligations.LedgerWrites : Prop :=
  (∀ (s : State) (n w : Nat) (v g : List Byte),
    (ledPath n w = false ∨ v.length ≠ ledSize n → s.ledCheck n w v g = .path) ∧
    (ledPath n w = true → v.length = ledSize n →
      (n = 5 → shedOk (leWord v) = false → s.ledCheck n w v g = .value) ∧
      (n = 6 → leNat v < s.ledNum 6 → s.ledCheck n w v g = .value) ∧
      ((n = 5 → shedOk (leWord v) = true) → (n = 6 → s.ledNum 6 ≤ leNat v) →
        (ledLimit n ≤ (s.led n).count → s.ledCheck n w v g = .limit) ∧
        ((s.led n).count < ledLimit n →
          (s.ledNum 3 = 0 ∨ w = 3 → s.ledCheck n w v g = .ok) ∧
          (s.ledNum 3 ≠ 0 → w ≠ 3 → n = 3 ∨ n = 9 ∨ (4 ≤ n ∧ n ≤ 8 ∧ (s.ledNum 9).testBit 0 = true) → s.ledCheck n w v g =
            if Config.signatureOk (leBytes 1 n ++ v ++ leBytes 4 (s.led n).count) g then .ok else .auth))))) ∧
  (∀ (s : State) (n w : Nat) (v g : List Byte), s.ledCheck n w v g ≠ .ok → ∃ t, s.ledWrite n w v g = (s.ledCheck n w v g, t) ∧
    t.ledger = s.ledger ∧ t.ledlog = s.ledlog ∧ t.reg regLdRefused = s.reg regLdRefused + 1 ∧ t.mem = s.mem ∧
    t.rbit regLdStatus 0 = (s.rbit regLdStatus 0 || decide (s.ledCheck n w v g = .limit)) ∧
    t.rbit regLdStatus 1 = (s.rbit regLdStatus 1 || decide (s.ledCheck n w v g = .auth))) ∧
  ∀ (s : State) (n w : Nat) (v g : List Byte), s.ledCheck n w v g = .ok → ∃ t r, s.ledWrite n w v g = (.ok, t) ∧
    t.led n = ⟨v, (s.led n).count + 1⟩ ∧ (∀ k, k ≠ n → t.led k = s.led k) ∧ t.ledlog = s.ledlog ++ [r] ∧ r.seq = 2 + s.ledlog.length ∧
    r.entry = n ∧ r.writer = w ∧ r.count = (s.led n).count + 1 ∧ r.time = s.time ∧ r.value = (sha3 v).take 16 ∧
    r.chain = sha3 (s.lastChain ++ r.head) ∧ t.reg regLdWrites = s.reg regLdWrites + 1 ∧ t.meas 6 = sha3 (s.meas 6 ++ r.bytes) ∧ t.mem = s.mem ∧
    t.events = s.events ++ [⟨8, 0, 0, 0, resultBytes [(0, leBytes 1 n), (8, leBytes 4 ((s.led n).count + 1)), (16, leBytes 2 r.seq)]⟩] ∧
    (n = 5 → t.reg regPwShedthr = leWord v &&& 0x0003FFFFFFFFFFFF#64)

/-! ### The management port (R518 to R528) -/

/-- The rows of the management port that the island answers. -/
def isPortRow : Instr → Bool
  | .mctpPacket _ | .mctpReassemblyTimeout _ | .regRead _ | .regWrite _ _ | .mgmtLedgerRead _ | .mgmtLedgerWrite _ _ _ | .mgmtLogRead _
  | .blogRead _ _ | .entdaa _ | .setdasa _ _ | .rstdaa | .enec | .disec | .getpid | .getbcr | .getdcr | .getmwl | .getmrl | .getstatus
  | .setEndpointId _ | .getEndpointId | .getEndpointUuid | .getMctpVersionSupport | .getMessageTypeSupport | .getVendorMessageSupport
  | .gettid | .settid _ | .getpldmversion _ | .getpldmtypes | .getpldmcommands _ | .getpdrrepositoryinfo | .getpdr _
  | .getsensorreading _ | .getstatesensorreadings _ | .requestupdate _ | .requestfirmwaredata _ _ | .activatefirmware | .cancelupdate
  | .updateDataTimeout | .getVersion | .getCapabilities | .negotiateAlgorithms | .getDigests | .getCertificate _ | .getMeasurements _
  | .feOrderWarm => true
  | _ => false

/-- The port answers once the island has started, in every state but a brown-out: before that no row of the port does anything (R518).
An answer leaves on the bus, its request is no longer held, and nothing else changes (R520). -/
def Says.ThePort : Prop :=
  (∀ (i : Instr) (s : State), isPortRow i = true → s.mgrUp = false → exec i s = .next s) ∧
  (∀ s : State, s.mgrUp = true ↔ ¬ (s.power.full = true ∧ s.pwHeld = false)) ∧
  ∀ (s : State) (ty cmd : Nat) (l : List Nat) (d : List Byte), s.answer ty cmd l d =
    { s with out := ⟨.mctp, 256 * ty + cmd, l, d⟩ :: s.out, mgr := { s.mgr with held := s.mgr.held - 1 } }

/-- A packet with a bad PEC, with more than 64 B or out of sequence is dropped and counted in FE_MCTP_ERR; one message a tag is put together;
a whole message of a supported type is counted in FE_MCTP_RX and held, the fifth is answered with an error, and a message that stays
incomplete for 100 ms is discarded (R520). -/
def Says.PacketsMakeMessages : Prop :=
  ∀ (s : State) (p : MctpPacket), s.mgrUp = true →
    (p.pecOk = false ∨ 64 < p.bytes.length → ∃ t, exec (.mctpPacket p) s = .next t ∧ t.reg regFeMctpErr = s.reg regFeMctpErr + 1 ∧
      t.mgr = { s.mgr with protErr := true } ∧ t.mem = s.mem ∧ t.out = s.out) ∧
    (p.pecOk = true → p.bytes.length ≤ 64 → p.som = false →
      (∀ a, s.asmOf p.tag = some a → a.next = p.seq.toNat → p.eom = false → ∃ t, exec (.mctpPacket p) s = .next t ∧ t.regs = s.regs ∧
        t.asmOf p.tag = some { a with next := (a.next + 1) % 4, bytes := a.bytes ++ p.bytes } ∧ t.mgr.held = s.mgr.held) ∧
      ((∀ a, s.asmOf p.tag = some a → a.next ≠ p.seq.toNat) → ∃ t, exec (.mctpPacket p) s = .next t ∧
        t.reg regFeMctpErr = s.reg regFeMctpErr + 1 ∧ t.mgr = { s.mgr with protErr := true } ∧ t.mem = s.mem)) ∧
    (p.pecOk = true → p.bytes.length ≤ 64 → p.som = true → s.asmOf p.tag = none →
      (p.eom = false → ∃ t, exec (.mctpPacket p) s = .next t ∧ t.regs = s.regs ∧
        t.asmOf p.tag = some ⟨p.tag, (p.seq.toNat + 1) % 4, p.ty, p.bytes⟩) ∧
      (p.eom = true → p.ty ∈ [0x00, 0x01, 0x05, 0x7F] → ∃ t, exec (.mctpPacket p) s = .next t ∧ t.reg regFeMctpRx = s.reg regFeMctpRx + 1 ∧
        t.asmOf p.tag = none ∧ t.mem = s.mem ∧ (s.mgr.held < 4 → t.mgr.held = s.mgr.held + 1 ∧ t.out = s.out) ∧
        (4 ≤ s.mgr.held → t.mgr.held = s.mgr.held ∧ t.out = ⟨.mctp, 256 * p.ty, [1], []⟩ :: s.out)) ∧
      (p.eom = true → p.ty ∉ [0x00, 0x01, 0x05, 0x7F] → ∃ t, exec (.mctpPacket p) s = .next t ∧
        t.reg regFeMctpErr = s.reg regFeMctpErr + 1 ∧ t.mgr.held = s.mgr.held)) ∧
    ∀ tag, (s.asmOf tag = none → exec (.mctpReassemblyTimeout tag) s = .next s) ∧
      (s.asmOf tag ≠ none → ∃ t, exec (.mctpReassemblyTimeout tag) s = .next t ∧ t.asmOf tag = none ∧
        t.reg regFeMctpErr = s.reg regFeMctpErr + 1 ∧ t.mgr.held = s.mgr.held ∧ t.mem = s.mem)

/-- REG_READ answers any register of a block that is joined, and UNAVAILABLE for one that is not, or of a copyist held in reset; REG_WRITE is
accepted at five registers only, every other offset is REFUSED with nothing written; the answer carries what then reads (R521, R522). -/
def Says.PortRegisters : Prop :=
  ∀ (s : State) (off : Nat) (v : Word), s.mgrUp = true →
    (off % 8 ≠ 0 → exec (.regRead off) s = .next (s.answer 0x7F 1 [1, 0] [])) ∧
    (off % 8 = 0 → s.portReaches off = false → exec (.regRead off) s = .next (s.answer 0x7F 1 [2, 0] [])) ∧
    (off % 8 = 0 → s.portReaches off = true → off < 0x3071000 ∨ 0x3075000 ≤ off →
      exec (.regRead off) s = .next (s.answer 0x7F 1 [0, (s.regRead off).toNat] [])) ∧
    (off ∉ [0x3070010, 0x3070008, 0x3060040, 0xF020008, 0xF020018] →
      exec (.regWrite off v) s = .next (s.answer 0x7F 2 [1, 0] [])) ∧
    (off ∈ [0x3070010, 0x3070008, 0x3060040, 0xF020018] →
      (s.portReaches off = false → exec (.regWrite off v) s = .next (s.answer 0x7F 2 [2, 0] [])) ∧
      (s.portReaches off = true → ∃ t, t = (s.bump regFeWrites).regWrite off 8 v ∧
        exec (.regWrite off v) s = .next (t.answer 0x7F 2 [0, (t.regRead off).toNat] []))) ∧
    (∃ t, t = (if v.getLsbD 0 then (s.bump regFeWrites).feOrderWarm else s.bump regFeWrites) ∧
      exec (.regWrite 0xF020008 v) s = .next (t.answer 0x7F 2 [0, (t.regRead 0xF020008).toNat] []))

/-- The port reads every Ledger entry but DEVICE_SEED, writes as one writer among others with the outcome of R516 as its completion code, and
returns the log signed over its nonce; BLOG_READ returns at most four records that the log still holds (R514 to R517, R521). -/
def Says.PortLedger : Prop :=
  ∀ (s : State) (n : Nat) (v g : List Byte), s.mgrUp = true →
    (n = 0 ∨ n = 2 ∨ 10 < n → exec (.mgmtLedgerRead n) s = .next (s.answer 0x7F 3 [1] [])) ∧
    (n ≠ 0 → n ≠ 2 → n ≤ 10 → exec (.mgmtLedgerRead n) s = .next (s.answer 0x7F 3 [0] (s.led n).value)) ∧
    (s.rfld regPwInput 63 48 < 3050 → exec (.mgmtLedgerWrite n v g) s = .next s) ∧
    (3050 ≤ s.rfld regPwInput 63 48 →
      (s.ledCheck n 2 v g ≠ .ok → ∃ t c, s.ledWrite n 2 v g = (s.ledCheck n 2 v g, t) ∧ t.ledger = s.ledger ∧
        (s.ledCheck n 2 v g = .path ∨ s.ledCheck n 2 v g = .value → c = 1) ∧ (s.ledCheck n 2 v g = .limit → c = 3) ∧
        (s.ledCheck n 2 v g = .auth → c = 4) ∧
        exec (.mgmtLedgerWrite n v g) s = .next (t.answer 0x7F 4 [c, (s.led n).count] [])) ∧
      (s.ledCheck n 2 v g = .ok → n ≠ 8 → ∃ t, t.led n = ⟨v, (s.led n).count + 1⟩ ∧ s.ledWrite n 2 v g = (.ok, t) ∧
        exec (.mgmtLedgerWrite n v g) s = .next (t.answer 0x7F 4 [0, (s.led n).count + 1] [])) ∧
      (s.ledCheck 8 2 v g = .ok → ∃ t : State, t.led 8 = ⟨v, (s.led 8).count + 1⟩ ∧
        ((v.getD 0 0#8).toNat % 128 ≠ 0 → t.rfld regFeStatus 8 2 = (v.getD 0 0#8).toNat % 128) ∧
        ((v.getD 1 0#8).toNat ≠ 0 → t.rfld regFeStatus 23 16 = (v.getD 1 0#8).toNat) ∧
        exec (.mgmtLedgerWrite 8 v g) s = .next (t.answer 0x7F 4 [0, (s.led 8).count + 1] []))) ∧
    exec (.mgmtLogRead v) s = .next (s.answer 0x7F 5 [0, s.logCount] (s.logRead v)) ∧
    (s.joined 167 = false → ∀ a b, exec (.blogRead a b) s = .next (s.answer 0x7F 6 [2] [])) ∧
    (s.joined 167 = true → ∀ a b, ∃ t, exec (.blogRead a b) s = .next t ∧ t.regs = s.regs ∧ t.mem = s.mem ∧
      ∃ k d, k ≤ 4 ∧ k ≤ b ∧ d.length = 64 * k ∧ t.out = ⟨.mctp, 256 * 0x7F + 6, [0, k], d⟩ :: s.out)

/-- The port takes a dynamic address by ENTDAA when it has neither a static nor a dynamic one, by SETDASA at its static address, and gives it
up by RSTDAA; ENEC and DISEC allow and forbid in-band interrupts; the other codes answer what they name (R519, R528). -/
def Says.BusCommands : Prop :=
  ∀ (s : State) (a b : Nat), s.mgrUp = true → a < 128 →
    (s.mgmtAddr 0 % 128 ≠ 0 ∨ s.rfld regFeStatus 8 2 ≠ 0 → exec (.entdaa a) s = .next s) ∧
    (s.mgmtAddr 0 % 128 = 0 → s.rfld regFeStatus 8 2 = 0 → ∃ t, exec (.entdaa a) s = .next t ∧ t.rfld regFeStatus 8 2 = a ∧
      t.out = ⟨.i3c, 0x07, [s.provId, Config.i3cBcr, Config.i3cDcr], []⟩ :: s.out ∧ t.mem = s.mem) ∧
    (b ≠ 0 → s.mgmtAddr 0 % 128 = b → ∃ t, exec (.setdasa b a) s = .next t ∧ t.rfld regFeStatus 8 2 = a ∧ t.mem = s.mem ∧ t.out = s.out) ∧
    (b = 0 ∨ s.mgmtAddr 0 % 128 ≠ b → exec (.setdasa b a) s = .next s) ∧
    (∃ t, exec .rstdaa s = .next t ∧ t.rfld regFeStatus 8 2 = s.mgmtAddr 0 % 128 ∧ t.mem = s.mem ∧ t.out = s.out) ∧
    exec .enec s = .next { s with mgr := { s.mgr with ibi := true } } ∧ exec .disec s = .next { s with mgr := { s.mgr with ibi := false } } ∧
    exec .getpid s = .next { s with out := ⟨.i3c, 0x8D, [s.provId], []⟩ :: s.out } ∧
    exec .getbcr s = .next { s with out := ⟨.i3c, 0x8E, [Config.i3cBcr], []⟩ :: s.out } ∧
    exec .getdcr s = .next { s with out := ⟨.i3c, 0x8F, [Config.i3cDcr], []⟩ :: s.out } ∧
    exec .getmwl s = .next { s with out := ⟨.i3c, 0x8B, [69], []⟩ :: s.out } ∧
    exec .getmrl s = .next { s with out := ⟨.i3c, 0x8C, [69], []⟩ :: s.out } ∧
    ∃ t, exec .getstatus s = .next t ∧ t.mgr = { s.mgr with protErr := false } ∧ t.regs = s.regs ∧
      t.out = ⟨.i3c, 0x90, [if s.mgr.protErr then 32 else 0], []⟩ :: s.out

/-- MCTP control (R520): an endpoint ID is assigned unless MGMT_ADDR gives one; the version, the message types and the vendor number are
those of R520. -/
def Says.MctpControl : Prop :=
  ∀ (s : State) (n : Nat), s.mgrUp = true →
    (s.mgmtAddr 1 ≠ 0 → exec (.setEndpointId n) s = .next (s.answer 0 1 [0, 0x10, s.rfld regFeStatus 23 16] [])) ∧
    (s.mgmtAddr 1 = 0 → n = 0 ∨ 255 ≤ n → exec (.setEndpointId n) s = .next (s.answer 0 1 [2] [])) ∧
    (s.mgmtAddr 1 = 0 → n ≠ 0 → n < 255 → ∃ t : State, t.rfld regFeStatus 23 16 = n ∧ t.mem = s.mem ∧
      exec (.setEndpointId n) s = .next (t.answer 0 1 [0, 0, n] [])) ∧
    exec .getEndpointId s = .next (s.answer 0 2 [0, s.rfld regFeStatus 23 16] []) ∧
    exec .getEndpointUuid s = .next (s.answer 0 3 [0] Config.endpointUuid) ∧
    exec .getMctpVersionSupport s = .next (s.answer 0 4 [0, 1, 3] []) ∧
    exec .getMessageTypeSupport s = .next (s.answer 0 5 [0, 0x00, 0x01, 0x05, 0x7F] []) ∧
    exec .getVendorMessageSupport s = .next (s.answer 0 6 [0, 0x5D3B] [])

/-- PLDM base and the sensors (R524): every numeric sensor answers the sample that its register holds, every state sensor its state, and an ID
that names none an error. -/
def Says.PldmAnswers : Prop :=
  ∀ (s : State) (n : Nat), s.mgrUp = true →
    exec .gettid s = .next (s.answer 256 2 [0, s.mgr.tid] []) ∧
    (n = 0 ∨ 255 ≤ n → exec (.settid n) s = .next (s.answer 256 1 [2] [])) ∧
    (n ≠ 0 → n < 255 → exec (.settid n) s = .next (({ s with mgr := { s.mgr with tid := n } } : State).answer 256 1 [0] [])) ∧
    (n ∈ [0, 2, 5] → exec (.getpldmversion n) s = .next (s.answer 256 3 [0] (Config.pldmVersion n)) ∧
      ∃ l, exec (.getpldmcommands n) s = .next (s.answer 256 5 (0 :: l) [])) ∧
    (n ∉ [0, 2, 5] → exec (.getpldmversion n) s = .next (s.answer 256 3 [0x83] []) ∧
      exec (.getpldmcommands n) s = .next (s.answer 256 5 [0x83] [])) ∧
    exec .getpldmtypes s = .next (s.answer 256 4 [0, 0, 2, 5] []) ∧
    exec .getpdrrepositoryinfo s = .next (s.answer 258 0x50 [0, 72] []) ∧
    (n = 0 ∨ 72 < n → exec (.getpdr n) s = .next (s.answer 258 0x51 [0x82] [])) ∧
    (1 ≤ n → n ≤ 72 → ∃ id, exec (.getpdr n) s =
      .next (s.answer 258 0x51 [0, if n < 72 then n + 1 else 0, id, if 100 ≤ id then 1 else 0] [])) ∧
    exec (.getsensorreading 1) s = .next (s.answer 258 0x11 [0, s.rfld regPwInput 47 32] []) ∧
    exec (.getsensorreading 2) s = .next (s.answer 258 0x11 [0, s.rfld regPwInput 31 16] []) ∧
    exec (.getsensorreading 3) s = .next (s.answer 258 0x11 [0, s.rfld regPwInput 15 0] []) ∧
    exec (.getsensorreading 4) s = .next (s.answer 258 0x11 [0, s.rfld regPwInput 63 48] []) ∧
    (∀ q x, q < 16 → x < 4 → exec (.getsensorreading (16 + 4 * q + x)) s =
      .next (s.answer 258 0x11 [0, s.rfld (regPwTemp q) (16 * x + 15) (16 * x)] [])) ∧
    (n = 0 ∨ (4 < n ∧ n < 16) ∨ 80 ≤ n → exec (.getsensorreading n) s = .next (s.answer 258 0x11 [0x80] [])) ∧
    exec (.getstatesensorreadings 100) s = .next (s.answer 258 0x21 [0, s.shedNow] []) ∧
    exec (.getstatesensorreadings 101) s = .next (s.answer 258 0x21 [0, s.role] []) ∧
    exec (.getstatesensorreadings 102) s = .next (s.answer 258 0x21 [0, if s.blFailed then 1 else if s.role = 7 then 2 else 0] []) ∧
    exec (.getstatesensorreadings 103) s = .next (s.answer 258 0x21 [0, if s.rbit regFwStatus 5 then 2 else if s.rbit regFwStatus 0 then 1
      else if s.rbit regFwStatus 3 then 3 else 0] []) ∧
    (n < 100 ∨ 103 < n → exec (.getstatesensorreadings n) s = .next (s.answer 258 0x21 [0x80] []))

/-- An update is accepted when no other is staged, its data written to the slot that is not running, a half-written slot holds no image; the
last data report the checks of R494 when the firmware runs; it is cancelled by CancelUpdate or after 5 s without data (R525, R526). -/
def Says.Updates : Prop :=
  ∀ s : State, s.mgrUp = true →
    (∀ n, s.mgr.upd ≠ none ∨ s.hostStage = true → exec (.requestupdate n) s = .next (s.answer 261 0x10 [0x80] [])) ∧
    (∀ n, s.mgr.upd = none → s.hostStage = false → s.joined 175 = true → ∃ t, exec (.requestupdate n) s = .next t ∧
      (∃ u, t.mgr.upd = some u ∧ u.off = 0 ∧ u.img = none ∧ (s.rbit regFwStatus 0 = true → u.slot = if s.rbit regFwStatus 1 then 0 else 1)) ∧
      t.rbit regFeStatus 1 = true ∧ t.mem = s.mem ∧ t.slotImage 0 = s.slotImage 0 ∧ t.slotImage 1 = s.slotImage 1) ∧
    (∀ u off im, s.mgr.upd = some u → u.off = off → u.img = none → s.joined 175 = true → u.slot < 2 → ∃ t,
      exec (.requestfirmwaredata off (some im)) s = .next t ∧ t.slotImage u.slot = some im ∧
      t.mgr.upd = some { u with off := off + 1024, img := some im } ∧ t.slotImage (1 - u.slot) = s.slotImage (1 - u.slot) ∧
      t.out = ⟨.mctp, 256 * 261 + 0x17, [if s.fwUp then s.imageFail (some im) else 0], []⟩ :: s.out) ∧
    (∀ u off, s.mgr.upd = some u → u.off = off → u.img = none → s.joined 175 = true → u.slot < 2 → ∃ t,
      exec (.requestfirmwaredata off none) s = .next t ∧ t.slotImage u.slot = none ∧ t.mgr.upd = some { u with off := off + 1024 } ∧
      t.out = ⟨.mctp, 256 * 261 + 0x15, [off + 1024, 1024], []⟩ :: s.out) ∧
    (∀ off l, s.mgr.upd = none ∨ s.joined 175 = false → exec (.requestfirmwaredata off l) s = .next s) ∧
    (∃ t, exec .cancelupdate s = .next t ∧ t.mgr.upd = none ∧ t.rbit regFeStatus 1 = false ∧ t.mem = s.mem ∧ t.fw = s.fw ∧
      t.out = ⟨.mctp, 256 * 261 + 0x1D, [if s.mgr.upd.isSome then 0 else 0x81], []⟩ :: s.out) ∧
    (∃ t, exec .updateDataTimeout s = .next t ∧ t.mgr.upd = none ∧ t.rbit regFeStatus 1 = false ∧ t.mem = s.mem ∧ t.fw = s.fw ∧ t.out = s.out)

/-- ActivateFirmware writes BOOT_PREF by the manager's path and ends the update; with the firmware running it restarts it into the slot,
running jobs going on (R513, R525); with no whole image, or one that fails its checks, it is refused. -/
def Says.ActivatesUpdates : Prop :=
  ∀ s : State, s.mgrUp = true →
    (s.mgr.upd = none ∨ (∃ u, s.mgr.upd = some u ∧ (u.img = none ∨ (s.fwUp = true ∧ s.imageFail u.img ≠ 0))) →
      exec .activatefirmware s = .next (s.answer 261 0x1A [0x81] [])) ∧
    ∀ u im, s.mgr.upd = some u → u.img = some im → u.slot < 2 → s.imageFail (some im) = 0 → 3050 ≤ s.rfld regPwInput 63 48 →
      (s.led 7).count < 128 → s.ledNum 3 = 0 → ∃ t, exec .activatefirmware s = .next t ∧ t.led 7 = ⟨[BitVec.ofNat 8 u.slot], (s.led 7).count + 1⟩ ∧
        t.mgr.upd = none ∧ t.reg regFeUpdates = s.reg regFeUpdates + 1 ∧ t.mem = s.mem ∧ t.jobs = s.jobs ∧
        (∀ h : Hart, h.core < 128 → t.ctx h = s.ctx h) ∧
        (s.fwUp = true → t.rbit regFwStatus 5 = true ∧ t.rbit regFwStatus 0 = false ∧ t.fw.cause = 5 ∧ t.fw.trying = some u.slot) ∧
        (s.fwUp = false → t.ctxs = s.ctxs ∧ t.rbit regFwStatus 0 = s.rbit regFwStatus 0)

/-- SPDM (R527): the version, the capabilities and the only algorithms offered; digests and certificates are UNAVAILABLE while the flash
interface is off; measurements with a nonce are the signed report, 2,804 bytes with the nonce at byte 16, counted in FE_ATTEST. -/
def Says.Attestation : Prop :=
  (∀ s : State, s.mgrUp = true →
    exec .getVersion s = .next (s.answer 5 0x84 [0, 1, 3] []) ∧ exec .getCapabilities s = .next (s.answer 5 0xE1 [0, 1, 1] []) ∧
    exec .negotiateAlgorithms s = .next (s.answer 5 0xE3 [0, 44, 256] []) ∧
    (s.joined 175 = false → exec .getDigests s = .next (s.answer 5 0x81 [2] []) ∧ ∀ b, exec (.getCertificate b) s = .next (s.answer 5 0x82 [2] [])) ∧
    (s.joined 175 = true → (∃ (t : State) (b : Bool), exec .getDigests s = .next t ∧ t.regs = s.regs ∧ t.mem = s.mem ∧
        t.out = ⟨.mctp, 256 * 5 + 0x81, [0], sha3 (Config.certChain (if b then 1 else 2))⟩ :: s.out) ∧
      ∀ b : Bool, exec (.getCertificate b) s = .next (s.answer 5 0x82 [0] (Config.certChain (if b then 1 else 2)))) ∧
    ∀ nonce, exec (.getMeasurements nonce) s = .next ((s.bump regFeAttest).answer 5 0xE0 [0] (s.attest nonce))) ∧
  ∀ (s : State) (nonce : List Byte), nonce.length = 32 → (s.attest nonce).length = 2804 ∧ (s.attest nonce).take 8 =
      [71#8, 76#8, 84#8, 65#8, 84#8, 84#8, 83#8, 84#8] ∧ sliceB (s.attest nonce) 16 32 = nonce ∧
    (∀ m, m < 8 → sliceB (s.attest nonce) (48 + 32 * m) 32 = s.meas m) ∧
    (∀ n, 1 ≤ n → n ≤ 10 → sliceB (s.attest nonce) (300 + 4 * n) 4 = leBytes 4 (s.led n).count)

/-- Writing FE_ALERT clears the bits written 1, writing FE_ALERTEN sets the enables; ALERT_N stands while a set bit is enabled, and where the
enabled set rises from empty one in-band interrupt goes out if ENEC has allowed it (R528; the edge of the whole set is log 44). A WARM order
is ignored while a warm reset runs; else it makes the module act as on entry to L4 (R523). -/
def Says.AlertsAndOrders : Prop :=
  (∀ (s : State) (v : Word), (∃ t, exec (.feAlertClear v) s = .next t ∧ t.reg regFeAlert = s.reg regFeAlert &&& ~~~ (v &&& 0x3F#64) ∧
      t.reg regFeAlerten = s.reg regFeAlerten ∧ t.rbit regFePins 9 = t.alertOn ∧ t.mem = s.mem) ∧
    ∃ t, exec (.feAlertenWrite v) s = .next t ∧ t.reg regFeAlerten = (s.reg regFeAlerten &&& ~~~ 0x3F#64) ||| (v &&& 0x3F#64) ∧
      t.reg regFeAlert = s.reg regFeAlert ∧ t.rbit regFePins 9 = t.alertOn ∧ t.mem = s.mem ∧
      (s.mgr.ibi = true → s.alertOn = false → t.alertOn = true → t.out = ⟨.i3c, 0x02, [], []⟩ :: s.out) ∧
      (s.mgr.ibi = false ∨ s.alertOn = true ∨ t.alertOn = false → t.out = s.out)) ∧
  ∀ s : State, s.mgrUp = true →
    (s.rbit regFeStatus 0 = true ∨ s.power.booting = true → exec .feOrderWarm s = .next s) ∧
    (s.rbit regFeStatus 0 = false → s.power.booting = false → ∃ t, exec .feOrderWarm s = .next t ∧ t.power.orderWarm = true ∧
      t.pwHeld = true ∧ t = (((s.setRbit regFeOrder 0 true).enterL4).modPower (fun p => { p with orderWarm := true })))

/-! ### Side-band pins and register writes (R10 to R15, R320, R426, R532 to R536) -/

/-- A new level of an input that has been stable has its effect, unless the island does not run or the input is declared chattering; a
declaration is counted and treats the input as asserted, and the input takes its level when it has been quiet for 100 ms (R533, R534). -/
def Says.InputPins : Prop :=
  (∀ (s : State) (p : SidePin) (a : Bool) (i : Instr), (p, a, i) ∈ ([(.resetN, true, .resetNAssert), (.resetN, false, .resetNRelease),
      (.throtN, a, .throtNChange a), (.twinHb, a, .twinHbChange a)] : List (SidePin × Bool × Instr)) →
    (s.mgrUp = false ∨ s.chatters p = true → exec i s = .next s) ∧
    (s.mgrUp = true → s.chatters p = false → exec i s = .next (s.pinLevel p a))) ∧
  ∀ (s : State) (p : SidePin) (a : Bool),
    (s.mgrUp = false → exec (.chatterDeclare p) s = .next s ∧ exec (.chatterClear p a) s = .next s) ∧
    (s.mgrUp = true → s.chatters p = true → exec (.chatterDeclare p) s = .next s ∧
      ∃ t : State, t.chatters p = false ∧ exec (.chatterClear p a) s = .next (t.pinLevel p a)) ∧
    (s.mgrUp = true → s.chatters p = false → exec (.chatterClear p a) s = .next s ∧
      ∃ t : State, t.chatters p = true ∧ t.reg regFeChatter = s.reg regFeChatter + 1 ∧ t.mem = s.mem ∧
        exec (.chatterDeclare p) s = .next (t.pinLevel p true))

/-- RESET_N asserted performs the actions of L4 that have not been performed and holds the module; a level it already has does nothing;
released, it performs the warm reset of R485 without the wait, unless a wait of R485 or a power-up still stands (R535, R536). -/
def Says.ResetPin : Prop :=
  ∀ (s : State) (a : Bool),
    (s.resetPin = a → s.pinLevel .resetN a = s) ∧
    (s.resetPin = false → s.power.booting = false → s.power.full = false → ∃ u,
      u = (s.setRbit regFePins 0 true).enterL4 ∧ u.pwHeld = true ∧ s.pinLevel .resetN true = u.powerShow ∧
      ((s.pinLevel .resetN true).pwHeld = true)) ∧
    (s.resetPin = true → s.pwHeld = true → s.power.full = false → s.power.booting = false → s.effStep < 4 →
      s.pinLevel .resetN false = (s.setRbit regFePins 0 false).warmReset) ∧
    (s.resetPin = true → s.pwHeld = false ∨ s.power.full = true ∨ s.power.booting = true ∨ 4 ≤ s.effStep →
      (s.pinLevel .resetN false).resetPin = false ∧ (s.pinLevel .resetN false).mem = s.mem ∧ (s.pinLevel .resetN false).ctxs = s.ctxs)

/-- THROT_N is a governor action while asserted, and a conflict is counted as it starts where the policy would admit (R318, R320, R535);
TWIN_HB shows in FE_PINS and CB_STATUS, and where it goes away in a hold the takeover, or the stay alone, begins (R401, R426). -/
def Says.ThrottleAndHeartbeat : Prop :=
  (∀ (s : State) (a : Bool), (s.pinLevel .throtN a).rbit regFePins 1 = a ∧ (s.pinLevel .throtN a).dx.gov.ext = a ∧
    (s.pinLevel .throtN a).mem = s.mem ∧
    (s.dx.gov.ext = true ∨ a = false → (s.pinLevel .throtN a).reg regDxGovConflict = s.reg regDxGovConflict) ∧
    (s.dx.gov.ext = false → a = true → (s.setRbit regFePins 1 true).wouldAdmit (upto 16) = true →
      (s.pinLevel .throtN a).reg regDxGovConflict = s.reg regDxGovConflict + 1)) ∧
  ∀ (s : State) (a : Bool),
    (a = true ∨ s.twin.lapsed = false ∨ (s.role ≠ 5 ∧ s.role ≠ 6) → (s.pinLevel .twinHb a).rbit regFePins 2 = a ∧
      (s.pinLevel .twinHb a).rbit regCbStatus 11 = a ∧ (s.pinLevel .twinHb a).role = s.role ∧ (s.pinLevel .twinHb a).mem = s.mem) ∧
    (s.twin.lapsed = true → s.role = 6 → ∃ t : State, t.rbit regFePins 2 = false ∧ t.rbit regCbStatus 11 = false ∧ t.role = 6 ∧
      s.pinLevel .twinHb false = t.takeover) ∧
    (s.twin.lapsed = true → s.role = 5 → ∃ t : State, t.rbit regFePins 2 = false ∧ t.rbit regCbStatus 11 = false ∧
      s.pinLevel .twinHb false = t.becomeSolo)

/-- A register write of a size other than 4 or 8 bytes or at an offset that is not aligned to it does not reach a register; one at a hole, or
in a block whose domain is not joined, is discarded (R10, R11, R545). -/
def Says.RegisterWritesThatMiss : Prop :=
  ∀ (s : State) (off size : Nat) (v : Word),
    (¬ (size = 8 ∧ off % 8 = 0) → ¬ (size = 4 ∧ off % 4 = 0) → exec (.registerWrite off size v) s = .next s) ∧
    (s.regPlace (off / 8 * 8) = none → exec (.registerWrite off size v) s = .next s) ∧
    (∀ p, s.regPlace (off / 8 * 8) = some p → s.answers p = false ∨ regAt p.key = none → exec (.registerWrite off size v) s = .next s)

/-- A write of a register without a check or effect of its own: each RW bit takes the bit written, each W1C bit written 1 clears, every other
bit keeps its value; no other register, no byte of memory and no task changes (R10, R12, R13). A 32-bit write changes the half it names. -/
def Says.RegisterAccess : Prop :=
  ∀ (s : State) (v : Word) (p : RegPlace) (d : RegDesc) (x y : Nat),
    ∀ off ∈ [0x3000018, 0x3010180, 0x3040000, 0x3050000, 0x3070008, 0x3100000, 0x3200018, 0x4000020, 0xF000000], s.regPlace off = some p → s.answers p = true →
      regAt p.key = some (d, x, y) →
      (∃ t, exec (.registerWrite off 8 v) s = .next t ∧ (∀ i, i < 64 → (t.reg p.key).getLsbD i =
          if d.rw.testBit i then v.getLsbD i else ((s.reg p.key).getLsbD i && !(d.w1c.testBit i && v.getLsbD i))) ∧
        (∀ k, k ≠ p.key → t.reg k = s.reg k) ∧ t.mem = s.mem ∧ t.ctxs = s.ctxs) ∧
      (∃ t, exec (.registerWrite off 4 v) s = .next t ∧ (∀ i, i < 32 → (t.reg p.key).getLsbD i =
          if d.rw.testBit i then v.getLsbD i else ((s.reg p.key).getLsbD i && !(d.w1c.testBit i && v.getLsbD i))) ∧
        (∀ i, 32 ≤ i → i < 64 → (t.reg p.key).getLsbD i = (s.reg p.key).getLsbD i) ∧ (∀ k, k ≠ p.key → t.reg k = s.reg k))

/-! ### The obligations, by what they are about -/

/-- The state after reset is sound and holds the reset values; unlisted memory reads 0 (the model's choice, log 2). -/
def Obligations.ResetState : Prop :=
  Says.ResetIsSound ∧ Says.ResetValues

/-- No step stops but a sample of V_IN above its absolute maximum, which faults by name. -/
def Obligations.OnlyOvervoltageStops : Prop :=
  Says.OnlyOvervoltageStops ∧ Says.OvervoltageFaults

/-- When an instruction issues: the gate, the words that raise ILLEGAL, and the predicate. -/
def Obligations.Issue : Prop :=
  Says.IssueGate ∧ Says.IllegalWordRaises ∧ Says.PredicateOffSkips

/-- Integer arithmetic over registers and constants: every result with no flag and no exception, the counts, and the corners of division. -/
def Obligations.IntegerArithmetic : Prop :=
  Says.ScalarIntegerResults ∧ Says.ScalarConstantResults ∧ Says.BitCounts ∧ Says.DivisionCorners

/-- The constants two instructions build, and the hard-wired registers. -/
def Obligations.ConstantsAndHardWiredRegisters : Prop :=
  Says.TwoInstructionsSetAnyConstant ∧ Says.HardWiredRegisters

/-- Scalar floating point: results with their flags, NaN rules, sticky flags. -/
def Obligations.ScalarFloats : Prop :=
  Says.ScalarFloatResults ∧ Says.FloatNanRules ∧ Says.FlagsAreSticky

/-- Branches, jumps and mask operations, and what scalar instructions leave unchanged. -/
def Obligations.ControlAndMasks : Prop :=
  Says.Branches ∧ Says.Jumps ∧ Says.MaskResults ∧ Says.ScalarFrame

/-- Loads, stores and line instructions: what they read, write and leave, and where they trap or wait. -/
def Obligations.LoadsAndStores : Prop :=
  Says.LoadsDeliver ∧ Says.StoresWrite ∧ Says.MisalignedAccessesTrap ∧ Says.MissWaitsForItsLine ∧ Says.LineInstructions ∧
  Says.MemoryReadsBack

/-- Atomic operations and fences. -/
def Obligations.AtomicsAndFences : Prop :=
  Says.AtomicsReadModifyWrite ∧ Says.AtomicOnHostPageTraps ∧ Says.FenceWaits

/-- Taking an exception, the job that stops, TRAP and BREAK, and returning. -/
def Obligations.Exceptions : Prop :=
  Says.ExceptionEntry ∧ Says.ExceptionStopsJob ∧ Says.TrapAndBreak ∧ Says.ReturnFromException

/-- System registers, TLB invalidation, NOP, YIELD, WAITI, END and the events of a core. -/
def Obligations.SystemInstructions : Prop :=
  Says.NopYieldWaiti ∧ Says.SystemRegisterReads ∧ Says.SystemRegisterWrites ∧ Says.TlbInvalidation ∧ Says.EndFreesTheContext ∧
  Says.CoreEvents

/-- Stroke operations enter the engine, are checked at issue, start and are cancelled. -/
def Obligations.StreamIssue : Prop :=
  Says.StreamsEnterTheEngine ∧ Says.StreamIssueChecks ∧ Says.CancelFreesEntries ∧ Says.InnerOperationStarts ∧ Says.QueueConfigWrites

/-- Stroke requests move their data; half swaps, deadlines and halts. -/
def Obligations.StreamWork : Prop :=
  Says.PatternWalk ∧ Says.StrokeRequestMovesData ∧ Says.SwapExchangesHalves ∧ Says.DeadlineMissStops ∧ Says.HaltsEnd

/-- Quill instructions issue, are refused, and read and clear their flags. -/
def Obligations.QuillIssue : Prop :=
  Says.QuillIssues ∧ Says.IdleQuillActs ∧ Says.QuillRefusals ∧ Says.QuillReadsFlags

/-- What Quill operations write when they complete. -/
def Obligations.QuillResults : Prop :=
  Says.QuillCompletes ∧ Says.MmaCombinesColumns ∧ Says.CompensatedAddition ∧ Says.SaveThenRestore

/-- Brush and reduction instructions issue, are checked, and read and clear their flags. -/
def Obligations.BrushIssue : Prop :=
  Says.BrushIssues ∧ Says.BrushIssueChecks ∧ Says.BrushReadsFlags

/-- What Brush operations write when they complete. -/
def Obligations.BrushResults : Prop :=
  Says.BrushCompletes ∧ Says.BrushMoves ∧ Says.BrushIntegerLanes ∧ Says.BrushMismatch ∧ Says.SoftmaxCases

/-- Stipple instructions issue, are refused, and read and clear their flags. -/
def Obligations.StippleIssue : Prop :=
  Says.StippleIssues ∧ Says.IdleStippleActs ∧ Says.StippleRefusals ∧ Says.StippleReadsFlags

/-- What Stipple operations do when they complete: patterns, keyed rows, repairs and faults. -/
def Obligations.StippleResults : Prop :=
  Says.StippleCompletes ∧ Says.PruningPatterns ∧ Says.KeyedPlaces ∧ Says.StippleRepairAndFaults

/-- Nib, Ligature and hot-map instructions issue and are checked; gather flags are read. -/
def Obligations.GatherIssue : Prop :=
  Says.GatherIssues ∧ Says.GatherIssueChecks ∧ Says.GatherReadsFlags

/-- Requests at the regions, pooled results and gathered tiles; pooling does not depend on order. -/
def Obligations.NibAndLigature : Prop :=
  Says.NibServesRequests ∧ Says.NibWaits ∧ Says.PartialsReturnInOrder ∧ Says.PoolingIsOrderFree ∧ Says.EmptyTargets ∧
  Says.LigatureTiles ∧ Says.TilesEndTheGather ∧ Says.ChunkLayout

/-- Pins, copies and the registers of the hot-row map. -/
def Obligations.HotMap : Prop :=
  Says.PinStatuses ∧ Says.PinsEnd ∧ Says.CopyCompletes ∧ Says.HotMapRegisters

/-- Table operations start and are checked; where rows and editions stand. -/
def Obligations.TableOperations : Prop :=
  Says.TableOperationsStart ∧ Says.TableOperationsStop ∧ Says.EditionAddress ∧ Says.TableDirectories ∧ Says.RowPlacement ∧
  Says.PublicationChecks

/-- Row updates: the optimisers, order-free sums, first-touch undo and the shares at their owners. -/
def Obligations.TableUpdates : Prop :=
  Says.OptimiserSteps ∧ Says.RowUpdates ∧ Says.GradientSumsAreOrderFree ∧ Says.FirstTouchUndo ∧ Says.SharesAreServed

/-- Edition builds complete and wide retention ends. -/
def Obligations.Editions : Prop :=
  Says.BuildsComplete ∧ Says.WideRetentionEnds

/-- Spawn, sleep, step end and energy reads. -/
def Obligations.TaskSubmission : Prop :=
  Says.SpawnSubmitsTasks ∧ Says.SleepLeavesTheContext ∧ Says.StepEndAndEnergy ∧ Says.StepEndsAreRequested

/-- Queues forward in order, the best ready task is dispatched, and a new task starts as R295 says. -/
def Obligations.Dispatch : Prop :=
  Says.NewTaskContext ∧ Says.QueuesForwardInOrder ∧ Says.DispatchTakesTheBest ∧ Says.Ranking

/-- Preemption, owner swaps, delays, folds, energy counts and the registers of Ductus. -/
def Obligations.Preemption : Prop :=
  Says.PreemptionSavesTheContext ∧ Says.OwnerSwaps ∧ Says.DelayTicks ∧ Says.EnergyCounts ∧ Says.FoldSwaps ∧ Says.DuctusRegisters

/-- Mark updates are sent, applied at their home in order, and waited on. -/
def Obligations.Marks : Prop :=
  Says.MarkUpdatesAreSent ∧ Says.MarkWaits ∧ Says.HomesApplyUpdates ∧ Says.WaitsNeverShareCounts ∧ Says.HungWaits

/-- Writes of the mark registers and of the mark map. -/
def Obligations.MarkRegisters : Prop :=
  Says.MarkRegisterWrites ∧ Says.MarkMapping

/-- Cache commands, misses and evictions; patrols, their bounds and row repairs. -/
def Obligations.CachesAndTiers : Prop :=
  Says.WholeCacheCommands ∧ Says.CacheEnables ∧ Says.CacheConfiguration ∧ Says.MissesEnd ∧ Says.OtherFillsEnd ∧ Says.EvictionAndScrub ∧
  Says.InkwellPatrol ∧ Says.ReservoirPatrol ∧ Says.PatrolCoversReservoir ∧ Says.RowRepairsEnd

/-- Flits: nothing crosses a closed link; failed, accepted and repeated ones. -/
def Obligations.LanineFlits : Prop :=
  Says.NothingCrossesAClosedLink ∧ Says.FailedFlitsAreDiscarded ∧ Says.AcceptedFlits ∧ Says.NaksAreRepeated

/-- Retrains, lane sparing, link loss and link up. -/
def Obligations.LanineTraining : Prop :=
  Says.Retrains ∧ Says.LanesAreSpared ∧ Says.LaneWindows ∧ Says.LinkLoss ∧ Says.LinkUp ∧ Says.HoldoffEnds

/-- Lines of device memory that the host reads, writes, holds and gives up. -/
def Obligations.HostLines : Prop :=
  Says.HostReads ∧ Says.DirectoryBackInvalidates ∧ Says.HostWrites ∧ Says.HostGivesLinesUp ∧ Says.SnoopAnswers ∧ Says.UnansweredSnoops

/-- Snoops of the host, host answers, doorbells, page messages and register access. -/
def Obligations.HostMessages : Prop :=
  Says.ModuleAnswersSnoops ∧ Says.HostAnswers ∧ Says.Doorbells ∧ Says.PageMessages ∧ Says.HostRegisterAccess

/-- Carbon frames, sends, training and transfers. -/
def Obligations.CarbonLink : Prop :=
  Says.CarbonFrames ∧ Says.CarbonSends ∧ Says.CarbonTraining ∧ Says.TransfersAndMessages

/-- Roles of the twin: leases, holds, takeover, pairing, departure, orders and settings. -/
def Obligations.TwinRoles : Prop :=
  Says.HoldsEnd ∧ Says.Leases ∧ Says.TakeoverOnLapse ∧ Says.TakeoverEnds ∧ Says.PairingTimesOut ∧ Says.CarbonOrders ∧
  Says.CarbonSettings ∧ Says.PartnerDeparts ∧ Says.Pairing

/-- Commits at the twin: the journal, acknowledgements, row deltas, rollbacks, builds and resync. -/
def Obligations.CommitsAndDeltas : Prop :=
  Says.CommitsReachTheJournal ∧ Says.CommitAcks ∧ Says.DeltasArePended ∧ Says.RollbacksDiscardDeltas ∧ Says.StandbyBuilds ∧
  Says.ResyncCopies

/-- Folios: their phases, their seal at both members, and forced ones. -/
def Obligations.Folios : Prop :=
  Says.StandbySeals ∧ Says.FolioSealed ∧ Says.FolioPhases ∧ Says.LogFullForcesAFolio

/-- Frames, and inbound RDMA messages with their checks. -/
def Obligations.InboundRdma : Prop :=
  Says.EthernetFrames ∧ Says.InboundMessagesAreChecked ∧ Says.InboundWrites ∧ Says.InboundImmediates ∧ Says.InboundReads

/-- Send rings, answers and congestion control. -/
def Obligations.OutboundRdma : Prop :=
  Says.SendRings ∧ Says.OutboundAnswers ∧ Says.CongestionControl ∧ Says.CnpsAreLimited

/-- Group messages, group folios and restarts, and ingest datagrams. -/
def Obligations.GroupsAndIngest : Prop :=
  Says.SliceMessages ∧ Says.GroupFolios ∧ Says.GroupRestarts ∧ Says.IngestDatagrams

/-- Fault reports and the reactions to them. -/
def Obligations.Faults : Prop :=
  Says.ReportsWithoutReaction ∧ Says.ClassMFaults ∧ Says.CheckerDisagreement ∧ Says.UnitsWithoutJobEffect ∧ Says.ClusterFaultsFillTheSpare

/-- Fills, restarts, heartbeats and the manager's fence orders. -/
def Obligations.Repairs : Prop :=
  Says.FillsComplete ∧ Says.RestartsComplete ∧ Says.Heartbeats ∧ Says.BlotterOrders

/-- Power samples: the shed ladder, its steps, over-voltage, brown-out and temperatures. -/
def Obligations.Shedding : Prop :=
  Says.SteadySupply ∧ Says.LadderSteps ∧ Says.EnteringL3 ∧ Says.BrownOut ∧ Says.OverVoltage ∧ Says.Temperatures ∧ Says.ShedThresholds

/-- Phases, power domains, the Inkwell save, warm resets, power-ups and the reference. -/
def Obligations.PowerSequences : Prop :=
  Says.Phases ∧ Says.DomainsSwitch ∧ Says.InkwellSave ∧ Says.WarmReset ∧ Says.PowerUps ∧ Says.Reference

/-- Image checks, boot, the crash of the firmware and its restart. -/
def Obligations.BootAndRestart : Prop :=
  Says.ImageChecks ∧ Says.Boot ∧ Says.FirmwareCrash ∧ Says.FirmwareRestarts

/-- Ring entries are consumed, answered and completed. -/
def Obligations.Rings : Prop :=
  Says.EntriesAreConsumed ∧ Says.EntryAnswers ∧ Says.Completions

/-- Ordered host commands: their entry, their checks, their commit point and their effects. -/
def Obligations.OrderedHostCommands : Prop :=
  Says.HostCommandsNeedTheirEntry ∧ Says.OrderedCommands ∧ Says.OrderedCommandChecks ∧ Says.OrderedEffectsOnRingsAndJobs ∧
  Says.OrderedEffectsElsewhere

/-- Host commands that read, submit, hold and wait. -/
def Obligations.OtherHostCommands : Prop :=
  Says.ReadingCommands ∧ Says.TasksAreSubmitted ∧ Says.GenerationsAndPublications ∧ Says.WaitingCommands

/-- The management port: when it answers, packets and messages, bus commands, MCTP control. -/
def Obligations.PortMessages : Prop :=
  Says.ThePort ∧ Says.PacketsMakeMessages ∧ Says.BusCommands ∧ Says.MctpControl

/-- Registers, Ledger and logs through the port; alerts and the warm order. -/
def Obligations.PortAccess : Prop :=
  Says.PortRegisters ∧ Says.PortLedger ∧ Says.AlertsAndOrders

/-- PLDM answers, sensors and updates; SPDM and the attestation report. -/
def Obligations.PldmAndSpdm : Prop :=
  Says.PldmAnswers ∧ Says.Updates ∧ Says.ActivatesUpdates ∧ Says.Attestation

/-- The side-band inputs, and plain register writes. -/
def Obligations.PinsAndRegisters : Prop :=
  Says.InputPins ∧ Says.ResetPin ∧ Says.ThrottleAndHeartbeat ∧ Says.RegisterWritesThatMiss ∧ Says.RegisterAccess
end

