-- ==== Sys2Proof/Laws/Bits.lean ====
section
/-! SUPPORT. Laws of sparse tables and of the fields of a word. -/

namespace Sys2Proof

/-! ### Sparse tables -/

theorem smapGet_erase {β : Type} (d : Nat → β) (m : SMap β) (k q : Nat) :
    smapGet d (smapErase m k) q = if q = k then d k else smapGet d m q := by
  induction m with
  | nil => simp only [smapErase, smapGet]; split <;> simp_all
  | cons e r ih =>
    obtain ⟨k', v⟩ := e
    simp only [smapErase]
    split
    next h => subst h; rw [ih]; simp only [smapGet]; split <;> simp_all
    next h => simp only [smapGet, ih]; split <;> split <;> simp_all

theorem smapGet_put {β : Type} (d : Nat → β) (m : SMap β) (k q : Nat) (v : β) :
    smapGet d (smapPut m k v) q = if q = k then v else smapGet d m q := by
  induction m with
  | nil => simp [smapPut, smapGet]
  | cons e r ih =>
    obtain ⟨k', v'⟩ := e
    simp only [smapPut]
    split
    · simp only [smapGet]
    · split
      next h => subst h; simp only [smapGet]; split <;> simp_all
      next h => simp only [smapGet, ih]; split <;> split <;> simp_all

/-- What a table reads after a write, in any table, canonical or not. -/
theorem smapGet_set {β : Type} [DecidableEq β] (d : Nat → β) (m : SMap β) (k q : Nat) (v : β) :
    smapGet d (smapSet d m k v) q = if q = k then v else smapGet d m q := by
  unfold smapSet
  split
  next h => rw [smapGet_erase, h]
  next h => exact smapGet_put d m k q v

/-- Dropping entries leaves what the entries that stay read as. -/
theorem smapGet_filter {β : Type} (d : Nat → β) (m : SMap β) (p : Nat × β → Bool) (q : Nat) (h : ∀ v, p (q, v) = true) :
    smapGet d (m.filter p) q = smapGet d m q := by
  induction m with
  | nil => rfl
  | cons e r ih =>
    obtain ⟨k, v⟩ := e
    by_cases hp : p (k, v) = true
    · rw [List.filter_cons_of_pos hp]; simp only [smapGet, ih]
    · rw [List.filter_cons_of_neg hp, ih]
      simp only [smapGet]
      split
      next hk => subst hk; exact absurd (h v) hp
      next => rfl

namespace Machine

/-! ### Fields of a word -/

theorem fldMask_bit (hi lo i : Nat) (h : lo ≤ hi) (hi64 : i < 64) : (fldMask hi lo).getLsbD i = decide (lo ≤ i ∧ i ≤ hi) := by
  simp only [fldMask, BitVec.getLsbD_ofNat, Nat.testBit_shiftLeft, Nat.testBit_two_pow_sub_one]
  by_cases h1 : lo ≤ i
  · by_cases h2 : i ≤ hi
    · simp [h1, h2, hi64]; omega
    · simp [h1, h2, hi64]; omega
  · simp [h1]

/-- The bits of a word with a field replaced. -/
theorem setFld_bit (v : Word) (hi lo x i : Nat) (h : lo ≤ hi) (hi64 : i < 64) :
    (setFld v hi lo x).getLsbD i = if lo ≤ i ∧ i ≤ hi then x.testBit (i - lo) else v.getLsbD i := by
  simp only [setFld, BitVec.getLsbD_or, BitVec.getLsbD_and, BitVec.getLsbD_not, fldMask_bit hi lo i h hi64, BitVec.getLsbD_ofNat,
    Nat.testBit_shiftLeft, Nat.testBit_mod_two_pow]
  by_cases h1 : lo ≤ i
  · by_cases h2 : i ≤ hi
    · have : i - lo < hi - lo + 1 := by omega
      simp [h1, h2, hi64, this]
    · have : ¬ i - lo < hi - lo + 1 := by omega
      simp [h1, h2, hi64, this]
  · simp [h1, hi64]

theorem bitOf_setBit (v : Word) (n i : Nat) (b : Bool) (hi64 : i < 64) : bitOf (setBit v n b) i = if i = n then b else bitOf v i := by
  unfold bitOf setBit
  rw [setFld_bit v n n _ i (Nat.le_refl n) hi64]
  by_cases h : i = n
  · subst h; cases b <;> simp
  · rw [if_neg (by omega), if_neg h]

theorem fld_testBit (v : Word) (hi lo i : Nat) : (fld v hi lo).testBit i = (decide (i < hi - lo + 1) && v.getLsbD (lo + i)) := by
  simp only [fld, Nat.testBit_mod_two_pow, Nat.testBit_shiftRight]
  rfl

/-- The field written reads back. -/
theorem fld_setFld (v : Word) (hi lo x : Nat) (h : lo ≤ hi) (h64 : hi < 64) : fld (setFld v hi lo x) hi lo = x % 2 ^ (hi - lo + 1) := by
  apply Nat.eq_of_testBit_eq
  intro i
  rw [fld_testBit, Nat.testBit_mod_two_pow]
  by_cases hi' : i < hi - lo + 1
  · rw [setFld_bit v hi lo x (lo + i) h (by omega), if_pos (by omega), show lo + i - lo = i by omega]
  · simp [hi']

/-- A field apart from the one written keeps its value. -/
theorem fld_setFld_apart (v : Word) (hi lo hi' lo' x : Nat) (h : lo' ≤ hi') (h64 : hi' < 64) (ha : hi < lo' ∨ hi' < lo) (hl : lo ≤ hi) :
    fld (setFld v hi lo x) hi' lo' = fld v hi' lo' := by
  apply Nat.eq_of_testBit_eq
  intro i
  rw [fld_testBit, fld_testBit]
  by_cases hi0 : i < hi' - lo' + 1
  · rw [setFld_bit v hi lo x (lo' + i) hl (by omega), if_neg (by omega)]
  · simp [hi0]

/-- A bit apart from the field written keeps its value. -/
theorem bitOf_setFld_apart (v : Word) (hi lo x n : Nat) (h : lo ≤ hi) (h64 : n < 64) (ha : n < lo ∨ hi < n) :
    bitOf (setFld v hi lo x) n = bitOf v n := by
  unfold bitOf
  rw [setFld_bit v hi lo x n h h64, if_neg (by omega)]

/-! ### Bytes of a number -/

@[simp] theorem leBytes_length (n x : Nat) : (leBytes n x).length = n := by
  induction n generalizing x with
  | zero => rfl
  | succ n ih => simp [leBytes, ih]

/-- The bytes of a number read back as the number, cut to their width. -/
theorem leNat_leBytes (n x : Nat) : leNat (leBytes n x) = x % 256 ^ n := by
  induction n generalizing x with
  | zero => simp [leBytes, leNat, Nat.mod_one]
  | succ n ih =>
    simp only [leBytes, leNat, ih, BitVec.toNat_ofNat]
    rw [show (256 : Nat) ^ (n + 1) = 256 * 256 ^ n by ring, Nat.mod_mul]

@[simp] theorem padB_length (n : Nat) (bs : List Byte) : (padB n bs).length = n := by
  simp only [padB, List.length_take, List.length_append, List.length_replicate]
  omega

end Machine

end Sys2Proof
end

