-- ==== Sys2Proof/Laws/Kept.lean ====
section
/-! SUPPORT. What every operation of the model keeps: the queue of waiting commands, and the canonical form of memory and of the
register file. Here the predicate, the laws of sparse tables under it, and the shapes of terms that occur everywhere. -/

namespace Sys2Proof

/-! ### Sparse tables stay canonical -/

theorem smapOk_mono {β : Type} [DecidableEq β] {d : Nat → β} {m : SMap β} {a b : Nat} (hab : a ≤ b)
    (h : smapOk d (some b) m = true) : smapOk d (some a) m = true := by
  cases m with
  | nil => rfl
  | cons e r =>
    obtain ⟨k, v⟩ := e
    simp only [smapOk, Bool.and_eq_true, decide_eq_true_eq] at h ⊢
    exact ⟨⟨Nat.lt_of_le_of_lt hab h.1.1, h.1.2⟩, h.2⟩

theorem smapOk_none {β : Type} [DecidableEq β] {d : Nat → β} {m : SMap β} {b : Option Nat} (h : smapOk d b m = true) :
    smapOk d none m = true := by
  cases m with
  | nil => rfl
  | cons e r =>
    obtain ⟨k, v⟩ := e
    simp only [smapOk, Bool.and_eq_true, decide_eq_true_eq] at h ⊢
    exact ⟨⟨trivial, h.1.2⟩, h.2⟩

/-- A lower bound of a table: none, or a key that the table's keys exceed. -/
def belowKey (b : Option Nat) (k : Nat) : Prop :=
  match b with
  | none => True
  | some x => x < k

theorem smapOk_cons {β : Type} [DecidableEq β] {d : Nat → β} {b : Option Nat} {k : Nat} {v : β} {r : SMap β} :
    smapOk d b ((k, v) :: r) = true ↔ belowKey b k ∧ v ≠ d k ∧ smapOk d (some k) r = true := by
  cases b <;> simp [smapOk, belowKey, and_assoc]

theorem smapErase_ok {β : Type} [DecidableEq β] {d : Nat → β} (m : SMap β) (k : Nat) (b : Option Nat)
    (h : smapOk d b m = true) : smapOk d b (smapErase m k) = true := by
  induction m generalizing b with
  | nil => exact h
  | cons e r ih =>
    obtain ⟨k', v⟩ := e
    rw [smapOk_cons] at h
    simp only [smapErase]
    split
    · refine ih _ ?_
      cases b with
      | none => exact smapOk_none h.2.2
      | some x => exact smapOk_mono (Nat.le_of_lt h.1) h.2.2
    · rw [smapOk_cons]
      exact ⟨h.1, h.2.1, ih _ h.2.2⟩

theorem smapPut_ok {β : Type} [DecidableEq β] {d : Nat → β} (m : SMap β) (k : Nat) (v : β) (b : Option Nat) (hb : belowKey b k)
    (hv : v ≠ d k) (h : smapOk d b m = true) : smapOk d b (smapPut m k v) = true := by
  induction m generalizing b with
  | nil => exact smapOk_cons.mpr ⟨hb, hv, rfl⟩
  | cons e r ih =>
    obtain ⟨k', v'⟩ := e
    rw [smapOk_cons] at h
    simp only [smapPut]
    split
    next hk => exact smapOk_cons.mpr ⟨hb, hv, smapOk_cons.mpr ⟨hk, h.2.1, h.2.2⟩⟩
    next hk =>
      split
      next he => subst he; exact smapOk_cons.mpr ⟨hb, hv, h.2.2⟩
      next he => exact smapOk_cons.mpr ⟨h.1, h.2.1, ih _ (by show k' < k; omega) h.2.2⟩

/-- Writing a value keeps the canonical form. -/
theorem smapSet_wf {β : Type} [DecidableEq β] {d : Nat → β} {m : SMap β} (k : Nat) (v : β) (h : SMapWf d m) :
    SMapWf d (smapSet d m k v) := by
  unfold smapSet
  split
  · exact smapErase_ok m k none h
  next hv => exact smapPut_ok m k v none trivial hv h

theorem smapOk_filter {β : Type} [DecidableEq β] {d : Nat → β} (m : SMap β) (p : Nat × β → Bool) (b : Option Nat)
    (h : smapOk d b m = true) : smapOk d b (m.filter p) = true := by
  induction m generalizing b with
  | nil => exact h
  | cons e r ih =>
    obtain ⟨k, v⟩ := e
    rw [smapOk_cons] at h
    by_cases hp : p (k, v) = true
    · rw [List.filter_cons_of_pos hp, smapOk_cons]
      exact ⟨h.1, h.2.1, ih _ h.2.2⟩
    · rw [List.filter_cons_of_neg hp]
      refine ih _ ?_
      cases b with
      | none => exact smapOk_none h.2.2
      | some x => exact smapOk_mono (Nat.le_of_lt h.1) h.2.2

/-- Dropping entries keeps the canonical form. -/
theorem filter_wf {β : Type} [DecidableEq β] {d : Nat → β} {m : SMap β} (p : Nat × β → Bool) (h : SMapWf d m) :
    SMapWf d (m.filter p) := smapOk_filter m p none h

end Sys2Proof

namespace Sys2Proof.Machine

/-- The queue holds `Q`, and memory and the register file are in canonical form. -/
structure Kept (Q : List Instr) (s : State) : Prop where
  pending : s.pending = Q
  mem : Memory.wf s.mem
  regs : RegsWf s.regs

/-- An outcome keeps them when it is a next state that does. -/
structure Keeps (Q : List Instr) (r : Host.Outcome State Fault Refusal) : Prop where
  next : ∀ t, r = .next t → Kept Q t

theorem kept_next {Q : List Instr} {s : State} (h : Kept Q s) : Keeps Q (.next s) := by
  constructor
  intro t e
  cases e
  exact h

theorem keeps_fault {Q : List Instr} {f : Fault} : Keeps Q (.fault f) := by
  constructor
  intro t e
  cases e

/-- A state written out. -/
theorem kept_mk {Q : List Instr} {pending free time cycScribe cycCopyist regs mem poison tlb ctxs jobs marks clu dx sets caches tiers hreqs nbq parts lgq nbFailed hot tables undo pubq holds hdir snoops out rings folio sealedImg twin fw ledger ledlog lan swaps blot power mgr qps groups ingest reports events} :
    Kept Q ⟨pending, free, time, cycScribe, cycCopyist, regs, mem, poison, tlb, ctxs, jobs, marks, clu, dx, sets, caches, tiers, hreqs, nbq, parts, lgq, nbFailed, hot, tables, undo, pubq, holds, hdir, snoops, out, rings, folio, sealedImg, twin, fw, ledger, ledlog, lan, swaps, blot, power, mgr, qps, groups, ingest, reports, events⟩ ↔ pending = Q ∧ SMapWf emptyByte mem ∧ SMapWf resetOf regs :=
  ⟨fun h => ⟨h.pending, h.mem, h.regs⟩, fun h => ⟨h.1, h.2.1, h.2.2⟩⟩

/-- An update of other fields. -/
theorem kept_fold {Q : List Instr} {s : State} (h : Kept Q s) :
    s.pending = Q ∧ SMapWf emptyByte s.mem ∧ SMapWf resetOf s.regs := ⟨h.pending, h.mem, h.regs⟩

/-- Entries of memory are dropped. -/
theorem kept_fold_mem {Q : List Instr} {s : State} {p : Host.Cell → Bool} (h : Kept Q s) :
    s.pending = Q ∧ SMapWf emptyByte (s.mem.filter p) ∧ SMapWf resetOf s.regs := ⟨h.pending, filter_wf p h.mem, h.regs⟩

/-- Entries of memory and of the register file are dropped. -/
theorem kept_fold_both {Q : List Instr} {s : State} {p : Host.Cell → Bool} {g : Nat × Word → Bool} (h : Kept Q s) :
    s.pending = Q ∧ SMapWf emptyByte (s.mem.filter p) ∧ SMapWf resetOf (s.regs.filter g) :=
  ⟨h.pending, filter_wf p h.mem, filter_wf g h.regs⟩

/-- A fold of steps that keep them. -/
theorem kept_foldl {Q : List Instr} {α : Type} {f : State → α → State} {l : List α} {s : State}
    (hf : ∀ t x, Kept Q t → Kept Q (f t x)) (hs : Kept Q s) : Kept Q (l.foldl f s) := by
  induction l generalizing s with
  | nil => exact hs
  | cons a l ih => exact ih (hf _ _ hs)

/-- An operation that may give no state keeps them in the state that it gives. -/
structure KeptO (Q : List Instr) (x : Option State) : Prop where
  of : ∀ r, x = some r → Kept Q r

theorem kept_some {Q : List Instr} {x : State} (h : Kept Q x) : KeptO Q (some x) := by
  constructor
  intro r e
  cases e
  exact h

theorem kept_none {Q : List Instr} : KeptO Q none := by
  constructor
  intro r e
  cases e

/-- A fold whose accumulator carries the state first. -/
theorem kept_foldl_fst {Q : List Instr} {α β : Type} {f : State × β → α → State × β} {l : List α} {a : State × β}
    (hf : ∀ a x, Kept Q a.1 → Kept Q (f a x).1) (hs : Kept Q a.1) : Kept Q (l.foldl f a).1 := by
  induction l generalizing a with
  | nil => exact hs
  | cons x l ih => exact ih (hf _ _ hs)

/-- A fold whose accumulator carries the state second. -/
theorem kept_foldl_snd {Q : List Instr} {α β : Type} {f : β × State → α → β × State} {l : List α} {a : β × State}
    (hf : ∀ a x, Kept Q a.2 → Kept Q (f a x).2) (hs : Kept Q a.2) : Kept Q (l.foldl f a).2 := by
  induction l generalizing a with
  | nil => exact hs
  | cons x l ih => exact ih (hf _ _ hs)

/-- The state of a pair that a call gives. -/
theorem kept_fst {Q : List Instr} {β : Type} {a : State × β} {t : State} {x : β} (e : a = (t, x)) (h : Kept Q a.1) : Kept Q t := by
  rw [e] at h; exact h

/-- The same, the state standing second. -/
theorem kept_snd {Q : List Instr} {β : Type} {a : β × State} {t : State} {x : β} (e : a = (x, t)) (h : Kept Q a.2) : Kept Q t := by
  rw [e] at h; exact h

/-- The state of a pair that a condition chooses. -/
theorem kept_ite_fst {Q : List Instr} {β : Type} {c : Prop} [Decidable c] {a b : State × β} {t : State} {x : β}
    (e : (if c then a else b) = (t, x)) (ha : Kept Q a.1) (hb : Kept Q b.1) : Kept Q t := by
  split at e
  · rw [e] at ha; exact ha
  · rw [e] at hb; exact hb

/-- The same, the state standing second. -/
theorem kept_ite_snd {Q : List Instr} {β : Type} {c : Prop} [Decidable c] {a b : β × State} {t : State} {x : β}
    (e : (if c then a else b) = (x, t)) (ha : Kept Q a.2) (hb : Kept Q b.2) : Kept Q t := by
  split at e
  · rw [e] at ha; exact ha
  · rw [e] at hb; exact hb

end Sys2Proof.Machine
end

