-- ==== Sys2Proof/Laws/KeptOps.lean ====
section
/-! SUPPORT. What Machine/Ops.lean keeps: the queue, and the canonical form of memory and of the register file. -/

set_option linter.unreachableTactic false
set_option linter.unusedTactic false
set_option linter.unusedVariables false
set_option linter.unusedSimpArgs false

namespace Sys2Proof.Machine

theorem State.setReg_kept {Q : List Instr} {s : State} {k : Nat} {v : Word} (h_s : Kept Q s) :
  Kept Q (State.setReg s k v) := by
  exact ⟨h_s.pending, h_s.mem, smapSet_wf k v h_s.regs⟩

theorem State.setRfld_kept {Q : List Instr} {s : State} {k hi lo x : Nat} (h_s : Kept Q s) :
  Kept Q (State.setRfld s k hi lo x) := by
  unfold State.setRfld
  repeat' (first | with_reducible assumption | with_reducible apply State.setReg_kept)

theorem State.setRbit_kept {Q : List Instr} {s : State} {k n : Nat} {b : Bool} (h_s : Kept Q s) :
  Kept Q (State.setRbit s k n b) := by
  unfold State.setRbit
  repeat' (first | with_reducible assumption | with_reducible apply State.setReg_kept)

theorem State.bumpBy_kept {Q : List Instr} {s : State} {k n : Nat} (h_s : Kept Q s) :
  Kept Q (State.bumpBy s k n) := by
  unfold State.bumpBy
  repeat' (first | with_reducible assumption | with_reducible apply State.setReg_kept)

theorem State.bump_kept {Q : List Instr} {s : State} {k : Nat} (h_s : Kept Q s) :
  Kept Q (State.bump s k) := by
  unfold State.bump
  repeat' (first | with_reducible assumption | with_reducible apply State.bumpBy_kept)

theorem State.swReg_kept {Q : List Instr} {s : State} {k : Nat} {v : Word} (h_s : Kept Q s) :
  Kept Q (State.swReg s k v) := by
  unfold State.swReg
  repeat' (first | with_reducible assumption | with_reducible apply State.setReg_kept | split)

theorem State.draw_kept' {Q : List Instr} {s : State} (h_s : Kept Q s) : Kept Q (State.draw s).2 := by
  unfold State.draw
  repeat' (first | with_reducible assumption | (simp only [kept_mk]; with_reducible apply kept_fold))


theorem State.draw_kept {Q : List Instr} {s : State} {r0 : Word} {r1 : State} (e : State.draw s = (r0, r1)) (h_s : Kept Q s) : Kept Q r1 := by
  have h := State.draw_kept' (Q := Q) (s := s)  h_s
  rw [e] at h
  exact h

theorem State.bumpFree_kept {Q : List Instr} {s : State} {k : Nat} (h_s : Kept Q s) :
  Kept Q (State.bumpFree s k) := by
  unfold State.bumpFree
  repeat' (first | with_reducible assumption | with_reducible apply State.draw_kept' | with_reducible apply State.setReg_kept)

theorem State.bumpUpTo_kept {Q : List Instr} {s : State} {k bound : Nat} (h_s : Kept Q s) :
  Kept Q (State.bumpUpTo s k bound) := by
  unfold State.bumpUpTo
  repeat' (first | with_reducible assumption | with_reducible apply State.bumpBy_kept | with_reducible apply State.draw_kept' | split)

theorem State.setCtx_kept {Q : List Instr} {s : State} {h : Hart} {c : Ctx} (h_s : Kept Q s) :
  Kept Q (State.setCtx s h c) := by
  unfold State.setCtx
  repeat' (first | with_reducible assumption | (simp only [kept_mk]; with_reducible apply kept_fold))

theorem State.modCtx_kept {Q : List Instr} {s : State} {h : Hart} {f : Ctx → Ctx} (h_s : Kept Q s) :
  Kept Q (State.modCtx s h f) := by
  unfold State.modCtx
  repeat' (first | with_reducible assumption | with_reducible apply State.setCtx_kept)

theorem State.setJob_kept {Q : List Instr} {s : State} {j : Nat} {x : Job} (h_s : Kept Q s) :
  Kept Q (State.setJob s j x) := by
  unfold State.setJob
  repeat' (first | with_reducible assumption | (simp only [kept_mk]; with_reducible apply kept_fold))

theorem State.setCl_kept {Q : List Instr} {s : State} {k : Nat} {c : Cluster} (h_s : Kept Q s) :
  Kept Q (State.setCl s k c) := by
  unfold State.setCl
  repeat' (first | with_reducible assumption | (simp only [kept_mk]; with_reducible apply kept_fold))

theorem State.modCl_kept {Q : List Instr} {s : State} {k : Nat} {f : Cluster → Cluster} (h_s : Kept Q s) :
  Kept Q (State.modCl s k f) := by
  unfold State.modCl
  repeat' (first | with_reducible assumption | with_reducible apply State.setCl_kept)

theorem State.setMarkRt_kept {Q : List Instr} {s : State} {n : Nat} {m : MarkRt} (h_s : Kept Q s) :
  Kept Q (State.setMarkRt s n m) := by
  unfold State.setMarkRt
  repeat' (first | with_reducible assumption | (simp only [kept_mk]; with_reducible apply kept_fold))

theorem State.setCache_kept {Q : List Instr} {s : State} {c : Nat} {x : CacheRt} (h_s : Kept Q s) :
  Kept Q (State.setCache s c x) := by
  unfold State.setCache
  repeat' (first | with_reducible assumption | (simp only [kept_mk]; with_reducible apply kept_fold))

theorem State.setDom_kept {Q : List Instr} {s : State} {d x : Nat} (h_s : Kept Q s) :
  Kept Q (State.setDom s d x) := by
  unfold State.setDom
  repeat' (first | with_reducible assumption | with_reducible apply State.setRfld_kept)

theorem State.wr_kept {Q : List Instr} {s : State} {pa : Nat} {b : Byte} (h_s : Kept Q s) :
  Kept Q (State.wr s pa b) := by
  exact ⟨h_s.pending, smapSet_wf pa b h_s.mem, h_s.regs⟩

theorem State.wrRaw_kept {Q : List Instr} {s : State} {pa : Nat} {e0 : List Byte} (h_s : Kept Q s) :
  Kept Q (State.wrRaw s pa e0) := by
  induction e0 generalizing s pa <;> (
  unfold State.wrRaw
  repeat' (first | with_reducible assumption | with_reducible apply State.wr_kept | with_reducible apply_assumption -exfalso -symm))

theorem State.wrN_kept {Q : List Instr} {s : State} {pa : Nat} {bs : List Byte} (h_s : Kept Q s) :
  Kept Q (State.wrN s pa bs) := by
  unfold State.wrN
  repeat' (first | with_reducible assumption | with_reducible apply State.wrRaw_kept | (simp only [kept_mk]; with_reducible apply kept_fold))

theorem State.addPoison_kept {Q : List Instr} {s : State} {w : Nat} (h_s : Kept Q s) :
  Kept Q (State.addPoison s w) := by
  unfold State.addPoison
  repeat' (first | with_reducible assumption | (simp only [kept_mk]; with_reducible apply kept_fold) | split)

theorem State.modHot_kept {Q : List Instr} {s : State} {f : Hot → Hot} (h_s : Kept Q s) :
  Kept Q (State.modHot s f) := by
  unfold State.modHot
  repeat' (first | with_reducible assumption | (simp only [kept_mk]; with_reducible apply kept_fold))

theorem State.countLoad_kept {Q : List Instr} {s : State} {pa n : Nat} (h_s : Kept Q s) :
  Kept Q (State.countLoad s pa n) := by
  unfold State.countLoad
  repeat' (first | with_reducible assumption | with_reducible apply State.modHot_kept)

theorem State.report_kept {Q : List Instr} {s : State} {r : Report} (h_s : Kept Q s) :
  Kept Q (State.report s r) := by
  unfold State.report
  repeat' (first | with_reducible assumption | (simp only [kept_mk]; with_reducible apply kept_fold))

theorem State.poisonedRead_kept {Q : List Instr} {s : State} {pa : Nat} {who : UnitId} {job : Nat} (h_s : Kept Q s) :
  Kept Q (State.poisonedRead s pa who job) := by
  unfold State.poisonedRead
  repeat' (first | with_reducible assumption | with_reducible apply State.bump_kept | with_reducible apply State.report_kept | with_reducible apply State.setReg_kept | (extract_lets +onlyGivenNames t; clear_value t) | split)

theorem State.post_kept {Q : List Instr} {s : State} {e : Event} (h_s : Kept Q s) :
  Kept Q (State.post s e) := by
  unfold State.post
  repeat' (first | with_reducible assumption | with_reducible apply State.bump_kept | (simp only [kept_mk]; with_reducible apply kept_fold) | split)

theorem State.dropWaits_kept {Q : List Instr} {s : State} {gone : Hart → Bool} (h_s : Kept Q s) :
  Kept Q (State.dropWaits s gone) := by
  unfold State.dropWaits
  repeat' (first | with_reducible assumption | (simp only [kept_mk]; with_reducible apply kept_fold))

theorem State.dropTasks_kept {Q : List Instr} {s : State} {j : Nat} (h_s : Kept Q s) :
  Kept Q (State.dropTasks s j) := by
  unfold State.dropTasks
  repeat' (first | with_reducible assumption | with_reducible apply State.dropWaits_kept | (simp only [kept_mk]; with_reducible apply kept_fold))

theorem State.endPins_kept {Q : List Instr} {s : State} {j : Nat} (h_s : Kept Q s) :
  Kept Q (State.endPins s j) := by
  unfold State.endPins
  repeat' (first | with_reducible assumption | with_reducible apply State.setRfld_kept | (simp only [kept_mk]; with_reducible apply kept_fold))

theorem State.dropNear_kept {Q : List Instr} {s : State} (h_s : Kept Q s) :
  Kept Q (State.dropNear s) := by
  unfold State.dropNear
  repeat' (first | with_reducible assumption | (simp only [kept_mk]; with_reducible apply kept_fold))

theorem State.stopJob_kept {Q : List Instr} {s : State} {j : Nat} {code : Nat} {xval tid : Word} (h_s : Kept Q s) :
  Kept Q (State.stopJob s j code xval tid) := by
  unfold State.stopJob
  repeat' (first | with_reducible assumption | with_reducible apply State.dropNear_kept | with_reducible apply State.dropTasks_kept | with_reducible apply State.endPins_kept | with_reducible apply State.post_kept | with_reducible apply State.setJob_kept | with_reducible apply State.setRbit_kept | (simp only [kept_mk]; with_reducible apply kept_fold))

theorem State.alertMove_kept {Q : List Instr} {s : State} {g : State → State} (h_s : Kept Q s) (h_g : ∀ y0, Kept Q y0 → Kept Q (g y0)) :
  Kept Q (State.alertMove s g) := by
  unfold State.alertMove
  repeat' (first | with_reducible assumption | (simp only [kept_mk]; with_reducible apply kept_fold) | (extract_lets +onlyGivenNames t; (have ht : Kept Q t := (by unfold t; repeat' (first | with_reducible assumption | with_reducible apply State.setRbit_kept | with_reducible apply h_g))); clear_value t) | split)

theorem State.alert_kept {Q : List Instr} {s : State} {b : Nat} (h_s : Kept Q s) :
  Kept Q (State.alert s b) := by
  unfold State.alert
  repeat' (first | with_reducible assumption | with_reducible apply State.alertMove_kept | with_reducible apply State.setRbit_kept | with_reducible refine fun _ => ?_)

theorem State.fwHalt_kept {Q : List Instr} {s : State} {cause : Nat} (h_s : Kept Q s) :
  Kept Q (State.fwHalt s cause) := by
  unfold State.fwHalt
  repeat' (first | with_reducible assumption | with_reducible apply State.alert_kept | with_reducible apply State.setRbit_kept | (simp only [kept_mk]; with_reducible apply kept_fold))

theorem State.enter_kept {Q : List Instr} {s : State} {h : Hart} {code : XCode} {val : Word} {trap eng : Nat} (h_s : Kept Q s) :
  Kept Q (State.enter s h code val trap eng) := by
  unfold State.enter
  repeat' (first | with_reducible assumption | with_reducible apply State.fwHalt_kept | with_reducible apply State.setCtx_kept | with_reducible apply State.stopJob_kept | (extract_lets +onlyGivenNames t; clear_value t) | split)

theorem State.raise_kept {Q : List Instr} {s : State} {h : Hart} {code : XCode} {val : Word} (h_s : Kept Q s) :
  Kept Q (State.raise s h code val) := by
  unfold State.raise
  repeat' (first | with_reducible assumption | with_reducible apply State.enter_kept | with_reducible apply State.modCtx_kept | split)

theorem State.pageFault_kept {Q : List Instr} {s : State} {h : Hart} {va : Word} {store : Bool} (h_s : Kept Q s) :
  Kept Q (State.pageFault s h va store) := by
  unfold State.pageFault
  repeat' (first | with_reducible assumption | with_reducible apply State.modCtx_kept)

theorem State.retx_kept {Q : List Instr} {s : State} {h : Hart} (h_s : Kept Q s) :
  Kept Q (State.retx s h) := by
  unfold State.retx
  repeat' (first | with_reducible assumption | with_reducible apply State.modCtx_kept)

theorem State.modTask_kept {Q : List Instr} {s : State} {k : Nat} {o : Owner} {f : Ctx → Ctx} (h_s : Kept Q s) :
  Kept Q (State.modTask s k o f) := by
  unfold State.modTask
  repeat' (first | with_reducible assumption | with_reducible apply State.modCtx_kept | (simp only [kept_mk]; with_reducible apply kept_fold) | (extract_lets +onlyGivenNames t; clear_value t) | split)

theorem State.takeReport_kept {Q : List Instr} {s : State} {h : Hart} {r : EngReport} {rest : List EngReport} (h_s : Kept Q s) :
  Kept Q (State.takeReport s h r rest) := by
  unfold State.takeReport
  repeat' (first | with_reducible assumption | with_reducible apply State.enter_kept | with_reducible apply State.modCtx_kept)

theorem State.engReport_kept {Q : List Instr} {s : State} {k : Nat} {o : Owner} {group : Nat} {val : Word} (h_s : Kept Q s) :
  Kept Q (State.engReport s k o group val) := by
  unfold State.engReport
  repeat' (first | with_reducible assumption | with_reducible apply State.modTask_kept)

end Sys2Proof.Machine
end

