-- ==== Sys2Proof/Laws/KeptOperands.lean ====
section
/-! SUPPORT. What Machine/Operands.lean keeps: the queue, and the canonical form of memory and of the register file. -/

set_option linter.unreachableTactic false
set_option linter.unusedTactic false
set_option linter.unusedVariables false
set_option linter.unusedSimpArgs false

namespace Sys2Proof.Machine

theorem State.waits_kept {Q : List Instr} {s : State} {h : Hart} (h_s : Kept Q s) :
  Kept Q (State.waits s h) := by
  unfold State.waits
  repeat' (first | with_reducible assumption | with_reducible apply State.modCtx_kept)

theorem State.issue_kept {Q : List Instr} {s : State} {h : Hart} {w : Word} {legal : Bool} {mask : Nat} {as ms : List Nat} {body : State → State} (h_s : Kept Q s) (h_body : ∀ y0, Kept Q y0 → Kept Q (body y0)) :
  Kept Q (State.issue s h w legal mask as ms body) := by
  unfold State.issue
  repeat' (first | with_reducible assumption | with_reducible apply State.modCtx_kept | with_reducible apply State.raise_kept | with_reducible apply h_body | split)

theorem State.checked_kept {Q : List Instr} {s : State} {h : Hart} {w : Word} {ok : Bool} {g : State → State} (h_s : Kept Q s) (h_g : ∀ y0, Kept Q y0 → Kept Q (g y0)) :
  Kept Q (State.checked s h w ok g) := by
  unfold State.checked
  repeat' (first | with_reducible assumption | with_reducible apply State.raise_kept | with_reducible apply h_g | split)

end Sys2Proof.Machine
end

