-- ==== Sys2Proof/Laws/KeptScalarInt.lean ====
section
/-! SUPPORT. What Machine/ScalarInt.lean keeps: the queue, and the canonical form of memory and of the register file. -/

set_option linter.unreachableTactic false
set_option linter.unusedTactic false
set_option linter.unusedVariables false
set_option linter.unusedSimpArgs false

namespace Sys2Proof.Machine

theorem State.intEff_kept {Q : List Instr} {h : Hart} {f : FormT} {g : Word → Word → Word} {s : State} (h_s : Kept Q s) :
  Kept Q (State.intEff h f g s) := by
  unfold State.intEff
  repeat' (first | with_reducible assumption | with_reducible apply State.modCtx_kept)

theorem State.intOp_kept {Q : List Instr} {s : State} {op : Nat} {two : Bool} {h : Hart} {f : FormT} {g : Word → Word → Word} (h_s : Kept Q s) :
  Keeps Q (State.intOp s op two h f g) := by
  unfold State.intOp
  repeat' (first | with_reducible assumption | with_reducible apply State.intEff_kept | with_reducible apply State.issue_kept | with_reducible apply kept_next)

theorem State.immEff_kept {Q : List Instr} {h : Hart} {f : FormK} {g : Word → Word → Word} {s : State} (h_s : Kept Q s) :
  Kept Q (State.immEff h f g s) := by
  unfold State.immEff
  repeat' (first | with_reducible assumption | with_reducible apply State.modCtx_kept)

theorem State.immOp_kept {Q : List Instr} {s : State} {op : Nat} {shift noSrc : Bool} {h : Hart} {f : FormK} {g : Word → Word → Word} (h_s : Kept Q s) :
  Keeps Q (State.immOp s op shift noSrc h f g) := by
  unfold State.immOp
  repeat' (first | with_reducible assumption | with_reducible apply State.immEff_kept | with_reducible apply State.issue_kept | with_reducible apply kept_next)

theorem execAdd_kept {Q : List Instr} {h : Hart} {f : FormT} {s : State} (h_s : Kept Q s) :
  Keeps Q (execAdd h f s) := by
  unfold execAdd
  repeat' (first | with_reducible assumption | with_reducible apply State.intOp_kept)

theorem execSub_kept {Q : List Instr} {h : Hart} {f : FormT} {s : State} (h_s : Kept Q s) :
  Keeps Q (execSub h f s) := by
  unfold execSub
  repeat' (first | with_reducible assumption | with_reducible apply State.intOp_kept)

theorem execAnd_kept {Q : List Instr} {h : Hart} {f : FormT} {s : State} (h_s : Kept Q s) :
  Keeps Q (execAnd h f s) := by
  unfold execAnd
  repeat' (first | with_reducible assumption | with_reducible apply State.intOp_kept)

theorem execOr_kept {Q : List Instr} {h : Hart} {f : FormT} {s : State} (h_s : Kept Q s) :
  Keeps Q (execOr h f s) := by
  unfold execOr
  repeat' (first | with_reducible assumption | with_reducible apply State.intOp_kept)

theorem execXor_kept {Q : List Instr} {h : Hart} {f : FormT} {s : State} (h_s : Kept Q s) :
  Keeps Q (execXor h f s) := by
  unfold execXor
  repeat' (first | with_reducible assumption | with_reducible apply State.intOp_kept)

theorem execAndn_kept {Q : List Instr} {h : Hart} {f : FormT} {s : State} (h_s : Kept Q s) :
  Keeps Q (execAndn h f s) := by
  unfold execAndn
  repeat' (first | with_reducible assumption | with_reducible apply State.intOp_kept)

theorem execSll_kept {Q : List Instr} {h : Hart} {f : FormT} {s : State} (h_s : Kept Q s) :
  Keeps Q (execSll h f s) := by
  unfold execSll
  repeat' (first | with_reducible assumption | with_reducible apply State.intOp_kept)

theorem execSrl_kept {Q : List Instr} {h : Hart} {f : FormT} {s : State} (h_s : Kept Q s) :
  Keeps Q (execSrl h f s) := by
  unfold execSrl
  repeat' (first | with_reducible assumption | with_reducible apply State.intOp_kept)

theorem execSra_kept {Q : List Instr} {h : Hart} {f : FormT} {s : State} (h_s : Kept Q s) :
  Keeps Q (execSra h f s) := by
  unfold execSra
  repeat' (first | with_reducible assumption | with_reducible apply State.intOp_kept)

theorem execSlt_kept {Q : List Instr} {h : Hart} {f : FormT} {s : State} (h_s : Kept Q s) :
  Keeps Q (execSlt h f s) := by
  unfold execSlt
  repeat' (first | with_reducible assumption | with_reducible apply State.intOp_kept)

theorem execSltu_kept {Q : List Instr} {h : Hart} {f : FormT} {s : State} (h_s : Kept Q s) :
  Keeps Q (execSltu h f s) := by
  unfold execSltu
  repeat' (first | with_reducible assumption | with_reducible apply State.intOp_kept)

theorem execMin_kept {Q : List Instr} {h : Hart} {f : FormT} {s : State} (h_s : Kept Q s) :
  Keeps Q (execMin h f s) := by
  unfold execMin
  repeat' (first | with_reducible assumption | with_reducible apply State.intOp_kept)

theorem execMax_kept {Q : List Instr} {h : Hart} {f : FormT} {s : State} (h_s : Kept Q s) :
  Keeps Q (execMax h f s) := by
  unfold execMax
  repeat' (first | with_reducible assumption | with_reducible apply State.intOp_kept)

theorem execMinu_kept {Q : List Instr} {h : Hart} {f : FormT} {s : State} (h_s : Kept Q s) :
  Keeps Q (execMinu h f s) := by
  unfold execMinu
  repeat' (first | with_reducible assumption | with_reducible apply State.intOp_kept)

theorem execMaxu_kept {Q : List Instr} {h : Hart} {f : FormT} {s : State} (h_s : Kept Q s) :
  Keeps Q (execMaxu h f s) := by
  unfold execMaxu
  repeat' (first | with_reducible assumption | with_reducible apply State.intOp_kept)

theorem execMul_kept {Q : List Instr} {h : Hart} {f : FormT} {s : State} (h_s : Kept Q s) :
  Keeps Q (execMul h f s) := by
  unfold execMul
  repeat' (first | with_reducible assumption | with_reducible apply State.intOp_kept)

theorem execMulh_kept {Q : List Instr} {h : Hart} {f : FormT} {s : State} (h_s : Kept Q s) :
  Keeps Q (execMulh h f s) := by
  unfold execMulh
  repeat' (first | with_reducible assumption | with_reducible apply State.intOp_kept)

theorem execMulhu_kept {Q : List Instr} {h : Hart} {f : FormT} {s : State} (h_s : Kept Q s) :
  Keeps Q (execMulhu h f s) := by
  unfold execMulhu
  repeat' (first | with_reducible assumption | with_reducible apply State.intOp_kept)

theorem execDiv_kept {Q : List Instr} {h : Hart} {f : FormT} {s : State} (h_s : Kept Q s) :
  Keeps Q (execDiv h f s) := by
  unfold execDiv
  repeat' (first | with_reducible assumption | with_reducible apply State.intOp_kept)

theorem execDivu_kept {Q : List Instr} {h : Hart} {f : FormT} {s : State} (h_s : Kept Q s) :
  Keeps Q (execDivu h f s) := by
  unfold execDivu
  repeat' (first | with_reducible assumption | with_reducible apply State.intOp_kept)

theorem execRem_kept {Q : List Instr} {h : Hart} {f : FormT} {s : State} (h_s : Kept Q s) :
  Keeps Q (execRem h f s) := by
  unfold execRem
  repeat' (first | with_reducible assumption | with_reducible apply State.intOp_kept)

theorem execRemu_kept {Q : List Instr} {h : Hart} {f : FormT} {s : State} (h_s : Kept Q s) :
  Keeps Q (execRemu h f s) := by
  unfold execRemu
  repeat' (first | with_reducible assumption | with_reducible apply State.intOp_kept)

theorem execClz_kept {Q : List Instr} {h : Hart} {f : FormT} {s : State} (h_s : Kept Q s) :
  Keeps Q (execClz h f s) := by
  unfold execClz
  repeat' (first | with_reducible assumption | with_reducible apply State.intOp_kept)

theorem execCtz_kept {Q : List Instr} {h : Hart} {f : FormT} {s : State} (h_s : Kept Q s) :
  Keeps Q (execCtz h f s) := by
  unfold execCtz
  repeat' (first | with_reducible assumption | with_reducible apply State.intOp_kept)

theorem execPopc_kept {Q : List Instr} {h : Hart} {f : FormT} {s : State} (h_s : Kept Q s) :
  Keeps Q (execPopc h f s) := by
  unfold execPopc
  repeat' (first | with_reducible assumption | with_reducible apply State.intOp_kept)

theorem execAddi_kept {Q : List Instr} {h : Hart} {f : FormK} {s : State} (h_s : Kept Q s) :
  Keeps Q (execAddi h f s) := by
  unfold execAddi
  repeat' (first | with_reducible assumption | with_reducible apply State.immOp_kept)

theorem execAndi_kept {Q : List Instr} {h : Hart} {f : FormK} {s : State} (h_s : Kept Q s) :
  Keeps Q (execAndi h f s) := by
  unfold execAndi
  repeat' (first | with_reducible assumption | with_reducible apply State.immOp_kept)

theorem execOri_kept {Q : List Instr} {h : Hart} {f : FormK} {s : State} (h_s : Kept Q s) :
  Keeps Q (execOri h f s) := by
  unfold execOri
  repeat' (first | with_reducible assumption | with_reducible apply State.immOp_kept)

theorem execXori_kept {Q : List Instr} {h : Hart} {f : FormK} {s : State} (h_s : Kept Q s) :
  Keeps Q (execXori h f s) := by
  unfold execXori
  repeat' (first | with_reducible assumption | with_reducible apply State.immOp_kept)

theorem execSlli_kept {Q : List Instr} {h : Hart} {f : FormK} {s : State} (h_s : Kept Q s) :
  Keeps Q (execSlli h f s) := by
  unfold execSlli
  repeat' (first | with_reducible assumption | with_reducible apply State.immOp_kept)

theorem execSrli_kept {Q : List Instr} {h : Hart} {f : FormK} {s : State} (h_s : Kept Q s) :
  Keeps Q (execSrli h f s) := by
  unfold execSrli
  repeat' (first | with_reducible assumption | with_reducible apply State.immOp_kept)

theorem execSrai_kept {Q : List Instr} {h : Hart} {f : FormK} {s : State} (h_s : Kept Q s) :
  Keeps Q (execSrai h f s) := by
  unfold execSrai
  repeat' (first | with_reducible assumption | with_reducible apply State.immOp_kept)

theorem execSlti_kept {Q : List Instr} {h : Hart} {f : FormK} {s : State} (h_s : Kept Q s) :
  Keeps Q (execSlti h f s) := by
  unfold execSlti
  repeat' (first | with_reducible assumption | with_reducible apply State.immOp_kept)

theorem execSltiu_kept {Q : List Instr} {h : Hart} {f : FormK} {s : State} (h_s : Kept Q s) :
  Keeps Q (execSltiu h f s) := by
  unfold execSltiu
  repeat' (first | with_reducible assumption | with_reducible apply State.immOp_kept)

theorem execMovi_kept {Q : List Instr} {h : Hart} {f : FormK} {s : State} (h_s : Kept Q s) :
  Keeps Q (execMovi h f s) := by
  unfold execMovi
  repeat' (first | with_reducible assumption | with_reducible apply State.immOp_kept)

theorem execMovhi_kept {Q : List Instr} {h : Hart} {f : FormK} {s : State} (h_s : Kept Q s) :
  Keeps Q (execMovhi h f s) := by
  unfold execMovhi
  repeat' (first | with_reducible assumption | with_reducible apply State.immOp_kept)

theorem execAuipc_kept {Q : List Instr} {h : Hart} {f : FormK} {s : State} (h_s : Kept Q s) :
  Keeps Q (execAuipc h f s) := by
  unfold execAuipc
  repeat' (first | with_reducible assumption | with_reducible apply State.immOp_kept)

end Sys2Proof.Machine
end

