-- ==== Sys2Proof/Laws/KeptCache.lean ====
section
/-! SUPPORT. What Machine/Cache.lean keeps: the queue, and the canonical form of memory and of the register file. -/

set_option linter.unreachableTactic false
set_option linter.unusedTactic false
set_option linter.unusedVariables false
set_option linter.unusedSimpArgs false

namespace Sys2Proof.Machine

theorem State.setCset_kept {Q : List Instr} {s : State} {key : Nat} {x : CSet} (h_s : Kept Q s) :
  Kept Q (State.setCset s key x) := by
  unfold State.setCset
  repeat' (first | with_reducible assumption | (simp only [kept_mk]; with_reducible apply kept_fold))

theorem State.loseLine_kept {Q : List Instr} {s : State} {core line : Nat} (h_s : Kept Q s) :
  Kept Q (State.loseLine s core line) := by
  unfold State.loseLine
  repeat' (first | with_reducible assumption | with_reducible apply State.setCache_kept | with_reducible apply State.setCset_kept | with_reducible apply State.wrRaw_kept | (extract_lets +onlyGivenNames t; clear_value t) | split)

theorem State.parity_kept {Q : List Instr} {s : State} {core line : Nat} {tag : Bool} (h_s : Kept Q s) :
  Kept Q (State.parity s core line tag) := by
  unfold State.parity
  repeat' (first | with_reducible assumption | with_reducible apply State.bump_kept | with_reducible apply State.loseLine_kept | with_reducible apply State.report_kept | (extract_lets +onlyGivenNames t; clear_value t) | split)

theorem State.checkLine_kept {Q : List Instr} {s : State} {core line : Nat} (h_s : Kept Q s) :
  Kept Q (State.checkLine s core line) := by
  unfold State.checkLine
  repeat' (first | with_reducible assumption | with_reducible apply State.parity_kept | split)

theorem State.strike_kept {Q : List Instr} {s : State} {core line : Nat} {tag : Bool} (h_s : Kept Q s) :
  Kept Q (State.strike s core line tag) := by
  unfold State.strike
  repeat' (first | with_reducible assumption | with_reducible apply State.setCache_kept | with_reducible apply State.setCset_kept | (extract_lets +onlyGivenNames t; clear_value t) | split)

theorem State.recall_kept {Q : List Instr} {s : State} {keep line : Nat} (h_s : Kept Q s) :
  Kept Q (State.recall s keep line) := by
  unfold State.recall
  repeat' (first | with_reducible assumption | with_reducible apply State.bump_kept | with_reducible apply State.checkLine_kept | with_reducible apply kept_foldl | with_reducible refine fun _ => ?_)

theorem State.invalidate_kept {Q : List Instr} {s : State} {keep : Nat} {line : Nat} (h_s : Kept Q s) :
  Kept Q (State.invalidate s keep line) := by
  unfold State.invalidate
  repeat' (first | with_reducible assumption | with_reducible apply State.recall_kept | (simp only [kept_mk]; with_reducible apply kept_fold))

theorem State.snoop_kept {Q : List Instr} {s : State} {keep : Nat} {line : Nat} (h_s : Kept Q s) :
  Kept Q (State.snoop s keep line) := by
  unfold State.snoop
  repeat' (first | with_reducible assumption | with_reducible apply State.recall_kept | (simp only [kept_mk]; with_reducible apply kept_fold))

theorem State.memWrite_kept {Q : List Instr} {s : State} {pa : Nat} {bs : List Byte} (h_s : Kept Q s) :
  Kept Q (State.memWrite s pa bs) := by
  unfold State.memWrite
  repeat' (first | with_reducible assumption | with_reducible apply State.countLoad_kept | with_reducible apply State.invalidate_kept | with_reducible apply State.wrN_kept | with_reducible apply kept_foldl | with_reducible refine fun _ => ?_)

theorem State.memSnoop_kept {Q : List Instr} {s : State} {pa n : Nat} (h_s : Kept Q s) :
  Kept Q (State.memSnoop s pa n) := by
  unfold State.memSnoop
  repeat' (first | with_reducible assumption | with_reducible apply State.snoop_kept | with_reducible apply kept_foldl | with_reducible refine fun _ => ?_)

theorem State.memRead_kept {Q : List Instr} {s : State} {pa n : Nat} (h_s : Kept Q s) :
  Kept Q (State.memRead s pa n) := by
  unfold State.memRead
  repeat' (first | with_reducible assumption | with_reducible apply State.countLoad_kept | with_reducible apply State.memSnoop_kept)

theorem State.dirtyLine_kept {Q : List Instr} {s : State} {core line : Nat} (h_s : Kept Q s) :
  Kept Q (State.dirtyLine s core line) := by
  unfold State.dirtyLine
  repeat' (first | with_reducible assumption | with_reducible apply State.setCset_kept)

theorem State.cleanLine_kept {Q : List Instr} {s : State} {core line : Nat} (h_s : Kept Q s) :
  Kept Q (State.cleanLine s core line) := by
  unfold State.cleanLine
  repeat' (first | with_reducible assumption | with_reducible apply State.setCset_kept)

theorem State.dropLine_kept {Q : List Instr} {s : State} {core line : Nat} (h_s : Kept Q s) :
  Kept Q (State.dropLine s core line) := by
  unfold State.dropLine
  repeat' (first | with_reducible assumption | with_reducible apply State.setCset_kept)

theorem State.touch_kept {Q : List Instr} {s : State} {core line : Nat} (h_s : Kept Q s) :
  Kept Q (State.touch s core line) := by
  unfold State.touch
  repeat' (first | with_reducible assumption | with_reducible apply State.setCset_kept | (extract_lets +onlyGivenNames t; clear_value t) | split)

theorem State.allocate_kept {Q : List Instr} {s0 : State} {core line : Nat} (h_s0 : Kept Q s0) :
  Kept Q (State.allocate s0 core line) := by
  unfold State.allocate
  repeat' (first | with_reducible assumption | with_reducible apply State.checkLine_kept | with_reducible apply State.countLoad_kept | with_reducible apply State.setCache_kept | with_reducible apply State.setCset_kept | (extract_lets +onlyGivenNames t; (have ht : Kept Q t := (by unfold t; repeat' (first | with_reducible assumption | with_reducible apply State.bump_kept | with_reducible apply State.checkLine_kept | (extract_lets +onlyGivenNames t; (have ht : Kept Q t := (by unfold t; repeat' (first | with_reducible assumption | with_reducible apply State.bump_kept | with_reducible apply State.checkLine_kept | split))); clear_value t) | split))); clear_value t) | (extract_lets +onlyGivenNames t; clear_value t) | split)

theorem State.loseCaches_kept {Q : List Instr} {s : State} {core : Nat} (h_s : Kept Q s) :
  Kept Q (State.loseCaches s core) := by
  unfold State.loseCaches
  repeat' (first | with_reducible assumption | with_reducible apply State.wrRaw_kept | (simp only [kept_mk]; with_reducible apply kept_fold) | with_reducible apply kept_foldl | with_reducible refine fun _ => ?_ | split)

theorem State.cleanAll_kept {Q : List Instr} {s0 : State} {core : Nat} (h_s0 : Kept Q s0) :
  Kept Q (State.cleanAll s0 core) := by
  unfold State.cleanAll
  repeat' (first | with_reducible assumption | with_reducible apply State.checkLine_kept | with_reducible apply State.countLoad_kept | with_reducible apply State.setCache_kept | (simp only [kept_mk]; with_reducible apply kept_fold) | with_reducible apply kept_foldl | with_reducible refine fun _ => ?_)

theorem State.dropAll_kept {Q : List Instr} {s : State} {core : Nat} (h_s : Kept Q s) :
  Kept Q (State.dropAll s core) := by
  unfold State.dropAll
  repeat' (first | with_reducible assumption | (simp only [kept_mk]; with_reducible apply kept_fold))

theorem State.prefetch_kept {Q : List Instr} {s : State} {core job : Nat} {a : Int} (h_s : Kept Q s) :
  Kept Q (State.prefetch s core job a) := by
  unfold State.prefetch
  repeat' (first | with_reducible assumption | with_reducible apply State.bump_kept | with_reducible apply State.setCache_kept | (extract_lets +onlyGivenNames t; (have ht : Kept Q t := (by unfold t; repeat' (first | with_reducible assumption | with_reducible apply State.bump_kept))); clear_value t) | (extract_lets +onlyGivenNames t; clear_value t) | split)

theorem State.stride_kept {Q : List Instr} {s : State} {h : Hart} {pc : Word} {va : Nat} (h_s : Kept Q s) :
  Kept Q (State.stride s h pc va) := by
  unfold State.stride
  repeat' (first | with_reducible assumption | with_reducible apply State.prefetch_kept | with_reducible apply kept_foldl | with_reducible refine fun _ => ?_ | (extract_lets +onlyGivenNames t; (have ht : Kept Q t := (by unfold t; repeat' (first | with_reducible assumption | with_reducible apply State.setCache_kept))); clear_value t) | (extract_lets +onlyGivenNames t; clear_value t) | split)

theorem State.startDisable_kept {Q : List Instr} {s : State} {core : Nat} (h_s : Kept Q s) :
  Kept Q (State.startDisable s core) := by
  unfold State.startDisable
  repeat' (first | with_reducible assumption | with_reducible apply State.dropAll_kept | with_reducible apply State.setRbit_kept | (extract_lets +onlyGivenNames t; clear_value t) | split)

theorem State.ccWrite_kept {Q : List Instr} {s : State} {core bits : Nat} {den ien : Bool} (h_s : Kept Q s) :
  Kept Q (State.ccWrite s core bits den ien) := by
  unfold State.ccWrite
  repeat' (first | with_reducible assumption | with_reducible apply State.setRbit_kept | (extract_lets +onlyGivenNames t; (have ht : Kept Q t := (by unfold t; repeat' (first | with_reducible assumption | with_reducible apply State.setCache_kept | with_reducible apply State.setRbit_kept | with_reducible apply State.startDisable_kept | with_reducible apply kept_foldl | with_reducible refine fun _ => ?_ | split))); clear_value t) | (extract_lets +onlyGivenNames t; clear_value t) | split)

theorem State.ccComplete_kept {Q : List Instr} {s : State} {core : Nat} (h_s : Kept Q s) :
  Kept Q (State.ccComplete s core) := by
  unfold State.ccComplete
  repeat' (first | with_reducible assumption | with_reducible apply State.startDisable_kept | (extract_lets +onlyGivenNames t; (have ht : Kept Q t := (by unfold t; repeat' (first | with_reducible assumption | with_reducible apply State.cleanAll_kept | with_reducible apply State.dropAll_kept | with_reducible apply State.setCache_kept | with_reducible apply State.setRbit_kept | with_reducible apply State.setRfld_kept | split))); clear_value t) | (extract_lets +onlyGivenNames t; clear_value t) | split)

theorem State.drainDone_kept {Q : List Instr} {s : State} {core : Nat} (h_s : Kept Q s) :
  Kept Q (State.drainDone s core) := by
  unfold State.drainDone
  repeat' (first | with_reducible assumption | with_reducible apply State.cleanAll_kept | with_reducible apply State.dropAll_kept | with_reducible apply State.setRbit_kept | (extract_lets +onlyGivenNames t; clear_value t) | split)

theorem State.ccCfgWrite_kept {Q : List Instr} {s : State} {core : Nat} {v : Word} (h_s : Kept Q s) :
  Kept Q (State.ccCfgWrite s core v) := by
  unfold State.ccCfgWrite
  repeat' (first | with_reducible assumption | with_reducible apply State.setRbit_kept | with_reducible apply State.setReg_kept | (extract_lets +onlyGivenNames t; clear_value t) | split)

theorem State.translate_kept' {Q : List Instr} {s0 : State} {core job : Nat} {va : Word} {k : AccKind} (h_s0 : Kept Q s0) : Kept Q (State.translate s0 core job va k).2 := by
  unfold State.translate
  repeat' (first | with_reducible assumption | (extract_lets +onlyGivenNames t; (have ht : Kept Q t := (by unfold t; repeat' (first | with_reducible assumption | with_reducible apply State.invalidate_kept | with_reducible apply State.memRead_kept | with_reducible apply State.wrRaw_kept | (simp only [kept_mk]; with_reducible apply kept_fold) | with_reducible apply kept_foldl | with_reducible refine fun _ => ?_ | split))); clear_value t) | (extract_lets +onlyGivenNames t; clear_value t) | split)


theorem State.translate_kept {Q : List Instr} {s0 : State} {core job : Nat} {va : Word} {k : AccKind} {r0 : Tr} {r1 : State} (e : State.translate s0 core job va k = (r0, r1)) (h_s0 : Kept Q s0) : Kept Q r1 := by
  have h := State.translate_kept' (Q := Q) (s0 := s0) (core := core) (job := job) (va := va) (k := k)  h_s0
  rw [e] at h
  exact h

end Sys2Proof.Machine
end

