-- ==== Sys2Proof/Laws/KeptTiers.lean ====
section
/-! SUPPORT. What Machine/Tiers.lean keeps: the queue, and the canonical form of memory and of the register file. -/

set_option linter.unreachableTactic false
set_option linter.unusedTactic false
set_option linter.unusedVariables false
set_option linter.unusedSimpArgs false

namespace Sys2Proof.Machine

theorem State.setTiers_kept {Q : List Instr} {s : State} {t : Tiers} (h_s : Kept Q s) :
  Kept Q (State.setTiers s t) := by
  unfold State.setTiers
  repeat' (first | with_reducible assumption | (simp only [kept_mk]; with_reducible apply kept_fold))

theorem State.showMin_kept {Q : List Instr} {s : State} {p : Nat} (h_s : Kept Q s) :
  Kept Q (State.showMin s p) := by
  unfold State.showMin
  repeat' (first | with_reducible assumption | with_reducible apply State.setRfld_kept)

theorem State.remapRow_kept {Q : List Instr} {s : State} {p off : Nat} (h_s : Kept Q s) :
  Kept Q (State.remapRow s p off) := by
  unfold State.remapRow
  repeat' (first | with_reducible assumption | with_reducible apply State.bump_kept | with_reducible apply State.report_kept | with_reducible apply State.setRbit_kept | with_reducible apply State.showMin_kept | (extract_lets +onlyGivenNames t; (have ht : Kept Q t := (by unfold t; repeat' (first | with_reducible assumption | with_reducible apply State.setTiers_kept))); clear_value t) | (extract_lets +onlyGivenNames t; clear_value t) | split)

theorem State.noteRow_kept' {Q : List Instr} {s : State} {row pass : Nat} (h_s : Kept Q s) : Kept Q (State.noteRow s row pass).2 := by
  unfold State.noteRow
  repeat' (first | with_reducible assumption | with_reducible apply State.setTiers_kept | (extract_lets +onlyGivenNames t; clear_value t) | split)


theorem State.noteRow_kept {Q : List Instr} {s : State} {row pass : Nat} {r0 : Bool} {r1 : State} (e : State.noteRow s row pass = (r0, r1)) (h_s : Kept Q s) : Kept Q r1 := by
  have h := State.noteRow_kept' (Q := Q) (s := s) (row := row) (pass := pass)  h_s
  rw [e] at h
  exact h

theorem State.corrected_kept {Q : List Instr} {s : State} {pa bits chan : Nat} {pass : Option Nat} (h_s : Kept Q s) :
  Kept Q (State.corrected s pa bits chan pass) := by
  unfold State.corrected
  repeat' (first | with_reducible assumption | with_reducible apply State.bump_kept | with_reducible apply State.noteRow_kept' | with_reducible apply State.remapRow_kept | with_reducible apply State.report_kept | with_reducible apply State.setRbit_kept | with_reducible apply State.setTiers_kept | with_reducible refine kept_snd (by assumption) ?_ | (extract_lets +onlyGivenNames t; (have ht : Kept Q t := (by unfold t; repeat' (first | with_reducible assumption | with_reducible apply State.bump_kept | with_reducible apply State.report_kept | with_reducible apply State.setReg_kept))); clear_value t) | (extract_lets +onlyGivenNames t; clear_value t) | split)

theorem State.poisonWord_kept {Q : List Instr} {s : State} {pa chan : Nat} (h_s : Kept Q s) :
  Kept Q (State.poisonWord s pa chan) := by
  unfold State.poisonWord
  repeat' (first | with_reducible assumption | with_reducible apply State.addPoison_kept | with_reducible apply State.bump_kept | with_reducible apply State.setReg_kept | (extract_lets +onlyGivenNames t; clear_value t) | split)

theorem State.uncorrectable_kept {Q : List Instr} {s : State} {pa chan code : Nat} (h_s : Kept Q s) :
  Kept Q (State.uncorrectable s pa chan code) := by
  unfold State.uncorrectable
  repeat' (first | with_reducible assumption | with_reducible apply State.report_kept | (extract_lets +onlyGivenNames t; (have ht : Kept Q t := (by unfold t; repeat' (first | with_reducible assumption | with_reducible apply State.poisonWord_kept))); clear_value t) | split)

theorem State.demandErrs_kept {Q : List Instr} {s : State} {e : List MemErr} (h_s : Kept Q s) :
  Kept Q (State.demandErrs s e) := by
  unfold State.demandErrs
  repeat' (first | with_reducible assumption | with_reducible apply State.corrected_kept | with_reducible apply State.poisonWord_kept | with_reducible apply kept_foldl | with_reducible refine fun _ => ?_ | split)

theorem State.patrolWord_kept {Q : List Instr} {s : State} {pa bits chan pass : Nat} {mismatch : Bool} (h_s : Kept Q s) :
  Kept Q (State.patrolWord s pa bits chan pass mismatch) := by
  unfold State.patrolWord
  repeat' (first | with_reducible assumption | with_reducible apply State.corrected_kept | with_reducible apply State.uncorrectable_kept | split)

theorem State.selfRepair_kept {Q : List Instr} {s : State} {x : Repair} (h_s : Kept Q s) :
  Kept Q (State.selfRepair s x) := by
  unfold State.selfRepair
  repeat' (first | with_reducible assumption | with_reducible apply State.setTiers_kept | (extract_lets +onlyGivenNames t; clear_value t) | split)

theorem State.selfRepairs_kept {Q : List Instr} {s : State} {fix : List Repair} (h_s : Kept Q s) :
  Kept Q (State.selfRepairs s fix) := by
  unfold State.selfRepairs
  repeat' (first | with_reducible assumption | with_reducible apply State.selfRepair_kept | with_reducible apply State.setTiers_kept | with_reducible apply State.showMin_kept | with_reducible apply kept_foldl)

theorem execPatrolInkwell_kept {Q : List Instr} {k : Nat} {e : List WordErr} {s : State} (h_s : Kept Q s) :
  Keeps Q (execPatrolInkwell k e s) := by
  unfold execPatrolInkwell
  repeat' (first | with_reducible assumption | with_reducible apply State.setRfld_kept | with_reducible apply kept_next | (extract_lets +onlyGivenNames t; (have ht : Kept Q t := (by unfold t; repeat' (first | with_reducible assumption | with_reducible apply State.bumpBy_kept | with_reducible apply State.patrolWord_kept | with_reducible apply kept_foldl | with_reducible refine fun _ => ?_ | split))); clear_value t) | (extract_lets +onlyGivenNames t; clear_value t) | split)

theorem execPatrolReservoir_kept {Q : List Instr} {i : Nat} {e : List WordErr} {overdue : Bool} {s : State} (h_s : Kept Q s) :
  Keeps Q (execPatrolReservoir i e overdue s) := by
  unfold execPatrolReservoir
  repeat' (first | with_reducible assumption | with_reducible apply State.setRfld_kept | with_reducible apply kept_next | (extract_lets +onlyGivenNames t; (have ht : Kept Q t := (by unfold t; repeat' (first | with_reducible assumption | with_reducible apply State.bump_kept | with_reducible apply State.bumpBy_kept | with_reducible apply State.patrolWord_kept | with_reducible apply State.setRbit_kept | with_reducible apply kept_foldl | with_reducible refine fun _ => ?_ | split | dsimp only))); clear_value t) | (extract_lets +onlyGivenNames t; clear_value t) | split)

theorem execPprComplete_kept {Q : List Instr} {i g b : Nat} {s : State} (h_s : Kept Q s) :
  Keeps Q (execPprComplete i g b s) := by
  unfold execPprComplete
  repeat' (first | with_reducible assumption | with_reducible apply State.bump_kept | with_reducible apply State.report_kept | with_reducible apply State.setRbit_kept | with_reducible apply State.setTiers_kept | with_reducible apply kept_next | (extract_lets +onlyGivenNames t; clear_value t) | split)

end Sys2Proof.Machine
end

