-- ==== Sys2Proof/Laws/KeptHome.lean ====
section
/-! SUPPORT. What Machine/Home.lean keeps: the queue, and the canonical form of memory and of the register file. -/

set_option linter.unreachableTactic false
set_option linter.unusedTactic false
set_option linter.unusedVariables false
set_option linter.unusedSimpArgs false

namespace Sys2Proof.Machine

theorem State.lanEmit_kept {Q : List Instr} {s : State} {m : Out} (h_s : Kept Q s) :
  Kept Q (State.lanEmit s m) := by
  unfold State.lanEmit
  repeat' (first | with_reducible assumption | (simp only [kept_mk]; with_reducible apply kept_fold))

theorem State.lanSend_kept {Q : List Instr} {s : State} {m : Out} (h_s : Kept Q s) :
  Kept Q (State.lanSend s m) := by
  unfold State.lanSend
  repeat' (first | with_reducible assumption | with_reducible apply State.lanEmit_kept | (simp only [kept_mk]; with_reducible apply kept_fold) | (extract_lets +onlyGivenNames t; clear_value t) | split)

theorem State.send_kept {Q : List Instr} {s : State} {c : Chan} {code : Nat} {args : List Nat} {data : List Byte} (h_s : Kept Q s) :
  Kept Q (State.send s c code args data) := by
  unfold State.send
  repeat' (first | with_reducible assumption | with_reducible apply State.lanSend_kept | (simp only [kept_mk]; with_reducible apply kept_fold) | split)

theorem State.sendSnoop_kept {Q : List Instr} {s : State} {line : Nat} {inv : Bool} (h_s : Kept Q s) :
  Kept Q (State.sendSnoop s line inv) := by
  unfold State.sendSnoop
  repeat' (first | with_reducible assumption | with_reducible apply State.send_kept | (extract_lets +onlyGivenNames t; (have ht : Kept Q t := (by unfold t; repeat' (first | with_reducible assumption | (simp only [kept_mk]; with_reducible apply kept_fold)))); clear_value t) | (extract_lets +onlyGivenNames t; clear_value t) | split)

theorem State.homeWrite_kept {Q : List Instr} {s : State} {pa n : Nat} {g : State → State} (h_s : Kept Q s) (h_g : ∀ y0, Kept Q y0 → Kept Q (g y0)) :
  Kept Q (State.homeWrite s pa n g) := by
  unfold State.homeWrite
  repeat' (first | with_reducible assumption | with_reducible apply State.sendSnoop_kept | with_reducible apply h_g | with_reducible apply kept_foldl | with_reducible refine fun _ => ?_ | split)

theorem State.homeForce_kept {Q : List Instr} {s : State} {pa : Nat} {bs : List Byte} (h_s : Kept Q s) :
  Kept Q (State.homeForce s pa bs) := by
  unfold State.homeForce
  repeat' (first | with_reducible assumption | with_reducible apply State.memWrite_kept | with_reducible apply State.send_kept | (simp only [kept_mk]; with_reducible apply kept_fold) | with_reducible apply kept_foldl | with_reducible refine fun _ => ?_)

theorem State.resolve_kept' {Q : List Instr} {s : State} {core job : Nat} {k : AccKind} {e0 : List (Nat × Nat)} (h_s : Kept Q s) : Kept Q (State.resolve s core job k e0).1 := by
  induction e0 generalizing s core job k <;> (
  unfold State.resolve
  repeat' (first | with_reducible assumption | with_reducible refine State.translate_kept (by assumption) ?_ | with_reducible apply_assumption -exfalso -symm | with_reducible refine kept_fst (by assumption) ?_ | split))


theorem State.resolve_kept {Q : List Instr} {s : State} {core job : Nat} {k : AccKind} {e0 : List (Nat × Nat)} {r0 : State} {r1 : Span} (e : State.resolve s core job k e0 = (r0, r1)) (h_s : Kept Q s) : Kept Q r0 := by
  have h := State.resolve_kept' (Q := Q) (s := s) (core := core) (job := job) (k := k) (e0 := e0) h_s
  rw [e] at h
  exact h

theorem State.hostAsk_kept {Q : List Instr} {s : State} {who : HostWho} {op : HostOp} {code line : Nat} {data : List Byte} (h_s : Kept Q s) :
  Kept Q (State.hostAsk s who op code line data) := by
  unfold State.hostAsk
  repeat' (first | with_reducible assumption | with_reducible apply State.send_kept | (extract_lets +onlyGivenNames t; (have ht : Kept Q t := (by unfold t; repeat' (first | with_reducible assumption | (simp only [kept_mk]; with_reducible apply kept_fold)))); clear_value t) | (extract_lets +onlyGivenNames t; clear_value t) | split)

theorem State.hostBack_kept {Q : List Instr} {s : State} {core line : Nat} {keep : Bool} (h_s : Kept Q s) :
  Kept Q (State.hostBack s core line keep) := by
  unfold State.hostBack
  repeat' (first | with_reducible assumption | with_reducible apply State.hostAsk_kept | (extract_lets +onlyGivenNames t; (have ht : Kept Q t := (by unfold t; repeat' (first | with_reducible assumption | with_reducible apply State.hostAsk_kept))); clear_value t) | split)

theorem State.hostBackAll_kept {Q : List Instr} {s : State} {core : Nat} {keep : Bool} (h_s : Kept Q s) :
  Kept Q (State.hostBackAll s core keep) := by
  unfold State.hostBackAll
  repeat' (first | with_reducible assumption | with_reducible apply State.hostBack_kept | with_reducible apply kept_foldl | with_reducible refine fun _ => ?_)

theorem State.readParts_kept' {Q : List Instr} {s : State} {who : HostWho} {hl : List (Nat × List Byte)} {e0 : List Part} (h_s : Kept Q s) : Kept Q (State.readParts s who hl e0).1 := by
  induction e0 generalizing s who hl <;> (
  unfold State.readParts
  repeat' (first | with_reducible assumption | with_reducible apply State.hostAsk_kept | with_reducible apply State.memSnoop_kept | with_reducible apply State.sendSnoop_kept | with_reducible apply_assumption -exfalso -symm | with_reducible apply kept_foldl | with_reducible refine kept_fst (by assumption) ?_ | with_reducible refine fun _ => ?_ | split))


theorem State.readParts_kept {Q : List Instr} {s : State} {who : HostWho} {hl : List (Nat × List Byte)} {e0 : List Part} {r0 : State} {r1 : Got} (e : State.readParts s who hl e0 = (r0, r1)) (h_s : Kept Q s) : Kept Q r0 := by
  have h := State.readParts_kept' (Q := Q) (s := s) (who := who) (hl := hl) (e0 := e0) h_s
  rw [e] at h
  exact h

theorem State.writeAsk_kept {Q : List Instr} {s : State} {who : HostWho} {hl : List (Nat × List Byte)} {e0 : List Part} {e1 : List Byte} (h_s : Kept Q s) :
  Kept Q (State.writeAsk s who hl e0 e1) := by
  induction e0 generalizing s who hl e1 <;> (
  unfold State.writeAsk
  repeat' (first | with_reducible assumption | with_reducible apply State.hostAsk_kept | with_reducible apply State.sendSnoop_kept | with_reducible apply_assumption -exfalso -symm | with_reducible apply kept_foldl | with_reducible refine fun _ => ?_ | split))

theorem State.countParts_kept {Q : List Instr} {s : State} {ps : List Part} (h_s : Kept Q s) :
  Kept Q (State.countParts s ps) := by
  unfold State.countParts
  repeat' (first | with_reducible assumption | with_reducible apply State.countLoad_kept | with_reducible apply kept_foldl | with_reducible refine fun _ => ?_ | split)

theorem State.writeParts_kept {Q : List Instr} {s : State} {e0 : List Part} {e1 : List Byte} (h_s : Kept Q s) :
  Kept Q (State.writeParts s e0 e1) := by
  induction e0 generalizing s e1 <;> (
  unfold State.writeParts
  repeat' (first | with_reducible assumption | with_reducible apply State.memWrite_kept | with_reducible apply_assumption -exfalso -symm | split))

theorem State.onLine_kept {Q : List Instr} {s : State} {h : Hart} {line : Nat} {g : State → State} (h_s : Kept Q s) (h_g : ∀ y0, Kept Q y0 → Kept Q (g y0)) :
  Kept Q (State.onLine s h line g) := by
  unfold State.onLine
  repeat' (first | with_reducible assumption | with_reducible apply State.checkLine_kept | with_reducible apply State.modCtx_kept | with_reducible apply h_g | split)

end Sys2Proof.Machine
end

