-- ==== Sys2Proof/Laws/KeptMarkOps.lean ====
section
/-! SUPPORT. What Machine/MarkOps.lean keeps: the queue, and the canonical form of memory and of the register file. -/

set_option linter.unreachableTactic false
set_option linter.unusedTactic false
set_option linter.unusedVariables false
set_option linter.unusedSimpArgs false

namespace Sys2Proof.Machine

theorem State.setCount_kept {Q : List Instr} {s : State} {n c : Nat} (h_s : Kept Q s) :
  Kept Q (State.setCount s n c) := by
  unfold State.setCount
  repeat' (first | with_reducible assumption | with_reducible apply State.setRfld_kept)

theorem State.putMark_kept {Q : List Instr} {s : State} {n : Nat} {m : MarkRt} (h_s : Kept Q s) :
  Kept Q (State.putMark s n m) := by
  unfold State.putMark
  repeat' (first | with_reducible assumption | with_reducible apply State.setMarkRt_kept | with_reducible apply State.setRfld_kept)

theorem State.sendMark_kept {Q : List Instr} {s : State} {n : Nat} {u : MarkUpd} (h_s : Kept Q s) :
  Kept Q (State.sendMark s n u) := by
  unfold State.sendMark
  repeat' (first | with_reducible assumption | with_reducible apply State.putMark_kept)

theorem State.engSignal_kept {Q : List Instr} {s : State} {k : Nat} {mark : Option Nat} (h_s : Kept Q s) :
  Kept Q (State.engSignal s k mark) := by
  unfold State.engSignal
  repeat' (first | with_reducible assumption | with_reducible apply State.sendMark_kept | split)

theorem State.wakeMark_kept {Q : List Instr} {s : State} {n : Nat} {h : Hart} {dst count : Nat} (h_s : Kept Q s) :
  Kept Q (State.wakeMark s n h dst count) := by
  unfold State.wakeMark
  repeat' (first | with_reducible assumption | with_reducible apply State.modCtx_kept | split)

theorem State.tryWait_kept' {Q : List Instr} {s : State} {n : Nat} {e0 : MarkOp} (h_s : Kept Q s) : Kept Q (State.tryWait s n e0).1 := by
  unfold State.tryWait
  repeat' (first | with_reducible assumption | with_reducible apply State.setCount_kept | with_reducible apply State.wakeMark_kept | (extract_lets +onlyGivenNames t; clear_value t) | split)


theorem State.tryWait_kept {Q : List Instr} {s : State} {n : Nat} {e0 : MarkOp} {r0 : State} {r1 : Bool} (e : State.tryWait s n e0 = (r0, r1)) (h_s : Kept Q s) : Kept Q r0 := by
  have h := State.tryWait_kept' (Q := Q) (s := s) (n := n) (e0 := e0) h_s
  rw [e] at h
  exact h

theorem State.retest_kept' {Q : List Instr} {s : State} {n : Nat} {e0 : List MarkOp} (h_s : Kept Q s) : Kept Q (State.retest s n e0).1 := by
  induction e0 generalizing s n <;> (
  unfold State.retest
  repeat' (first | with_reducible assumption | with_reducible apply State.tryWait_kept' | with_reducible apply_assumption -exfalso -symm))


theorem State.retest_kept {Q : List Instr} {s : State} {n : Nat} {e0 : List MarkOp} {r0 : State} {r1 : List MarkOp} (e : State.retest s n e0 = (r0, r1)) (h_s : Kept Q s) : Kept Q r0 := by
  have h := State.retest_kept' (Q := Q) (s := s) (n := n) (e0 := e0) h_s
  rw [e] at h
  exact h

theorem State.retestAll_kept {Q : List Instr} {s : State} {n : Nat} (h_s : Kept Q s) :
  Kept Q (State.retestAll s n) := by
  unfold State.retestAll
  repeat' (first | with_reducible assumption | with_reducible apply State.putMark_kept | with_reducible apply State.retest_kept')

theorem State.applyMark_kept {Q : List Instr} {s : State} {n : Nat} {o : MarkOp} (h_s : Kept Q s) :
  Kept Q (State.applyMark s n o) := by
  unfold State.applyMark
  repeat' (first | with_reducible assumption | with_reducible apply State.bump_kept | with_reducible apply State.putMark_kept | with_reducible apply State.retestAll_kept | with_reducible apply State.setCount_kept | with_reducible apply State.setRbit_kept | with_reducible refine State.tryWait_kept (by assumption) ?_ | (extract_lets +onlyGivenNames t; clear_value t) | split)

theorem State.markStep_kept {Q : List Instr} {s : State} {n : Nat} (h_s : Kept Q s) :
  Kept Q (State.markStep s n) := by
  unfold State.markStep
  repeat' (first | with_reducible assumption | with_reducible apply State.applyMark_kept | with_reducible apply State.putMark_kept | (extract_lets +onlyGivenNames t; clear_value t) | split)

theorem State.linkSignal_kept' {Q : List Instr} {s : State} {j hd inc cls : Nat} (h_s : Kept Q s) : Kept Q (State.linkSignal s j hd inc cls).2 := by
  unfold State.linkSignal
  repeat' (first | with_reducible assumption | with_reducible apply State.bump_kept | with_reducible apply State.sendMark_kept | split)


theorem State.linkSignal_kept {Q : List Instr} {s : State} {j hd inc cls : Nat} {r0 : Bool} {r1 : State} (e : State.linkSignal s j hd inc cls = (r0, r1)) (h_s : Kept Q s) : Kept Q r1 := by
  have h := State.linkSignal_kept' (Q := Q) (s := s) (j := j) (hd := hd) (inc := inc) (cls := cls)  h_s
  rw [e] at h
  exact h

theorem State.mkReject_kept {Q : List Instr} {s : State} (h_s : Kept Q s) :
  Kept Q (State.mkReject s) := by
  unfold State.mkReject
  repeat' (first | with_reducible assumption | with_reducible apply State.setRbit_kept)

theorem State.mapCount_kept {Q : List Instr} {s : State} (h_s : Kept Q s) :
  Kept Q (State.mapCount s) := by
  unfold State.mapCount
  repeat' (first | with_reducible assumption | with_reducible apply State.setRbit_kept | with_reducible apply State.setRfld_kept)

theorem State.writeHome_kept {Q : List Instr} {s : State} {n home : Nat} (h_s : Kept Q s) :
  Kept Q (State.writeHome s n home) := by
  unfold State.writeHome
  repeat' (first | with_reducible assumption | with_reducible apply State.mkReject_kept | with_reducible apply State.setRfld_kept | split)

theorem State.writeCount_kept {Q : List Instr} {s : State} {n v : Nat} (h_s : Kept Q s) :
  Kept Q (State.writeCount s n v) := by
  unfold State.writeCount
  repeat' (first | with_reducible assumption | with_reducible apply State.applyMark_kept | with_reducible apply State.bump_kept | with_reducible apply State.mkReject_kept | with_reducible apply State.setRbit_kept | (extract_lets +onlyGivenNames t; clear_value t) | split)

theorem State.writeMark_kept {Q : List Instr} {s : State} {n : Nat} {half : RegHalf} {v : Word} (h_s : Kept Q s) :
  Kept Q (State.writeMark s n half v) := by
  unfold State.writeMark
  repeat' (first | with_reducible assumption | with_reducible apply State.mkReject_kept | (extract_lets +onlyGivenNames t; (have ht : ∀ a, Kept Q a → Kept Q (t a) := (by unfold t; repeat' (first | with_reducible assumption | with_reducible apply State.setRbit_kept | with_reducible apply State.writeCount_kept | with_reducible apply State.writeHome_kept | with_reducible refine fun _ => ?_ | (extract_lets +onlyGivenNames t; clear_value t) | split))); clear_value t) | (extract_lets +onlyGivenNames t; clear_value t) | (with_reducible apply_assumption -exfalso -symm) | split)

theorem State.writeMap_kept {Q : List Instr} {s : State} {j k : Nat} {v : Word} (h_s : Kept Q s) :
  Kept Q (State.writeMap s j k v) := by
  unfold State.writeMap
  repeat' (first | with_reducible assumption | with_reducible apply State.mapCount_kept | with_reducible apply State.mkReject_kept | with_reducible apply State.setReg_kept | (extract_lets +onlyGivenNames t; (have ht : Kept Q t := (by unfold t; repeat' (first | with_reducible assumption | with_reducible apply State.setReg_kept | with_reducible apply kept_foldl | with_reducible refine fun _ => ?_ | split))); clear_value t) | (extract_lets +onlyGivenNames t; clear_value t) | split)

theorem State.restoreMark_kept {Q : List Instr} {s : State} {n count : Nat} {ovf : Bool} (h_s : Kept Q s) :
  Kept Q (State.restoreMark s n count ovf) := by
  unfold State.restoreMark
  repeat' (first | with_reducible assumption | with_reducible apply State.setCount_kept | with_reducible apply State.setMarkRt_kept | with_reducible apply State.setRbit_kept)

end Sys2Proof.Machine
end

