-- ==== Sys2Proof/Laws/KeptBrushOps.lean ====
section
/-! SUPPORT. What Machine/BrushOps.lean keeps: the queue, and the canonical form of memory and of the register file. -/

set_option linter.unreachableTactic false
set_option linter.unusedTactic false
set_option linter.unusedVariables false
set_option linter.unusedSimpArgs false

namespace Sys2Proof.Machine

theorem State.softmax_kept {Q : List Instr} {s : State} {k : Nat} {o : BrOp} (h_s : Kept Q s) :
  Kept Q (State.softmax s k o) := by
  unfold State.softmax
  repeat' (first | with_reducible assumption | with_reducible apply State.bump_kept | (extract_lets +onlyGivenNames t; (have ht : Kept Q t := (by unfold t; repeat' (first | with_reducible assumption | with_reducible apply State.setCtx_kept))); clear_value t) | (extract_lets +onlyGivenNames t; clear_value t) | split)

theorem State.brGather_kept {Q : List Instr} {s : State} {k : Nat} {o : BrOp} {scatter : Bool} (h_s : Kept Q s) :
  Kept Q (State.brGather s k o scatter) := by
  unfold State.brGather
  repeat' (first | with_reducible assumption | with_reducible apply State.modCtx_kept | with_reducible apply State.wrN_kept | with_reducible apply kept_foldl | with_reducible refine fun _ => ?_ | (extract_lets +onlyGivenNames t; (have ht : Kept Q t := (by unfold t; repeat' (first | with_reducible assumption | with_reducible apply State.bump_kept | with_reducible apply State.modCtx_kept))); clear_value t) | split)

theorem State.brLoad_kept {Q : List Instr} {s : State} {k : Nat} {o : BrOp} (h_s : Kept Q s) :
  Kept Q (State.brLoad s k o) := by
  unfold State.brLoad
  repeat' (first | with_reducible assumption | with_reducible apply State.modCtx_kept)

theorem State.brStore_kept {Q : List Instr} {s : State} {k : Nat} {o : BrOp} (h_s : Kept Q s) :
  Kept Q (State.brStore s k o) := by
  unfold State.brStore
  repeat' (first | with_reducible assumption | with_reducible apply State.wrN_kept | with_reducible apply kept_foldl | with_reducible refine fun _ => ?_ | (extract_lets +onlyGivenNames t; clear_value t) | split)

theorem State.brMove_kept {Q : List Instr} {s : State} {k : Nat} {o : BrOp} (h_s : Kept Q s) :
  Kept Q (State.brMove s k o) := by
  unfold State.brMove
  repeat' (first | with_reducible assumption | with_reducible apply State.brGather_kept | with_reducible apply State.setCtx_kept | (extract_lets +onlyGivenNames t; (have ht : Kept Q t.2 := (by unfold t; repeat' (first | with_reducible assumption | with_reducible apply State.draw_kept'))); clear_value t) | (extract_lets +onlyGivenNames t; (have ht : ∀ a, Kept Q (t a) := (by unfold t; repeat' (first | with_reducible assumption | with_reducible apply State.setCtx_kept | with_reducible refine fun _ => ?_ | (with_reducible apply_assumption -exfalso -symm)))); clear_value t) | (extract_lets +onlyGivenNames t; clear_value t) | (with_reducible apply_assumption -exfalso -symm) | split)

theorem State.brSheet_kept {Q : List Instr} {s : State} {k : Nat} {o : BrOp} (h_s : Kept Q s) :
  Kept Q (State.brSheet s k o) := by
  unfold State.brSheet
  repeat' (first | with_reducible assumption | with_reducible apply State.brLoad_kept | with_reducible apply State.brStore_kept | with_reducible apply State.modCtx_kept | split)

theorem State.brReduce_kept {Q : List Instr} {s : State} {k : Nat} {o : BrOp} (h_s : Kept Q s) :
  Kept Q (State.brReduce s k o) := by
  unfold State.brReduce
  repeat' (first | with_reducible assumption | with_reducible apply State.modCtx_kept | with_reducible apply State.softmax_kept | split)

theorem State.brRun_kept {Q : List Instr} {s : State} {k : Nat} {o : BrOp} (h_s : Kept Q s) :
  Kept Q (State.brRun s k o) := by
  unfold State.brRun
  repeat' (first | with_reducible assumption | with_reducible apply State.brMove_kept | with_reducible apply State.brReduce_kept | with_reducible apply State.brSheet_kept | with_reducible apply State.modCtx_kept | split)

theorem State.brComplete_kept {Q : List Instr} {s : State} {k : Nat} {r : OpCheck} (h_s : Kept Q s) :
  Kept Q (State.brComplete s k r) := by
  unfold State.brComplete
  repeat' (first | with_reducible assumption | with_reducible apply State.bump_kept | with_reducible apply State.modCl_kept | with_reducible apply State.modCtx_kept | with_reducible apply State.report_kept | (extract_lets +onlyGivenNames t; (have ht : Kept Q t := (by unfold t; repeat' (first | with_reducible assumption | with_reducible apply State.brRun_kept))); clear_value t) | split)

theorem State.brIssue_kept {Q : List Instr} {s : State} {h : Hart} {o : BrOp} (h_s : Kept Q s) :
  Kept Q (State.brIssue s h o) := by
  unfold State.brIssue
  repeat' (first | with_reducible assumption | with_reducible apply State.modCl_kept | with_reducible apply State.modCtx_kept | split)

end Sys2Proof.Machine
end

