-- ==== Sys2Proof/Laws/KeptQuillOps.lean ====
section
/-! SUPPORT. What Machine/QuillOps.lean keeps: the queue, and the canonical form of memory and of the register file. -/

set_option linter.unreachableTactic false
set_option linter.unusedTactic false
set_option linter.unusedVariables false
set_option linter.unusedSimpArgs false

namespace Sys2Proof.Machine

theorem State.modQl_kept {Q : List Instr} {s : State} {k : Nat} {f : Quill → Quill} (h_s : Kept Q s) :
  Kept Q (State.modQl s k f) := by
  unfold State.modQl
  repeat' (first | with_reducible assumption | with_reducible apply State.modCl_kept)

theorem State.qlFlag_kept {Q : List Instr} {s : State} {k : Nat} {e : EFlags} (h_s : Kept Q s) :
  Kept Q (State.qlFlag s k e) := by
  unfold State.qlFlag
  repeat' (first | with_reducible assumption | with_reducible apply State.modQl_kept)

theorem State.qlMma_kept {Q : List Instr} {s : State} {k half : Nat} {role : Bool} {addr cnt mask : Word} {start : Bool} {w : WBuf} {semi f acc : Nat} {up : Option (Nat × Nat × Nat)} (h_s : Kept Q s) :
  Kept Q (State.qlMma s k half role addr cnt mask start w semi f acc up) := by
  unfold State.qlMma
  repeat' (first | with_reducible assumption | with_reducible apply State.bump_kept | with_reducible apply State.bumpBy_kept | with_reducible apply State.modQl_kept | with_reducible apply State.qlFlag_kept)

theorem State.qlWb_kept {Q : List Instr} {s : State} {k half : Nat} {role : Bool} {addr cnt mask : Word} {sr clear : Bool} {f acc : Nat} (h_s : Kept Q s) :
  Kept Q (State.qlWb s k half role addr cnt mask sr clear f acc) := by
  unfold State.qlWb
  repeat' (first | with_reducible assumption | with_reducible apply State.modQl_kept | with_reducible apply kept_foldl | with_reducible refine fun _ => ?_ | (extract_lets +onlyGivenNames t; (have ht : Kept Q t := (by unfold t; repeat' (first | with_reducible assumption | with_reducible apply State.modQl_kept | with_reducible apply State.qlFlag_kept | with_reducible apply State.wrN_kept | split))); clear_value t) | (extract_lets +onlyGivenNames t; clear_value t) | split)

theorem State.qlSave_kept {Q : List Instr} {s : State} {k half : Nat} {role : Bool} {addr cnt : Word} {acc : Nat} (h_s : Kept Q s) :
  Kept Q (State.qlSave s k half role addr cnt acc) := by
  unfold State.qlSave
  repeat' (first | with_reducible assumption | with_reducible apply State.wrN_kept | with_reducible apply kept_foldl | with_reducible refine fun _ => ?_)

theorem State.qlRestore_kept {Q : List Instr} {s : State} {k half : Nat} {role : Bool} {addr cnt : Word} {acc : Nat} (h_s : Kept Q s) :
  Kept Q (State.qlRestore s k half role addr cnt acc) := by
  unfold State.qlRestore
  repeat' (first | with_reducible assumption | with_reducible apply State.modQl_kept | with_reducible apply kept_foldl | with_reducible refine fun _ => ?_)

theorem State.qlAccadd_kept {Q : List Instr} {s : State} {k half : Nat} {role : Bool} {addr cnt mask : Word} {full : Bool} {semi acc : Nat} (h_s : Kept Q s) :
  Kept Q (State.qlAccadd s k half role addr cnt mask full semi acc) := by
  unfold State.qlAccadd
  repeat' (first | with_reducible assumption | with_reducible apply State.modQl_kept | with_reducible apply State.qlFlag_kept | with_reducible apply kept_foldl | with_reducible refine fun _ => ?_ | (extract_lets +onlyGivenNames t; clear_value t) | split)

theorem State.qlFill_kept {Q : List Instr} {s : State} {k : Nat} {role : Bool} {cnt mask : Word} {semi acc : Nat} (h_s : Kept Q s) :
  Kept Q (State.qlFill s k role cnt mask semi acc) := by
  unfold State.qlFill
  repeat' (first | with_reducible assumption | with_reducible apply State.modQl_kept)

theorem State.qlDiscard_kept {Q : List Instr} {s : State} {k : Nat} {o : Owner} (h_s : Kept Q s) :
  Kept Q (State.qlDiscard s k o) := by
  unfold State.qlDiscard
  repeat' (first | with_reducible assumption | with_reducible apply State.modQl_kept)

theorem State.qlStop_kept {Q : List Instr} {s : State} {k : Nat} {o : Owner} {group slot status : Nat} (h_s : Kept Q s) :
  Kept Q (State.qlStop s k o group slot status) := by
  unfold State.qlStop
  repeat' (first | with_reducible assumption | with_reducible apply State.engReport_kept | with_reducible apply State.qlDiscard_kept)

theorem State.qlLeave_kept' {Q : List Instr} {s : State} {k : Nat} (h_s : Kept Q s) : KeptO Q (State.qlLeave s k) := by
  have hp : ∀ f : Quill → Quill, Kept Q (s.modQl k f) := fun _ => State.modQl_kept h_s
  unfold State.qlLeave
  dsimp only
  repeat' split
  all_goals (first
    | exact kept_none
    | exact kept_some (hp _)
    | exact kept_some (State.engSignal_kept (hp _))
    | exact kept_some (State.qlStop_kept h_s))

theorem State.qlLeave_kept {Q : List Instr} {s : State} {k : Nat} {r_out : State} (e : State.qlLeave s k = some r_out) (h_s : Kept Q s) : Kept Q r_out :=
  (State.qlLeave_kept' h_s).of r_out e

theorem State.qlFlow_kept {Q : List Instr} {s : State} {k : Nat} {e0 : Nat} (h_s : Kept Q s) :
  Kept Q (State.qlFlow s k e0) := by
  induction e0 generalizing s k <;> (
  unfold State.qlFlow
  repeat' (first | with_reducible assumption | with_reducible refine State.qlLeave_kept (by assumption) ?_ | with_reducible apply_assumption -exfalso -symm | split))

theorem State.qlEffect_kept {Q : List Instr} {s : State} {k : Nat} {o : QlOp} {up : Option (Nat × Nat × Nat)} (h_s : Kept Q s) :
  Kept Q (State.qlEffect s k o up) := by
  unfold State.qlEffect
  repeat' (first | with_reducible assumption | with_reducible apply State.modQl_kept | with_reducible apply State.qlAccadd_kept | with_reducible apply State.qlFill_kept | with_reducible apply State.qlMma_kept | with_reducible apply State.qlRestore_kept | with_reducible apply State.qlSave_kept | with_reducible apply State.qlWb_kept | split)

theorem State.qlFail_kept {Q : List Instr} {s : State} {k slot code : Nat} (h_s : Kept Q s) :
  Kept Q (State.qlFail s k slot code) := by
  unfold State.qlFail
  repeat' (first | with_reducible assumption | with_reducible apply State.modQl_kept | with_reducible apply State.report_kept)

theorem State.qlDo_kept {Q : List Instr} {s : State} {k : Nat} {o : QlOp} {r : OpCheck} (h_s : Kept Q s) :
  Kept Q (State.qlDo s k o r) := by
  unfold State.qlDo
  repeat' (first | with_reducible assumption | with_reducible apply State.bump_kept | with_reducible apply State.bumpBy_kept | with_reducible apply State.qlEffect_kept | with_reducible apply State.qlFail_kept | with_reducible apply State.report_kept | split)

theorem State.qlUnitDone_kept {Q : List Instr} {s : State} {k : Nat} {u : QlUnit} {r : OpCheck} (h_s : Kept Q s) :
  Kept Q (State.qlUnitDone s k u r) := by
  unfold State.qlUnitDone
  repeat' (first | with_reducible assumption | with_reducible apply State.modQl_kept | (extract_lets +onlyGivenNames t; (have ht : Kept Q t := (by unfold t; repeat' (first | with_reducible assumption | with_reducible apply State.qlDo_kept))); clear_value t) | split)

theorem State.qlComplete_kept {Q : List Instr} {s : State} {k : Nat} {u : QlUnit} {r : OpCheck} (h_s : Kept Q s) :
  Kept Q (State.qlComplete s k u r) := by
  unfold State.qlComplete
  repeat' (first | with_reducible assumption | with_reducible apply State.qlFlow_kept | with_reducible apply State.qlUnitDone_kept | split)

theorem State.qlClaim_kept {Q : List Instr} {s : State} {k : Nat} {o : Owner} (h_s : Kept Q s) :
  Kept Q (State.qlClaim s k o) := by
  unfold State.qlClaim
  repeat' (first | with_reducible assumption | with_reducible apply State.modQl_kept | split)

theorem State.qlRefuse_kept {Q : List Instr} {s : State} {h : Hart} {group : Nat} (h_s : Kept Q s) :
  Kept Q (State.qlRefuse s h group) := by
  unfold State.qlRefuse
  repeat' (first | with_reducible assumption | with_reducible apply State.engReport_kept | with_reducible apply State.modCtx_kept | with_reducible apply State.modQl_kept | with_reducible apply State.qlDiscard_kept)

theorem State.qlIssue_kept {Q : List Instr} {s : State} {h : Hart} {group : Nat} {kind : QlKind} (h_s : Kept Q s) :
  Kept Q (State.qlIssue s h group kind) := by
  unfold State.qlIssue
  repeat' (first | with_reducible assumption | with_reducible apply State.modCtx_kept | with_reducible apply State.modQl_kept | with_reducible apply State.qlClaim_kept | with_reducible apply State.qlFlow_kept | with_reducible apply State.qlRefuse_kept | (extract_lets +onlyGivenNames t; clear_value t) | split)

theorem State.qlReadFlags_kept {Q : List Instr} {s : State} {h : Hart} {group dst : Nat} {clear : Bool} (h_s : Kept Q s) :
  Kept Q (State.qlReadFlags s h group dst clear) := by
  unfold State.qlReadFlags
  repeat' (first | with_reducible assumption | with_reducible apply State.modCtx_kept | with_reducible apply State.modQl_kept | with_reducible apply State.qlRefuse_kept | with_reducible apply State.waits_kept | (extract_lets +onlyGivenNames t; (have ht : Kept Q t := (by unfold t; repeat' (first | with_reducible assumption | with_reducible apply State.modCtx_kept | with_reducible apply State.qlClaim_kept))); clear_value t) | (extract_lets +onlyGivenNames t; clear_value t) | split)

end Sys2Proof.Machine
end

