-- ==== Sys2Proof/Laws/KeptStippleOps.lean ====
section
/-! SUPPORT. What Machine/StippleOps.lean keeps: the queue, and the canonical form of memory and of the register file. -/

set_option linter.unreachableTactic false
set_option linter.unusedTactic false
set_option linter.unusedVariables false
set_option linter.unusedSimpArgs false

namespace Sys2Proof.Machine

theorem State.modSp_kept {Q : List Instr} {s : State} {k : Nat} {f : Stipple → Stipple} (h_s : Kept Q s) :
  Kept Q (State.modSp s k f) := by
  unfold State.modSp
  repeat' (first | with_reducible assumption | with_reducible apply State.modCl_kept)

theorem State.spFlag_kept {Q : List Instr} {s : State} {k bits : Nat} (h_s : Kept Q s) :
  Kept Q (State.spFlag s k bits) := by
  unfold State.spFlag
  repeat' (first | with_reducible assumption | with_reducible apply State.modSp_kept)

theorem State.spOob_kept {Q : List Instr} {s : State} {k n : Nat} (h_s : Kept Q s) :
  Kept Q (State.spOob s k n) := by
  unfold State.spOob
  repeat' (first | with_reducible assumption | with_reducible apply State.bumpBy_kept | with_reducible apply State.spFlag_kept | split)

theorem State.spPruned_kept {Q : List Instr} {s : State} {k n : Nat} (h_s : Kept Q s) :
  Kept Q (State.spPruned s k n) := by
  unfold State.spPruned
  repeat' (first | with_reducible assumption | with_reducible apply State.bumpBy_kept | with_reducible apply State.spFlag_kept | split)

theorem State.spFullRow_kept {Q : List Instr} {s : State} {k : Nat} {t : Tile} {tr : Bool} {semi : Nat} {b : BBuf} {free row r : Nat} {mask : Word} {bias ends : List Nat} (h_s : Kept Q s) :
  Kept Q (State.spFullRow s k t tr semi b free row r mask bias ends) := by
  unfold State.spFullRow
  repeat' (first | with_reducible assumption | with_reducible apply State.modSp_kept | with_reducible apply State.spFlag_kept | with_reducible apply State.spOob_kept | with_reducible apply State.spPruned_kept)

theorem State.spPredRow_kept' {Q : List Instr} {s : State} {k half : Nat} {t : Tile} {tr : Bool} {semi : Nat} {b : BBuf} {free row : Nat} {mask pred : Word} {ends : List Nat} {on : Bool} {r : Nat} (h_s : Kept Q s) : Kept Q (State.spPredRow s k half t tr semi b free row mask pred ends on r).1 := by
  unfold State.spPredRow
  repeat' (first | with_reducible assumption | with_reducible apply State.bump_kept | with_reducible apply State.modSp_kept | with_reducible apply State.spFullRow_kept | with_reducible apply State.spOob_kept | with_reducible apply State.spPruned_kept | (extract_lets +onlyGivenNames t; (have ht : Kept Q t := (by unfold t; repeat' (first | with_reducible assumption | with_reducible apply State.bump_kept))); clear_value t) | (extract_lets +onlyGivenNames t; clear_value t) | split)


theorem State.spPredRow_kept {Q : List Instr} {s : State} {k half : Nat} {t : Tile} {tr : Bool} {semi : Nat} {b : BBuf} {free row : Nat} {mask pred : Word} {ends : List Nat} {on : Bool} {r : Nat} {r0 : State} {r1 : Bool} (e : State.spPredRow s k half t tr semi b free row mask pred ends on r = (r0, r1)) (h_s : Kept Q s) : Kept Q r0 := by
  have h := State.spPredRow_kept' (Q := Q) (s := s) (k := k) (half := half) (t := t) (tr := tr) (semi := semi) (b := b) (free := free) (row := row) (mask := mask) (pred := pred) (ends := ends) (on := on) (r := r)  h_s
  rw [e] at h
  exact h

theorem State.spStop_kept {Q : List Instr} {s : State} {k : Nat} {o : SpOp} {status : Nat} (h_s : Kept Q s) :
  Kept Q (State.spStop s k o status) := by
  unfold State.spStop
  repeat' (first | with_reducible assumption | with_reducible apply State.engReport_kept | with_reducible apply State.modSp_kept)

theorem State.spPop_kept {Q : List Instr} {s : State} {k : Nat} {u : SpUnit} (h_s : Kept Q s) :
  Kept Q (State.spPop s k u) := by
  unfold State.spPop
  repeat' (first | with_reducible assumption | with_reducible apply State.bump_kept | with_reducible apply State.modSp_kept)

theorem State.spLanes_kept {Q : List Instr} {s : State} {k : Nat} {t : Tile} {tr : Bool} {row : Nat} {rows : List Nat} {one : State × Bool → List Nat → Nat → State × Bool}
  (h_one : ∀ a l r, Kept Q a.1 → Kept Q (one a l r).1) (h_s : Kept Q s) :
  Kept Q (State.spLanes s k t tr row rows one) := by
  unfold State.spLanes
  refine State.bumpUpTo_kept (State.bumpUpTo_kept (State.bumpBy_kept ?_))
  exact kept_foldl_fst (fun a x ha => h_one a _ _ ha) ⟨h_s.pending, h_s.mem, h_s.regs⟩

theorem State.spMma_kept {Q : List Instr} {s : State} {k : Nat} {o : SpOp} {t : Tile} {b : BBuf} {pred : Word} {usePred tr start : Bool} {semi row : Nat} {mask : Word} (h_s : Kept Q s) :
  Kept Q (State.spMma s k o t b pred usePred tr start semi row mask) := by
  unfold State.spMma
  extract_lets n s0 u
  have h0 : Kept Q s0 := by
    unfold s0
    split
    · exact State.modSp_kept h_s
    · exact h_s
  have hu : Kept Q u := by
    refine State.spLanes_kept (fun a l r ha => ?_) h0
    split
    · exact State.spPredRow_kept' ha
    · exact State.spFullRow_kept ha
  split
  · exact State.spPop_kept hu
  · exact State.modSp_kept hu

theorem State.spKadd_kept {Q : List Instr} {s : State} {k : Nat} {o : SpOp} {semi f : Nat} {mask : Word} {pa : Nat} {e0 : Nat} (h_s : Kept Q s) :
  Kept Q (State.spKadd s k o semi f mask pa e0) := by
  induction e0 generalizing s k o semi f mask pa <;> (
  unfold State.spKadd
  repeat' (first | with_reducible assumption | with_reducible apply State.bump_kept | with_reducible apply State.spOob_kept | with_reducible apply State.spPop_kept | with_reducible apply State.spStop_kept | with_reducible apply_assumption -exfalso -symm | (extract_lets +onlyGivenNames t; (have ht : ∀ a, Kept Q a → Kept Q (t a) := (by unfold t; repeat' (first | with_reducible apply_assumption -exfalso -symm | with_reducible refine fun _ => ?_))); clear_value t) | (extract_lets +onlyGivenNames t; (have ht : ∀ a b c d, Kept Q d → Kept Q (t a b c d) := (by unfold t; repeat' (first | with_reducible assumption | with_reducible apply State.modSp_kept | with_reducible apply State.spFlag_kept | with_reducible apply_assumption -exfalso -symm | with_reducible refine fun _ => ?_))); clear_value t) | (extract_lets +onlyGivenNames t; clear_value t) | split))

theorem State.drainRow_kept {Q : List Instr} {s : State} {k pa f : Nat} {sr : Bool} {mask : Word} {vals : List OutVal} (h_s : Kept Q s) :
  Kept Q (State.drainRow s k pa f sr mask vals) := by
  unfold State.drainRow
  repeat' (first | with_reducible assumption | with_reducible apply State.modSp_kept | with_reducible apply State.spFlag_kept | with_reducible apply State.wrN_kept | with_reducible apply kept_foldl | with_reducible refine fun _ => ?_ | (extract_lets +onlyGivenNames t; clear_value t) | split)

theorem State.spDrainRows_kept {Q : List Instr} {s : State} {k : Nat} {o : SpOp} {addr cnt : Word} {relu clear sr : Bool} {semi f row : Nat} {mask : Word} (h_s : Kept Q s) :
  Kept Q (State.spDrainRows s k o addr cnt relu clear sr semi f row mask) := by
  unfold State.spDrainRows
  repeat' (first | with_reducible assumption | with_reducible apply State.modSp_kept | with_reducible apply kept_foldl | with_reducible refine fun _ => ?_ | (extract_lets +onlyGivenNames t; (have ht : Kept Q t := (by unfold t; repeat' (first | with_reducible assumption | with_reducible apply State.drainRow_kept | with_reducible apply State.spFlag_kept | split))); clear_value t) | (extract_lets +onlyGivenNames t; clear_value t) | split)

theorem State.spDrainKeys_kept {Q : List Instr} {s : State} {k : Nat} {o : SpOp} {dst : Nat} {addr cnt : Word} {relu clear sr : Bool} {semi f : Nat} {mask : Word} (h_s : Kept Q s) :
  Kept Q (State.spDrainKeys s k o dst addr cnt relu clear sr semi f mask) := by
  unfold State.spDrainKeys
  repeat' (first | with_reducible assumption | with_reducible apply State.modSp_kept | with_reducible apply State.modTask_kept | with_reducible apply State.wrN_kept | with_reducible apply kept_foldl | with_reducible refine fun _ => ?_ | (extract_lets +onlyGivenNames t; (have ht : Kept Q t := (by unfold t; repeat' (first | with_reducible assumption | with_reducible apply State.drainRow_kept | with_reducible apply State.wrN_kept))); clear_value t) | (extract_lets +onlyGivenNames t; clear_value t) | split)

theorem State.spCmp_kept {Q : List Instr} {s : State} {k : Nat} {o : SpOp} {dst : Nat} {dest addr cnt : Word} {kind semi f kdim4 : Nat} (h_s : Kept Q s) :
  Kept Q (State.spCmp s k o dst dest addr cnt kind semi f kdim4) := by
  unfold State.spCmp
  repeat' (first | with_reducible assumption | with_reducible apply State.modTask_kept | with_reducible apply State.spPruned_kept | with_reducible apply State.wrN_kept)

theorem State.spLdb_kept {Q : List Instr} {s : State} {k half : Nat} {addr cnt : Word} {bbuf f : Nat} (h_s : Kept Q s) :
  Kept Q (State.spLdb s k half addr cnt bbuf f) := by
  unfold State.spLdb
  repeat' (first | with_reducible assumption | with_reducible apply State.modSp_kept)

theorem State.spRun_kept {Q : List Instr} {s : State} {k : Nat} {o : SpOp} (h_s : Kept Q s) :
  Kept Q (State.spRun s k o) := by
  unfold State.spRun
  repeat' (first | with_reducible assumption | with_reducible apply State.modSp_kept | with_reducible apply State.spCmp_kept | with_reducible apply State.spDrainKeys_kept | with_reducible apply State.spDrainRows_kept | with_reducible apply State.spKadd_kept | with_reducible apply State.spLdb_kept | with_reducible apply State.spMma_kept | with_reducible apply State.spPop_kept | with_reducible apply State.spStop_kept | split)

theorem State.spLeave_kept' {Q : List Instr} {s : State} {k : Nat} (h_s : Kept Q s) : KeptO Q (State.spLeave s k) := by
  unfold State.spLeave
  repeat' (first | with_reducible assumption | with_reducible apply State.bump_kept | with_reducible apply State.engSignal_kept | with_reducible apply State.modSp_kept | with_reducible apply State.spStop_kept | with_reducible apply kept_some | with_reducible apply kept_none | (extract_lets +onlyGivenNames t; (have ht : Kept Q t := (by unfold t; repeat' (first | with_reducible assumption | with_reducible apply State.modSp_kept))); clear_value t) | (extract_lets +onlyGivenNames t; clear_value t) | split)

theorem State.spLeave_kept {Q : List Instr} {s : State} {k : Nat} {r_out : State} (e : State.spLeave s k = some r_out) (h_s : Kept Q s) : Kept Q r_out :=
  (State.spLeave_kept' h_s).of r_out e

theorem State.spFlow_kept {Q : List Instr} {s : State} {k : Nat} {e0 : Nat} (h_s : Kept Q s) :
  Kept Q (State.spFlow s k e0) := by
  induction e0 generalizing s k <;> (
  unfold State.spFlow
  repeat' (first | with_reducible assumption | with_reducible refine State.spLeave_kept (by assumption) ?_ | with_reducible apply_assumption -exfalso -symm | split))

theorem State.spFail_kept {Q : List Instr} {s : State} {k slot code : Nat} (h_s : Kept Q s) :
  Kept Q (State.spFail s k slot code) := by
  unfold State.spFail
  repeat' (first | with_reducible assumption | with_reducible apply State.bump_kept | with_reducible apply State.modSp_kept | with_reducible apply State.report_kept)

theorem State.spChecked_kept {Q : List Instr} {s : State} {k : Nat} {o : SpOp} {r : OpCheck} {go : State → State} (h_s : Kept Q s) (h_go : ∀ y0, Kept Q y0 → Kept Q (go y0)) :
  Kept Q (State.spChecked s k o r go) := by
  unfold State.spChecked
  repeat' (first | with_reducible assumption | with_reducible apply State.bumpBy_kept | with_reducible apply State.modSp_kept | with_reducible apply State.report_kept | with_reducible apply State.spFail_kept | with_reducible apply h_go | (extract_lets +onlyGivenNames t; (have ht : Kept Q t := (by unfold t; repeat' (first | with_reducible assumption | with_reducible apply h_go))); clear_value t) | (extract_lets +onlyGivenNames t; clear_value t) | split)

theorem State.spUnitDone_kept {Q : List Instr} {s : State} {k : Nat} {u : SpUnit} {r : OpCheck} (h_s : Kept Q s) :
  Kept Q (State.spUnitDone s k u r) := by
  unfold State.spUnitDone
  repeat' (first | with_reducible assumption | with_reducible apply State.spChecked_kept | with_reducible apply State.spRun_kept | with_reducible refine fun _ => ?_ | (extract_lets +onlyGivenNames t; clear_value t) | split)

theorem State.spComplete_kept {Q : List Instr} {s : State} {k : Nat} {u : SpUnit} {r : OpCheck} (h_s : Kept Q s) :
  Kept Q (State.spComplete s k u r) := by
  unfold State.spComplete
  repeat' (first | with_reducible assumption | with_reducible apply State.spFlow_kept | with_reducible apply State.spUnitDone_kept | split)

theorem State.spRepair_kept {Q : List Instr} {s : State} {k : Nat} {r : OpCheck} (h_s : Kept Q s) :
  Kept Q (State.spRepair s k r) := by
  unfold State.spRepair
  repeat' (first | with_reducible assumption | with_reducible apply State.spChecked_kept | with_reducible apply State.spFlow_kept | with_reducible apply State.spFullRow_kept | with_reducible apply State.spLanes_kept | with_reducible apply State.spPop_kept | with_reducible apply State.spStop_kept | with_reducible refine fun _ => ?_ | (extract_lets +onlyGivenNames t; clear_value t) | split)

theorem State.spClaim_kept {Q : List Instr} {s : State} {k : Nat} {o : Owner} (h_s : Kept Q s) :
  Kept Q (State.spClaim s k o) := by
  unfold State.spClaim
  repeat' (first | with_reducible assumption | with_reducible apply State.modSp_kept | split)

theorem State.spRefuse_kept {Q : List Instr} {s : State} {h : Hart} {group : Nat} (h_s : Kept Q s) :
  Kept Q (State.spRefuse s h group) := by
  unfold State.spRefuse
  repeat' (first | with_reducible assumption | with_reducible apply State.engReport_kept | with_reducible apply State.modCtx_kept | with_reducible apply State.modSp_kept)

theorem State.spIssue_kept {Q : List Instr} {s : State} {h : Hart} {group : Nat} {kind : SpKind} (h_s : Kept Q s) :
  Kept Q (State.spIssue s h group kind) := by
  unfold State.spIssue
  repeat' (first | with_reducible assumption | with_reducible apply State.modCtx_kept | with_reducible apply State.modSp_kept | with_reducible apply State.spClaim_kept | with_reducible apply State.spFlow_kept | with_reducible apply State.spRefuse_kept | (extract_lets +onlyGivenNames t; clear_value t) | split)

theorem State.spReadFlags_kept {Q : List Instr} {s : State} {h : Hart} {group dst : Nat} {clear : Bool} (h_s : Kept Q s) :
  Kept Q (State.spReadFlags s h group dst clear) := by
  unfold State.spReadFlags
  repeat' (first | with_reducible assumption | with_reducible apply State.modCtx_kept | with_reducible apply State.modSp_kept | with_reducible apply State.spRefuse_kept | with_reducible apply State.waits_kept | (extract_lets +onlyGivenNames t; (have ht : Kept Q t := (by unfold t; repeat' (first | with_reducible assumption | with_reducible apply State.modCtx_kept | with_reducible apply State.spClaim_kept))); clear_value t) | (extract_lets +onlyGivenNames t; clear_value t) | split)

end Sys2Proof.Machine
end

