-- ==== Sys2Proof/Laws/KeptStrokeOps.lean ====
section
/-! SUPPORT. What Machine/StrokeOps.lean keeps: the queue, and the canonical form of memory and of the register file. -/

set_option linter.unreachableTactic false
set_option linter.unusedTactic false
set_option linter.unusedVariables false
set_option linter.unusedSimpArgs false

namespace Sys2Proof.Machine

theorem State.setSk_kept {Q : List Instr} {s : State} {k : Nat} {o : SkOp} (h_s : Kept Q s) :
  Kept Q (State.setSk s k o) := by
  unfold State.setSk
  repeat' (first | with_reducible assumption | with_reducible apply State.modCl_kept)

theorem State.dropEntry_kept {Q : List Instr} {s : State} {k : Nat} {o : SkOp} (h_s : Kept Q s) :
  Kept Q (State.dropEntry s k o) := by
  unfold State.dropEntry
  repeat' (first | with_reducible assumption | (simp only [kept_mk]; with_reducible apply kept_fold) | split)

theorem State.skFree_kept {Q : List Instr} {s : State} {k : Nat} {o : SkOp} {state status : Nat} (h_s : Kept Q s) :
  Kept Q (State.skFree s k o state status) := by
  unfold State.skFree
  repeat' (first | with_reducible assumption | with_reducible apply State.dropEntry_kept | with_reducible apply State.modCl_kept | (simp only [kept_mk]; with_reducible apply kept_fold))

theorem State.skStop_kept {Q : List Instr} {s : State} {k : Nat} {o : SkOp} {status : Nat} (h_s : Kept Q s) :
  Kept Q (State.skStop s k o status) := by
  unfold State.skStop
  repeat' (first | with_reducible assumption | with_reducible apply State.engReport_kept | with_reducible apply State.skFree_kept)

theorem State.skFault_kept {Q : List Instr} {s : State} {k : Nat} {o : SkOp} (h_s : Kept Q s) :
  Kept Q (State.skFault s k o) := by
  unfold State.skFault
  repeat' (first | with_reducible assumption | with_reducible apply State.skFree_kept)

theorem State.skDone_kept {Q : List Instr} {s : State} {k : Nat} {o : SkOp} (h_s : Kept Q s) :
  Kept Q (State.skDone s k o) := by
  unfold State.skDone
  repeat' (first | with_reducible assumption | with_reducible apply State.engSignal_kept | with_reducible apply State.skFree_kept)

theorem State.skHalt_kept {Q : List Instr} {s : State} {k : Nat} {o : SkOp} {va : Nat} (h_s : Kept Q s) :
  Kept Q (State.skHalt s k o va) := by
  unfold State.skHalt
  repeat' (first | with_reducible assumption | with_reducible apply State.bump_kept | with_reducible apply State.setReg_kept | with_reducible apply State.setSk_kept)

theorem State.skPoison_kept {Q : List Instr} {s : State} {k : Nat} {o : SkOp} {pa : Nat} (h_s : Kept Q s) :
  Kept Q (State.skPoison s k o pa) := by
  unfold State.skPoison
  repeat' (first | with_reducible assumption | with_reducible apply State.poisonedRead_kept | with_reducible apply State.skFault_kept)

theorem State.skCrc_kept {Q : List Instr} {s : State} {k : Nat} {o : SkOp} (h_s : Kept Q s) :
  Kept Q (State.skCrc s k o) := by
  unfold State.skCrc
  repeat' (first | with_reducible assumption | with_reducible apply State.bump_kept | with_reducible apply State.report_kept | with_reducible apply State.setSk_kept | with_reducible apply State.skFault_kept | split)

theorem State.skAdvance_kept {Q : List Instr} {s : State} {k : Nat} {o : SkOp} {n : Nat} (h_s : Kept Q s) :
  Kept Q (State.skAdvance s k o n) := by
  unfold State.skAdvance
  repeat' (first | with_reducible assumption | with_reducible apply State.engSignal_kept | with_reducible apply State.modCl_kept | with_reducible apply State.setSk_kept | with_reducible apply State.skDone_kept | (extract_lets +onlyGivenNames t; clear_value t) | split | dsimp only)

theorem State.skRequest_kept {Q : List Instr} {s : State} {k : Nat} {o0 : SkOp} {crcOk : Bool} {e : List MemErr} (h_s : Kept Q s) :
  Kept Q (State.skRequest s k o0 crcOk e) := by
  unfold State.skRequest
  repeat' (first | with_reducible assumption | with_reducible apply State.countParts_kept | with_reducible apply State.demandErrs_kept | with_reducible refine State.readParts_kept (by assumption) ?_ | with_reducible refine State.resolve_kept (by assumption) ?_ | with_reducible apply State.resolve_kept' | with_reducible apply State.setSk_kept | with_reducible apply State.skAdvance_kept | with_reducible apply State.skCrc_kept | with_reducible apply State.skHalt_kept | with_reducible apply State.skPoison_kept | with_reducible apply State.skStop_kept | with_reducible apply State.writeAsk_kept | with_reducible apply State.writeParts_kept | with_reducible refine kept_fst (by assumption) ?_ | (extract_lets +onlyGivenNames t; (have ht : Kept Q t := (by unfold t; repeat' (first | with_reducible assumption | with_reducible apply State.bump_kept | with_reducible apply State.demandErrs_kept | with_reducible refine State.readParts_kept (by assumption) ?_ | with_reducible refine State.resolve_kept (by assumption) ?_ | with_reducible apply State.resolve_kept' | with_reducible apply State.setSk_kept | with_reducible refine kept_fst (by assumption) ?_ | (extract_lets +onlyGivenNames t; (have ht : Kept Q t := (by unfold t; repeat' (first | with_reducible assumption | with_reducible apply State.bump_kept | with_reducible apply State.demandErrs_kept | with_reducible refine State.readParts_kept (by assumption) ?_ | with_reducible refine State.resolve_kept (by assumption) ?_ | with_reducible apply State.resolve_kept' | with_reducible apply State.setSk_kept | with_reducible refine kept_fst (by assumption) ?_ | split))); clear_value t) | split))); clear_value t) | (extract_lets +onlyGivenNames t; clear_value t) | split)

theorem State.skComplete_kept {Q : List Instr} {s : State} {k n : Nat} {crcOk : Bool} {e : List MemErr} (h_s : Kept Q s) :
  Kept Q (State.skComplete s k n crcOk e) := by
  unfold State.skComplete
  repeat' (first | with_reducible assumption | with_reducible apply State.skRequest_kept | split)

theorem State.skStart_kept {Q : List Instr} {s : State} {k : Nat} {o : SkOp} {go : State → SkOp → State} (h_s : Kept Q s) (h_go : ∀ y0 y1, Kept Q y0 → Kept Q (go y0 y1)) :
  Kept Q (State.skStart s k o go) := by
  unfold State.skStart
  repeat' (first | with_reducible assumption | with_reducible apply State.bump_kept | with_reducible apply State.setSk_kept | with_reducible apply State.skStop_kept | with_reducible apply h_go | (extract_lets +onlyGivenNames t; clear_value t) | split)

theorem State.skEnter_kept {Q : List Instr} {s : State} {h : Hart} {o0 : SkOp} {start : State → SkOp → State} (h_s : Kept Q s) (h_start : ∀ y0 y1, Kept Q y0 → Kept Q (start y0 y1)) :
  Kept Q (State.skEnter s h o0 start) := by
  unfold State.skEnter
  repeat' (first | with_reducible assumption | with_reducible apply State.engReport_kept | with_reducible apply State.modCl_kept | with_reducible apply h_start | (extract_lets +onlyGivenNames t; (have ht : Kept Q t := (by unfold t; repeat' (first | with_reducible assumption | with_reducible apply State.modCl_kept | with_reducible apply State.modCtx_kept))); clear_value t) | (extract_lets +onlyGivenNames t; clear_value t) | split)

theorem State.skCancel_kept {Q : List Instr} {s : State} {h : Hart} {q : Option Nat} (h_s : Kept Q s) :
  Kept Q (State.skCancel s h q) := by
  unfold State.skCancel
  repeat' (first | with_reducible assumption | with_reducible apply State.modCl_kept | with_reducible apply State.modCtx_kept)

theorem State.skCancelled_kept {Q : List Instr} {s : State} {h : Hart} (h_s : Kept Q s) :
  Kept Q (State.skCancelled s h) := by
  unfold State.skCancelled
  repeat' (first | with_reducible assumption | with_reducible apply State.modCl_kept | with_reducible apply State.modCtx_kept | (extract_lets +onlyGivenNames t; (have ht : Kept Q t := (by unfold t; repeat' (first | with_reducible assumption | with_reducible apply State.skFree_kept | with_reducible apply kept_foldl | with_reducible refine fun _ => ?_))); clear_value t) | (extract_lets +onlyGivenNames t; clear_value t) | split)

end Sys2Proof.Machine
end

