-- ==== Sys2Proof/Laws/KeptRows.lean ====
section
/-! SUPPORT. What Machine/Rows.lean keeps: the queue, and the canonical form of memory and of the register file. -/

set_option linter.unreachableTactic false
set_option linter.unusedTactic false
set_option linter.unusedVariables false
set_option linter.unusedSimpArgs false

namespace Sys2Proof.Machine

theorem State.setTable_kept {Q : List Instr} {s : State} {j t : Nat} {x : TableRt} (h_s : Kept Q s) :
  Kept Q (State.setTable s j t x) := by
  unfold State.setTable
  repeat' (first | with_reducible assumption | (simp only [kept_mk]; with_reducible apply kept_fold))

theorem State.setEnt_kept {Q : List Instr} {s : State} {e : HotEnt} (h_s : Kept Q s) :
  Kept Q (State.setEnt s e) := by
  unfold State.setEnt
  repeat' (first | with_reducible assumption | with_reducible apply State.modHot_kept)

theorem State.hotRelease_kept {Q : List Instr} {s : State} {home pa bytes : Nat} (h_s : Kept Q s) :
  Kept Q (State.hotRelease s home pa bytes) := by
  unfold State.hotRelease
  repeat' (first | with_reducible assumption | with_reducible apply State.modHot_kept | (extract_lets +onlyGivenNames t; clear_value t) | split)

theorem State.delEnt_kept {Q : List Instr} {s : State} {home : Nat} (h_s : Kept Q s) :
  Kept Q (State.delEnt s home) := by
  unfold State.delEnt
  repeat' (first | with_reducible assumption | with_reducible apply State.hotRelease_kept | with_reducible apply State.modHot_kept | split)

theorem State.hotSpend_kept {Q : List Instr} {s : State} {slice : Nat} (h_s : Kept Q s) :
  Kept Q (State.hotSpend s slice) := by
  unfold State.hotSpend
  repeat' (first | with_reducible assumption | with_reducible apply State.modHot_kept)

theorem State.hotStart_kept {Q : List Instr} {s : State} {home units way target : Nat} {victim : Option HotEnt} {pin : Option Nat} (h_s : Kept Q s) :
  Kept Q (State.hotStart s home units way target victim pin) := by
  unfold State.hotStart
  repeat' (first | with_reducible assumption | with_reducible apply State.bump_kept | with_reducible apply State.delEnt_kept | with_reducible apply State.modHot_kept | split)

theorem State.hotPromote_kept {Q : List Instr} {s : State} {c : HotCand} (h_s : Kept Q s) :
  Kept Q (State.hotPromote s c) := by
  unfold State.hotPromote
  repeat' (first | with_reducible assumption | with_reducible apply State.bump_kept | with_reducible apply State.hotSpend_kept | with_reducible apply State.hotStart_kept | with_reducible apply State.modHot_kept | (extract_lets +onlyGivenNames t; clear_value t) | split)

theorem State.hotMiss_kept {Q : List Instr} {s : State} {home units owner : Nat} (h_s : Kept Q s) :
  Kept Q (State.hotMiss s home units owner) := by
  unfold State.hotMiss
  repeat' (first | with_reducible assumption | with_reducible apply State.hotPromote_kept | (extract_lets +onlyGivenNames t; (have ht : Kept Q t := (by unfold t; repeat' (first | with_reducible assumption | with_reducible apply State.modHot_kept))); clear_value t) | (extract_lets +onlyGivenNames t; clear_value t) | split)

theorem State.noteLook_kept {Q : List Instr} {s : State} {who : Option (Nat × Nat)} {home : Nat} (h_s : Kept Q s) :
  Kept Q (State.noteLook s who home) := by
  unfold State.noteLook
  repeat' (first | with_reducible assumption | with_reducible apply State.modHot_kept | split)

theorem State.hotBad_kept {Q : List Instr} {s : State} {e : HotEnt} (h_s : Kept Q s) :
  Kept Q (State.hotBad s e) := by
  unfold State.hotBad
  repeat' (first | with_reducible assumption | with_reducible apply State.delEnt_kept | with_reducible apply State.hotRelease_kept | with_reducible apply State.setEnt_kept | (extract_lets +onlyGivenNames t; (have ht : Kept Q t := (by unfold t; repeat' (first | with_reducible assumption | with_reducible apply State.bump_kept))); clear_value t) | split)

theorem State.hotLook_kept' {Q : List Instr} {s : State} {who : Option (Nat × Nat)} {bad : Option Nat} {home units owner n : Nat} (h_s : Kept Q s) : Kept Q (State.hotLook s who bad home units owner n).2 := by
  unfold State.hotLook
  repeat' (first | with_reducible assumption | with_reducible apply State.bump_kept | with_reducible apply State.hotBad_kept | with_reducible apply State.hotMiss_kept | with_reducible apply State.setEnt_kept | (extract_lets +onlyGivenNames t; (have ht : Kept Q t := (by unfold t; repeat' (first | with_reducible assumption | with_reducible apply State.bump_kept | with_reducible apply State.noteLook_kept))); clear_value t) | split)


theorem State.hotLook_kept {Q : List Instr} {s : State} {who : Option (Nat × Nat)} {bad : Option Nat} {home units owner n : Nat} {r0 : Nat} {r1 : State} (e : State.hotLook s who bad home units owner n = (r0, r1)) (h_s : Kept Q s) : Kept Q r1 := by
  have h := State.hotLook_kept' (Q := Q) (s := s) (who := who) (bad := bad) (home := home) (units := units) (owner := owner) (n := n)  h_s
  rw [e] at h
  exact h

theorem State.hotWrite_kept {Q : List Instr} {s : State} {home : Nat} {bs : List Byte} (h_s : Kept Q s) :
  Kept Q (State.hotWrite s home bs) := by
  unfold State.hotWrite
  repeat' (first | with_reducible assumption | with_reducible apply State.memWrite_kept | (extract_lets +onlyGivenNames t; (have ht : Kept Q t := (by unfold t; repeat' (first | with_reducible assumption | with_reducible apply State.bump_kept | with_reducible apply State.delEnt_kept | with_reducible apply State.hotRelease_kept | with_reducible apply State.setEnt_kept | (extract_lets +onlyGivenNames t; (have ht : Kept Q t := (by unfold t; repeat' (first | with_reducible assumption | with_reducible apply State.bump_kept | with_reducible apply State.delEnt_kept | with_reducible apply State.hotRelease_kept | with_reducible apply State.setEnt_kept | split))); clear_value t) | split))); clear_value t) | split)

theorem State.hotDone_kept {Q : List Instr} {s : State} {home : Nat} (h_s : Kept Q s) :
  Kept Q (State.hotDone s home) := by
  unfold State.hotDone
  repeat' (first | with_reducible assumption | with_reducible apply State.bump_kept | with_reducible apply State.delEnt_kept | with_reducible apply State.setEnt_kept | with_reducible apply State.setRfld_kept | (extract_lets +onlyGivenNames t; (have ht : Kept Q t := (by unfold t; repeat' (first | with_reducible assumption | with_reducible apply State.bump_kept | with_reducible apply State.hotRelease_kept | with_reducible apply State.memRead_kept | with_reducible apply State.memWrite_kept | with_reducible apply State.setEnt_kept | split))); clear_value t) | (extract_lets +onlyGivenNames t; clear_value t) | split)

theorem State.hotMove_kept {Q : List Instr} {s : State} {home : Nat} (h_s : Kept Q s) :
  Kept Q (State.hotMove s home) := by
  unfold State.hotMove
  repeat' (first | with_reducible assumption | with_reducible apply State.bump_kept | with_reducible apply State.hotSpend_kept | with_reducible apply State.modHot_kept | with_reducible apply State.setEnt_kept | (extract_lets +onlyGivenNames t; clear_value t) | split)

theorem State.hotTick_kept {Q : List Instr} {s : State} (h_s : Kept Q s) :
  Kept Q (State.hotTick s) := by
  unfold State.hotTick
  repeat' (first | with_reducible assumption | with_reducible apply State.hotMove_kept | with_reducible apply State.hotPromote_kept | with_reducible apply State.modHot_kept | with_reducible apply kept_foldl)

theorem State.hotWindow_kept {Q : List Instr} {s : State} (h_s : Kept Q s) :
  Kept Q (State.hotWindow s) := by
  unfold State.hotWindow
  repeat' (first | with_reducible assumption | with_reducible apply State.hotMove_kept | with_reducible apply kept_foldl | with_reducible refine fun _ => ?_ | (extract_lets +onlyGivenNames t; (have ht : Kept Q t := (by unfold t; repeat' (first | with_reducible assumption | with_reducible apply State.bumpBy_kept | with_reducible apply State.hotRelease_kept | with_reducible apply State.modHot_kept | with_reducible apply State.setReg_kept | with_reducible apply kept_foldl | with_reducible refine fun _ => ?_ | split))); clear_value t) | (extract_lets +onlyGivenNames t; clear_value t) | split)

theorem State.rowAddr_kept' {Q : List Instr} {s : State} {who : Option (Nat × Nat)} {bad : Option Nat} {d : Desc} {pub : Bool} {slot r : Nat} (h_s : Kept Q s) : Kept Q (State.rowAddr s who bad d pub slot r).2 := by
  unfold State.rowAddr
  repeat' (first | with_reducible assumption | with_reducible apply State.hotLook_kept' | split)


theorem State.rowAddr_kept {Q : List Instr} {s : State} {who : Option (Nat × Nat)} {bad : Option Nat} {d : Desc} {pub : Bool} {slot r : Nat} {r0 : Nat} {r1 : State} (e : State.rowAddr s who bad d pub slot r = (r0, r1)) (h_s : Kept Q s) : Kept Q r1 := by
  have h := State.rowAddr_kept' (Q := Q) (s := s) (who := who) (bad := bad) (d := d) (pub := pub) (slot := slot) (r := r)  h_s
  rw [e] at h
  exact h

end Sys2Proof.Machine
end

