-- ==== Sys2Proof/Laws/KeptCommit.lean ====
section
/-! SUPPORT. What Machine/Commit.lean keeps: the queue, and the canonical form of memory and of the register file. -/

set_option linter.unreachableTactic false
set_option linter.unusedTactic false
set_option linter.unusedVariables false
set_option linter.unusedSimpArgs false

namespace Sys2Proof.Machine

theorem State.setRole_kept {Q : List Instr} {s : State} {r : Nat} (h_s : Kept Q s) :
  Kept Q (State.setRole s r) := by
  unfold State.setRole
  repeat' (first | with_reducible assumption | with_reducible apply State.alert_kept | with_reducible apply State.setRfld_kept | split)

theorem State.dropHost_kept {Q : List Instr} {s : State} {pa n : Nat} (h_s : Kept Q s) :
  Kept Q (State.dropHost s pa n) := by
  unfold State.dropHost
  repeat' (first | with_reducible assumption | with_reducible apply State.send_kept | (simp only [kept_mk]; with_reducible apply kept_fold) | with_reducible apply kept_foldl | with_reducible refine fun _ => ?_)

theorem State.setVisPage_kept {Q : List Instr} {s : State} {p attr : Nat} (h_s : Kept Q s) :
  Kept Q (State.setVisPage s p attr) := by
  unfold State.setVisPage
  repeat' (first | with_reducible assumption | with_reducible apply State.homeForce_kept | (extract_lets +onlyGivenNames t; (have ht : Kept Q t := (by unfold t; repeat' (first | with_reducible assumption | with_reducible apply State.dropHost_kept))); clear_value t) | (extract_lets +onlyGivenNames t; clear_value t) | split)

theorem State.setVis_kept {Q : List Instr} {s : State} {pa n attr : Nat} (h_s : Kept Q s) :
  Kept Q (State.setVis s pa n attr) := by
  unfold State.setVis
  repeat' (first | with_reducible assumption | with_reducible apply State.setVisPage_kept | with_reducible apply kept_foldl | with_reducible refine fun _ => ?_)

theorem State.cbSend_kept {Q : List Instr} {s : State} {ty job : Nat} {args : List Nat} {data : List Byte} (h_s : Kept Q s) :
  Kept Q (State.cbSend s ty job args data) := by
  unfold State.cbSend
  repeat' (first | with_reducible assumption | (simp only [kept_mk]; with_reducible apply kept_fold))

theorem State.mirrorLine_kept {Q : List Instr} {s : State} {pa : Nat} (h_s : Kept Q s) :
  Kept Q (State.mirrorLine s pa) := by
  unfold State.mirrorLine
  repeat' (first | with_reducible assumption | with_reducible apply State.cbSend_kept | split)

theorem State.setJr_kept {Q : List Instr} {s : State} {off v : Nat} (h_s : Kept Q s) :
  Kept Q (State.setJr s off v) := by
  unfold State.setJr
  repeat' (first | with_reducible assumption | with_reducible apply State.homeForce_kept | with_reducible apply State.mirrorLine_kept)

theorem State.journal_kept {Q : List Instr} {s : State} {r : CommitRec} (h_s : Kept Q s) :
  Kept Q (State.journal s r) := by
  unfold State.journal
  repeat' (first | with_reducible assumption | with_reducible apply State.setJr_kept | (extract_lets +onlyGivenNames t; (have ht : Kept Q t := (by unfold t; repeat' (first | with_reducible assumption | with_reducible apply State.homeForce_kept | with_reducible apply State.mirrorLine_kept | with_reducible apply State.setJr_kept))); clear_value t) | (extract_lets +onlyGivenNames t; clear_value t) | split)

theorem State.seal_kept {Q : List Instr} {s : State} {csn : Nat} (h_s : Kept Q s) :
  Kept Q (State.seal s csn) := by
  unfold State.seal
  repeat' (first | with_reducible assumption | with_reducible apply State.setJr_kept | split)

theorem State.assign_kept' {Q : List Instr} {s : State} (h_s : Kept Q s) : Kept Q (State.assign s).2 := by
  unfold State.assign
  repeat' (first | with_reducible assumption | with_reducible apply State.report_kept | with_reducible apply State.setJr_kept | (extract_lets +onlyGivenNames t; clear_value t) | split)


theorem State.assign_kept {Q : List Instr} {s : State} {r0 : Option Nat} {r1 : State} (e : State.assign s = (r0, r1)) (h_s : Kept Q s) : Kept Q r1 := by
  have h := State.assign_kept' (Q := Q) (s := s)  h_s
  rw [e] at h
  exact h

theorem State.sendCommit_kept {Q : List Instr} {s : State} {r : CommitRec} {entry : List Byte} (h_s : Kept Q s) :
  Kept Q (State.sendCommit s r entry) := by
  unfold State.sendCommit
  repeat' (first | with_reducible assumption | with_reducible apply State.cbSend_kept | split)

theorem State.setRing_kept {Q : List Instr} {s : State} {r : Nat} {x : Ring} (h_s : Kept Q s) :
  Kept Q (State.setRing s r x) := by
  unfold State.setRing
  repeat' (first | with_reducible assumption | (simp only [kept_mk]; with_reducible apply kept_fold))

theorem State.modRing_kept {Q : List Instr} {s : State} {r : Nat} {f : Ring → Ring} (h_s : Kept Q s) :
  Kept Q (State.modRing s r f) := by
  unfold State.modRing
  repeat' (first | with_reducible assumption | with_reducible apply State.setRing_kept)

theorem State.intrTry_kept {Q : List Instr} {s : State} {r : Nat} {now : Bool} (h_s : Kept Q s) :
  Kept Q (State.intrTry s r now) := by
  unfold State.intrTry
  repeat' (first | with_reducible assumption | (simp only [kept_mk]; with_reducible apply kept_fold) | (extract_lets +onlyGivenNames t; (have ht : Kept Q t := (by unfold t; repeat' (first | with_reducible assumption | with_reducible apply State.bump_kept | with_reducible apply State.send_kept))); clear_value t) | (extract_lets +onlyGivenNames t; clear_value t) | split)

theorem State.cqWrite_kept {Q : List Instr} {s : State} {r : Nat} {b : List Byte} (h_s : Kept Q s) :
  Kept Q (State.cqWrite s r b) := by
  unfold State.cqWrite
  repeat' (first | with_reducible assumption | with_reducible apply State.homeForce_kept | with_reducible apply State.intrTry_kept | with_reducible apply State.modRing_kept | (simp only [kept_mk]; with_reducible apply kept_fold))

theorem State.settleRing_kept {Q : List Instr} {s : State} {r : Nat} {e0 : Nat} (h_s : Kept Q s) :
  Kept Q (State.settleRing s r e0) := by
  induction e0 generalizing s r <;> (
  unfold State.settleRing
  repeat' (first | with_reducible assumption | with_reducible apply State.bump_kept | with_reducible apply State.cqWrite_kept | with_reducible apply State.modRing_kept | with_reducible apply_assumption -exfalso -symm | (extract_lets +onlyGivenNames t; clear_value t) | split))

theorem State.settleEvents_kept {Q : List Instr} {s : State} {e0 : Nat} (h_s : Kept Q s) :
  Kept Q (State.settleEvents s e0) := by
  induction e0 generalizing s <;> (
  unfold State.settleEvents
  repeat' (first | with_reducible assumption | with_reducible apply_assumption -exfalso -symm | (simp only [kept_mk]; with_reducible apply kept_fold) | (extract_lets +onlyGivenNames t; (have ht : Kept Q t := (by unfold t; repeat' (first | with_reducible assumption | with_reducible apply State.cqWrite_kept))); clear_value t) | (extract_lets +onlyGivenNames t; clear_value t) | split))

theorem State.settleAll_kept {Q : List Instr} {s : State} (h_s : Kept Q s) :
  Kept Q (State.settleAll s) := by
  unfold State.settleAll
  repeat' (first | with_reducible assumption | with_reducible apply State.settleEvents_kept | with_reducible apply State.settleRing_kept | with_reducible apply kept_foldl | with_reducible refine fun _ => ?_)

theorem State.complete_kept {Q : List Instr} {s : State} {r : Nat} {seq : Word} {c : Compl} (h_s : Kept Q s) :
  Kept Q (State.complete s r seq c) := by
  unfold State.complete
  repeat' (first | with_reducible assumption | with_reducible apply State.modRing_kept | with_reducible apply State.settleRing_kept)

theorem State.consume_kept {Q : List Instr} {s : State} {r : Nat} (h_s : Kept Q s) :
  Kept Q (State.consume s r) := by
  unfold State.consume
  repeat' (first | with_reducible assumption | with_reducible apply State.homeForce_kept | with_reducible apply State.memRead_kept | with_reducible apply State.modRing_kept)

theorem State.settleFair_kept {Q : List Instr} {s : State} {r : Nat} (h_s : Kept Q s) :
  Kept Q (State.settleFair s r) := by
  unfold State.settleFair
  repeat' (first | with_reducible assumption | with_reducible apply State.settleRing_kept | (extract_lets +onlyGivenNames t; (have ht : Kept Q t := (by unfold t; repeat' (first | with_reducible assumption | with_reducible apply State.consume_kept | with_reducible apply State.modRing_kept | (simp only [kept_mk]; with_reducible apply kept_fold) | with_reducible apply kept_foldl | with_reducible refine fun _ => ?_))); clear_value t) | (extract_lets +onlyGivenNames t; clear_value t) | split)

theorem State.setGroup_kept {Q : List Instr} {s : State} {j : Nat} {g : GroupRt} (h_s : Kept Q s) :
  Kept Q (State.setGroup s j g) := by
  unfold State.setGroup
  repeat' (first | with_reducible assumption | (simp only [kept_mk]; with_reducible apply kept_fold))

theorem State.sendCtl_kept {Q : List Instr} {s : State} {q ty j : Nat} {vals : List Nat} (h_s : Kept Q s) :
  Kept Q (State.sendCtl s q ty j vals) := by
  unfold State.sendCtl
  repeat' (first | with_reducible assumption | with_reducible apply State.send_kept)

theorem State.sendAll_kept {Q : List Instr} {s : State} {ty j : Nat} {vals : List Nat} (h_s : Kept Q s) :
  Kept Q (State.sendAll s ty j vals) := by
  unfold State.sendAll
  repeat' (first | with_reducible assumption | with_reducible apply State.sendCtl_kept | with_reducible apply kept_foldl | with_reducible refine fun _ => ?_)

theorem State.groupFolioAt_kept {Q : List Instr} {s : State} {j : Nat} (h_s : Kept Q s) :
  Kept Q (State.groupFolioAt s j) := by
  unfold State.groupFolioAt
  repeat' (first | with_reducible assumption | with_reducible apply State.sendAll_kept | with_reducible apply State.setGroup_kept | (extract_lets +onlyGivenNames t; clear_value t) | split)

theorem State.groupRequest_kept {Q : List Instr} {s : State} {forced : Bool} (h_s : Kept Q s) :
  Kept Q (State.groupRequest s forced) := by
  unfold State.groupRequest
  repeat' (first | with_reducible assumption | with_reducible apply State.groupFolioAt_kept | with_reducible apply State.sendCtl_kept | with_reducible apply kept_foldl | with_reducible refine fun _ => ?_ | (extract_lets +onlyGivenNames t; (have ht : Kept Q t := (by unfold t; repeat' (first | with_reducible assumption | with_reducible apply State.setGroup_kept))); clear_value t) | (extract_lets +onlyGivenNames t; clear_value t) | split)

theorem State.setQpf_kept {Q : List Instr} {s : State} {q off n v : Nat} (h_s : Kept Q s) :
  Kept Q (State.setQpf s q off n v) := by
  unfold State.setQpf
  repeat' (first | with_reducible assumption | with_reducible apply State.homeForce_kept)

theorem State.setQp_kept {Q : List Instr} {s : State} {q : Nat} {x : QpRt} (h_s : Kept Q s) :
  Kept Q (State.setQp s q x) := by
  unfold State.setQp
  repeat' (first | with_reducible assumption | (simp only [kept_mk]; with_reducible apply kept_fold))

theorem State.qpSend_kept {Q : List Instr} {s : State} {q code : Nat} {args : List Nat} {data : List Byte} (h_s : Kept Q s) :
  Kept Q (State.qpSend s q code args data) := by
  unfold State.qpSend
  repeat' (first | with_reducible assumption | with_reducible apply State.send_kept)

theorem State.sliceReq_kept {Q : List Instr} {s : State} {q : Nat} {r : SliceReq} (h_s : Kept Q s) :
  Kept Q (State.sliceReq s q r) := by
  unfold State.sliceReq
  repeat' (first | with_reducible assumption | with_reducible apply State.bump_kept | with_reducible apply State.qpSend_kept | with_reducible apply State.sendCtl_kept | with_reducible apply State.setQp_kept | (extract_lets +onlyGivenNames t; clear_value t) | split)

theorem State.sliceWake_kept {Q : List Instr} {s : State} {j : Nat} (h_s : Kept Q s) :
  Kept Q (State.sliceWake s j) := by
  unfold State.sliceWake
  repeat' (first | with_reducible assumption | with_reducible apply State.setQp_kept | with_reducible apply State.sliceReq_kept | with_reducible apply kept_foldl | with_reducible refine fun _ => ?_ | (extract_lets +onlyGivenNames t; clear_value t) | split)

theorem State.reclaimSlot_kept {Q : List Instr} {s : State} {j t : Nat} {d : Desc} {e : EdSlot} (h_s : Kept Q s) :
  Kept Q (State.reclaimSlot s j t d e) := by
  unfold State.reclaimSlot
  repeat' (first | with_reducible assumption | with_reducible apply State.bump_kept | with_reducible apply State.setTable_kept | with_reducible apply State.setVis_kept | with_reducible apply kept_foldl | with_reducible refine fun _ => ?_)

theorem State.reclaim_kept {Q : List Instr} {s : State} {j : Nat} (h_s : Kept Q s) :
  Kept Q (State.reclaim s j) := by
  unfold State.reclaim
  repeat' (first | with_reducible assumption | with_reducible apply State.reclaimSlot_kept | with_reducible apply kept_foldl | with_reducible refine fun _ => ?_ | split)

theorem State.activate_kept {Q : List Instr} {s : State} {j : Nat} {tables : List Nat} (h_s : Kept Q s) :
  Kept Q (State.activate s j tables) := by
  unfold State.activate
  repeat' (first | with_reducible assumption | with_reducible apply State.reclaim_kept | with_reducible apply State.setReg_kept | with_reducible apply State.setTable_kept | with_reducible apply State.setVis_kept | with_reducible apply State.sliceWake_kept | with_reducible apply kept_foldl | with_reducible refine fun _ => ?_ | (extract_lets +onlyGivenNames t; clear_value t) | split)

theorem State.pubResult_kept {Q : List Instr} {s : State} {p : PubEnt} {csn : Option Nat} {reason : Nat} (h_s : Kept Q s) :
  Kept Q (State.pubResult s p csn reason) := by
  unfold State.pubResult
  repeat' (first | with_reducible assumption | with_reducible apply State.complete_kept | (extract_lets +onlyGivenNames t; (have ht : Kept Q t := (by unfold t; repeat' (first | with_reducible assumption | with_reducible apply State.homeForce_kept | with_reducible apply State.skDone_kept | (simp only [kept_mk]; with_reducible apply kept_fold) | split))); clear_value t) | (extract_lets +onlyGivenNames t; clear_value t) | split)

theorem State.settleQueues_kept {Q : List Instr} {s : State} {restored : List Nat} (h_s : Kept Q s) :
  Kept Q (State.settleQueues s restored) := by
  unfold State.settleQueues
  repeat' (first | with_reducible assumption | with_reducible apply State.pubResult_kept | with_reducible apply State.settleFair_kept | with_reducible apply kept_foldl | with_reducible refine fun _ => ?_)

theorem State.classMiss_kept {Q : List Instr} {s : State} (h_s : Kept Q s) :
  Kept Q (State.classMiss s) := by
  unfold State.classMiss
  repeat' (first | with_reducible assumption | with_reducible apply State.bumpBy_kept | (simp only [kept_mk]; with_reducible apply kept_fold))

theorem State.stateReadNow_kept {Q : List Instr} {s : State} {r : Nat} {e : RingEnt} {j t first rows buf csn : Nat} (h_s : Kept Q s) :
  Kept Q (State.stateReadNow s r e j t first rows buf csn) := by
  unfold State.stateReadNow
  repeat' (first | with_reducible assumption | with_reducible apply State.complete_kept | with_reducible apply State.homeForce_kept | with_reducible apply State.memRead_kept | with_reducible apply kept_foldl | with_reducible refine fun _ => ?_)

theorem State.loadNow_kept {Q : List Instr} {s : State} {r : Nat} {e : RingEnt} {j csn : Nat} (h_s : Kept Q s) :
  Kept Q (State.loadNow s r e j csn) := by
  unfold State.loadNow
  repeat' (first | with_reducible assumption | with_reducible apply State.complete_kept | with_reducible apply State.setJob_kept)

theorem State.entryCommit_kept {Q : List Instr} {s : State} {r : Nat} {e : RingEnt} {c : CommitRec} (h_s : Kept Q s) :
  Kept Q (State.entryCommit s r e c) := by
  unfold State.entryCommit
  repeat' (first | with_reducible assumption | with_reducible apply State.modRing_kept)

theorem State.saveCounts_kept {Q : List Instr} {s : State} {j : Nat} (h_s : Kept Q s) :
  Kept Q (State.saveCounts s j) := by
  unfold State.saveCounts
  repeat' (first | with_reducible assumption | (simp only [kept_mk]; with_reducible apply kept_fold))

theorem State.unload_kept {Q : List Instr} {s : State} {j : Nat} (h_s : Kept Q s) :
  Kept Q (State.unload s j) := by
  unfold State.unload
  repeat' (first | with_reducible assumption | with_reducible apply State.dropNear_kept | with_reducible apply State.dropTasks_kept | with_reducible apply State.endPins_kept | with_reducible apply State.setJob_kept | with_reducible apply State.setReg_kept | with_reducible apply State.setVis_kept | with_reducible apply State.writeMap_kept | (simp only [kept_mk]; with_reducible apply kept_fold) | with_reducible apply kept_foldl | with_reducible refine fun _ => ?_ | split)

theorem State.commitEntry_kept {Q : List Instr} {s : State} {r : Nat} {e : RingEnt} {j : Nat} {now : State → Nat → State} (h_s : Kept Q s) (h_now : ∀ y0 y1, Kept Q y0 → Kept Q (now y0 y1)) :
  Kept Q (State.commitEntry s r e j now) := by
  unfold State.commitEntry
  repeat' (first | with_reducible assumption | with_reducible refine State.assign_kept (by assumption) ?_ | with_reducible apply State.complete_kept | with_reducible apply State.entryCommit_kept | with_reducible apply State.journal_kept | with_reducible apply State.sendCommit_kept | with_reducible apply State.unload_kept | with_reducible apply h_now | (extract_lets +onlyGivenNames t; clear_value t) | split)

theorem State.dropLoads_kept {Q : List Instr} {s : State} (h_s : Kept Q s) :
  Kept Q (State.dropLoads s) := by
  unfold State.dropLoads
  repeat' (first | with_reducible assumption | with_reducible apply State.settleFair_kept | with_reducible apply State.unload_kept | with_reducible apply kept_foldl)

theorem State.commitLoads_kept {Q : List Instr} {s : State} (h_s : Kept Q s) :
  Kept Q (State.commitLoads s) := by
  unfold State.commitLoads
  repeat' (first | with_reducible assumption | with_reducible apply State.commitEntry_kept | with_reducible apply State.loadNow_kept | with_reducible apply kept_foldl | with_reducible refine fun _ => ?_ | split)

theorem State.setPhase_kept {Q : List Instr} {s : State} {n : Nat} (h_s : Kept Q s) :
  Kept Q (State.setPhase s n) := by
  unfold State.setPhase
  repeat' (first | with_reducible assumption | with_reducible apply State.setRfld_kept)

theorem State.pauseSk_kept {Q : List Instr} {s : State} (h_s : Kept Q s) :
  Kept Q (State.pauseSk s) := by
  unfold State.pauseSk
  repeat' (first | with_reducible assumption | (simp only [kept_mk]; with_reducible apply kept_fold))

theorem State.resumeSk_kept {Q : List Instr} {s : State} (h_s : Kept Q s) :
  Kept Q (State.resumeSk s) := by
  unfold State.resumeSk
  repeat' (first | with_reducible assumption | (simp only [kept_mk]; with_reducible apply kept_fold))

theorem State.engFlow_kept {Q : List Instr} {s : State} (h_s : Kept Q s) :
  Kept Q (State.engFlow s) := by
  unfold State.engFlow
  repeat' (first | with_reducible assumption | with_reducible apply State.qlFlow_kept | with_reducible apply State.spFlow_kept | with_reducible apply kept_foldl | with_reducible refine fun _ => ?_ | split)

theorem State.folioBegin_kept {Q : List Instr} {s : State} {forced : Bool} (h_s : Kept Q s) :
  Kept Q (State.folioBegin s forced) := by
  unfold State.folioBegin
  repeat' (first | with_reducible assumption | with_reducible apply State.pauseSk_kept | with_reducible apply State.setPhase_kept | (simp only [kept_mk]; with_reducible apply kept_fold))

theorem State.takeFolio_kept {Q : List Instr} {s : State} {forced : Bool} (h_s : Kept Q s) :
  Kept Q (State.takeFolio s forced) := by
  unfold State.takeFolio
  repeat' (first | with_reducible assumption | with_reducible apply State.folioBegin_kept | (simp only [kept_mk]; with_reducible apply kept_fold) | (extract_lets +onlyGivenNames t; clear_value t) | split)

theorem State.requestFolio_kept {Q : List Instr} {s : State} {forced : Bool} (h_s : Kept Q s) :
  Kept Q (State.requestFolio s forced) := by
  unfold State.requestFolio
  repeat' (first | with_reducible assumption | with_reducible apply State.groupRequest_kept | with_reducible apply State.takeFolio_kept | (simp only [kept_mk]; with_reducible apply kept_fold) | (extract_lets +onlyGivenNames t; clear_value t) | split)

theorem State.groupStep_kept {Q : List Instr} {s : State} {j : Nat} (h_s : Kept Q s) :
  Kept Q (State.groupStep s j) := by
  unfold State.groupStep
  repeat' (first | with_reducible assumption | with_reducible apply State.takeFolio_kept | split)

theorem State.folioSettle_kept {Q : List Instr} {s : State} (h_s : Kept Q s) :
  Kept Q (State.folioSettle s) := by
  unfold State.folioSettle
  repeat' (first | with_reducible assumption | with_reducible apply State.bump_kept | with_reducible apply State.requestFolio_kept | with_reducible apply State.setRbit_kept | (extract_lets +onlyGivenNames t; (have ht : Kept Q t := (by unfold t; repeat' (first | with_reducible assumption | (simp only [kept_mk]; with_reducible apply kept_fold)))); clear_value t) | (extract_lets +onlyGivenNames t; clear_value t) | split)

theorem State.readNow_kept {Q : List Instr} {s : State} {j : Nat} {x : Nat × RingEnt} (h_s : Kept Q s) :
  Kept Q (State.readNow s j x) := by
  unfold State.readNow
  repeat' (first | with_reducible assumption | with_reducible apply State.commitEntry_kept | with_reducible apply State.complete_kept | with_reducible apply State.stateReadNow_kept | with_reducible refine fun _ => ?_ | split)

theorem State.releaseHeld_kept {Q : List Instr} {s : State} {j : Nat} (h_s : Kept Q s) :
  Kept Q (State.releaseHeld s j) := by
  unfold State.releaseHeld
  repeat' (first | with_reducible assumption | (simp only [kept_mk]; with_reducible apply kept_fold) | split)

theorem State.boundary_kept {Q : List Instr} {s : State} {j : Nat} (h_s : Kept Q s) :
  Kept Q (State.boundary s j) := by
  unfold State.boundary
  repeat' (first | with_reducible assumption | with_reducible apply State.readNow_kept | with_reducible apply State.releaseHeld_kept | with_reducible apply State.setJob_kept | with_reducible apply kept_foldl | with_reducible refine fun _ => ?_ | (extract_lets +onlyGivenNames t; clear_value t) | split)

theorem State.boundaries_kept {Q : List Instr} {s : State} (h_s : Kept Q s) :
  Kept Q (State.boundaries s) := by
  unfold State.boundaries
  repeat' (first | with_reducible assumption | with_reducible apply State.boundary_kept | with_reducible apply kept_foldl)

theorem State.recordStep_kept {Q : List Instr} {s : State} {r : CommitRec} {q : StepReq} (h_s : Kept Q s) :
  Kept Q (State.recordStep s r q) := by
  unfold State.recordStep
  repeat' (first | with_reducible assumption | with_reducible apply State.boundary_kept | with_reducible apply State.groupStep_kept | (extract_lets +onlyGivenNames t; (have ht : Kept Q t := (by unfold t; repeat' (first | with_reducible assumption | with_reducible apply State.journal_kept | with_reducible apply State.modCtx_kept | with_reducible apply State.sendMark_kept | with_reducible apply State.setJob_kept | (simp only [kept_mk]; with_reducible apply kept_fold) | split))); clear_value t) | (extract_lets +onlyGivenNames t; clear_value t) | split)

theorem State.folioClean_kept {Q : List Instr} {s : State} (h_s : Kept Q s) :
  Kept Q (State.folioClean s) := by
  unfold State.folioClean
  repeat' (first | with_reducible assumption | with_reducible apply State.cleanAll_kept | with_reducible apply State.hostBackAll_kept | with_reducible apply kept_foldl | with_reducible refine fun _ => ?_)

theorem State.setUndo_kept {Q : List Instr} {s : State} {j : Nat} {u : UndoRt} (h_s : Kept Q s) :
  Kept Q (State.setUndo s j u) := by
  unfold State.setUndo
  repeat' (first | with_reducible assumption | (simp only [kept_mk]; with_reducible apply kept_fold))

theorem State.folioCapture_kept {Q : List Instr} {s : State} (h_s : Kept Q s) :
  Kept Q (State.folioCapture s) := by
  unfold State.folioCapture
  repeat' (first | with_reducible assumption | with_reducible apply State.folioClean_kept | with_reducible apply State.setPhase_kept | with_reducible apply State.setUndo_kept | (simp only [kept_mk]; with_reducible apply kept_fold) | with_reducible apply kept_foldl | with_reducible refine fun _ => ?_)

theorem State.undoRelease_kept {Q : List Instr} {s : State} (h_s : Kept Q s) :
  Kept Q (State.undoRelease s) := by
  unfold State.undoRelease
  repeat' (first | with_reducible assumption | (simp only [kept_mk]; with_reducible apply kept_fold))

theorem State.groupCheck_kept {Q : List Instr} {s : State} {j : Nat} (h_s : Kept Q s) :
  Kept Q (State.groupCheck s j) := by
  unfold State.groupCheck
  repeat' (first | with_reducible assumption | with_reducible apply State.setGroup_kept | with_reducible apply State.setUndo_kept | (extract_lets +onlyGivenNames t; clear_value t) | split)

theorem State.groupSealed_kept {Q : List Instr} {s : State} {im : Option Image} (h_s : Kept Q s) :
  Kept Q (State.groupSealed s im) := by
  unfold State.groupSealed
  repeat' (first | with_reducible assumption | with_reducible apply State.groupCheck_kept | with_reducible apply State.sendAll_kept | with_reducible apply State.setGroup_kept | with_reducible apply kept_foldl | with_reducible refine fun _ => ?_ | (extract_lets +onlyGivenNames t; (have ht : Kept Q t := (by unfold t; repeat' (first | with_reducible assumption | with_reducible apply State.setGroup_kept))); clear_value t) | (extract_lets +onlyGivenNames t; clear_value t) | split)

theorem State.folioStats_kept {Q : List Instr} {s : State} (h_s : Kept Q s) :
  Kept Q (State.folioStats s) := by
  unfold State.folioStats
  repeat' (first | with_reducible assumption | with_reducible apply State.setRfld_kept)

theorem State.commitsGoOn_kept {Q : List Instr} {s : State} (h_s : Kept Q s) :
  Kept Q (State.commitsGoOn s) := by
  unfold State.commitsGoOn
  repeat' (first | with_reducible assumption | with_reducible apply State.boundaries_kept | with_reducible apply State.commitLoads_kept)

theorem State.folioOver_kept {Q : List Instr} {s : State} (h_s : Kept Q s) :
  Kept Q (State.folioOver s) := by
  unfold State.folioOver
  repeat' (first | with_reducible assumption | with_reducible apply State.takeFolio_kept | (extract_lets +onlyGivenNames t; (have ht : Kept Q t := (by unfold t; repeat' (first | with_reducible assumption | with_reducible apply State.commitsGoOn_kept | with_reducible apply State.engFlow_kept | with_reducible apply State.resumeSk_kept | with_reducible apply State.setPhase_kept | with_reducible apply State.setRbit_kept | (simp only [kept_mk]; with_reducible apply kept_fold) | (extract_lets +onlyGivenNames t; (have ht : Kept Q t := (by unfold t; repeat' (first | with_reducible assumption | with_reducible apply State.commitsGoOn_kept | with_reducible apply State.setRbit_kept | split))); clear_value t) | split))); clear_value t) | (extract_lets +onlyGivenNames t; clear_value t) | split)

theorem State.recordPub_kept {Q : List Instr} {s : State} {r : CommitRec} (h_s : Kept Q s) :
  Kept Q (State.recordPub s r) := by
  unfold State.recordPub
  repeat' (first | with_reducible assumption | with_reducible apply State.pubResult_kept | (extract_lets +onlyGivenNames t; (have ht : Kept Q t := (by unfold t; repeat' (first | with_reducible assumption | with_reducible apply State.journal_kept | with_reducible apply State.seal_kept))); clear_value t) | split)

theorem State.ringRelease_kept {Q : List Instr} {s : State} {im : Option Image} (h_s : Kept Q s) :
  Kept Q (State.ringRelease s im) := by
  unfold State.ringRelease
  repeat' (first | with_reducible assumption | with_reducible apply State.setReg_kept | with_reducible apply kept_foldl | with_reducible refine fun _ => ?_ | split)

theorem State.loadsSealed_kept {Q : List Instr} {s : State} {im : Option Image} (h_s : Kept Q s) :
  Kept Q (State.loadsSealed s im) := by
  unfold State.loadsSealed
  repeat' (first | with_reducible assumption | with_reducible apply State.setJob_kept | with_reducible apply kept_foldl | with_reducible refine fun _ => ?_ | (extract_lets +onlyGivenNames t; clear_value t) | split)

theorem State.folioSeal_kept {Q : List Instr} {s : State} (h_s : Kept Q s) :
  Kept Q (State.folioSeal s) := by
  unfold State.folioSeal
  repeat' (first | with_reducible assumption | with_reducible apply State.folioOver_kept | with_reducible apply State.recordPub_kept | with_reducible apply State.sendCommit_kept | (extract_lets +onlyGivenNames t; (have ht : Kept Q t := (by unfold t; repeat' (first | with_reducible assumption | with_reducible apply State.activate_kept | with_reducible apply State.bump_kept | with_reducible apply State.classMiss_kept | with_reducible apply State.folioStats_kept | with_reducible apply State.groupSealed_kept | with_reducible apply State.loadsSealed_kept | with_reducible apply State.ringRelease_kept | with_reducible apply State.seal_kept | with_reducible apply State.setReg_kept | with_reducible apply State.undoRelease_kept | (simp only [kept_mk]; with_reducible apply kept_fold) | split))); clear_value t) | (extract_lets +onlyGivenNames t; clear_value t) | split)

theorem State.folioAbandon_kept {Q : List Instr} {s : State} (h_s : Kept Q s) :
  Kept Q (State.folioAbandon s) := by
  unfold State.folioAbandon
  repeat' (first | with_reducible assumption | with_reducible apply State.bump_kept | with_reducible apply State.dropLoads_kept | with_reducible apply State.folioOver_kept | (extract_lets +onlyGivenNames t; (have ht : Kept Q t := (by unfold t; repeat' (first | with_reducible assumption | (simp only [kept_mk]; with_reducible apply kept_fold)))); clear_value t) | split)

theorem State.undoForce_kept {Q : List Instr} {s : State} {j : Nat} (h_s : Kept Q s) :
  Kept Q (State.undoForce s j) := by
  unfold State.undoForce
  repeat' (first | with_reducible assumption | with_reducible apply State.bump_kept | with_reducible apply State.requestFolio_kept | with_reducible apply State.setUndo_kept | (extract_lets +onlyGivenNames t; clear_value t) | split)

end Sys2Proof.Machine
end

