-- ==== Sys2Proof/Laws/KeptSystem.lean ====
section
/-! SUPPORT. What Machine/System.lean keeps: the queue, and the canonical form of memory and of the register file. -/

set_option linter.unreachableTactic false
set_option linter.unusedTactic false
set_option linter.unusedVariables false
set_option linter.unusedSimpArgs false

namespace Sys2Proof.Machine

theorem State.endTask_kept {Q : List Instr} {s : State} {h : Hart} (h_s : Kept Q s) :
  Kept Q (State.endTask s h) := by
  unfold State.endTask
  repeat' (first | with_reducible assumption | with_reducible apply State.bump_kept | with_reducible apply State.modCl_kept | with_reducible apply State.reclaim_kept | with_reducible apply State.sendMark_kept | with_reducible apply State.setCtx_kept | split)

theorem State.kick_kept {Q : List Instr} {s : State} {c : Nat} (h_s : Kept Q s) :
  Kept Q (State.kick s c) := by
  unfold State.kick
  repeat' (first | with_reducible assumption | (simp only [kept_mk]; with_reducible apply kept_fold))

theorem State.sysWrite_kept' {Q : List Instr} {s : State} {h : Hart} {n : Nat} {v : Word} (h_s : Kept Q s) : KeptO Q (State.sysWrite s h n v) := by
  unfold State.sysWrite
  repeat' (first | with_reducible assumption | with_reducible apply State.kick_kept | with_reducible apply State.modCtx_kept | with_reducible apply State.setJob_kept | with_reducible apply kept_some | with_reducible apply kept_none | (extract_lets +onlyGivenNames t; clear_value t) | split)

theorem State.sysWrite_kept {Q : List Instr} {s : State} {h : Hart} {n : Nat} {v : Word} {r_out : State} (e : State.sysWrite s h n v = some r_out) (h_s : Kept Q s) : Kept Q r_out :=
  (State.sysWrite_kept' h_s).of r_out e

theorem execNop_kept {Q : List Instr} {h : Hart} {f : FormK} {s : State} (h_s : Kept Q s) :
  Keeps Q (execNop h f s) := by
  unfold execNop
  repeat' (first | with_reducible assumption | with_reducible apply State.issue_kept | with_reducible apply State.modCtx_kept | with_reducible apply kept_next | with_reducible refine fun _ => ?_)

theorem execEndTask_kept {Q : List Instr} {h : Hart} {f : FormK} {s : State} (h_s : Kept Q s) :
  Keeps Q (execEndTask h f s) := by
  unfold execEndTask
  repeat' (first | with_reducible assumption | with_reducible apply State.endTask_kept | with_reducible apply State.issue_kept | with_reducible apply State.waits_kept | with_reducible apply kept_next | with_reducible refine fun _ => ?_ | split)

theorem execYield_kept {Q : List Instr} {h : Hart} {f : FormK} {s : State} (h_s : Kept Q s) :
  Keeps Q (execYield h f s) := by
  unfold execYield
  repeat' (first | with_reducible assumption | with_reducible apply State.issue_kept | with_reducible apply State.modCtx_kept | with_reducible apply State.raise_kept | with_reducible apply kept_next | with_reducible refine fun _ => ?_ | split)

theorem execSrr_kept {Q : List Instr} {h : Hart} {f : FormK} {s : State} (h_s : Kept Q s) :
  Keeps Q (execSrr h f s) := by
  unfold execSrr
  repeat' (first | with_reducible assumption | with_reducible apply State.issue_kept | with_reducible apply State.modCtx_kept | with_reducible apply State.raise_kept | with_reducible apply kept_next | with_reducible refine fun _ => ?_ | split)

theorem execSrw_kept {Q : List Instr} {h : Hart} {f : FormK} {s : State} (h_s : Kept Q s) :
  Keeps Q (execSrw h f s) := by
  unfold execSrw
  repeat' (first | with_reducible assumption | with_reducible apply State.issue_kept | with_reducible apply State.modCtx_kept | with_reducible apply State.raise_kept | with_reducible refine State.sysWrite_kept (by assumption) ?_ | with_reducible apply kept_next | with_reducible refine fun _ => ?_ | split)

theorem execTrap_kept {Q : List Instr} {h : Hart} {f : FormK} {s : State} (h_s : Kept Q s) :
  Keeps Q (execTrap h f s) := by
  unfold execTrap
  repeat' (first | with_reducible assumption | with_reducible apply State.enter_kept | with_reducible apply State.issue_kept | with_reducible apply kept_next | with_reducible refine fun _ => ?_)

theorem execBreakI_kept {Q : List Instr} {h : Hart} {f : FormK} {s : State} (h_s : Kept Q s) :
  Keeps Q (execBreakI h f s) := by
  unfold execBreakI
  repeat' (first | with_reducible assumption | with_reducible apply State.issue_kept | with_reducible apply State.raise_kept | with_reducible apply kept_next | with_reducible refine fun _ => ?_)

theorem execRetx_kept {Q : List Instr} {h : Hart} {f : FormK} {s : State} (h_s : Kept Q s) :
  Keeps Q (execRetx h f s) := by
  unfold execRetx
  repeat' (first | with_reducible assumption | with_reducible apply State.issue_kept | with_reducible apply State.raise_kept | with_reducible apply State.retx_kept | with_reducible apply kept_next | with_reducible refine fun _ => ?_ | split)

theorem execWaiti_kept {Q : List Instr} {h : Hart} {f : FormK} {s : State} (h_s : Kept Q s) :
  Keeps Q (execWaiti h f s) := by
  unfold execWaiti
  repeat' (first | with_reducible assumption | with_reducible apply State.issue_kept | with_reducible apply State.modCtx_kept | with_reducible apply kept_next | with_reducible refine fun _ => ?_)

theorem State.firmware_kept {Q : List Instr} {s : State} {h : Hart} {w : Word} {g : State → State} (h_s : Kept Q s) (h_g : ∀ y0, Kept Q y0 → Kept Q (g y0)) :
  Kept Q (State.firmware s h w g) := by
  unfold State.firmware
  repeat' (first | with_reducible assumption | with_reducible apply State.raise_kept | with_reducible apply h_g | split)

theorem execTlbInv_kept {Q : List Instr} {h : Hart} {f : FormK} {s : State} (h_s : Kept Q s) :
  Keeps Q (execTlbInv h f s) := by
  unfold execTlbInv
  repeat' (first | with_reducible assumption | with_reducible apply State.firmware_kept | with_reducible apply State.issue_kept | with_reducible apply State.modCtx_kept | with_reducible apply kept_next | (simp only [kept_mk]; with_reducible apply kept_fold) | with_reducible refine fun _ => ?_)

theorem execTlbInvj_kept {Q : List Instr} {h : Hart} {f : FormK} {s : State} (h_s : Kept Q s) :
  Keeps Q (execTlbInvj h f s) := by
  unfold execTlbInvj
  repeat' (first | with_reducible assumption | with_reducible apply State.firmware_kept | with_reducible apply State.issue_kept | with_reducible apply State.modCtx_kept | with_reducible apply kept_next | (simp only [kept_mk]; with_reducible apply kept_fold) | with_reducible refine fun _ => ?_)

theorem execFwKick_kept {Q : List Instr} {h : Hart} {u1_0 : Word} {s : State} (h_s : Kept Q s) :
  Keeps Q (execFwKick h u1_0 s) := by
  unfold execFwKick
  repeat' (first | with_reducible assumption | with_reducible apply State.kick_kept | with_reducible apply kept_next | split)

theorem execEngineException_kept {Q : List Instr} {h : Hart} {s : State} (h_s : Kept Q s) :
  Keeps Q (execEngineException h s) := by
  unfold execEngineException
  repeat' (first | with_reducible assumption | with_reducible apply State.takeReport_kept | with_reducible apply kept_next | split)

theorem execPageFaultResolve_kept {Q : List Instr} {h : Hart} {r : PageFix} {s : State} (h_s : Kept Q s) :
  Keeps Q (execPageFaultResolve h r s) := by
  unfold execPageFaultResolve
  repeat' (first | with_reducible assumption | with_reducible apply State.homeForce_kept | with_reducible apply State.raise_kept | with_reducible apply kept_next | (extract_lets +onlyGivenNames t; (have ht : Kept Q t := (by unfold t; repeat' (first | with_reducible assumption | with_reducible apply State.modCtx_kept))); clear_value t) | split)

theorem execAtomicComplete_kept {Q : List Instr} {h : Hart} {s : State} (h_s : Kept Q s) :
  Keeps Q (execAtomicComplete h s) := by
  unfold execAtomicComplete
  repeat' (first | with_reducible assumption | with_reducible apply State.modCtx_kept | with_reducible apply kept_next | split)

end Sys2Proof.Machine
end

