-- ==== Sys2Proof/Laws/KeptAtomics.lean ====
section
/-! SUPPORT. What Machine/Atomics.lean keeps: the queue, and the canonical form of memory and of the register file. -/

set_option linter.unreachableTactic false
set_option linter.unusedTactic false
set_option linter.unusedVariables false
set_option linter.unusedSimpArgs false

namespace Sys2Proof.Machine

theorem State.coreAddr_kept' {Q : List Instr} {s : State} {h : Hart} {va : Word} {k : AccKind} (h_s : Kept Q s) : Kept Q (State.coreAddr s h va k).2 := by
  unfold State.coreAddr
  repeat' (first | with_reducible assumption | with_reducible apply State.translate_kept' | split)


theorem State.coreAddr_kept {Q : List Instr} {s : State} {h : Hart} {va : Word} {k : AccKind} {r0 : Tr} {r1 : State} (e : State.coreAddr s h va k = (r0, r1)) (h_s : Kept Q s) : Kept Q r1 := by
  have h := State.coreAddr_kept' (Q := Q) (s := s) (h := h) (va := va) (k := k)  h_s
  rw [e] at h
  exact h

theorem State.corePoison_kept {Q : List Instr} {s : State} {h : Hart} {pa : Nat} (h_s : Kept Q s) :
  Kept Q (State.corePoison s h pa) := by
  unfold State.corePoison
  repeat' (first | with_reducible assumption | with_reducible apply State.modCtx_kept | with_reducible apply State.poisonedRead_kept)

theorem State.coreAccess_kept {Q : List Instr} {s : State} {h : Hart} {va : Word} {k : AccKind} {g : Nat → Bool → State → State} (h_s : Kept Q s) (h_g : ∀ y0 y1 y2, Kept Q y2 → Kept Q (g y0 y1 y2)) :
  Kept Q (State.coreAccess s h va k g) := by
  unfold State.coreAccess
  repeat' (first | with_reducible assumption | with_reducible refine State.coreAddr_kept (by assumption) ?_ | with_reducible apply State.corePoison_kept | with_reducible apply State.pageFault_kept | with_reducible apply State.raise_kept | with_reducible apply h_g | split)

theorem State.aligned_kept {Q : List Instr} {s : State} {h : Hart} {va : Word} {n : Nat} {g : State → State} (h_s : Kept Q s) (h_g : ∀ y0, Kept Q y0 → Kept Q (g y0)) :
  Kept Q (State.aligned s h va n g) := by
  unfold State.aligned
  repeat' (first | with_reducible assumption | with_reducible apply State.raise_kept | with_reducible apply h_g | split)

theorem State.amoHome_kept {Q : List Instr} {s : State} {h : Hart} {dst pa n : Nat} {g : Word → Word} (h_s : Kept Q s) :
  Kept Q (State.amoHome s h dst pa n g) := by
  unfold State.amoHome
  repeat' (first | with_reducible assumption | with_reducible apply State.countLoad_kept | with_reducible apply State.invalidate_kept | with_reducible apply State.modCtx_kept | with_reducible apply State.wrN_kept)

theorem State.amoEff_kept {Q : List Instr} {h : Hart} {f : FormT} {g : Nat → Word → Word → Word → Word} {s : State} (h_s : Kept Q s) :
  Kept Q (State.amoEff h f g s) := by
  unfold State.amoEff
  repeat' (first | with_reducible assumption | with_reducible apply State.aligned_kept | with_reducible apply State.amoHome_kept | with_reducible apply State.coreAccess_kept | with_reducible apply State.corePoison_kept | with_reducible apply State.homeWrite_kept | with_reducible apply State.onLine_kept | with_reducible apply State.raise_kept | with_reducible refine fun _ => ?_ | split)

theorem State.amo_kept {Q : List Instr} {s : State} {op : Nat} {h : Hart} {f : FormT} {g : Nat → Word → Word → Word → Word} (h_s : Kept Q s) :
  Keeps Q (State.amo s op h f g) := by
  unfold State.amo
  repeat' (first | with_reducible assumption | with_reducible apply State.amoEff_kept | with_reducible apply State.issue_kept | with_reducible apply kept_next)

theorem execFence_kept {Q : List Instr} {h : Hart} {f : FormT} {s : State} (h_s : Kept Q s) :
  Keeps Q (execFence h f s) := by
  unfold execFence
  repeat' (first | with_reducible assumption | with_reducible apply State.issue_kept | with_reducible apply State.modCtx_kept | with_reducible apply State.waits_kept | with_reducible apply kept_next | with_reducible refine fun _ => ?_ | split)

theorem execAmoSwap_kept {Q : List Instr} {h : Hart} {f : FormT} {s : State} (h_s : Kept Q s) :
  Keeps Q (execAmoSwap h f s) := by
  unfold execAmoSwap
  repeat' (first | with_reducible assumption | with_reducible apply State.amo_kept)

theorem execAmoAdd_kept {Q : List Instr} {h : Hart} {f : FormT} {s : State} (h_s : Kept Q s) :
  Keeps Q (execAmoAdd h f s) := by
  unfold execAmoAdd
  repeat' (first | with_reducible assumption | with_reducible apply State.amo_kept)

theorem execAmoAnd_kept {Q : List Instr} {h : Hart} {f : FormT} {s : State} (h_s : Kept Q s) :
  Keeps Q (execAmoAnd h f s) := by
  unfold execAmoAnd
  repeat' (first | with_reducible assumption | with_reducible apply State.amo_kept)

theorem execAmoOr_kept {Q : List Instr} {h : Hart} {f : FormT} {s : State} (h_s : Kept Q s) :
  Keeps Q (execAmoOr h f s) := by
  unfold execAmoOr
  repeat' (first | with_reducible assumption | with_reducible apply State.amo_kept)

theorem execAmoXor_kept {Q : List Instr} {h : Hart} {f : FormT} {s : State} (h_s : Kept Q s) :
  Keeps Q (execAmoXor h f s) := by
  unfold execAmoXor
  repeat' (first | with_reducible assumption | with_reducible apply State.amo_kept)

theorem execAmoMin_kept {Q : List Instr} {h : Hart} {f : FormT} {s : State} (h_s : Kept Q s) :
  Keeps Q (execAmoMin h f s) := by
  unfold execAmoMin
  repeat' (first | with_reducible assumption | with_reducible apply State.amo_kept)

theorem execAmoMax_kept {Q : List Instr} {h : Hart} {f : FormT} {s : State} (h_s : Kept Q s) :
  Keeps Q (execAmoMax h f s) := by
  unfold execAmoMax
  repeat' (first | with_reducible assumption | with_reducible apply State.amo_kept)

theorem execAmoMinu_kept {Q : List Instr} {h : Hart} {f : FormT} {s : State} (h_s : Kept Q s) :
  Keeps Q (execAmoMinu h f s) := by
  unfold execAmoMinu
  repeat' (first | with_reducible assumption | with_reducible apply State.amo_kept)

theorem execAmoMaxu_kept {Q : List Instr} {h : Hart} {f : FormT} {s : State} (h_s : Kept Q s) :
  Keeps Q (execAmoMaxu h f s) := by
  unfold execAmoMaxu
  repeat' (first | with_reducible assumption | with_reducible apply State.amo_kept)

theorem execAmoCas_kept {Q : List Instr} {h : Hart} {f : FormT} {s : State} (h_s : Kept Q s) :
  Keeps Q (execAmoCas h f s) := by
  unfold execAmoCas
  repeat' (first | with_reducible assumption | with_reducible apply State.amo_kept)

end Sys2Proof.Machine
end

