-- ==== Sys2Proof/Laws/KeptCoreMem.lean ====
section
/-! SUPPORT. What Machine/CoreMem.lean keeps: the queue, and the canonical form of memory and of the register file. -/

set_option linter.unreachableTactic false
set_option linter.unusedTactic false
set_option linter.unusedVariables false
set_option linter.unusedSimpArgs false

namespace Sys2Proof.Machine

theorem State.coreTake_kept {Q : List Instr} {s : State} {h : Hart} {pa : Nat} {op : CoreOp} (h_s : Kept Q s) :
  Kept Q (State.coreTake s h pa op) := by
  unfold State.coreTake
  repeat' (first | with_reducible assumption | with_reducible apply State.modCtx_kept | split)

theorem State.coreWrite_kept {Q : List Instr} {s : State} {h : Hart} {pa : Nat} {op : CoreOp} (h_s : Kept Q s) :
  Kept Q (State.coreWrite s h pa op) := by
  unfold State.coreWrite
  repeat' (first | with_reducible assumption | with_reducible apply State.memWrite_kept | with_reducible apply State.modCtx_kept)

theorem State.coreHit_kept {Q : List Instr} {s : State} {h : Hart} {pa : Nat} {op : CoreOp} (h_s : Kept Q s) :
  Kept Q (State.coreHit s h pa op) := by
  unfold State.coreHit
  repeat' (first | with_reducible assumption | with_reducible apply State.cleanLine_kept | with_reducible apply State.coreTake_kept | with_reducible apply State.countLoad_kept | with_reducible apply State.hostBack_kept | with_reducible apply State.modCtx_kept | (extract_lets +onlyGivenNames t; (have ht : Kept Q t := (by unfold t; repeat' (first | with_reducible assumption | with_reducible apply State.dirtyLine_kept | with_reducible apply State.invalidate_kept | with_reducible apply State.touch_kept | with_reducible apply State.wrN_kept | split))); clear_value t) | (extract_lets +onlyGivenNames t; clear_value t) | split)

theorem State.hostVictim_kept {Q : List Instr} {s : State} {core line : Nat} (h_s : Kept Q s) :
  Kept Q (State.hostVictim s core line) := by
  unfold State.hostVictim
  repeat' (first | with_reducible assumption | with_reducible apply State.dropLine_kept | with_reducible apply State.hostAsk_kept | with_reducible apply State.hostBack_kept | (extract_lets +onlyGivenNames t; clear_value t) | split)

theorem State.fillLine_kept {Q : List Instr} {s : State} {core line : Nat} (h_s : Kept Q s) :
  Kept Q (State.fillLine s core line) := by
  unfold State.fillLine
  repeat' (first | with_reducible assumption | with_reducible apply State.allocate_kept | with_reducible apply State.hostVictim_kept)

theorem State.coreMiss_kept {Q : List Instr} {s : State} {h : Hart} {pa : Nat} {op : CoreOp} (h_s : Kept Q s) :
  Kept Q (State.coreMiss s h pa op) := by
  unfold State.coreMiss
  repeat' (first | with_reducible assumption | with_reducible apply State.bump_kept | with_reducible apply State.modCtx_kept | (extract_lets +onlyGivenNames t; (have ht : Kept Q t := (by unfold t; repeat' (first | with_reducible assumption | with_reducible apply State.bump_kept | with_reducible apply State.setCache_kept))); clear_value t) | (extract_lets +onlyGivenNames t; clear_value t) | split)

theorem State.hostWait_kept {Q : List Instr} {s : State} {h : Hart} {va : Word} {pa : Nat} {op : CoreOp} {what : HostOp} {code : Nat} {data : List Byte} (h_s : Kept Q s) :
  Kept Q (State.hostWait s h va pa op what code data) := by
  unfold State.hostWait
  repeat' (first | with_reducible assumption | with_reducible apply State.modCtx_kept | (extract_lets +onlyGivenNames t; (have ht : Kept Q t := (by unfold t; repeat' (first | with_reducible assumption | with_reducible apply State.hostAsk_kept))); clear_value t) | split)

theorem State.hostAccess_kept {Q : List Instr} {s : State} {h : Hart} {va : Word} {pa : Nat} {op : CoreOp} (h_s : Kept Q s) :
  Kept Q (State.hostAccess s h va pa op) := by
  unfold State.hostAccess
  repeat' (first | with_reducible assumption | with_reducible apply State.coreHit_kept | with_reducible apply State.hostWait_kept | with_reducible apply State.onLine_kept | with_reducible apply State.waits_kept | with_reducible refine fun _ => ?_ | (extract_lets +onlyGivenNames t; (have ht : Kept Q t := (by unfold t; repeat' (first | with_reducible assumption | with_reducible apply State.bump_kept | split))); clear_value t) | split)

theorem State.directAccess_kept {Q : List Instr} {s : State} {h : Hart} {pa : Nat} {op : CoreOp} (h_s : Kept Q s) :
  Kept Q (State.directAccess s h pa op) := by
  unfold State.directAccess
  repeat' (first | with_reducible assumption | with_reducible apply State.coreHit_kept | with_reducible apply State.corePoison_kept | with_reducible apply State.coreTake_kept | with_reducible apply State.coreWrite_kept | with_reducible apply State.homeWrite_kept | with_reducible apply State.memRead_kept | with_reducible apply State.sendSnoop_kept | with_reducible apply kept_foldl | with_reducible refine fun _ => ?_ | split)

theorem State.deviceAccess_kept {Q : List Instr} {s : State} {h : Hart} {pa : Nat} {op : CoreOp} (h_s : Kept Q s) :
  Kept Q (State.deviceAccess s h pa op) := by
  unfold State.deviceAccess
  repeat' (first | with_reducible assumption | with_reducible apply State.coreHit_kept | with_reducible apply State.coreMiss_kept | with_reducible apply State.directAccess_kept | with_reducible apply State.homeWrite_kept | with_reducible apply State.onLine_kept | with_reducible apply State.waits_kept | with_reducible refine fun _ => ?_ | (extract_lets +onlyGivenNames t; clear_value t) | split)

theorem State.fillArrives_kept {Q : List Instr} {s0 : State} {core line : Nat} {e : List MemErr} {off put : State → State} (h_s0 : Kept Q s0) (h_off : ∀ y0, Kept Q y0 → Kept Q (off y0)) (h_put : ∀ y0, Kept Q y0 → Kept Q (put y0)) :
  Kept Q (State.fillArrives s0 core line e off put) := by
  unfold State.fillArrives
  extract_lets s t dn
  have hs : Kept Q s := by
    unfold s
    split
    · exact State.demandErrs_kept h_s0
    · exact h_s0
  have ht : Kept Q t := h_off s hs
  have hd : ∀ (x : State) (g : State → Hart → Nat → CoreOp → State), Kept Q x →
      (∀ a h p o, Kept Q a → Kept Q (g a h p o)) → Kept Q (dn x g) := by
    intro x g hx hg
    show Kept Q (match s.waiter core line with
      | some (h, pa, op) => g x h pa op
      | none => x)
    split
    · exact hg _ _ _ _ hx
    · exact hx
  clear_value dn
  split
  · exact hd _ _ ht (fun a h p o ha => State.modCtx_kept ha)
  · split
    · exact hd _ _ ht (fun a h p o ha => State.directAccess_kept ha)
    · split
      · exact hd _ _ ht (fun a h p o ha => State.corePoison_kept ha)
      · split
        · refine hd _ _ (h_put _ (State.countLoad_kept ?_)) (fun a h p o ha => ?_)
          · rename_i own u _ _ _ _ _ _
            unfold u
            split
            · exact State.invalidate_kept ht
            · exact State.snoop_kept ht
          · split
            · exact State.coreHit_kept ha
            · exact State.modCtx_kept ha
        · exact kept_foldl (fun t x ht => State.sendSnoop_kept ht) hs

theorem State.fillComplete_kept {Q : List Instr} {s : State} {core : Nat} {e : List MemErr} (h_s : Kept Q s) :
  Kept Q (State.fillComplete s core e) := by
  unfold State.fillComplete
  repeat' (first | with_reducible assumption | with_reducible apply State.bump_kept | with_reducible apply State.fillArrives_kept | with_reducible apply State.fillLine_kept | with_reducible apply State.setCache_kept | with_reducible refine fun _ => ?_ | (extract_lets +onlyGivenNames t; clear_value t) | split)

theorem State.prefetchComplete_kept {Q : List Instr} {s : State} {core line : Nat} {e : List MemErr} (h_s : Kept Q s) :
  Kept Q (State.prefetchComplete s core line e) := by
  unfold State.prefetchComplete
  repeat' (first | with_reducible assumption | with_reducible apply State.bump_kept | with_reducible apply State.fillArrives_kept | with_reducible apply State.hostAsk_kept | with_reducible apply State.setCache_kept | with_reducible apply State.setCset_kept | with_reducible refine fun _ => ?_ | (extract_lets +onlyGivenNames t; clear_value t) | split)

theorem State.ifill_kept {Q : List Instr} {s : State} {core line : Nat} (h_s : Kept Q s) :
  Kept Q (State.ifill s core line) := by
  unfold State.ifill
  repeat' (first | with_reducible assumption | with_reducible apply State.setCache_kept | (extract_lets +onlyGivenNames t; clear_value t) | split)

theorem State.idrop_kept {Q : List Instr} {s : State} {core line : Nat} (h_s : Kept Q s) :
  Kept Q (State.idrop s core line) := by
  unfold State.idrop
  repeat' (first | with_reducible assumption | with_reducible apply State.setCache_kept)

theorem State.fetchComplete_kept {Q : List Instr} {s : State} {core pa : Nat} (h_s : Kept Q s) :
  Kept Q (State.fetchComplete s core pa) := by
  unfold State.fetchComplete
  repeat' (first | with_reducible assumption | with_reducible apply State.ifill_kept | with_reducible apply kept_foldl | with_reducible refine fun _ => ?_ | (extract_lets +onlyGivenNames t; (have ht : Kept Q t := (by unfold t; repeat' (first | with_reducible assumption | with_reducible apply State.bump_kept | with_reducible apply State.ifill_kept | split))); clear_value t) | (extract_lets +onlyGivenNames t; clear_value t) | split)

theorem State.zeroLine_kept {Q : List Instr} {s : State} {h : Hart} {pa : Nat} (h_s : Kept Q s) :
  Kept Q (State.zeroLine s h pa) := by
  unfold State.zeroLine
  repeat' (first | with_reducible assumption | with_reducible apply State.coreHit_kept | with_reducible apply State.coreMiss_kept | with_reducible apply State.directAccess_kept | with_reducible apply State.fillLine_kept | with_reducible apply State.homeWrite_kept | with_reducible apply State.invalidate_kept | with_reducible apply State.onLine_kept | with_reducible apply State.waits_kept | with_reducible refine fun _ => ?_ | (extract_lets +onlyGivenNames t; clear_value t) | split)

theorem State.evbRoom_kept {Q : List Instr} {s : State} {core line : Nat} (h_s : Kept Q s) :
  Kept Q (State.evbRoom s core line) := by
  unfold State.evbRoom
  repeat' (first | with_reducible assumption | with_reducible apply State.bump_kept | with_reducible apply State.setCache_kept | (extract_lets +onlyGivenNames t; clear_value t) | split)

theorem State.hostFill_kept {Q : List Instr} {s : State} {h : Hart} {hpa : Nat} {bytes : List Byte} (h_s : Kept Q s) :
  Kept Q (State.hostFill s h hpa bytes) := by
  unfold State.hostFill
  repeat' (first | with_reducible assumption | with_reducible apply State.evbRoom_kept | with_reducible apply State.fillLine_kept | (extract_lets +onlyGivenNames t; (have ht : Kept Q t := (by unfold t; repeat' (first | with_reducible assumption | with_reducible apply State.wrRaw_kept | split))); clear_value t) | (extract_lets +onlyGivenNames t; clear_value t) | split)

theorem State.hostCoreDone_kept {Q : List Instr} {s : State} {h : Hart} {tag : Nat} {wrote : Bool} (h_s : Kept Q s) :
  Kept Q (State.hostCoreDone s h tag wrote) := by
  unfold State.hostCoreDone
  repeat' (first | with_reducible assumption | with_reducible apply State.coreHit_kept | with_reducible apply State.coreTake_kept | with_reducible apply State.modCtx_kept | with_reducible apply State.wrRaw_kept | split)

theorem State.cleanOrFlush_kept {Q : List Instr} {s : State} {h : Hart} {pa : Nat} {host flush : Bool} (h_s : Kept Q s) :
  Kept Q (State.cleanOrFlush s h pa host flush) := by
  unfold State.cleanOrFlush
  repeat' (first | with_reducible assumption | with_reducible apply State.cleanLine_kept | with_reducible apply State.dropLine_kept | with_reducible apply State.modCtx_kept | with_reducible apply State.onLine_kept | with_reducible refine fun _ => ?_ | (extract_lets +onlyGivenNames t; (have ht : Kept Q t := (by unfold t; repeat' (first | with_reducible assumption | with_reducible apply State.countLoad_kept | with_reducible apply State.hostAsk_kept | with_reducible apply State.hostBack_kept | with_reducible apply State.setCache_kept | split))); clear_value t) | (extract_lets +onlyGivenNames t; clear_value t) | split)

end Sys2Proof.Machine
end

