-- ==== Sys2Proof/Laws/KeptCaches.lean ====
section
/-! SUPPORT. What Machine/Caches.lean keeps: the queue, and the canonical form of memory and of the register file. -/

set_option linter.unreachableTactic false
set_option linter.unusedTactic false
set_option linter.unusedVariables false
set_option linter.unusedSimpArgs false

namespace Sys2Proof.Machine

theorem State.onCore_kept {Q : List Instr} {s : State} {c : Nat} {f : State → State} (h_s : Kept Q s) (h_f : ∀ y0, Kept Q y0 → Kept Q (f y0)) :
  Keeps Q (State.onCore s c f) := by
  unfold State.onCore
  repeat' (first | with_reducible assumption | with_reducible apply h_f | with_reducible apply kept_next | split)

theorem execCcDinv_kept {Q : List Instr} {c : Nat} {s : State} (h_s : Kept Q s) :
  Keeps Q (execCcDinv c s) := by
  unfold execCcDinv
  repeat' (first | with_reducible assumption | with_reducible apply State.ccWrite_kept | with_reducible apply State.onCore_kept | with_reducible refine fun _ => ?_)

theorem execCcIinv_kept {Q : List Instr} {c : Nat} {s : State} (h_s : Kept Q s) :
  Keeps Q (execCcIinv c s) := by
  unfold execCcIinv
  repeat' (first | with_reducible assumption | with_reducible apply State.ccWrite_kept | with_reducible apply State.onCore_kept | with_reducible refine fun _ => ?_)

theorem execCcClean_kept {Q : List Instr} {c : Nat} {s : State} (h_s : Kept Q s) :
  Keeps Q (execCcClean c s) := by
  unfold execCcClean
  repeat' (first | with_reducible assumption | with_reducible apply State.ccWrite_kept | with_reducible apply State.onCore_kept | with_reducible refine fun _ => ?_)

theorem execCcFlush_kept {Q : List Instr} {c : Nat} {s : State} (h_s : Kept Q s) :
  Keeps Q (execCcFlush c s) := by
  unfold execCcFlush
  repeat' (first | with_reducible assumption | with_reducible apply State.ccWrite_kept | with_reducible apply State.onCore_kept | with_reducible refine fun _ => ?_)

theorem execCcDen_kept {Q : List Instr} {c : Nat} {on : Bool} {s : State} (h_s : Kept Q s) :
  Keeps Q (execCcDen c on s) := by
  unfold execCcDen
  repeat' (first | with_reducible assumption | with_reducible apply State.ccWrite_kept | with_reducible apply State.onCore_kept | with_reducible refine fun _ => ?_)

theorem execCcIen_kept {Q : List Instr} {c : Nat} {on : Bool} {s : State} (h_s : Kept Q s) :
  Keeps Q (execCcIen c on s) := by
  unfold execCcIen
  repeat' (first | with_reducible assumption | with_reducible apply State.ccWrite_kept | with_reducible apply State.onCore_kept | with_reducible refine fun _ => ?_)

theorem State.hostLeave_kept {Q : List Instr} {s : State} {core : Nat} {keep : Bool} (h_s : Kept Q s) :
  Kept Q (State.hostLeave s core keep) := by
  unfold State.hostLeave
  repeat' (first | with_reducible assumption | with_reducible apply State.hostAsk_kept | with_reducible apply kept_foldl | with_reducible refine fun _ => ?_ | (extract_lets +onlyGivenNames t; (have ht : Kept Q t := (by unfold t; repeat' (first | with_reducible assumption | with_reducible apply State.hostBackAll_kept))); clear_value t) | (extract_lets +onlyGivenNames t; clear_value t) | split)

theorem execCcCmdComplete_kept {Q : List Instr} {c : Nat} {s : State} (h_s : Kept Q s) :
  Keeps Q (execCcCmdComplete c s) := by
  unfold execCcCmdComplete
  repeat' (first | with_reducible assumption | with_reducible apply State.ccComplete_kept | with_reducible apply State.hostLeave_kept | with_reducible apply State.onCore_kept | with_reducible refine fun _ => ?_ | split)

theorem execCcDrainComplete_kept {Q : List Instr} {c : Nat} {s : State} (h_s : Kept Q s) :
  Keeps Q (execCcDrainComplete c s) := by
  unfold execCcDrainComplete
  repeat' (first | with_reducible assumption | with_reducible apply State.drainDone_kept | with_reducible apply State.hostLeave_kept | with_reducible apply State.onCore_kept | with_reducible refine fun _ => ?_ | split)

theorem execCacheFillComplete_kept {Q : List Instr} {r : FillEnd} {s : State} (h_s : Kept Q s) :
  Keeps Q (execCacheFillComplete r s) := by
  unfold execCacheFillComplete
  repeat' (first | with_reducible assumption | with_reducible apply State.fetchComplete_kept | with_reducible apply State.fillComplete_kept | with_reducible apply State.onCore_kept | with_reducible apply State.prefetchComplete_kept | with_reducible refine fun _ => ?_ | split)

theorem execCcCfgWrite_kept {Q : List Instr} {c : Nat} {v : Word} {s : State} (h_s : Kept Q s) :
  Keeps Q (execCcCfgWrite c v s) := by
  unfold execCcCfgWrite
  repeat' (first | with_reducible assumption | with_reducible apply State.ccCfgWrite_kept | with_reducible apply State.onCore_kept | with_reducible refine fun _ => ?_)

theorem execEvbWriteAck_kept {Q : List Instr} {c : Nat} {s : State} (h_s : Kept Q s) :
  Keeps Q (execEvbWriteAck c s) := by
  unfold execEvbWriteAck
  repeat' (first | with_reducible assumption | with_reducible apply State.onCore_kept | with_reducible apply State.setCache_kept | with_reducible refine fun _ => ?_ | (extract_lets +onlyGivenNames t; (have ht : Kept Q t := (by unfold t; repeat' (first | with_reducible assumption | with_reducible apply State.countLoad_kept | split))); clear_value t) | (extract_lets +onlyGivenNames t; clear_value t) | split)

theorem execCacheScrub_kept {Q : List Instr} {c : Nat} {r : ScrubRead} {s : State} (h_s : Kept Q s) :
  Keeps Q (execCacheScrub c r s) := by
  unfold execCacheScrub
  repeat' (first | with_reducible assumption | with_reducible apply State.bump_kept | with_reducible apply State.idrop_kept | with_reducible apply State.onCore_kept | with_reducible apply State.parity_kept | with_reducible apply State.report_kept | with_reducible apply State.strike_kept | with_reducible refine fun _ => ?_ | split)

end Sys2Proof.Machine
end

