-- ==== Sys2Proof/Laws/KeptDomains.lean ====
section
/-! SUPPORT. What Machine/Domains.lean keeps: the queue, and the canonical form of memory and of the register file. -/

set_option linter.unreachableTactic false
set_option linter.unusedTactic false
set_option linter.unusedVariables false
set_option linter.unusedSimpArgs false

namespace Sys2Proof.Machine

theorem State.modPower_kept {Q : List Instr} {s : State} {f : Power → Power} (h_s : Kept Q s) :
  Kept Q (State.modPower s f) := by
  unfold State.modPower
  repeat' (first | with_reducible assumption | (simp only [kept_mk]; with_reducible apply kept_fold))

theorem State.powerShow_kept {Q : List Instr} {s : State} (h_s : Kept Q s) :
  Kept Q (State.powerShow s) := by
  unfold State.powerShow
  repeat' (first | with_reducible assumption | with_reducible apply State.alert_kept | with_reducible apply State.setRbit_kept | with_reducible apply State.setRfld_kept | split)

theorem State.switchDom_kept {Q : List Instr} {s : State} {d x : Nat} (h_s : Kept Q s) :
  Kept Q (State.switchDom s d x) := by
  unfold State.switchDom
  repeat' (first | with_reducible assumption | with_reducible apply State.modPower_kept | with_reducible apply State.setDom_kept | split)

theorem State.startSwitches_kept {Q : List Instr} {s : State} (h_s : Kept Q s) :
  Kept Q (State.startSwitches s) := by
  unfold State.startSwitches
  repeat' (first | with_reducible assumption | with_reducible apply State.modPower_kept | with_reducible apply State.switchDom_kept | with_reducible apply kept_foldl | with_reducible refine fun _ => ?_)

theorem State.queueDoms_kept {Q : List Instr} {s : State} {ds : List Nat} {x : Nat} (h_s : Kept Q s) :
  Kept Q (State.queueDoms s ds x) := by
  unfold State.queueDoms
  repeat' (first | with_reducible assumption | with_reducible apply State.modPower_kept | with_reducible apply State.startSwitches_kept)

theorem State.isolate_kept {Q : List Instr} {s : State} {ds : List Nat} (h_s : Kept Q s) :
  Kept Q (State.isolate s ds) := by
  unfold State.isolate
  repeat' (first | with_reducible assumption | with_reducible apply State.setDom_kept | with_reducible apply kept_foldl | with_reducible refine fun _ => ?_ | split)

theorem State.domOff_kept {Q : List Instr} {s : State} {ds : List Nat} (h_s : Kept Q s) :
  Kept Q (State.domOff s ds) := by
  unfold State.domOff
  repeat' (first | with_reducible assumption | with_reducible apply State.powerShow_kept | with_reducible apply State.switchDom_kept | with_reducible apply kept_foldl | with_reducible refine fun _ => ?_)

end Sys2Proof.Machine
end

