-- ==== Sys2Proof/Laws/KeptLedger.lean ====
section
/-! SUPPORT. What Machine/Ledger.lean keeps: the queue, and the canonical form of memory and of the register file. -/

set_option linter.unreachableTactic false
set_option linter.unusedTactic false
set_option linter.unusedVariables false
set_option linter.unusedSimpArgs false

namespace Sys2Proof.Machine

theorem State.extend_kept {Q : List Instr} {s : State} {m : Nat} {d : List Byte} (h_s : Kept Q s) :
  Kept Q (State.extend s m d) := by
  unfold State.extend
  repeat' (first | with_reducible assumption | with_reducible apply State.setReg_kept | with_reducible apply kept_foldl | with_reducible refine fun _ => ?_)

theorem State.ledShow_kept {Q : List Instr} {s : State} {e : Nat} (h_s : Kept Q s) :
  Kept Q (State.ledShow s e) := by
  unfold State.ledShow
  repeat' (first | with_reducible assumption | with_reducible apply State.setReg_kept | (extract_lets +onlyGivenNames t; (have ht : Kept Q t := (by unfold t; repeat' (first | with_reducible assumption | with_reducible apply State.setRfld_kept))); clear_value t) | split)

theorem State.ledRefuse_kept {Q : List Instr} {s : State} {r : LedRes} (h_s : Kept Q s) :
  Kept Q (State.ledRefuse s r) := by
  unfold State.ledRefuse
  repeat' (first | with_reducible assumption | with_reducible apply State.setRbit_kept | (extract_lets +onlyGivenNames t; (have ht : Kept Q t := (by unfold t; repeat' (first | with_reducible assumption | with_reducible apply State.alert_kept | with_reducible apply State.bump_kept))); clear_value t) | split)

theorem State.ledAccept_kept {Q : List Instr} {s : State} {e writer : Nat} {v : List Byte} (h_s : Kept Q s) :
  Kept Q (State.ledAccept s e writer v) := by
  unfold State.ledAccept
  repeat' (first | with_reducible assumption | with_reducible apply State.alert_kept | with_reducible apply State.bump_kept | with_reducible apply State.extend_kept | with_reducible apply State.ledShow_kept | with_reducible apply State.post_kept | (simp only [kept_mk]; with_reducible apply kept_fold))

theorem State.ledWrite_kept' {Q : List Instr} {s : State} {e writer : Nat} {v sig : List Byte} (h_s : Kept Q s) : Kept Q (State.ledWrite s e writer v sig).2 := by
  unfold State.ledWrite
  repeat' (first | with_reducible assumption | with_reducible apply State.ledAccept_kept | with_reducible apply State.ledRefuse_kept | split)


theorem State.ledWrite_kept {Q : List Instr} {s : State} {e writer : Nat} {v sig : List Byte} {r0 : LedRes} {r1 : State} (e_eq : State.ledWrite s e writer v sig = (r0, r1)) (h_s : Kept Q s) : Kept Q r1 := by
  have h := State.ledWrite_kept' (Q := Q) (s := s) (e := e) (writer := writer) (v := v) (sig := sig)  h_s
  rw [e_eq] at h
  exact h

theorem State.shedWrite_kept {Q : List Instr} {s : State} {writer : Nat} {v : Word} (h_s : Kept Q s) :
  Kept Q (State.shedWrite s writer v) := by
  unfold State.shedWrite
  repeat' (first | with_reducible assumption | with_reducible refine State.ledWrite_kept (by assumption) ?_ | with_reducible apply State.setRbit_kept | split)

end Sys2Proof.Machine
end

