-- ==== Sys2Proof/Laws/KeptMarks.lean ====
section
/-! SUPPORT. What Machine/Marks.lean keeps: the queue, and the canonical form of memory and of the register file. -/

set_option linter.unreachableTactic false
set_option linter.unusedTactic false
set_option linter.unusedVariables false
set_option linter.unusedSimpArgs false

namespace Sys2Proof.Machine

theorem State.withMark_kept {Q : List Instr} {s : State} {h : Hart} {f : FormK} {g : Nat → State → State} (h_s : Kept Q s) (h_g : ∀ y0 y1, Kept Q y1 → Kept Q (g y0 y1)) :
  Kept Q (State.withMark s h f g) := by
  unfold State.withMark
  repeat' (first | with_reducible assumption | with_reducible apply State.raise_kept | with_reducible apply h_g | (extract_lets +onlyGivenNames t; clear_value t) | split)

theorem State.coreUpdate_kept {Q : List Instr} {s : State} {h : Hart} {n : Nat} {o : MarkOp} (h_s : Kept Q s) :
  Kept Q (State.coreUpdate s h n o) := by
  unfold State.coreUpdate
  repeat' (first | with_reducible assumption | with_reducible apply State.sendMark_kept)

theorem State.arriveWait_kept {Q : List Instr} {s : State} {h : Hart} {n : Nat} {o : MarkOp} (h_s : Kept Q s) :
  Kept Q (State.arriveWait s h n o) := by
  unfold State.arriveWait
  repeat' (first | with_reducible assumption | with_reducible apply State.applyMark_kept | with_reducible apply State.coreUpdate_kept | (extract_lets +onlyGivenNames t; (have ht : Kept Q t := (by unfold t; repeat' (first | with_reducible assumption | with_reducible apply State.modCtx_kept))); clear_value t) | split)

theorem execMkSig_kept {Q : List Instr} {h : Hart} {f : FormK} {s : State} (h_s : Kept Q s) :
  Keeps Q (execMkSig h f s) := by
  unfold execMkSig
  repeat' (first | with_reducible assumption | with_reducible apply State.coreUpdate_kept | with_reducible apply State.issue_kept | with_reducible apply State.modCtx_kept | with_reducible apply State.withMark_kept | with_reducible apply kept_next | with_reducible refine fun _ => ?_)

theorem execMkWait_kept {Q : List Instr} {h : Hart} {f : FormK} {s : State} (h_s : Kept Q s) :
  Keeps Q (execMkWait h f s) := by
  unfold execMkWait
  repeat' (first | with_reducible assumption | with_reducible apply State.arriveWait_kept | with_reducible apply State.issue_kept | with_reducible apply State.withMark_kept | with_reducible apply kept_next | with_reducible refine fun _ => ?_)

theorem execMkWaitdec_kept {Q : List Instr} {h : Hart} {f : FormK} {s : State} (h_s : Kept Q s) :
  Keeps Q (execMkWaitdec h f s) := by
  unfold execMkWaitdec
  repeat' (first | with_reducible assumption | with_reducible apply State.arriveWait_kept | with_reducible apply State.issue_kept | with_reducible apply State.withMark_kept | with_reducible apply kept_next | with_reducible refine fun _ => ?_)

theorem execMkTest_kept {Q : List Instr} {h : Hart} {f : FormK} {s : State} (h_s : Kept Q s) :
  Keeps Q (execMkTest h f s) := by
  unfold execMkTest
  repeat' (first | with_reducible assumption | with_reducible apply State.arriveWait_kept | with_reducible apply State.issue_kept | with_reducible apply State.withMark_kept | with_reducible apply kept_next | with_reducible refine fun _ => ?_)

theorem execMkSet_kept {Q : List Instr} {h : Hart} {f : FormK} {s : State} (h_s : Kept Q s) :
  Keeps Q (execMkSet h f s) := by
  unfold execMkSet
  repeat' (first | with_reducible assumption | with_reducible apply State.coreUpdate_kept | with_reducible apply State.issue_kept | with_reducible apply State.modCtx_kept | with_reducible apply State.withMark_kept | with_reducible apply kept_next | with_reducible refine fun _ => ?_)

theorem execMarkUpdate_kept {Q : List Instr} {n : Nat} {s : State} (h_s : Kept Q s) :
  Keeps Q (execMarkUpdate n s) := by
  unfold execMarkUpdate
  repeat' (first | with_reducible assumption | with_reducible apply State.markStep_kept | with_reducible apply kept_next | split)

theorem execWaitHang_kept {Q : List Instr} {h : Hart} {s : State} (h_s : Kept Q s) :
  Keeps Q (execWaitHang h s) := by
  unfold execWaitHang
  repeat' (first | with_reducible assumption | with_reducible apply State.bump_kept | with_reducible apply State.post_kept | with_reducible apply State.setRbit_kept | with_reducible apply kept_next | (extract_lets +onlyGivenNames t; clear_value t) | split)

theorem execMkMarkWrite_kept {Q : List Instr} {n : Nat} {half : RegHalf} {v : Word} {s : State} (h_s : Kept Q s) :
  Keeps Q (execMkMarkWrite n half v s) := by
  unfold execMkMarkWrite
  repeat' (first | with_reducible assumption | with_reducible apply State.writeMark_kept | with_reducible apply kept_next | split)

theorem execMkMapWrite_kept {Q : List Instr} {j k : Nat} {v : Word} {s : State} (h_s : Kept Q s) :
  Keeps Q (execMkMapWrite j k v s) := by
  unfold execMkMapWrite
  repeat' (first | with_reducible assumption | with_reducible apply State.writeMap_kept | with_reducible apply kept_next | split)

end Sys2Proof.Machine
end

