-- ==== Sys2Proof/Laws/KeptStroke.lean ====
section
/-! SUPPORT. What Machine/Stroke.lean keeps: the queue, and the canonical form of memory and of the register file. -/

set_option linter.unreachableTactic false
set_option linter.unusedTactic false
set_option linter.unusedVariables false
set_option linter.unusedSimpArgs false

namespace Sys2Proof.Machine

theorem State.withSig_kept {Q : List Instr} {s : State} {h : Hart} {f : FormD} {g : Option Nat → State → State} (h_s : Kept Q s) (h_g : ∀ y0 y1, Kept Q y1 → Kept Q (g y0 y1)) :
  Kept Q (State.withSig s h f g) := by
  unfold State.withSig
  repeat' (first | with_reducible assumption | with_reducible apply State.raise_kept | with_reducible apply h_g | split)

theorem State.withSlot_kept {Q : List Instr} {s : State} {h : Hart} {f : FormD} {g : List Byte → State → State} (h_s : Kept Q s) (h_g : ∀ y0 y1, Kept Q y1 → Kept Q (g y0 y1)) :
  Kept Q (State.withSlot s h f g) := by
  unfold State.withSlot
  repeat' (first | with_reducible assumption | with_reducible apply State.raise_kept | with_reducible apply h_g | split)

theorem State.skBegin_kept {Q : List Instr} {s : State} {k : Nat} {o : SkOp} (h_s : Kept Q s) :
  Kept Q (State.skBegin s k o) := by
  unfold State.skBegin
  repeat' (first | with_reducible assumption | with_reducible apply State.setSk_kept | with_reducible apply State.skStart_kept | with_reducible refine fun _ => ?_ | split)

theorem State.skStream_kept {Q : List Instr} {s : State} {h : Hart} {op : Nat} {f : FormD} {kind : SkKind} (h_s : Kept Q s) :
  Keeps Q (State.skStream s h op f kind) := by
  unfold State.skStream
  repeat' (first | with_reducible assumption | with_reducible apply State.checked_kept | with_reducible apply State.issue_kept | with_reducible apply State.skBegin_kept | with_reducible apply State.skEnter_kept | with_reducible apply State.withSig_kept | with_reducible apply State.withSlot_kept | with_reducible apply kept_next | with_reducible refine fun _ => ?_)

theorem execSkLoad_kept {Q : List Instr} {h : Hart} {f : FormD} {s : State} (h_s : Kept Q s) :
  Keeps Q (execSkLoad h f s) := by
  unfold execSkLoad
  repeat' (first | with_reducible assumption | with_reducible apply State.skStream_kept)

theorem execSkStore_kept {Q : List Instr} {h : Hart} {f : FormD} {s : State} (h_s : Kept Q s) :
  Keeps Q (execSkStore h f s) := by
  unfold execSkStore
  repeat' (first | with_reducible assumption | with_reducible apply State.skStream_kept)

theorem execSkCopy_kept {Q : List Instr} {h : Hart} {f : FormD} {s : State} (h_s : Kept Q s) :
  Keeps Q (execSkCopy h f s) := by
  unfold execSkCopy
  repeat' (first | with_reducible assumption | with_reducible apply State.skStream_kept)

theorem execSkSwap_kept {Q : List Instr} {h : Hart} {f : FormD} {s : State} (h_s : Kept Q s) :
  Keeps Q (execSkSwap h f s) := by
  unfold execSkSwap
  repeat' (first | with_reducible assumption | with_reducible apply State.engReport_kept | with_reducible apply State.issue_kept | with_reducible apply State.modCl_kept | with_reducible apply State.modCtx_kept | with_reducible apply kept_next | with_reducible refine fun _ => ?_ | (extract_lets +onlyGivenNames t; clear_value t) | split)

theorem execSkCancel_kept {Q : List Instr} {h : Hart} {f : FormD} {s : State} (h_s : Kept Q s) :
  Keeps Q (execSkCancel h f s) := by
  unfold execSkCancel
  repeat' (first | with_reducible assumption | with_reducible apply State.issue_kept | with_reducible apply State.skCancel_kept | with_reducible apply kept_next | with_reducible refine fun _ => ?_)

end Sys2Proof.Machine
end

