-- ==== Sys2Proof/Laws/KeptDuctusOps.lean ====
section
/-! SUPPORT. What Machine/DuctusOps.lean keeps: the queue, and the canonical form of memory and of the register file. -/

set_option linter.unreachableTactic false
set_option linter.unusedTactic false
set_option linter.unusedVariables false
set_option linter.unusedSimpArgs false

namespace Sys2Proof.Machine

theorem State.setDx_kept {Q : List Instr} {s : State} {d : Ductus} (h_s : Kept Q s) :
  Kept Q (State.setDx s d) := by
  unfold State.setDx
  repeat' (first | with_reducible assumption | (simp only [kept_mk]; with_reducible apply kept_fold))

theorem State.taskNum_kept' {Q : List Instr} {s : State} {j : Nat} (h_s : Kept Q s) : Kept Q (State.taskNum s j).2 := by
  unfold State.taskNum
  repeat' (first | with_reducible assumption | with_reducible apply State.setDx_kept)


theorem State.taskNum_kept {Q : List Instr} {s : State} {j : Nat} {r0 : Nat} {r1 : State} (e : State.taskNum s j = (r0, r1)) (h_s : Kept Q s) : Kept Q r1 := by
  have h := State.taskNum_kept' (Q := Q) (s := s) (j := j)  h_s
  rw [e] at h
  exact h

theorem State.enqueue_kept' {Q : List Instr} {s : State} {t : Task} (h_s : Kept Q s) : KeptO Q (State.enqueue s t) := by
  unfold State.enqueue
  repeat' (first | with_reducible assumption | with_reducible apply State.bump_kept | with_reducible apply State.setDx_kept | with_reducible apply kept_some | with_reducible apply kept_none | (extract_lets +onlyGivenNames t; (have ht : Kept Q t := (by unfold t; repeat' (first | with_reducible assumption | with_reducible apply State.homeForce_kept))); clear_value t) | (extract_lets +onlyGivenNames t; clear_value t) | split)

theorem State.enqueue_kept {Q : List Instr} {s : State} {t : Task} {r_out : State} (e : State.enqueue s t = some r_out) (h_s : Kept Q s) : Kept Q r_out :=
  (State.enqueue_kept' h_s).of r_out e

theorem State.stall_kept {Q : List Instr} {s : State} {src : Nat} (h_s : Kept Q s) :
  Kept Q (State.stall s src) := by
  unfold State.stall
  repeat' (first | with_reducible assumption | with_reducible apply State.bump_kept | with_reducible apply State.setDx_kept | (extract_lets +onlyGivenNames t; clear_value t) | split)

theorem State.unstall_kept {Q : List Instr} {s : State} {src : Nat} (h_s : Kept Q s) :
  Kept Q (State.unstall s src) := by
  unfold State.unstall
  repeat' (first | with_reducible assumption | with_reducible apply State.setDx_kept)

theorem State.drainBuf_kept {Q : List Instr} {s : State} (h_s : Kept Q s) :
  Kept Q (State.drainBuf s) := by
  unfold State.drainBuf
  repeat' (first | with_reducible assumption | with_reducible refine State.enqueue_kept (by assumption) ?_ | with_reducible apply State.setDx_kept | with_reducible apply State.stall_kept | with_reducible apply State.unstall_kept | with_reducible apply kept_foldl_fst | with_reducible refine fun _ => ?_ | split)

theorem State.enterLevel_kept {Q : List Instr} {s : State} {t : Task} (h_s : Kept Q s) :
  Kept Q (State.enterLevel s t) := by
  unfold State.enterLevel
  repeat' (first | with_reducible assumption | with_reducible apply State.setDx_kept)

theorem State.forward_kept {Q : List Instr} {s : State} {c : Nat} (h_s : Kept Q s) :
  Kept Q (State.forward s c) := by
  unfold State.forward
  repeat' (first | with_reducible assumption | with_reducible apply State.drainBuf_kept | with_reducible apply State.enterLevel_kept | with_reducible apply State.setDx_kept | (extract_lets +onlyGivenNames t; clear_value t) | split)

theorem State.refill_kept {Q : List Instr} {s : State} (h_s : Kept Q s) :
  Kept Q (State.refill s) := by
  unfold State.refill
  repeat' (first | with_reducible assumption | with_reducible apply State.drainBuf_kept | with_reducible apply State.setDx_kept | (extract_lets +onlyGivenNames t; clear_value t) | split)

theorem State.refuseAdmit_kept {Q : List Instr} {s : State} {t : Task} {c : Nat} (h_s : Kept Q s) :
  Kept Q (State.refuseAdmit s t c) := by
  unfold State.refuseAdmit
  repeat' (first | with_reducible assumption | with_reducible apply State.bump_kept | (extract_lets +onlyGivenNames t; (have ht : Kept Q t := (by unfold t; repeat' (first | with_reducible assumption | with_reducible apply State.bump_kept | split))); clear_value t) | split)

theorem State.boundaryOf_kept {Q : List Instr} {s : State} {h : Hart} (h_s : Kept Q s) :
  Kept Q (State.boundaryOf s h) := by
  unfold State.boundaryOf
  repeat' (first | with_reducible assumption | with_reducible apply State.dropWaits_kept | with_reducible apply State.modCl_kept | with_reducible apply State.modCtx_kept | split)

theorem State.interrupt_kept {Q : List Instr} {s : State} {h : Hart} (h_s : Kept Q s) :
  Kept Q (State.interrupt s h) := by
  unfold State.interrupt
  repeat' (first | with_reducible assumption | with_reducible apply State.takeReport_kept | (extract_lets +onlyGivenNames t; (have ht : Kept Q t := (by unfold t; repeat' (first | with_reducible assumption | with_reducible apply State.boundaryOf_kept))); clear_value t) | split)

theorem State.putSaved_kept {Q : List Instr} {s : State} {c r : Nat} {v : Option Saved} (h_s : Kept Q s) :
  Kept Q (State.putSaved s c r v) := by
  unfold State.putSaved
  repeat' (first | with_reducible assumption | with_reducible apply State.setDx_kept)

theorem State.saveCtx_kept {Q : List Instr} {s : State} {h : Hart} {r : Nat} {sleeping : Bool} (h_s : Kept Q s) :
  Kept Q (State.saveCtx s h r sleeping) := by
  unfold State.saveCtx
  repeat' (first | with_reducible assumption | with_reducible apply State.putSaved_kept | with_reducible apply State.setCtx_kept)

theorem State.leaveTo_kept {Q : List Instr} {s : State} {h : Hart} {r : Nat} (h_s : Kept Q s) :
  Kept Q (State.leaveTo s h r) := by
  unfold State.leaveTo
  repeat' (first | with_reducible assumption | with_reducible apply State.bump_kept | with_reducible apply State.saveCtx_kept | (extract_lets +onlyGivenNames t; (have ht : Kept Q t := (by unfold t; repeat' (first | with_reducible assumption | with_reducible apply State.interrupt_kept))); clear_value t) | split)

theorem State.putCells_kept {Q : List Instr} {s : State} {inRange : Nat → Bool} {cells : List Host.Cell} (h_s : Kept Q s) :
  Kept Q (State.putCells s inRange cells) := by
  unfold State.putCells
  repeat' (first | with_reducible assumption | with_reducible apply State.wr_kept | (simp only [kept_mk]; with_reducible apply kept_fold_mem) | with_reducible apply kept_foldl | with_reducible refine fun _ => ?_)

theorem State.giveOne_kept {Q : List Instr} {s : State} {c : Nat} {o : Owner} {x : OwnerSave} (h_s : Kept Q s) :
  Kept Q (State.giveOne s c o x) := by
  unfold State.giveOne
  repeat' (first | with_reducible assumption | with_reducible apply State.modCl_kept | with_reducible apply State.putCells_kept | (extract_lets +onlyGivenNames t; (have ht : Kept Q t := (by unfold t; repeat' (first | with_reducible assumption | with_reducible apply State.modCl_kept))); clear_value t) | split)

theorem State.giveBack_kept {Q : List Instr} {s : State} {c : Nat} {o : Owner} (h_s : Kept Q s) :
  Kept Q (State.giveBack s c o) := by
  unfold State.giveBack
  repeat' (first | with_reducible assumption | with_reducible apply State.giveOne_kept | (simp only [kept_mk]; with_reducible apply kept_fold) | with_reducible apply kept_foldl | with_reducible refine fun _ => ?_)

theorem State.load_kept {Q : List Instr} {s : State} {h : Hart} {x : Cand} (h_s : Kept Q s) :
  Kept Q (State.load s h x) := by
  unfold State.load
  repeat' (first | with_reducible assumption | with_reducible apply State.giveBack_kept | with_reducible apply State.interrupt_kept | with_reducible apply State.modCl_kept | with_reducible apply State.putSaved_kept | with_reducible apply State.setCtx_kept | with_reducible apply State.setDx_kept | (extract_lets +onlyGivenNames t; clear_value t) | split)

theorem State.dispatchFrom_kept {Q : List Instr} {s : State} {h : Hart} {e0 : List Cand} {e1 : Bool} (h_s : Kept Q s) :
  Kept Q (State.dispatchFrom s h e0 e1) := by
  induction e0 generalizing s h e1 <;> (
  unfold State.dispatchFrom
  repeat' (first | with_reducible assumption | with_reducible apply State.load_kept | with_reducible apply State.refuseAdmit_kept | with_reducible apply State.setDx_kept | with_reducible apply_assumption -exfalso -symm | (extract_lets +onlyGivenNames t; (have ht : Kept Q t := (by unfold t; repeat' (first | with_reducible assumption | with_reducible apply State.bump_kept | split))); clear_value t) | (extract_lets +onlyGivenNames t; clear_value t) | split))

theorem State.moveSleeper_kept {Q : List Instr} {s : State} {c r : Nat} (h_s : Kept Q s) :
  Kept Q (State.moveSleeper s c r) := by
  unfold State.moveSleeper
  repeat' (first | with_reducible assumption | with_reducible apply State.setDx_kept | (extract_lets +onlyGivenNames t; (have ht : Kept Q t := (by unfold t; repeat' (first | with_reducible assumption | with_reducible apply State.putSaved_kept | with_reducible apply State.setDx_kept))); clear_value t) | (extract_lets +onlyGivenNames t; clear_value t) | split)

theorem State.moveRestored_kept {Q : List Instr} {s : State} {c : Nat} {e0 : Nat} (h_s : Kept Q s) :
  Kept Q (State.moveRestored s c e0) := by
  induction e0 generalizing s c <;> (
  unfold State.moveRestored
  repeat' (first | with_reducible assumption | with_reducible apply State.moveSleeper_kept | with_reducible apply State.putSaved_kept | with_reducible apply State.setDx_kept | with_reducible apply_assumption -exfalso -symm | (extract_lets +onlyGivenNames t; clear_value t) | split))

theorem State.dispatch_kept {Q : List Instr} {s0 : State} {c : Nat} (h_s0 : Kept Q s0) :
  Kept Q (State.dispatch s0 c) := by
  unfold State.dispatch
  repeat' (first | with_reducible assumption | with_reducible apply State.dispatchFrom_kept | (extract_lets +onlyGivenNames t; (have ht : Kept Q t := (by unfold t; repeat' (first | with_reducible assumption | with_reducible apply State.moveRestored_kept))); clear_value t) | split)

theorem State.preempt_kept {Q : List Instr} {s : State} {c : Nat} (h_s : Kept Q s) :
  Kept Q (State.preempt s c) := by
  unfold State.preempt
  repeat' (first | with_reducible assumption | with_reducible apply State.leaveTo_kept | split)

theorem State.ownerSwap_kept {Q : List Instr} {s : State} {c : Nat} {e : Engine} (h_s : Kept Q s) :
  Kept Q (State.ownerSwap s c e) := by
  unfold State.ownerSwap
  repeat' (first | with_reducible assumption | with_reducible apply State.bump_kept | (simp only [kept_mk]; with_reducible apply kept_fold) | (extract_lets +onlyGivenNames t; (have ht : Kept Q t := (by unfold t; repeat' (first | with_reducible assumption | with_reducible apply State.homeForce_kept | with_reducible apply State.modCl_kept | split))); clear_value t) | (extract_lets +onlyGivenNames t; clear_value t) | split)

theorem State.expire_kept {Q : List Instr} {s : State} {e : DelayEnt} (h_s : Kept Q s) :
  Kept Q (State.expire s e) := by
  unfold State.expire
  repeat' (first | with_reducible assumption | with_reducible apply State.enterLevel_kept | with_reducible apply State.putSaved_kept | with_reducible apply State.setDx_kept | (extract_lets +onlyGivenNames t; (have ht : Kept Q t := (by unfold t; repeat' (first | with_reducible assumption | with_reducible apply State.setDx_kept | (extract_lets +onlyGivenNames t; (have ht : Kept Q t := (by unfold t; repeat' (first | with_reducible assumption | (with_reducible apply_assumption -exfalso -symm)))); clear_value t) | (with_reducible apply_assumption -exfalso -symm)))); clear_value t) | (extract_lets +onlyGivenNames t; (have ht : ∀ a b, Kept Q a → Kept Q (t a b) := (by unfold t; repeat' (first | with_reducible assumption | with_reducible apply State.interrupt_kept | with_reducible refine fun _ => ?_ | split))); clear_value t) | (extract_lets +onlyGivenNames t; clear_value t) | split)

theorem State.tickTime_kept {Q : List Instr} {s : State} (h_s : Kept Q s) :
  Kept Q (State.tickTime s) := by
  unfold State.tickTime
  repeat' (first | with_reducible assumption | (simp only [kept_mk]; with_reducible apply kept_fold))

theorem State.delayTick_kept {Q : List Instr} {s : State} (h_s : Kept Q s) :
  Kept Q (State.delayTick s) := by
  unfold State.delayTick
  repeat' (first | with_reducible assumption | (simp only [kept_mk]; with_reducible apply kept_fold) | (extract_lets +onlyGivenNames t; (have ht : Kept Q t := (by unfold t; repeat' (first | with_reducible assumption | with_reducible apply State.expire_kept | with_reducible apply State.tickTime_kept | with_reducible apply kept_foldl))); clear_value t) | (extract_lets +onlyGivenNames t; clear_value t) | split)

end Sys2Proof.Machine
end

