-- ==== Sys2Proof/Laws/KeptDuctus.lean ====
section
/-! SUPPORT. What Machine/Ductus.lean keeps: the queue, and the canonical form of memory and of the register file. -/

set_option linter.unreachableTactic false
set_option linter.unusedTactic false
set_option linter.unusedVariables false
set_option linter.unusedSimpArgs false

namespace Sys2Proof.Machine

theorem execDxSpawn_kept {Q : List Instr} {h : Hart} {f : FormD} {s : State} (h_s : Kept Q s) :
  Keeps Q (execDxSpawn h f s) := by
  unfold execDxSpawn
  repeat' (first | with_reducible assumption | with_reducible apply State.checked_kept | with_reducible apply State.drainBuf_kept | with_reducible apply State.issue_kept | with_reducible apply State.modCtx_kept | with_reducible apply State.setDx_kept | with_reducible apply State.taskNum_kept' | with_reducible apply State.withSig_kept | with_reducible apply State.withSlot_kept | with_reducible apply kept_next | with_reducible refine fun _ => ?_ | (extract_lets +onlyGivenNames t; clear_value t) | split)

theorem execDxSleep_kept {Q : List Instr} {h : Hart} {f : FormD} {s : State} (h_s : Kept Q s) :
  Keeps Q (execDxSleep h f s) := by
  unfold execDxSleep
  repeat' (first | with_reducible assumption | with_reducible apply State.issue_kept | with_reducible apply State.modCtx_kept | with_reducible apply State.setDx_kept | with_reducible apply kept_next | with_reducible refine fun _ => ?_ | (extract_lets +onlyGivenNames t; (have ht : Kept Q t := (by unfold t; repeat' (first | with_reducible assumption | with_reducible apply State.modCtx_kept | with_reducible apply State.saveCtx_kept))); clear_value t) | (extract_lets +onlyGivenNames t; clear_value t) | split)

theorem execDxStepend_kept {Q : List Instr} {h : Hart} {f : FormD} {s : State} (h_s : Kept Q s) :
  Keeps Q (execDxStepend h f s) := by
  unfold execDxStepend
  repeat' (first | with_reducible assumption | with_reducible apply State.bump_kept | with_reducible apply State.issue_kept | with_reducible apply State.modCtx_kept | with_reducible apply State.setDx_kept | with_reducible apply State.waits_kept | with_reducible apply State.withSig_kept | with_reducible apply kept_next | with_reducible refine fun _ => ?_ | (extract_lets +onlyGivenNames t; (have ht : Kept Q t := (by unfold t; repeat' (first | with_reducible assumption | with_reducible apply State.modCtx_kept))); clear_value t) | (extract_lets +onlyGivenNames t; clear_value t) | split)

theorem execDxRde_kept {Q : List Instr} {h : Hart} {f : FormD} {s : State} (h_s : Kept Q s) :
  Keeps Q (execDxRde h f s) := by
  unfold execDxRde
  repeat' (first | with_reducible assumption | with_reducible apply State.issue_kept | with_reducible apply State.modCtx_kept | with_reducible apply kept_next | with_reducible refine fun _ => ?_)

end Sys2Proof.Machine
end

