-- ==== Sys2Proof/Laws/KeptGatherOps.lean ====
section
/-! SUPPORT. What Machine/GatherOps.lean keeps: the queue, and the canonical form of memory and of the register file. -/

set_option linter.unreachableTactic false
set_option linter.unusedTactic false
set_option linter.unusedVariables false
set_option linter.unusedSimpArgs false

namespace Sys2Proof.Machine

theorem State.gatherFlags_kept {Q : List Instr} {s : State} {k : Nat} {o : SkOp} (h_s : Kept Q s) :
  Kept Q (State.gatherFlags s k o) := by
  unfold State.gatherFlags
  repeat' (first | with_reducible assumption | with_reducible apply State.modTask_kept)

theorem State.readRows_kept' {Q : List Instr} {s : State} {who : Option (Nat × Nat)} {bad : Option Nat} {d : Desc} {pub : Bool} {slot : Nat} {limit : Option Nat} {bank : SMap Nat} {e0 : List Nat} (h_s : Kept Q s) : Kept Q (State.readRows s who bad d pub slot limit bank e0).1 := by
  induction e0 generalizing s who bad d pub slot limit bank <;> (
  unfold State.readRows
  repeat' (first | with_reducible assumption | with_reducible refine State.rowAddr_kept (by assumption) ?_ | with_reducible apply_assumption -exfalso -symm | with_reducible refine kept_fst (by assumption) ?_ | (extract_lets +onlyGivenNames t; (have ht : Kept Q t := (by unfold t; repeat' (first | with_reducible assumption | with_reducible apply State.memRead_kept | with_reducible refine State.rowAddr_kept (by assumption) ?_))); clear_value t) | (extract_lets +onlyGivenNames t; clear_value t) | split))


theorem State.readRows_kept {Q : List Instr} {s : State} {who : Option (Nat × Nat)} {bad : Option Nat} {d : Desc} {pub : Bool} {slot : Nat} {limit : Option Nat} {bank : SMap Nat} {e0 : List Nat} {r0 : State} {r1 : SMap Nat} {r2 : RowsRead} (e : State.readRows s who bad d pub slot limit bank e0 = (r0, r1, r2)) (h_s : Kept Q s) : Kept Q r0 := by
  have h := State.readRows_kept' (Q := Q) (s := s) (who := who) (bad := bad) (d := d) (pub := pub) (slot := slot) (limit := limit) (bank := bank) (e0 := e0) h_s
  rw [e] at h
  exact h

theorem State.poolBegin_kept {Q : List Instr} {s : State} {k : Nat} {o : SkOp} (h_s : Kept Q s) :
  Kept Q (State.poolBegin s k o) := by
  unfold State.poolBegin
  repeat' (first | with_reducible assumption | with_reducible apply State.skStop_kept | (simp only [kept_mk]; with_reducible apply kept_fold) | split)

theorem State.nbMismatch_kept {Q : List Instr} {s : State} {k : Nat} {job : Nat} {detail : Nat} (h_s : Kept Q s) :
  Kept Q (State.nbMismatch s k job detail) := by
  unfold State.nbMismatch
  repeat' (first | with_reducible assumption | with_reducible apply State.bump_kept | with_reducible apply State.draw_kept' | with_reducible apply State.report_kept | (simp only [kept_mk]; with_reducible apply kept_fold))

theorem State.nbPool_kept {Q : List Instr} {s0 : State} {k : Nat} {q : NbReq} {o : SkOp} {check : OpCheck} {map : Option Nat} {tab : Desc} {slot : Nat} {hd : AdjHead} {ps : List Part} {b : List Byte} (h_s0 : Kept Q s0) :
  Kept Q (State.nbPool s0 k q o check map tab slot hd ps b) := by
  unfold State.nbPool
  repeat' (first | with_reducible assumption | with_reducible apply State.nbMismatch_kept | with_reducible refine State.readRows_kept (by assumption) ?_ | with_reducible apply State.skPoison_kept | with_reducible apply State.skStop_kept | (simp only [kept_mk]; with_reducible apply kept_fold) | (extract_lets +onlyGivenNames t; (have ht : Kept Q t := (by unfold t; repeat' (first | with_reducible assumption | with_reducible apply State.bump_kept | with_reducible apply State.bumpBy_kept | with_reducible apply State.countParts_kept | with_reducible refine State.readRows_kept (by assumption) ?_ | with_reducible apply State.setSk_kept))); clear_value t) | (extract_lets +onlyGivenNames t; clear_value t) | split)

theorem State.nbBlock_kept {Q : List Instr} {s : State} {k : Nat} {q : NbReq} {o : SkOp} {check : OpCheck} {map : Option Nat} {tab : Desc} {slot va : Nat} {hd : AdjHead} (h_s : Kept Q s) :
  Kept Q (State.nbBlock s k q o check map tab slot va hd) := by
  unfold State.nbBlock
  repeat' (first | with_reducible assumption | with_reducible apply State.nbPool_kept | with_reducible refine State.readParts_kept (by assumption) ?_ | with_reducible refine State.resolve_kept (by assumption) ?_ | with_reducible apply State.skHalt_kept | with_reducible apply State.skPoison_kept | with_reducible apply State.skStop_kept | (extract_lets +onlyGivenNames t; clear_value t) | split)

theorem State.nbHead_kept {Q : List Instr} {s : State} {k : Nat} {q : NbReq} {o : SkOp} {check : OpCheck} {map : Option Nat} {tab : Desc} {slot va : Nat} {head : List (Nat × Nat)} (h_s : Kept Q s) :
  Kept Q (State.nbHead s k q o check map tab slot va head) := by
  unfold State.nbHead
  rcases hx : s.resolve k o.own.job .load head with ⟨t, x⟩
  have ht : Kept Q t := State.resolve_kept hx h_s
  cases x with
  | fault f => exact State.skHalt_kept ht
  | access => exact State.skStop_kept ht
  | poison pa => exact State.skPoison_kept ht
  | ok ps =>
    dsimp only
    rcases hy : t.readParts (.stroke q.c o.n) o.hl ps with ⟨u, y⟩
    have hu : Kept Q u := State.readParts_kept hy ht
    cases y with
    | wait => exact hu
    | poison pa => exact State.skPoison_kept hu
    | bytes hb =>
      dsimp only
      cases adjHead hb (plTargets o.desc) with
      | none => exact State.skStop_kept hu
      | some hd =>
        dsimp only
        split
        · exact State.skStop_kept hu
        · exact State.nbBlock_kept hu

theorem State.nbServe_kept {Q : List Instr} {s : State} {k : Nat} {q : NbReq} {o : SkOp} {check : OpCheck} {map : Option Nat} (h_s : Kept Q s) :
  Kept Q (State.nbServe s k q o check map) := by
  unfold State.nbServe
  dsimp only
  split
  · exact State.skStop_kept h_s
  · exact State.nbHead_kept h_s

theorem State.nbReturn_kept {Q : List Instr} {s : State} {c : Nat} {o : SkOp} {p : NbPart} {check : OpCheck} (h_s : Kept Q s) :
  Kept Q (State.nbReturn s c o p check) := by
  unfold State.nbReturn
  repeat' (first | with_reducible assumption | with_reducible apply State.gatherFlags_kept | with_reducible apply State.nbMismatch_kept | with_reducible apply State.setSk_kept | with_reducible apply State.skDone_kept | (extract_lets +onlyGivenNames t; (have ht : Kept Q t := (by unfold t; repeat' (first | with_reducible assumption | with_reducible apply State.bumpBy_kept | (simp only [kept_mk]; with_reducible apply kept_fold)))); clear_value t) | (extract_lets +onlyGivenNames t; (have ht : Kept Q t.1 := (by unfold t; repeat' (first | with_reducible assumption | with_reducible apply State.memWrite_kept | with_reducible apply kept_foldl_fst | with_reducible refine fun _ => ?_))); clear_value t) | (extract_lets +onlyGivenNames t; clear_value t) | split)

theorem State.lgTake_kept {Q : List Instr} {s : State} {i : Nat} {e0 : Nat} (h_s : Kept Q s) :
  Kept Q (State.lgTake s i e0) := by
  induction e0 generalizing s i <;> (
  unfold State.lgTake
  repeat' (first | with_reducible assumption | with_reducible apply State.setSk_kept | with_reducible apply_assumption -exfalso -symm | split))

theorem State.gatherBegin_kept {Q : List Instr} {s : State} {k : Nat} {o : SkOp} (h_s : Kept Q s) :
  Kept Q (State.gatherBegin s k o) := by
  unfold State.gatherBegin
  repeat' (first | with_reducible assumption | with_reducible apply State.setSk_kept | with_reducible apply State.skStop_kept | (extract_lets +onlyGivenNames t; (have ht : Kept Q t := (by unfold t; repeat' (first | with_reducible assumption | (simp only [kept_mk]; with_reducible apply kept_fold)))); clear_value t) | split)

theorem State.readVa_kept' {Q : List Instr} {s : State} {k : Nat} {o : SkOp} {va n : Nat} (h_s : Kept Q s) : Kept Q (State.readVa s k o va n).1 := by
  unfold State.readVa
  repeat' (first | with_reducible assumption | with_reducible apply State.countParts_kept | with_reducible refine State.readParts_kept (by assumption) ?_ | with_reducible refine State.resolve_kept (by assumption) ?_ | with_reducible apply State.skHalt_kept | with_reducible apply State.skPoison_kept | with_reducible apply State.skStop_kept | split)


theorem State.readVa_kept {Q : List Instr} {s : State} {k : Nat} {o : SkOp} {va n : Nat} {r0 : State} {r1 : VGot} (e : State.readVa s k o va n = (r0, r1)) (h_s : Kept Q s) : Kept Q r0 := by
  have h := State.readVa_kept' (Q := Q) (s := s) (k := k) (o := o) (va := va) (n := n)  h_s
  rw [e] at h
  exact h

theorem State.readHeavy_kept' {Q : List Instr} {s : State} {k : Nat} {o : SkOp} {e0 : List (Nat × Nat)} (h_s : Kept Q s) : Kept Q (State.readHeavy s k o e0).1 := by
  induction e0 generalizing s k o <;> (
  unfold State.readHeavy
  repeat' (first | with_reducible assumption | with_reducible refine State.readVa_kept (by assumption) ?_ | with_reducible apply_assumption -exfalso -symm | with_reducible refine kept_fst (by assumption) ?_ | split))


theorem State.readHeavy_kept {Q : List Instr} {s : State} {k : Nat} {o : SkOp} {e0 : List (Nat × Nat)} {r0 : State} {r1 : Option (List (List Heavy))} (e : State.readHeavy s k o e0 = (r0, r1)) (h_s : Kept Q s) : Kept Q r0 := by
  have h := State.readHeavy_kept' (Q := Q) (s := s) (k := k) (o := o) (e0 := e0) h_s
  rw [e] at h
  exact h

theorem State.lgMismatch_kept {Q : List Instr} {s : State} {lg : Nat} {o : SkOp} (h_s : Kept Q s) :
  Kept Q (State.lgMismatch s lg o) := by
  unfold State.lgMismatch
  repeat' (first | with_reducible assumption | with_reducible apply State.bump_kept | with_reducible apply State.report_kept | (simp only [kept_mk]; with_reducible apply kept_fold))

theorem State.gatherWrite_kept {Q : List Instr} {t : State} {k : Nat} {o : SkOp} {check : OpCheck} {tab : Desc} {ents : List (Nat × Nat)} {lists : List (List Heavy)} {vals : List (List Nat)} (h_t : Kept Q t) :
  Kept Q (State.gatherWrite t k o check tab ents lists vals) := by
  unfold State.gatherWrite
  repeat' (first | with_reducible assumption | with_reducible apply State.gatherFlags_kept | with_reducible apply State.lgMismatch_kept | with_reducible apply State.skDone_kept | (extract_lets +onlyGivenNames t; (have ht : Kept Q t := (by unfold t; repeat' (first | with_reducible assumption | with_reducible apply State.bumpBy_kept | with_reducible apply State.engSignal_kept | with_reducible apply State.memWrite_kept | with_reducible apply State.modCl_kept | with_reducible apply State.setSk_kept | split))); clear_value t) | (extract_lets +onlyGivenNames t; clear_value t) | split)

theorem State.gatherRows_kept {Q : List Instr} {s : State} {k : Nat} {o : SkOp} {check : OpCheck} {map : Option Nat} {tab : Desc} {slot : Nat} {ents : List (Nat × Nat)} (h_s : Kept Q s) :
  Kept Q (State.gatherRows s k o check map tab slot ents) := by
  unfold State.gatherRows
  repeat' (first | with_reducible assumption | with_reducible apply State.gatherWrite_kept | with_reducible refine State.readHeavy_kept (by assumption) ?_ | with_reducible refine State.readRows_kept (by assumption) ?_ | with_reducible apply State.skPoison_kept | with_reducible apply State.skStop_kept | (extract_lets +onlyGivenNames t; clear_value t) | split)

theorem State.gatherHead_kept {Q : List Instr} {s : State} {k : Nat} {o : SkOp} {check : OpCheck} {map : Option Nat} {tab : Desc} {slot hva n : Nat} (h_s : Kept Q s) :
  Kept Q (State.gatherHead s k o check map tab slot hva n) := by
  unfold State.gatherHead
  repeat' (first | with_reducible assumption | with_reducible apply State.gatherRows_kept | with_reducible refine State.readVa_kept (by assumption) ?_ | with_reducible apply State.skStop_kept | (extract_lets +onlyGivenNames t; clear_value t) | split)

theorem State.gatherTile_kept {Q : List Instr} {s : State} {k : Nat} {o : SkOp} {check : OpCheck} {map : Option Nat} (h_s : Kept Q s) :
  Kept Q (State.gatherTile s k o check map) := by
  unfold State.gatherTile
  dsimp only
  split
  · exact State.skStop_kept h_s
  · exact State.gatherHead_kept h_s

theorem State.lgComplete_kept {Q : List Instr} {s : State} {k n : Nat} {check : OpCheck} {map : Option Nat} {e : List MemErr} (h_s : Kept Q s) :
  Kept Q (State.lgComplete s k n check map e) := by
  unfold State.lgComplete
  repeat' (first | with_reducible assumption | with_reducible apply State.demandErrs_kept | with_reducible apply State.gatherTile_kept | (extract_lets +onlyGivenNames t; (have ht : Kept Q t := (by unfold t; repeat' (first | with_reducible assumption | with_reducible apply State.lgTake_kept))); clear_value t) | (extract_lets +onlyGivenNames t; clear_value t) | split)

end Sys2Proof.Machine
end

