-- ==== Sys2Proof/Laws/KeptTableOps.lean ====
section
/-! SUPPORT. What Machine/TableOps.lean keeps: the queue, and the canonical form of memory and of the register file. -/

set_option linter.unreachableTactic false
set_option linter.unusedTactic false
set_option linter.unusedVariables false
set_option linter.unusedSimpArgs false

namespace Sys2Proof.Machine

theorem State.sendDelta_kept {Q : List Instr} {s : State} {job : Nat} {body : List Byte} (h_s : Kept Q s) :
  Kept Q (State.sendDelta s job body) := by
  unfold State.sendDelta
  repeat' (first | with_reducible assumption | with_reducible apply State.bump_kept | (extract_lets +onlyGivenNames t; (have ht : Kept Q t := (by unfold t; repeat' (first | with_reducible assumption | (simp only [kept_mk]; with_reducible apply kept_fold)))); clear_value t) | (extract_lets +onlyGivenNames t; clear_value t) | split)

theorem State.wrRing_kept {Q : List Instr} {s : State} {base size off : Nat} {bs : List Byte} (h_s : Kept Q s) :
  Kept Q (State.wrRing s base size off bs) := by
  unfold State.wrRing
  repeat' (first | with_reducible assumption | with_reducible apply State.memWrite_kept)

theorem State.undoRecord_kept' {Q : List Instr} {s : State} {j t r : Nat} {old : List Byte} (h_s : Kept Q s) : KeptO Q (State.undoRecord s j t r old) := by
  unfold State.undoRecord
  repeat' (first | with_reducible assumption | with_reducible apply State.undoForce_kept | with_reducible apply kept_some | with_reducible apply kept_none | (extract_lets +onlyGivenNames t; (have ht : Kept Q t := (by unfold t; repeat' (first | with_reducible assumption | with_reducible apply State.setUndo_kept | with_reducible apply State.wrRing_kept))); clear_value t) | (extract_lets +onlyGivenNames t; clear_value t) | split)

theorem State.undoRecord_kept {Q : List Instr} {s : State} {j t r : Nat} {old : List Byte} {r_out : State} (e : State.undoRecord s j t r old = some r_out) (h_s : Kept Q s) : Kept Q r_out :=
  (State.undoRecord_kept' h_s).of r_out e

theorem State.rollbackTo_kept {Q : List Instr} {s : State} {j g : Nat} (h_s : Kept Q s) :
  Kept Q (State.rollbackTo s j g) := by
  unfold State.rollbackTo
  repeat' (first | with_reducible assumption | with_reducible apply State.hotWrite_kept | with_reducible apply State.memWrite_kept | with_reducible apply State.setUndo_kept | with_reducible apply kept_foldl | with_reducible refine fun _ => ?_ | (extract_lets +onlyGivenNames t; clear_value t) | split)

theorem State.rollback_kept {Q : List Instr} {s : State} {j : Nat} (h_s : Kept Q s) :
  Kept Q (State.rollback s j) := by
  unfold State.rollback
  repeat' (first | with_reducible assumption | with_reducible apply State.rollbackTo_kept)

theorem State.buildHold_kept {Q : List Instr} {s : State} {j t : Nat} (h_s : Kept Q s) :
  Kept Q (State.buildHold s j t) := by
  unfold State.buildHold
  repeat' (first | with_reducible assumption | with_reducible apply State.bumpBy_kept | (simp only [kept_mk]; with_reducible apply kept_fold) | (extract_lets +onlyGivenNames t; clear_value t) | split)

theorem State.updateBegin_kept {Q : List Instr} {s : State} {k : Nat} {o : SkOp} (h_s : Kept Q s) :
  Kept Q (State.updateBegin s k o) := by
  unfold State.updateBegin
  repeat' (first | with_reducible assumption | with_reducible apply State.buildHold_kept | with_reducible apply State.gatherFlags_kept | with_reducible apply State.skDone_kept | with_reducible apply State.skStop_kept | (simp only [kept_mk]; with_reducible apply kept_fold) | (extract_lets +onlyGivenNames t; (have ht : Kept Q t := (by unfold t; repeat' (first | with_reducible assumption | with_reducible apply State.bumpBy_kept | with_reducible apply State.setSk_kept))); clear_value t) | (extract_lets +onlyGivenNames t; clear_value t) | split)

theorem State.tbStart_kept {Q : List Instr} {s : State} {k : Nat} {o : SkOp} {go : State → SkOp → State} (h_s : Kept Q s) (h_go : ∀ y0 y1, Kept Q y0 → Kept Q (go y0 y1)) :
  Kept Q (State.tbStart s k o go) := by
  unfold State.tbStart
  repeat' (first | with_reducible assumption | with_reducible apply State.bump_kept | with_reducible apply State.setSk_kept | with_reducible apply h_go | split)

theorem State.tbRelease_kept {Q : List Instr} {s : State} {kind : SkKind} {go : State → Nat → SkOp → State} (h_s : Kept Q s) (h_go : ∀ y0 y1 y2, Kept Q y0 → Kept Q (go y0 y1 y2)) :
  Kept Q (State.tbRelease s kind go) := by
  unfold State.tbRelease
  repeat' (first | with_reducible assumption | with_reducible apply h_go | with_reducible apply kept_foldl | with_reducible refine fun _ => ?_ | split)

theorem State.modReq_kept {Q : List Instr} {s : State} {q : NbReq} {f : Share → Share} (h_s : Kept Q s) :
  Kept Q (State.modReq s q f) := by
  unfold State.modReq
  repeat' (first | with_reducible assumption | (simp only [kept_mk]; with_reducible apply kept_fold))

/-- A row's update keeps them in the state that it gives. -/
theorem updateRow_kept {Q : List Instr} {s t : State} {sh : Share} {d : Desc} {row fl : Nat} {recs : List GradRec}
    (e : s.updateRow sh d row recs = .done t fl) (h : Kept Q s) : Kept Q t := by
  have h0 : Kept Q (s.memRead (d.homeOf row) d.rb) := State.memRead_kept h
  unfold State.updateRow at e
  revert e
  dsimp only
  generalize s.memRead (d.homeOf row) d.rb = s0 at h0 ⊢
  split
  · intro e; cases e
  · split
    · intro e; cases e; exact State.bump_kept h0
    · split
      · intro e; cases e
      · split
        · intro e; cases e
        next s1 hu =>
          have h1 : Kept Q s1 := State.undoRecord_kept hu h0
          have h2 : ∀ pa b qa c, Kept Q ((s1.hotWrite pa b).memWrite qa c) := fun _ _ _ _ => State.memWrite_kept (State.hotWrite_kept h1)
          intro e
          cases e
          split <;> (try with_reducible apply State.sendDelta_kept) <;> (with_reducible apply State.setTable_kept) <;> split <;>
            first
              | exact State.bump_kept (State.bump_kept (h2 _ _ _ _))
              | exact State.bump_kept (h2 _ _ _ _)

theorem State.applyShare_kept {Q : List Instr} {s : State} {k : Nat} {q : NbReq} {sh : Share} {d : Desc} {o : SkOp} {e0 : Nat} (h_s : Kept Q s) :
  Kept Q (State.applyShare s k q sh d o e0) := by
  induction e0 generalizing s k q sh d o <;> (
  unfold State.applyShare
  repeat' (first | with_reducible assumption | with_reducible refine updateRow_kept (by assumption) ?_ | with_reducible apply State.bump_kept | with_reducible apply State.modReq_kept | with_reducible apply State.setSk_kept | with_reducible apply State.skPoison_kept | with_reducible apply_assumption -exfalso -symm | (extract_lets +onlyGivenNames t; clear_value t) | split))

theorem State.admitShare_kept {Q : List Instr} {s : State} {k : Nat} {q : NbReq} {sh : Share} {o : SkOp} (h_s : Kept Q s) :
  Kept Q (State.admitShare s k q sh o) := by
  unfold State.admitShare
  repeat' (first | with_reducible assumption | with_reducible apply State.applyShare_kept | with_reducible apply State.bump_kept | with_reducible apply State.modReq_kept | with_reducible apply State.skStop_kept | (extract_lets +onlyGivenNames t; (have ht : Kept Q t := (by unfold t; repeat' (first | with_reducible assumption | with_reducible apply State.modReq_kept))); clear_value t) | (extract_lets +onlyGivenNames t; clear_value t) | split)

theorem State.updServe_kept {Q : List Instr} {s : State} {k : Nat} {e0 : List (NbReq × Share × SkOp)} (h_s : Kept Q s) :
  Kept Q (State.updServe s k e0) := by
  induction e0 generalizing s k <;> (
  unfold State.updServe
  repeat' (first | with_reducible assumption | with_reducible apply_assumption -exfalso -symm | (extract_lets +onlyGivenNames t; (have ht : Kept Q t := (by unfold t; repeat' (first | with_reducible assumption | with_reducible apply State.admitShare_kept))); clear_value t) | split))

theorem State.updAck_kept {Q : List Instr} {s : State} {c n k : Nat} (h_s : Kept Q s) :
  Kept Q (State.updAck s c n k) := by
  unfold State.updAck
  repeat' (first | with_reducible assumption | with_reducible apply State.gatherFlags_kept | with_reducible apply State.skDone_kept | (extract_lets +onlyGivenNames t; (have ht : Kept Q t := (by unfold t; repeat' (first | with_reducible assumption | with_reducible apply State.setSk_kept | (simp only [kept_mk]; with_reducible apply kept_fold)))); clear_value t) | (extract_lets +onlyGivenNames t; clear_value t) | split)

theorem State.buildSlot_kept {Q : List Instr} {s : State} {j t : Nat} {d : Desc} {b : Build} (h_s : Kept Q s) :
  Kept Q (State.buildSlot s j t d b) := by
  unfold State.buildSlot
  repeat' (first | with_reducible assumption | with_reducible apply State.bump_kept | with_reducible apply State.memWrite_kept | with_reducible apply State.setTable_kept | (extract_lets +onlyGivenNames t; clear_value t) | split)

theorem State.buildBegin_kept {Q : List Instr} {s : State} {k : Nat} {o : SkOp} (h_s : Kept Q s) :
  Kept Q (State.buildBegin s k o) := by
  unfold State.buildBegin
  repeat' (first | with_reducible assumption | with_reducible apply State.buildHold_kept | with_reducible apply State.buildSlot_kept | with_reducible apply State.setSk_kept | with_reducible apply State.setTable_kept | with_reducible apply State.skStop_kept | (extract_lets +onlyGivenNames t; clear_value t) | split)

theorem State.copySeg_kept {Q : List Instr} {s : State} {d : Desc} {slot seg addr : Nat} (h_s : Kept Q s) :
  Kept Q (State.copySeg s d slot seg addr) := by
  unfold State.copySeg
  repeat' (first | with_reducible assumption | with_reducible apply State.memRead_kept | with_reducible apply State.memWrite_kept | with_reducible apply kept_foldl | with_reducible refine fun _ => ?_)

theorem State.buildInto_kept {Q : List Instr} {s : State} {j t : Nat} {d : Desc} {e : EdSlot} {fresh : Bool} (h_s : Kept Q s) :
  Kept Q (State.buildInto s j t d e fresh) := by
  unfold State.buildInto
  repeat' (first | with_reducible assumption | with_reducible apply State.copySeg_kept | with_reducible apply State.memRead_kept | with_reducible apply State.memWrite_kept | with_reducible apply State.setTable_kept | with_reducible apply kept_foldl_fst | with_reducible refine fun _ => ?_ | split)

theorem State.sendBuild_kept {Q : List Instr} {s : State} {j t : Nat} {d : Desc} {slot : Nat} (h_s : Kept Q s) :
  Kept Q (State.sendBuild s j t d slot) := by
  unfold State.sendBuild
  repeat' (first | with_reducible assumption | with_reducible apply State.cbSend_kept | (extract_lets +onlyGivenNames t; clear_value t) | split)

theorem State.buildDone_kept {Q : List Instr} {s : State} {c : Nat} {o : SkOp} (h_s : Kept Q s) :
  Kept Q (State.buildDone s c o) := by
  unfold State.buildDone
  repeat' (first | with_reducible assumption | with_reducible apply State.buildBegin_kept | with_reducible apply State.buildInto_kept | with_reducible apply State.buildSlot_kept | with_reducible apply State.setTable_kept | with_reducible apply State.skPoison_kept | with_reducible apply State.skStop_kept | (extract_lets +onlyGivenNames t; (have ht : ∀ a, Kept Q a → Kept Q (t a) := (by unfold t; repeat' (first | with_reducible assumption | with_reducible apply State.sendBuild_kept | with_reducible apply State.skDone_kept | with_reducible refine fun _ => ?_))); clear_value t) | (extract_lets +onlyGivenNames t; clear_value t) | (with_reducible apply_assumption -exfalso -symm) | split)

theorem State.publishBegin_kept {Q : List Instr} {s : State} {k : Nat} {o : SkOp} (h_s : Kept Q s) :
  Kept Q (State.publishBegin s k o) := by
  unfold State.publishBegin
  repeat' (first | with_reducible assumption | with_reducible apply State.skStop_kept | (simp only [kept_mk]; with_reducible apply kept_fold) | (extract_lets +onlyGivenNames t; clear_value t) | split)

theorem State.pubStart_kept {Q : List Instr} {s : State} {j : Nat} (h_s : Kept Q s) :
  Kept Q (State.pubStart s j) := by
  unfold State.pubStart
  repeat' (first | with_reducible assumption | with_reducible refine State.assign_kept (by assumption) ?_ | with_reducible apply State.folioBegin_kept | with_reducible apply State.pubResult_kept | (simp only [kept_mk]; with_reducible apply kept_fold) | split)

end Sys2Proof.Machine
end

