-- ==== Sys2Proof/Laws/KeptDuctusEvents.lean ====
section
/-! SUPPORT. What Machine/DuctusEvents.lean keeps: the queue, and the canonical form of memory and of the register file. -/

set_option linter.unreachableTactic false
set_option linter.unusedTactic false
set_option linter.unusedVariables false
set_option linter.unusedSimpArgs false

namespace Sys2Proof.Machine

theorem State.stepReject_kept {Q : List Instr} {s : State} {q : StepReq} (h_s : Kept Q s) :
  Kept Q (State.stepReject s q) := by
  have ht := State.setDx_kept (d := { s.dx with steps := s.dx.steps.erase q }) h_s
  unfold State.stepReject
  with_reducible apply State.bump_kept
  dsimp only
  split
  · exact State.modCtx_kept ht
  · exact ht

theorem execStependRequest_kept {Q : List Instr} {j : Nat} {s : State} (h_s : Kept Q s) :
  Keeps Q (execStependRequest j s) := by
  unfold execStependRequest
  repeat' (first | with_reducible assumption | with_reducible refine State.assign_kept (by assumption) ?_ | with_reducible apply State.recordStep_kept | with_reducible apply State.sendCommit_kept | with_reducible apply State.stepReject_kept | with_reducible apply kept_next | (extract_lets +onlyGivenNames t; (have ht : Kept Q t := (by unfold t; repeat' (first | with_reducible assumption | with_reducible refine State.assign_kept (by assumption) ?_ | with_reducible apply State.setDx_kept))); clear_value t) | (extract_lets +onlyGivenNames t; clear_value t) | split)

theorem execDevqForward_kept {Q : List Instr} {c : Nat} {s : State} (h_s : Kept Q s) :
  Keeps Q (execDevqForward c s) := by
  unfold execDevqForward
  repeat' (first | with_reducible assumption | with_reducible apply State.forward_kept | with_reducible apply kept_next | split)

theorem execSpillRefill_kept {Q : List Instr} {s : State} (h_s : Kept Q s) :
  Keeps Q (execSpillRefill s) := by
  unfold execSpillRefill
  repeat' (first | with_reducible assumption | with_reducible apply State.refill_kept | with_reducible apply kept_next | split)

theorem execTaskDispatch_kept {Q : List Instr} {c : Nat} {s : State} (h_s : Kept Q s) :
  Keeps Q (execTaskDispatch c s) := by
  unfold execTaskDispatch
  repeat' (first | with_reducible assumption | with_reducible apply State.dispatch_kept | with_reducible apply kept_next)

theorem execPreempt_kept {Q : List Instr} {c : Nat} {s : State} (h_s : Kept Q s) :
  Keeps Q (execPreempt c s) := by
  unfold execPreempt
  repeat' (first | with_reducible assumption | with_reducible apply State.preempt_kept | with_reducible apply kept_next)

theorem execOwnerSwap_kept {Q : List Instr} {c : Nat} {e : Engine} {s : State} (h_s : Kept Q s) :
  Keeps Q (execOwnerSwap c e s) := by
  unfold execOwnerSwap
  repeat' (first | with_reducible assumption | with_reducible apply State.ownerSwap_kept | with_reducible apply kept_next | split)

theorem execDelayTick_kept {Q : List Instr} {s : State} (h_s : Kept Q s) :
  Keeps Q (execDelayTick s) := by
  unfold execDelayTick
  repeat' (first | with_reducible assumption | with_reducible apply State.delayTick_kept | with_reducible apply kept_next)

theorem State.addNj_kept {Q : List Instr} {s : State} {k key nj : Nat} (h_s : Kept Q s) :
  Kept Q (State.addNj s k key nj) := by
  unfold State.addNj
  repeat' (first | with_reducible assumption | with_reducible apply State.bumpBy_kept | with_reducible apply State.setDx_kept)

theorem State.energySample_kept {Q : List Instr} {s : State} {e : EnergySample} (h_s : Kept Q s) :
  Kept Q (State.energySample s e) := by
  unfold State.energySample
  repeat' (first | with_reducible assumption | with_reducible apply State.setDx_kept | (extract_lets +onlyGivenNames t; (have ht : Kept Q t := (by unfold t; repeat' (first | with_reducible assumption | with_reducible apply State.addNj_kept | with_reducible apply State.bumpBy_kept | with_reducible apply State.setCtx_kept | split))); clear_value t) | (extract_lets +onlyGivenNames t; clear_value t) | split)

theorem execEnergyUpdate_kept {Q : List Instr} {es : List EnergySample} {s : State} (h_s : Kept Q s) :
  Keeps Q (execEnergyUpdate es s) := by
  unfold execEnergyUpdate
  repeat' (first | with_reducible assumption | with_reducible apply State.energySample_kept | with_reducible apply State.setDx_kept | with_reducible apply kept_next | with_reducible apply kept_foldl)

theorem State.setFold_kept {Q : List Instr} {s : State} {f : Fold} (h_s : Kept Q s) :
  Kept Q (State.setFold s f) := by
  unfold State.setFold
  repeat' (first | with_reducible assumption | with_reducible apply State.setDx_kept)

theorem execFoldSwap_kept {Q : List Instr} {g : Nat} {s : State} (h_s : Kept Q s) :
  Keeps Q (execFoldSwap g s) := by
  unfold execFoldSwap
  repeat' (first | with_reducible assumption | with_reducible apply State.bump_kept | with_reducible apply State.setFold_kept | with_reducible apply kept_next | (extract_lets +onlyGivenNames t; (have ht : Kept Q t := (by unfold t; repeat' (first | with_reducible assumption | with_reducible apply State.modCl_kept | (extract_lets +onlyGivenNames t; (have ht : Kept Q t := (by unfold t; repeat' (first | with_reducible assumption | with_reducible apply State.modCl_kept | (with_reducible apply_assumption -exfalso -symm)))); clear_value t) | (with_reducible apply_assumption -exfalso -symm)))); clear_value t) | (extract_lets +onlyGivenNames t; (have ht : ∀ a b, Kept Q a → Kept Q (t a b) := (by unfold t; repeat' (first | with_reducible assumption | with_reducible apply State.interrupt_kept | with_reducible refine fun _ => ?_ | split))); clear_value t) | (extract_lets +onlyGivenNames t; clear_value t) | split)

theorem State.saveFold_kept {Q : List Instr} {s : State} {f : Fold} (h_s : Kept Q s) :
  Kept Q (State.saveFold s f) := by
  unfold State.saveFold
  repeat' (first | with_reducible assumption | with_reducible apply State.homeForce_kept)

theorem execFoldSwapComplete_kept {Q : List Instr} {g : Nat} {s : State} (h_s : Kept Q s) :
  Keeps Q (execFoldSwapComplete g s) := by
  unfold execFoldSwapComplete
  repeat' (first | with_reducible assumption | with_reducible apply State.modCl_kept | with_reducible apply kept_next | (extract_lets +onlyGivenNames t; (have ht : Kept Q t := (by unfold t; repeat' (first | with_reducible assumption | with_reducible apply State.saveFold_kept | with_reducible apply State.setFold_kept))); clear_value t) | (extract_lets +onlyGivenNames t; clear_value t) | split)

theorem State.policyWrite_kept {Q : List Instr} {s : State} {v : Word} (h_s : Kept Q s) :
  Kept Q (State.policyWrite s v) := by
  unfold State.policyWrite
  repeat' (first | with_reducible assumption | with_reducible apply State.bump_kept | (extract_lets +onlyGivenNames t; (have ht : Kept Q t := (by unfold t; repeat' (first | with_reducible assumption | with_reducible apply State.setReg_kept))); clear_value t) | (extract_lets +onlyGivenNames t; clear_value t) | split)

theorem execDxPolicyWrite_kept {Q : List Instr} {v : Word} {s : State} (h_s : Kept Q s) :
  Keeps Q (execDxPolicyWrite v s) := by
  unfold execDxPolicyWrite
  repeat' (first | with_reducible assumption | with_reducible apply State.policyWrite_kept | with_reducible apply kept_next)

theorem State.spillWrite_kept {Q : List Instr} {s : State} {v : Word} (h_s : Kept Q s) :
  Kept Q (State.spillWrite s v) := by
  unfold State.spillWrite
  repeat' (first | with_reducible assumption | with_reducible apply State.setRbit_kept | with_reducible apply State.swReg_kept | split)

theorem execDxSpillWrite_kept {Q : List Instr} {v : Word} {s : State} (h_s : Kept Q s) :
  Keeps Q (execDxSpillWrite v s) := by
  unfold execDxSpillWrite
  repeat' (first | with_reducible assumption | with_reducible apply State.spillWrite_kept | with_reducible apply kept_next)

theorem State.ownareaWrite_kept {Q : List Instr} {s : State} {j : Nat} {v : Word} (h_s : Kept Q s) :
  Kept Q (State.ownareaWrite s j v) := by
  unfold State.ownareaWrite
  repeat' (first | with_reducible assumption | with_reducible apply State.setRbit_kept | with_reducible apply State.swReg_kept | split)

theorem execDxOwnareaWrite_kept {Q : List Instr} {j : Nat} {v : Word} {s : State} (h_s : Kept Q s) :
  Keeps Q (execDxOwnareaWrite j v s) := by
  unfold execDxOwnareaWrite
  repeat' (first | with_reducible assumption | with_reducible apply State.ownareaWrite_kept | with_reducible apply kept_next | split)

end Sys2Proof.Machine
end

