-- ==== Sys2Proof/Laws/KeptHotMap.lean ====
section
/-! SUPPORT. What Machine/HotMap.lean keeps: the queue, and the canonical form of memory and of the register file. -/

set_option linter.unreachableTactic false
set_option linter.unusedTactic false
set_option linter.unusedVariables false
set_option linter.unusedSimpArgs false

namespace Sys2Proof.Machine

theorem State.makeRoom_kept {Q : List Instr} {s : State} {k slice n : Nat} (h_s : Kept Q s) :
  Kept Q (State.makeRoom s k slice n) := by
  unfold State.makeRoom
  repeat' (first | with_reducible assumption | with_reducible apply State.bump_kept | with_reducible apply State.delEnt_kept | with_reducible apply kept_foldl | with_reducible refine fun _ => ?_ | split)

theorem State.pinAnswer_kept {Q : List Instr} {s : State} {h : Hart} {dst status : Nat} (h_s : Kept Q s) :
  Kept Q (State.pinAnswer s h dst status) := by
  unfold State.pinAnswer
  repeat' (first | with_reducible assumption | with_reducible apply State.bump_kept | with_reducible apply State.modCtx_kept | split)

theorem State.loadPa_kept {Q : List Instr} {s : State} {h : Hart} {va : Word} {g : Nat → Bool → State → State} (h_s : Kept Q s) (h_g : ∀ y0 y1 y2, Kept Q y2 → Kept Q (g y0 y1 y2)) :
  Kept Q (State.loadPa s h va g) := by
  unfold State.loadPa
  repeat' (first | with_reducible assumption | with_reducible apply State.modCtx_kept | with_reducible apply State.pageFault_kept | with_reducible apply State.poisonedRead_kept | with_reducible apply State.raise_kept | with_reducible refine State.translate_kept (by assumption) ?_ | with_reducible apply h_g | (extract_lets +onlyGivenNames t; clear_value t) | split)

theorem State.hmPin_kept {Q : List Instr} {s : State} {h : Hart} {dst units pa : Nat} {host : Bool} (h_s : Kept Q s) :
  Kept Q (State.hmPin s h dst units pa host) := by
  unfold State.hmPin
  repeat' (first | with_reducible assumption | with_reducible apply State.hotStart_kept | with_reducible apply State.pinAnswer_kept | with_reducible apply State.setEnt_kept | with_reducible apply State.setRfld_kept | with_reducible apply State.waits_kept | (extract_lets +onlyGivenNames t; (have ht : Kept Q t := (by unfold t; repeat' (first | with_reducible assumption | with_reducible apply State.makeRoom_kept | with_reducible apply State.setEnt_kept))); clear_value t) | (extract_lets +onlyGivenNames t; clear_value t) | split)

theorem execHmPin_kept {Q : List Instr} {h : Hart} {f : FormK} {s : State} (h_s : Kept Q s) :
  Keeps Q (execHmPin h f s) := by
  unfold execHmPin
  repeat' (first | with_reducible assumption | with_reducible apply State.hmPin_kept | with_reducible apply State.issue_kept | with_reducible apply State.loadPa_kept | with_reducible apply kept_next | with_reducible refine fun _ => ?_)

theorem execHmUnpin_kept {Q : List Instr} {h : Hart} {f : FormK} {s : State} (h_s : Kept Q s) :
  Keeps Q (execHmUnpin h f s) := by
  unfold execHmUnpin
  repeat' (first | with_reducible assumption | with_reducible apply State.issue_kept | with_reducible apply State.loadPa_kept | with_reducible apply State.pinAnswer_kept | with_reducible apply State.setRfld_kept | with_reducible apply kept_next | with_reducible refine fun _ => ?_ | (extract_lets +onlyGivenNames t; (have ht : Kept Q t := (by unfold t; repeat' (first | with_reducible assumption | with_reducible apply State.delEnt_kept | with_reducible apply State.setEnt_kept | split))); clear_value t) | (extract_lets +onlyGivenNames t; clear_value t) | split)

theorem execHmUnpinall_kept {Q : List Instr} {h : Hart} {f : FormK} {s : State} (h_s : Kept Q s) :
  Keeps Q (execHmUnpinall h f s) := by
  unfold execHmUnpinall
  repeat' (first | with_reducible assumption | with_reducible apply State.endPins_kept | with_reducible apply State.issue_kept | with_reducible apply State.modCtx_kept | with_reducible apply kept_next | with_reducible refine fun _ => ?_)

theorem execHmLook_kept {Q : List Instr} {h : Hart} {f : FormK} {s : State} (h_s : Kept Q s) :
  Keeps Q (execHmLook h f s) := by
  unfold execHmLook
  repeat' (first | with_reducible assumption | with_reducible apply State.issue_kept | with_reducible apply State.loadPa_kept | with_reducible apply State.modCtx_kept | with_reducible apply kept_next | with_reducible refine fun _ => ?_)

theorem execHmCopyComplete_kept {Q : List Instr} {r : CopyEnd} {s : State} (h_s : Kept Q s) :
  Keeps Q (execHmCopyComplete r s) := by
  unfold execHmCopyComplete
  repeat' (first | with_reducible assumption | with_reducible apply State.hotBad_kept | with_reducible apply State.hotDone_kept | with_reducible apply kept_next | split)

theorem execHmRateTick_kept {Q : List Instr} {s : State} (h_s : Kept Q s) :
  Keeps Q (execHmRateTick s) := by
  unfold execHmRateTick
  repeat' (first | with_reducible assumption | with_reducible apply State.hotTick_kept | with_reducible apply kept_next)

theorem execHmCfgWrite_kept {Q : List Instr} {v : Word} {s : State} (h_s : Kept Q s) :
  Keeps Q (execHmCfgWrite v s) := by
  unfold execHmCfgWrite
  repeat' (first | with_reducible assumption | with_reducible apply State.setRbit_kept | with_reducible apply kept_next | (extract_lets +onlyGivenNames t; (have ht : Kept Q t := (by unfold t; repeat' (first | with_reducible assumption | with_reducible apply State.swReg_kept))); clear_value t) | (extract_lets +onlyGivenNames t; clear_value t) | split)

theorem execHmPinqWrite_kept {Q : List Instr} {j : Nat} {v : Word} {s : State} (h_s : Kept Q s) :
  Keeps Q (execHmPinqWrite j v s) := by
  unfold execHmPinqWrite
  repeat' (first | with_reducible assumption | with_reducible apply State.setRbit_kept | with_reducible apply State.swReg_kept | with_reducible apply kept_next | (extract_lets +onlyGivenNames t; clear_value t) | split)

end Sys2Proof.Machine
end

