-- ==== Sys2Proof/Laws/KeptLanine.lean ====
section
/-! SUPPORT. What Machine/Lanine.lean keeps: the queue, and the canonical form of memory and of the register file. -/

set_option linter.unreachableTactic false
set_option linter.unusedTactic false
set_option linter.unusedVariables false
set_option linter.unusedSimpArgs false

namespace Sys2Proof.Machine

theorem State.setLan_kept {Q : List Instr} {s : State} {l : Lan} (h_s : Kept Q s) :
  Kept Q (State.setLan s l) := by
  unfold State.setLan
  repeat' (first | with_reducible assumption | (simp only [kept_mk]; with_reducible apply kept_fold))

theorem State.lanDrain_kept {Q : List Instr} {s : State} (h_s : Kept Q s) :
  Kept Q (State.lanDrain s) := by
  unfold State.lanDrain
  repeat' (first | with_reducible assumption | with_reducible apply State.setLan_kept | (extract_lets +onlyGivenNames t; (have ht : Kept Q t.1 := (by unfold t; repeat' (first | with_reducible assumption | with_reducible apply State.lanEmit_kept | with_reducible apply kept_foldl_fst | with_reducible refine fun _ => ?_ | split))); clear_value t) | (extract_lets +onlyGivenNames t; clear_value t) | split)

theorem State.hostReport_kept {Q : List Instr} {s : State} {who : HostWho} {line : Nat} {timeout : Bool} (h_s : Kept Q s) :
  Kept Q (State.hostReport s who line timeout) := by
  unfold State.hostReport
  repeat' (first | with_reducible assumption | with_reducible apply State.report_kept)

theorem State.hostPoison_kept {Q : List Instr} {s : State} {r : HostReq} {timeout : Bool} (h_s : Kept Q s) :
  Kept Q (State.hostPoison s r timeout) := by
  unfold State.hostPoison
  repeat' (first | with_reducible assumption | with_reducible apply State.modCtx_kept | with_reducible apply State.skFault_kept | (extract_lets +onlyGivenNames t; (have ht : Kept Q t := (by unfold t; repeat' (first | with_reducible assumption | with_reducible apply State.hostReport_kept | (simp only [kept_mk]; with_reducible apply kept_fold)))); clear_value t) | split)

theorem State.hostLost_kept {Q : List Instr} {s : State} {r : HostReq} (h_s : Kept Q s) :
  Kept Q (State.hostLost s r) := by
  unfold State.hostLost
  repeat' (first | with_reducible assumption | with_reducible apply State.bump_kept | with_reducible apply State.hostPoison_kept)

theorem State.dropHostLines_kept {Q : List Instr} {s : State} (h_s : Kept Q s) :
  Kept Q (State.dropHostLines s) := by
  unfold State.dropHostLines
  repeat' (first | with_reducible assumption | with_reducible apply State.report_kept | (simp only [kept_mk]; with_reducible apply kept_fold) | with_reducible apply kept_foldl | with_reducible refine fun _ => ?_)

theorem State.lanDown_kept {Q : List Instr} {s : State} (h_s : Kept Q s) :
  Kept Q (State.lanDown s) := by
  unfold State.lanDown
  repeat' (first | with_reducible assumption | with_reducible apply State.alert_kept | with_reducible apply State.dropHostLines_kept | (extract_lets +onlyGivenNames t; (have ht : Kept Q t := (by unfold t; repeat' (first | with_reducible assumption | with_reducible apply State.bump_kept | with_reducible apply State.hostLost_kept | with_reducible apply State.report_kept | with_reducible apply State.setRfld_kept | (simp only [kept_mk]; with_reducible apply kept_fold) | with_reducible apply kept_foldl))); clear_value t) | (extract_lets +onlyGivenNames t; clear_value t) | split)

theorem State.lanRetrain_kept {Q : List Instr} {s : State} (h_s : Kept Q s) :
  Kept Q (State.lanRetrain s) := by
  unfold State.lanRetrain
  repeat' (first | with_reducible assumption | with_reducible apply State.lanDown_kept | with_reducible apply State.setRbit_kept | (extract_lets +onlyGivenNames t; (have ht : Kept Q t := (by unfold t; repeat' (first | with_reducible assumption | with_reducible apply State.bump_kept | with_reducible apply State.setLan_kept))); clear_value t) | (extract_lets +onlyGivenNames t; clear_value t) | split)

theorem State.lanReplay_kept {Q : List Instr} {s : State} (h_s : Kept Q s) :
  Kept Q (State.lanReplay s) := by
  unfold State.lanReplay
  repeat' (first | with_reducible assumption | with_reducible apply State.bumpBy_kept | with_reducible apply State.setLan_kept)

theorem State.spareLane_kept {Q : List Instr} {s : State} {rx : Bool} {lane : Nat} (h_s : Kept Q s) :
  Kept Q (State.spareLane s rx lane) := by
  unfold State.spareLane
  repeat' (first | with_reducible assumption | with_reducible apply State.bump_kept | with_reducible apply State.report_kept | with_reducible apply State.setLan_kept | with_reducible apply State.setRfld_kept | (extract_lets +onlyGivenNames t; clear_value t) | split)

theorem State.placeLanes_kept {Q : List Instr} {s : State} {rx tx : List Nat} (h_s : Kept Q s) :
  Kept Q (State.placeLanes s rx tx) := by
  unfold State.placeLanes
  repeat' (first | with_reducible assumption | with_reducible apply State.setLan_kept | with_reducible apply State.setRbit_kept | with_reducible apply State.spareLane_kept | with_reducible apply kept_foldl | with_reducible refine fun _ => ?_)

theorem State.lanNak_kept {Q : List Instr} {s : State} (h_s : Kept Q s) :
  Kept Q (State.lanNak s) := by
  unfold State.lanNak
  repeat' (first | with_reducible assumption | with_reducible apply State.lanRetrain_kept | (extract_lets +onlyGivenNames t; (have ht : Kept Q t := (by unfold t; repeat' (first | with_reducible assumption | (simp only [kept_mk]; with_reducible apply kept_fold)))); clear_value t) | (extract_lets +onlyGivenNames t; clear_value t) | split)

theorem State.flitFail_kept {Q : List Instr} {s : State} (h_s : Kept Q s) :
  Kept Q (State.flitFail s) := by
  unfold State.flitFail
  repeat' (first | with_reducible assumption | with_reducible apply State.lanNak_kept | (extract_lets +onlyGivenNames t; (have ht : Kept Q t := (by unfold t; repeat' (first | with_reducible assumption | with_reducible apply State.bump_kept))); clear_value t) | split)

theorem State.flitHeader_kept {Q : List Instr} {s : State} {f : Flit} (h_s : Kept Q s) :
  Kept Q (State.flitHeader s f) := by
  unfold State.flitHeader
  repeat' (first | with_reducible assumption | with_reducible apply State.lanDrain_kept | with_reducible apply State.lanRetrain_kept | with_reducible apply State.setLan_kept | (extract_lets +onlyGivenNames t; (have ht : Kept Q t := (by unfold t; repeat' (first | with_reducible assumption | with_reducible apply State.lanReplay_kept | with_reducible apply State.setLan_kept))); clear_value t) | (extract_lets +onlyGivenNames t; clear_value t) | split)

theorem execFlitReceive_kept {Q : List Instr} {f : Flit} {s : State} (h_s : Kept Q s) :
  Keeps Q (execFlitReceive f s) := by
  unfold execFlitReceive
  repeat' (first | with_reducible assumption | with_reducible apply State.flitFail_kept | with_reducible apply State.flitHeader_kept | with_reducible apply State.lanRetrain_kept | with_reducible apply State.setLan_kept | with_reducible apply kept_next | (extract_lets +onlyGivenNames t; (have ht : Kept Q t := (by unfold t; repeat' (first | with_reducible assumption | with_reducible apply State.bumpBy_kept | with_reducible apply State.flitFail_kept | with_reducible apply State.setLan_kept))); clear_value t) | (extract_lets +onlyGivenNames t; clear_value t) | split)

theorem execNakTimeout_kept {Q : List Instr} {s : State} (h_s : Kept Q s) :
  Keeps Q (execNakTimeout s) := by
  unfold execNakTimeout
  repeat' (first | with_reducible assumption | with_reducible apply State.lanNak_kept | with_reducible apply kept_next | split)

theorem execLanineRetrain_kept {Q : List Instr} {s : State} (h_s : Kept Q s) :
  Keeps Q (execLanineRetrain s) := by
  unfold execLanineRetrain
  repeat' (first | with_reducible assumption | with_reducible apply State.lanRetrain_kept | with_reducible apply kept_next)

theorem execLanineRetrainEnd_kept {Q : List Instr} {r : TrainResult} {s : State} (h_s : Kept Q s) :
  Keeps Q (execLanineRetrainEnd r s) := by
  unfold execLanineRetrainEnd
  repeat' (first | with_reducible assumption | with_reducible apply State.lanDown_kept | with_reducible apply State.lanDrain_kept | with_reducible apply State.lanReplay_kept | with_reducible apply kept_next | (extract_lets +onlyGivenNames t; (have ht : Kept Q t := (by unfold t; repeat' (first | with_reducible assumption | with_reducible apply State.placeLanes_kept | with_reducible apply State.setLan_kept | with_reducible apply State.setRbit_kept))); clear_value t) | (extract_lets +onlyGivenNames t; clear_value t) | split)

theorem execLaneErrorWindow_kept {Q : List Instr} {rx tx : List Nat} {s : State} (h_s : Kept Q s) :
  Keeps Q (execLaneErrorWindow rx tx s) := by
  unfold execLaneErrorWindow
  repeat' (first | with_reducible assumption | with_reducible apply State.lanRetrain_kept | with_reducible apply kept_next | (extract_lets +onlyGivenNames t; (have ht : Kept Q t := (by unfold t; repeat' (first | with_reducible assumption | with_reducible apply State.setLan_kept))); clear_value t) | (extract_lets +onlyGivenNames t; clear_value t) | split)

theorem execLanineLinkDown_kept {Q : List Instr} {s : State} (h_s : Kept Q s) :
  Keeps Q (execLanineLinkDown s) := by
  unfold execLanineLinkDown
  repeat' (first | with_reducible assumption | with_reducible apply State.lanDown_kept | with_reducible apply kept_next)

theorem State.showPgres_kept {Q : List Instr} {s : State} (h_s : Kept Q s) :
  Kept Q (State.showPgres s) := by
  unfold State.showPgres
  repeat' (first | with_reducible assumption | with_reducible apply State.setReg_kept | split)

theorem State.pgreqSend_kept {Q : List Instr} {s : State} (h_s : Kept Q s) :
  Kept Q (State.pgreqSend s) := by
  unfold State.pgreqSend
  repeat' (first | with_reducible assumption | with_reducible apply State.setLan_kept | (extract_lets +onlyGivenNames t; (have ht : Kept Q t := (by unfold t; repeat' (first | with_reducible assumption | with_reducible apply State.send_kept | with_reducible apply State.setRbit_kept))); clear_value t) | (extract_lets +onlyGivenNames t; clear_value t) | split)

theorem State.pgreqWrite_kept {Q : List Instr} {s : State} {v : Word} (h_s : Kept Q s) :
  Kept Q (State.pgreqWrite s v) := by
  unfold State.pgreqWrite
  repeat' (first | with_reducible assumption | with_reducible apply State.pgreqSend_kept | with_reducible apply State.setReg_kept | (extract_lets +onlyGivenNames t; clear_value t) | split)

theorem execLnPgreqSend_kept {Q : List Instr} {v : Word} {s : State} (h_s : Kept Q s) :
  Keeps Q (execLnPgreqSend v s) := by
  unfold execLnPgreqSend
  repeat' (first | with_reducible assumption | with_reducible apply State.pgreqWrite_kept | with_reducible apply kept_next | split)

theorem State.pgresPop_kept {Q : List Instr} {s : State} (h_s : Kept Q s) :
  Kept Q (State.pgresPop s) := by
  unfold State.pgresPop
  repeat' (first | with_reducible assumption | with_reducible apply State.setLan_kept | with_reducible apply State.showPgres_kept)

theorem execLnPgresPop_kept {Q : List Instr} {s : State} (h_s : Kept Q s) :
  Keeps Q (execLnPgresPop s) := by
  unfold execLnPgresPop
  repeat' (first | with_reducible assumption | with_reducible apply State.pgresPop_kept | with_reducible apply kept_next | split)

theorem execPageDone_kept {Q : List Instr} {id st : Nat} {s : State} (h_s : Kept Q s) :
  Keeps Q (execPageDone id st s) := by
  unfold execPageDone
  repeat' (first | with_reducible assumption | with_reducible apply State.setLan_kept | with_reducible apply State.showPgres_kept | with_reducible apply kept_next | (extract_lets +onlyGivenNames t; clear_value t) | split)

theorem execPageDoneTimeout_kept {Q : List Instr} {id : Nat} {s : State} (h_s : Kept Q s) :
  Keeps Q (execPageDoneTimeout id s) := by
  unfold execPageDoneTimeout
  repeat' (first | with_reducible assumption | with_reducible apply State.setLan_kept | with_reducible apply kept_next)

theorem execLanineLinkUp_kept {Q : List Instr} {u : LinkUp} {s : State} (h_s : Kept Q s) :
  Keeps Q (execLanineLinkUp u s) := by
  unfold execLanineLinkUp
  repeat' (first | with_reducible assumption | with_reducible apply State.intrTry_kept | with_reducible apply kept_next | with_reducible apply kept_foldl | with_reducible refine fun _ => ?_ | (extract_lets +onlyGivenNames t; (have ht : Kept Q t := (by unfold t; repeat' (first | with_reducible assumption | with_reducible apply State.pgreqSend_kept | with_reducible apply State.placeLanes_kept | with_reducible apply State.setRfld_kept | (simp only [kept_mk]; with_reducible apply kept_fold)))); clear_value t) | (extract_lets +onlyGivenNames t; clear_value t) | split)

theorem execIntrHoldoffExpire_kept {Q : List Instr} {r : Nat} {s : State} (h_s : Kept Q s) :
  Keeps Q (execIntrHoldoffExpire r s) := by
  unfold execIntrHoldoffExpire
  repeat' (first | with_reducible assumption | with_reducible apply State.intrTry_kept | with_reducible apply kept_next | split)

theorem State.hostErr_kept {Q : List Instr} {s : State} {tag code : Nat} (h_s : Kept Q s) :
  Kept Q (State.hostErr s tag code) := by
  unfold State.hostErr
  repeat' (first | with_reducible assumption | with_reducible apply State.bump_kept | with_reducible apply State.send_kept)

theorem State.linkWrite_kept {Q : List Instr} {s : State} {line : Nat} {d : List Byte} {be : Word} {pmask : Byte} (h_s : Kept Q s) :
  Kept Q (State.linkWrite s line d be pmask) := by
  unfold State.linkWrite
  repeat' (first | with_reducible assumption | with_reducible apply State.countLoad_kept | with_reducible apply State.invalidate_kept | with_reducible apply State.report_kept | with_reducible apply kept_foldl | with_reducible refine fun _ => ?_ | (extract_lets +onlyGivenNames t; (have ht : Kept Q t := (by unfold t; repeat' (first | with_reducible assumption | with_reducible apply State.addPoison_kept | with_reducible apply State.wrN_kept | with_reducible apply State.wrRaw_kept | with_reducible apply kept_foldl | with_reducible refine fun _ => ?_ | split))); clear_value t) | (extract_lets +onlyGivenNames t; clear_value t) | split)

theorem State.dirAdd_kept {Q : List Instr} {s : State} {line : Nat} {owned : Bool} (h_s : Kept Q s) :
  Kept Q (State.dirAdd s line owned) := by
  unfold State.dirAdd
  repeat' (first | with_reducible assumption | (simp only [kept_mk]; with_reducible apply kept_fold))

theorem State.dirDrop_kept {Q : List Instr} {s : State} {line : Nat} (h_s : Kept Q s) :
  Kept Q (State.dirDrop s line) := by
  unfold State.dirDrop
  repeat' (first | with_reducible assumption | (simp only [kept_mk]; with_reducible apply kept_fold))

theorem State.dirRoom_kept {Q : List Instr} {s : State} {line : Nat} {g : State → State} (h_s : Kept Q s) (h_g : ∀ y0, Kept Q y0 → Kept Q (g y0)) :
  Kept Q (State.dirRoom s line g) := by
  unfold State.dirRoom
  repeat' (first | with_reducible assumption | with_reducible apply State.bump_kept | with_reducible apply State.sendSnoop_kept | with_reducible apply h_g | (extract_lets +onlyGivenNames t; clear_value t) | split)

theorem State.hostPoisonRead_kept {Q : List Instr} {s : State} {pa : Nat} (h_s : Kept Q s) :
  Kept Q (State.hostPoisonRead s pa) := by
  unfold State.hostPoisonRead
  repeat' (first | with_reducible assumption | with_reducible apply State.bump_kept | with_reducible apply State.report_kept | with_reducible apply State.setReg_kept)

theorem State.hostHome_kept {Q : List Instr} {s : State} {tag addr : Nat} {g : Nat → Nat → State → State} (h_s : Kept Q s) (h_g : ∀ y0 y1 y2, Kept Q y2 → Kept Q (g y0 y1 y2)) :
  Keeps Q (State.hostHome s tag addr g) := by
  unfold State.hostHome
  repeat' (first | with_reducible assumption | with_reducible apply State.hostErr_kept | with_reducible apply h_g | with_reducible apply kept_next | split)

theorem State.hostData_kept {Q : List Instr} {s : State} {tag line st : Nat} (h_s : Kept Q s) :
  Kept Q (State.hostData s tag line st) := by
  unfold State.hostData
  repeat' (first | with_reducible assumption | with_reducible apply State.countLoad_kept | with_reducible apply State.hostErr_kept | with_reducible apply State.hostPoisonRead_kept | with_reducible apply State.send_kept | split)

theorem State.hostRead_kept {Q : List Instr} {s : State} {tag line vis st : Nat} {hold : Option Bool} (h_s : Kept Q s) :
  Kept Q (State.hostRead s tag line vis st hold) := by
  unfold State.hostRead
  repeat' (first | with_reducible assumption | with_reducible apply State.dirAdd_kept | with_reducible apply State.dirRoom_kept | with_reducible apply State.hostData_kept | with_reducible apply State.hostErr_kept | with_reducible apply State.invalidate_kept | with_reducible apply State.memSnoop_kept | with_reducible refine fun _ => ?_ | split)

theorem execRdShr_kept {Q : List Instr} {tag line : Nat} {s : State} (h_s : Kept Q s) :
  Keeps Q (execRdShr tag line s) := by
  unfold execRdShr
  repeat' (first | with_reducible assumption | with_reducible apply State.hostHome_kept | with_reducible apply State.hostRead_kept | with_reducible refine fun _ => ?_)

theorem execRdOwn_kept {Q : List Instr} {tag line : Nat} {s : State} (h_s : Kept Q s) :
  Keeps Q (execRdOwn tag line s) := by
  unfold execRdOwn
  repeat' (first | with_reducible assumption | with_reducible apply State.hostHome_kept | with_reducible apply State.hostRead_kept | with_reducible refine fun _ => ?_)

theorem execRdCur_kept {Q : List Instr} {tag line : Nat} {s : State} (h_s : Kept Q s) :
  Keeps Q (execRdCur tag line s) := by
  unfold execRdCur
  repeat' (first | with_reducible assumption | with_reducible apply State.hostHome_kept | with_reducible apply State.hostRead_kept | with_reducible refine fun _ => ?_)

theorem State.hostWriteReq_kept {Q : List Instr} {s : State} {tag line vis : Nat} {d : List Byte} {be : Word} {pmask : Byte} (h_s : Kept Q s) :
  Kept Q (State.hostWriteReq s tag line vis d be pmask) := by
  unfold State.hostWriteReq
  repeat' (first | with_reducible assumption | with_reducible apply State.dirDrop_kept | with_reducible apply State.hostErr_kept | with_reducible apply State.linkWrite_kept | with_reducible apply State.send_kept | split)

theorem execWrLine_kept {Q : List Instr} {tag line : Nat} {d : List Byte} {pmask : Byte} {s : State} (h_s : Kept Q s) :
  Keeps Q (execWrLine tag line d pmask s) := by
  unfold execWrLine
  repeat' (first | with_reducible assumption | with_reducible apply State.hostHome_kept | with_reducible apply State.hostWriteReq_kept | with_reducible refine fun _ => ?_)

theorem execWrPtl_kept {Q : List Instr} {tag line : Nat} {be : Word} {d : List Byte} {pmask : Byte} {s : State} (h_s : Kept Q s) :
  Keeps Q (execWrPtl tag line be d pmask s) := by
  unfold execWrPtl
  repeat' (first | with_reducible assumption | with_reducible apply State.hostHome_kept | with_reducible apply State.hostWriteReq_kept | with_reducible refine fun _ => ?_)

theorem execWbDirty_kept {Q : List Instr} {tag line : Nat} {d : List Byte} {pmask : Byte} {s : State} (h_s : Kept Q s) :
  Keeps Q (execWbDirty tag line d pmask s) := by
  unfold execWbDirty
  repeat' (first | with_reducible assumption | with_reducible apply State.hostErr_kept | with_reducible apply State.send_kept | with_reducible apply kept_next | (extract_lets +onlyGivenNames t; (have ht : Kept Q t := (by unfold t; repeat' (first | with_reducible assumption | with_reducible apply State.dirDrop_kept | with_reducible apply State.linkWrite_kept | (simp only [kept_mk]; with_reducible apply kept_fold) | split))); clear_value t) | (extract_lets +onlyGivenNames t; clear_value t) | split)

theorem execEvictClean_kept {Q : List Instr} {tag line : Nat} {s : State} (h_s : Kept Q s) :
  Keeps Q (execEvictClean tag line s) := by
  unfold execEvictClean
  repeat' (first | with_reducible assumption | with_reducible apply State.dirDrop_kept | with_reducible apply State.hostErr_kept | with_reducible apply State.send_kept | with_reducible apply kept_next | split)

theorem execSrsp_kept {Q : List Instr} {tag line st : Nat} {s : State} (h_s : Kept Q s) :
  Keeps Q (execSrsp tag line st s) := by
  unfold execSrsp
  repeat' (first | with_reducible assumption | with_reducible apply State.dirDrop_kept | with_reducible apply kept_next | (simp only [kept_mk]; with_reducible apply kept_fold) | (extract_lets +onlyGivenNames t; (have ht : Kept Q t := (by unfold t; repeat' (first | with_reducible assumption | (simp only [kept_mk]; with_reducible apply kept_fold)))); clear_value t) | split)

theorem execSrspData_kept {Q : List Instr} {tag line st : Nat} {d : List Byte} {pmask : Byte} {s : State} (h_s : Kept Q s) :
  Keeps Q (execSrspData tag line st d pmask s) := by
  unfold execSrspData
  repeat' (first | with_reducible assumption | with_reducible apply State.dirDrop_kept | with_reducible apply kept_next | (simp only [kept_mk]; with_reducible apply kept_fold) | (extract_lets +onlyGivenNames t; (have ht : Kept Q t := (by unfold t; repeat' (first | with_reducible assumption | with_reducible apply State.linkWrite_kept | (simp only [kept_mk]; with_reducible apply kept_fold)))); clear_value t) | split)

theorem execSnoopTimeout_kept {Q : List Instr} {tag : Nat} {s : State} (h_s : Kept Q s) :
  Keeps Q (execSnoopTimeout tag s) := by
  unfold execSnoopTimeout
  repeat' (first | with_reducible assumption | with_reducible apply State.lanDown_kept | with_reducible apply kept_next | split)

theorem State.hostSnoop_kept {Q : List Instr} {s : State} {tag addr : Nat} {inv : Bool} (h_s : Kept Q s) :
  Kept Q (State.hostSnoop s tag addr inv) := by
  unfold State.hostSnoop
  repeat' (first | with_reducible assumption | with_reducible apply State.send_kept | (extract_lets +onlyGivenNames t; (have ht : Kept Q t := (by unfold t; repeat' (first | with_reducible assumption | with_reducible apply State.invalidate_kept | with_reducible apply State.snoop_kept | split))); clear_value t) | (extract_lets +onlyGivenNames t; clear_value t) | split)

theorem execSnpInv_kept {Q : List Instr} {tag line : Nat} {s : State} (h_s : Kept Q s) :
  Keeps Q (execSnpInv tag line s) := by
  unfold execSnpInv
  repeat' (first | with_reducible assumption | with_reducible apply State.hostSnoop_kept | with_reducible apply kept_next | split)

theorem execSnpShr_kept {Q : List Instr} {tag line : Nat} {s : State} (h_s : Kept Q s) :
  Keeps Q (execSnpShr tag line s) := by
  unfold execSnpShr
  repeat' (first | with_reducible assumption | with_reducible apply State.hostSnoop_kept | with_reducible apply kept_next | split)

theorem execData_kept {Q : List Instr} {tag st : Nat} {d : List Byte} {pmask : Byte} {s : State} (h_s : Kept Q s) :
  Keeps Q (execData tag st d pmask s) := by
  unfold execData
  repeat' (first | with_reducible assumption | with_reducible apply State.hostCoreDone_kept | with_reducible apply State.hostFill_kept | with_reducible apply State.hostPoison_kept | with_reducible apply State.setSk_kept | with_reducible apply kept_next | (extract_lets +onlyGivenNames t; (have ht : Kept Q t := (by unfold t; repeat' (first | with_reducible assumption | (simp only [kept_mk]; with_reducible apply kept_fold)))); clear_value t) | split)

theorem execCmp_kept {Q : List Instr} {tag : Nat} {s : State} (h_s : Kept Q s) :
  Keeps Q (execCmp tag s) := by
  unfold execCmp
  repeat' (first | with_reducible assumption | with_reducible apply State.hostCoreDone_kept | with_reducible apply State.setSk_kept | with_reducible apply kept_next | (extract_lets +onlyGivenNames t; (have ht : Kept Q t := (by unfold t; repeat' (first | with_reducible assumption | (simp only [kept_mk]; with_reducible apply kept_fold)))); clear_value t) | split)

theorem execErr_kept {Q : List Instr} {tag code : Nat} {s : State} (h_s : Kept Q s) :
  Keeps Q (execErr tag code s) := by
  unfold execErr
  repeat' (first | with_reducible assumption | with_reducible apply State.modCtx_kept | with_reducible apply State.pageFault_kept | with_reducible apply State.raise_kept | with_reducible apply State.skHalt_kept | with_reducible apply State.skStop_kept | with_reducible apply kept_next | (extract_lets +onlyGivenNames t; (have ht : Kept Q t := (by unfold t; repeat' (first | with_reducible assumption | (simp only [kept_mk]; with_reducible apply kept_fold)))); clear_value t) | split)

theorem execLanineRequestTimeout_kept {Q : List Instr} {tag : Nat} {s : State} (h_s : Kept Q s) :
  Keeps Q (execLanineRequestTimeout tag s) := by
  unfold execLanineRequestTimeout
  repeat' (first | with_reducible assumption | with_reducible apply State.hostLost_kept | with_reducible apply kept_next | split)

theorem State.takeDoorbell_kept {Q : List Instr} {s : State} {r : Nat} (h_s : Kept Q s) :
  Kept Q (State.takeDoorbell s r) := by
  unfold State.takeDoorbell
  repeat' (first | with_reducible assumption | with_reducible apply State.bump_kept | with_reducible apply State.post_kept | with_reducible apply State.setRing_kept | (extract_lets +onlyGivenNames t; clear_value t) | split)

theorem execDoorbell_kept {Q : List Instr} {r tail : Nat} {s : State} (h_s : Kept Q s) :
  Keeps Q (execDoorbell r tail s) := by
  unfold execDoorbell
  repeat' (first | with_reducible assumption | with_reducible apply State.bump_kept | with_reducible apply State.setReg_kept | with_reducible apply State.takeDoorbell_kept | with_reducible apply kept_next | split)

end Sys2Proof.Machine
end

