-- ==== Sys2Proof/Laws/KeptRecovery.lean ====
section
/-! SUPPORT. What Machine/Recovery.lean keeps: the queue, and the canonical form of memory and of the register file. -/

set_option linter.unreachableTactic false
set_option linter.unusedTactic false
set_option linter.unusedVariables false
set_option linter.unusedSimpArgs false

namespace Sys2Proof.Machine

theorem State.restoreTask_kept {Q : List Instr} {s : State} {x : Captured} (h_s : Kept Q s) :
  Kept Q (State.restoreTask s x) := by
  unfold State.restoreTask
  repeat' (first | with_reducible assumption | with_reducible apply State.putSaved_kept | with_reducible apply State.setDx_kept | (extract_lets +onlyGivenNames t; clear_value t) | split)

theorem State.restoreOps_kept {Q : List Instr} {s : State} {im : Image} {j k : Nat} (h_s : Kept Q s) :
  Kept Q (State.restoreOps s im j k) := by
  unfold State.restoreOps
  repeat' (first | with_reducible assumption | with_reducible apply State.modCl_kept | with_reducible apply State.putCells_kept | (extract_lets +onlyGivenNames t; (have ht : Kept Q t := (by unfold t; repeat' (first | with_reducible assumption | with_reducible apply State.modCl_kept | (simp only [kept_mk]; with_reducible apply kept_fold) | with_reducible apply kept_foldl | with_reducible refine fun _ => ?_ | (extract_lets +onlyGivenNames t; (have ht : Kept Q t := (by unfold t; repeat' (first | with_reducible assumption | with_reducible apply State.modCl_kept | (simp only [kept_mk]; with_reducible apply kept_fold) | with_reducible apply kept_foldl | with_reducible refine fun _ => ?_ | split))); clear_value t) | split))); clear_value t) | (extract_lets +onlyGivenNames t; clear_value t) | split)

theorem State.restoreMarks_kept {Q : List Instr} {s : State} {im : Image} {j : Nat} (h_s : Kept Q s) :
  Kept Q (State.restoreMarks s im j) := by
  unfold State.restoreMarks
  repeat' (first | with_reducible assumption | with_reducible apply State.mapCount_kept | with_reducible apply State.setMarkRt_kept | with_reducible apply State.setReg_kept | with_reducible apply kept_foldl | with_reducible refine fun _ => ?_ | (extract_lets +onlyGivenNames t; clear_value t) | split)

theorem State.pinNow_kept {Q : List Instr} {s : State} {home j : Nat} {p : HotPend} (h_s : Kept Q s) :
  Kept Q (State.pinNow s home j p) := by
  unfold State.pinNow
  repeat' (first | with_reducible assumption | with_reducible apply State.bump_kept | with_reducible apply State.setEnt_kept | (extract_lets +onlyGivenNames t; (have ht : Kept Q t := (by unfold t; repeat' (first | with_reducible assumption | with_reducible apply State.hotDone_kept | with_reducible apply State.setEnt_kept))); clear_value t) | split)

theorem State.rePin_kept {Q : List Instr} {s : State} {j home units : Nat} (h_s : Kept Q s) :
  Kept Q (State.rePin s j home units) := by
  unfold State.rePin
  dsimp only
  repeat' split
  all_goals (first
    | exact State.bump_kept h_s
    | exact State.setRfld_kept (State.setEnt_kept h_s)
    | exact State.pinNow_kept h_s
    | exact State.pinNow_kept (State.hotStart_kept (State.makeRoom_kept h_s))
    | exact State.bump_kept (State.makeRoom_kept h_s))

theorem State.restorePins_kept {Q : List Instr} {s : State} {im : Image} {j : Nat} (h_s : Kept Q s) :
  Kept Q (State.restorePins s im j) := by
  unfold State.restorePins
  repeat' (first | with_reducible assumption | with_reducible apply State.endPins_kept | with_reducible apply State.rePin_kept | with_reducible apply kept_foldl | with_reducible refine fun _ => ?_)

theorem State.restoreRings_kept {Q : List Instr} {s : State} {im : Image} {j : Nat} (h_s : Kept Q s) :
  Kept Q (State.restoreRings s im j) := by
  unfold State.restoreRings
  repeat' (first | with_reducible assumption | with_reducible apply State.homeForce_kept | with_reducible apply kept_foldl | with_reducible refine fun _ => ?_ | split)

theorem State.dropCached_kept {Q : List Instr} {s : State} {inRange : Nat → Bool} (h_s : Kept Q s) :
  Kept Q (State.dropCached s inRange) := by
  unfold State.dropCached
  repeat' (first | with_reducible assumption | (simp only [kept_mk]; with_reducible apply kept_fold))

theorem State.restoreMem_kept {Q : List Instr} {s : State} {im : Image} {j : Nat} (h_s : Kept Q s) :
  Kept Q (State.restoreMem s im j) := by
  unfold State.restoreMem
  repeat' (first | with_reducible assumption | with_reducible apply State.dropCached_kept | with_reducible apply State.putCells_kept | (simp only [kept_mk]; with_reducible apply kept_fold))

theorem State.restoreSheets_kept {Q : List Instr} {s : State} {im : Image} {j : Nat} (h_s : Kept Q s) :
  Kept Q (State.restoreSheets s im j) := by
  unfold State.restoreSheets
  repeat' (first | with_reducible assumption | with_reducible apply State.putCells_kept | with_reducible apply kept_foldl | with_reducible refine fun _ => ?_)

theorem State.restoreQueues_kept {Q : List Instr} {s : State} {im : Image} {j : Nat} (h_s : Kept Q s) :
  Kept Q (State.restoreQueues s im j) := by
  unfold State.restoreQueues
  repeat' (first | with_reducible assumption | with_reducible apply State.setDx_kept)

theorem State.restoreTables_kept {Q : List Instr} {s : State} {im : Image} {j : Nat} (h_s : Kept Q s) :
  Kept Q (State.restoreTables s im j) := by
  unfold State.restoreTables
  repeat' (first | with_reducible assumption | (simp only [kept_mk]; with_reducible apply kept_fold))

theorem State.restorePubs_kept {Q : List Instr} {s : State} {im : Image} {j : Nat} (h_s : Kept Q s) :
  Kept Q (State.restorePubs s im j) := by
  unfold State.restorePubs
  repeat' (first | with_reducible assumption | (simp only [kept_mk]; with_reducible apply kept_fold))

theorem State.restoreBuilds_kept {Q : List Instr} {s : State} {im : Image} {j : Nat} (h_s : Kept Q s) :
  Kept Q (State.restoreBuilds s im j) := by
  unfold State.restoreBuilds
  repeat' (first | with_reducible assumption | with_reducible apply State.buildBegin_kept | with_reducible apply kept_foldl | with_reducible refine fun _ => ?_ | split)

theorem State.placeJob_kept {Q : List Instr} {s : State} {im : Image} {j : Nat} (h_s : Kept Q s) :
  Kept Q (State.placeJob s im j) := by
  unfold State.placeJob
  repeat' (first | with_reducible assumption | with_reducible apply State.reclaim_kept | with_reducible apply State.restoreBuilds_kept | with_reducible apply State.restoreMarks_kept | with_reducible apply State.restoreMem_kept | with_reducible apply State.restoreOps_kept | with_reducible apply State.restorePins_kept | with_reducible apply State.restorePubs_kept | with_reducible apply State.restoreQueues_kept | with_reducible apply State.restoreRings_kept | with_reducible apply State.restoreSheets_kept | with_reducible apply State.restoreTables_kept | with_reducible apply State.restoreTask_kept | with_reducible apply State.setJob_kept | with_reducible apply State.setRbit_kept | (simp only [kept_mk]; with_reducible apply kept_fold) | with_reducible apply kept_foldl | with_reducible refine fun _ => ?_)

theorem State.restoreJob_kept {Q : List Instr} {s : State} {im : Image} {j : Nat} (h_s : Kept Q s) :
  Kept Q (State.restoreJob s im j) := by
  unfold State.restoreJob
  repeat' (first | with_reducible assumption | with_reducible apply State.dropNear_kept | with_reducible apply State.dropTasks_kept | with_reducible apply State.placeJob_kept)

theorem State.postResumed_kept {Q : List Instr} {s : State} {j cause record : Nat} (h_s : Kept Q s) :
  Kept Q (State.postResumed s j cause record) := by
  unfold State.postResumed
  repeat' (first | with_reducible assumption | with_reducible apply State.post_kept)

end Sys2Proof.Machine
end

