-- ==== Sys2Proof/Laws/KeptTwinOps.lean ====
section
/-! SUPPORT. What Machine/TwinOps.lean keeps: the queue, and the canonical form of memory and of the register file. -/

set_option linter.unreachableTactic false
set_option linter.unusedTactic false
set_option linter.unusedVariables false
set_option linter.unusedSimpArgs false

namespace Sys2Proof.Machine

theorem State.setTwin_kept {Q : List Instr} {s : State} {t : Twin} (h_s : Kept Q s) :
  Kept Q (State.setTwin s t) := by
  unfold State.setTwin
  repeat' (first | with_reducible assumption | (simp only [kept_mk]; with_reducible apply kept_fold))

theorem State.faultPin_kept {Q : List Instr} {s : State} (h_s : Kept Q s) :
  Kept Q (State.faultPin s) := by
  unfold State.faultPin
  repeat' (first | with_reducible assumption | with_reducible apply State.setRbit_kept)

theorem State.cbDiscard_kept {Q : List Instr} {s : State} (h_s : Kept Q s) :
  Kept Q (State.cbDiscard s) := by
  unfold State.cbDiscard
  repeat' (first | with_reducible assumption | with_reducible apply State.setTwin_kept)

theorem State.cbDown_kept {Q : List Instr} {s : State} (h_s : Kept Q s) :
  Kept Q (State.cbDown s) := by
  unfold State.cbDown
  repeat' (first | with_reducible assumption | with_reducible apply State.folioSeal_kept | (simp only [kept_mk]; with_reducible apply kept_fold) | (extract_lets +onlyGivenNames t; (have ht : Kept Q t := (by unfold t; repeat' (first | with_reducible assumption | with_reducible apply State.cbDiscard_kept | with_reducible apply State.setRbit_kept | with_reducible apply State.setTwin_kept))); clear_value t) | (extract_lets +onlyGivenNames t; clear_value t) | split)

theorem State.cbRetrain_kept {Q : List Instr} {s : State} (h_s : Kept Q s) :
  Kept Q (State.cbRetrain s) := by
  unfold State.cbRetrain
  repeat' (first | with_reducible assumption | with_reducible apply State.cbDown_kept | with_reducible apply State.setTwin_kept | (extract_lets +onlyGivenNames t; (have ht : Kept Q t := (by unfold t; repeat' (first | with_reducible assumption | with_reducible apply State.bump_kept | with_reducible apply State.setTwin_kept))); clear_value t) | (extract_lets +onlyGivenNames t; clear_value t) | split)

theorem State.cbSpare_kept {Q : List Instr} {s : State} {rx : Bool} {lane : Nat} (h_s : Kept Q s) :
  Kept Q (State.cbSpare s rx lane) := by
  unfold State.cbSpare
  repeat' (first | with_reducible assumption | with_reducible apply State.bump_kept | with_reducible apply State.report_kept | with_reducible apply State.setRbit_kept | (extract_lets +onlyGivenNames t; (have ht : Kept Q t := (by unfold t; repeat' (first | with_reducible assumption | with_reducible apply State.setTwin_kept))); clear_value t) | (extract_lets +onlyGivenNames t; clear_value t) | split)

theorem State.cbLanes_kept' {Q : List Instr} {s : State} {r : TrainResult} (h_s : Kept Q s) : Kept Q (State.cbLanes s r).1 := by
  unfold State.cbLanes
  repeat' (first | with_reducible assumption | with_reducible apply State.cbSpare_kept | with_reducible apply kept_foldl | with_reducible refine fun _ => ?_)


theorem State.cbLanes_kept {Q : List Instr} {s : State} {r : TrainResult} {r0 : State} {r1 : Bool} (e : State.cbLanes s r = (r0, r1)) (h_s : Kept Q s) : Kept Q r0 := by
  have h := State.cbLanes_kept' (Q := Q) (s := s) (r := r)  h_s
  rw [e] at h
  exact h

theorem State.cbReplay_kept {Q : List Instr} {s : State} (h_s : Kept Q s) :
  Kept Q (State.cbReplay s) := by
  unfold State.cbReplay
  repeat' (first | with_reducible assumption | with_reducible apply State.setTwin_kept)

theorem State.cbNak_kept {Q : List Instr} {s : State} (h_s : Kept Q s) :
  Kept Q (State.cbNak s) := by
  unfold State.cbNak
  repeat' (first | with_reducible assumption | with_reducible apply State.cbRetrain_kept | (extract_lets +onlyGivenNames t; (have ht : Kept Q t := (by unfold t; repeat' (first | with_reducible assumption | with_reducible apply State.setTwin_kept))); clear_value t) | (extract_lets +onlyGivenNames t; clear_value t) | split)

theorem State.cbFail_kept {Q : List Instr} {s : State} (h_s : Kept Q s) :
  Kept Q (State.cbFail s) := by
  unfold State.cbFail
  repeat' (first | with_reducible assumption | with_reducible apply State.cbNak_kept | (extract_lets +onlyGivenNames t; (have ht : Kept Q t := (by unfold t; repeat' (first | with_reducible assumption | with_reducible apply State.bump_kept))); clear_value t) | split)

theorem State.cbFrame_kept {Q : List Instr} {s : State} {seq ftype : Nat} {payload : List Byte} (h_s : Kept Q s) :
  Kept Q (State.cbFrame s seq ftype payload) := by
  unfold State.cbFrame
  repeat' (first | with_reducible assumption | with_reducible apply State.setTwin_kept | (simp only [kept_mk]; with_reducible apply kept_fold))

theorem State.cbAgain_kept {Q : List Instr} {s : State} {seq : Nat} {first : Bool} {b : List Byte} (h_s : Kept Q s) :
  Kept Q (State.cbAgain s seq first b) := by
  unfold State.cbAgain
  repeat' (first | with_reducible assumption | with_reducible apply State.bump_kept | (simp only [kept_mk]; with_reducible apply kept_fold))

theorem State.cbSendFrame_kept {Q : List Instr} {s : State} (h_s : Kept Q s) :
  Kept Q (State.cbSendFrame s) := by
  unfold State.cbSendFrame
  repeat' (first | with_reducible assumption | with_reducible apply State.cbAgain_kept | with_reducible apply State.cbFrame_kept | with_reducible apply State.setTwin_kept | (extract_lets +onlyGivenNames t; (have ht : Kept Q t := (by unfold t; repeat' (first | with_reducible assumption | with_reducible apply State.cbFrame_kept))); clear_value t) | (extract_lets +onlyGivenNames t; clear_value t) | split)

theorem State.sendPair_kept {Q : List Instr} {s : State} {diverged : Bool} (h_s : Kept Q s) :
  Kept Q (State.sendPair s diverged) := by
  unfold State.sendPair
  repeat' (first | with_reducible assumption | with_reducible apply State.cbSend_kept | with_reducible apply State.setTwin_kept)

theorem State.unhold_kept {Q : List Instr} {s : State} (h_s : Kept Q s) :
  Kept Q (State.unhold s) := by
  unfold State.unhold
  repeat' (first | with_reducible assumption | with_reducible apply State.commitsGoOn_kept | with_reducible apply State.folioSettle_kept | with_reducible apply State.setRole_kept | (extract_lets +onlyGivenNames t; (have ht : Kept Q t := (by unfold t; repeat' (first | with_reducible assumption | with_reducible apply State.setTwin_kept))); clear_value t) | (extract_lets +onlyGivenNames t; clear_value t) | split)

theorem State.heartbeat_kept {Q : List Instr} {s : State} {role : Nat} (h_s : Kept Q s) :
  Kept Q (State.heartbeat s role) := by
  unfold State.heartbeat
  repeat' (first | with_reducible assumption | with_reducible apply State.unhold_kept | split)

theorem State.frameHeader_kept {Q : List Instr} {s : State} {f : Frame} (h_s : Kept Q s) :
  Kept Q (State.frameHeader s f) := by
  unfold State.frameHeader
  repeat' (first | with_reducible assumption | with_reducible apply State.cbRetrain_kept | with_reducible apply State.heartbeat_kept | with_reducible apply State.setTwin_kept | (extract_lets +onlyGivenNames t; (have ht : Kept Q t := (by unfold t; repeat' (first | with_reducible assumption | with_reducible apply State.cbReplay_kept | with_reducible apply State.setTwin_kept))); clear_value t) | (extract_lets +onlyGivenNames t; clear_value t) | split)

theorem State.depart_kept {Q : List Instr} {s : State} {cause : Nat} (h_s : Kept Q s) :
  Kept Q (State.depart s cause) := by
  unfold State.depart
  repeat' (first | with_reducible assumption | with_reducible apply State.faultPin_kept | (simp only [kept_mk]; with_reducible apply kept_fold) | (extract_lets +onlyGivenNames t; (have ht : Kept Q t := (by unfold t; repeat' (first | with_reducible assumption | with_reducible apply State.cbSend_kept | with_reducible apply State.folioAbandon_kept | with_reducible apply State.setRole_kept))); clear_value t) | (extract_lets +onlyGivenNames t; clear_value t) | split)

theorem State.applyDelta_kept {Q : List Instr} {s : State} {j : Nat} {d : DeltaRec} (h_s : Kept Q s) :
  Kept Q (State.applyDelta s j d) := by
  unfold State.applyDelta
  repeat' (first | with_reducible assumption | with_reducible apply State.memWrite_kept | with_reducible apply kept_foldl | with_reducible refine fun _ => ?_ | split)

theorem State.applyMarked_kept {Q : List Instr} {s : State} (h_s : Kept Q s) :
  Kept Q (State.applyMarked s) := by
  unfold State.applyMarked
  repeat' (first | with_reducible assumption | with_reducible apply State.applyDelta_kept | with_reducible apply State.setTwin_kept | with_reducible apply kept_foldl | with_reducible refine fun _ => ?_)

theorem State.takeover_kept {Q : List Instr} {s : State} (h_s : Kept Q s) :
  Kept Q (State.takeover s) := by
  unfold State.takeover
  extract_lets s1 s2 s3 src s4 s5 s6
  have h2 : Kept Q s2 := State.bump_kept (State.setJr_kept (State.setRole_kept (State.cbDiscard_kept h_s)))
  have h3 : Kept Q s3 := by
    unfold s3
    split
    · split
      · exact State.seal_kept (State.journal_kept h2)
      · exact h2
    · exact h2
  have h4 : Kept Q s4 := State.setTwin_kept h3
  have h5 : Kept Q s5 := ⟨h4.pending, h4.mem, h4.regs⟩
  have h6 : Kept Q s6 := by
    unfold s6
    split
    · exact State.setJr_kept h5
    · exact h5
  exact State.folioSettle_kept (State.post_kept h6)

theorem State.orderRej_kept {Q : List Instr} {s : State} {b : Nat} (h_s : Kept Q s) :
  Kept Q (State.orderRej s b) := by
  unfold State.orderRej
  repeat' (first | with_reducible assumption | with_reducible apply State.bump_kept | with_reducible apply State.setRbit_kept)

theorem State.orderFolio_kept {Q : List Instr} {s : State} (h_s : Kept Q s) :
  Kept Q (State.orderFolio s) := by
  unfold State.orderFolio
  repeat' (first | with_reducible assumption | with_reducible apply State.orderRej_kept | with_reducible apply State.requestFolio_kept | with_reducible apply State.setRbit_kept | split)

theorem State.orderTakeover_kept {Q : List Instr} {s : State} (h_s : Kept Q s) :
  Kept Q (State.orderTakeover s) := by
  unfold State.orderTakeover
  repeat' (first | with_reducible assumption | with_reducible apply State.orderRej_kept | with_reducible apply State.takeover_kept | split)

theorem State.orderDepart_kept {Q : List Instr} {s : State} (h_s : Kept Q s) :
  Kept Q (State.orderDepart s) := by
  unfold State.orderDepart
  repeat' (first | with_reducible assumption | with_reducible apply State.depart_kept | with_reducible apply State.draw_kept')

theorem State.orderWrite_kept {Q : List Instr} {s : State} {v : Word} (h_s : Kept Q s) :
  Kept Q (State.orderWrite s v) := by
  unfold State.orderWrite
  repeat' (first | with_reducible assumption | with_reducible apply State.orderDepart_kept | (extract_lets +onlyGivenNames t; (have ht : Kept Q t := (by unfold t; repeat' (first | with_reducible assumption | with_reducible apply State.orderFolio_kept | with_reducible apply State.orderTakeover_kept | split))); clear_value t) | split)

theorem State.clampField_kept {Q : List Instr} {s : State} {k hi lo mn mx : Nat} (h_s : Kept Q s) :
  Kept Q (State.clampField s k hi lo mn mx) := by
  unfold State.clampField
  repeat' (first | with_reducible assumption | with_reducible apply State.bump_kept | with_reducible apply State.setRfld_kept | (extract_lets +onlyGivenNames t; clear_value t) | split)

theorem State.cbCfgWrite_kept {Q : List Instr} {s : State} {v : Word} (h_s : Kept Q s) :
  Kept Q (State.cbCfgWrite s v) := by
  unfold State.cbCfgWrite
  repeat' (first | with_reducible assumption | with_reducible apply State.cbDown_kept | (extract_lets +onlyGivenNames t; (have ht : Kept Q t := (by unfold t; repeat' (first | with_reducible assumption | with_reducible apply State.clampField_kept | with_reducible apply State.swReg_kept))); clear_value t) | split)

theorem State.folioCfgWrite_kept {Q : List Instr} {s : State} {v : Word} (h_s : Kept Q s) :
  Kept Q (State.folioCfgWrite s v) := by
  unfold State.folioCfgWrite
  repeat' (first | with_reducible assumption | with_reducible apply State.clampField_kept | with_reducible apply State.swReg_kept)

end Sys2Proof.Machine
end

