-- ==== Sys2Proof/Laws/KeptBlotterOps.lean ====
section
/-! SUPPORT. What Machine/BlotterOps.lean keeps: the queue, and the canonical form of memory and of the register file. -/

set_option linter.unreachableTactic false
set_option linter.unusedTactic false
set_option linter.unusedVariables false
set_option linter.unusedSimpArgs false

namespace Sys2Proof.Machine

theorem State.blRecord_kept {Q : List Instr} {s : State} {r : Report} {cls action src : Nat} {jobs : List Nat} (h_s : Kept Q s) :
  Kept Q (State.blRecord s r cls action src jobs) := by
  unfold State.blRecord
  repeat' (first | with_reducible assumption | with_reducible apply State.setRbit_kept | with_reducible apply State.setReg_kept | with_reducible apply kept_foldl | with_reducible refine fun _ => ?_ | split)

theorem State.holdJobs_kept {Q : List Instr} {s : State} {jobs : List Nat} (h_s : Kept Q s) :
  Kept Q (State.holdJobs s jobs) := by
  unfold State.holdJobs
  repeat' (first | with_reducible assumption | with_reducible apply State.bumpBy_kept | with_reducible apply State.dropNear_kept | with_reducible apply State.dropTasks_kept | with_reducible apply State.setJob_kept | with_reducible apply kept_foldl | with_reducible refine fun _ => ?_)

theorem State.loseMarks_kept {Q : List Instr} {s : State} {k : Nat} (h_s : Kept Q s) :
  Kept Q (State.loseMarks s k) := by
  unfold State.loseMarks
  repeat' (first | with_reducible assumption | with_reducible apply State.putMark_kept | with_reducible apply State.setCount_kept | with_reducible apply State.setRbit_kept | with_reducible apply kept_foldl | with_reducible refine fun _ => ?_)

theorem State.dropCluster_kept {Q : List Instr} {s : State} {k : Nat} (h_s : Kept Q s) :
  Kept Q (State.dropCluster s k) := by
  unfold State.dropCluster
  repeat' (first | with_reducible assumption | with_reducible apply State.dropNear_kept | with_reducible apply State.loseCaches_kept | with_reducible apply State.setCl_kept | with_reducible apply State.setCtx_kept | (simp only [kept_mk]; with_reducible apply kept_fold))

theorem State.hotFence_kept {Q : List Instr} {s : State} {k : Nat} (h_s : Kept Q s) :
  Kept Q (State.hotFence s k) := by
  unfold State.hotFence
  repeat' (first | with_reducible assumption | with_reducible apply State.modHot_kept)

theorem State.hotFilled_kept {Q : List Instr} {s : State} {k : Nat} (h_s : Kept Q s) :
  Kept Q (State.hotFilled s k) := by
  unfold State.hotFilled
  repeat' (first | with_reducible assumption | with_reducible apply State.modHot_kept)

theorem State.hotDrop_kept {Q : List Instr} {s : State} {gone : HotEnt → Bool} (h_s : Kept Q s) :
  Kept Q (State.hotDrop s gone) := by
  unfold State.hotDrop
  repeat' (first | with_reducible assumption | with_reducible apply State.bump_kept | with_reducible apply State.setRfld_kept | with_reducible apply kept_foldl | with_reducible refine fun _ => ?_ | (extract_lets +onlyGivenNames t; (have ht : Kept Q t := (by unfold t; repeat' (first | with_reducible assumption | with_reducible apply State.delEnt_kept))); clear_value t) | split)

theorem State.clampCluster_kept {Q : List Instr} {s : State} {p : Nat} (h_s : Kept Q s) :
  Kept Q (State.clampCluster s p) := by
  unfold State.clampCluster
  repeat' (first | with_reducible assumption | with_reducible apply State.isolate_kept | with_reducible apply State.setRbit_kept)

theorem State.addFence_kept {Q : List Instr} {s : State} {u : UnitId} (h_s : Kept Q s) :
  Kept Q (State.addFence s u) := by
  unfold State.addFence
  repeat' (first | with_reducible assumption | with_reducible apply State.bump_kept | with_reducible apply State.bumpFree_kept | with_reducible apply State.isolate_kept | with_reducible apply State.setRbit_kept | (simp only [kept_mk]; with_reducible apply kept_fold))

theorem State.copyistFault_kept {Q : List Instr} {s : State} {c spare cause : Nat} (h_s : Kept Q s) :
  Kept Q (State.copyistFault s c spare cause) := by
  unfold State.copyistFault
  repeat' (first | with_reducible assumption | with_reducible apply State.addFence_kept | with_reducible apply State.fwHalt_kept | with_reducible apply State.setDom_kept | with_reducible apply State.setRfld_kept)

theorem State.blAbandon_kept {Q : List Instr} {s : State} (h_s : Kept Q s) :
  Kept Q (State.blAbandon s) := by
  unfold State.blAbandon
  repeat' (first | with_reducible assumption | with_reducible apply State.setRbit_kept | (simp only [kept_mk]; with_reducible apply kept_fold))

theorem State.handOver_kept {Q : List Instr} {s : State} {code : Nat} (h_s : Kept Q s) :
  Kept Q (State.handOver s code) := by
  unfold State.handOver
  repeat' (first | with_reducible assumption | with_reducible apply State.blAbandon_kept | with_reducible apply State.depart_kept)

theorem State.fail_kept {Q : List Instr} {s : State} (h_s : Kept Q s) :
  Kept Q (State.fail s) := by
  unfold State.fail
  repeat' (first | with_reducible assumption | with_reducible apply State.blAbandon_kept | with_reducible apply State.faultPin_kept | with_reducible apply State.setRbit_kept | with_reducible apply State.settleQueues_kept | (simp only [kept_mk]; with_reducible apply kept_fold))

theorem State.loseJobs_kept {Q : List Instr} {s : State} {jobs : List Nat} {code seq : Nat} (h_s : Kept Q s) :
  Kept Q (State.loseJobs s jobs code seq) := by
  unfold State.loseJobs
  repeat' (first | with_reducible assumption | with_reducible apply State.bump_kept | with_reducible apply State.dropNear_kept | with_reducible apply State.dropTasks_kept | with_reducible apply State.endPins_kept | with_reducible apply State.post_kept | with_reducible apply State.reclaim_kept | with_reducible apply State.setJob_kept | with_reducible apply State.settleFair_kept | (simp only [kept_mk]; with_reducible apply kept_fold) | with_reducible apply kept_foldl | with_reducible refine fun _ => ?_)

theorem State.reactM_kept' {Q : List Instr} {s : State} {code : Nat} (h_s : Kept Q s) : Kept Q (State.reactM s code).2 := by
  unfold State.reactM
  repeat' (first | with_reducible assumption | with_reducible apply State.fail_kept | with_reducible apply State.handOver_kept | split)


theorem State.reactM_kept {Q : List Instr} {s : State} {code : Nat} {r0 : Nat} {r1 : State} (e : State.reactM s code = (r0, r1)) (h_s : Kept Q s) : Kept Q r1 := by
  have h := State.reactM_kept' (Q := Q) (s := s) (code := code)  h_s
  rw [e] at h
  exact h

theorem State.reactLost_kept' {Q : List Instr} {s : State} {code : Nat} {jobs : List Nat} (h_s : Kept Q s) : Kept Q (State.reactLost s code jobs).2 := by
  unfold State.reactLost
  repeat' (first | with_reducible assumption | with_reducible apply State.bump_kept | with_reducible apply State.handOver_kept | with_reducible apply State.loseJobs_kept | split)


theorem State.reactLost_kept {Q : List Instr} {s : State} {code : Nat} {jobs : List Nat} {r0 : Nat} {r1 : State} (e : State.reactLost s code jobs = (r0, r1)) (h_s : Kept Q s) : Kept Q r1 := by
  have h := State.reactLost_kept' (Q := Q) (s := s) (code := code) (jobs := jobs)  h_s
  rw [e] at h
  exact h

theorem State.startFill_kept {Q : List Instr} {s : State} (h_s : Kept Q s) :
  Kept Q (State.startFill s) := by
  unfold State.startFill
  repeat' (first | with_reducible assumption | with_reducible apply State.setDom_kept | (extract_lets +onlyGivenNames t; (have ht : Kept Q t := (by unfold t; repeat' (first | with_reducible assumption | with_reducible apply State.setRbit_kept | with_reducible apply State.setReg_kept))); clear_value t) | (extract_lets +onlyGivenNames t; clear_value t) | split)

theorem State.addRestart_kept {Q : List Instr} {s : State} {code seq : Nat} {jobs : List Nat} (h_s : Kept Q s) :
  Kept Q (State.addRestart s code seq jobs) := by
  unfold State.addRestart
  repeat' (first | with_reducible assumption | (simp only [kept_mk]; with_reducible apply kept_fold))

theorem State.groupRestart_kept {Q : List Instr} {s : State} {j : Nat} (h_s : Kept Q s) :
  Kept Q (State.groupRestart s j) := by
  unfold State.groupRestart
  repeat' (first | with_reducible assumption | with_reducible apply State.sendAll_kept | with_reducible apply State.setGroup_kept | (extract_lets +onlyGivenNames t; clear_value t) | split)

theorem State.groupHold_kept {Q : List Instr} {s : State} {j : Nat} (h_s : Kept Q s) :
  Kept Q (State.groupHold s j) := by
  unfold State.groupHold
  repeat' (first | with_reducible assumption | with_reducible apply State.setJob_kept | (extract_lets +onlyGivenNames t; clear_value t) | split)

theorem State.groupResume_kept {Q : List Instr} {s : State} {j : Nat} (h_s : Kept Q s) :
  Kept Q (State.groupResume s j) := by
  unfold State.groupResume
  repeat' (first | with_reducible assumption | with_reducible apply State.setGroup_kept | with_reducible apply State.setJob_kept | (extract_lets +onlyGivenNames t; clear_value t) | split)

theorem State.beginRestart_kept {Q : List Instr} {s : State} (h_s : Kept Q s) :
  Kept Q (State.beginRestart s) := by
  unfold State.beginRestart
  repeat' (first | with_reducible assumption | (simp only [kept_mk]; with_reducible apply kept_fold) | (extract_lets +onlyGivenNames t; (have ht : Kept Q t := (by unfold t; repeat' (first | with_reducible assumption | with_reducible apply State.cbSend_kept | with_reducible apply State.groupRestart_kept | with_reducible apply State.rollback_kept | with_reducible apply kept_foldl | with_reducible refine fun _ => ?_ | (extract_lets +onlyGivenNames t; (have ht : Kept Q t := (by unfold t; repeat' (first | with_reducible assumption | with_reducible apply State.cbSend_kept | with_reducible apply State.groupRestart_kept | with_reducible apply State.rollback_kept | with_reducible apply kept_foldl | with_reducible refine fun _ => ?_ | split))); clear_value t) | split))); clear_value t) | (extract_lets +onlyGivenNames t; clear_value t) | split)

theorem State.addFills_kept' {Q : List Instr} {s : State} {g code : Nat} {jobs : List Nat} {e0 : List Nat} (h_s : Kept Q s) : Kept Q (State.addFills s g code jobs e0).2 := by
  induction e0 generalizing s g code jobs <;> (
  unfold State.addFills
  repeat' (first | with_reducible assumption | with_reducible apply State.reactLost_kept' | with_reducible apply_assumption -exfalso -symm | (extract_lets +onlyGivenNames t; (have ht : ∀ a, Kept Q (t a) := (by unfold t; repeat' (first | with_reducible assumption | with_reducible apply State.setRbit_kept | with_reducible apply State.startFill_kept | with_reducible refine fun _ => ?_ | (extract_lets +onlyGivenNames t; (have ht : Kept Q t := (by unfold t; repeat' (first | with_reducible assumption | (simp only [kept_mk]; with_reducible apply kept_fold)))); clear_value t) | split))); clear_value t) | (extract_lets +onlyGivenNames t; clear_value t) | split))


theorem State.addFills_kept {Q : List Instr} {s : State} {g code : Nat} {jobs : List Nat} {e0 : List Nat} {r0 : Nat} {r1 : State} (e : State.addFills s g code jobs e0 = (r0, r1)) (h_s : Kept Q s) : Kept Q r1 := by
  have h := State.addFills_kept' (Q := Q) (s := s) (g := g) (code := code) (jobs := jobs) (e0 := e0) h_s
  rw [e] at h
  exact h

theorem State.clusterFault_kept' {Q : List Instr} {s : State} {r : Report} {p : Nat} (h_s : Kept Q s) : Kept Q (State.clusterFault s r p).2.2 := by
  unfold State.clusterFault
  repeat' (first | with_reducible assumption | with_reducible apply State.addFills_kept' | with_reducible apply State.handOver_kept | with_reducible apply State.reactLost_kept' | with_reducible apply State.startFill_kept | (simp only [kept_mk]; with_reducible apply kept_fold) | (extract_lets +onlyGivenNames t; (have ht : Kept Q t := (by unfold t; repeat' (first | with_reducible assumption | with_reducible apply State.addFence_kept | with_reducible apply State.addRestart_kept | with_reducible apply State.clampCluster_kept | with_reducible apply State.dropCluster_kept | with_reducible apply State.holdJobs_kept | with_reducible apply State.hotFence_kept | with_reducible apply State.loseMarks_kept | (simp only [kept_mk]; with_reducible apply kept_fold) | with_reducible apply kept_foldl | with_reducible refine fun _ => ?_))); clear_value t) | (extract_lets +onlyGivenNames t; clear_value t) | split)


theorem State.clusterFault_kept {Q : List Instr} {s : State} {r : Report} {p : Nat} {r0 : Nat} {r1 : List Nat} {r2 : State} (e : State.clusterFault s r p = (r0, r1, r2)) (h_s : Kept Q s) : Kept Q r2 := by
  have h := State.clusterFault_kept' (Q := Q) (s := s) (r := r) (p := p)  h_s
  rw [e] at h
  exact h

theorem State.wordFault_kept' {Q : List Instr} {s : State} {r : Report} (h_s : Kept Q s) : Kept Q (State.wordFault s r).2.2 := by
  unfold State.wordFault
  repeat' (first | with_reducible assumption | with_reducible apply State.bump_kept | with_reducible apply State.handOver_kept | with_reducible apply State.reactLost_kept' | with_reducible apply State.setTable_kept | with_reducible apply State.settleFair_kept | with_reducible apply kept_foldl | (extract_lets +onlyGivenNames t; (have ht : Kept Q t := (by unfold t; repeat' (first | with_reducible assumption | with_reducible apply State.bump_kept | with_reducible apply State.holdJobs_kept))); clear_value t) | (extract_lets +onlyGivenNames t; (have ht : ∀ a, Kept Q (t a).2.2 := (by unfold t; repeat' (first | with_reducible assumption | with_reducible apply State.addRestart_kept | with_reducible apply State.beginRestart_kept | with_reducible apply State.bump_kept | with_reducible apply State.holdJobs_kept | with_reducible refine fun _ => ?_))); clear_value t) | (extract_lets +onlyGivenNames t; clear_value t) | (with_reducible apply_assumption -exfalso -symm) | split)


theorem State.wordFault_kept {Q : List Instr} {s : State} {r : Report} {r0 : Nat} {r1 : List Nat} {r2 : State} (e : State.wordFault s r = (r0, r1, r2)) (h_s : Kept Q s) : Kept Q r2 := by
  have h := State.wordFault_kept' (Q := Q) (s := s) (r := r)  h_s
  rw [e] at h
  exact h

theorem State.unitFault_kept' {Q : List Instr} {s : State} {r : Report} {m : Bool} (h_s : Kept Q s) : Kept Q (State.unitFault s r m).2.2.2 := by
  unfold State.unitFault
  repeat' (first | with_reducible assumption | with_reducible apply State.addFence_kept | with_reducible apply State.clusterFault_kept' | with_reducible apply State.copyistFault_kept | with_reducible apply State.hotDrop_kept | with_reducible apply State.wordFault_kept' | (extract_lets +onlyGivenNames t; (have ht : Kept Q t := (by unfold t; repeat' (first | with_reducible assumption | with_reducible apply State.addFence_kept | with_reducible apply State.cbDown_kept | with_reducible apply State.hotDrop_kept | with_reducible apply State.lanDown_kept | with_reducible apply State.setRfld_kept | (simp only [kept_mk]; with_reducible apply kept_fold) | with_reducible apply kept_foldl | with_reducible refine fun _ => ?_ | split))); clear_value t) | (extract_lets +onlyGivenNames t; (have ht : ∀ a, Kept Q a → Kept Q (t a).2.2.2 := (by unfold t; repeat' (first | with_reducible assumption | with_reducible apply State.addFence_kept | with_reducible apply State.folioAbandon_kept | with_reducible apply State.holdJobs_kept | with_reducible apply State.reactM_kept' | with_reducible refine fun _ => ?_))); clear_value t) | (with_reducible apply_assumption -exfalso -symm) | split)


theorem State.unitFault_kept {Q : List Instr} {s : State} {r : Report} {m : Bool} {r0 : Nat} {r1 : List Nat} {r2 : BlClass} {r3 : State} (e : State.unitFault s r m = (r0, r1, r2, r3)) (h_s : Kept Q s) : Kept Q r3 := by
  have h := State.unitFault_kept' (Q := Q) (s := s) (r := r) (m := m)  h_s
  rw [e] at h
  exact h

theorem State.checkerErr_kept {Q : List Instr} {s : State} {r : Report} (h_s : Kept Q s) :
  Kept Q (State.checkerErr s r) := by
  unfold State.checkerErr
  repeat' (first | with_reducible assumption | with_reducible apply State.alert_kept | with_reducible apply State.blRecord_kept | with_reducible apply State.bump_kept | with_reducible apply State.depart_kept | with_reducible apply State.faultPin_kept | with_reducible apply State.setRbit_kept)

theorem State.faultReport_kept {Q : List Instr} {s : State} {r : Report} {m : Bool} (h_s : Kept Q s) :
  Kept Q (State.faultReport s r m) := by
  unfold State.faultReport
  repeat' (first | with_reducible assumption | with_reducible apply State.blRecord_kept | with_reducible apply State.checkerErr_kept | with_reducible apply State.domOff_kept | with_reducible apply State.unitFault_kept' | (extract_lets +onlyGivenNames t; (have ht : Kept Q t := (by unfold t; repeat' (first | with_reducible assumption | with_reducible apply State.alert_kept | with_reducible apply State.bump_kept | with_reducible apply State.folioAbandon_kept | (extract_lets +onlyGivenNames t; (have ht : Kept Q t := (by unfold t; repeat' (first | with_reducible assumption | with_reducible apply State.bump_kept | with_reducible apply State.folioAbandon_kept | split))); clear_value t) | split))); clear_value t) | (extract_lets +onlyGivenNames t; clear_value t) | split)

theorem State.correctedReport_kept {Q : List Instr} {s : State} {r : Report} (h_s : Kept Q s) :
  Kept Q (State.correctedReport s r) := by
  unfold State.correctedReport
  repeat' (first | with_reducible assumption | (simp only [kept_mk]; with_reducible apply kept_fold) | (extract_lets +onlyGivenNames t; (have ht : Kept Q t := (by unfold t; repeat' (first | with_reducible assumption | with_reducible apply State.blRecord_kept | with_reducible apply State.bump_kept | split))); clear_value t) | (extract_lets +onlyGivenNames t; clear_value t) | split)

theorem State.blReport_kept {Q : List Instr} {s : State} {r : Report} (h_s : Kept Q s) :
  Kept Q (State.blReport s r) := by
  unfold State.blReport
  repeat' (first | with_reducible assumption | with_reducible apply State.blRecord_kept | with_reducible apply State.correctedReport_kept | with_reducible apply State.faultReport_kept | (simp only [kept_mk]; with_reducible apply kept_fold) | (extract_lets +onlyGivenNames t; clear_value t) | split)

theorem State.blOrder_kept {Q : List Instr} {s : State} {v : Word} (h_s : Kept Q s) :
  Kept Q (State.blOrder s v) := by
  unfold State.blOrder
  repeat' (first | with_reducible assumption | with_reducible apply State.blReport_kept | with_reducible apply State.setRbit_kept | (extract_lets +onlyGivenNames t; (have ht : Kept Q t := (by unfold t; repeat' (first | with_reducible assumption | with_reducible apply State.setRfld_kept))); clear_value t) | split)

theorem State.iwhwmWrite_kept {Q : List Instr} {s : State} {v : Word} (h_s : Kept Q s) :
  Kept Q (State.iwhwmWrite s v) := by
  unfold State.iwhwmWrite
  repeat' (first | with_reducible assumption | with_reducible apply State.setRbit_kept | with_reducible apply State.setRfld_kept | split)

theorem State.foldNow_kept {Q : List Instr} {s : State} {g k host : Nat} (h_s : Kept Q s) :
  Kept Q (State.foldNow s g k host) := by
  unfold State.foldNow
  repeat' (first | with_reducible assumption | with_reducible apply State.bump_kept | with_reducible apply State.hotDrop_kept | with_reducible apply State.setRbit_kept | with_reducible apply State.setReg_kept | with_reducible apply State.setRfld_kept | (simp only [kept_mk]; with_reducible apply kept_fold))

theorem State.enableCaches_kept {Q : List Instr} {s : State} {core : Nat} (h_s : Kept Q s) :
  Kept Q (State.enableCaches s core) := by
  unfold State.enableCaches
  repeat' (first | with_reducible assumption | with_reducible apply State.ccComplete_kept | with_reducible apply State.ccWrite_kept)

theorem State.spareNow_kept {Q : List Instr} {s : State} {g k : Nat} (h_s : Kept Q s) :
  Kept Q (State.spareNow s g k) := by
  unfold State.spareNow
  repeat' (first | with_reducible assumption | with_reducible apply State.bump_kept | with_reducible apply State.dropCluster_kept | with_reducible apply State.enableCaches_kept | with_reducible apply State.hotFilled_kept | with_reducible apply State.setReg_kept | (simp only [kept_mk]; with_reducible apply kept_fold_mem))

end Sys2Proof.Machine
end

