-- ==== Sys2Proof/Laws/KeptBlotter.lean ====
section
/-! SUPPORT. What Machine/Blotter.lean keeps: the queue, and the canonical form of memory and of the register file. -/

set_option linter.unreachableTactic false
set_option linter.unusedTactic false
set_option linter.unusedVariables false
set_option linter.unusedSimpArgs false

namespace Sys2Proof.Machine

theorem execBlotterReport_kept {Q : List Instr} {r : Report} {s : State} (h_s : Kept Q s) :
  Keeps Q (execBlotterReport r s) := by
  unfold execBlotterReport
  repeat' (first | with_reducible assumption | with_reducible apply State.blReport_kept | with_reducible apply kept_next | (simp only [kept_mk]; with_reducible apply kept_fold))

theorem execHeartbeatCheck_kept {Q : List Instr} {missed : List UnitId} {s : State} (h_s : Kept Q s) :
  Keeps Q (execHeartbeatCheck missed s) := by
  unfold execHeartbeatCheck
  repeat' (first | with_reducible assumption | with_reducible apply State.blReport_kept | with_reducible apply State.bumpBy_kept | with_reducible apply kept_next | (simp only [kept_mk]; with_reducible apply kept_fold) | with_reducible apply kept_foldl | with_reducible refine fun _ => ?_)

theorem execFillComplete_kept {Q : List Instr} {ok : Bool} {s : State} (h_s : Kept Q s) :
  Keeps Q (execFillComplete ok s) := by
  unfold execFillComplete
  repeat' (first | with_reducible assumption | with_reducible apply State.beginRestart_kept | with_reducible apply State.startFill_kept | with_reducible apply kept_next | (extract_lets +onlyGivenNames t; (have ht : Kept Q t := (by unfold t; repeat' (first | with_reducible assumption | with_reducible apply State.foldNow_kept | with_reducible apply State.reactLost_kept' | with_reducible apply State.setRbit_kept | with_reducible apply State.setRfld_kept | with_reducible apply State.spareNow_kept | (simp only [kept_mk]; with_reducible apply kept_fold) | split))); clear_value t) | (extract_lets +onlyGivenNames t; clear_value t) | split)

theorem execImageRestoreComplete_kept {Q : List Instr} {s : State} (h_s : Kept Q s) :
  Keeps Q (execImageRestoreComplete s) := by
  unfold execImageRestoreComplete
  repeat' (first | with_reducible assumption | with_reducible apply State.groupResume_kept | with_reducible apply State.settleQueues_kept | with_reducible apply kept_next | with_reducible apply kept_foldl | with_reducible refine fun _ => ?_ | (extract_lets +onlyGivenNames t; (have ht : Kept Q t := (by unfold t; repeat' (first | with_reducible assumption | with_reducible apply State.bump_kept | with_reducible apply State.groupHold_kept | with_reducible apply State.postResumed_kept | with_reducible apply State.restoreJob_kept | with_reducible apply State.setTwin_kept | (simp only [kept_mk]; with_reducible apply kept_fold) | with_reducible apply kept_foldl | with_reducible refine fun _ => ?_))); clear_value t) | (extract_lets +onlyGivenNames t; clear_value t) | split)

theorem execBlOrderFence_kept {Q : List Instr} {v : Word} {s : State} (h_s : Kept Q s) :
  Keeps Q (execBlOrderFence v s) := by
  unfold execBlOrderFence
  repeat' (first | with_reducible assumption | with_reducible apply State.blOrder_kept | with_reducible apply kept_next)

theorem execBlIwhwmWrite_kept {Q : List Instr} {v : Word} {s : State} (h_s : Kept Q s) :
  Keeps Q (execBlIwhwmWrite v s) := by
  unfold execBlIwhwmWrite
  repeat' (first | with_reducible assumption | with_reducible apply State.iwhwmWrite_kept | with_reducible apply kept_next | split)

end Sys2Proof.Machine
end

