-- ==== Sys2Proof/Laws/KeptBrushEvents.lean ====
section
/-! SUPPORT. What Machine/BrushEvents.lean keeps: the queue, and the canonical form of memory and of the register file. -/

set_option linter.unreachableTactic false
set_option linter.unusedTactic false
set_option linter.unusedVariables false
set_option linter.unusedSimpArgs false

namespace Sys2Proof.Machine

theorem execBrOpComplete_kept {Q : List Instr} {c : Nat} {r : OpCheck} {s : State} (h_s : Kept Q s) :
  Keeps Q (execBrOpComplete c r s) := by
  unfold execBrOpComplete
  repeat' (first | with_reducible assumption | with_reducible apply State.brComplete_kept | with_reducible apply kept_next)

end Sys2Proof.Machine
end

