-- ==== Sys2Proof/Laws/KeptBrushIssue.lean ====
section
/-! SUPPORT. What Machine/BrushIssue.lean keeps: the queue, and the canonical form of memory and of the register file. -/

set_option linter.unreachableTactic false
set_option linter.unusedTactic false
set_option linter.unusedVariables false
set_option linter.unusedSimpArgs false

namespace Sys2Proof.Machine

theorem State.brGoT_kept {Q : List Instr} {s : State} {h : Hart} {group op : Nat} {f : FormT} {legal : Bool} {as ms masks : List Nat} {ok : Word → Bool} (h_s : Kept Q s) :
  Keeps Q (State.brGoT s h group op f legal as ms masks ok) := by
  unfold State.brGoT
  repeat' (first | with_reducible assumption | with_reducible apply State.brIssue_kept | with_reducible apply State.checked_kept | with_reducible apply State.issue_kept | with_reducible apply kept_next | with_reducible refine fun _ => ?_)

theorem State.brArithI_kept {Q : List Instr} {s : State} {h : Hart} {op : Nat} {f : FormT} {tys : List Nat} {two rounds : Bool} (h_s : Kept Q s) :
  Keeps Q (State.brArithI s h op f tys two rounds) := by
  unfold State.brArithI
  repeat' (first | with_reducible assumption | with_reducible apply State.brGoT_kept)

theorem State.brCompareI_kept {Q : List Instr} {s : State} {h : Hart} {op : Nat} {f : FormT} (h_s : Kept Q s) :
  Keeps Q (State.brCompareI s h op f) := by
  unfold State.brCompareI
  repeat' (first | with_reducible assumption | with_reducible apply State.brGoT_kept)

theorem State.brMoveI_kept {Q : List Instr} {s : State} {h : Hart} {op : Nat} {f : FormT} {ext : Nat} {ok : Bool} (h_s : Kept Q s) :
  Keeps Q (State.brMoveI s h op f ext ok) := by
  unfold State.brMoveI
  repeat' (first | with_reducible assumption | with_reducible apply State.brGoT_kept)

theorem State.brGatherI_kept {Q : List Instr} {s : State} {h : Hart} {op : Nat} {f : FormT} (h_s : Kept Q s) :
  Keeps Q (State.brGatherI s h op f) := by
  unfold State.brGatherI
  repeat' (first | with_reducible assumption | with_reducible apply State.brGoT_kept)

theorem State.brImmI_kept {Q : List Instr} {s : State} {h : Hart} {op : Nat} {f : FormK} {ok : Bool} (h_s : Kept Q s) :
  Keeps Q (State.brImmI s h op f ok) := by
  unfold State.brImmI
  repeat' (first | with_reducible assumption | with_reducible apply State.brIssue_kept | with_reducible apply State.issue_kept | with_reducible apply kept_next | with_reducible refine fun _ => ?_)

theorem State.brSheetI_kept {Q : List Instr} {s : State} {h : Hart} {op : Nat} {f : FormK} {ok : Bool} (h_s : Kept Q s) :
  Keeps Q (State.brSheetI s h op f ok) := by
  unfold State.brSheetI
  repeat' (first | with_reducible assumption | with_reducible apply State.brIssue_kept | with_reducible apply State.checked_kept | with_reducible apply State.issue_kept | with_reducible apply kept_next | with_reducible refine fun _ => ?_)

theorem State.brReduceI_kept {Q : List Instr} {s : State} {h : Hart} {op : Nat} {f : FormT} {tyMax : Nat} {two : Bool} (h_s : Kept Q s) :
  Keeps Q (State.brReduceI s h op f tyMax two) := by
  unfold State.brReduceI
  repeat' (first | with_reducible assumption | with_reducible apply State.brGoT_kept)

theorem execBrAdd_kept {Q : List Instr} {h : Hart} {f : FormT} {s : State} (h_s : Kept Q s) :
  Keeps Q (execBrAdd h f s) := by
  unfold execBrAdd
  repeat' (first | with_reducible assumption | with_reducible apply State.brArithI_kept)

theorem execBrSub_kept {Q : List Instr} {h : Hart} {f : FormT} {s : State} (h_s : Kept Q s) :
  Keeps Q (execBrSub h f s) := by
  unfold execBrSub
  repeat' (first | with_reducible assumption | with_reducible apply State.brArithI_kept)

theorem execBrMul_kept {Q : List Instr} {h : Hart} {f : FormT} {s : State} (h_s : Kept Q s) :
  Keeps Q (execBrMul h f s) := by
  unfold execBrMul
  repeat' (first | with_reducible assumption | with_reducible apply State.brArithI_kept)

theorem execBrFma_kept {Q : List Instr} {h : Hart} {f : FormT} {s : State} (h_s : Kept Q s) :
  Keeps Q (execBrFma h f s) := by
  unfold execBrFma
  repeat' (first | with_reducible assumption | with_reducible apply State.brArithI_kept)

theorem execBrMin_kept {Q : List Instr} {h : Hart} {f : FormT} {s : State} (h_s : Kept Q s) :
  Keeps Q (execBrMin h f s) := by
  unfold execBrMin
  repeat' (first | with_reducible assumption | with_reducible apply State.brArithI_kept)

theorem execBrMax_kept {Q : List Instr} {h : Hart} {f : FormT} {s : State} (h_s : Kept Q s) :
  Keeps Q (execBrMax h f s) := by
  unfold execBrMax
  repeat' (first | with_reducible assumption | with_reducible apply State.brArithI_kept)

theorem execBrAbs_kept {Q : List Instr} {h : Hart} {f : FormT} {s : State} (h_s : Kept Q s) :
  Keeps Q (execBrAbs h f s) := by
  unfold execBrAbs
  repeat' (first | with_reducible assumption | with_reducible apply State.brArithI_kept)

theorem execBrNeg_kept {Q : List Instr} {h : Hart} {f : FormT} {s : State} (h_s : Kept Q s) :
  Keeps Q (execBrNeg h f s) := by
  unfold execBrNeg
  repeat' (first | with_reducible assumption | with_reducible apply State.brArithI_kept)

theorem execBrDiv_kept {Q : List Instr} {h : Hart} {f : FormT} {s : State} (h_s : Kept Q s) :
  Keeps Q (execBrDiv h f s) := by
  unfold execBrDiv
  repeat' (first | with_reducible assumption | with_reducible apply State.brArithI_kept)

theorem execBrSqrt_kept {Q : List Instr} {h : Hart} {f : FormT} {s : State} (h_s : Kept Q s) :
  Keeps Q (execBrSqrt h f s) := by
  unfold execBrSqrt
  repeat' (first | with_reducible assumption | with_reducible apply State.brArithI_kept)

theorem execBrExp2_kept {Q : List Instr} {h : Hart} {f : FormT} {s : State} (h_s : Kept Q s) :
  Keeps Q (execBrExp2 h f s) := by
  unfold execBrExp2
  repeat' (first | with_reducible assumption | with_reducible apply State.brArithI_kept)

theorem execBrLog2_kept {Q : List Instr} {h : Hart} {f : FormT} {s : State} (h_s : Kept Q s) :
  Keeps Q (execBrLog2 h f s) := by
  unfold execBrLog2
  repeat' (first | with_reducible assumption | with_reducible apply State.brArithI_kept)

theorem execBrAnd_kept {Q : List Instr} {h : Hart} {f : FormT} {s : State} (h_s : Kept Q s) :
  Keeps Q (execBrAnd h f s) := by
  unfold execBrAnd
  repeat' (first | with_reducible assumption | with_reducible apply State.brArithI_kept)

theorem execBrOr_kept {Q : List Instr} {h : Hart} {f : FormT} {s : State} (h_s : Kept Q s) :
  Keeps Q (execBrOr h f s) := by
  unfold execBrOr
  repeat' (first | with_reducible assumption | with_reducible apply State.brArithI_kept)

theorem execBrXor_kept {Q : List Instr} {h : Hart} {f : FormT} {s : State} (h_s : Kept Q s) :
  Keeps Q (execBrXor h f s) := by
  unfold execBrXor
  repeat' (first | with_reducible assumption | with_reducible apply State.brArithI_kept)

theorem execBrSll_kept {Q : List Instr} {h : Hart} {f : FormT} {s : State} (h_s : Kept Q s) :
  Keeps Q (execBrSll h f s) := by
  unfold execBrSll
  repeat' (first | with_reducible assumption | with_reducible apply State.brArithI_kept)

theorem execBrSrl_kept {Q : List Instr} {h : Hart} {f : FormT} {s : State} (h_s : Kept Q s) :
  Keeps Q (execBrSrl h f s) := by
  unfold execBrSrl
  repeat' (first | with_reducible assumption | with_reducible apply State.brArithI_kept)

theorem execBrSra_kept {Q : List Instr} {h : Hart} {f : FormT} {s : State} (h_s : Kept Q s) :
  Keeps Q (execBrSra h f s) := by
  unfold execBrSra
  repeat' (first | with_reducible assumption | with_reducible apply State.brArithI_kept)

theorem execBrCeq_kept {Q : List Instr} {h : Hart} {f : FormT} {s : State} (h_s : Kept Q s) :
  Keeps Q (execBrCeq h f s) := by
  unfold execBrCeq
  repeat' (first | with_reducible assumption | with_reducible apply State.brCompareI_kept)

theorem execBrClt_kept {Q : List Instr} {h : Hart} {f : FormT} {s : State} (h_s : Kept Q s) :
  Keeps Q (execBrClt h f s) := by
  unfold execBrClt
  repeat' (first | with_reducible assumption | with_reducible apply State.brCompareI_kept)

theorem execBrCle_kept {Q : List Instr} {h : Hart} {f : FormT} {s : State} (h_s : Kept Q s) :
  Keeps Q (execBrCle h f s) := by
  unfold execBrCle
  repeat' (first | with_reducible assumption | with_reducible apply State.brCompareI_kept)

theorem execBrSel_kept {Q : List Instr} {h : Hart} {f : FormT} {s : State} (h_s : Kept Q s) :
  Keeps Q (execBrSel h f s) := by
  unfold execBrSel
  repeat' (first | with_reducible assumption | with_reducible apply State.brGoT_kept)

theorem execBrMov_kept {Q : List Instr} {h : Hart} {f : FormT} {s : State} (h_s : Kept Q s) :
  Keeps Q (execBrMov h f s) := by
  unfold execBrMov
  repeat' (first | with_reducible assumption | with_reducible apply State.brMoveI_kept)

theorem execBrBcast_kept {Q : List Instr} {h : Hart} {f : FormT} {s : State} (h_s : Kept Q s) :
  Keeps Q (execBrBcast h f s) := by
  unfold execBrBcast
  repeat' (first | with_reducible assumption | with_reducible apply State.brGoT_kept)

theorem execBrPerm_kept {Q : List Instr} {h : Hart} {f : FormT} {s : State} (h_s : Kept Q s) :
  Keeps Q (execBrPerm h f s) := by
  unfold execBrPerm
  repeat' (first | with_reducible assumption | with_reducible apply State.brMoveI_kept)

theorem execBrToa_kept {Q : List Instr} {h : Hart} {f : FormT} {s : State} (h_s : Kept Q s) :
  Keeps Q (execBrToa h f s) := by
  unfold execBrToa
  repeat' (first | with_reducible assumption | with_reducible apply State.brGoT_kept)

theorem execBrFroma_kept {Q : List Instr} {h : Hart} {f : FormT} {s : State} (h_s : Kept Q s) :
  Keeps Q (execBrFroma h f s) := by
  unfold execBrFroma
  repeat' (first | with_reducible assumption | with_reducible apply State.brGoT_kept)

theorem execBrCvtn_kept {Q : List Instr} {h : Hart} {f : FormT} {s : State} (h_s : Kept Q s) :
  Keeps Q (execBrCvtn h f s) := by
  unfold execBrCvtn
  repeat' (first | with_reducible assumption | with_reducible apply State.brMoveI_kept)

theorem execBrCvtw_kept {Q : List Instr} {h : Hart} {f : FormT} {s : State} (h_s : Kept Q s) :
  Keeps Q (execBrCvtw h f s) := by
  unfold execBrCvtw
  repeat' (first | with_reducible assumption | with_reducible apply State.brMoveI_kept)

theorem execBrItof_kept {Q : List Instr} {h : Hart} {f : FormT} {s : State} (h_s : Kept Q s) :
  Keeps Q (execBrItof h f s) := by
  unfold execBrItof
  repeat' (first | with_reducible assumption | with_reducible apply State.brMoveI_kept)

theorem execBrFtoi_kept {Q : List Instr} {h : Hart} {f : FormT} {s : State} (h_s : Kept Q s) :
  Keeps Q (execBrFtoi h f s) := by
  unfold execBrFtoi
  repeat' (first | with_reducible assumption | with_reducible apply State.brMoveI_kept)

theorem execBrMxs_kept {Q : List Instr} {h : Hart} {f : FormT} {s : State} (h_s : Kept Q s) :
  Keeps Q (execBrMxs h f s) := by
  unfold execBrMxs
  repeat' (first | with_reducible assumption | with_reducible apply State.brMoveI_kept)

theorem execBrMxq_kept {Q : List Instr} {h : Hart} {f : FormT} {s : State} (h_s : Kept Q s) :
  Keeps Q (execBrMxq h f s) := by
  unfold execBrMxq
  repeat' (first | with_reducible assumption | with_reducible apply State.brMoveI_kept)

theorem execBrGath_kept {Q : List Instr} {h : Hart} {f : FormT} {s : State} (h_s : Kept Q s) :
  Keeps Q (execBrGath h f s) := by
  unfold execBrGath
  repeat' (first | with_reducible assumption | with_reducible apply State.brGatherI_kept)

theorem execBrScat_kept {Q : List Instr} {h : Hart} {f : FormT} {s : State} (h_s : Kept Q s) :
  Keeps Q (execBrScat h f s) := by
  unfold execBrScat
  repeat' (first | with_reducible assumption | with_reducible apply State.brGatherI_kept)

theorem execBrLd_kept {Q : List Instr} {h : Hart} {f : FormK} {s : State} (h_s : Kept Q s) :
  Keeps Q (execBrLd h f s) := by
  unfold execBrLd
  repeat' (first | with_reducible assumption | with_reducible apply State.brSheetI_kept)

theorem execBrSt_kept {Q : List Instr} {h : Hart} {f : FormK} {s : State} (h_s : Kept Q s) :
  Keeps Q (execBrSt h f s) := by
  unfold execBrSt
  repeat' (first | with_reducible assumption | with_reducible apply State.brSheetI_kept)

theorem execBrAddi_kept {Q : List Instr} {h : Hart} {f : FormK} {s : State} (h_s : Kept Q s) :
  Keeps Q (execBrAddi h f s) := by
  unfold execBrAddi
  repeat' (first | with_reducible assumption | with_reducible apply State.brImmI_kept)

theorem execBrMuli_kept {Q : List Instr} {h : Hart} {f : FormK} {s : State} (h_s : Kept Q s) :
  Keeps Q (execBrMuli h f s) := by
  unfold execBrMuli
  repeat' (first | with_reducible assumption | with_reducible apply State.brImmI_kept)

theorem execBrMini_kept {Q : List Instr} {h : Hart} {f : FormK} {s : State} (h_s : Kept Q s) :
  Keeps Q (execBrMini h f s) := by
  unfold execBrMini
  repeat' (first | with_reducible assumption | with_reducible apply State.brImmI_kept)

theorem execBrMaxi_kept {Q : List Instr} {h : Hart} {f : FormK} {s : State} (h_s : Kept Q s) :
  Keeps Q (execBrMaxi h f s) := by
  unfold execBrMaxi
  repeat' (first | with_reducible assumption | with_reducible apply State.brImmI_kept)

theorem execBrMovi_kept {Q : List Instr} {h : Hart} {f : FormK} {s : State} (h_s : Kept Q s) :
  Keeps Q (execBrMovi h f s) := by
  unfold execBrMovi
  repeat' (first | with_reducible assumption | with_reducible apply State.brImmI_kept)

theorem execBrSeed_kept {Q : List Instr} {h : Hart} {f : FormK} {s : State} (h_s : Kept Q s) :
  Keeps Q (execBrSeed h f s) := by
  unfold execBrSeed
  repeat' (first | with_reducible assumption | with_reducible apply State.brIssue_kept | with_reducible apply State.issue_kept | with_reducible apply kept_next | with_reducible refine fun _ => ?_)

theorem execBrRdfl_kept {Q : List Instr} {h : Hart} {f : FormK} {s : State} (h_s : Kept Q s) :
  Keeps Q (execBrRdfl h f s) := by
  unfold execBrRdfl
  repeat' (first | with_reducible assumption | with_reducible apply State.issue_kept | with_reducible apply State.modCtx_kept | with_reducible apply State.waits_kept | with_reducible apply kept_next | with_reducible refine fun _ => ?_ | split)

theorem execRsSum_kept {Q : List Instr} {h : Hart} {f : FormT} {s : State} (h_s : Kept Q s) :
  Keeps Q (execRsSum h f s) := by
  unfold execRsSum
  repeat' (first | with_reducible assumption | with_reducible apply State.brReduceI_kept)

theorem execRsMax_kept {Q : List Instr} {h : Hart} {f : FormT} {s : State} (h_s : Kept Q s) :
  Keeps Q (execRsMax h f s) := by
  unfold execRsMax
  repeat' (first | with_reducible assumption | with_reducible apply State.brReduceI_kept)

theorem execRsMin_kept {Q : List Instr} {h : Hart} {f : FormT} {s : State} (h_s : Kept Q s) :
  Keeps Q (execRsMin h f s) := by
  unfold execRsMin
  repeat' (first | with_reducible assumption | with_reducible apply State.brReduceI_kept)

theorem execRsArgmax_kept {Q : List Instr} {h : Hart} {f : FormT} {s : State} (h_s : Kept Q s) :
  Keeps Q (execRsArgmax h f s) := by
  unfold execRsArgmax
  repeat' (first | with_reducible assumption | with_reducible apply State.brReduceI_kept)

theorem execRsScan_kept {Q : List Instr} {h : Hart} {f : FormT} {s : State} (h_s : Kept Q s) :
  Keeps Q (execRsScan h f s) := by
  unfold execRsScan
  repeat' (first | with_reducible assumption | with_reducible apply State.brGoT_kept)

theorem execRsDot_kept {Q : List Instr} {h : Hart} {f : FormT} {s : State} (h_s : Kept Q s) :
  Keeps Q (execRsDot h f s) := by
  unfold execRsDot
  repeat' (first | with_reducible assumption | with_reducible apply State.brReduceI_kept)

theorem execSmSoftmax_kept {Q : List Instr} {h : Hart} {f : FormT} {s : State} (h_s : Kept Q s) :
  Keeps Q (execSmSoftmax h f s) := by
  unfold execSmSoftmax
  repeat' (first | with_reducible assumption | with_reducible apply State.brGoT_kept)

theorem execSmLse_kept {Q : List Instr} {h : Hart} {f : FormT} {s : State} (h_s : Kept Q s) :
  Keeps Q (execSmLse h f s) := by
  unfold execSmLse
  repeat' (first | with_reducible assumption | with_reducible apply State.brGoT_kept)

end Sys2Proof.Machine
end

