-- ==== Sys2Proof/Laws/KeptPowerOps.lean ====
section
/-! SUPPORT. What Machine/PowerOps.lean keeps: the queue, and the canonical form of memory and of the register file. -/

set_option linter.unreachableTactic false
set_option linter.unusedTactic false
set_option linter.unusedVariables false
set_option linter.unusedSimpArgs false

namespace Sys2Proof.Machine

theorem State.govStart_kept {Q : List Instr} {s : State} {was now : Bool} {gs : List Nat} (h_s : Kept Q s) :
  Kept Q (State.govStart s was now gs) := by
  unfold State.govStart
  repeat' (first | with_reducible assumption | with_reducible apply State.bump_kept | split)

theorem State.governPower_kept {Q : List Instr} {s : State} (h_s : Kept Q s) :
  Kept Q (State.governPower s) := by
  unfold State.governPower
  repeat' (first | with_reducible assumption | with_reducible apply State.govStart_kept | with_reducible apply State.setDx_kept)

theorem State.governTemp_kept {Q : List Instr} {s : State} (h_s : Kept Q s) :
  Kept Q (State.governTemp s) := by
  unfold State.governTemp
  repeat' (first | with_reducible assumption | with_reducible apply State.govStart_kept | with_reducible apply State.setDx_kept | with_reducible apply kept_foldl | with_reducible refine fun _ => ?_)

theorem State.enterL3_kept {Q : List Instr} {s : State} (h_s : Kept Q s) :
  Kept Q (State.enterL3 s) := by
  unfold State.enterL3
  repeat' (first | with_reducible assumption | with_reducible apply State.requestFolio_kept | (extract_lets +onlyGivenNames t; (have ht : Kept Q t := (by unfold t; repeat' (first | with_reducible assumption | with_reducible apply State.modPower_kept | with_reducible apply State.setRbit_kept))); clear_value t) | split)

theorem State.enterL4_kept {Q : List Instr} {s : State} (h_s : Kept Q s) :
  Kept Q (State.enterL4 s) := by
  unfold State.enterL4
  repeat' (first | with_reducible assumption | with_reducible apply State.setRbit_kept | (extract_lets +onlyGivenNames t; (have ht : Kept Q t := (by unfold t; repeat' (first | with_reducible assumption | with_reducible apply State.bump_kept | with_reducible apply State.folioAbandon_kept | with_reducible apply State.lanDown_kept | with_reducible apply State.loseCaches_kept | with_reducible apply State.modPower_kept | with_reducible apply State.orderDepart_kept | with_reducible apply State.queueDoms_kept | with_reducible apply State.setRbit_kept | (simp only [kept_mk]; with_reducible apply kept_fold) | with_reducible apply kept_foldl | split))); clear_value t) | (extract_lets +onlyGivenNames t; clear_value t) | split)

theorem State.moduleReset_kept {Q : List Instr} {s : State} {keep : Bool} (h_s : Kept Q s) :
  Kept Q (State.moduleReset s keep) := by
  unfold State.moduleReset
  repeat' (first | with_reducible assumption | (simp only [kept_mk]; with_reducible apply kept_fold_both))

theorem State.bringUp_kept {Q : List Instr} {s : State} (h_s : Kept Q s) :
  Kept Q (State.bringUp s) := by
  unfold State.bringUp
  repeat' (first | with_reducible assumption | with_reducible apply State.isolate_kept | with_reducible apply State.modPower_kept | with_reducible apply State.powerShow_kept | with_reducible apply State.queueDoms_kept)

theorem State.ladderClear_kept {Q : List Instr} {s : State} (h_s : Kept Q s) :
  Kept Q (State.ladderClear s) := by
  unfold State.ladderClear
  repeat' (first | with_reducible assumption | with_reducible apply State.modPower_kept | with_reducible apply State.setRbit_kept | with_reducible apply State.setRfld_kept)

theorem State.warmReset_kept {Q : List Instr} {s : State} (h_s : Kept Q s) :
  Kept Q (State.warmReset s) := by
  unfold State.warmReset
  repeat' (first | with_reducible assumption | with_reducible apply State.bringUp_kept | with_reducible apply State.ladderClear_kept | with_reducible apply State.moduleReset_kept | with_reducible apply State.setRbit_kept | (simp only [kept_mk]; with_reducible apply kept_fold) | with_reducible apply kept_foldl | with_reducible refine fun _ => ?_)

theorem State.feOrderWarm_kept {Q : List Instr} {s : State} (h_s : Kept Q s) :
  Kept Q (State.feOrderWarm s) := by
  unfold State.feOrderWarm
  repeat' (first | with_reducible assumption | with_reducible apply State.enterL4_kept | with_reducible apply State.modPower_kept | with_reducible apply State.setRbit_kept | split)

theorem State.enterL5_kept {Q : List Instr} {s : State} (h_s : Kept Q s) :
  Kept Q (State.enterL5 s) := by
  unfold State.enterL5
  repeat' (first | with_reducible assumption | with_reducible apply State.modPower_kept | with_reducible apply State.moduleReset_kept | with_reducible apply State.queueDoms_kept | with_reducible apply State.setRbit_kept)

theorem State.brownOut_kept {Q : List Instr} {s : State} (h_s : Kept Q s) :
  Kept Q (State.brownOut s) := by
  exact ⟨h_s.pending, rfl, rfl⟩

theorem State.ladderActions_kept {Q : List Instr} {s : State} (h_s : Kept Q s) :
  Kept Q (State.ladderActions s) := by
  unfold State.ladderActions
  repeat' (first | with_reducible assumption | with_reducible apply State.commitsGoOn_kept | (extract_lets +onlyGivenNames t; (have ht : Kept Q t := (by unfold t; repeat' (first | with_reducible assumption | with_reducible apply State.enterL3_kept | with_reducible apply State.enterL4_kept | with_reducible apply State.enterL5_kept | with_reducible apply State.modPower_kept | with_reducible apply State.powerShow_kept | split))); clear_value t) | (extract_lets +onlyGivenNames t; clear_value t) | split)

theorem State.countLow_kept {Q : List Instr} {s : State} {i : Nat} {below : Bool} (h_s : Kept Q s) :
  Kept Q (State.countLow s i below) := by
  unfold State.countLow
  repeat' (first | with_reducible assumption | with_reducible apply State.modPower_kept)

theorem State.countSample_kept {Q : List Instr} {s : State} {vin vhu : Nat} (h_s : Kept Q s) :
  Kept Q (State.countSample s vin vhu) := by
  unfold State.countSample
  repeat' (first | with_reducible assumption | with_reducible apply State.countLow_kept | with_reducible apply State.modPower_kept | with_reducible apply kept_foldl | with_reducible refine fun _ => ?_)

theorem State.voltLadder_kept {Q : List Instr} {s : State} {vin : Nat} (h_s : Kept Q s) :
  Kept Q (State.voltLadder s vin) := by
  unfold State.voltLadder
  repeat' (first | with_reducible assumption | with_reducible apply State.modPower_kept | with_reducible apply State.setRfld_kept | (extract_lets +onlyGivenNames t; (have ht : Kept Q t := (by unfold t; repeat' (first | with_reducible assumption | with_reducible apply State.bump_kept | with_reducible apply kept_foldl | with_reducible refine fun _ => ?_ | split))); clear_value t) | (extract_lets +onlyGivenNames t; clear_value t) | split)

theorem State.overVolt_kept {Q : List Instr} {s : State} (h_s : Kept Q s) :
  Kept Q (State.overVolt s) := by
  unfold State.overVolt
  repeat' (first | with_reducible assumption | with_reducible apply State.bump_kept | with_reducible apply State.setRbit_kept | split)

theorem State.thermLadder_kept {Q : List Instr} {s : State} (h_s : Kept Q s) :
  Kept Q (State.thermLadder s) := by
  unfold State.thermLadder
  repeat' (first | with_reducible assumption | with_reducible apply State.bump_kept | with_reducible apply State.modPower_kept | with_reducible apply State.setRfld_kept | (extract_lets +onlyGivenNames t; (have ht : Kept Q t := (by unfold t; repeat' (first | with_reducible assumption | with_reducible apply State.modPower_kept))); clear_value t) | (extract_lets +onlyGivenNames t; clear_value t) | split)

theorem State.powerSample_kept {Q : List Instr} {s : State} {p : PowerSample} (h_s : Kept Q s) :
  Kept Q (State.powerSample s p) := by
  unfold State.powerSample
  repeat' (first | with_reducible assumption | with_reducible apply State.brownOut_kept | with_reducible apply State.governPower_kept | with_reducible apply State.ladderActions_kept | with_reducible apply State.overVolt_kept | with_reducible apply State.voltLadder_kept | (extract_lets +onlyGivenNames t; (have ht : Kept Q t := (by unfold t; repeat' (first | with_reducible assumption | with_reducible apply State.addNj_kept | with_reducible apply State.countSample_kept | with_reducible apply State.modPower_kept | with_reducible apply State.setReg_kept | with_reducible apply State.startSwitches_kept))); clear_value t) | (extract_lets +onlyGivenNames t; clear_value t) | split)

theorem State.groupTest_kept {Q : List Instr} {s : State} {g : Nat} {pass : List Bool} (h_s : Kept Q s) :
  Kept Q (State.groupTest s g pass) := by
  unfold State.groupTest
  repeat' (first | with_reducible assumption | with_reducible apply State.report_kept | (simp only [kept_mk]; with_reducible apply kept_fold) | (extract_lets +onlyGivenNames t; (have ht : Kept Q t := (by unfold t; repeat' (first | with_reducible assumption | with_reducible apply State.setDom_kept | with_reducible apply State.setRbit_kept | with_reducible apply State.setReg_kept | with_reducible apply kept_foldl | with_reducible refine fun _ => ?_))); clear_value t) | (extract_lets +onlyGivenNames t; clear_value t) | split)

theorem State.startRole_kept {Q : List Instr} {s0 : State} (h_s0 : Kept Q s0) :
  Kept Q (State.startRole s0) := by
  unfold State.startRole
  repeat' (first | with_reducible assumption | with_reducible apply State.setRbit_kept | with_reducible apply State.setRfld_kept | with_reducible apply State.setRole_kept | (extract_lets +onlyGivenNames t; (have ht : Kept Q t := (by unfold t; repeat' (first | with_reducible assumption | with_reducible apply State.setRbit_kept))); clear_value t) | split)

theorem State.islandStart_kept {Q : List Instr} {s : State} (h_s : Kept Q s) :
  Kept Q (State.islandStart s) := by
  unfold State.islandStart
  repeat' (first | with_reducible assumption | with_reducible apply State.ledShow_kept | with_reducible apply State.setRbit_kept | with_reducible apply State.setRfld_kept | with_reducible apply kept_foldl | with_reducible refine fun _ => ?_)

end Sys2Proof.Machine
end

