-- ==== Sys2Proof/Laws/KeptFirmwareOps.lean ====
section
/-! SUPPORT. What Machine/FirmwareOps.lean keeps: the queue, and the canonical form of memory and of the register file. -/

set_option linter.unreachableTactic false
set_option linter.unusedTactic false
set_option linter.unusedVariables false
set_option linter.unusedSimpArgs false

namespace Sys2Proof.Machine

theorem State.setSlot_kept {Q : List Instr} {s : State} {slot : Nat} {im : Option FwImage} (h_s : Kept Q s) :
  Kept Q (State.setSlot s slot im) := by
  unfold State.setSlot
  repeat' (first | with_reducible assumption | (simp only [kept_mk]; with_reducible apply kept_fold))

theorem State.ringCreate_kept {Q : List Instr} {s : State} {r : Nat} {fair : Bool} {sq cq : Nat} (h_s : Kept Q s) :
  Kept Q (State.ringCreate s r fair sq cq) := by
  unfold State.ringCreate
  repeat' (first | with_reducible assumption | with_reducible apply State.homeForce_kept | with_reducible apply State.setRing_kept | with_reducible apply State.setVis_kept | (simp only [kept_mk]; with_reducible apply kept_fold_mem))

theorem State.place_kept {Q : List Instr} {s : State} (h_s : Kept Q s) :
  Kept Q (State.place s) := by
  unfold State.place
  repeat' (first | with_reducible assumption | with_reducible apply State.ringCreate_kept | with_reducible apply State.setReg_kept | (simp only [kept_mk]; with_reducible apply kept_fold) | (extract_lets +onlyGivenNames t; (have ht : Kept Q t := (by unfold t; repeat' (first | with_reducible assumption | with_reducible apply State.iwhwmWrite_kept | with_reducible apply State.setReg_kept | with_reducible apply State.setVis_kept | with_reducible apply kept_foldl | with_reducible refine fun _ => ?_ | split))); clear_value t) | (extract_lets +onlyGivenNames t; clear_value t) | split)

theorem State.startCopyists_kept {Q : List Instr} {s : State} (h_s : Kept Q s) :
  Kept Q (State.startCopyists s) := by
  unfold State.startCopyists
  repeat' (first | with_reducible assumption | with_reducible apply State.draw_kept' | with_reducible apply State.setCtx_kept | (simp only [kept_mk]; with_reducible apply kept_fold) | with_reducible apply kept_foldl | with_reducible refine fun _ => ?_)

theorem State.inkwellBack_kept {Q : List Instr} {s : State} (h_s : Kept Q s) :
  Kept Q (State.inkwellBack s) := by
  unfold State.inkwellBack
  repeat' (first | with_reducible assumption | with_reducible apply State.wr_kept | with_reducible apply kept_foldl | with_reducible refine fun _ => ?_)

theorem State.restartAll_kept {Q : List Instr} {s : State} (h_s : Kept Q s) :
  Kept Q (State.restartAll s) := by
  unfold State.restartAll
  repeat' (first | with_reducible assumption | with_reducible apply State.beginRestart_kept | with_reducible apply State.settleQueues_kept | (extract_lets +onlyGivenNames t; (have ht : Kept Q t := (by unfold t; repeat' (first | with_reducible assumption | with_reducible apply State.addRestart_kept | with_reducible refine State.draw_kept (by assumption) ?_ | with_reducible apply State.inkwellBack_kept | with_reducible apply State.loseJobs_kept | with_reducible apply State.setJob_kept | (simp only [kept_mk]; with_reducible apply kept_fold) | with_reducible apply kept_foldl | with_reducible refine fun _ => ?_ | split))); clear_value t) | (extract_lets +onlyGivenNames t; clear_value t) | split)

theorem State.dropCommits_kept {Q : List Instr} {s : State} (h_s : Kept Q s) :
  Kept Q (State.dropCommits s) := by
  unfold State.dropCommits
  repeat' (first | with_reducible assumption | (simp only [kept_mk]; with_reducible apply kept_fold))

theorem State.aloneNow_kept {Q : List Instr} {s0 : State} (h_s0 : Kept Q s0) :
  Kept Q (State.aloneNow s0) := by
  unfold State.aloneNow
  repeat' (first | with_reducible assumption | with_reducible apply State.restartAll_kept | with_reducible apply State.settleQueues_kept | (extract_lets +onlyGivenNames t; (have ht : Kept Q t := (by unfold t; repeat' (first | with_reducible assumption | with_reducible apply State.dropCommits_kept))); clear_value t) | split)

theorem State.measureBoot_kept {Q : List Instr} {s : State} {slot : Nat} {i : FwImage} (h_s : Kept Q s) :
  Kept Q (State.measureBoot s slot i) := by
  unfold State.measureBoot
  repeat' (first | with_reducible assumption | with_reducible apply State.extend_kept)

theorem State.bootDone_kept {Q : List Instr} {s : State} (h_s : Kept Q s) :
  Kept Q (State.bootDone s) := by
  unfold State.bootDone
  dsimp only
  refine State.settleAll_kept (State.folioSettle_kept ?_)
  have h1 := State.place_kept h_s
  generalize s.place = s1 at h1 ⊢
  have h2 : Kept Q (((upto 128).filter (fun k => s1.joined (s1.phys k))).foldl (fun (t : State) k => t.enableCaches k) s1) :=
    kept_foldl (fun t x ht => State.enableCaches_kept ht) h1
  generalize ((upto 128).filter (fun k => s1.joined (s1.phys k))).foldl (fun (t : State) k => t.enableCaches k) s1 = s2 at h2 ⊢
  have h3 : Kept Q (s2.workers.foldl (fun (t : State) p => t.enableCaches (128 + p)) s2).startCopyists :=
    State.startCopyists_kept (kept_foldl (fun t x ht => State.enableCaches_kept ht) h2)
  generalize (s2.workers.foldl (fun (t : State) p => t.enableCaches (128 + p)) s2).startCopyists = s3 at h3 ⊢
  have h4 : Kept Q { (s3.setRbit regFwStatus 0 true) with fw := { s3.fw with eventNo := 0 } } := by
    have := State.setRbit_kept (k := regFwStatus) (n := 0) (b := true) h3
    exact ⟨this.pending, this.mem, this.regs⟩
  generalize ({ (s3.setRbit regFwStatus 0 true) with fw := { s3.fw with eventNo := 0 } } : State) = s4 at h4 ⊢
  have h5 : Kept Q ((upto 64).foldl (fun (t : State) r => t.takeDoorbell r) s4) := kept_foldl (fun t x ht => State.takeDoorbell_kept ht) h4
  generalize (upto 64).foldl (fun (t : State) r => t.takeDoorbell r) s4 = s5 at h5 ⊢
  split
  · exact State.aloneNow_kept h5
  · exact h5

theorem State.bootSlot_kept {Q : List Instr} {s : State} (h_s : Kept Q s) :
  Kept Q (State.bootSlot s) := by
  unfold State.bootSlot
  repeat' (first | with_reducible assumption | with_reducible apply State.alert_kept | with_reducible apply State.bootDone_kept | with_reducible apply State.fail_kept | with_reducible apply State.measureBoot_kept | with_reducible apply State.setRbit_kept | with_reducible apply State.setRfld_kept | (simp only [kept_mk]; with_reducible apply kept_fold) | (extract_lets +onlyGivenNames t; (have ht : Kept Q t := (by unfold t; repeat' (first | with_reducible assumption | with_reducible apply State.setRbit_kept | with_reducible apply State.setRfld_kept | (simp only [kept_mk]; with_reducible apply kept_fold) | split))); clear_value t) | (extract_lets +onlyGivenNames t; clear_value t) | split)

theorem State.ringConsume_kept {Q : List Instr} {s : State} {r : Nat} (h_s : Kept Q s) :
  Kept Q (State.ringConsume s r) := by
  unfold State.ringConsume
  repeat' (first | with_reducible assumption | with_reducible apply State.complete_kept | with_reducible apply State.stall_kept | (extract_lets +onlyGivenNames t; (have ht : Kept Q t := (by unfold t; repeat' (first | with_reducible assumption | with_reducible apply State.consume_kept | with_reducible apply State.unstall_kept | (simp only [kept_mk]; with_reducible apply kept_fold)))); clear_value t) | (extract_lets +onlyGivenNames t; clear_value t) | split)

theorem State.fwCrash_kept {Q : List Instr} {s : State} {cause : Nat} (h_s : Kept Q s) :
  Kept Q (State.fwCrash s cause) := by
  unfold State.fwCrash
  repeat' (first | with_reducible assumption | with_reducible apply State.fwHalt_kept | split)

theorem State.fwRestarted_kept {Q : List Instr} {s : State} (h_s : Kept Q s) :
  Kept Q (State.fwRestarted s) := by
  unfold State.fwRestarted
  extract_lets cause slot v t src u src1 s1 s2 recent src2 s3 slot2 s4 s5 s6
  have hu : Kept Q u := by
    have ht : Kept Q t := State.setRfld_kept (State.setRbit_kept h_s)
    exact ⟨ht.pending, ht.mem, ht.regs⟩
  have h1 : Kept Q s1 := by
    unfold s1
    split
    · split
      · exact ⟨hu.pending, hu.mem, hu.regs⟩
      · exact State.ledWrite_kept' hu
    · exact h_s
  have h2 : Kept Q s2 := State.bump_kept (State.setRbit_kept (State.setRbit_kept h1))
  have h3 : Kept Q s3 := ⟨h2.pending, h2.mem, h2.regs⟩
  have h4 : Kept Q s4 := by
    unfold s4
    exact State.post_kept (State.startCopyists_kept h3)
  have h5 : Kept Q s5 := by
    unfold s5
    exact kept_foldl (fun t x ht => State.takeDoorbell_kept ht) h4
  refine State.settleAll_kept (State.folioSettle_kept ?_)
  unfold s6
  split
  · exact State.report_kept (State.setRbit_kept h5)
  · exact h5

end Sys2Proof.Machine
end

