-- ==== Sys2Proof/Laws/KeptEthernetOps.lean ====
section
/-! SUPPORT. What Machine/EthernetOps.lean keeps: the queue, and the canonical form of memory and of the register file. -/

set_option linter.unreachableTactic false
set_option linter.unusedTactic false
set_option linter.unusedVariables false
set_option linter.unusedSimpArgs false

namespace Sys2Proof.Machine

theorem State.etherSpan_kept' {Q : List Instr} {s : State} {j : Nat} {k : AccKind} {va n : Nat} (h_s : Kept Q s) : Kept Q (State.etherSpan s j k va n).1 := by
  unfold State.etherSpan
  repeat' (first | with_reducible assumption | with_reducible apply State.poisonedRead_kept | with_reducible refine State.resolve_kept (by assumption) ?_ | split)


theorem State.etherSpan_kept {Q : List Instr} {s : State} {j : Nat} {k : AccKind} {va n : Nat} {r0 : State} {r1 : Option (List Part)} (e : State.etherSpan s j k va n = (r0, r1)) (h_s : Kept Q s) : Kept Q r0 := by
  have h := State.etherSpan_kept' (Q := Q) (s := s) (j := j) (k := k) (va := va) (n := n)  h_s
  rw [e] at h
  exact h

theorem State.etherRead_kept' {Q : List Instr} {s : State} {j va n : Nat} (h_s : Kept Q s) : Kept Q (State.etherRead s j va n).1 := by
  unfold State.etherRead
  repeat' (first | with_reducible assumption | with_reducible refine State.etherSpan_kept (by assumption) ?_ | with_reducible apply State.poisonedRead_kept | (extract_lets +onlyGivenNames t; (have ht : Kept Q t := (by unfold t; repeat' (first | with_reducible assumption | with_reducible refine State.etherSpan_kept (by assumption) ?_ | with_reducible apply State.memRead_kept | with_reducible apply kept_foldl | with_reducible refine fun _ => ?_))); clear_value t) | split)


theorem State.etherRead_kept {Q : List Instr} {s : State} {j va n : Nat} {r0 : State} {r1 : Option (List Byte)} (e : State.etherRead s j va n = (r0, r1)) (h_s : Kept Q s) : Kept Q r0 := by
  have h := State.etherRead_kept' (Q := Q) (s := s) (j := j) (va := va) (n := n)  h_s
  rw [e] at h
  exact h

theorem State.etherWrite_kept {Q : List Instr} {s : State} {e0 : List Part} {e1 : List Byte} (h_s : Kept Q s) :
  Kept Q (State.etherWrite s e0 e1) := by
  induction e0 generalizing s e1 <;> (
  unfold State.etherWrite
  repeat' (first | with_reducible assumption | with_reducible apply State.homeForce_kept | with_reducible apply_assumption -exfalso -symm))

theorem State.etherStore_kept' {Q : List Instr} {s : State} {j va : Nat} {b : List Byte} (h_s : Kept Q s) : Kept Q (State.etherStore s j va b).1 := by
  unfold State.etherStore
  repeat' (first | with_reducible assumption | with_reducible refine State.etherSpan_kept (by assumption) ?_ | with_reducible apply State.etherWrite_kept | split)


theorem State.etherStore_kept {Q : List Instr} {s : State} {j va : Nat} {b : List Byte} {r0 : State} {r1 : Bool} (e : State.etherStore s j va b = (r0, r1)) (h_s : Kept Q s) : Kept Q r0 := by
  have h := State.etherStore_kept' (Q := Q) (s := s) (j := j) (va := va) (b := b)  h_s
  rw [e] at h
  exact h

theorem State.qpError_kept {Q : List Instr} {s : State} {q syndrome : Nat} (h_s : Kept Q s) :
  Kept Q (State.qpError s q syndrome) := by
  unfold State.qpError
  repeat' (first | with_reducible assumption | with_reducible apply State.bump_kept | with_reducible apply State.post_kept | with_reducible apply State.setQp_kept | with_reducible apply State.setQpf_kept)

theorem State.qpRefuse_kept {Q : List Instr} {s : State} {q psn : Nat} (h_s : Kept Q s) :
  Kept Q (State.qpRefuse s q psn) := by
  unfold State.qpRefuse
  repeat' (first | with_reducible assumption | with_reducible apply State.bump_kept | with_reducible apply State.qpSend_kept | with_reducible apply State.setQp_kept | with_reducible apply State.setQpf_kept)

theorem State.cnpTry_kept {Q : List Instr} {s : State} {q : Nat} {ce : Bool} (h_s : Kept Q s) :
  Kept Q (State.cnpTry s q ce) := by
  unfold State.cnpTry
  repeat' (first | with_reducible assumption | with_reducible apply State.bump_kept | with_reducible apply State.qpSend_kept | with_reducible apply State.setQp_kept | (extract_lets +onlyGivenNames t; clear_value t) | split)

theorem State.inbound_kept {Q : List Instr} {s : State} {q : Nat} {m : RdmaMsg} {go : State → State} (h_s : Kept Q s) (h_go : ∀ y0, Kept Q y0 → Kept Q (go y0)) :
  Kept Q (State.inbound s q m go) := by
  unfold State.inbound
  repeat' (first | with_reducible assumption | with_reducible apply State.qpRefuse_kept | with_reducible apply State.qpSend_kept | with_reducible apply h_go | (extract_lets +onlyGivenNames t; (have ht : Kept Q t := (by unfold t; repeat' (first | with_reducible assumption | with_reducible apply State.cnpTry_kept))); clear_value t) | split)

theorem State.inboundDone_kept {Q : List Instr} {s : State} {q psn n : Nat} (h_s : Kept Q s) :
  Kept Q (State.inboundDone s q psn n) := by
  unfold State.inboundDone
  repeat' (first | with_reducible assumption | with_reducible apply State.qpSend_kept | with_reducible apply State.setQpf_kept)

theorem State.rdmaWrite_kept {Q : List Instr} {s : State} {q : Nat} {m : RdmaMsg} {after : State → State} (h_s : Kept Q s) (h_after : ∀ y0, Kept Q y0 → Kept Q (after y0)) :
  Kept Q (State.rdmaWrite s q m after) := by
  unfold State.rdmaWrite
  repeat' (first | with_reducible assumption | with_reducible refine State.etherStore_kept (by assumption) ?_ | with_reducible apply State.inbound_kept | with_reducible apply State.inboundDone_kept | with_reducible apply State.qpRefuse_kept | with_reducible apply h_after | with_reducible refine fun _ => ?_ | split)

theorem State.markDropped_kept {Q : List Instr} {s : State} {q handle psn : Nat} (h_s : Kept Q s) :
  Kept Q (State.markDropped s q handle psn) := by
  unfold State.markDropped
  repeat' (first | with_reducible assumption | with_reducible apply State.sendCtl_kept | split)

theorem State.immSignal_kept {Q : List Instr} {s : State} {q : Nat} {imm : BitVec 32} {psn : Nat} (h_s : Kept Q s) :
  Kept Q (State.immSignal s q imm psn) := by
  unfold State.immSignal
  repeat' (first | with_reducible assumption | with_reducible apply State.bump_kept | with_reducible refine State.linkSignal_kept (by assumption) ?_ | with_reducible apply State.markDropped_kept | (extract_lets +onlyGivenNames t; clear_value t) | split)

theorem State.rdmaRead_kept {Q : List Instr} {s : State} {q : Nat} {m : RdmaMsg} (h_s : Kept Q s) :
  Kept Q (State.rdmaRead s q m) := by
  unfold State.rdmaRead
  repeat' (first | with_reducible assumption | with_reducible refine State.etherRead_kept (by assumption) ?_ | with_reducible apply State.inbound_kept | with_reducible apply State.qpRefuse_kept | with_reducible apply State.qpSend_kept | with_reducible apply State.setQpf_kept | with_reducible refine fun _ => ?_ | split)

theorem State.localSignal_kept {Q : List Instr} {s : State} {j : Nat} {hd : Option Nat} (h_s : Kept Q s) :
  Kept Q (State.localSignal s j hd) := by
  unfold State.localSignal
  repeat' (first | with_reducible assumption | with_reducible apply State.sendMark_kept | split)

theorem State.emitEntry_kept {Q : List Instr} {s : State} {q : Nat} {e : QpEnt} {b : List Byte} {imm : Nat} (h_s : Kept Q s) :
  Kept Q (State.emitEntry s q e b imm) := by
  unfold State.emitEntry
  repeat' (first | with_reducible assumption | with_reducible apply State.qpSend_kept | (extract_lets +onlyGivenNames t; clear_value t) | split)

theorem State.takeEntry_kept {Q : List Instr} {s : State} {q : Nat} (h_s : Kept Q s) :
  Kept Q (State.takeEntry s q) := by
  unfold State.takeEntry
  repeat' (first | with_reducible assumption | with_reducible apply State.emitEntry_kept | with_reducible apply State.setQp_kept | with_reducible apply State.setQpf_kept | (extract_lets +onlyGivenNames t; (have ht : Kept Q t := (by unfold t; repeat' (first | with_reducible assumption | with_reducible apply State.memRead_kept))); clear_value t) | (extract_lets +onlyGivenNames t; (have ht : Kept Q t.1 := (by unfold t; repeat' (first | with_reducible assumption | with_reducible apply State.etherRead_kept' | split))); clear_value t) | (extract_lets +onlyGivenNames t; (have ht : ∀ a, Kept Q a → Kept Q (t a) := (by unfold t; repeat' (first | with_reducible assumption | with_reducible apply State.draw_kept' | with_reducible apply State.qpError_kept | with_reducible refine fun _ => ?_))); clear_value t) | (extract_lets +onlyGivenNames t; clear_value t) | (with_reducible apply_assumption -exfalso -symm) | split)

theorem State.qpDoorbell_kept {Q : List Instr} {s : State} {q : Nat} {v : Word} (h_s : Kept Q s) :
  Kept Q (State.qpDoorbell s q v) := by
  unfold State.qpDoorbell
  repeat' (first | with_reducible assumption | with_reducible apply State.takeEntry_kept | with_reducible apply kept_foldl | with_reducible refine fun _ => ?_ | (extract_lets +onlyGivenNames t; (have ht : Kept Q t := (by unfold t; repeat' (first | with_reducible assumption | with_reducible apply State.setReg_kept))); clear_value t) | (extract_lets +onlyGivenNames t; clear_value t) | split)

theorem State.entryDone_kept {Q : List Instr} {s : State} {q : Nat} {e : QpEnt} (h_s : Kept Q s) :
  Kept Q (State.entryDone s q e) := by
  unfold State.entryDone
  repeat' (first | with_reducible assumption | with_reducible apply State.localSignal_kept | with_reducible apply State.setQpf_kept)

theorem State.ackEntries_kept' {Q : List Instr} {s : State} {q psn : Nat} {e0 : List QpEnt} (h_s : Kept Q s) : Kept Q (State.ackEntries s q psn e0).1 := by
  induction e0 generalizing s with
  | nil => exact h_s
  | cons e r ih =>
    unfold State.ackEntries
    split
    · exact h_s
    · split
      · exact ih (State.entryDone_kept h_s)
      · split <;> exact h_s

theorem State.ackEntries_kept {Q : List Instr} {s : State} {q psn : Nat} {e0 : List QpEnt} {r0 : State} {r1 : List QpEnt} (e : State.ackEntries s q psn e0 = (r0, r1)) (h_s : Kept Q s) : Kept Q r0 := by
  have h := State.ackEntries_kept' (Q := Q) (s := s) (q := q) (psn := psn) (e0 := e0) h_s
  rw [e] at h
  exact h

theorem State.qpAck_kept {Q : List Instr} {s : State} {q psn : Nat} (h_s : Kept Q s) :
  Kept Q (State.qpAck s q psn) := by
  unfold State.qpAck
  repeat' (first | with_reducible assumption | with_reducible apply State.ackEntries_kept' | with_reducible apply State.setQp_kept)

theorem State.qpResend_kept {Q : List Instr} {s : State} {q : Nat} (h_s : Kept Q s) :
  Kept Q (State.qpResend s q) := by
  unfold State.qpResend
  repeat' (first | with_reducible assumption | with_reducible apply State.draw_kept' | with_reducible apply State.emitEntry_kept | with_reducible refine State.etherRead_kept (by assumption) ?_ | with_reducible apply State.qpError_kept | with_reducible apply kept_foldl | with_reducible refine fun _ => ?_ | (extract_lets +onlyGivenNames t; (have ht : Kept Q t := (by unfold t; repeat' (first | with_reducible assumption | with_reducible apply State.bumpBy_kept | with_reducible apply State.setQp_kept))); clear_value t) | (extract_lets +onlyGivenNames t; clear_value t) | split)

theorem State.qpReadData_kept {Q : List Instr} {s : State} {q psn : Nat} {b : List Byte} (h_s : Kept Q s) :
  Kept Q (State.qpReadData s q psn b) := by
  unfold State.qpReadData
  repeat' (first | with_reducible assumption | with_reducible apply State.draw_kept' | with_reducible apply State.entryDone_kept | with_reducible refine State.etherStore_kept (by assumption) ?_ | with_reducible apply State.qpError_kept | with_reducible apply State.setQp_kept | (extract_lets +onlyGivenNames t; clear_value t) | split)

theorem State.cnpTake_kept {Q : List Instr} {s : State} {q : Nat} (h_s : Kept Q s) :
  Kept Q (State.cnpTake s q) := by
  unfold State.cnpTake
  repeat' (first | with_reducible assumption | with_reducible apply State.bump_kept | with_reducible apply State.setQp_kept)

theorem State.rateRaise_kept {Q : List Instr} {s : State} {q : Nat} (h_s : Kept Q s) :
  Kept Q (State.rateRaise s q) := by
  unfold State.rateRaise
  repeat' (first | with_reducible assumption | with_reducible apply State.setQp_kept)

theorem State.sliceServe_kept {Q : List Instr} {s : State} {q : Nat} {r : SliceReq} {b : List Byte} (h_s : Kept Q s) :
  Kept Q (State.sliceServe s q r b) := by
  unfold State.sliceServe
  repeat' (first | with_reducible assumption | with_reducible apply State.bump_kept | with_reducible apply State.sendCtl_kept | (extract_lets +onlyGivenNames t; (have ht : ∀ a b, Kept Q (t a b) := (by unfold t; repeat' (first | with_reducible assumption | with_reducible apply State.poisonedRead_kept | with_reducible apply State.qpSend_kept | with_reducible refine State.readRows_kept (by assumption) ?_ | with_reducible apply State.sendCtl_kept | with_reducible apply State.setQpf_kept | with_reducible refine fun _ => ?_ | split))); clear_value t) | (extract_lets +onlyGivenNames t; clear_value t) | (with_reducible apply_assumption -exfalso -symm) | split)

theorem State.sliceData_kept {Q : List Instr} {s : State} {q psn : Nat} {b : List Byte} (h_s : Kept Q s) :
  Kept Q (State.sliceData s q psn b) := by
  unfold State.sliceData
  repeat' (first | with_reducible assumption | with_reducible apply State.setQp_kept | with_reducible apply State.sliceServe_kept | (extract_lets +onlyGivenNames t; clear_value t) | split)

theorem State.batchGone_kept {Q : List Instr} {s : State} {j : Nat} (h_s : Kept Q s) :
  Kept Q (State.batchGone s j) := by
  unfold State.batchGone
  repeat' (first | with_reducible assumption | with_reducible apply State.complete_kept | with_reducible apply State.draw_kept' | (extract_lets +onlyGivenNames t; clear_value t) | split)

theorem State.groupAsk_kept {Q : List Instr} {s : State} {j : Nat} (h_s : Kept Q s) :
  Kept Q (State.groupAsk s j) := by
  unfold State.groupAsk
  repeat' (first | with_reducible assumption | with_reducible apply State.groupFolioAt_kept | split)

theorem State.folioAt_kept {Q : List Instr} {s : State} {j : Nat} {step : Word} (h_s : Kept Q s) :
  Kept Q (State.folioAt s j step) := by
  unfold State.folioAt
  repeat' (first | with_reducible assumption | with_reducible apply State.groupStep_kept | with_reducible apply State.setGroup_kept | (extract_lets +onlyGivenNames t; clear_value t) | split)

theorem State.memberSealed_kept {Q : List Instr} {s : State} {j rank n : Nat} {step : Word} (h_s : Kept Q s) :
  Kept Q (State.memberSealed s j rank n step) := by
  unfold State.memberSealed
  repeat' (first | with_reducible assumption | with_reducible apply State.groupCheck_kept | with_reducible apply State.setGroup_kept | (extract_lets +onlyGivenNames t; clear_value t) | split)

theorem State.groupAck_kept {Q : List Instr} {s : State} {j rank n : Nat} (h_s : Kept Q s) :
  Kept Q (State.groupAck s j rank n) := by
  unfold State.groupAck
  repeat' (first | with_reducible assumption | with_reducible apply State.groupResume_kept | with_reducible apply State.setGroup_kept | (extract_lets +onlyGivenNames t; clear_value t) | split)

theorem State.groupRollback_kept {Q : List Instr} {s : State} {j rank n : Nat} (h_s : Kept Q s) :
  Kept Q (State.groupRollback s j rank n) := by
  unfold State.groupRollback
  repeat' (first | with_reducible assumption | with_reducible apply State.draw_kept' | with_reducible apply State.groupResume_kept | with_reducible apply State.postResumed_kept | with_reducible apply State.sendAll_kept | with_reducible apply State.setJob_kept | (extract_lets +onlyGivenNames t; (have ht : Kept Q t := (by unfold t; repeat' (first | with_reducible assumption | with_reducible apply State.cbSend_kept | with_reducible apply State.restoreJob_kept | with_reducible apply State.rollbackTo_kept | with_reducible apply State.setGroup_kept | split))); clear_value t) | (extract_lets +onlyGivenNames t; clear_value t) | split)

theorem State.ingSignal_kept {Q : List Instr} {s : State} {r old new : Nat} (h_s : Kept Q s) :
  Kept Q (State.ingSignal s r old new) := by
  unfold State.ingSignal
  repeat' (first | with_reducible assumption | with_reducible apply State.sendMark_kept | with_reducible apply kept_foldl | with_reducible refine fun _ => ?_ | (extract_lets +onlyGivenNames t; clear_value t) | split)

theorem State.ingestTake_kept {Q : List Instr} {s : State} {r : Nat} {seq : Word} {len : Nat} {rsv : Bool} {d : List Byte} (h_s : Kept Q s) :
  Kept Q (State.ingestTake s r seq len rsv d) := by
  unfold State.ingestTake
  repeat' (first | with_reducible assumption | with_reducible apply State.bump_kept | with_reducible apply State.ingSignal_kept | with_reducible apply State.setReg_kept | (extract_lets +onlyGivenNames t; (have ht : Kept Q t := (by unfold t; repeat' (first | with_reducible assumption | with_reducible apply State.homeForce_kept | (simp only [kept_mk]; with_reducible apply kept_fold)))); clear_value t) | (extract_lets +onlyGivenNames t; clear_value t) | split)

theorem State.enReject_kept {Q : List Instr} {s : State} (h_s : Kept Q s) :
  Kept Q (State.enReject s) := by
  unfold State.enReject
  repeat' (first | with_reducible assumption | with_reducible apply State.setRbit_kept)

theorem State.enCfgWrite_kept {Q : List Instr} {s : State} {p : Nat} {v : Word} (h_s : Kept Q s) :
  Kept Q (State.enCfgWrite s p v) := by
  unfold State.enCfgWrite
  repeat' (first | with_reducible assumption | with_reducible apply State.setRfld_kept | (extract_lets +onlyGivenNames t; (have ht : Kept Q t := (by unfold t; repeat' (first | with_reducible assumption | with_reducible apply State.swReg_kept))); clear_value t) | split)

theorem State.enIngbaseWrite_kept {Q : List Instr} {s : State} {v : Word} (h_s : Kept Q s) :
  Kept Q (State.enIngbaseWrite s v) := by
  unfold State.enIngbaseWrite
  repeat' (first | with_reducible assumption | with_reducible apply State.enReject_kept | with_reducible apply State.swReg_kept | (extract_lets +onlyGivenNames t; clear_value t) | split)

theorem State.enQptabWrite_kept {Q : List Instr} {s : State} {v : Word} (h_s : Kept Q s) :
  Kept Q (State.enQptabWrite s v) := by
  unfold State.enQptabWrite
  repeat' (first | with_reducible assumption | with_reducible apply State.enReject_kept | with_reducible apply State.swReg_kept | (extract_lets +onlyGivenNames t; clear_value t) | split)

theorem State.enIngWrite_kept {Q : List Instr} {s : State} {r : Nat} {v : Word} (h_s : Kept Q s) :
  Kept Q (State.enIngWrite s r v) := by
  unfold State.enIngWrite
  repeat' (first | with_reducible assumption | with_reducible apply State.enReject_kept | with_reducible apply State.swReg_kept | split)

theorem State.enIngmkWrite_kept {Q : List Instr} {s : State} {r : Nat} {v : Word} (h_s : Kept Q s) :
  Kept Q (State.enIngmkWrite s r v) := by
  unfold State.enIngmkWrite
  repeat' (first | with_reducible assumption | with_reducible apply State.setRfld_kept | (extract_lets +onlyGivenNames t; (have ht : Kept Q t := (by unfold t; repeat' (first | with_reducible assumption | with_reducible apply State.swReg_kept))); clear_value t) | split)

end Sys2Proof.Machine
end

