-- ==== Sys2Proof/Laws/KeptGatherEvents.lean ====
section
/-! SUPPORT. What Machine/GatherEvents.lean keeps: the queue, and the canonical form of memory and of the register file. -/

set_option linter.unreachableTactic false
set_option linter.unusedTactic false
set_option linter.unusedVariables false
set_option linter.unusedSimpArgs false

namespace Sys2Proof.Machine

theorem execNbRequestServe_kept {Q : List Instr} {k : Nat} {r : NearEnd} {s : State} (h_s : Kept Q s) :
  Keeps Q (execNbRequestServe k r s) := by
  unfold execNbRequestServe
  repeat' (first | with_reducible assumption | with_reducible apply State.demandErrs_kept | with_reducible apply State.nbServe_kept | with_reducible apply kept_next | split)

theorem execNbPartialReturn_kept {Q : List Instr} {c : Nat} {r : PartialEnd} {s : State} (h_s : Kept Q s) :
  Keeps Q (execNbPartialReturn c r s) := by
  unfold execNbPartialReturn
  repeat' (first | with_reducible assumption | with_reducible apply State.nbReturn_kept | with_reducible apply State.skCrc_kept | with_reducible apply kept_next | split)

theorem execLgTileComplete_kept {Q : List Instr} {c n : Nat} {r : NearEnd} {s : State} (h_s : Kept Q s) :
  Keeps Q (execLgTileComplete c n r s) := by
  unfold execLgTileComplete
  repeat' (first | with_reducible assumption | with_reducible apply State.lgComplete_kept | with_reducible apply kept_next)

theorem execLoadWindowEnd_kept {Q : List Instr} {s : State} (h_s : Kept Q s) :
  Keeps Q (execLoadWindowEnd s) := by
  unfold execLoadWindowEnd
  repeat' (first | with_reducible assumption | with_reducible apply State.hotWindow_kept | with_reducible apply kept_next)

theorem execNbHotareaWrite_kept {Q : List Instr} {k : Nat} {v : Word} {s : State} (h_s : Kept Q s) :
  Keeps Q (execNbHotareaWrite k v s) := by
  unfold execNbHotareaWrite
  repeat' (first | with_reducible assumption | with_reducible apply State.setRbit_kept | with_reducible apply State.swReg_kept | with_reducible apply kept_next | split)

end Sys2Proof.Machine
end

