-- ==== Sys2Proof/Laws/KeptPower.lean ====
section
/-! SUPPORT. What Machine/Power.lean keeps: the queue, and the canonical form of memory and of the register file. -/

set_option linter.unreachableTactic false
set_option linter.unusedTactic false
set_option linter.unusedVariables false
set_option linter.unusedSimpArgs false

namespace Sys2Proof.Machine

theorem execPowerSample_kept {Q : List Instr} {p : PowerSample} {s : State} (h_s : Kept Q s) :
  Keeps Q (execPowerSample p s) := by
  unfold execPowerSample
  repeat' (first | with_reducible assumption | with_reducible apply State.powerSample_kept | with_reducible apply kept_next | with_reducible exact keeps_fault | split)

theorem execTempSample_kept {Q : List Instr} {t dom : List (BitVec 16)} {s : State} (h_s : Kept Q s) :
  Keeps Q (execTempSample t dom s) := by
  unfold execTempSample
  repeat' (first | with_reducible assumption | with_reducible apply State.governTemp_kept | with_reducible apply State.ladderActions_kept | with_reducible apply State.setReg_kept | with_reducible apply State.thermLadder_kept | with_reducible apply kept_next | with_reducible apply kept_foldl | with_reducible refine fun _ => ?_)

theorem execPhaseSpareIn_kept {Q : List Instr} {ph : Nat} {s : State} (h_s : Kept Q s) :
  Keeps Q (execPhaseSpareIn ph s) := by
  unfold execPhaseSpareIn
  repeat' (first | with_reducible assumption | with_reducible apply State.bump_kept | with_reducible apply State.report_kept | with_reducible apply kept_next | (extract_lets +onlyGivenNames t; (have ht : Kept Q t := (by unfold t; repeat' (first | with_reducible assumption | with_reducible apply State.setRbit_kept | with_reducible apply State.setRfld_kept))); clear_value t) | (extract_lets +onlyGivenNames t; clear_value t) | split)

theorem execDomainSwitchComplete_kept {Q : List Instr} {d : Nat} {s : State} (h_s : Kept Q s) :
  Keeps Q (execDomainSwitchComplete d s) := by
  unfold execDomainSwitchComplete
  repeat' (first | with_reducible assumption | with_reducible apply State.modPower_kept | with_reducible apply State.powerShow_kept | with_reducible apply State.setDom_kept | with_reducible apply kept_next | split)

theorem execIwsaveComplete_kept {Q : List Instr} {s : State} (h_s : Kept Q s) :
  Keeps Q (execIwsaveComplete s) := by
  unfold execIwsaveComplete
  repeat' (first | with_reducible assumption | with_reducible apply State.modPower_kept | with_reducible apply State.setRbit_kept | with_reducible apply kept_next | (extract_lets +onlyGivenNames t; (have ht : Kept Q t := (by unfold t; repeat' (first | with_reducible assumption | with_reducible apply State.wr_kept | (simp only [kept_mk]; with_reducible apply kept_fold_mem) | with_reducible apply kept_foldl | with_reducible refine fun _ => ?_))); clear_value t) | (extract_lets +onlyGivenNames t; clear_value t) | split)

theorem execWarmReset_kept {Q : List Instr} {s : State} (h_s : Kept Q s) :
  Keeps Q (execWarmReset s) := by
  unfold execWarmReset
  repeat' (first | with_reducible assumption | with_reducible apply State.warmReset_kept | with_reducible apply kept_next | split)

theorem execPwShedthrWrite_kept {Q : List Instr} {v : Word} {s : State} (h_s : Kept Q s) :
  Keeps Q (execPwShedthrWrite v s) := by
  unfold execPwShedthrWrite
  repeat' (first | with_reducible assumption | with_reducible apply State.shedWrite_kept | with_reducible apply kept_next | split)

theorem execFerrulePowerOn_kept {Q : List Instr} {s : State} (h_s : Kept Q s) :
  Keeps Q (execFerrulePowerOn s) := by
  unfold execFerrulePowerOn
  repeat' (first | with_reducible assumption | with_reducible apply State.islandStart_kept | with_reducible apply State.powerShow_kept | with_reducible apply kept_next | split)

theorem execPowerUp_kept {Q : List Instr} {s : State} (h_s : Kept Q s) :
  Keeps Q (execPowerUp s) := by
  unfold execPowerUp
  repeat' (first | with_reducible assumption | with_reducible apply State.bringUp_kept | with_reducible apply State.ladderClear_kept | with_reducible apply kept_next | split)

theorem execSelfTestComplete_kept {Q : List Instr} {r : SelfTest} {s : State} (h_s : Kept Q s) :
  Keeps Q (execSelfTestComplete r s) := by
  unfold execSelfTestComplete
  repeat' (first | with_reducible assumption | with_reducible apply State.powerShow_kept | with_reducible apply State.setRbit_kept | with_reducible apply State.startRole_kept | with_reducible apply kept_next | (extract_lets +onlyGivenNames t; (have ht : Kept Q t := (by unfold t; repeat' (first | with_reducible assumption | with_reducible apply State.groupTest_kept | with_reducible apply State.modPower_kept | with_reducible apply State.selfRepairs_kept | with_reducible apply State.setDom_kept | with_reducible apply State.setRbit_kept | (simp only [kept_mk]; with_reducible apply kept_fold) | with_reducible apply kept_foldl | with_reducible refine fun _ => ?_ | split))); clear_value t) | split)

theorem execRefclkLoss_kept {Q : List Instr} {s : State} (h_s : Kept Q s) :
  Keeps Q (execRefclkLoss s) := by
  unfold execRefclkLoss
  repeat' (first | with_reducible assumption | with_reducible apply State.modPower_kept | with_reducible apply State.report_kept | with_reducible apply kept_next | split)

theorem execRefclkReturn_kept {Q : List Instr} {s : State} (h_s : Kept Q s) :
  Keeps Q (execRefclkReturn s) := by
  unfold execRefclkReturn
  repeat' (first | with_reducible assumption | with_reducible apply State.modPower_kept | with_reducible apply kept_next)

end Sys2Proof.Machine
end

