-- ==== Sys2Proof/Laws/KeptStrokeEvents.lean ====
section
/-! SUPPORT. What Machine/StrokeEvents.lean keeps: the queue, and the canonical form of memory and of the register file. -/

set_option linter.unreachableTactic false
set_option linter.unusedTactic false
set_option linter.unusedVariables false
set_option linter.unusedSimpArgs false

namespace Sys2Proof.Machine

theorem execSkSwapComplete_kept {Q : List Instr} {c : Nat} {s : State} (h_s : Kept Q s) :
  Keeps Q (execSkSwapComplete c s) := by
  unfold execSkSwapComplete
  repeat' (first | with_reducible assumption | with_reducible apply State.modCl_kept | with_reducible apply State.modCtx_kept | with_reducible apply State.setRbit_kept | with_reducible apply kept_next | split)

theorem execSkCancelComplete_kept {Q : List Instr} {h : Hart} {s : State} (h_s : Kept Q s) :
  Keeps Q (execSkCancelComplete h s) := by
  unfold execSkCancelComplete
  repeat' (first | with_reducible assumption | with_reducible apply State.skCancelled_kept | with_reducible apply kept_next)

theorem execInnerOpStart_kept {Q : List Instr} {c n : Nat} {s : State} (h_s : Kept Q s) :
  Keeps Q (execInnerOpStart c n s) := by
  unfold execInnerOpStart
  repeat' (first | with_reducible assumption | with_reducible apply State.poolBegin_kept | with_reducible apply State.skStart_kept | with_reducible apply kept_next | with_reducible refine fun _ => ?_ | split)

theorem execStrokeRequestComplete_kept {Q : List Instr} {c n : Nat} {r : RequestEnd} {s : State} (h_s : Kept Q s) :
  Keeps Q (execStrokeRequestComplete c n r s) := by
  unfold execStrokeRequestComplete
  repeat' (first | with_reducible assumption | with_reducible apply State.skComplete_kept | with_reducible apply kept_next)

theorem execDeadlineMiss_kept {Q : List Instr} {c n : Nat} {s : State} (h_s : Kept Q s) :
  Keeps Q (execDeadlineMiss c n s) := by
  unfold execDeadlineMiss
  repeat' (first | with_reducible assumption | with_reducible apply State.bump_kept | with_reducible apply State.report_kept | with_reducible apply State.skFault_kept | with_reducible apply kept_next | split)

theorem State.skHalted_kept {Q : List Instr} {s : State} {c : Nat} {v : Word} {g : State → SkOp → State} (h_s : Kept Q s) (h_g : ∀ y0 y1, Kept Q y0 → Kept Q (g y0 y1)) :
  Kept Q (State.skHalted s c v g) := by
  unfold State.skHalted
  repeat' (first | with_reducible assumption | with_reducible apply h_g | with_reducible apply kept_foldl | with_reducible refine fun _ => ?_ | split)

theorem execSkResume_kept {Q : List Instr} {c : Nat} {v : Word} {s : State} (h_s : Kept Q s) :
  Keeps Q (execSkResume c v s) := by
  unfold execSkResume
  repeat' (first | with_reducible assumption | with_reducible apply State.setSk_kept | with_reducible apply State.skHalted_kept | with_reducible apply kept_next | with_reducible refine fun _ => ?_)

theorem execSkAbort_kept {Q : List Instr} {c : Nat} {v : Word} {s : State} (h_s : Kept Q s) :
  Keeps Q (execSkAbort c v s) := by
  unfold execSkAbort
  repeat' (first | with_reducible assumption | with_reducible apply State.skHalted_kept | with_reducible apply State.skStop_kept | with_reducible apply kept_next | with_reducible refine fun _ => ?_)

theorem execSkQcfgWrite_kept {Q : List Instr} {c q : Nat} {v : Word} {s : State} (h_s : Kept Q s) :
  Keeps Q (execSkQcfgWrite c q v s) := by
  unfold execSkQcfgWrite
  repeat' (first | with_reducible assumption | with_reducible apply State.setRbit_kept | with_reducible apply State.swReg_kept | with_reducible apply kept_next | (extract_lets +onlyGivenNames t; clear_value t) | split)

end Sys2Proof.Machine
end

