-- ==== Sys2Proof/Laws/KeptTableEvents.lean ====
section
/-! SUPPORT. What Machine/TableEvents.lean keeps: the queue, and the canonical form of memory and of the register file. -/

set_option linter.unreachableTactic false
set_option linter.unusedTactic false
set_option linter.unusedVariables false
set_option linter.unusedSimpArgs false

namespace Sys2Proof.Machine

theorem execNbUpdateAdmit_kept {Q : List Instr} {k : Nat} {s : State} (h_s : Kept Q s) :
  Keeps Q (execNbUpdateAdmit k s) := by
  unfold execNbUpdateAdmit
  repeat' (first | with_reducible assumption | with_reducible apply State.updServe_kept | with_reducible apply kept_next | (extract_lets +onlyGivenNames t; (have ht : Kept Q t := (by unfold t; repeat' (first | with_reducible assumption | with_reducible apply State.tbRelease_kept | with_reducible apply State.updateBegin_kept))); clear_value t) | split)

theorem execNbUpdateAck_kept {Q : List Instr} {c n k : Nat} {s : State} (h_s : Kept Q s) :
  Keeps Q (execNbUpdateAck c n k s) := by
  unfold execNbUpdateAck
  repeat' (first | with_reducible assumption | with_reducible apply State.updAck_kept | with_reducible apply kept_next)

theorem execNbBuildComplete_kept {Q : List Instr} {c n : Nat} {s : State} (h_s : Kept Q s) :
  Keeps Q (execNbBuildComplete c n s) := by
  unfold execNbBuildComplete
  repeat' (first | with_reducible assumption | with_reducible apply State.buildDone_kept | with_reducible apply State.reclaim_kept | with_reducible apply kept_next | (extract_lets +onlyGivenNames t; (have ht : Kept Q t := (by unfold t; repeat' (first | with_reducible assumption | with_reducible apply State.buildBegin_kept | with_reducible apply State.tbRelease_kept))); clear_value t) | split)

theorem execWideHoldExpire_kept {Q : List Instr} {j tbl : Nat} {s : State} (h_s : Kept Q s) :
  Keeps Q (execWideHoldExpire j tbl s) := by
  unfold execWideHoldExpire
  repeat' (first | with_reducible assumption | with_reducible apply State.reclaim_kept | with_reducible apply State.setTable_kept | with_reducible apply kept_next | (extract_lets +onlyGivenNames t; clear_value t) | split)

theorem execNbTbdirWrite_kept {Q : List Instr} {j : Nat} {v : Word} {s : State} (h_s : Kept Q s) :
  Keeps Q (execNbTbdirWrite j v s) := by
  unfold execNbTbdirWrite
  repeat' (first | with_reducible assumption | with_reducible apply State.setRbit_kept | with_reducible apply kept_next | (extract_lets +onlyGivenNames t; (have ht : Kept Q t := (by unfold t; repeat' (first | with_reducible assumption | with_reducible apply State.swReg_kept))); clear_value t) | (extract_lets +onlyGivenNames t; clear_value t) | split)

theorem execPublicationStart_kept {Q : List Instr} {j : Nat} {s : State} (h_s : Kept Q s) :
  Keeps Q (execPublicationStart j s) := by
  unfold execPublicationStart
  repeat' (first | with_reducible assumption | with_reducible apply State.pubStart_kept | with_reducible apply kept_next)

end Sys2Proof.Machine
end

