-- ==== Sys2Proof/Laws/KeptRegOps.lean ====
section
/-! SUPPORT. What Machine/RegOps.lean keeps: the queue, and the canonical form of memory and of the register file. -/

set_option linter.unreachableTactic false
set_option linter.unusedTactic false
set_option linter.unusedVariables false
set_option linter.unusedSimpArgs false

namespace Sys2Proof.Machine

theorem resState_kept {Q : List Instr} {s : State} {r : Res} (h_s : Kept Q s) (h_r : Keeps Q r) :
  Kept Q (resState s r) := by
  unfold resState
  repeat' (first | with_reducible assumption | (with_reducible apply Keeps.next (by assumption); rfl) | split)

theorem State.atLeast1_kept {Q : List Instr} {s : State} {k hi lo : Nat} (h_s : Kept Q s) :
  Kept Q (State.atLeast1 s k hi lo) := by
  unfold State.atLeast1
  repeat' (first | with_reducible assumption | with_reducible apply State.setRfld_kept | split)

theorem State.windowWrite_kept {Q : List Instr} {s : State} {k w key : Nat} {v : Word} (h_s : Kept Q s) :
  Kept Q (State.windowWrite s k w key v) := by
  unfold State.windowWrite
  repeat' (first | with_reducible assumption | with_reducible apply State.ccCfgWrite_kept | with_reducible apply State.ccWrite_kept | with_reducible apply State.swReg_kept | with_reducible apply execNbHotareaWrite_kept | with_reducible apply execSkAbort_kept | with_reducible apply execSkQcfgWrite_kept | with_reducible apply execSkResume_kept | with_reducible apply resState_kept | split)

theorem State.lnWrite_kept {Q : List Instr} {s : State} {o key : Nat} {v : Word} (h_s : Kept Q s) :
  Kept Q (State.lnWrite s o key v) := by
  unfold State.lnWrite
  repeat' (first | with_reducible assumption | with_reducible apply State.atLeast1_kept | with_reducible apply State.pgreqWrite_kept | with_reducible apply State.pgresPop_kept | with_reducible apply State.swReg_kept | split)

theorem State.cbWrite_kept {Q : List Instr} {s : State} {o key : Nat} {v : Word} (h_s : Kept Q s) :
  Kept Q (State.cbWrite s o key v) := by
  unfold State.cbWrite
  repeat' (first | with_reducible assumption | with_reducible apply State.atLeast1_kept | with_reducible apply State.cbCfgWrite_kept | with_reducible apply State.folioCfgWrite_kept | with_reducible apply State.orderWrite_kept | with_reducible apply State.swReg_kept | split)

theorem State.deviceWrite_kept {Q : List Instr} {s : State} {off key : Nat} {v : Word} (h_s : Kept Q s) :
  Kept Q (State.deviceWrite s off key v) := by
  unfold State.deviceWrite
  repeat' (first | with_reducible assumption | with_reducible apply State.atLeast1_kept | with_reducible apply State.ownareaWrite_kept | with_reducible apply State.policyWrite_kept | with_reducible apply State.setRbit_kept | with_reducible apply State.spillWrite_kept | with_reducible apply State.swReg_kept | with_reducible apply execHmCfgWrite_kept | with_reducible apply execHmPinqWrite_kept | with_reducible apply execNbTbdirWrite_kept | with_reducible apply resState_kept | split)

theorem State.enWrite_kept {Q : List Instr} {s : State} {o key : Nat} {v : Word} (h_s : Kept Q s) :
  Kept Q (State.enWrite s o key v) := by
  unfold State.enWrite
  repeat' (first | with_reducible assumption | with_reducible apply State.enCfgWrite_kept | with_reducible apply State.enIngWrite_kept | with_reducible apply State.enIngbaseWrite_kept | with_reducible apply State.enIngmkWrite_kept | with_reducible apply State.enQptabWrite_kept | with_reducible apply State.qpDoorbell_kept | with_reducible apply State.swReg_kept | split)

theorem State.islandWrite_kept {Q : List Instr} {s : State} {off key : Nat} {v : Word} (h_s : Kept Q s) :
  Kept Q (State.islandWrite s off key v) := by
  unfold State.islandWrite
  repeat' (first | with_reducible assumption | with_reducible apply State.alertMove_kept | with_reducible apply State.setRbit_kept | with_reducible apply State.shedWrite_kept | with_reducible apply State.swReg_kept | with_reducible refine fun _ => ?_ | split)

theorem State.regPut_kept {Q : List Instr} {s : State} {off key : Nat} {v : Word} (h_s : Kept Q s) :
  Kept Q (State.regPut s off key v) := by
  unfold State.regPut
  repeat' (first | with_reducible assumption | with_reducible apply State.blOrder_kept | with_reducible apply State.cbWrite_kept | with_reducible apply State.ccCfgWrite_kept | with_reducible apply State.ccWrite_kept | with_reducible apply State.deviceWrite_kept | with_reducible apply State.enWrite_kept | with_reducible apply State.islandWrite_kept | with_reducible apply State.iwhwmWrite_kept | with_reducible apply State.lnWrite_kept | with_reducible apply State.setRfld_kept | with_reducible apply State.swReg_kept | with_reducible apply State.windowWrite_kept | with_reducible apply State.writeMap_kept | with_reducible apply State.writeMark_kept | (extract_lets +onlyGivenNames t; clear_value t) | split)

theorem State.regWrite_kept {Q : List Instr} {s : State} {off size : Nat} {v : Word} (h_s : Kept Q s) :
  Kept Q (State.regWrite s off size v) := by
  unfold State.regWrite
  repeat' (first | with_reducible assumption | with_reducible apply State.regPut_kept | with_reducible apply State.writeMark_kept | (extract_lets +onlyGivenNames t; clear_value t) | split)

end Sys2Proof.Machine
end

