-- ==== Sys2Proof/Laws/KeptHostOps.lean ====
section
/-! SUPPORT. What Machine/HostOps.lean keeps: the queue, and the canonical form of memory and of the register file. -/

set_option linter.unreachableTactic false
set_option linter.unusedTactic false
set_option linter.unusedVariables false
set_option linter.unusedSimpArgs false

namespace Sys2Proof.Machine

theorem State.refuse_kept {Q : List Instr} {s : State} {r : Nat} {x : RingEnt} {reason : Nat} (h_s : Kept Q s) :
  Kept Q (State.refuse s r x reason) := by
  unfold State.refuse
  repeat' (first | with_reducible assumption | with_reducible apply State.complete_kept | with_reducible apply State.unstall_kept)

theorem State.answered_kept {Q : List Instr} {s : State} {r : Nat} {x : RingEnt} {result : List Byte} (h_s : Kept Q s) :
  Kept Q (State.answered s r x result) := by
  unfold State.answered
  repeat' (first | with_reducible assumption | with_reducible apply State.complete_kept)

theorem State.underWay_kept {Q : List Instr} {s : State} {r : Nat} {x : RingEnt} {c : HostCmd} (h_s : Kept Q s) :
  Kept Q (State.underWay s r x c) := by
  unfold State.underWay
  repeat' (first | with_reducible assumption | with_reducible apply State.modRing_kept)

theorem State.hostRow_kept {Q : List Instr} {s : State} {e : EntryHdr} {opc : Nat} {taints : Bool} {f : State → RingEnt → State} (h_s : Kept Q s) (h_f : ∀ y0 y1, Kept Q y0 → Kept Q (f y0 y1)) :
  Keeps Q (State.hostRow s e opc taints f) := by
  unfold State.hostRow
  repeat' (first | with_reducible assumption | with_reducible apply State.complete_kept | with_reducible apply State.refuse_kept | with_reducible apply h_f | with_reducible apply kept_next | split)

theorem State.restoreCounts_kept {Q : List Instr} {s : State} {j : Nat} (h_s : Kept Q s) :
  Kept Q (State.restoreCounts s j) := by
  unfold State.restoreCounts
  repeat' (first | with_reducible assumption | with_reducible apply State.writeCount_kept | with_reducible apply kept_foldl | with_reducible refine fun _ => ?_ | split)

theorem State.loadImage_kept {Q : List Instr} {s0 : State} {j : Nat} {img : JobImage} {run : Bool} (h_s0 : Kept Q s0) :
  Kept Q (State.loadImage s0 j img run) := by
  unfold State.loadImage
  repeat' (first | with_reducible assumption | with_reducible apply State.drainBuf_kept | with_reducible apply State.setDx_kept | with_reducible apply State.taskNum_kept' | (extract_lets +onlyGivenNames t; (have ht : Kept Q t := (by unfold t; repeat' (first | with_reducible assumption | with_reducible apply State.extend_kept | with_reducible apply State.iwhwmWrite_kept | with_reducible apply State.regWrite_kept | with_reducible apply State.restoreCounts_kept | with_reducible apply State.setJob_kept | with_reducible apply State.setVis_kept | with_reducible apply State.unload_kept | with_reducible apply State.wrN_kept | with_reducible apply kept_foldl | with_reducible refine fun _ => ?_ | split))); clear_value t) | split)

theorem State.ringDelete_kept {Q : List Instr} {s : State} {p : Nat} (h_s : Kept Q s) :
  Kept Q (State.ringDelete s p) := by
  unfold State.ringDelete
  repeat' (first | with_reducible assumption | with_reducible apply State.reclaim_kept | with_reducible apply State.setVis_kept | (simp only [kept_mk]; with_reducible apply kept_fold) | with_reducible apply kept_foldl)

theorem State.hostRefused_kept {Q : List Instr} {s : State} {c : HostCmd} (h_s : Kept Q s) :
  Kept Q (State.hostRefused s c) := by
  unfold State.hostRefused
  repeat' (first | with_reducible assumption | with_reducible apply State.ledWrite_kept' | with_reducible apply State.mkReject_kept | split)

theorem State.hostEffect_kept {Q : List Instr} {s : State} {c : HostCmd} (h_s : Kept Q s) :
  Kept Q (State.hostEffect s c).state := by
  unfold State.hostEffect
  repeat' (first | with_reducible assumption | with_reducible apply State.enIngWrite_kept | with_reducible apply State.enIngmkWrite_kept | with_reducible apply State.fwHalt_kept | with_reducible apply State.homeForce_kept | with_reducible refine State.ledWrite_kept (by assumption) ?_ | with_reducible apply State.orderWrite_kept | with_reducible apply State.reclaim_kept | with_reducible apply State.regWrite_kept | with_reducible apply State.ringCreate_kept | with_reducible apply State.ringDelete_kept | with_reducible apply State.saveCounts_kept | with_reducible apply State.setJob_kept | with_reducible apply State.setSlot_kept | with_reducible apply State.stopJob_kept | with_reducible apply State.unload_kept | with_reducible apply State.writeCount_kept | (simp only [kept_mk]; with_reducible apply kept_fold) | (extract_lets +onlyGivenNames t; clear_value t) | split)

theorem State.hostNow_kept {Q : List Instr} {s : State} {r : Nat} {x : RingEnt} {c : HostCmd} {csn : Nat} (h_s : Kept Q s) :
  Kept Q (State.hostNow s r x c csn) := by
  unfold State.hostNow
  repeat' (first | with_reducible assumption | with_reducible apply State.complete_kept | with_reducible apply State.loadNow_kept | with_reducible apply State.stateReadNow_kept | (extract_lets +onlyGivenNames t; (have ht : Kept Q t.1 := (by unfold t; repeat' (first | with_reducible assumption | with_reducible apply State.hostEffect_kept))); clear_value t) | split)

theorem State.hostOrdered_kept {Q : List Instr} {s : State} {r j : Nat} {x : RingEnt} {c : HostCmd} (h_s : Kept Q s) :
  Kept Q (State.hostOrdered s r j x c) := by
  unfold State.hostOrdered
  repeat' (first | with_reducible assumption | with_reducible apply State.commitEntry_kept | with_reducible apply State.hostNow_kept | with_reducible apply State.hostRefused_kept | with_reducible apply State.refuse_kept | with_reducible refine fun _ => ?_ | (extract_lets +onlyGivenNames t; (have ht : Kept Q t := (by unfold t; repeat' (first | with_reducible assumption | with_reducible apply State.underWay_kept))); clear_value t) | split)

theorem State.resolveCsn_kept {Q : List Instr} {s : State} {csn : Nat} (h_s : Kept Q s) :
  Kept Q (State.resolveCsn s csn) := by
  unfold State.resolveCsn
  repeat' (first | with_reducible assumption | with_reducible apply State.folioOver_kept | with_reducible apply State.recordPub_kept | with_reducible apply State.recordStep_kept | with_reducible apply State.releaseHeld_kept | (extract_lets +onlyGivenNames t; (have ht : Kept Q t := (by unfold t; repeat' (first | with_reducible assumption | with_reducible apply State.hostNow_kept | with_reducible apply State.journal_kept))); clear_value t) | split)

theorem State.twinEffect_kept {Q : List Instr} {s : State} {b : List Byte} (h_s : Kept Q s) :
  Kept Q (State.twinEffect s b) := by
  unfold State.twinEffect
  repeat' (first | with_reducible assumption | with_reducible apply State.hostEffect_kept | with_reducible apply State.loadImage_kept | with_reducible apply State.saveCounts_kept | with_reducible apply State.setJob_kept | with_reducible apply State.unload_kept | (extract_lets +onlyGivenNames t; (have ht : Kept Q t := (by unfold t; repeat' (first | with_reducible assumption | (simp only [kept_mk]; with_reducible apply kept_fold)))); clear_value t) | (extract_lets +onlyGivenNames t; clear_value t) | split)

end Sys2Proof.Machine
end

