-- ==== Sys2Proof/Laws/KeptPairOps.lean ====
section
/-! SUPPORT. What Machine/PairOps.lean keeps: the queue, and the canonical form of memory and of the register file. -/

set_option linter.unreachableTactic false
set_option linter.unusedTactic false
set_option linter.unusedVariables false
set_option linter.unusedSimpArgs false

namespace Sys2Proof.Machine

theorem State.becomeSolo_kept {Q : List Instr} {s : State} (h_s : Kept Q s) :
  Kept Q (State.becomeSolo s) := by
  have h2 : Kept Q ((s.cbDiscard.setRole 4).setTwin { (s.cbDiscard.setRole 4).twin with lapsed := false, paired := false }) :=
    State.setTwin_kept (State.setRole_kept (State.cbDiscard_kept h_s))
  unfold State.becomeSolo
  extract_lets was s1 src0 s2 s3 phase src s4 s5 s6
  have h2' : Kept Q s2 := h2
  have h3 : Kept Q s3 := by
    unfold s3
    exact kept_foldl (fun t x ht => State.resolveCsn_kept ht) h2'
  have h4 : Kept Q s4 := ⟨h3.pending, h3.mem, h3.regs⟩
  have h5 : Kept Q s5 := by
    unfold s5
    split
    · exact State.folioSeal_kept h4
    · exact h4
  refine State.commitsGoOn_kept (State.folioSettle_kept ?_)
  unfold s6
  split
  · exact State.aloneNow_kept h5
  · exact h5

theorem State.pairWin_kept {Q : List Instr} {s : State} (h_s : Kept Q s) :
  Kept Q (State.pairWin s) := by
  unfold State.pairWin
  repeat' (first | with_reducible assumption | with_reducible apply State.becomeSolo_kept | with_reducible apply State.cbSend_kept | with_reducible apply State.folioAbandon_kept | with_reducible apply State.setRbit_kept | with_reducible apply State.setTwin_kept | with_reducible apply State.takeover_kept | with_reducible apply kept_foldl | with_reducible refine fun _ => ?_ | split)

theorem State.parkCommits_kept {Q : List Instr} {s : State} (h_s : Kept Q s) :
  Kept Q (State.parkCommits s) := by
  unfold State.parkCommits
  repeat' (first | with_reducible assumption | (simp only [kept_mk]; with_reducible apply kept_fold))

theorem State.settleByJournal_kept {Q : List Instr} {s : State} (h_s : Kept Q s) :
  Kept Q (State.settleByJournal s) := by
  unfold State.settleByJournal
  repeat' (first | with_reducible assumption | with_reducible apply State.settleAll_kept | (simp only [kept_mk]; with_reducible apply kept_fold))

theorem State.discardState_kept {Q : List Instr} {s : State} (h_s : Kept Q s) :
  Kept Q (State.discardState s) := by
  unfold State.discardState
  repeat' (first | with_reducible assumption | with_reducible apply State.parkCommits_kept | with_reducible apply State.settleQueues_kept | (simp only [kept_mk]; with_reducible apply kept_fold_both))

theorem State.pairLose_kept {Q : List Instr} {s : State} (h_s : Kept Q s) :
  Kept Q (State.pairLose s) := by
  unfold State.pairLose
  repeat' (first | with_reducible assumption | with_reducible apply State.discardState_kept | with_reducible apply State.folioAbandon_kept | with_reducible apply State.setRbit_kept | with_reducible apply State.setRole_kept | with_reducible apply State.setTwin_kept)

theorem State.pairBad_kept {Q : List Instr} {s : State} (h_s : Kept Q s) :
  Kept Q (State.pairBad s) := by
  unfold State.pairBad
  repeat' (first | with_reducible assumption | with_reducible apply State.aloneNow_kept | with_reducible apply State.folioSettle_kept | (extract_lets +onlyGivenNames t; (have ht : Kept Q t := (by unfold t; repeat' (first | with_reducible assumption | with_reducible apply State.cbDiscard_kept | with_reducible apply State.setRbit_kept | with_reducible apply State.setRole_kept))); clear_value t) | split)

theorem State.pairRec_kept {Q : List Instr} {s : State} {p : PairRec} (h_s : Kept Q s) :
  Kept Q (State.pairRec s p) := by
  unfold State.pairRec
  repeat' (first | with_reducible assumption | with_reducible apply State.pairBad_kept | with_reducible apply State.pairLose_kept | with_reducible apply State.pairWin_kept | with_reducible apply State.setRbit_kept | (extract_lets +onlyGivenNames t; (have ht : Kept Q t := (by unfold t; repeat' (first | with_reducible assumption | with_reducible apply State.sendPair_kept | with_reducible apply State.setRbit_kept | split))); clear_value t) | split)

theorem State.takeTime_kept {Q : List Instr} {s : State} {time : Word} (h_s : Kept Q s) :
  Kept Q (State.takeTime s time) := by
  unfold State.takeTime
  repeat' (first | with_reducible assumption | with_reducible apply State.setTwin_kept | (simp only [kept_mk]; with_reducible apply kept_fold) | (extract_lets +onlyGivenNames t; clear_value t) | split)

theorem State.keptCheck_kept {Q : List Instr} {s : State} {role : Nat} (h_s : Kept Q s) :
  Kept Q (State.keptCheck s role) := by
  unfold State.keptCheck
  repeat' (first | with_reducible assumption | with_reducible apply State.cbDiscard_kept | with_reducible apply State.sendPair_kept | (extract_lets +onlyGivenNames t; (have ht : Kept Q t := (by unfold t; repeat' (first | with_reducible assumption | with_reducible apply State.setTwin_kept))); clear_value t) | (extract_lets +onlyGivenNames t; clear_value t) | split)

theorem State.frameTake_kept {Q : List Instr} {s : State} {f : Frame} (h_s : Kept Q s) :
  Kept Q (State.frameTake s f) := by
  unfold State.frameTake
  repeat' (first | with_reducible assumption | with_reducible apply State.cbDown_kept | with_reducible apply State.cbFail_kept | with_reducible apply State.frameHeader_kept | with_reducible apply State.setTwin_kept | with_reducible apply State.takeTime_kept | (extract_lets +onlyGivenNames t; (have ht : Kept Q t := (by unfold t; repeat' (first | with_reducible assumption | with_reducible apply State.setTwin_kept | with_reducible apply State.takeTime_kept))); clear_value t) | (extract_lets +onlyGivenNames t; clear_value t) | split)

theorem State.frameReceive_kept {Q : List Instr} {s : State} {f : Frame} (h_s : Kept Q s) :
  Kept Q (State.frameReceive s f) := by
  unfold State.frameReceive
  repeat' (first | with_reducible assumption | with_reducible apply State.cbFail_kept | with_reducible apply State.frameTake_kept | with_reducible apply State.keptCheck_kept | split)

theorem State.cbLinkUp_kept {Q : List Instr} {s : State} (h_s : Kept Q s) :
  Kept Q (State.cbLinkUp s) := by
  unfold State.cbLinkUp
  repeat' (first | with_reducible assumption | with_reducible apply State.sendPair_kept | with_reducible apply State.setTwin_kept | (extract_lets +onlyGivenNames t; (have ht : Kept Q t := (by unfold t; repeat' (first | with_reducible assumption | with_reducible apply State.cbDiscard_kept | with_reducible apply State.setRbit_kept))); clear_value t) | (extract_lets +onlyGivenNames t; clear_value t) | split)

theorem State.joinJob_kept {Q : List Instr} {s : State} {j : Nat} (h_s : Kept Q s) :
  Kept Q (State.joinJob s j) := by
  unfold State.joinJob
  repeat' (first | with_reducible assumption | with_reducible apply State.setJob_kept | (extract_lets +onlyGivenNames t; (have ht : Kept Q t := (by unfold t; repeat' (first | with_reducible assumption | with_reducible apply State.loadImage_kept))); clear_value t) | (extract_lets +onlyGivenNames t; clear_value t) | split)

theorem State.plogAdd_kept {Q : List Instr} {s : State} {j : Nat} {d : DeltaRec} (h_s : Kept Q s) :
  Kept Q (State.plogAdd s j d) := by
  unfold State.plogAdd
  repeat' (first | with_reducible assumption | with_reducible apply State.setTable_kept | (extract_lets +onlyGivenNames t; (have ht : Kept Q t := (by unfold t; repeat' (first | with_reducible assumption | with_reducible apply State.setTwin_kept))); clear_value t) | (extract_lets +onlyGivenNames t; clear_value t) | split)

theorem State.deltaTake_kept {Q : List Instr} {s : State} {j : Nat} {d : DeltaRec} (h_s : Kept Q s) :
  Kept Q (State.deltaTake s j d) := by
  unfold State.deltaTake
  repeat' (first | with_reducible assumption | with_reducible apply State.bump_kept | with_reducible apply State.cbSend_kept | with_reducible apply State.plogAdd_kept | with_reducible apply State.setTwin_kept | (extract_lets +onlyGivenNames t; (have ht : Kept Q t := (by unfold t; repeat' (first | with_reducible assumption | with_reducible apply State.joinJob_kept))); clear_value t) | (extract_lets +onlyGivenNames t; clear_value t) | split)

theorem State.heldRetry_kept {Q : List Instr} {s : State} (h_s : Kept Q s) :
  Kept Q (State.heldRetry s) := by
  unfold State.heldRetry
  repeat' (first | with_reducible assumption | with_reducible apply State.plogAdd_kept | with_reducible apply State.setTwin_kept | (extract_lets +onlyGivenNames t; clear_value t) | split)

theorem State.twinBuild_kept {Q : List Instr} {s : State} {j t : Nat} {step : Word} {segs : List SegData} (h_s : Kept Q s) :
  Kept Q (State.twinBuild s j t step segs) := by
  unfold State.twinBuild
  repeat' (first | with_reducible assumption | with_reducible apply State.memWrite_kept | with_reducible apply State.wrRaw_kept | with_reducible apply kept_foldl | with_reducible refine fun _ => ?_ | (extract_lets +onlyGivenNames t; (have ht : Kept Q t := (by unfold t; repeat' (first | with_reducible assumption | with_reducible apply State.applyDelta_kept | with_reducible apply State.buildInto_kept | with_reducible apply State.memWrite_kept | with_reducible apply State.setTable_kept | with_reducible apply kept_foldl | with_reducible refine fun _ => ?_ | split))); clear_value t) | (extract_lets +onlyGivenNames t; clear_value t) | split)

theorem State.resyncEnd_kept {Q : List Instr} {s : State} (h_s : Kept Q s) :
  Kept Q (State.resyncEnd s) := by
  unfold State.resyncEnd
  repeat' (first | with_reducible assumption | with_reducible apply State.bump_kept | with_reducible apply State.folioSettle_kept | with_reducible apply State.settleByJournal_kept | (extract_lets +onlyGivenNames t; (have ht : Kept Q t := (by unfold t; repeat' (first | with_reducible assumption | with_reducible apply State.joinJob_kept | with_reducible apply State.setJr_kept | with_reducible apply State.setRbit_kept | with_reducible apply State.setRole_kept | with_reducible apply State.setTwin_kept | with_reducible apply State.wrN_kept | (simp only [kept_mk]; with_reducible apply kept_fold_mem) | with_reducible apply kept_foldl | with_reducible refine fun _ => ?_))); clear_value t) | (extract_lets +onlyGivenNames t; clear_value t) | split)

theorem State.sealApply_kept {Q : List Instr} {s0 : State} {x : SealRec} (h_s0 : Kept Q s0) :
  Kept Q (State.sealApply s0 x) := by
  unfold State.sealApply
  repeat' (first | with_reducible assumption | with_reducible apply State.activate_kept | with_reducible apply State.applyMarked_kept | with_reducible apply State.cbSend_kept | with_reducible apply State.heldRetry_kept | with_reducible apply State.resyncEnd_kept | with_reducible apply State.ringRelease_kept | with_reducible apply State.seal_kept | with_reducible apply State.setReg_kept | with_reducible apply State.setTwin_kept | with_reducible apply kept_foldl | with_reducible refine fun _ => ?_)

theorem State.sealTake_kept {Q : List Instr} {s : State} {x : SealRec} (h_s : Kept Q s) :
  Kept Q (State.sealTake s x) := by
  unfold State.sealTake
  repeat' (first | with_reducible assumption | with_reducible apply State.bump_kept | with_reducible apply State.sealApply_kept | with_reducible apply State.setTwin_kept | (extract_lets +onlyGivenNames t; clear_value t) | split)

theorem State.rollbackTake_kept {Q : List Instr} {s : State} {j n : Nat} (h_s : Kept Q s) :
  Kept Q (State.rollbackTake s j n) := by
  unfold State.rollbackTake
  repeat' (first | with_reducible assumption | with_reducible apply State.heldRetry_kept | with_reducible apply State.restoreTables_kept | with_reducible apply State.setTwin_kept)

theorem State.commitTake_kept {Q : List Instr} {s : State} {r : CommitRec} {e : List Byte} (h_s : Kept Q s) :
  Kept Q (State.commitTake s r e) := by
  unfold State.commitTake
  repeat' (first | with_reducible assumption | with_reducible apply State.cbSend_kept | with_reducible apply State.journal_kept | with_reducible apply State.seal_kept | with_reducible apply State.setJr_kept | with_reducible apply State.setTwin_kept | with_reducible apply State.twinEffect_kept | (extract_lets +onlyGivenNames t; clear_value t) | split)

theorem State.transferTake_kept {Q : List Instr} {s : State} {x : XferRec} (h_s : Kept Q s) :
  Kept Q (State.transferTake s x) := by
  unfold State.transferTake
  repeat' (first | with_reducible assumption | with_reducible apply State.cbSend_kept | with_reducible refine State.etherStore_kept (by assumption) ?_ | with_reducible apply State.linkSignal_kept' | split)

theorem State.xferDone_kept {Q : List Instr} {s : State} {n : Nat} (h_s : Kept Q s) :
  Kept Q (State.xferDone s n) := by
  unfold State.xferDone
  repeat' (first | with_reducible assumption | with_reducible apply State.sendMark_kept | (extract_lets +onlyGivenNames t; (have ht : Kept Q t := (by unfold t; repeat' (first | with_reducible assumption | with_reducible apply State.setTwin_kept))); clear_value t) | (extract_lets +onlyGivenNames t; clear_value t) | split)

theorem State.quiesceEnd_kept {Q : List Instr} {s : State} (h_s : Kept Q s) :
  Kept Q (State.quiesceEnd s) := by
  unfold State.quiesceEnd
  repeat' (first | with_reducible assumption | with_reducible apply State.folioCapture_kept | (simp only [kept_mk]; with_reducible apply kept_fold))

theorem State.pubTaint_kept {Q : List Instr} {s : State} (h_s : Kept Q s) :
  Kept Q (State.pubTaint s) := by
  unfold State.pubTaint
  repeat' (first | with_reducible assumption | with_reducible apply State.pubResult_kept | (simp only [kept_mk]; with_reducible apply kept_fold) | (extract_lets +onlyGivenNames t; clear_value t) | split)

theorem State.captureEnd_kept {Q : List Instr} {s0 : State} {changed stopUs : Nat} (h_s0 : Kept Q s0) :
  Kept Q (State.captureEnd s0 changed stopUs) := by
  unfold State.captureEnd
  repeat' (first | with_reducible assumption | with_reducible apply State.cbSend_kept | with_reducible apply State.folioSeal_kept | with_reducible apply State.setPhase_kept | (extract_lets +onlyGivenNames t; (have ht : Kept Q t := (by unfold t; repeat' (first | with_reducible assumption | with_reducible apply State.cbSend_kept | with_reducible apply State.pubTaint_kept | (simp only [kept_mk]; with_reducible apply kept_fold)))); clear_value t) | (extract_lets +onlyGivenNames t; clear_value t) | split)

theorem State.sealAckTake_kept {Q : List Instr} {s : State} {n : Nat} (h_s : Kept Q s) :
  Kept Q (State.sealAckTake s n) := by
  unfold State.sealAckTake
  repeat' (first | with_reducible assumption | with_reducible apply State.folioSeal_kept | (extract_lets +onlyGivenNames t; (have ht : Kept Q t := (by unfold t; repeat' (first | with_reducible assumption | with_reducible apply State.bump_kept | with_reducible apply State.setRbit_kept | with_reducible apply State.setRole_kept | with_reducible apply State.setTwin_kept | split))); clear_value t) | (extract_lets +onlyGivenNames t; clear_value t) | split)

theorem State.takeoverEnd_kept {Q : List Instr} {s : State} (h_s : Kept Q s) :
  Kept Q (State.takeoverEnd s) := by
  unfold State.takeoverEnd
  repeat' (first | with_reducible assumption | with_reducible apply State.applyMarked_kept | with_reducible apply State.groupHold_kept | with_reducible apply State.groupRestart_kept | with_reducible apply State.placeJob_kept | with_reducible apply State.postResumed_kept | with_reducible apply State.settleQueues_kept | (simp only [kept_mk]; with_reducible apply kept_fold) | with_reducible apply kept_foldl | with_reducible refine fun _ => ?_)

theorem State.leaseLapse_kept {Q : List Instr} {s : State} (h_s : Kept Q s) :
  Kept Q (State.leaseLapse s) := by
  unfold State.leaseLapse
  repeat' (first | with_reducible assumption | with_reducible apply State.becomeSolo_kept | with_reducible apply State.setRole_kept | with_reducible apply State.takeover_kept | (extract_lets +onlyGivenNames t; (have ht : Kept Q t := (by unfold t; repeat' (first | with_reducible assumption | with_reducible apply State.alert_kept | with_reducible apply State.bump_kept | with_reducible apply State.report_kept | with_reducible apply State.setTwin_kept))); clear_value t) | (extract_lets +onlyGivenNames t; clear_value t) | split)

theorem State.twinHb_kept {Q : List Instr} {s : State} {asserted : Bool} (h_s : Kept Q s) :
  Kept Q (State.twinHb s asserted) := by
  unfold State.twinHb
  repeat' (first | with_reducible assumption | with_reducible apply State.becomeSolo_kept | with_reducible apply State.takeover_kept | (extract_lets +onlyGivenNames t; (have ht : Kept Q t := (by unfold t; repeat' (first | with_reducible assumption | with_reducible apply State.setRbit_kept))); clear_value t) | split)

end Sys2Proof.Machine
end

