-- ==== Sys2Proof/Laws/KeptCarbon.lean ====
section
/-! SUPPORT. What Machine/Carbon.lean keeps: the queue, and the canonical form of memory and of the register file. -/

set_option linter.unreachableTactic false
set_option linter.unusedTactic false
set_option linter.unusedVariables false
set_option linter.unusedSimpArgs false

namespace Sys2Proof.Machine

theorem State.followRec_kept {Q : List Instr} {s : State} {f : State → State} (h_s : Kept Q s) (h_f : ∀ y0, Kept Q y0 → Kept Q (f y0)) :
  Keeps Q (State.followRec s f) := by
  unfold State.followRec
  repeat' (first | with_reducible assumption | with_reducible apply h_f | with_reducible apply kept_next | split)

theorem execCarbonFrameReceive_kept {Q : List Instr} {f : Frame} {s : State} (h_s : Kept Q s) :
  Keeps Q (execCarbonFrameReceive f s) := by
  unfold execCarbonFrameReceive
  repeat' (first | with_reducible assumption | with_reducible apply State.frameReceive_kept | with_reducible apply kept_next)

theorem execCarbonNakTimeout_kept {Q : List Instr} {s : State} (h_s : Kept Q s) :
  Keeps Q (execCarbonNakTimeout s) := by
  unfold execCarbonNakTimeout
  repeat' (first | with_reducible assumption | with_reducible apply State.cbNak_kept | with_reducible apply kept_next | split)

theorem execCarbonLinkUp_kept {Q : List Instr} {s : State} (h_s : Kept Q s) :
  Keeps Q (execCarbonLinkUp s) := by
  unfold execCarbonLinkUp
  repeat' (first | with_reducible assumption | with_reducible apply State.cbLinkUp_kept | with_reducible apply kept_next)

theorem execCarbonLinkDown_kept {Q : List Instr} {s : State} (h_s : Kept Q s) :
  Keeps Q (execCarbonLinkDown s) := by
  unfold execCarbonLinkDown
  repeat' (first | with_reducible assumption | with_reducible apply State.cbDown_kept | with_reducible apply kept_next)

theorem execCarbonRetrainEnd_kept {Q : List Instr} {r : TrainResult} {s : State} (h_s : Kept Q s) :
  Keeps Q (execCarbonRetrainEnd r s) := by
  unfold execCarbonRetrainEnd
  repeat' (first | with_reducible assumption | with_reducible apply State.cbDown_kept | with_reducible refine State.cbLanes_kept (by assumption) ?_ | with_reducible apply State.cbReplay_kept | with_reducible apply State.setTwin_kept | with_reducible apply kept_next | (extract_lets +onlyGivenNames t; clear_value t) | split)

theorem execCarbonFrameSend_kept {Q : List Instr} {s : State} (h_s : Kept Q s) :
  Keeps Q (execCarbonFrameSend s) := by
  unfold execCarbonFrameSend
  repeat' (first | with_reducible assumption | with_reducible apply State.cbSendFrame_kept | with_reducible apply kept_next)

theorem execPair_kept {Q : List Instr} {p : PairRec} {s : State} (h_s : Kept Q s) :
  Keeps Q (execPair p s) := by
  unfold execPair
  repeat' (first | with_reducible assumption | with_reducible apply State.pairRec_kept | with_reducible apply kept_next | split)

theorem execCommit_kept {Q : List Instr} {r : CommitRec} {e : List Byte} {s : State} (h_s : Kept Q s) :
  Keeps Q (execCommit r e s) := by
  unfold execCommit
  repeat' (first | with_reducible assumption | with_reducible apply State.commitTake_kept | with_reducible apply State.followRec_kept | with_reducible refine fun _ => ?_ | split)

theorem execCommitAck_kept {Q : List Instr} {csn : Nat} {s : State} (h_s : Kept Q s) :
  Keeps Q (execCommitAck csn s) := by
  unfold execCommitAck
  repeat' (first | with_reducible assumption | with_reducible apply State.resolveCsn_kept | with_reducible apply kept_next | split)

theorem execDelta_kept {Q : List Instr} {j : Nat} {d : DeltaRec} {s : State} (h_s : Kept Q s) :
  Keeps Q (execDelta j d s) := by
  unfold execDelta
  repeat' (first | with_reducible assumption | with_reducible apply State.deltaTake_kept | with_reducible apply State.followRec_kept | with_reducible refine fun _ => ?_)

theorem execBuild_kept {Q : List Instr} {j t : Nat} {step : Word} {segs : List SegData} {s : State} (h_s : Kept Q s) :
  Keeps Q (execBuild j t step segs s) := by
  unfold execBuild
  repeat' (first | with_reducible assumption | with_reducible apply State.followRec_kept | with_reducible apply State.joinJob_kept | with_reducible apply State.setTwin_kept | with_reducible apply State.twinBuild_kept | with_reducible refine fun _ => ?_)

theorem execFolioData_kept {Q : List Instr} {_n off : Nat} {units : List UnitData} {s : State} (h_s : Kept Q s) :
  Keeps Q (execFolioData _n off units s) := by
  unfold execFolioData
  repeat' (first | with_reducible assumption | with_reducible apply State.followRec_kept | with_reducible apply State.setTwin_kept | with_reducible refine fun _ => ?_)

theorem execSeal_kept {Q : List Instr} {x : SealRec} {s : State} (h_s : Kept Q s) :
  Keeps Q (execSeal x s) := by
  unfold execSeal
  repeat' (first | with_reducible assumption | with_reducible apply State.followRec_kept | with_reducible apply State.sealTake_kept | with_reducible refine fun _ => ?_ | split)

theorem execSealAck_kept {Q : List Instr} {n : Nat} {s : State} (h_s : Kept Q s) :
  Keeps Q (execSealAck n s) := by
  unfold execSealAck
  repeat' (first | with_reducible assumption | with_reducible apply State.sealAckTake_kept | with_reducible apply kept_next | split)

theorem execRollback_kept {Q : List Instr} {j n : Nat} {s : State} (h_s : Kept Q s) :
  Keeps Q (execRollback j n s) := by
  unfold execRollback
  repeat' (first | with_reducible assumption | with_reducible apply State.rollbackTake_kept | with_reducible apply kept_next | split)

theorem execLogFull_kept {Q : List Instr} {_j : Nat} {s : State} (h_s : Kept Q s) :
  Keeps Q (execLogFull _j s) := by
  unfold execLogFull
  repeat' (first | with_reducible assumption | with_reducible apply State.requestFolio_kept | with_reducible apply kept_next | split)

theorem execDepart_kept {Q : List Instr} {_cause : Nat} {s : State} (h_s : Kept Q s) :
  Keeps Q (execDepart _cause s) := by
  unfold execDepart
  repeat' (first | with_reducible assumption | with_reducible apply State.becomeSolo_kept | with_reducible apply State.cbDown_kept | with_reducible apply State.takeover_kept | with_reducible apply kept_next | split)

theorem execResync_kept {Q : List Instr} {pa : Nat} {d : List Byte} {s : State} (h_s : Kept Q s) :
  Keeps Q (execResync pa d s) := by
  unfold execResync
  repeat' (first | with_reducible assumption | with_reducible apply State.setTwin_kept | with_reducible apply State.wrN_kept | with_reducible apply kept_next | (extract_lets +onlyGivenNames t; clear_value t) | split)

theorem execTransfer_kept {Q : List Instr} {x : XferRec} {s : State} (h_s : Kept Q s) :
  Keeps Q (execTransfer x s) := by
  unfold execTransfer
  repeat' (first | with_reducible assumption | with_reducible apply State.transferTake_kept | with_reducible apply kept_next | split)

theorem execXferAck_kept {Q : List Instr} {n _st : Nat} {s : State} (h_s : Kept Q s) :
  Keeps Q (execXferAck n _st s) := by
  unfold execXferAck
  repeat' (first | with_reducible assumption | with_reducible apply State.xferDone_kept | with_reducible apply kept_next | split)

theorem execFirmware_kept {Q : List Instr} {d : List Byte} {s : State} (h_s : Kept Q s) :
  Keeps Q (execFirmware d s) := by
  unfold execFirmware
  repeat' (first | with_reducible assumption | with_reducible apply State.setTwin_kept | with_reducible apply kept_next | (extract_lets +onlyGivenNames t; clear_value t) | split)

theorem execStandbyBuildComplete_kept {Q : List Instr} {j t : Nat} {s : State} (h_s : Kept Q s) :
  Keeps Q (execStandbyBuildComplete j t s) := by
  unfold execStandbyBuildComplete
  repeat' (first | with_reducible assumption | with_reducible apply State.sealApply_kept | with_reducible apply kept_next | (extract_lets +onlyGivenNames t; (have ht : Kept Q t := (by unfold t; repeat' (first | with_reducible assumption | with_reducible apply State.setTwin_kept))); clear_value t) | (extract_lets +onlyGivenNames t; clear_value t) | split)

end Sys2Proof.Machine
end

