-- ==== Sys2Proof/Laws/KeptControl.lean ====
section
/-! SUPPORT. What Machine/Control.lean keeps: the queue, and the canonical form of memory and of the register file. -/

set_option linter.unreachableTactic false
set_option linter.unusedTactic false
set_option linter.unusedVariables false
set_option linter.unusedSimpArgs false

namespace Sys2Proof.Machine

theorem State.branchEff_kept {Q : List Instr} {h : Hart} {f : FormK} {taken : Ctx → Bool} {s : State} (h_s : Kept Q s) :
  Kept Q (State.branchEff h f taken s) := by
  unfold State.branchEff
  repeat' (first | with_reducible assumption | with_reducible apply State.modCtx_kept)

theorem State.cmpBranch_kept {Q : List Instr} {s : State} {op : Nat} {h : Hart} {f : FormK} {g : Word → Word → Bool} (h_s : Kept Q s) :
  Keeps Q (State.cmpBranch s op h f g) := by
  unfold State.cmpBranch
  repeat' (first | with_reducible assumption | with_reducible apply State.branchEff_kept | with_reducible apply State.issue_kept | with_reducible apply kept_next)

theorem State.maskBranch_kept {Q : List Instr} {s : State} {op : Nat} {h : Hart} {f : FormK} {g : Word → Bool} (h_s : Kept Q s) :
  Keeps Q (State.maskBranch s op h f g) := by
  unfold State.maskBranch
  repeat' (first | with_reducible assumption | with_reducible apply State.branchEff_kept | with_reducible apply State.issue_kept | with_reducible apply kept_next)

theorem execBeq_kept {Q : List Instr} {h : Hart} {f : FormK} {s : State} (h_s : Kept Q s) :
  Keeps Q (execBeq h f s) := by
  unfold execBeq
  repeat' (first | with_reducible assumption | with_reducible apply State.cmpBranch_kept)

theorem execBne_kept {Q : List Instr} {h : Hart} {f : FormK} {s : State} (h_s : Kept Q s) :
  Keeps Q (execBne h f s) := by
  unfold execBne
  repeat' (first | with_reducible assumption | with_reducible apply State.cmpBranch_kept)

theorem execBlt_kept {Q : List Instr} {h : Hart} {f : FormK} {s : State} (h_s : Kept Q s) :
  Keeps Q (execBlt h f s) := by
  unfold execBlt
  repeat' (first | with_reducible assumption | with_reducible apply State.cmpBranch_kept)

theorem execBge_kept {Q : List Instr} {h : Hart} {f : FormK} {s : State} (h_s : Kept Q s) :
  Keeps Q (execBge h f s) := by
  unfold execBge
  repeat' (first | with_reducible assumption | with_reducible apply State.cmpBranch_kept)

theorem execBltu_kept {Q : List Instr} {h : Hart} {f : FormK} {s : State} (h_s : Kept Q s) :
  Keeps Q (execBltu h f s) := by
  unfold execBltu
  repeat' (first | with_reducible assumption | with_reducible apply State.cmpBranch_kept)

theorem execBgeu_kept {Q : List Instr} {h : Hart} {f : FormK} {s : State} (h_s : Kept Q s) :
  Keeps Q (execBgeu h f s) := by
  unfold execBgeu
  repeat' (first | with_reducible assumption | with_reducible apply State.cmpBranch_kept)

theorem execBmany_kept {Q : List Instr} {h : Hart} {f : FormK} {s : State} (h_s : Kept Q s) :
  Keeps Q (execBmany h f s) := by
  unfold execBmany
  repeat' (first | with_reducible assumption | with_reducible apply State.maskBranch_kept)

theorem execBmnone_kept {Q : List Instr} {h : Hart} {f : FormK} {s : State} (h_s : Kept Q s) :
  Keeps Q (execBmnone h f s) := by
  unfold execBmnone
  repeat' (first | with_reducible assumption | with_reducible apply State.maskBranch_kept)

theorem execJal_kept {Q : List Instr} {h : Hart} {f : FormK} {s : State} (h_s : Kept Q s) :
  Keeps Q (execJal h f s) := by
  unfold execJal
  repeat' (first | with_reducible assumption | with_reducible apply State.issue_kept | with_reducible apply State.modCtx_kept | with_reducible apply kept_next | with_reducible refine fun _ => ?_)

theorem execJalr_kept {Q : List Instr} {h : Hart} {f : FormK} {s : State} (h_s : Kept Q s) :
  Keeps Q (execJalr h f s) := by
  unfold execJalr
  repeat' (first | with_reducible assumption | with_reducible apply State.issue_kept | with_reducible apply State.modCtx_kept | with_reducible apply State.raise_kept | with_reducible apply kept_next | with_reducible refine fun _ => ?_ | (extract_lets +onlyGivenNames t; clear_value t) | split)

end Sys2Proof.Machine
end

