-- ==== Sys2Proof/Laws/KeptEthernet.lean ====
section
/-! SUPPORT. What Machine/Ethernet.lean keeps: the queue, and the canonical form of memory and of the register file. -/

set_option linter.unreachableTactic false
set_option linter.unusedTactic false
set_option linter.unusedVariables false
set_option linter.unusedSimpArgs false

namespace Sys2Proof.Machine

theorem execEthPortLinkChange_kept {Q : List Instr} {p st : Nat} {fault : Bool} {s : State} (h_s : Kept Q s) :
  Keeps Q (execEthPortLinkChange p st fault s) := by
  unfold execEthPortLinkChange
  repeat' (first | with_reducible assumption | with_reducible apply State.setRbit_kept | with_reducible apply State.setRfld_kept | with_reducible apply kept_next | split)

theorem execEthFrameReceive_kept {Q : List Instr} {p : Nat} {k : EthKind} {s : State} (h_s : Kept Q s) :
  Keeps Q (execEthFrameReceive p k s) := by
  unfold execEthFrameReceive
  repeat' (first | with_reducible assumption | with_reducible apply State.bump_kept | with_reducible apply State.send_kept | with_reducible apply kept_next | split)

theorem execRdmaWrite_kept {Q : List Instr} {q : Nat} {m : RdmaMsg} {s : State} (h_s : Kept Q s) :
  Keeps Q (execRdmaWrite q m s) := by
  unfold execRdmaWrite
  repeat' (first | with_reducible assumption | with_reducible apply State.rdmaWrite_kept | with_reducible apply kept_next | with_reducible refine fun _ => ?_)

theorem execRdmaWriteImm_kept {Q : List Instr} {q : Nat} {m : RdmaMsg} {imm : BitVec 32} {s : State} (h_s : Kept Q s) :
  Keeps Q (execRdmaWriteImm q m imm s) := by
  unfold execRdmaWriteImm
  repeat' (first | with_reducible assumption | with_reducible apply State.immSignal_kept | with_reducible apply State.rdmaWrite_kept | with_reducible apply kept_next | with_reducible refine fun _ => ?_)

theorem execRdmaRead_kept {Q : List Instr} {q : Nat} {m : RdmaMsg} {s : State} (h_s : Kept Q s) :
  Keeps Q (execRdmaRead q m s) := by
  unfold execRdmaRead
  repeat' (first | with_reducible assumption | with_reducible apply State.rdmaRead_kept | with_reducible apply kept_next)

theorem execRdmaAck_kept {Q : List Instr} {q : Nat} {a : RdmaAck} {s : State} (h_s : Kept Q s) :
  Keeps Q (execRdmaAck q a s) := by
  unfold execRdmaAck
  repeat' (first | with_reducible assumption | with_reducible apply State.qpAck_kept | with_reducible apply State.qpError_kept | with_reducible apply State.qpReadData_kept | with_reducible apply State.qpResend_kept | with_reducible apply State.sliceData_kept | with_reducible apply kept_next | split)

theorem execRdmaAckTimeout_kept {Q : List Instr} {q : Nat} {s : State} (h_s : Kept Q s) :
  Keeps Q (execRdmaAckTimeout q s) := by
  unfold execRdmaAckTimeout
  repeat' (first | with_reducible assumption | with_reducible apply State.qpResend_kept | with_reducible apply kept_next | split)

theorem execQpDoorbell_kept {Q : List Instr} {q : Nat} {v : Word} {s : State} (h_s : Kept Q s) :
  Keeps Q (execQpDoorbell q v s) := by
  unfold execQpDoorbell
  repeat' (first | with_reducible assumption | with_reducible apply State.qpDoorbell_kept | with_reducible apply kept_next | split)

theorem execCnpReceive_kept {Q : List Instr} {q : Nat} {s : State} (h_s : Kept Q s) :
  Keeps Q (execCnpReceive q s) := by
  unfold execCnpReceive
  repeat' (first | with_reducible assumption | with_reducible apply State.cnpTake_kept | with_reducible apply kept_next | split)

theorem execCcTimerExpire_kept {Q : List Instr} {q : Nat} {s : State} (h_s : Kept Q s) :
  Keeps Q (execCcTimerExpire q s) := by
  unfold execCcTimerExpire
  repeat' (first | with_reducible assumption | with_reducible apply State.rateRaise_kept | with_reducible apply kept_next | split)

theorem execMarkDropped_kept {Q : List Instr} {q _handle _psn : Nat} {s : State} (h_s : Kept Q s) :
  Keeps Q (execMarkDropped q _handle _psn s) := by
  unfold execMarkDropped
  repeat' (first | with_reducible assumption | with_reducible apply State.bump_kept | with_reducible apply kept_next | split)

theorem execSliceReq_kept {Q : List Instr} {q : Nat} {r : SliceReq} {s : State} (h_s : Kept Q s) :
  Keeps Q (execSliceReq q r s) := by
  unfold execSliceReq
  repeat' (first | with_reducible assumption | with_reducible apply State.sliceReq_kept | with_reducible apply kept_next | split)

theorem execSliceRsp_kept {Q : List Instr} {q : Nat} {_ed : Word} {st : Nat} {s : State} (h_s : Kept Q s) :
  Keeps Q (execSliceRsp q _ed st s) := by
  unfold execSliceRsp
  repeat' (first | with_reducible assumption | with_reducible apply State.batchGone_kept | with_reducible apply kept_next | split)

theorem execEthFolioReq_kept {Q : List Instr} {j _src : Nat} {s : State} (h_s : Kept Q s) :
  Keeps Q (execEthFolioReq j _src s) := by
  unfold execEthFolioReq
  repeat' (first | with_reducible assumption | with_reducible apply State.groupAsk_kept | with_reducible apply kept_next | split)

theorem execFolioAt_kept {Q : List Instr} {j : Nat} {step : Word} {s : State} (h_s : Kept Q s) :
  Keeps Q (execFolioAt j step s) := by
  unfold execFolioAt
  repeat' (first | with_reducible assumption | with_reducible apply State.folioAt_kept | with_reducible apply kept_next | split)

theorem execSealed_kept {Q : List Instr} {j rank n : Nat} {step : Word} {s : State} (h_s : Kept Q s) :
  Keeps Q (execSealed j rank n step s) := by
  unfold execSealed
  repeat' (first | with_reducible assumption | with_reducible apply State.memberSealed_kept | with_reducible apply kept_next | split)

theorem execRestart_kept {Q : List Instr} {j rank n : Nat} {s : State} (h_s : Kept Q s) :
  Keeps Q (execRestart j rank n s) := by
  unfold execRestart
  repeat' (first | with_reducible assumption | with_reducible apply State.groupRollback_kept | with_reducible apply kept_next | split)

theorem execRestartAck_kept {Q : List Instr} {j rank n : Nat} {s : State} (h_s : Kept Q s) :
  Keeps Q (execRestartAck j rank n s) := by
  unfold execRestartAck
  repeat' (first | with_reducible assumption | with_reducible apply State.groupAck_kept | with_reducible apply kept_next | split)

theorem execIngestDatagram_kept {Q : List Instr} {r : Nat} {seq : Word} {len : Nat} {rsv : Bool} {d : List Byte} {s : State} (h_s : Kept Q s) :
  Keeps Q (execIngestDatagram r seq len rsv d s) := by
  unfold execIngestDatagram
  repeat' (first | with_reducible assumption | with_reducible apply State.ingestTake_kept | with_reducible apply kept_next | split)

end Sys2Proof.Machine
end

