-- ==== Sys2Proof/Laws/KeptFirmware.lean ====
section
/-! SUPPORT. What Machine/Firmware.lean keeps: the queue, and the canonical form of memory and of the register file. -/

set_option linter.unreachableTactic false
set_option linter.unusedTactic false
set_option linter.unusedVariables false
set_option linter.unusedSimpArgs false

namespace Sys2Proof.Machine

theorem execBootImageLoaded_kept {Q : List Instr} {s : State} (h_s : Kept Q s) :
  Keeps Q (execBootImageLoaded s) := by
  unfold execBootImageLoaded
  repeat' (first | with_reducible assumption | with_reducible apply State.bootSlot_kept | with_reducible apply kept_next | split)

theorem execRingEntryConsume_kept {Q : List Instr} {r : Nat} {s : State} (h_s : Kept Q s) :
  Keeps Q (execRingEntryConsume r s) := by
  unfold execRingEntryConsume
  repeat' (first | with_reducible assumption | with_reducible apply State.ringConsume_kept | with_reducible apply kept_next | split)

theorem execFwWatchdogExpire_kept {Q : List Instr} {p : Nat} {s : State} (h_s : Kept Q s) :
  Keeps Q (execFwWatchdogExpire p s) := by
  unfold execFwWatchdogExpire
  repeat' (first | with_reducible assumption | with_reducible apply State.fwCrash_kept | with_reducible apply kept_next | split)

theorem execFwRestartComplete_kept {Q : List Instr} {s : State} (h_s : Kept Q s) :
  Keeps Q (execFwRestartComplete s) := by
  unfold execFwRestartComplete
  repeat' (first | with_reducible assumption | with_reducible apply State.fwRestarted_kept | with_reducible apply kept_next | split)

end Sys2Proof.Machine
end

