-- ==== Sys2Proof/Laws/KeptGather.lean ====
section
/-! SUPPORT. What Machine/Gather.lean keeps: the queue, and the canonical form of memory and of the register file. -/

set_option linter.unreachableTactic false
set_option linter.unusedTactic false
set_option linter.unusedVariables false
set_option linter.unusedSimpArgs false

namespace Sys2Proof.Machine

theorem State.poolStart_kept {Q : List Instr} {s : State} {k : Nat} {o : SkOp} (h_s : Kept Q s) :
  Kept Q (State.poolStart s k o) := by
  unfold State.poolStart
  repeat' (first | with_reducible assumption | with_reducible apply State.poolBegin_kept | with_reducible apply State.setSk_kept | with_reducible apply State.skStart_kept | with_reducible refine fun _ => ?_ | split)

theorem execNbPool_kept {Q : List Instr} {h : Hart} {f : FormD} {s : State} (h_s : Kept Q s) :
  Keeps Q (execNbPool h f s) := by
  unfold execNbPool
  repeat' (first | with_reducible assumption | with_reducible apply State.checked_kept | with_reducible apply State.issue_kept | with_reducible apply State.poolStart_kept | with_reducible apply State.skEnter_kept | with_reducible apply State.withSig_kept | with_reducible apply State.withSlot_kept | with_reducible apply kept_next | with_reducible refine fun _ => ?_)

theorem execNbRdfl_kept {Q : List Instr} {h : Hart} {f : FormD} {s : State} (h_s : Kept Q s) :
  Keeps Q (execNbRdfl h f s) := by
  unfold execNbRdfl
  repeat' (first | with_reducible assumption | with_reducible apply State.issue_kept | with_reducible apply State.modCtx_kept | with_reducible apply State.waits_kept | with_reducible apply kept_next | with_reducible refine fun _ => ?_ | (extract_lets +onlyGivenNames t; clear_value t) | split)

theorem execLgGather_kept {Q : List Instr} {h : Hart} {f : FormD} {s : State} (h_s : Kept Q s) :
  Keeps Q (execLgGather h f s) := by
  unfold execLgGather
  repeat' (first | with_reducible assumption | with_reducible apply State.checked_kept | with_reducible apply State.gatherBegin_kept | with_reducible apply State.issue_kept | with_reducible apply State.skEnter_kept | with_reducible apply State.withSig_kept | with_reducible apply State.withSlot_kept | with_reducible apply kept_next | with_reducible refine fun _ => ?_)

end Sys2Proof.Machine
end

