-- ==== Sys2Proof/Laws/KeptHostCmds.lean ====
section
/-! SUPPORT. What Machine/HostCmds.lean keeps: the queue, and the canonical form of memory and of the register file. -/

set_option linter.unreachableTactic false
set_option linter.unusedTactic false
set_option linter.unusedVariables false
set_option linter.unusedSimpArgs false

namespace Sys2Proof.Machine

theorem execIdentify_kept {Q : List Instr} {e : EntryHdr} {s : State} (h_s : Kept Q s) :
  Keeps Q (execIdentify e s) := by
  unfold execIdentify
  repeat' (first | with_reducible assumption | with_reducible apply State.answered_kept | with_reducible apply State.hostRow_kept | with_reducible refine fun _ => ?_)

theorem execRingCreate_kept {Q : List Instr} {e : EntryHdr} {pair cls sqlog cqlog : Nat} {s : State} (h_s : Kept Q s) :
  Keeps Q (execRingCreate e pair cls sqlog cqlog s) := by
  unfold execRingCreate
  repeat' (first | with_reducible assumption | with_reducible apply State.hostOrdered_kept | with_reducible apply State.hostRow_kept | with_reducible refine fun _ => ?_)

theorem execRingDelete_kept {Q : List Instr} {e : EntryHdr} {pair : Nat} {s : State} (h_s : Kept Q s) :
  Keeps Q (execRingDelete e pair s) := by
  unfold execRingDelete
  repeat' (first | with_reducible assumption | with_reducible apply State.hostOrdered_kept | with_reducible apply State.hostRow_kept | with_reducible apply State.modRing_kept | with_reducible refine fun _ => ?_ | split)

theorem execJobLoad_kept {Q : List Instr} {e : EntryHdr} {img : JobImage} {s : State} (h_s : Kept Q s) :
  Keeps Q (execJobLoad e img s) := by
  unfold execJobLoad
  repeat' (first | with_reducible assumption | with_reducible apply State.hostRow_kept | with_reducible apply State.loadImage_kept | with_reducible apply State.refuse_kept | with_reducible apply State.requestFolio_kept | with_reducible apply State.underWay_kept | with_reducible refine fun _ => ?_ | split)

theorem execJobUnload_kept {Q : List Instr} {e : EntryHdr} {s : State} (h_s : Kept Q s) :
  Keeps Q (execJobUnload e s) := by
  unfold execJobUnload
  repeat' (first | with_reducible assumption | with_reducible apply State.hostOrdered_kept | with_reducible apply State.hostRow_kept | with_reducible refine fun _ => ?_)

theorem execJobStop_kept {Q : List Instr} {e : EntryHdr} {s : State} (h_s : Kept Q s) :
  Keeps Q (execJobStop e s) := by
  unfold execJobStop
  repeat' (first | with_reducible assumption | with_reducible apply State.hostOrdered_kept | with_reducible apply State.hostRow_kept | with_reducible refine fun _ => ?_)

theorem execTaskSubmit_kept {Q : List Instr} {e : EntryHdr} {d : List Byte} {s : State} (h_s : Kept Q s) :
  Keeps Q (execTaskSubmit e d s) := by
  unfold execTaskSubmit
  repeat' (first | with_reducible assumption | with_reducible apply State.answered_kept | with_reducible refine State.enqueue_kept (by assumption) ?_ | with_reducible apply State.hostRow_kept | with_reducible apply State.refuse_kept | with_reducible apply State.stall_kept | with_reducible refine State.taskNum_kept (by assumption) ?_ | with_reducible apply State.unstall_kept | with_reducible refine fun _ => ?_ | (extract_lets +onlyGivenNames t; clear_value t) | split)

theorem execPublish_kept {Q : List Instr} {e : EntryHdr} {buf : Nat} {s : State} (h_s : Kept Q s) :
  Keeps Q (execPublish e buf s) := by
  unfold execPublish
  repeat' (first | with_reducible assumption | with_reducible apply State.hostRow_kept | with_reducible apply State.refuse_kept | (simp only [kept_mk]; with_reducible apply kept_fold) | with_reducible refine fun _ => ?_ | (extract_lets +onlyGivenNames t; (have ht : Kept Q t := (by unfold t; repeat' (first | with_reducible assumption | with_reducible apply State.underWay_kept))); clear_value t) | split)

theorem execGenHold_kept {Q : List Instr} {e : EntryHdr} {s : State} (h_s : Kept Q s) :
  Keeps Q (execGenHold e s) := by
  unfold execGenHold
  repeat' (first | with_reducible assumption | with_reducible apply State.answered_kept | with_reducible apply State.hostRow_kept | with_reducible apply State.refuse_kept | (simp only [kept_mk]; with_reducible apply kept_fold) | with_reducible refine fun _ => ?_ | (extract_lets +onlyGivenNames t; clear_value t) | split)

theorem execGenRelease_kept {Q : List Instr} {e : EntryHdr} {gen : Nat} {s : State} (h_s : Kept Q s) :
  Keeps Q (execGenRelease e gen s) := by
  unfold execGenRelease
  repeat' (first | with_reducible assumption | with_reducible apply State.answered_kept | with_reducible apply State.hostRow_kept | with_reducible apply State.reclaim_kept | with_reducible apply State.refuse_kept | (simp only [kept_mk]; with_reducible apply kept_fold) | with_reducible refine fun _ => ?_ | split)

theorem execStateRead_kept {Q : List Instr} {e : EntryHdr} {t first rows buf : Nat} {s : State} (h_s : Kept Q s) :
  Keeps Q (execStateRead e t first rows buf s) := by
  unfold execStateRead
  repeat' (first | with_reducible assumption | with_reducible apply State.hostRow_kept | with_reducible apply State.refuse_kept | with_reducible apply State.underWay_kept | with_reducible refine fun _ => ?_ | (extract_lets +onlyGivenNames t; clear_value t) | split)

theorem execConfigWrite_kept {Q : List Instr} {e : EntryHdr} {off : Nat} {v : Word} {s : State} (h_s : Kept Q s) :
  Keeps Q (execConfigWrite e off v s) := by
  unfold execConfigWrite
  repeat' (first | with_reducible assumption | with_reducible apply State.hostOrdered_kept | with_reducible apply State.hostRow_kept | with_reducible refine fun _ => ?_)

theorem execLedgerWrite_kept {Q : List Instr} {e : EntryHdr} {entry : Nat} {val sig : List Byte} {s : State} (h_s : Kept Q s) :
  Keeps Q (execLedgerWrite e entry val sig s) := by
  unfold execLedgerWrite
  repeat' (first | with_reducible assumption | with_reducible apply State.hostOrdered_kept | with_reducible apply State.hostRow_kept | with_reducible refine fun _ => ?_ | split)

theorem execLedgerRead_kept {Q : List Instr} {e : EntryHdr} {entry buf : Nat} {s : State} (h_s : Kept Q s) :
  Keeps Q (execLedgerRead e entry buf s) := by
  unfold execLedgerRead
  repeat' (first | with_reducible assumption | with_reducible apply State.answered_kept | with_reducible apply State.homeForce_kept | with_reducible apply State.hostRow_kept | with_reducible apply State.refuse_kept | with_reducible refine fun _ => ?_ | (extract_lets +onlyGivenNames t; clear_value t) | split)

theorem execLogRead_kept {Q : List Instr} {e : EntryHdr} {nonce : List Byte} {buf : Nat} {s : State} (h_s : Kept Q s) :
  Keeps Q (execLogRead e nonce buf s) := by
  unfold execLogRead
  repeat' (first | with_reducible assumption | with_reducible apply State.answered_kept | with_reducible apply State.homeForce_kept | with_reducible apply State.hostRow_kept | with_reducible apply State.refuse_kept | with_reducible refine fun _ => ?_ | split)

theorem execAttest_kept {Q : List Instr} {e : EntryHdr} {nonce : List Byte} {buf : Nat} {s : State} (h_s : Kept Q s) :
  Keeps Q (execAttest e nonce buf s) := by
  unfold execAttest
  repeat' (first | with_reducible assumption | with_reducible apply State.answered_kept | with_reducible apply State.bump_kept | with_reducible apply State.homeForce_kept | with_reducible apply State.hostRow_kept | with_reducible apply State.refuse_kept | with_reducible refine fun _ => ?_ | split)

theorem execQpConnect_kept {Q : List Instr} {e : EntryHdr} {q : Nat} {ctx : List Byte} {s : State} (h_s : Kept Q s) :
  Keeps Q (execQpConnect e q ctx s) := by
  unfold execQpConnect
  repeat' (first | with_reducible assumption | with_reducible apply State.hostOrdered_kept | with_reducible apply State.hostRow_kept | with_reducible refine fun _ => ?_)

theorem execQpReset_kept {Q : List Instr} {e : EntryHdr} {q : Nat} {s : State} (h_s : Kept Q s) :
  Keeps Q (execQpReset e q s) := by
  unfold execQpReset
  repeat' (first | with_reducible assumption | with_reducible apply State.hostOrdered_kept | with_reducible apply State.hostRow_kept | with_reducible refine fun _ => ?_)

theorem execIngestCfg_kept {Q : List Instr} {e : EntryHdr} {r : Nat} {v mk : Word} {s : State} (h_s : Kept Q s) :
  Keeps Q (execIngestCfg e r v mk s) := by
  unfold execIngestCfg
  repeat' (first | with_reducible assumption | with_reducible apply State.hostOrdered_kept | with_reducible apply State.hostRow_kept | with_reducible refine fun _ => ?_)

theorem execFwStage_kept {Q : List Instr} {e : EntryHdr} {slot : Nat} {img : FwImage} {s : State} (h_s : Kept Q s) :
  Keeps Q (execFwStage e slot img s) := by
  unfold execFwStage
  repeat' (first | with_reducible assumption | with_reducible apply State.hostOrdered_kept | with_reducible apply State.hostRow_kept | with_reducible refine fun _ => ?_)

theorem execFwActivate_kept {Q : List Instr} {e : EntryHdr} {slot : Nat} {s : State} (h_s : Kept Q s) :
  Keeps Q (execFwActivate e slot s) := by
  unfold execFwActivate
  repeat' (first | with_reducible assumption | with_reducible apply State.hostOrdered_kept | with_reducible apply State.hostRow_kept | with_reducible refine fun _ => ?_)

theorem execDebugAttach_kept {Q : List Instr} {e : EntryHdr} {s : State} (h_s : Kept Q s) :
  Keeps Q (execDebugAttach e s) := by
  unfold execDebugAttach
  repeat' (first | with_reducible assumption | with_reducible apply State.hostOrdered_kept | with_reducible apply State.hostRow_kept | with_reducible refine fun _ => ?_)

theorem execDebugDetach_kept {Q : List Instr} {e : EntryHdr} {s : State} (h_s : Kept Q s) :
  Keeps Q (execDebugDetach e s) := by
  unfold execDebugDetach
  repeat' (first | with_reducible assumption | with_reducible apply State.hostOrdered_kept | with_reducible apply State.hostRow_kept | with_reducible refine fun _ => ?_)

theorem execDebugHandSet_kept {Q : List Instr} {e : EntryHdr} {handle : Nat} {v : BitVec 32} {s : State} (h_s : Kept Q s) :
  Keeps Q (execDebugHandSet e handle v s) := by
  unfold execDebugHandSet
  repeat' (first | with_reducible assumption | with_reducible apply State.hostOrdered_kept | with_reducible apply State.hostRow_kept | with_reducible refine fun _ => ?_)

theorem execFolioReq_kept {Q : List Instr} {e : EntryHdr} {s : State} (h_s : Kept Q s) :
  Keeps Q (execFolioReq e s) := by
  unfold execFolioReq
  repeat' (first | with_reducible assumption | with_reducible apply State.answered_kept | with_reducible apply State.hostRow_kept | with_reducible apply State.orderWrite_kept | with_reducible refine fun _ => ?_)

theorem execRoleOrderDepart_kept {Q : List Instr} {e : EntryHdr} {s : State} (h_s : Kept Q s) :
  Keeps Q (execRoleOrderDepart e s) := by
  unfold execRoleOrderDepart
  repeat' (first | with_reducible assumption | with_reducible apply State.hostOrdered_kept | with_reducible apply State.hostRow_kept | with_reducible refine fun _ => ?_)

theorem execRoleOrderTakeover_kept {Q : List Instr} {e : EntryHdr} {s : State} (h_s : Kept Q s) :
  Keeps Q (execRoleOrderTakeover e s) := by
  unfold execRoleOrderTakeover
  repeat' (first | with_reducible assumption | with_reducible apply State.hostOrdered_kept | with_reducible apply State.hostRow_kept | with_reducible refine fun _ => ?_)

end Sys2Proof.Machine
end

