-- ==== Sys2Proof/Laws/KeptLoadStore.lean ====
section
/-! SUPPORT. What Machine/LoadStore.lean keeps: the queue, and the canonical form of memory and of the register file. -/

set_option linter.unreachableTactic false
set_option linter.unusedTactic false
set_option linter.unusedVariables false
set_option linter.unusedSimpArgs false

namespace Sys2Proof.Machine

theorem State.regAccess_kept {Q : List Instr} {s : State} {h : Hart} {va : Word} {off : Nat} {op : CoreOp} (h_s : Kept Q s) :
  Kept Q (State.regAccess s h va off op) := by
  unfold State.regAccess
  repeat' (first | with_reducible assumption | with_reducible apply State.modCtx_kept | with_reducible apply State.raise_kept | with_reducible apply State.regWrite_kept | with_reducible apply kept_foldl | with_reducible refine fun _ => ?_ | split)

theorem State.memAccess_kept {Q : List Instr} {s : State} {h : Hart} {va : Word} {pa : Nat} {host : Bool} {op : CoreOp} (h_s : Kept Q s) :
  Kept Q (State.memAccess s h va pa host op) := by
  unfold State.memAccess
  repeat' (first | with_reducible assumption | with_reducible apply State.stride_kept | (extract_lets +onlyGivenNames t; (have ht : Kept Q t := (by unfold t; repeat' (first | with_reducible assumption | with_reducible apply State.deviceAccess_kept | with_reducible apply State.hostAccess_kept | with_reducible apply State.zeroLine_kept | split))); clear_value t) | (extract_lets +onlyGivenNames t; clear_value t) | split)

theorem State.coreGo_kept {Q : List Instr} {h : Hart} {va : Word} {op : CoreOp} {pa : Nat} {host : Bool} {s : State} (h_s : Kept Q s) :
  Kept Q (State.coreGo h va op pa host s) := by
  unfold State.coreGo
  repeat' (first | with_reducible assumption | with_reducible apply State.memAccess_kept | with_reducible apply State.raise_kept | with_reducible apply State.regAccess_kept | split)

theorem State.loadEff_kept {Q : List Instr} {h : Hart} {f : FormK} {n : Nat} {signed : Bool} {s : State} (h_s : Kept Q s) :
  Kept Q (State.loadEff h f n signed s) := by
  unfold State.loadEff
  repeat' (first | with_reducible assumption | with_reducible apply State.aligned_kept | with_reducible apply State.coreAccess_kept | with_reducible apply State.coreGo_kept | with_reducible refine fun _ => ?_)

theorem State.storeEff_kept {Q : List Instr} {h : Hart} {f : FormK} {n : Nat} {s : State} (h_s : Kept Q s) :
  Kept Q (State.storeEff h f n s) := by
  unfold State.storeEff
  repeat' (first | with_reducible assumption | with_reducible apply State.aligned_kept | with_reducible apply State.coreAccess_kept | with_reducible apply State.coreGo_kept | with_reducible refine fun _ => ?_)

theorem State.memInstr_kept {Q : List Instr} {s : State} {op : Nat} {h : Hart} {f : FormK} {body : State → State} (h_s : Kept Q s) (h_body : ∀ y0, Kept Q y0 → Kept Q (body y0)) :
  Keeps Q (State.memInstr s op h f body) := by
  unfold State.memInstr
  repeat' (first | with_reducible assumption | with_reducible apply State.issue_kept | with_reducible apply kept_next)

theorem State.slotInstr_kept {Q : List Instr} {s : State} {op : Nat} {h : Hart} {f : FormK} {body : State → State} (h_s : Kept Q s) (h_body : ∀ y0, Kept Q y0 → Kept Q (body y0)) :
  Keeps Q (State.slotInstr s op h f body) := by
  unfold State.slotInstr
  repeat' (first | with_reducible assumption | with_reducible apply State.issue_kept | with_reducible apply kept_next)

theorem State.lineInstr_kept {Q : List Instr} {s : State} {op : Nat} {h : Hart} {f : FormK} {k : AccKind} {g : Word → Nat → Bool → State → State} (h_s : Kept Q s) (h_g : ∀ y0 y1 y2 y3, Kept Q y3 → Kept Q (g y0 y1 y2 y3)) :
  Keeps Q (State.lineInstr s op h f k g) := by
  unfold State.lineInstr
  repeat' (first | with_reducible assumption | with_reducible apply State.aligned_kept | with_reducible apply State.coreAccess_kept | with_reducible apply State.issue_kept | with_reducible apply h_g | with_reducible apply kept_next | with_reducible refine fun _ => ?_)

theorem execLdB_kept {Q : List Instr} {h : Hart} {f : FormK} {s : State} (h_s : Kept Q s) :
  Keeps Q (execLdB h f s) := by
  unfold execLdB
  repeat' (first | with_reducible assumption | with_reducible apply State.loadEff_kept | with_reducible apply State.memInstr_kept)

theorem execLdH_kept {Q : List Instr} {h : Hart} {f : FormK} {s : State} (h_s : Kept Q s) :
  Keeps Q (execLdH h f s) := by
  unfold execLdH
  repeat' (first | with_reducible assumption | with_reducible apply State.loadEff_kept | with_reducible apply State.memInstr_kept)

theorem execLdW_kept {Q : List Instr} {h : Hart} {f : FormK} {s : State} (h_s : Kept Q s) :
  Keeps Q (execLdW h f s) := by
  unfold execLdW
  repeat' (first | with_reducible assumption | with_reducible apply State.loadEff_kept | with_reducible apply State.memInstr_kept)

theorem execLdD_kept {Q : List Instr} {h : Hart} {f : FormK} {s : State} (h_s : Kept Q s) :
  Keeps Q (execLdD h f s) := by
  unfold execLdD
  repeat' (first | with_reducible assumption | with_reducible apply State.loadEff_kept | with_reducible apply State.memInstr_kept)

theorem execLdBu_kept {Q : List Instr} {h : Hart} {f : FormK} {s : State} (h_s : Kept Q s) :
  Keeps Q (execLdBu h f s) := by
  unfold execLdBu
  repeat' (first | with_reducible assumption | with_reducible apply State.loadEff_kept | with_reducible apply State.memInstr_kept)

theorem execLdHu_kept {Q : List Instr} {h : Hart} {f : FormK} {s : State} (h_s : Kept Q s) :
  Keeps Q (execLdHu h f s) := by
  unfold execLdHu
  repeat' (first | with_reducible assumption | with_reducible apply State.loadEff_kept | with_reducible apply State.memInstr_kept)

theorem execLdWu_kept {Q : List Instr} {h : Hart} {f : FormK} {s : State} (h_s : Kept Q s) :
  Keeps Q (execLdWu h f s) := by
  unfold execLdWu
  repeat' (first | with_reducible assumption | with_reducible apply State.loadEff_kept | with_reducible apply State.memInstr_kept)

theorem execStB_kept {Q : List Instr} {h : Hart} {f : FormK} {s : State} (h_s : Kept Q s) :
  Keeps Q (execStB h f s) := by
  unfold execStB
  repeat' (first | with_reducible assumption | with_reducible apply State.memInstr_kept | with_reducible apply State.storeEff_kept)

theorem execStH_kept {Q : List Instr} {h : Hart} {f : FormK} {s : State} (h_s : Kept Q s) :
  Keeps Q (execStH h f s) := by
  unfold execStH
  repeat' (first | with_reducible assumption | with_reducible apply State.memInstr_kept | with_reducible apply State.storeEff_kept)

theorem execStW_kept {Q : List Instr} {h : Hart} {f : FormK} {s : State} (h_s : Kept Q s) :
  Keeps Q (execStW h f s) := by
  unfold execStW
  repeat' (first | with_reducible assumption | with_reducible apply State.memInstr_kept | with_reducible apply State.storeEff_kept)

theorem execStD_kept {Q : List Instr} {h : Hart} {f : FormK} {s : State} (h_s : Kept Q s) :
  Keeps Q (execStD h f s) := by
  unfold execStD
  repeat' (first | with_reducible assumption | with_reducible apply State.memInstr_kept | with_reducible apply State.storeEff_kept)

theorem execDsLd_kept {Q : List Instr} {h : Hart} {f : FormK} {s : State} (h_s : Kept Q s) :
  Keeps Q (execDsLd h f s) := by
  unfold execDsLd
  repeat' (first | with_reducible assumption | with_reducible apply State.aligned_kept | with_reducible apply State.coreAccess_kept | with_reducible apply State.coreGo_kept | with_reducible apply State.slotInstr_kept | with_reducible refine fun _ => ?_)

theorem execDsSt_kept {Q : List Instr} {h : Hart} {f : FormK} {s : State} (h_s : Kept Q s) :
  Keeps Q (execDsSt h f s) := by
  unfold execDsSt
  repeat' (first | with_reducible assumption | with_reducible apply State.aligned_kept | with_reducible apply State.coreAccess_kept | with_reducible apply State.coreGo_kept | with_reducible apply State.slotInstr_kept | with_reducible refine fun _ => ?_)

theorem execDsClr_kept {Q : List Instr} {h : Hart} {f : FormK} {s : State} (h_s : Kept Q s) :
  Keeps Q (execDsClr h f s) := by
  unfold execDsClr
  repeat' (first | with_reducible assumption | with_reducible apply State.issue_kept | with_reducible apply State.modCtx_kept | with_reducible apply kept_next | with_reducible refine fun _ => ?_)

theorem execCZero_kept {Q : List Instr} {h : Hart} {f : FormK} {s : State} (h_s : Kept Q s) :
  Keeps Q (execCZero h f s) := by
  unfold execCZero
  repeat' (first | with_reducible assumption | with_reducible apply State.coreGo_kept | with_reducible apply State.lineInstr_kept | with_reducible refine fun _ => ?_)

theorem execCClean_kept {Q : List Instr} {h : Hart} {f : FormK} {s : State} (h_s : Kept Q s) :
  Keeps Q (execCClean h f s) := by
  unfold execCClean
  repeat' (first | with_reducible assumption | with_reducible apply State.cleanOrFlush_kept | with_reducible apply State.lineInstr_kept | with_reducible refine fun _ => ?_)

theorem execCFlush_kept {Q : List Instr} {h : Hart} {f : FormK} {s : State} (h_s : Kept Q s) :
  Keeps Q (execCFlush h f s) := by
  unfold execCFlush
  repeat' (first | with_reducible assumption | with_reducible apply State.cleanOrFlush_kept | with_reducible apply State.lineInstr_kept | with_reducible refine fun _ => ?_)

theorem execISync_kept {Q : List Instr} {h : Hart} {f : FormK} {s : State} (h_s : Kept Q s) :
  Keeps Q (execISync h f s) := by
  unfold execISync
  repeat' (first | with_reducible assumption | with_reducible apply State.idrop_kept | with_reducible apply State.lineInstr_kept | with_reducible apply State.modCtx_kept | with_reducible refine fun _ => ?_)

end Sys2Proof.Machine
end

