-- ==== Sys2Proof/Laws/KeptManagerOps.lean ====
section
/-! SUPPORT. What Machine/ManagerOps.lean keeps: the queue, and the canonical form of memory and of the register file. -/

set_option linter.unreachableTactic false
set_option linter.unusedTactic false
set_option linter.unusedVariables false
set_option linter.unusedSimpArgs false

namespace Sys2Proof.Machine

theorem State.setMgr_kept {Q : List Instr} {s : State} {m : Mgr} (h_s : Kept Q s) :
  Kept Q (State.setMgr s m) := by
  unfold State.setMgr
  repeat' (first | with_reducible assumption | (simp only [kept_mk]; with_reducible apply kept_fold))

theorem State.answer_kept {Q : List Instr} {s : State} {ty cmd : Nat} {args : List Nat} {data : List Byte} (h_s : Kept Q s) :
  Kept Q (State.answer s ty cmd args data) := by
  unfold State.answer
  repeat' (first | with_reducible assumption | with_reducible apply State.send_kept | with_reducible apply State.setMgr_kept)

theorem State.port_kept {Q : List Instr} {s : State} {f : State → State} (h_s : Kept Q s) (h_f : ∀ y0, Kept Q y0 → Kept Q (f y0)) :
  Keeps Q (State.port s f) := by
  unfold State.port
  repeat' (first | with_reducible assumption | with_reducible apply h_f | with_reducible apply kept_next | split)

theorem State.mctpErr_kept {Q : List Instr} {s : State} (h_s : Kept Q s) :
  Kept Q (State.mctpErr s) := by
  unfold State.mctpErr
  repeat' (first | with_reducible assumption | with_reducible apply State.bump_kept | with_reducible apply State.setMgr_kept)

theorem State.dropAsm_kept {Q : List Instr} {s : State} {tag : Nat} (h_s : Kept Q s) :
  Kept Q (State.dropAsm s tag) := by
  unfold State.dropAsm
  repeat' (first | with_reducible assumption | with_reducible apply State.setMgr_kept)

theorem State.mctpWhole_kept {Q : List Instr} {s : State} {a : MctpAsm} (h_s : Kept Q s) :
  Kept Q (State.mctpWhole s a) := by
  unfold State.mctpWhole
  repeat' (first | with_reducible assumption | with_reducible apply State.mctpErr_kept | with_reducible apply State.send_kept | with_reducible apply State.setMgr_kept | (extract_lets +onlyGivenNames t; (have ht : Kept Q t := (by unfold t; repeat' (first | with_reducible assumption | with_reducible apply State.bump_kept | with_reducible apply State.dropAsm_kept))); clear_value t) | (extract_lets +onlyGivenNames t; clear_value t) | split)

theorem State.mctpPacket_kept {Q : List Instr} {s : State} {p : MctpPacket} (h_s : Kept Q s) :
  Kept Q (State.mctpPacket s p) := by
  unfold State.mctpPacket
  repeat' (first | with_reducible assumption | with_reducible apply State.dropAsm_kept | with_reducible apply State.mctpErr_kept | with_reducible apply State.mctpWhole_kept | with_reducible apply State.setMgr_kept | (extract_lets +onlyGivenNames t; (have ht : Kept Q t := (by unfold t; repeat' (first | with_reducible assumption | with_reducible apply State.dropAsm_kept | with_reducible apply State.mctpErr_kept | split))); clear_value t) | (extract_lets +onlyGivenNames t; clear_value t) | split)

theorem State.logSeen_kept {Q : List Instr} {s : State} {off : Nat} (h_s : Kept Q s) :
  Kept Q (State.logSeen s off) := by
  unfold State.logSeen
  repeat' (first | with_reducible assumption | (simp only [kept_mk]; with_reducible apply kept_fold) | (extract_lets +onlyGivenNames t; clear_value t) | split)

theorem State.portRead_kept {Q : List Instr} {s : State} {off : Nat} (h_s : Kept Q s) :
  Kept Q (State.portRead s off) := by
  unfold State.portRead
  repeat' (first | with_reducible assumption | with_reducible apply State.answer_kept | with_reducible apply State.logSeen_kept | split)

theorem State.portWrite_kept {Q : List Instr} {s : State} {off : Nat} {v : Word} (h_s : Kept Q s) :
  Kept Q (State.portWrite s off v) := by
  unfold State.portWrite
  repeat' (first | with_reducible assumption | with_reducible apply State.answer_kept | (extract_lets +onlyGivenNames t; (have ht : Kept Q t := (by unfold t; repeat' (first | with_reducible assumption | with_reducible apply State.bump_kept | with_reducible apply State.feOrderWarm_kept | with_reducible apply State.regWrite_kept | split))); clear_value t) | split)

theorem State.portLedRead_kept {Q : List Instr} {s : State} {e : Nat} (h_s : Kept Q s) :
  Kept Q (State.portLedRead s e) := by
  unfold State.portLedRead
  repeat' (first | with_reducible assumption | with_reducible apply State.answer_kept | split)

theorem State.mgmtMoved_kept {Q : List Instr} {t s : State} (h_t : Kept Q t) (h_s : Kept Q s) :
  Kept Q (State.mgmtMoved t s) := by
  unfold State.mgmtMoved
  repeat' (first | with_reducible assumption | with_reducible apply State.setRfld_kept)

theorem State.portLedWrite_kept {Q : List Instr} {s : State} {e : Nat} {v sig : List Byte} (h_s : Kept Q s) :
  Kept Q (State.portLedWrite s e v sig) := by
  unfold State.portLedWrite
  repeat' (first | with_reducible assumption | with_reducible apply State.answer_kept | with_reducible apply State.ledWrite_kept' | with_reducible apply State.mgmtMoved_kept | split)

theorem State.blogRead_kept {Q : List Instr} {s : State} {first count : Nat} (h_s : Kept Q s) :
  Kept Q (State.blogRead s first count) := by
  unfold State.blogRead
  repeat' (first | with_reducible assumption | with_reducible apply State.answer_kept | (simp only [kept_mk]; with_reducible apply kept_fold) | (extract_lets +onlyGivenNames t; clear_value t) | split)

theorem State.showUpdate_kept {Q : List Instr} {s : State} (h_s : Kept Q s) :
  Kept Q (State.showUpdate s) := by
  unfold State.showUpdate
  repeat' (first | with_reducible assumption | with_reducible apply State.setRbit_kept)

theorem State.endUpdate_kept {Q : List Instr} {s : State} (h_s : Kept Q s) :
  Kept Q (State.endUpdate s) := by
  unfold State.endUpdate
  repeat' (first | with_reducible assumption | with_reducible apply State.setMgr_kept | with_reducible apply State.showUpdate_kept)

theorem State.requestUpdate_kept {Q : List Instr} {s : State} {maxXfer : Nat} (h_s : Kept Q s) :
  Kept Q (State.requestUpdate s maxXfer) := by
  unfold State.requestUpdate
  repeat' (first | with_reducible assumption | with_reducible apply State.answer_kept | with_reducible apply State.send_kept | (extract_lets +onlyGivenNames t; (have ht : Kept Q t := (by unfold t; repeat' (first | with_reducible assumption | with_reducible apply State.answer_kept | with_reducible apply State.setMgr_kept | with_reducible apply State.showUpdate_kept))); clear_value t) | (extract_lets +onlyGivenNames t; clear_value t) | split)

theorem State.updateData_kept {Q : List Instr} {s : State} {off : Nat} {last : Option FwImage} (h_s : Kept Q s) :
  Kept Q (State.updateData s off last) := by
  unfold State.updateData
  repeat' (first | with_reducible assumption | with_reducible apply State.send_kept | (extract_lets +onlyGivenNames t; (have ht : Kept Q t := (by unfold t; repeat' (first | with_reducible assumption | with_reducible apply State.setMgr_kept | with_reducible apply State.setSlot_kept))); clear_value t) | (extract_lets +onlyGivenNames t; clear_value t) | split)

theorem State.activateUpdate_kept {Q : List Instr} {s : State} (h_s : Kept Q s) :
  Kept Q (State.activateUpdate s) := by
  unfold State.activateUpdate
  repeat' (first | with_reducible assumption | with_reducible apply State.answer_kept | with_reducible apply State.fwHalt_kept | with_reducible refine State.ledWrite_kept (by assumption) ?_ | (simp only [kept_mk]; with_reducible apply kept_fold) | (extract_lets +onlyGivenNames t; (have ht : Kept Q t := (by unfold t; repeat' (first | with_reducible assumption | with_reducible apply State.answer_kept | with_reducible apply State.bump_kept | with_reducible apply State.endUpdate_kept | with_reducible refine State.ledWrite_kept (by assumption) ?_))); clear_value t) | (extract_lets +onlyGivenNames t; clear_value t) | split)

end Sys2Proof.Machine
end

