-- ==== Sys2Proof/Laws/KeptManager.lean ====
section
/-! SUPPORT. What Machine/Manager.lean keeps: the queue, and the canonical form of memory and of the register file. -/

set_option linter.unreachableTactic false
set_option linter.unusedTactic false
set_option linter.unusedVariables false
set_option linter.unusedSimpArgs false

namespace Sys2Proof.Machine

theorem execMctpPacket_kept {Q : List Instr} {p : MctpPacket} {s : State} (h_s : Kept Q s) :
  Keeps Q (execMctpPacket p s) := by
  unfold execMctpPacket
  repeat' (first | with_reducible assumption | with_reducible apply State.mctpPacket_kept | with_reducible apply State.port_kept | with_reducible refine fun _ => ?_)

theorem execMctpReassemblyTimeout_kept {Q : List Instr} {tag : Nat} {s : State} (h_s : Kept Q s) :
  Keeps Q (execMctpReassemblyTimeout tag s) := by
  unfold execMctpReassemblyTimeout
  repeat' (first | with_reducible assumption | with_reducible apply State.dropAsm_kept | with_reducible apply State.mctpErr_kept | with_reducible apply State.port_kept | with_reducible refine fun _ => ?_ | split)

theorem execRegRead_kept {Q : List Instr} {off : Nat} {s : State} (h_s : Kept Q s) :
  Keeps Q (execRegRead off s) := by
  unfold execRegRead
  repeat' (first | with_reducible assumption | with_reducible apply State.port_kept | with_reducible apply State.portRead_kept | with_reducible refine fun _ => ?_)

theorem execRegWrite_kept {Q : List Instr} {off : Nat} {v : Word} {s : State} (h_s : Kept Q s) :
  Keeps Q (execRegWrite off v s) := by
  unfold execRegWrite
  repeat' (first | with_reducible assumption | with_reducible apply State.port_kept | with_reducible apply State.portWrite_kept | with_reducible refine fun _ => ?_)

theorem execMgmtLedgerRead_kept {Q : List Instr} {entry : Nat} {s : State} (h_s : Kept Q s) :
  Keeps Q (execMgmtLedgerRead entry s) := by
  unfold execMgmtLedgerRead
  repeat' (first | with_reducible assumption | with_reducible apply State.port_kept | with_reducible apply State.portLedRead_kept | with_reducible refine fun _ => ?_)

theorem execMgmtLedgerWrite_kept {Q : List Instr} {entry : Nat} {val sig : List Byte} {s : State} (h_s : Kept Q s) :
  Keeps Q (execMgmtLedgerWrite entry val sig s) := by
  unfold execMgmtLedgerWrite
  repeat' (first | with_reducible assumption | with_reducible apply State.port_kept | with_reducible apply State.portLedWrite_kept | with_reducible refine fun _ => ?_)

theorem execMgmtLogRead_kept {Q : List Instr} {nonce : List Byte} {s : State} (h_s : Kept Q s) :
  Keeps Q (execMgmtLogRead nonce s) := by
  unfold execMgmtLogRead
  repeat' (first | with_reducible assumption | with_reducible apply State.answer_kept | with_reducible apply State.port_kept | with_reducible refine fun _ => ?_)

theorem execBlogRead_kept {Q : List Instr} {first count : Nat} {s : State} (h_s : Kept Q s) :
  Keeps Q (execBlogRead first count s) := by
  unfold execBlogRead
  repeat' (first | with_reducible assumption | with_reducible apply State.blogRead_kept | with_reducible apply State.port_kept | with_reducible refine fun _ => ?_)

theorem execEntdaa_kept {Q : List Instr} {addr : Nat} {s : State} (h_s : Kept Q s) :
  Keeps Q (execEntdaa addr s) := by
  unfold execEntdaa
  repeat' (first | with_reducible assumption | with_reducible apply State.port_kept | with_reducible apply State.send_kept | with_reducible apply State.setRfld_kept | with_reducible refine fun _ => ?_ | split)

theorem execSetdasa_kept {Q : List Instr} {st addr : Nat} {s : State} (h_s : Kept Q s) :
  Keeps Q (execSetdasa st addr s) := by
  unfold execSetdasa
  repeat' (first | with_reducible assumption | with_reducible apply State.port_kept | with_reducible apply State.setRfld_kept | with_reducible refine fun _ => ?_ | split)

theorem execRstdaa_kept {Q : List Instr} {s : State} (h_s : Kept Q s) :
  Keeps Q (execRstdaa s) := by
  unfold execRstdaa
  repeat' (first | with_reducible assumption | with_reducible apply State.port_kept | with_reducible apply State.setRfld_kept | with_reducible refine fun _ => ?_)

theorem execEnec_kept {Q : List Instr} {s : State} (h_s : Kept Q s) :
  Keeps Q (execEnec s) := by
  unfold execEnec
  repeat' (first | with_reducible assumption | with_reducible apply State.port_kept | with_reducible apply State.setMgr_kept | with_reducible refine fun _ => ?_)

theorem execDisec_kept {Q : List Instr} {s : State} (h_s : Kept Q s) :
  Keeps Q (execDisec s) := by
  unfold execDisec
  repeat' (first | with_reducible assumption | with_reducible apply State.port_kept | with_reducible apply State.setMgr_kept | with_reducible refine fun _ => ?_)

theorem execGetpid_kept {Q : List Instr} {s : State} (h_s : Kept Q s) :
  Keeps Q (execGetpid s) := by
  unfold execGetpid
  repeat' (first | with_reducible assumption | with_reducible apply State.port_kept | with_reducible apply State.send_kept | with_reducible refine fun _ => ?_)

theorem execGetbcr_kept {Q : List Instr} {s : State} (h_s : Kept Q s) :
  Keeps Q (execGetbcr s) := by
  unfold execGetbcr
  repeat' (first | with_reducible assumption | with_reducible apply State.port_kept | with_reducible apply State.send_kept | with_reducible refine fun _ => ?_)

theorem execGetdcr_kept {Q : List Instr} {s : State} (h_s : Kept Q s) :
  Keeps Q (execGetdcr s) := by
  unfold execGetdcr
  repeat' (first | with_reducible assumption | with_reducible apply State.port_kept | with_reducible apply State.send_kept | with_reducible refine fun _ => ?_)

theorem execGetmwl_kept {Q : List Instr} {s : State} (h_s : Kept Q s) :
  Keeps Q (execGetmwl s) := by
  unfold execGetmwl
  repeat' (first | with_reducible assumption | with_reducible apply State.port_kept | with_reducible apply State.send_kept | with_reducible refine fun _ => ?_)

theorem execGetmrl_kept {Q : List Instr} {s : State} (h_s : Kept Q s) :
  Keeps Q (execGetmrl s) := by
  unfold execGetmrl
  repeat' (first | with_reducible assumption | with_reducible apply State.port_kept | with_reducible apply State.send_kept | with_reducible refine fun _ => ?_)

theorem execGetstatus_kept {Q : List Instr} {s : State} (h_s : Kept Q s) :
  Keeps Q (execGetstatus s) := by
  unfold execGetstatus
  repeat' (first | with_reducible assumption | with_reducible apply State.port_kept | with_reducible apply State.send_kept | with_reducible apply State.setMgr_kept | with_reducible refine fun _ => ?_)

theorem execSetEndpointId_kept {Q : List Instr} {eid : Nat} {s : State} (h_s : Kept Q s) :
  Keeps Q (execSetEndpointId eid s) := by
  unfold execSetEndpointId
  repeat' (first | with_reducible assumption | with_reducible apply State.answer_kept | with_reducible apply State.port_kept | with_reducible apply State.setRfld_kept | with_reducible refine fun _ => ?_ | split)

theorem execGetEndpointId_kept {Q : List Instr} {s : State} (h_s : Kept Q s) :
  Keeps Q (execGetEndpointId s) := by
  unfold execGetEndpointId
  repeat' (first | with_reducible assumption | with_reducible apply State.answer_kept | with_reducible apply State.port_kept | with_reducible refine fun _ => ?_)

theorem execGetEndpointUuid_kept {Q : List Instr} {s : State} (h_s : Kept Q s) :
  Keeps Q (execGetEndpointUuid s) := by
  unfold execGetEndpointUuid
  repeat' (first | with_reducible assumption | with_reducible apply State.answer_kept | with_reducible apply State.port_kept | with_reducible refine fun _ => ?_)

theorem execGetMctpVersionSupport_kept {Q : List Instr} {s : State} (h_s : Kept Q s) :
  Keeps Q (execGetMctpVersionSupport s) := by
  unfold execGetMctpVersionSupport
  repeat' (first | with_reducible assumption | with_reducible apply State.answer_kept | with_reducible apply State.port_kept | with_reducible refine fun _ => ?_)

theorem execGetMessageTypeSupport_kept {Q : List Instr} {s : State} (h_s : Kept Q s) :
  Keeps Q (execGetMessageTypeSupport s) := by
  unfold execGetMessageTypeSupport
  repeat' (first | with_reducible assumption | with_reducible apply State.answer_kept | with_reducible apply State.port_kept | with_reducible refine fun _ => ?_)

theorem execGetVendorMessageSupport_kept {Q : List Instr} {s : State} (h_s : Kept Q s) :
  Keeps Q (execGetVendorMessageSupport s) := by
  unfold execGetVendorMessageSupport
  repeat' (first | with_reducible assumption | with_reducible apply State.answer_kept | with_reducible apply State.port_kept | with_reducible refine fun _ => ?_)

theorem execGettid_kept {Q : List Instr} {s : State} (h_s : Kept Q s) :
  Keeps Q (execGettid s) := by
  unfold execGettid
  repeat' (first | with_reducible assumption | with_reducible apply State.answer_kept | with_reducible apply State.port_kept | with_reducible refine fun _ => ?_)

theorem execSettid_kept {Q : List Instr} {tid : Nat} {s : State} (h_s : Kept Q s) :
  Keeps Q (execSettid tid s) := by
  unfold execSettid
  repeat' (first | with_reducible assumption | with_reducible apply State.answer_kept | with_reducible apply State.port_kept | with_reducible apply State.setMgr_kept | with_reducible refine fun _ => ?_ | (extract_lets +onlyGivenNames t; clear_value t) | split)

theorem execGetpldmversion_kept {Q : List Instr} {ty : Nat} {s : State} (h_s : Kept Q s) :
  Keeps Q (execGetpldmversion ty s) := by
  unfold execGetpldmversion
  repeat' (first | with_reducible assumption | with_reducible apply State.answer_kept | with_reducible apply State.port_kept | with_reducible refine fun _ => ?_ | split)

theorem execGetpldmtypes_kept {Q : List Instr} {s : State} (h_s : Kept Q s) :
  Keeps Q (execGetpldmtypes s) := by
  unfold execGetpldmtypes
  repeat' (first | with_reducible assumption | with_reducible apply State.answer_kept | with_reducible apply State.port_kept | with_reducible refine fun _ => ?_)

theorem execGetpldmcommands_kept {Q : List Instr} {ty : Nat} {s : State} (h_s : Kept Q s) :
  Keeps Q (execGetpldmcommands ty s) := by
  unfold execGetpldmcommands
  repeat' (first | with_reducible assumption | with_reducible apply State.answer_kept | with_reducible apply State.port_kept | with_reducible refine fun _ => ?_ | split)

theorem execGetpdrrepositoryinfo_kept {Q : List Instr} {s : State} (h_s : Kept Q s) :
  Keeps Q (execGetpdrrepositoryinfo s) := by
  unfold execGetpdrrepositoryinfo
  repeat' (first | with_reducible assumption | with_reducible apply State.answer_kept | with_reducible apply State.port_kept | with_reducible refine fun _ => ?_)

theorem execGetpdr_kept {Q : List Instr} {n : Nat} {s : State} (h_s : Kept Q s) :
  Keeps Q (execGetpdr n s) := by
  unfold execGetpdr
  repeat' (first | with_reducible assumption | with_reducible apply State.answer_kept | with_reducible apply State.port_kept | with_reducible refine fun _ => ?_ | split)

theorem execGetsensorreading_kept {Q : List Instr} {id : Nat} {s : State} (h_s : Kept Q s) :
  Keeps Q (execGetsensorreading id s) := by
  unfold execGetsensorreading
  repeat' (first | with_reducible assumption | with_reducible apply State.answer_kept | with_reducible apply State.port_kept | with_reducible refine fun _ => ?_)

theorem execGetstatesensorreadings_kept {Q : List Instr} {id : Nat} {s : State} (h_s : Kept Q s) :
  Keeps Q (execGetstatesensorreadings id s) := by
  unfold execGetstatesensorreadings
  repeat' (first | with_reducible assumption | with_reducible apply State.answer_kept | with_reducible apply State.port_kept | with_reducible refine fun _ => ?_)

theorem execRequestupdate_kept {Q : List Instr} {maxXfer : Nat} {s : State} (h_s : Kept Q s) :
  Keeps Q (execRequestupdate maxXfer s) := by
  unfold execRequestupdate
  repeat' (first | with_reducible assumption | with_reducible apply State.port_kept | with_reducible apply State.requestUpdate_kept | with_reducible refine fun _ => ?_)

theorem execRequestfirmwaredata_kept {Q : List Instr} {off : Nat} {last : Option FwImage} {s : State} (h_s : Kept Q s) :
  Keeps Q (execRequestfirmwaredata off last s) := by
  unfold execRequestfirmwaredata
  repeat' (first | with_reducible assumption | with_reducible apply State.port_kept | with_reducible apply State.updateData_kept | with_reducible refine fun _ => ?_)

theorem execActivatefirmware_kept {Q : List Instr} {s : State} (h_s : Kept Q s) :
  Keeps Q (execActivatefirmware s) := by
  unfold execActivatefirmware
  repeat' (first | with_reducible assumption | with_reducible apply State.activateUpdate_kept | with_reducible apply State.port_kept)

theorem execCancelupdate_kept {Q : List Instr} {s : State} (h_s : Kept Q s) :
  Keeps Q (execCancelupdate s) := by
  unfold execCancelupdate
  repeat' (first | with_reducible assumption | with_reducible apply State.answer_kept | with_reducible apply State.endUpdate_kept | with_reducible apply State.port_kept | with_reducible refine fun _ => ?_)

theorem execUpdateDataTimeout_kept {Q : List Instr} {s : State} (h_s : Kept Q s) :
  Keeps Q (execUpdateDataTimeout s) := by
  unfold execUpdateDataTimeout
  repeat' (first | with_reducible assumption | with_reducible apply State.endUpdate_kept | with_reducible apply State.port_kept)

theorem execGetVersion_kept {Q : List Instr} {s : State} (h_s : Kept Q s) :
  Keeps Q (execGetVersion s) := by
  unfold execGetVersion
  repeat' (first | with_reducible assumption | with_reducible apply State.answer_kept | with_reducible apply State.port_kept | with_reducible refine fun _ => ?_)

theorem execGetCapabilities_kept {Q : List Instr} {s : State} (h_s : Kept Q s) :
  Keeps Q (execGetCapabilities s) := by
  unfold execGetCapabilities
  repeat' (first | with_reducible assumption | with_reducible apply State.answer_kept | with_reducible apply State.port_kept | with_reducible refine fun _ => ?_)

theorem execNegotiateAlgorithms_kept {Q : List Instr} {s : State} (h_s : Kept Q s) :
  Keeps Q (execNegotiateAlgorithms s) := by
  unfold execNegotiateAlgorithms
  repeat' (first | with_reducible assumption | with_reducible apply State.answer_kept | with_reducible apply State.port_kept | with_reducible refine fun _ => ?_)

theorem execGetDigests_kept {Q : List Instr} {s : State} (h_s : Kept Q s) :
  Keeps Q (execGetDigests s) := by
  unfold execGetDigests
  repeat' (first | with_reducible assumption | with_reducible apply State.answer_kept | with_reducible apply State.draw_kept' | with_reducible apply State.port_kept | with_reducible refine fun _ => ?_ | split)

theorem execGetCertificate_kept {Q : List Instr} {copy1Ok : Bool} {s : State} (h_s : Kept Q s) :
  Keeps Q (execGetCertificate copy1Ok s) := by
  unfold execGetCertificate
  repeat' (first | with_reducible assumption | with_reducible apply State.answer_kept | with_reducible apply State.port_kept | with_reducible refine fun _ => ?_ | split)

theorem execGetMeasurements_kept {Q : List Instr} {nonce : List Byte} {s : State} (h_s : Kept Q s) :
  Keeps Q (execGetMeasurements nonce s) := by
  unfold execGetMeasurements
  repeat' (first | with_reducible assumption | with_reducible apply State.answer_kept | with_reducible apply State.bump_kept | with_reducible apply State.port_kept | with_reducible refine fun _ => ?_)

theorem execFeOrderWarm_kept {Q : List Instr} {s : State} (h_s : Kept Q s) :
  Keeps Q (execFeOrderWarm s) := by
  unfold execFeOrderWarm
  repeat' (first | with_reducible assumption | with_reducible apply State.feOrderWarm_kept | with_reducible apply State.port_kept)

theorem execFeAlertClear_kept {Q : List Instr} {v : Word} {s : State} (h_s : Kept Q s) :
  Keeps Q (execFeAlertClear v s) := by
  unfold execFeAlertClear
  repeat' (first | with_reducible assumption | with_reducible apply State.alertMove_kept | with_reducible apply State.swReg_kept | with_reducible apply kept_next | with_reducible refine fun _ => ?_)

theorem execFeAlertenWrite_kept {Q : List Instr} {v : Word} {s : State} (h_s : Kept Q s) :
  Keeps Q (execFeAlertenWrite v s) := by
  unfold execFeAlertenWrite
  repeat' (first | with_reducible assumption | with_reducible apply State.alertMove_kept | with_reducible apply State.swReg_kept | with_reducible apply kept_next | with_reducible refine fun _ => ?_)

end Sys2Proof.Machine
end

