-- ==== Sys2Proof/Laws/KeptMaskOps.lean ====
section
/-! SUPPORT. What Machine/MaskOps.lean keeps: the queue, and the canonical form of memory and of the register file. -/

set_option linter.unreachableTactic false
set_option linter.unusedTactic false
set_option linter.unusedVariables false
set_option linter.unusedSimpArgs false

namespace Sys2Proof.Machine

theorem State.maskEff_kept {Q : List Instr} {k : MForm} {h : Hart} {f : FormT} {g : Word → Word → Word} {s : State} (h_s : Kept Q s) :
  Kept Q (State.maskEff k h f g s) := by
  unfold State.maskEff
  repeat' (first | with_reducible assumption | with_reducible apply State.modCtx_kept)

theorem State.maskOp_kept {Q : List Instr} {s : State} {op : Nat} {k : MForm} {h : Hart} {f : FormT} {g : Word → Word → Word} (h_s : Kept Q s) :
  Keeps Q (State.maskOp s op k h f g) := by
  unfold State.maskOp
  repeat' (first | with_reducible assumption | with_reducible apply State.issue_kept | with_reducible apply State.maskEff_kept | with_reducible apply kept_next)

theorem execMAnd_kept {Q : List Instr} {h : Hart} {f : FormT} {s : State} (h_s : Kept Q s) :
  Keeps Q (execMAnd h f s) := by
  unfold execMAnd
  repeat' (first | with_reducible assumption | with_reducible apply State.maskOp_kept)

theorem execMOr_kept {Q : List Instr} {h : Hart} {f : FormT} {s : State} (h_s : Kept Q s) :
  Keeps Q (execMOr h f s) := by
  unfold execMOr
  repeat' (first | with_reducible assumption | with_reducible apply State.maskOp_kept)

theorem execMXor_kept {Q : List Instr} {h : Hart} {f : FormT} {s : State} (h_s : Kept Q s) :
  Keeps Q (execMXor h f s) := by
  unfold execMXor
  repeat' (first | with_reducible assumption | with_reducible apply State.maskOp_kept)

theorem execMAndn_kept {Q : List Instr} {h : Hart} {f : FormT} {s : State} (h_s : Kept Q s) :
  Keeps Q (execMAndn h f s) := by
  unfold execMAndn
  repeat' (first | with_reducible assumption | with_reducible apply State.maskOp_kept)

theorem execMNot_kept {Q : List Instr} {h : Hart} {f : FormT} {s : State} (h_s : Kept Q s) :
  Keeps Q (execMNot h f s) := by
  unfold execMNot
  repeat' (first | with_reducible assumption | with_reducible apply State.maskOp_kept)

theorem execMFroma_kept {Q : List Instr} {h : Hart} {f : FormT} {s : State} (h_s : Kept Q s) :
  Keeps Q (execMFroma h f s) := by
  unfold execMFroma
  repeat' (first | with_reducible assumption | with_reducible apply State.maskOp_kept)

theorem execMToa_kept {Q : List Instr} {h : Hart} {f : FormT} {s : State} (h_s : Kept Q s) :
  Keeps Q (execMToa h f s) := by
  unfold execMToa
  repeat' (first | with_reducible assumption | with_reducible apply State.maskOp_kept)

theorem execMPopc_kept {Q : List Instr} {h : Hart} {f : FormT} {s : State} (h_s : Kept Q s) :
  Keeps Q (execMPopc h f s) := by
  unfold execMPopc
  repeat' (first | with_reducible assumption | with_reducible apply State.maskOp_kept)

theorem execMFirst_kept {Q : List Instr} {h : Hart} {f : FormT} {s : State} (h_s : Kept Q s) :
  Keeps Q (execMFirst h f s) := by
  unfold execMFirst
  repeat' (first | with_reducible assumption | with_reducible apply State.maskOp_kept)

end Sys2Proof.Machine
end

