-- ==== Sys2Proof/Laws/KeptPins.lean ====
section
/-! SUPPORT. What Machine/Pins.lean keeps: the queue, and the canonical form of memory and of the register file. -/

set_option linter.unreachableTactic false
set_option linter.unusedTactic false
set_option linter.unusedVariables false
set_option linter.unusedSimpArgs false

namespace Sys2Proof.Machine

theorem State.resetOn_kept {Q : List Instr} {s : State} (h_s : Kept Q s) :
  Kept Q (State.resetOn s) := by
  unfold State.resetOn
  repeat' (first | with_reducible assumption | with_reducible apply State.enterL4_kept | with_reducible apply State.powerShow_kept | with_reducible apply State.queueDoms_kept | (extract_lets +onlyGivenNames t; (have ht : Kept Q t := (by unfold t; repeat' (first | with_reducible assumption | with_reducible apply State.modPower_kept | with_reducible apply State.setRbit_kept))); clear_value t) | split)

theorem State.resetOff_kept {Q : List Instr} {s : State} (h_s : Kept Q s) :
  Kept Q (State.resetOff s) := by
  unfold State.resetOff
  repeat' (first | with_reducible assumption | with_reducible apply State.powerShow_kept | with_reducible apply State.warmReset_kept | (extract_lets +onlyGivenNames t; (have ht : Kept Q t := (by unfold t; repeat' (first | with_reducible assumption | with_reducible apply State.setRbit_kept))); clear_value t) | split)

theorem State.resetLevel_kept {Q : List Instr} {s : State} {asserted : Bool} (h_s : Kept Q s) :
  Kept Q (State.resetLevel s asserted) := by
  unfold State.resetLevel
  repeat' (first | with_reducible assumption | with_reducible apply State.resetOff_kept | with_reducible apply State.resetOn_kept | split)

theorem State.throtLevel_kept {Q : List Instr} {s : State} {asserted : Bool} (h_s : Kept Q s) :
  Kept Q (State.throtLevel s asserted) := by
  unfold State.throtLevel
  repeat' (first | with_reducible assumption | with_reducible apply State.govStart_kept | with_reducible apply State.setDx_kept | with_reducible apply State.setRbit_kept)

theorem State.pinLevel_kept {Q : List Instr} {s : State} {p : SidePin} {asserted : Bool} (h_s : Kept Q s) :
  Kept Q (State.pinLevel s p asserted) := by
  unfold State.pinLevel
  repeat' (first | with_reducible assumption | with_reducible apply State.resetLevel_kept | with_reducible apply State.throtLevel_kept | with_reducible apply State.twinHb_kept | split)

theorem State.pinChange_kept {Q : List Instr} {s : State} {p : SidePin} {asserted : Bool} (h_s : Kept Q s) :
  Kept Q (State.pinChange s p asserted) := by
  unfold State.pinChange
  repeat' (first | with_reducible assumption | with_reducible apply State.pinLevel_kept | split)

theorem execResetNAssert_kept {Q : List Instr} {s : State} (h_s : Kept Q s) :
  Keeps Q (execResetNAssert s) := by
  unfold execResetNAssert
  repeat' (first | with_reducible assumption | with_reducible apply State.pinChange_kept | with_reducible apply kept_next)

theorem execResetNRelease_kept {Q : List Instr} {s : State} (h_s : Kept Q s) :
  Keeps Q (execResetNRelease s) := by
  unfold execResetNRelease
  repeat' (first | with_reducible assumption | with_reducible apply State.pinChange_kept | with_reducible apply kept_next)

theorem execThrotNChange_kept {Q : List Instr} {asserted : Bool} {s : State} (h_s : Kept Q s) :
  Keeps Q (execThrotNChange asserted s) := by
  unfold execThrotNChange
  repeat' (first | with_reducible assumption | with_reducible apply State.pinChange_kept | with_reducible apply kept_next)

theorem execTwinHbChange_kept {Q : List Instr} {asserted : Bool} {s : State} (h_s : Kept Q s) :
  Keeps Q (execTwinHbChange asserted s) := by
  unfold execTwinHbChange
  repeat' (first | with_reducible assumption | with_reducible apply State.pinChange_kept | with_reducible apply kept_next)

theorem execChatterDeclare_kept {Q : List Instr} {p : SidePin} {s : State} (h_s : Kept Q s) :
  Keeps Q (execChatterDeclare p s) := by
  unfold execChatterDeclare
  repeat' (first | with_reducible assumption | with_reducible apply State.bump_kept | with_reducible apply State.pinLevel_kept | with_reducible apply State.setRbit_kept | with_reducible apply kept_next | split)

theorem execChatterClear_kept {Q : List Instr} {p : SidePin} {asserted : Bool} {s : State} (h_s : Kept Q s) :
  Keeps Q (execChatterClear p asserted s) := by
  unfold execChatterClear
  repeat' (first | with_reducible assumption | with_reducible apply State.pinLevel_kept | with_reducible apply State.setRbit_kept | with_reducible apply kept_next | split)

end Sys2Proof.Machine
end

