-- ==== Sys2Proof/Laws/KeptQuillEvents.lean ====
section
/-! SUPPORT. What Machine/QuillEvents.lean keeps: the queue, and the canonical form of memory and of the register file. -/

set_option linter.unreachableTactic false
set_option linter.unusedTactic false
set_option linter.unusedVariables false
set_option linter.unusedSimpArgs false

namespace Sys2Proof.Machine

theorem execQlOpComplete_kept {Q : List Instr} {c : Nat} {r : QuillEnd} {s : State} (h_s : Kept Q s) :
  Keeps Q (execQlOpComplete c r s) := by
  unfold execQlOpComplete
  repeat' (first | with_reducible assumption | with_reducible apply State.qlComplete_kept | with_reducible apply kept_next)

end Sys2Proof.Machine
end

