-- ==== Sys2Proof/Laws/KeptQuillIssue.lean ====
section
/-! SUPPORT. What Machine/QuillIssue.lean keeps: the queue, and the canonical form of memory and of the register file. -/

set_option linter.unreachableTactic false
set_option linter.unusedTactic false
set_option linter.unusedVariables false
set_option linter.unusedSimpArgs false

namespace Sys2Proof.Machine

theorem State.qlGo_kept {Q : List Instr} {s : State} {h : Hart} {group op : Nat} {f : FormT} {legal : Bool} {ok : Word → Word → Bool} {kind : Word → Word → Word → QlKind} (h_s : Kept Q s) :
  Kept Q (State.qlGo s h group op f legal ok kind) := by
  unfold State.qlGo
  repeat' (first | with_reducible assumption | with_reducible apply State.checked_kept | with_reducible apply State.issue_kept | with_reducible apply State.qlIssue_kept | with_reducible refine fun _ => ?_)

theorem execQlLdw_kept {Q : List Instr} {h : Hart} {f : FormT} {s : State} (h_s : Kept Q s) :
  Keeps Q (execQlLdw h f s) := by
  unfold execQlLdw
  repeat' (first | with_reducible assumption | with_reducible apply State.qlGo_kept | with_reducible apply kept_next)

theorem execQlMma_kept {Q : List Instr} {h : Hart} {f : FormT} {s : State} (h_s : Kept Q s) :
  Keeps Q (execQlMma h f s) := by
  unfold execQlMma
  repeat' (first | with_reducible assumption | with_reducible apply State.qlGo_kept | with_reducible apply kept_next)

theorem execQlWb_kept {Q : List Instr} {h : Hart} {f : FormT} {s : State} (h_s : Kept Q s) :
  Keeps Q (execQlWb h f s) := by
  unfold execQlWb
  repeat' (first | with_reducible assumption | with_reducible apply State.qlGo_kept | with_reducible apply kept_next)

theorem execQlSave_kept {Q : List Instr} {h : Hart} {f : FormT} {s : State} (h_s : Kept Q s) :
  Keeps Q (execQlSave h f s) := by
  unfold execQlSave
  repeat' (first | with_reducible assumption | with_reducible apply State.qlGo_kept | with_reducible apply kept_next)

theorem execQlRestore_kept {Q : List Instr} {h : Hart} {f : FormT} {s : State} (h_s : Kept Q s) :
  Keeps Q (execQlRestore h f s) := by
  unfold execQlRestore
  repeat' (first | with_reducible assumption | with_reducible apply State.qlGo_kept | with_reducible apply kept_next)

theorem execQlAccadd_kept {Q : List Instr} {h : Hart} {f : FormT} {s : State} (h_s : Kept Q s) :
  Keeps Q (execQlAccadd h f s) := by
  unfold execQlAccadd
  repeat' (first | with_reducible assumption | with_reducible apply State.qlGo_kept | with_reducible apply kept_next)

theorem execQlFill_kept {Q : List Instr} {h : Hart} {f : FormT} {s : State} (h_s : Kept Q s) :
  Keeps Q (execQlFill h f s) := by
  unfold execQlFill
  repeat' (first | with_reducible assumption | with_reducible apply State.qlGo_kept | with_reducible apply kept_next)

theorem execQlSwap_kept {Q : List Instr} {h : Hart} {f : FormT} {s : State} (h_s : Kept Q s) :
  Keeps Q (execQlSwap h f s) := by
  unfold execQlSwap
  repeat' (first | with_reducible assumption | with_reducible apply State.qlGo_kept | with_reducible apply kept_next)

theorem execQlSig_kept {Q : List Instr} {h : Hart} {f : FormK} {s : State} (h_s : Kept Q s) :
  Keeps Q (execQlSig h f s) := by
  unfold execQlSig
  repeat' (first | with_reducible assumption | with_reducible apply State.issue_kept | with_reducible apply State.qlIssue_kept | with_reducible apply State.withMark_kept | with_reducible apply kept_next | with_reducible refine fun _ => ?_)

theorem execQlSeed_kept {Q : List Instr} {h : Hart} {f : FormK} {s : State} (h_s : Kept Q s) :
  Keeps Q (execQlSeed h f s) := by
  unfold execQlSeed
  repeat' (first | with_reducible assumption | with_reducible apply State.issue_kept | with_reducible apply State.qlIssue_kept | with_reducible apply kept_next | with_reducible refine fun _ => ?_)

theorem execQlRdfl_kept {Q : List Instr} {h : Hart} {f : FormK} {s : State} (h_s : Kept Q s) :
  Keeps Q (execQlRdfl h f s) := by
  unfold execQlRdfl
  repeat' (first | with_reducible assumption | with_reducible apply State.issue_kept | with_reducible apply State.qlReadFlags_kept | with_reducible apply kept_next | with_reducible refine fun _ => ?_)

end Sys2Proof.Machine
end

