-- ==== Sys2Proof/Laws/KeptRegHost.lean ====
section
/-! SUPPORT. What Machine/RegHost.lean keeps: the queue, and the canonical form of memory and of the register file. -/

set_option linter.unreachableTactic false
set_option linter.unusedTactic false
set_option linter.unusedVariables false
set_option linter.unusedSimpArgs false

namespace Sys2Proof.Machine

theorem execRgRd_kept {Q : List Instr} {tag line off : Nat} {wide : Bool} {s : State} (h_s : Kept Q s) :
  Keeps Q (execRgRd tag line off wide s) := by
  unfold execRgRd
  repeat' (first | with_reducible assumption | with_reducible apply State.hostErr_kept | with_reducible apply State.send_kept | with_reducible apply kept_next | split)

theorem execRgWr_kept {Q : List Instr} {tag _line _off : Nat} {_wide : Bool} {_v : Word} {s : State} (h_s : Kept Q s) :
  Keeps Q (execRgWr tag _line _off _wide _v s) := by
  unfold execRgWr
  repeat' (first | with_reducible assumption | with_reducible apply State.hostErr_kept | with_reducible apply kept_next | split)

end Sys2Proof.Machine
end

