-- ==== Sys2Proof/Laws/KeptRegWrite.lean ====
section
/-! SUPPORT. What Machine/RegWrite.lean keeps: the queue, and the canonical form of memory and of the register file. -/

set_option linter.unreachableTactic false
set_option linter.unusedTactic false
set_option linter.unusedVariables false
set_option linter.unusedSimpArgs false

namespace Sys2Proof.Machine

theorem execRegisterWrite_kept {Q : List Instr} {off size : Nat} {v : Word} {s : State} (h_s : Kept Q s) :
  Keeps Q (execRegisterWrite off size v s) := by
  unfold execRegisterWrite
  repeat' (first | with_reducible assumption | with_reducible apply State.regWrite_kept | with_reducible apply kept_next)

end Sys2Proof.Machine
end

