-- ==== Sys2Proof/Laws/KeptScalarFloat.lean ====
section
/-! SUPPORT. What Machine/ScalarFloat.lean keeps: the queue, and the canonical form of memory and of the register file. -/

set_option linter.unreachableTactic false
set_option linter.unusedTactic false
set_option linter.unusedVariables false
set_option linter.unusedSimpArgs false

namespace Sys2Proof.Machine

theorem State.fpEff_kept {Q : List Instr} {h : Hart} {f : FormT} {g : Fmt → Rnd → Word → Word → Word → Word × FFlags} {s : State} (h_s : Kept Q s) :
  Kept Q (State.fpEff h f g s) := by
  unfold State.fpEff
  repeat' (first | with_reducible assumption | with_reducible apply State.modCtx_kept)

theorem State.fpOp_kept {Q : List Instr} {s : State} {op : Nat} {two : Bool} {h : Hart} {f : FormT} {g : Fmt → Rnd → Word → Word → Word → Word × FFlags} (h_s : Kept Q s) :
  Keeps Q (State.fpOp s op two h f g) := by
  unfold State.fpOp
  repeat' (first | with_reducible assumption | with_reducible apply State.fpEff_kept | with_reducible apply State.issue_kept | with_reducible apply kept_next)

theorem execFadd_kept {Q : List Instr} {h : Hart} {f : FormT} {s : State} (h_s : Kept Q s) :
  Keeps Q (execFadd h f s) := by
  unfold execFadd
  repeat' (first | with_reducible assumption | with_reducible apply State.fpOp_kept)

theorem execFsub_kept {Q : List Instr} {h : Hart} {f : FormT} {s : State} (h_s : Kept Q s) :
  Keeps Q (execFsub h f s) := by
  unfold execFsub
  repeat' (first | with_reducible assumption | with_reducible apply State.fpOp_kept)

theorem execFmul_kept {Q : List Instr} {h : Hart} {f : FormT} {s : State} (h_s : Kept Q s) :
  Keeps Q (execFmul h f s) := by
  unfold execFmul
  repeat' (first | with_reducible assumption | with_reducible apply State.fpOp_kept)

theorem execFdiv_kept {Q : List Instr} {h : Hart} {f : FormT} {s : State} (h_s : Kept Q s) :
  Keeps Q (execFdiv h f s) := by
  unfold execFdiv
  repeat' (first | with_reducible assumption | with_reducible apply State.fpOp_kept)

theorem execFsqrt_kept {Q : List Instr} {h : Hart} {f : FormT} {s : State} (h_s : Kept Q s) :
  Keeps Q (execFsqrt h f s) := by
  unfold execFsqrt
  repeat' (first | with_reducible assumption | with_reducible apply State.fpOp_kept)

theorem execFma_kept {Q : List Instr} {h : Hart} {f : FormT} {s : State} (h_s : Kept Q s) :
  Keeps Q (execFma h f s) := by
  unfold execFma
  repeat' (first | with_reducible assumption | with_reducible apply State.fpOp_kept)

theorem execFmin_kept {Q : List Instr} {h : Hart} {f : FormT} {s : State} (h_s : Kept Q s) :
  Keeps Q (execFmin h f s) := by
  unfold execFmin
  repeat' (first | with_reducible assumption | with_reducible apply State.fpOp_kept)

theorem execFmax_kept {Q : List Instr} {h : Hart} {f : FormT} {s : State} (h_s : Kept Q s) :
  Keeps Q (execFmax h f s) := by
  unfold execFmax
  repeat' (first | with_reducible assumption | with_reducible apply State.fpOp_kept)

theorem execFeq_kept {Q : List Instr} {h : Hart} {f : FormT} {s : State} (h_s : Kept Q s) :
  Keeps Q (execFeq h f s) := by
  unfold execFeq
  repeat' (first | with_reducible assumption | with_reducible apply State.fpOp_kept)

theorem execFlt_kept {Q : List Instr} {h : Hart} {f : FormT} {s : State} (h_s : Kept Q s) :
  Keeps Q (execFlt h f s) := by
  unfold execFlt
  repeat' (first | with_reducible assumption | with_reducible apply State.fpOp_kept)

theorem execFle_kept {Q : List Instr} {h : Hart} {f : FormT} {s : State} (h_s : Kept Q s) :
  Keeps Q (execFle h f s) := by
  unfold execFle
  repeat' (first | with_reducible assumption | with_reducible apply State.fpOp_kept)

theorem execFcvtI_kept {Q : List Instr} {h : Hart} {f : FormT} {s : State} (h_s : Kept Q s) :
  Keeps Q (execFcvtI h f s) := by
  unfold execFcvtI
  repeat' (first | with_reducible assumption | with_reducible apply State.fpOp_kept)

theorem execFcvtF_kept {Q : List Instr} {h : Hart} {f : FormT} {s : State} (h_s : Kept Q s) :
  Keeps Q (execFcvtF h f s) := by
  unfold execFcvtF
  repeat' (first | with_reducible assumption | with_reducible apply State.fpOp_kept)

theorem execFcvtP_kept {Q : List Instr} {h : Hart} {f : FormT} {s : State} (h_s : Kept Q s) :
  Keeps Q (execFcvtP h f s) := by
  unfold execFcvtP
  repeat' (first | with_reducible assumption | with_reducible apply State.fpOp_kept)

theorem execFclass_kept {Q : List Instr} {h : Hart} {f : FormT} {s : State} (h_s : Kept Q s) :
  Keeps Q (execFclass h f s) := by
  unfold execFclass
  repeat' (first | with_reducible assumption | with_reducible apply State.fpOp_kept)

end Sys2Proof.Machine
end

