-- ==== Sys2Proof/Laws/KeptStippleEvents.lean ====
section
/-! SUPPORT. What Machine/StippleEvents.lean keeps: the queue, and the canonical form of memory and of the register file. -/

set_option linter.unreachableTactic false
set_option linter.unusedTactic false
set_option linter.unusedVariables false
set_option linter.unusedSimpArgs false

namespace Sys2Proof.Machine

theorem execSpRepairPass_kept {Q : List Instr} {r : RepairEnd} {s : State} (h_s : Kept Q s) :
  Keeps Q (execSpRepairPass r s) := by
  unfold execSpRepairPass
  repeat' (first | with_reducible assumption | with_reducible apply State.spRepair_kept | with_reducible apply kept_next)

theorem execSpOpComplete_kept {Q : List Instr} {c : Nat} {r : StippleEnd} {s : State} (h_s : Kept Q s) :
  Keeps Q (execSpOpComplete c r s) := by
  unfold execSpOpComplete
  repeat' (first | with_reducible assumption | with_reducible apply State.spComplete_kept | with_reducible apply kept_next)

end Sys2Proof.Machine
end

