-- ==== Sys2Proof/Laws/KeptStippleIssue.lean ====
section
/-! SUPPORT. What Machine/StippleIssue.lean keeps: the queue, and the canonical form of memory and of the register file. -/

set_option linter.unreachableTactic false
set_option linter.unusedTactic false
set_option linter.unusedVariables false
set_option linter.unusedSimpArgs false

namespace Sys2Proof.Machine

theorem State.spGo_kept {Q : List Instr} {s : State} {h : Hart} {op : Nat} {f : FormT} {legal : Bool} {as : List Nat} {ok : Word → Word → Word → Bool} {kind : Word → Word → Word → Word → SpKind} (h_s : Kept Q s) :
  Keeps Q (State.spGo s h op f legal as ok kind) := by
  unfold State.spGo
  repeat' (first | with_reducible assumption | with_reducible apply State.checked_kept | with_reducible apply State.issue_kept | with_reducible apply State.spIssue_kept | with_reducible apply kept_next | with_reducible refine fun _ => ?_)

theorem execSpLdb_kept {Q : List Instr} {h : Hart} {f : FormT} {s : State} (h_s : Kept Q s) :
  Keeps Q (execSpLdb h f s) := by
  unfold execSpLdb
  repeat' (first | with_reducible assumption | with_reducible apply State.spGo_kept)

theorem execSpMma_kept {Q : List Instr} {h : Hart} {f : FormT} {s : State} (h_s : Kept Q s) :
  Keeps Q (execSpMma h f s) := by
  unfold execSpMma
  repeat' (first | with_reducible assumption | with_reducible apply State.spGo_kept)

theorem execSpKadd_kept {Q : List Instr} {h : Hart} {f : FormT} {s : State} (h_s : Kept Q s) :
  Keeps Q (execSpKadd h f s) := by
  unfold execSpKadd
  repeat' (first | with_reducible assumption | with_reducible apply State.spGo_kept)

theorem execSpDrain_kept {Q : List Instr} {h : Hart} {f : FormT} {s : State} (h_s : Kept Q s) :
  Keeps Q (execSpDrain h f s) := by
  unfold execSpDrain
  repeat' (first | with_reducible assumption | with_reducible apply State.spGo_kept)

theorem execSpCmp_kept {Q : List Instr} {h : Hart} {f : FormT} {s : State} (h_s : Kept Q s) :
  Keeps Q (execSpCmp h f s) := by
  unfold execSpCmp
  repeat' (first | with_reducible assumption | with_reducible apply State.spGo_kept)

theorem execSpSig_kept {Q : List Instr} {h : Hart} {f : FormK} {s : State} (h_s : Kept Q s) :
  Keeps Q (execSpSig h f s) := by
  unfold execSpSig
  repeat' (first | with_reducible assumption | with_reducible apply State.issue_kept | with_reducible apply State.spIssue_kept | with_reducible apply State.withMark_kept | with_reducible apply kept_next | with_reducible refine fun _ => ?_)

theorem execSpSeed_kept {Q : List Instr} {h : Hart} {f : FormK} {s : State} (h_s : Kept Q s) :
  Keeps Q (execSpSeed h f s) := by
  unfold execSpSeed
  repeat' (first | with_reducible assumption | with_reducible apply State.issue_kept | with_reducible apply State.spIssue_kept | with_reducible apply kept_next | with_reducible refine fun _ => ?_)

theorem execSpRdfl_kept {Q : List Instr} {h : Hart} {f : FormK} {s : State} (h_s : Kept Q s) :
  Keeps Q (execSpRdfl h f s) := by
  unfold execSpRdfl
  repeat' (first | with_reducible assumption | with_reducible apply State.issue_kept | with_reducible apply State.spReadFlags_kept | with_reducible apply kept_next | with_reducible refine fun _ => ?_)

theorem execSpClr_kept {Q : List Instr} {h : Hart} {f : FormK} {s : State} (h_s : Kept Q s) :
  Keeps Q (execSpClr h f s) := by
  unfold execSpClr
  repeat' (first | with_reducible assumption | with_reducible apply State.issue_kept | with_reducible apply State.spIssue_kept | with_reducible apply kept_next | with_reducible refine fun _ => ?_)

end Sys2Proof.Machine
end

