-- ==== Sys2Proof/Laws/KeptTables.lean ====
section
/-! SUPPORT. What Machine/Tables.lean keeps: the queue, and the canonical form of memory and of the register file. -/

set_option linter.unreachableTactic false
set_option linter.unusedTactic false
set_option linter.unusedVariables false
set_option linter.unusedSimpArgs false

namespace Sys2Proof.Machine

theorem execTbUpdate_kept {Q : List Instr} {h : Hart} {f : FormD} {s : State} (h_s : Kept Q s) :
  Keeps Q (execTbUpdate h f s) := by
  unfold execTbUpdate
  repeat' (first | with_reducible assumption | with_reducible apply State.checked_kept | with_reducible apply State.issue_kept | with_reducible apply State.skEnter_kept | with_reducible apply State.tbStart_kept | with_reducible apply State.updateBegin_kept | with_reducible apply State.withSig_kept | with_reducible apply State.withSlot_kept | with_reducible apply kept_next | with_reducible refine fun _ => ?_)

theorem execTbBuild_kept {Q : List Instr} {h : Hart} {f : FormD} {s : State} (h_s : Kept Q s) :
  Keeps Q (execTbBuild h f s) := by
  unfold execTbBuild
  repeat' (first | with_reducible assumption | with_reducible apply State.buildBegin_kept | with_reducible apply State.issue_kept | with_reducible apply State.skEnter_kept | with_reducible apply State.tbStart_kept | with_reducible apply State.withSig_kept | with_reducible apply kept_next | with_reducible refine fun _ => ?_)

theorem execTbPublish_kept {Q : List Instr} {h : Hart} {f : FormD} {s : State} (h_s : Kept Q s) :
  Keeps Q (execTbPublish h f s) := by
  unfold execTbPublish
  repeat' (first | with_reducible assumption | with_reducible apply State.issue_kept | with_reducible apply State.publishBegin_kept | with_reducible apply State.skEnter_kept | with_reducible apply State.withSig_kept | with_reducible apply kept_next | with_reducible refine fun _ => ?_)

theorem execTbEdaddr_kept {Q : List Instr} {h : Hart} {f : FormD} {s : State} (h_s : Kept Q s) :
  Keeps Q (execTbEdaddr h f s) := by
  unfold execTbEdaddr
  repeat' (first | with_reducible assumption | with_reducible apply State.issue_kept | with_reducible apply State.modCtx_kept | with_reducible apply kept_next | with_reducible refine fun _ => ?_)

end Sys2Proof.Machine
end

