-- ==== Sys2Proof/Laws/KeptTwin.lean ====
section
/-! SUPPORT. What Machine/Twin.lean keeps: the queue, and the canonical form of memory and of the register file. -/

set_option linter.unreachableTactic false
set_option linter.unusedTactic false
set_option linter.unusedVariables false
set_option linter.unusedSimpArgs false

namespace Sys2Proof.Machine

theorem execLeaseHalfExpire_kept {Q : List Instr} {s : State} (h_s : Kept Q s) :
  Keeps Q (execLeaseHalfExpire s) := by
  unfold execLeaseHalfExpire
  repeat' (first | with_reducible assumption | with_reducible apply State.setRole_kept | with_reducible apply kept_next | split)

theorem execLeaseExpire_kept {Q : List Instr} {s : State} (h_s : Kept Q s) :
  Keeps Q (execLeaseExpire s) := by
  unfold execLeaseExpire
  repeat' (first | with_reducible assumption | with_reducible apply State.leaseLapse_kept | with_reducible apply kept_next | split)

theorem execTakeoverRestoreEnd_kept {Q : List Instr} {s : State} (h_s : Kept Q s) :
  Keeps Q (execTakeoverRestoreEnd s) := by
  unfold execTakeoverRestoreEnd
  repeat' (first | with_reducible assumption | with_reducible apply State.takeoverEnd_kept | with_reducible apply kept_next | split)

theorem execPairingTimeout_kept {Q : List Instr} {s : State} (h_s : Kept Q s) :
  Keeps Q (execPairingTimeout s) := by
  unfold execPairingTimeout
  repeat' (first | with_reducible assumption | with_reducible apply State.becomeSolo_kept | with_reducible apply kept_next | split)

theorem execResyncCopyEnd_kept {Q : List Instr} {s : State} (h_s : Kept Q s) :
  Keeps Q (execResyncCopyEnd s) := by
  unfold execResyncCopyEnd
  repeat' (first | with_reducible assumption | with_reducible apply State.requestFolio_kept | with_reducible apply State.setTwin_kept | with_reducible apply kept_next | (extract_lets +onlyGivenNames t; clear_value t) | split)

theorem execFolioIntervalExpire_kept {Q : List Instr} {s : State} (h_s : Kept Q s) :
  Keeps Q (execFolioIntervalExpire s) := by
  unfold execFolioIntervalExpire
  repeat' (first | with_reducible assumption | with_reducible apply State.requestFolio_kept | with_reducible apply kept_next | split)

theorem execFolioQuiesceEnd_kept {Q : List Instr} {s : State} (h_s : Kept Q s) :
  Keeps Q (execFolioQuiesceEnd s) := by
  unfold execFolioQuiesceEnd
  repeat' (first | with_reducible assumption | with_reducible apply State.quiesceEnd_kept | with_reducible apply kept_next | split)

theorem execFolioCaptureEnd_kept {Q : List Instr} {changed stopUs : Nat} {s : State} (h_s : Kept Q s) :
  Keeps Q (execFolioCaptureEnd changed stopUs s) := by
  unfold execFolioCaptureEnd
  repeat' (first | with_reducible assumption | with_reducible apply State.captureEnd_kept | with_reducible apply kept_next | split)

theorem execCbOrderFolio_kept {Q : List Instr} {s : State} (h_s : Kept Q s) :
  Keeps Q (execCbOrderFolio s) := by
  unfold execCbOrderFolio
  repeat' (first | with_reducible assumption | with_reducible apply State.orderWrite_kept | with_reducible apply kept_next | split)

theorem execCbOrderTakeover_kept {Q : List Instr} {s : State} (h_s : Kept Q s) :
  Keeps Q (execCbOrderTakeover s) := by
  unfold execCbOrderTakeover
  repeat' (first | with_reducible assumption | with_reducible apply State.orderWrite_kept | with_reducible apply kept_next | split)

theorem execCbOrderDepart_kept {Q : List Instr} {s : State} (h_s : Kept Q s) :
  Keeps Q (execCbOrderDepart s) := by
  unfold execCbOrderDepart
  repeat' (first | with_reducible assumption | with_reducible apply State.orderWrite_kept | with_reducible apply kept_next | split)

theorem execCbCfgWrite_kept {Q : List Instr} {v : Word} {s : State} (h_s : Kept Q s) :
  Keeps Q (execCbCfgWrite v s) := by
  unfold execCbCfgWrite
  repeat' (first | with_reducible assumption | with_reducible apply State.cbCfgWrite_kept | with_reducible apply kept_next | split)

theorem execCbFoliocfgWrite_kept {Q : List Instr} {v : Word} {s : State} (h_s : Kept Q s) :
  Keeps Q (execCbFoliocfgWrite v s) := by
  unfold execCbFoliocfgWrite
  repeat' (first | with_reducible assumption | with_reducible apply State.folioCfgWrite_kept | with_reducible apply kept_next | split)

end Sys2Proof.Machine
end

