-- ==== Sys2Proof/Laws/State.lean ====
section
/-! SUPPORT. Each named update changes one collection of the state and leaves every other: one law for each field and update, true by
unfolding, and the law of reading back what an update wrote. -/

namespace Sys2Proof.Machine

/-! ### What an update leaves -/

@[simp] theorem State.setReg_pending (s : State) (k : Nat) (v : Word) : (s.setReg k v).pending = s.pending := rfl
@[simp] theorem State.setReg_free (s : State) (k : Nat) (v : Word) : (s.setReg k v).free = s.free := rfl
@[simp] theorem State.setReg_time (s : State) (k : Nat) (v : Word) : (s.setReg k v).time = s.time := rfl
@[simp] theorem State.setReg_cycScribe (s : State) (k : Nat) (v : Word) : (s.setReg k v).cycScribe = s.cycScribe := rfl
@[simp] theorem State.setReg_cycCopyist (s : State) (k : Nat) (v : Word) : (s.setReg k v).cycCopyist = s.cycCopyist := rfl
@[simp] theorem State.setReg_mem (s : State) (k : Nat) (v : Word) : (s.setReg k v).mem = s.mem := rfl
@[simp] theorem State.setReg_poison (s : State) (k : Nat) (v : Word) : (s.setReg k v).poison = s.poison := rfl
@[simp] theorem State.setReg_tlb (s : State) (k : Nat) (v : Word) : (s.setReg k v).tlb = s.tlb := rfl
@[simp] theorem State.setReg_ctxs (s : State) (k : Nat) (v : Word) : (s.setReg k v).ctxs = s.ctxs := rfl
@[simp] theorem State.setReg_jobs (s : State) (k : Nat) (v : Word) : (s.setReg k v).jobs = s.jobs := rfl
@[simp] theorem State.setReg_marks (s : State) (k : Nat) (v : Word) : (s.setReg k v).marks = s.marks := rfl
@[simp] theorem State.setReg_clu (s : State) (k : Nat) (v : Word) : (s.setReg k v).clu = s.clu := rfl
@[simp] theorem State.setReg_dx (s : State) (k : Nat) (v : Word) : (s.setReg k v).dx = s.dx := rfl
@[simp] theorem State.setReg_sets (s : State) (k : Nat) (v : Word) : (s.setReg k v).sets = s.sets := rfl
@[simp] theorem State.setReg_caches (s : State) (k : Nat) (v : Word) : (s.setReg k v).caches = s.caches := rfl
@[simp] theorem State.setReg_tiers (s : State) (k : Nat) (v : Word) : (s.setReg k v).tiers = s.tiers := rfl
@[simp] theorem State.setReg_hreqs (s : State) (k : Nat) (v : Word) : (s.setReg k v).hreqs = s.hreqs := rfl
@[simp] theorem State.setReg_nbq (s : State) (k : Nat) (v : Word) : (s.setReg k v).nbq = s.nbq := rfl
@[simp] theorem State.setReg_parts (s : State) (k : Nat) (v : Word) : (s.setReg k v).parts = s.parts := rfl
@[simp] theorem State.setReg_lgq (s : State) (k : Nat) (v : Word) : (s.setReg k v).lgq = s.lgq := rfl
@[simp] theorem State.setReg_nbFailed (s : State) (k : Nat) (v : Word) : (s.setReg k v).nbFailed = s.nbFailed := rfl
@[simp] theorem State.setReg_hot (s : State) (k : Nat) (v : Word) : (s.setReg k v).hot = s.hot := rfl
@[simp] theorem State.setReg_tables (s : State) (k : Nat) (v : Word) : (s.setReg k v).tables = s.tables := rfl
@[simp] theorem State.setReg_undo (s : State) (k : Nat) (v : Word) : (s.setReg k v).undo = s.undo := rfl
@[simp] theorem State.setReg_pubq (s : State) (k : Nat) (v : Word) : (s.setReg k v).pubq = s.pubq := rfl
@[simp] theorem State.setReg_holds (s : State) (k : Nat) (v : Word) : (s.setReg k v).holds = s.holds := rfl
@[simp] theorem State.setReg_hdir (s : State) (k : Nat) (v : Word) : (s.setReg k v).hdir = s.hdir := rfl
@[simp] theorem State.setReg_snoops (s : State) (k : Nat) (v : Word) : (s.setReg k v).snoops = s.snoops := rfl
@[simp] theorem State.setReg_out (s : State) (k : Nat) (v : Word) : (s.setReg k v).out = s.out := rfl
@[simp] theorem State.setReg_rings (s : State) (k : Nat) (v : Word) : (s.setReg k v).rings = s.rings := rfl
@[simp] theorem State.setReg_folio (s : State) (k : Nat) (v : Word) : (s.setReg k v).folio = s.folio := rfl
@[simp] theorem State.setReg_sealedImg (s : State) (k : Nat) (v : Word) : (s.setReg k v).sealedImg = s.sealedImg := rfl
@[simp] theorem State.setReg_twin (s : State) (k : Nat) (v : Word) : (s.setReg k v).twin = s.twin := rfl
@[simp] theorem State.setReg_fw (s : State) (k : Nat) (v : Word) : (s.setReg k v).fw = s.fw := rfl
@[simp] theorem State.setReg_ledger (s : State) (k : Nat) (v : Word) : (s.setReg k v).ledger = s.ledger := rfl
@[simp] theorem State.setReg_ledlog (s : State) (k : Nat) (v : Word) : (s.setReg k v).ledlog = s.ledlog := rfl
@[simp] theorem State.setReg_lan (s : State) (k : Nat) (v : Word) : (s.setReg k v).lan = s.lan := rfl
@[simp] theorem State.setReg_swaps (s : State) (k : Nat) (v : Word) : (s.setReg k v).swaps = s.swaps := rfl
@[simp] theorem State.setReg_blot (s : State) (k : Nat) (v : Word) : (s.setReg k v).blot = s.blot := rfl
@[simp] theorem State.setReg_power (s : State) (k : Nat) (v : Word) : (s.setReg k v).power = s.power := rfl
@[simp] theorem State.setReg_mgr (s : State) (k : Nat) (v : Word) : (s.setReg k v).mgr = s.mgr := rfl
@[simp] theorem State.setReg_qps (s : State) (k : Nat) (v : Word) : (s.setReg k v).qps = s.qps := rfl
@[simp] theorem State.setReg_groups (s : State) (k : Nat) (v : Word) : (s.setReg k v).groups = s.groups := rfl
@[simp] theorem State.setReg_ingest (s : State) (k : Nat) (v : Word) : (s.setReg k v).ingest = s.ingest := rfl
@[simp] theorem State.setReg_reports (s : State) (k : Nat) (v : Word) : (s.setReg k v).reports = s.reports := rfl
@[simp] theorem State.setReg_events (s : State) (k : Nat) (v : Word) : (s.setReg k v).events = s.events := rfl

@[simp] theorem State.setRfld_pending (s : State) (k hi lo x : Nat) : (s.setRfld k hi lo x).pending = s.pending := rfl
@[simp] theorem State.setRfld_free (s : State) (k hi lo x : Nat) : (s.setRfld k hi lo x).free = s.free := rfl
@[simp] theorem State.setRfld_time (s : State) (k hi lo x : Nat) : (s.setRfld k hi lo x).time = s.time := rfl
@[simp] theorem State.setRfld_cycScribe (s : State) (k hi lo x : Nat) : (s.setRfld k hi lo x).cycScribe = s.cycScribe := rfl
@[simp] theorem State.setRfld_cycCopyist (s : State) (k hi lo x : Nat) : (s.setRfld k hi lo x).cycCopyist = s.cycCopyist := rfl
@[simp] theorem State.setRfld_mem (s : State) (k hi lo x : Nat) : (s.setRfld k hi lo x).mem = s.mem := rfl
@[simp] theorem State.setRfld_poison (s : State) (k hi lo x : Nat) : (s.setRfld k hi lo x).poison = s.poison := rfl
@[simp] theorem State.setRfld_tlb (s : State) (k hi lo x : Nat) : (s.setRfld k hi lo x).tlb = s.tlb := rfl
@[simp] theorem State.setRfld_ctxs (s : State) (k hi lo x : Nat) : (s.setRfld k hi lo x).ctxs = s.ctxs := rfl
@[simp] theorem State.setRfld_jobs (s : State) (k hi lo x : Nat) : (s.setRfld k hi lo x).jobs = s.jobs := rfl
@[simp] theorem State.setRfld_marks (s : State) (k hi lo x : Nat) : (s.setRfld k hi lo x).marks = s.marks := rfl
@[simp] theorem State.setRfld_clu (s : State) (k hi lo x : Nat) : (s.setRfld k hi lo x).clu = s.clu := rfl
@[simp] theorem State.setRfld_dx (s : State) (k hi lo x : Nat) : (s.setRfld k hi lo x).dx = s.dx := rfl
@[simp] theorem State.setRfld_sets (s : State) (k hi lo x : Nat) : (s.setRfld k hi lo x).sets = s.sets := rfl
@[simp] theorem State.setRfld_caches (s : State) (k hi lo x : Nat) : (s.setRfld k hi lo x).caches = s.caches := rfl
@[simp] theorem State.setRfld_tiers (s : State) (k hi lo x : Nat) : (s.setRfld k hi lo x).tiers = s.tiers := rfl
@[simp] theorem State.setRfld_hreqs (s : State) (k hi lo x : Nat) : (s.setRfld k hi lo x).hreqs = s.hreqs := rfl
@[simp] theorem State.setRfld_nbq (s : State) (k hi lo x : Nat) : (s.setRfld k hi lo x).nbq = s.nbq := rfl
@[simp] theorem State.setRfld_parts (s : State) (k hi lo x : Nat) : (s.setRfld k hi lo x).parts = s.parts := rfl
@[simp] theorem State.setRfld_lgq (s : State) (k hi lo x : Nat) : (s.setRfld k hi lo x).lgq = s.lgq := rfl
@[simp] theorem State.setRfld_nbFailed (s : State) (k hi lo x : Nat) : (s.setRfld k hi lo x).nbFailed = s.nbFailed := rfl
@[simp] theorem State.setRfld_hot (s : State) (k hi lo x : Nat) : (s.setRfld k hi lo x).hot = s.hot := rfl
@[simp] theorem State.setRfld_tables (s : State) (k hi lo x : Nat) : (s.setRfld k hi lo x).tables = s.tables := rfl
@[simp] theorem State.setRfld_undo (s : State) (k hi lo x : Nat) : (s.setRfld k hi lo x).undo = s.undo := rfl
@[simp] theorem State.setRfld_pubq (s : State) (k hi lo x : Nat) : (s.setRfld k hi lo x).pubq = s.pubq := rfl
@[simp] theorem State.setRfld_holds (s : State) (k hi lo x : Nat) : (s.setRfld k hi lo x).holds = s.holds := rfl
@[simp] theorem State.setRfld_hdir (s : State) (k hi lo x : Nat) : (s.setRfld k hi lo x).hdir = s.hdir := rfl
@[simp] theorem State.setRfld_snoops (s : State) (k hi lo x : Nat) : (s.setRfld k hi lo x).snoops = s.snoops := rfl
@[simp] theorem State.setRfld_out (s : State) (k hi lo x : Nat) : (s.setRfld k hi lo x).out = s.out := rfl
@[simp] theorem State.setRfld_rings (s : State) (k hi lo x : Nat) : (s.setRfld k hi lo x).rings = s.rings := rfl
@[simp] theorem State.setRfld_folio (s : State) (k hi lo x : Nat) : (s.setRfld k hi lo x).folio = s.folio := rfl
@[simp] theorem State.setRfld_sealedImg (s : State) (k hi lo x : Nat) : (s.setRfld k hi lo x).sealedImg = s.sealedImg := rfl
@[simp] theorem State.setRfld_twin (s : State) (k hi lo x : Nat) : (s.setRfld k hi lo x).twin = s.twin := rfl
@[simp] theorem State.setRfld_fw (s : State) (k hi lo x : Nat) : (s.setRfld k hi lo x).fw = s.fw := rfl
@[simp] theorem State.setRfld_ledger (s : State) (k hi lo x : Nat) : (s.setRfld k hi lo x).ledger = s.ledger := rfl
@[simp] theorem State.setRfld_ledlog (s : State) (k hi lo x : Nat) : (s.setRfld k hi lo x).ledlog = s.ledlog := rfl
@[simp] theorem State.setRfld_lan (s : State) (k hi lo x : Nat) : (s.setRfld k hi lo x).lan = s.lan := rfl
@[simp] theorem State.setRfld_swaps (s : State) (k hi lo x : Nat) : (s.setRfld k hi lo x).swaps = s.swaps := rfl
@[simp] theorem State.setRfld_blot (s : State) (k hi lo x : Nat) : (s.setRfld k hi lo x).blot = s.blot := rfl
@[simp] theorem State.setRfld_power (s : State) (k hi lo x : Nat) : (s.setRfld k hi lo x).power = s.power := rfl
@[simp] theorem State.setRfld_mgr (s : State) (k hi lo x : Nat) : (s.setRfld k hi lo x).mgr = s.mgr := rfl
@[simp] theorem State.setRfld_qps (s : State) (k hi lo x : Nat) : (s.setRfld k hi lo x).qps = s.qps := rfl
@[simp] theorem State.setRfld_groups (s : State) (k hi lo x : Nat) : (s.setRfld k hi lo x).groups = s.groups := rfl
@[simp] theorem State.setRfld_ingest (s : State) (k hi lo x : Nat) : (s.setRfld k hi lo x).ingest = s.ingest := rfl
@[simp] theorem State.setRfld_reports (s : State) (k hi lo x : Nat) : (s.setRfld k hi lo x).reports = s.reports := rfl
@[simp] theorem State.setRfld_events (s : State) (k hi lo x : Nat) : (s.setRfld k hi lo x).events = s.events := rfl

@[simp] theorem State.setRbit_pending (s : State) (k n : Nat) (b : Bool) : (s.setRbit k n b).pending = s.pending := rfl
@[simp] theorem State.setRbit_free (s : State) (k n : Nat) (b : Bool) : (s.setRbit k n b).free = s.free := rfl
@[simp] theorem State.setRbit_time (s : State) (k n : Nat) (b : Bool) : (s.setRbit k n b).time = s.time := rfl
@[simp] theorem State.setRbit_cycScribe (s : State) (k n : Nat) (b : Bool) : (s.setRbit k n b).cycScribe = s.cycScribe := rfl
@[simp] theorem State.setRbit_cycCopyist (s : State) (k n : Nat) (b : Bool) : (s.setRbit k n b).cycCopyist = s.cycCopyist := rfl
@[simp] theorem State.setRbit_mem (s : State) (k n : Nat) (b : Bool) : (s.setRbit k n b).mem = s.mem := rfl
@[simp] theorem State.setRbit_poison (s : State) (k n : Nat) (b : Bool) : (s.setRbit k n b).poison = s.poison := rfl
@[simp] theorem State.setRbit_tlb (s : State) (k n : Nat) (b : Bool) : (s.setRbit k n b).tlb = s.tlb := rfl
@[simp] theorem State.setRbit_ctxs (s : State) (k n : Nat) (b : Bool) : (s.setRbit k n b).ctxs = s.ctxs := rfl
@[simp] theorem State.setRbit_jobs (s : State) (k n : Nat) (b : Bool) : (s.setRbit k n b).jobs = s.jobs := rfl
@[simp] theorem State.setRbit_marks (s : State) (k n : Nat) (b : Bool) : (s.setRbit k n b).marks = s.marks := rfl
@[simp] theorem State.setRbit_clu (s : State) (k n : Nat) (b : Bool) : (s.setRbit k n b).clu = s.clu := rfl
@[simp] theorem State.setRbit_dx (s : State) (k n : Nat) (b : Bool) : (s.setRbit k n b).dx = s.dx := rfl
@[simp] theorem State.setRbit_sets (s : State) (k n : Nat) (b : Bool) : (s.setRbit k n b).sets = s.sets := rfl
@[simp] theorem State.setRbit_caches (s : State) (k n : Nat) (b : Bool) : (s.setRbit k n b).caches = s.caches := rfl
@[simp] theorem State.setRbit_tiers (s : State) (k n : Nat) (b : Bool) : (s.setRbit k n b).tiers = s.tiers := rfl
@[simp] theorem State.setRbit_hreqs (s : State) (k n : Nat) (b : Bool) : (s.setRbit k n b).hreqs = s.hreqs := rfl
@[simp] theorem State.setRbit_nbq (s : State) (k n : Nat) (b : Bool) : (s.setRbit k n b).nbq = s.nbq := rfl
@[simp] theorem State.setRbit_parts (s : State) (k n : Nat) (b : Bool) : (s.setRbit k n b).parts = s.parts := rfl
@[simp] theorem State.setRbit_lgq (s : State) (k n : Nat) (b : Bool) : (s.setRbit k n b).lgq = s.lgq := rfl
@[simp] theorem State.setRbit_nbFailed (s : State) (k n : Nat) (b : Bool) : (s.setRbit k n b).nbFailed = s.nbFailed := rfl
@[simp] theorem State.setRbit_hot (s : State) (k n : Nat) (b : Bool) : (s.setRbit k n b).hot = s.hot := rfl
@[simp] theorem State.setRbit_tables (s : State) (k n : Nat) (b : Bool) : (s.setRbit k n b).tables = s.tables := rfl
@[simp] theorem State.setRbit_undo (s : State) (k n : Nat) (b : Bool) : (s.setRbit k n b).undo = s.undo := rfl
@[simp] theorem State.setRbit_pubq (s : State) (k n : Nat) (b : Bool) : (s.setRbit k n b).pubq = s.pubq := rfl
@[simp] theorem State.setRbit_holds (s : State) (k n : Nat) (b : Bool) : (s.setRbit k n b).holds = s.holds := rfl
@[simp] theorem State.setRbit_hdir (s : State) (k n : Nat) (b : Bool) : (s.setRbit k n b).hdir = s.hdir := rfl
@[simp] theorem State.setRbit_snoops (s : State) (k n : Nat) (b : Bool) : (s.setRbit k n b).snoops = s.snoops := rfl
@[simp] theorem State.setRbit_out (s : State) (k n : Nat) (b : Bool) : (s.setRbit k n b).out = s.out := rfl
@[simp] theorem State.setRbit_rings (s : State) (k n : Nat) (b : Bool) : (s.setRbit k n b).rings = s.rings := rfl
@[simp] theorem State.setRbit_folio (s : State) (k n : Nat) (b : Bool) : (s.setRbit k n b).folio = s.folio := rfl
@[simp] theorem State.setRbit_sealedImg (s : State) (k n : Nat) (b : Bool) : (s.setRbit k n b).sealedImg = s.sealedImg := rfl
@[simp] theorem State.setRbit_twin (s : State) (k n : Nat) (b : Bool) : (s.setRbit k n b).twin = s.twin := rfl
@[simp] theorem State.setRbit_fw (s : State) (k n : Nat) (b : Bool) : (s.setRbit k n b).fw = s.fw := rfl
@[simp] theorem State.setRbit_ledger (s : State) (k n : Nat) (b : Bool) : (s.setRbit k n b).ledger = s.ledger := rfl
@[simp] theorem State.setRbit_ledlog (s : State) (k n : Nat) (b : Bool) : (s.setRbit k n b).ledlog = s.ledlog := rfl
@[simp] theorem State.setRbit_lan (s : State) (k n : Nat) (b : Bool) : (s.setRbit k n b).lan = s.lan := rfl
@[simp] theorem State.setRbit_swaps (s : State) (k n : Nat) (b : Bool) : (s.setRbit k n b).swaps = s.swaps := rfl
@[simp] theorem State.setRbit_blot (s : State) (k n : Nat) (b : Bool) : (s.setRbit k n b).blot = s.blot := rfl
@[simp] theorem State.setRbit_power (s : State) (k n : Nat) (b : Bool) : (s.setRbit k n b).power = s.power := rfl
@[simp] theorem State.setRbit_mgr (s : State) (k n : Nat) (b : Bool) : (s.setRbit k n b).mgr = s.mgr := rfl
@[simp] theorem State.setRbit_qps (s : State) (k n : Nat) (b : Bool) : (s.setRbit k n b).qps = s.qps := rfl
@[simp] theorem State.setRbit_groups (s : State) (k n : Nat) (b : Bool) : (s.setRbit k n b).groups = s.groups := rfl
@[simp] theorem State.setRbit_ingest (s : State) (k n : Nat) (b : Bool) : (s.setRbit k n b).ingest = s.ingest := rfl
@[simp] theorem State.setRbit_reports (s : State) (k n : Nat) (b : Bool) : (s.setRbit k n b).reports = s.reports := rfl
@[simp] theorem State.setRbit_events (s : State) (k n : Nat) (b : Bool) : (s.setRbit k n b).events = s.events := rfl

@[simp] theorem State.bump_pending (s : State) (k : Nat) : (s.bump k).pending = s.pending := rfl
@[simp] theorem State.bump_free (s : State) (k : Nat) : (s.bump k).free = s.free := rfl
@[simp] theorem State.bump_time (s : State) (k : Nat) : (s.bump k).time = s.time := rfl
@[simp] theorem State.bump_cycScribe (s : State) (k : Nat) : (s.bump k).cycScribe = s.cycScribe := rfl
@[simp] theorem State.bump_cycCopyist (s : State) (k : Nat) : (s.bump k).cycCopyist = s.cycCopyist := rfl
@[simp] theorem State.bump_mem (s : State) (k : Nat) : (s.bump k).mem = s.mem := rfl
@[simp] theorem State.bump_poison (s : State) (k : Nat) : (s.bump k).poison = s.poison := rfl
@[simp] theorem State.bump_tlb (s : State) (k : Nat) : (s.bump k).tlb = s.tlb := rfl
@[simp] theorem State.bump_ctxs (s : State) (k : Nat) : (s.bump k).ctxs = s.ctxs := rfl
@[simp] theorem State.bump_jobs (s : State) (k : Nat) : (s.bump k).jobs = s.jobs := rfl
@[simp] theorem State.bump_marks (s : State) (k : Nat) : (s.bump k).marks = s.marks := rfl
@[simp] theorem State.bump_clu (s : State) (k : Nat) : (s.bump k).clu = s.clu := rfl
@[simp] theorem State.bump_dx (s : State) (k : Nat) : (s.bump k).dx = s.dx := rfl
@[simp] theorem State.bump_sets (s : State) (k : Nat) : (s.bump k).sets = s.sets := rfl
@[simp] theorem State.bump_caches (s : State) (k : Nat) : (s.bump k).caches = s.caches := rfl
@[simp] theorem State.bump_tiers (s : State) (k : Nat) : (s.bump k).tiers = s.tiers := rfl
@[simp] theorem State.bump_hreqs (s : State) (k : Nat) : (s.bump k).hreqs = s.hreqs := rfl
@[simp] theorem State.bump_nbq (s : State) (k : Nat) : (s.bump k).nbq = s.nbq := rfl
@[simp] theorem State.bump_parts (s : State) (k : Nat) : (s.bump k).parts = s.parts := rfl
@[simp] theorem State.bump_lgq (s : State) (k : Nat) : (s.bump k).lgq = s.lgq := rfl
@[simp] theorem State.bump_nbFailed (s : State) (k : Nat) : (s.bump k).nbFailed = s.nbFailed := rfl
@[simp] theorem State.bump_hot (s : State) (k : Nat) : (s.bump k).hot = s.hot := rfl
@[simp] theorem State.bump_tables (s : State) (k : Nat) : (s.bump k).tables = s.tables := rfl
@[simp] theorem State.bump_undo (s : State) (k : Nat) : (s.bump k).undo = s.undo := rfl
@[simp] theorem State.bump_pubq (s : State) (k : Nat) : (s.bump k).pubq = s.pubq := rfl
@[simp] theorem State.bump_holds (s : State) (k : Nat) : (s.bump k).holds = s.holds := rfl
@[simp] theorem State.bump_hdir (s : State) (k : Nat) : (s.bump k).hdir = s.hdir := rfl
@[simp] theorem State.bump_snoops (s : State) (k : Nat) : (s.bump k).snoops = s.snoops := rfl
@[simp] theorem State.bump_out (s : State) (k : Nat) : (s.bump k).out = s.out := rfl
@[simp] theorem State.bump_rings (s : State) (k : Nat) : (s.bump k).rings = s.rings := rfl
@[simp] theorem State.bump_folio (s : State) (k : Nat) : (s.bump k).folio = s.folio := rfl
@[simp] theorem State.bump_sealedImg (s : State) (k : Nat) : (s.bump k).sealedImg = s.sealedImg := rfl
@[simp] theorem State.bump_twin (s : State) (k : Nat) : (s.bump k).twin = s.twin := rfl
@[simp] theorem State.bump_fw (s : State) (k : Nat) : (s.bump k).fw = s.fw := rfl
@[simp] theorem State.bump_ledger (s : State) (k : Nat) : (s.bump k).ledger = s.ledger := rfl
@[simp] theorem State.bump_ledlog (s : State) (k : Nat) : (s.bump k).ledlog = s.ledlog := rfl
@[simp] theorem State.bump_lan (s : State) (k : Nat) : (s.bump k).lan = s.lan := rfl
@[simp] theorem State.bump_swaps (s : State) (k : Nat) : (s.bump k).swaps = s.swaps := rfl
@[simp] theorem State.bump_blot (s : State) (k : Nat) : (s.bump k).blot = s.blot := rfl
@[simp] theorem State.bump_power (s : State) (k : Nat) : (s.bump k).power = s.power := rfl
@[simp] theorem State.bump_mgr (s : State) (k : Nat) : (s.bump k).mgr = s.mgr := rfl
@[simp] theorem State.bump_qps (s : State) (k : Nat) : (s.bump k).qps = s.qps := rfl
@[simp] theorem State.bump_groups (s : State) (k : Nat) : (s.bump k).groups = s.groups := rfl
@[simp] theorem State.bump_ingest (s : State) (k : Nat) : (s.bump k).ingest = s.ingest := rfl
@[simp] theorem State.bump_reports (s : State) (k : Nat) : (s.bump k).reports = s.reports := rfl
@[simp] theorem State.bump_events (s : State) (k : Nat) : (s.bump k).events = s.events := rfl

@[simp] theorem State.wr_pending (s : State) (pa : Nat) (b : Byte) : (s.wr pa b).pending = s.pending := rfl
@[simp] theorem State.wr_free (s : State) (pa : Nat) (b : Byte) : (s.wr pa b).free = s.free := rfl
@[simp] theorem State.wr_time (s : State) (pa : Nat) (b : Byte) : (s.wr pa b).time = s.time := rfl
@[simp] theorem State.wr_cycScribe (s : State) (pa : Nat) (b : Byte) : (s.wr pa b).cycScribe = s.cycScribe := rfl
@[simp] theorem State.wr_cycCopyist (s : State) (pa : Nat) (b : Byte) : (s.wr pa b).cycCopyist = s.cycCopyist := rfl
@[simp] theorem State.wr_regs (s : State) (pa : Nat) (b : Byte) : (s.wr pa b).regs = s.regs := rfl
@[simp] theorem State.wr_poison (s : State) (pa : Nat) (b : Byte) : (s.wr pa b).poison = s.poison := rfl
@[simp] theorem State.wr_tlb (s : State) (pa : Nat) (b : Byte) : (s.wr pa b).tlb = s.tlb := rfl
@[simp] theorem State.wr_ctxs (s : State) (pa : Nat) (b : Byte) : (s.wr pa b).ctxs = s.ctxs := rfl
@[simp] theorem State.wr_jobs (s : State) (pa : Nat) (b : Byte) : (s.wr pa b).jobs = s.jobs := rfl
@[simp] theorem State.wr_marks (s : State) (pa : Nat) (b : Byte) : (s.wr pa b).marks = s.marks := rfl
@[simp] theorem State.wr_clu (s : State) (pa : Nat) (b : Byte) : (s.wr pa b).clu = s.clu := rfl
@[simp] theorem State.wr_dx (s : State) (pa : Nat) (b : Byte) : (s.wr pa b).dx = s.dx := rfl
@[simp] theorem State.wr_sets (s : State) (pa : Nat) (b : Byte) : (s.wr pa b).sets = s.sets := rfl
@[simp] theorem State.wr_caches (s : State) (pa : Nat) (b : Byte) : (s.wr pa b).caches = s.caches := rfl
@[simp] theorem State.wr_tiers (s : State) (pa : Nat) (b : Byte) : (s.wr pa b).tiers = s.tiers := rfl
@[simp] theorem State.wr_hreqs (s : State) (pa : Nat) (b : Byte) : (s.wr pa b).hreqs = s.hreqs := rfl
@[simp] theorem State.wr_nbq (s : State) (pa : Nat) (b : Byte) : (s.wr pa b).nbq = s.nbq := rfl
@[simp] theorem State.wr_parts (s : State) (pa : Nat) (b : Byte) : (s.wr pa b).parts = s.parts := rfl
@[simp] theorem State.wr_lgq (s : State) (pa : Nat) (b : Byte) : (s.wr pa b).lgq = s.lgq := rfl
@[simp] theorem State.wr_nbFailed (s : State) (pa : Nat) (b : Byte) : (s.wr pa b).nbFailed = s.nbFailed := rfl
@[simp] theorem State.wr_hot (s : State) (pa : Nat) (b : Byte) : (s.wr pa b).hot = s.hot := rfl
@[simp] theorem State.wr_tables (s : State) (pa : Nat) (b : Byte) : (s.wr pa b).tables = s.tables := rfl
@[simp] theorem State.wr_undo (s : State) (pa : Nat) (b : Byte) : (s.wr pa b).undo = s.undo := rfl
@[simp] theorem State.wr_pubq (s : State) (pa : Nat) (b : Byte) : (s.wr pa b).pubq = s.pubq := rfl
@[simp] theorem State.wr_holds (s : State) (pa : Nat) (b : Byte) : (s.wr pa b).holds = s.holds := rfl
@[simp] theorem State.wr_hdir (s : State) (pa : Nat) (b : Byte) : (s.wr pa b).hdir = s.hdir := rfl
@[simp] theorem State.wr_snoops (s : State) (pa : Nat) (b : Byte) : (s.wr pa b).snoops = s.snoops := rfl
@[simp] theorem State.wr_out (s : State) (pa : Nat) (b : Byte) : (s.wr pa b).out = s.out := rfl
@[simp] theorem State.wr_rings (s : State) (pa : Nat) (b : Byte) : (s.wr pa b).rings = s.rings := rfl
@[simp] theorem State.wr_folio (s : State) (pa : Nat) (b : Byte) : (s.wr pa b).folio = s.folio := rfl
@[simp] theorem State.wr_sealedImg (s : State) (pa : Nat) (b : Byte) : (s.wr pa b).sealedImg = s.sealedImg := rfl
@[simp] theorem State.wr_twin (s : State) (pa : Nat) (b : Byte) : (s.wr pa b).twin = s.twin := rfl
@[simp] theorem State.wr_fw (s : State) (pa : Nat) (b : Byte) : (s.wr pa b).fw = s.fw := rfl
@[simp] theorem State.wr_ledger (s : State) (pa : Nat) (b : Byte) : (s.wr pa b).ledger = s.ledger := rfl
@[simp] theorem State.wr_ledlog (s : State) (pa : Nat) (b : Byte) : (s.wr pa b).ledlog = s.ledlog := rfl
@[simp] theorem State.wr_lan (s : State) (pa : Nat) (b : Byte) : (s.wr pa b).lan = s.lan := rfl
@[simp] theorem State.wr_swaps (s : State) (pa : Nat) (b : Byte) : (s.wr pa b).swaps = s.swaps := rfl
@[simp] theorem State.wr_blot (s : State) (pa : Nat) (b : Byte) : (s.wr pa b).blot = s.blot := rfl
@[simp] theorem State.wr_power (s : State) (pa : Nat) (b : Byte) : (s.wr pa b).power = s.power := rfl
@[simp] theorem State.wr_mgr (s : State) (pa : Nat) (b : Byte) : (s.wr pa b).mgr = s.mgr := rfl
@[simp] theorem State.wr_qps (s : State) (pa : Nat) (b : Byte) : (s.wr pa b).qps = s.qps := rfl
@[simp] theorem State.wr_groups (s : State) (pa : Nat) (b : Byte) : (s.wr pa b).groups = s.groups := rfl
@[simp] theorem State.wr_ingest (s : State) (pa : Nat) (b : Byte) : (s.wr pa b).ingest = s.ingest := rfl
@[simp] theorem State.wr_reports (s : State) (pa : Nat) (b : Byte) : (s.wr pa b).reports = s.reports := rfl
@[simp] theorem State.wr_events (s : State) (pa : Nat) (b : Byte) : (s.wr pa b).events = s.events := rfl

@[simp] theorem State.setCtx_pending (s : State) (h : Hart) (c : Ctx) : (s.setCtx h c).pending = s.pending := rfl
@[simp] theorem State.setCtx_free (s : State) (h : Hart) (c : Ctx) : (s.setCtx h c).free = s.free := rfl
@[simp] theorem State.setCtx_time (s : State) (h : Hart) (c : Ctx) : (s.setCtx h c).time = s.time := rfl
@[simp] theorem State.setCtx_cycScribe (s : State) (h : Hart) (c : Ctx) : (s.setCtx h c).cycScribe = s.cycScribe := rfl
@[simp] theorem State.setCtx_cycCopyist (s : State) (h : Hart) (c : Ctx) : (s.setCtx h c).cycCopyist = s.cycCopyist := rfl
@[simp] theorem State.setCtx_regs (s : State) (h : Hart) (c : Ctx) : (s.setCtx h c).regs = s.regs := rfl
@[simp] theorem State.setCtx_mem (s : State) (h : Hart) (c : Ctx) : (s.setCtx h c).mem = s.mem := rfl
@[simp] theorem State.setCtx_poison (s : State) (h : Hart) (c : Ctx) : (s.setCtx h c).poison = s.poison := rfl
@[simp] theorem State.setCtx_tlb (s : State) (h : Hart) (c : Ctx) : (s.setCtx h c).tlb = s.tlb := rfl
@[simp] theorem State.setCtx_jobs (s : State) (h : Hart) (c : Ctx) : (s.setCtx h c).jobs = s.jobs := rfl
@[simp] theorem State.setCtx_marks (s : State) (h : Hart) (c : Ctx) : (s.setCtx h c).marks = s.marks := rfl
@[simp] theorem State.setCtx_clu (s : State) (h : Hart) (c : Ctx) : (s.setCtx h c).clu = s.clu := rfl
@[simp] theorem State.setCtx_dx (s : State) (h : Hart) (c : Ctx) : (s.setCtx h c).dx = s.dx := rfl
@[simp] theorem State.setCtx_sets (s : State) (h : Hart) (c : Ctx) : (s.setCtx h c).sets = s.sets := rfl
@[simp] theorem State.setCtx_caches (s : State) (h : Hart) (c : Ctx) : (s.setCtx h c).caches = s.caches := rfl
@[simp] theorem State.setCtx_tiers (s : State) (h : Hart) (c : Ctx) : (s.setCtx h c).tiers = s.tiers := rfl
@[simp] theorem State.setCtx_hreqs (s : State) (h : Hart) (c : Ctx) : (s.setCtx h c).hreqs = s.hreqs := rfl
@[simp] theorem State.setCtx_nbq (s : State) (h : Hart) (c : Ctx) : (s.setCtx h c).nbq = s.nbq := rfl
@[simp] theorem State.setCtx_parts (s : State) (h : Hart) (c : Ctx) : (s.setCtx h c).parts = s.parts := rfl
@[simp] theorem State.setCtx_lgq (s : State) (h : Hart) (c : Ctx) : (s.setCtx h c).lgq = s.lgq := rfl
@[simp] theorem State.setCtx_nbFailed (s : State) (h : Hart) (c : Ctx) : (s.setCtx h c).nbFailed = s.nbFailed := rfl
@[simp] theorem State.setCtx_hot (s : State) (h : Hart) (c : Ctx) : (s.setCtx h c).hot = s.hot := rfl
@[simp] theorem State.setCtx_tables (s : State) (h : Hart) (c : Ctx) : (s.setCtx h c).tables = s.tables := rfl
@[simp] theorem State.setCtx_undo (s : State) (h : Hart) (c : Ctx) : (s.setCtx h c).undo = s.undo := rfl
@[simp] theorem State.setCtx_pubq (s : State) (h : Hart) (c : Ctx) : (s.setCtx h c).pubq = s.pubq := rfl
@[simp] theorem State.setCtx_holds (s : State) (h : Hart) (c : Ctx) : (s.setCtx h c).holds = s.holds := rfl
@[simp] theorem State.setCtx_hdir (s : State) (h : Hart) (c : Ctx) : (s.setCtx h c).hdir = s.hdir := rfl
@[simp] theorem State.setCtx_snoops (s : State) (h : Hart) (c : Ctx) : (s.setCtx h c).snoops = s.snoops := rfl
@[simp] theorem State.setCtx_out (s : State) (h : Hart) (c : Ctx) : (s.setCtx h c).out = s.out := rfl
@[simp] theorem State.setCtx_rings (s : State) (h : Hart) (c : Ctx) : (s.setCtx h c).rings = s.rings := rfl
@[simp] theorem State.setCtx_folio (s : State) (h : Hart) (c : Ctx) : (s.setCtx h c).folio = s.folio := rfl
@[simp] theorem State.setCtx_sealedImg (s : State) (h : Hart) (c : Ctx) : (s.setCtx h c).sealedImg = s.sealedImg := rfl
@[simp] theorem State.setCtx_twin (s : State) (h : Hart) (c : Ctx) : (s.setCtx h c).twin = s.twin := rfl
@[simp] theorem State.setCtx_fw (s : State) (h : Hart) (c : Ctx) : (s.setCtx h c).fw = s.fw := rfl
@[simp] theorem State.setCtx_ledger (s : State) (h : Hart) (c : Ctx) : (s.setCtx h c).ledger = s.ledger := rfl
@[simp] theorem State.setCtx_ledlog (s : State) (h : Hart) (c : Ctx) : (s.setCtx h c).ledlog = s.ledlog := rfl
@[simp] theorem State.setCtx_lan (s : State) (h : Hart) (c : Ctx) : (s.setCtx h c).lan = s.lan := rfl
@[simp] theorem State.setCtx_swaps (s : State) (h : Hart) (c : Ctx) : (s.setCtx h c).swaps = s.swaps := rfl
@[simp] theorem State.setCtx_blot (s : State) (h : Hart) (c : Ctx) : (s.setCtx h c).blot = s.blot := rfl
@[simp] theorem State.setCtx_power (s : State) (h : Hart) (c : Ctx) : (s.setCtx h c).power = s.power := rfl
@[simp] theorem State.setCtx_mgr (s : State) (h : Hart) (c : Ctx) : (s.setCtx h c).mgr = s.mgr := rfl
@[simp] theorem State.setCtx_qps (s : State) (h : Hart) (c : Ctx) : (s.setCtx h c).qps = s.qps := rfl
@[simp] theorem State.setCtx_groups (s : State) (h : Hart) (c : Ctx) : (s.setCtx h c).groups = s.groups := rfl
@[simp] theorem State.setCtx_ingest (s : State) (h : Hart) (c : Ctx) : (s.setCtx h c).ingest = s.ingest := rfl
@[simp] theorem State.setCtx_reports (s : State) (h : Hart) (c : Ctx) : (s.setCtx h c).reports = s.reports := rfl
@[simp] theorem State.setCtx_events (s : State) (h : Hart) (c : Ctx) : (s.setCtx h c).events = s.events := rfl

@[simp] theorem State.modCtx_pending (s : State) (h : Hart) (f : Ctx → Ctx) : (s.modCtx h f).pending = s.pending := rfl
@[simp] theorem State.modCtx_free (s : State) (h : Hart) (f : Ctx → Ctx) : (s.modCtx h f).free = s.free := rfl
@[simp] theorem State.modCtx_time (s : State) (h : Hart) (f : Ctx → Ctx) : (s.modCtx h f).time = s.time := rfl
@[simp] theorem State.modCtx_cycScribe (s : State) (h : Hart) (f : Ctx → Ctx) : (s.modCtx h f).cycScribe = s.cycScribe := rfl
@[simp] theorem State.modCtx_cycCopyist (s : State) (h : Hart) (f : Ctx → Ctx) : (s.modCtx h f).cycCopyist = s.cycCopyist := rfl
@[simp] theorem State.modCtx_regs (s : State) (h : Hart) (f : Ctx → Ctx) : (s.modCtx h f).regs = s.regs := rfl
@[simp] theorem State.modCtx_mem (s : State) (h : Hart) (f : Ctx → Ctx) : (s.modCtx h f).mem = s.mem := rfl
@[simp] theorem State.modCtx_poison (s : State) (h : Hart) (f : Ctx → Ctx) : (s.modCtx h f).poison = s.poison := rfl
@[simp] theorem State.modCtx_tlb (s : State) (h : Hart) (f : Ctx → Ctx) : (s.modCtx h f).tlb = s.tlb := rfl
@[simp] theorem State.modCtx_jobs (s : State) (h : Hart) (f : Ctx → Ctx) : (s.modCtx h f).jobs = s.jobs := rfl
@[simp] theorem State.modCtx_marks (s : State) (h : Hart) (f : Ctx → Ctx) : (s.modCtx h f).marks = s.marks := rfl
@[simp] theorem State.modCtx_clu (s : State) (h : Hart) (f : Ctx → Ctx) : (s.modCtx h f).clu = s.clu := rfl
@[simp] theorem State.modCtx_dx (s : State) (h : Hart) (f : Ctx → Ctx) : (s.modCtx h f).dx = s.dx := rfl
@[simp] theorem State.modCtx_sets (s : State) (h : Hart) (f : Ctx → Ctx) : (s.modCtx h f).sets = s.sets := rfl
@[simp] theorem State.modCtx_caches (s : State) (h : Hart) (f : Ctx → Ctx) : (s.modCtx h f).caches = s.caches := rfl
@[simp] theorem State.modCtx_tiers (s : State) (h : Hart) (f : Ctx → Ctx) : (s.modCtx h f).tiers = s.tiers := rfl
@[simp] theorem State.modCtx_hreqs (s : State) (h : Hart) (f : Ctx → Ctx) : (s.modCtx h f).hreqs = s.hreqs := rfl
@[simp] theorem State.modCtx_nbq (s : State) (h : Hart) (f : Ctx → Ctx) : (s.modCtx h f).nbq = s.nbq := rfl
@[simp] theorem State.modCtx_parts (s : State) (h : Hart) (f : Ctx → Ctx) : (s.modCtx h f).parts = s.parts := rfl
@[simp] theorem State.modCtx_lgq (s : State) (h : Hart) (f : Ctx → Ctx) : (s.modCtx h f).lgq = s.lgq := rfl
@[simp] theorem State.modCtx_nbFailed (s : State) (h : Hart) (f : Ctx → Ctx) : (s.modCtx h f).nbFailed = s.nbFailed := rfl
@[simp] theorem State.modCtx_hot (s : State) (h : Hart) (f : Ctx → Ctx) : (s.modCtx h f).hot = s.hot := rfl
@[simp] theorem State.modCtx_tables (s : State) (h : Hart) (f : Ctx → Ctx) : (s.modCtx h f).tables = s.tables := rfl
@[simp] theorem State.modCtx_undo (s : State) (h : Hart) (f : Ctx → Ctx) : (s.modCtx h f).undo = s.undo := rfl
@[simp] theorem State.modCtx_pubq (s : State) (h : Hart) (f : Ctx → Ctx) : (s.modCtx h f).pubq = s.pubq := rfl
@[simp] theorem State.modCtx_holds (s : State) (h : Hart) (f : Ctx → Ctx) : (s.modCtx h f).holds = s.holds := rfl
@[simp] theorem State.modCtx_hdir (s : State) (h : Hart) (f : Ctx → Ctx) : (s.modCtx h f).hdir = s.hdir := rfl
@[simp] theorem State.modCtx_snoops (s : State) (h : Hart) (f : Ctx → Ctx) : (s.modCtx h f).snoops = s.snoops := rfl
@[simp] theorem State.modCtx_out (s : State) (h : Hart) (f : Ctx → Ctx) : (s.modCtx h f).out = s.out := rfl
@[simp] theorem State.modCtx_rings (s : State) (h : Hart) (f : Ctx → Ctx) : (s.modCtx h f).rings = s.rings := rfl
@[simp] theorem State.modCtx_folio (s : State) (h : Hart) (f : Ctx → Ctx) : (s.modCtx h f).folio = s.folio := rfl
@[simp] theorem State.modCtx_sealedImg (s : State) (h : Hart) (f : Ctx → Ctx) : (s.modCtx h f).sealedImg = s.sealedImg := rfl
@[simp] theorem State.modCtx_twin (s : State) (h : Hart) (f : Ctx → Ctx) : (s.modCtx h f).twin = s.twin := rfl
@[simp] theorem State.modCtx_fw (s : State) (h : Hart) (f : Ctx → Ctx) : (s.modCtx h f).fw = s.fw := rfl
@[simp] theorem State.modCtx_ledger (s : State) (h : Hart) (f : Ctx → Ctx) : (s.modCtx h f).ledger = s.ledger := rfl
@[simp] theorem State.modCtx_ledlog (s : State) (h : Hart) (f : Ctx → Ctx) : (s.modCtx h f).ledlog = s.ledlog := rfl
@[simp] theorem State.modCtx_lan (s : State) (h : Hart) (f : Ctx → Ctx) : (s.modCtx h f).lan = s.lan := rfl
@[simp] theorem State.modCtx_swaps (s : State) (h : Hart) (f : Ctx → Ctx) : (s.modCtx h f).swaps = s.swaps := rfl
@[simp] theorem State.modCtx_blot (s : State) (h : Hart) (f : Ctx → Ctx) : (s.modCtx h f).blot = s.blot := rfl
@[simp] theorem State.modCtx_power (s : State) (h : Hart) (f : Ctx → Ctx) : (s.modCtx h f).power = s.power := rfl
@[simp] theorem State.modCtx_mgr (s : State) (h : Hart) (f : Ctx → Ctx) : (s.modCtx h f).mgr = s.mgr := rfl
@[simp] theorem State.modCtx_qps (s : State) (h : Hart) (f : Ctx → Ctx) : (s.modCtx h f).qps = s.qps := rfl
@[simp] theorem State.modCtx_groups (s : State) (h : Hart) (f : Ctx → Ctx) : (s.modCtx h f).groups = s.groups := rfl
@[simp] theorem State.modCtx_ingest (s : State) (h : Hart) (f : Ctx → Ctx) : (s.modCtx h f).ingest = s.ingest := rfl
@[simp] theorem State.modCtx_reports (s : State) (h : Hart) (f : Ctx → Ctx) : (s.modCtx h f).reports = s.reports := rfl
@[simp] theorem State.modCtx_events (s : State) (h : Hart) (f : Ctx → Ctx) : (s.modCtx h f).events = s.events := rfl

@[simp] theorem State.setJob_pending (s : State) (j : Nat) (x : Job) : (s.setJob j x).pending = s.pending := rfl
@[simp] theorem State.setJob_free (s : State) (j : Nat) (x : Job) : (s.setJob j x).free = s.free := rfl
@[simp] theorem State.setJob_time (s : State) (j : Nat) (x : Job) : (s.setJob j x).time = s.time := rfl
@[simp] theorem State.setJob_cycScribe (s : State) (j : Nat) (x : Job) : (s.setJob j x).cycScribe = s.cycScribe := rfl
@[simp] theorem State.setJob_cycCopyist (s : State) (j : Nat) (x : Job) : (s.setJob j x).cycCopyist = s.cycCopyist := rfl
@[simp] theorem State.setJob_regs (s : State) (j : Nat) (x : Job) : (s.setJob j x).regs = s.regs := rfl
@[simp] theorem State.setJob_mem (s : State) (j : Nat) (x : Job) : (s.setJob j x).mem = s.mem := rfl
@[simp] theorem State.setJob_poison (s : State) (j : Nat) (x : Job) : (s.setJob j x).poison = s.poison := rfl
@[simp] theorem State.setJob_tlb (s : State) (j : Nat) (x : Job) : (s.setJob j x).tlb = s.tlb := rfl
@[simp] theorem State.setJob_ctxs (s : State) (j : Nat) (x : Job) : (s.setJob j x).ctxs = s.ctxs := rfl
@[simp] theorem State.setJob_marks (s : State) (j : Nat) (x : Job) : (s.setJob j x).marks = s.marks := rfl
@[simp] theorem State.setJob_clu (s : State) (j : Nat) (x : Job) : (s.setJob j x).clu = s.clu := rfl
@[simp] theorem State.setJob_dx (s : State) (j : Nat) (x : Job) : (s.setJob j x).dx = s.dx := rfl
@[simp] theorem State.setJob_sets (s : State) (j : Nat) (x : Job) : (s.setJob j x).sets = s.sets := rfl
@[simp] theorem State.setJob_caches (s : State) (j : Nat) (x : Job) : (s.setJob j x).caches = s.caches := rfl
@[simp] theorem State.setJob_tiers (s : State) (j : Nat) (x : Job) : (s.setJob j x).tiers = s.tiers := rfl
@[simp] theorem State.setJob_hreqs (s : State) (j : Nat) (x : Job) : (s.setJob j x).hreqs = s.hreqs := rfl
@[simp] theorem State.setJob_nbq (s : State) (j : Nat) (x : Job) : (s.setJob j x).nbq = s.nbq := rfl
@[simp] theorem State.setJob_parts (s : State) (j : Nat) (x : Job) : (s.setJob j x).parts = s.parts := rfl
@[simp] theorem State.setJob_lgq (s : State) (j : Nat) (x : Job) : (s.setJob j x).lgq = s.lgq := rfl
@[simp] theorem State.setJob_nbFailed (s : State) (j : Nat) (x : Job) : (s.setJob j x).nbFailed = s.nbFailed := rfl
@[simp] theorem State.setJob_hot (s : State) (j : Nat) (x : Job) : (s.setJob j x).hot = s.hot := rfl
@[simp] theorem State.setJob_tables (s : State) (j : Nat) (x : Job) : (s.setJob j x).tables = s.tables := rfl
@[simp] theorem State.setJob_undo (s : State) (j : Nat) (x : Job) : (s.setJob j x).undo = s.undo := rfl
@[simp] theorem State.setJob_pubq (s : State) (j : Nat) (x : Job) : (s.setJob j x).pubq = s.pubq := rfl
@[simp] theorem State.setJob_holds (s : State) (j : Nat) (x : Job) : (s.setJob j x).holds = s.holds := rfl
@[simp] theorem State.setJob_hdir (s : State) (j : Nat) (x : Job) : (s.setJob j x).hdir = s.hdir := rfl
@[simp] theorem State.setJob_snoops (s : State) (j : Nat) (x : Job) : (s.setJob j x).snoops = s.snoops := rfl
@[simp] theorem State.setJob_out (s : State) (j : Nat) (x : Job) : (s.setJob j x).out = s.out := rfl
@[simp] theorem State.setJob_rings (s : State) (j : Nat) (x : Job) : (s.setJob j x).rings = s.rings := rfl
@[simp] theorem State.setJob_folio (s : State) (j : Nat) (x : Job) : (s.setJob j x).folio = s.folio := rfl
@[simp] theorem State.setJob_sealedImg (s : State) (j : Nat) (x : Job) : (s.setJob j x).sealedImg = s.sealedImg := rfl
@[simp] theorem State.setJob_twin (s : State) (j : Nat) (x : Job) : (s.setJob j x).twin = s.twin := rfl
@[simp] theorem State.setJob_fw (s : State) (j : Nat) (x : Job) : (s.setJob j x).fw = s.fw := rfl
@[simp] theorem State.setJob_ledger (s : State) (j : Nat) (x : Job) : (s.setJob j x).ledger = s.ledger := rfl
@[simp] theorem State.setJob_ledlog (s : State) (j : Nat) (x : Job) : (s.setJob j x).ledlog = s.ledlog := rfl
@[simp] theorem State.setJob_lan (s : State) (j : Nat) (x : Job) : (s.setJob j x).lan = s.lan := rfl
@[simp] theorem State.setJob_swaps (s : State) (j : Nat) (x : Job) : (s.setJob j x).swaps = s.swaps := rfl
@[simp] theorem State.setJob_blot (s : State) (j : Nat) (x : Job) : (s.setJob j x).blot = s.blot := rfl
@[simp] theorem State.setJob_power (s : State) (j : Nat) (x : Job) : (s.setJob j x).power = s.power := rfl
@[simp] theorem State.setJob_mgr (s : State) (j : Nat) (x : Job) : (s.setJob j x).mgr = s.mgr := rfl
@[simp] theorem State.setJob_qps (s : State) (j : Nat) (x : Job) : (s.setJob j x).qps = s.qps := rfl
@[simp] theorem State.setJob_groups (s : State) (j : Nat) (x : Job) : (s.setJob j x).groups = s.groups := rfl
@[simp] theorem State.setJob_ingest (s : State) (j : Nat) (x : Job) : (s.setJob j x).ingest = s.ingest := rfl
@[simp] theorem State.setJob_reports (s : State) (j : Nat) (x : Job) : (s.setJob j x).reports = s.reports := rfl
@[simp] theorem State.setJob_events (s : State) (j : Nat) (x : Job) : (s.setJob j x).events = s.events := rfl

@[simp] theorem State.setCl_pending (s : State) (k : Nat) (c : Cluster) : (s.setCl k c).pending = s.pending := rfl
@[simp] theorem State.setCl_free (s : State) (k : Nat) (c : Cluster) : (s.setCl k c).free = s.free := rfl
@[simp] theorem State.setCl_time (s : State) (k : Nat) (c : Cluster) : (s.setCl k c).time = s.time := rfl
@[simp] theorem State.setCl_cycScribe (s : State) (k : Nat) (c : Cluster) : (s.setCl k c).cycScribe = s.cycScribe := rfl
@[simp] theorem State.setCl_cycCopyist (s : State) (k : Nat) (c : Cluster) : (s.setCl k c).cycCopyist = s.cycCopyist := rfl
@[simp] theorem State.setCl_regs (s : State) (k : Nat) (c : Cluster) : (s.setCl k c).regs = s.regs := rfl
@[simp] theorem State.setCl_mem (s : State) (k : Nat) (c : Cluster) : (s.setCl k c).mem = s.mem := rfl
@[simp] theorem State.setCl_poison (s : State) (k : Nat) (c : Cluster) : (s.setCl k c).poison = s.poison := rfl
@[simp] theorem State.setCl_tlb (s : State) (k : Nat) (c : Cluster) : (s.setCl k c).tlb = s.tlb := rfl
@[simp] theorem State.setCl_ctxs (s : State) (k : Nat) (c : Cluster) : (s.setCl k c).ctxs = s.ctxs := rfl
@[simp] theorem State.setCl_jobs (s : State) (k : Nat) (c : Cluster) : (s.setCl k c).jobs = s.jobs := rfl
@[simp] theorem State.setCl_marks (s : State) (k : Nat) (c : Cluster) : (s.setCl k c).marks = s.marks := rfl
@[simp] theorem State.setCl_dx (s : State) (k : Nat) (c : Cluster) : (s.setCl k c).dx = s.dx := rfl
@[simp] theorem State.setCl_sets (s : State) (k : Nat) (c : Cluster) : (s.setCl k c).sets = s.sets := rfl
@[simp] theorem State.setCl_caches (s : State) (k : Nat) (c : Cluster) : (s.setCl k c).caches = s.caches := rfl
@[simp] theorem State.setCl_tiers (s : State) (k : Nat) (c : Cluster) : (s.setCl k c).tiers = s.tiers := rfl
@[simp] theorem State.setCl_hreqs (s : State) (k : Nat) (c : Cluster) : (s.setCl k c).hreqs = s.hreqs := rfl
@[simp] theorem State.setCl_nbq (s : State) (k : Nat) (c : Cluster) : (s.setCl k c).nbq = s.nbq := rfl
@[simp] theorem State.setCl_parts (s : State) (k : Nat) (c : Cluster) : (s.setCl k c).parts = s.parts := rfl
@[simp] theorem State.setCl_lgq (s : State) (k : Nat) (c : Cluster) : (s.setCl k c).lgq = s.lgq := rfl
@[simp] theorem State.setCl_nbFailed (s : State) (k : Nat) (c : Cluster) : (s.setCl k c).nbFailed = s.nbFailed := rfl
@[simp] theorem State.setCl_hot (s : State) (k : Nat) (c : Cluster) : (s.setCl k c).hot = s.hot := rfl
@[simp] theorem State.setCl_tables (s : State) (k : Nat) (c : Cluster) : (s.setCl k c).tables = s.tables := rfl
@[simp] theorem State.setCl_undo (s : State) (k : Nat) (c : Cluster) : (s.setCl k c).undo = s.undo := rfl
@[simp] theorem State.setCl_pubq (s : State) (k : Nat) (c : Cluster) : (s.setCl k c).pubq = s.pubq := rfl
@[simp] theorem State.setCl_holds (s : State) (k : Nat) (c : Cluster) : (s.setCl k c).holds = s.holds := rfl
@[simp] theorem State.setCl_hdir (s : State) (k : Nat) (c : Cluster) : (s.setCl k c).hdir = s.hdir := rfl
@[simp] theorem State.setCl_snoops (s : State) (k : Nat) (c : Cluster) : (s.setCl k c).snoops = s.snoops := rfl
@[simp] theorem State.setCl_out (s : State) (k : Nat) (c : Cluster) : (s.setCl k c).out = s.out := rfl
@[simp] theorem State.setCl_rings (s : State) (k : Nat) (c : Cluster) : (s.setCl k c).rings = s.rings := rfl
@[simp] theorem State.setCl_folio (s : State) (k : Nat) (c : Cluster) : (s.setCl k c).folio = s.folio := rfl
@[simp] theorem State.setCl_sealedImg (s : State) (k : Nat) (c : Cluster) : (s.setCl k c).sealedImg = s.sealedImg := rfl
@[simp] theorem State.setCl_twin (s : State) (k : Nat) (c : Cluster) : (s.setCl k c).twin = s.twin := rfl
@[simp] theorem State.setCl_fw (s : State) (k : Nat) (c : Cluster) : (s.setCl k c).fw = s.fw := rfl
@[simp] theorem State.setCl_ledger (s : State) (k : Nat) (c : Cluster) : (s.setCl k c).ledger = s.ledger := rfl
@[simp] theorem State.setCl_ledlog (s : State) (k : Nat) (c : Cluster) : (s.setCl k c).ledlog = s.ledlog := rfl
@[simp] theorem State.setCl_lan (s : State) (k : Nat) (c : Cluster) : (s.setCl k c).lan = s.lan := rfl
@[simp] theorem State.setCl_swaps (s : State) (k : Nat) (c : Cluster) : (s.setCl k c).swaps = s.swaps := rfl
@[simp] theorem State.setCl_blot (s : State) (k : Nat) (c : Cluster) : (s.setCl k c).blot = s.blot := rfl
@[simp] theorem State.setCl_power (s : State) (k : Nat) (c : Cluster) : (s.setCl k c).power = s.power := rfl
@[simp] theorem State.setCl_mgr (s : State) (k : Nat) (c : Cluster) : (s.setCl k c).mgr = s.mgr := rfl
@[simp] theorem State.setCl_qps (s : State) (k : Nat) (c : Cluster) : (s.setCl k c).qps = s.qps := rfl
@[simp] theorem State.setCl_groups (s : State) (k : Nat) (c : Cluster) : (s.setCl k c).groups = s.groups := rfl
@[simp] theorem State.setCl_ingest (s : State) (k : Nat) (c : Cluster) : (s.setCl k c).ingest = s.ingest := rfl
@[simp] theorem State.setCl_reports (s : State) (k : Nat) (c : Cluster) : (s.setCl k c).reports = s.reports := rfl
@[simp] theorem State.setCl_events (s : State) (k : Nat) (c : Cluster) : (s.setCl k c).events = s.events := rfl

@[simp] theorem State.modCl_pending (s : State) (k : Nat) (f : Cluster → Cluster) : (s.modCl k f).pending = s.pending := rfl
@[simp] theorem State.modCl_free (s : State) (k : Nat) (f : Cluster → Cluster) : (s.modCl k f).free = s.free := rfl
@[simp] theorem State.modCl_time (s : State) (k : Nat) (f : Cluster → Cluster) : (s.modCl k f).time = s.time := rfl
@[simp] theorem State.modCl_cycScribe (s : State) (k : Nat) (f : Cluster → Cluster) : (s.modCl k f).cycScribe = s.cycScribe := rfl
@[simp] theorem State.modCl_cycCopyist (s : State) (k : Nat) (f : Cluster → Cluster) : (s.modCl k f).cycCopyist = s.cycCopyist := rfl
@[simp] theorem State.modCl_regs (s : State) (k : Nat) (f : Cluster → Cluster) : (s.modCl k f).regs = s.regs := rfl
@[simp] theorem State.modCl_mem (s : State) (k : Nat) (f : Cluster → Cluster) : (s.modCl k f).mem = s.mem := rfl
@[simp] theorem State.modCl_poison (s : State) (k : Nat) (f : Cluster → Cluster) : (s.modCl k f).poison = s.poison := rfl
@[simp] theorem State.modCl_tlb (s : State) (k : Nat) (f : Cluster → Cluster) : (s.modCl k f).tlb = s.tlb := rfl
@[simp] theorem State.modCl_ctxs (s : State) (k : Nat) (f : Cluster → Cluster) : (s.modCl k f).ctxs = s.ctxs := rfl
@[simp] theorem State.modCl_jobs (s : State) (k : Nat) (f : Cluster → Cluster) : (s.modCl k f).jobs = s.jobs := rfl
@[simp] theorem State.modCl_marks (s : State) (k : Nat) (f : Cluster → Cluster) : (s.modCl k f).marks = s.marks := rfl
@[simp] theorem State.modCl_dx (s : State) (k : Nat) (f : Cluster → Cluster) : (s.modCl k f).dx = s.dx := rfl
@[simp] theorem State.modCl_sets (s : State) (k : Nat) (f : Cluster → Cluster) : (s.modCl k f).sets = s.sets := rfl
@[simp] theorem State.modCl_caches (s : State) (k : Nat) (f : Cluster → Cluster) : (s.modCl k f).caches = s.caches := rfl
@[simp] theorem State.modCl_tiers (s : State) (k : Nat) (f : Cluster → Cluster) : (s.modCl k f).tiers = s.tiers := rfl
@[simp] theorem State.modCl_hreqs (s : State) (k : Nat) (f : Cluster → Cluster) : (s.modCl k f).hreqs = s.hreqs := rfl
@[simp] theorem State.modCl_nbq (s : State) (k : Nat) (f : Cluster → Cluster) : (s.modCl k f).nbq = s.nbq := rfl
@[simp] theorem State.modCl_parts (s : State) (k : Nat) (f : Cluster → Cluster) : (s.modCl k f).parts = s.parts := rfl
@[simp] theorem State.modCl_lgq (s : State) (k : Nat) (f : Cluster → Cluster) : (s.modCl k f).lgq = s.lgq := rfl
@[simp] theorem State.modCl_nbFailed (s : State) (k : Nat) (f : Cluster → Cluster) : (s.modCl k f).nbFailed = s.nbFailed := rfl
@[simp] theorem State.modCl_hot (s : State) (k : Nat) (f : Cluster → Cluster) : (s.modCl k f).hot = s.hot := rfl
@[simp] theorem State.modCl_tables (s : State) (k : Nat) (f : Cluster → Cluster) : (s.modCl k f).tables = s.tables := rfl
@[simp] theorem State.modCl_undo (s : State) (k : Nat) (f : Cluster → Cluster) : (s.modCl k f).undo = s.undo := rfl
@[simp] theorem State.modCl_pubq (s : State) (k : Nat) (f : Cluster → Cluster) : (s.modCl k f).pubq = s.pubq := rfl
@[simp] theorem State.modCl_holds (s : State) (k : Nat) (f : Cluster → Cluster) : (s.modCl k f).holds = s.holds := rfl
@[simp] theorem State.modCl_hdir (s : State) (k : Nat) (f : Cluster → Cluster) : (s.modCl k f).hdir = s.hdir := rfl
@[simp] theorem State.modCl_snoops (s : State) (k : Nat) (f : Cluster → Cluster) : (s.modCl k f).snoops = s.snoops := rfl
@[simp] theorem State.modCl_out (s : State) (k : Nat) (f : Cluster → Cluster) : (s.modCl k f).out = s.out := rfl
@[simp] theorem State.modCl_rings (s : State) (k : Nat) (f : Cluster → Cluster) : (s.modCl k f).rings = s.rings := rfl
@[simp] theorem State.modCl_folio (s : State) (k : Nat) (f : Cluster → Cluster) : (s.modCl k f).folio = s.folio := rfl
@[simp] theorem State.modCl_sealedImg (s : State) (k : Nat) (f : Cluster → Cluster) : (s.modCl k f).sealedImg = s.sealedImg := rfl
@[simp] theorem State.modCl_twin (s : State) (k : Nat) (f : Cluster → Cluster) : (s.modCl k f).twin = s.twin := rfl
@[simp] theorem State.modCl_fw (s : State) (k : Nat) (f : Cluster → Cluster) : (s.modCl k f).fw = s.fw := rfl
@[simp] theorem State.modCl_ledger (s : State) (k : Nat) (f : Cluster → Cluster) : (s.modCl k f).ledger = s.ledger := rfl
@[simp] theorem State.modCl_ledlog (s : State) (k : Nat) (f : Cluster → Cluster) : (s.modCl k f).ledlog = s.ledlog := rfl
@[simp] theorem State.modCl_lan (s : State) (k : Nat) (f : Cluster → Cluster) : (s.modCl k f).lan = s.lan := rfl
@[simp] theorem State.modCl_swaps (s : State) (k : Nat) (f : Cluster → Cluster) : (s.modCl k f).swaps = s.swaps := rfl
@[simp] theorem State.modCl_blot (s : State) (k : Nat) (f : Cluster → Cluster) : (s.modCl k f).blot = s.blot := rfl
@[simp] theorem State.modCl_power (s : State) (k : Nat) (f : Cluster → Cluster) : (s.modCl k f).power = s.power := rfl
@[simp] theorem State.modCl_mgr (s : State) (k : Nat) (f : Cluster → Cluster) : (s.modCl k f).mgr = s.mgr := rfl
@[simp] theorem State.modCl_qps (s : State) (k : Nat) (f : Cluster → Cluster) : (s.modCl k f).qps = s.qps := rfl
@[simp] theorem State.modCl_groups (s : State) (k : Nat) (f : Cluster → Cluster) : (s.modCl k f).groups = s.groups := rfl
@[simp] theorem State.modCl_ingest (s : State) (k : Nat) (f : Cluster → Cluster) : (s.modCl k f).ingest = s.ingest := rfl
@[simp] theorem State.modCl_reports (s : State) (k : Nat) (f : Cluster → Cluster) : (s.modCl k f).reports = s.reports := rfl
@[simp] theorem State.modCl_events (s : State) (k : Nat) (f : Cluster → Cluster) : (s.modCl k f).events = s.events := rfl

@[simp] theorem State.setMarkRt_pending (s : State) (n : Nat) (m : MarkRt) : (s.setMarkRt n m).pending = s.pending := rfl
@[simp] theorem State.setMarkRt_free (s : State) (n : Nat) (m : MarkRt) : (s.setMarkRt n m).free = s.free := rfl
@[simp] theorem State.setMarkRt_time (s : State) (n : Nat) (m : MarkRt) : (s.setMarkRt n m).time = s.time := rfl
@[simp] theorem State.setMarkRt_cycScribe (s : State) (n : Nat) (m : MarkRt) : (s.setMarkRt n m).cycScribe = s.cycScribe := rfl
@[simp] theorem State.setMarkRt_cycCopyist (s : State) (n : Nat) (m : MarkRt) : (s.setMarkRt n m).cycCopyist = s.cycCopyist := rfl
@[simp] theorem State.setMarkRt_regs (s : State) (n : Nat) (m : MarkRt) : (s.setMarkRt n m).regs = s.regs := rfl
@[simp] theorem State.setMarkRt_mem (s : State) (n : Nat) (m : MarkRt) : (s.setMarkRt n m).mem = s.mem := rfl
@[simp] theorem State.setMarkRt_poison (s : State) (n : Nat) (m : MarkRt) : (s.setMarkRt n m).poison = s.poison := rfl
@[simp] theorem State.setMarkRt_tlb (s : State) (n : Nat) (m : MarkRt) : (s.setMarkRt n m).tlb = s.tlb := rfl
@[simp] theorem State.setMarkRt_ctxs (s : State) (n : Nat) (m : MarkRt) : (s.setMarkRt n m).ctxs = s.ctxs := rfl
@[simp] theorem State.setMarkRt_jobs (s : State) (n : Nat) (m : MarkRt) : (s.setMarkRt n m).jobs = s.jobs := rfl
@[simp] theorem State.setMarkRt_clu (s : State) (n : Nat) (m : MarkRt) : (s.setMarkRt n m).clu = s.clu := rfl
@[simp] theorem State.setMarkRt_dx (s : State) (n : Nat) (m : MarkRt) : (s.setMarkRt n m).dx = s.dx := rfl
@[simp] theorem State.setMarkRt_sets (s : State) (n : Nat) (m : MarkRt) : (s.setMarkRt n m).sets = s.sets := rfl
@[simp] theorem State.setMarkRt_caches (s : State) (n : Nat) (m : MarkRt) : (s.setMarkRt n m).caches = s.caches := rfl
@[simp] theorem State.setMarkRt_tiers (s : State) (n : Nat) (m : MarkRt) : (s.setMarkRt n m).tiers = s.tiers := rfl
@[simp] theorem State.setMarkRt_hreqs (s : State) (n : Nat) (m : MarkRt) : (s.setMarkRt n m).hreqs = s.hreqs := rfl
@[simp] theorem State.setMarkRt_nbq (s : State) (n : Nat) (m : MarkRt) : (s.setMarkRt n m).nbq = s.nbq := rfl
@[simp] theorem State.setMarkRt_parts (s : State) (n : Nat) (m : MarkRt) : (s.setMarkRt n m).parts = s.parts := rfl
@[simp] theorem State.setMarkRt_lgq (s : State) (n : Nat) (m : MarkRt) : (s.setMarkRt n m).lgq = s.lgq := rfl
@[simp] theorem State.setMarkRt_nbFailed (s : State) (n : Nat) (m : MarkRt) : (s.setMarkRt n m).nbFailed = s.nbFailed := rfl
@[simp] theorem State.setMarkRt_hot (s : State) (n : Nat) (m : MarkRt) : (s.setMarkRt n m).hot = s.hot := rfl
@[simp] theorem State.setMarkRt_tables (s : State) (n : Nat) (m : MarkRt) : (s.setMarkRt n m).tables = s.tables := rfl
@[simp] theorem State.setMarkRt_undo (s : State) (n : Nat) (m : MarkRt) : (s.setMarkRt n m).undo = s.undo := rfl
@[simp] theorem State.setMarkRt_pubq (s : State) (n : Nat) (m : MarkRt) : (s.setMarkRt n m).pubq = s.pubq := rfl
@[simp] theorem State.setMarkRt_holds (s : State) (n : Nat) (m : MarkRt) : (s.setMarkRt n m).holds = s.holds := rfl
@[simp] theorem State.setMarkRt_hdir (s : State) (n : Nat) (m : MarkRt) : (s.setMarkRt n m).hdir = s.hdir := rfl
@[simp] theorem State.setMarkRt_snoops (s : State) (n : Nat) (m : MarkRt) : (s.setMarkRt n m).snoops = s.snoops := rfl
@[simp] theorem State.setMarkRt_out (s : State) (n : Nat) (m : MarkRt) : (s.setMarkRt n m).out = s.out := rfl
@[simp] theorem State.setMarkRt_rings (s : State) (n : Nat) (m : MarkRt) : (s.setMarkRt n m).rings = s.rings := rfl
@[simp] theorem State.setMarkRt_folio (s : State) (n : Nat) (m : MarkRt) : (s.setMarkRt n m).folio = s.folio := rfl
@[simp] theorem State.setMarkRt_sealedImg (s : State) (n : Nat) (m : MarkRt) : (s.setMarkRt n m).sealedImg = s.sealedImg := rfl
@[simp] theorem State.setMarkRt_twin (s : State) (n : Nat) (m : MarkRt) : (s.setMarkRt n m).twin = s.twin := rfl
@[simp] theorem State.setMarkRt_fw (s : State) (n : Nat) (m : MarkRt) : (s.setMarkRt n m).fw = s.fw := rfl
@[simp] theorem State.setMarkRt_ledger (s : State) (n : Nat) (m : MarkRt) : (s.setMarkRt n m).ledger = s.ledger := rfl
@[simp] theorem State.setMarkRt_ledlog (s : State) (n : Nat) (m : MarkRt) : (s.setMarkRt n m).ledlog = s.ledlog := rfl
@[simp] theorem State.setMarkRt_lan (s : State) (n : Nat) (m : MarkRt) : (s.setMarkRt n m).lan = s.lan := rfl
@[simp] theorem State.setMarkRt_swaps (s : State) (n : Nat) (m : MarkRt) : (s.setMarkRt n m).swaps = s.swaps := rfl
@[simp] theorem State.setMarkRt_blot (s : State) (n : Nat) (m : MarkRt) : (s.setMarkRt n m).blot = s.blot := rfl
@[simp] theorem State.setMarkRt_power (s : State) (n : Nat) (m : MarkRt) : (s.setMarkRt n m).power = s.power := rfl
@[simp] theorem State.setMarkRt_mgr (s : State) (n : Nat) (m : MarkRt) : (s.setMarkRt n m).mgr = s.mgr := rfl
@[simp] theorem State.setMarkRt_qps (s : State) (n : Nat) (m : MarkRt) : (s.setMarkRt n m).qps = s.qps := rfl
@[simp] theorem State.setMarkRt_groups (s : State) (n : Nat) (m : MarkRt) : (s.setMarkRt n m).groups = s.groups := rfl
@[simp] theorem State.setMarkRt_ingest (s : State) (n : Nat) (m : MarkRt) : (s.setMarkRt n m).ingest = s.ingest := rfl
@[simp] theorem State.setMarkRt_reports (s : State) (n : Nat) (m : MarkRt) : (s.setMarkRt n m).reports = s.reports := rfl
@[simp] theorem State.setMarkRt_events (s : State) (n : Nat) (m : MarkRt) : (s.setMarkRt n m).events = s.events := rfl

@[simp] theorem State.setCache_pending (s : State) (c : Nat) (x : CacheRt) : (s.setCache c x).pending = s.pending := rfl
@[simp] theorem State.setCache_free (s : State) (c : Nat) (x : CacheRt) : (s.setCache c x).free = s.free := rfl
@[simp] theorem State.setCache_time (s : State) (c : Nat) (x : CacheRt) : (s.setCache c x).time = s.time := rfl
@[simp] theorem State.setCache_cycScribe (s : State) (c : Nat) (x : CacheRt) : (s.setCache c x).cycScribe = s.cycScribe := rfl
@[simp] theorem State.setCache_cycCopyist (s : State) (c : Nat) (x : CacheRt) : (s.setCache c x).cycCopyist = s.cycCopyist := rfl
@[simp] theorem State.setCache_regs (s : State) (c : Nat) (x : CacheRt) : (s.setCache c x).regs = s.regs := rfl
@[simp] theorem State.setCache_mem (s : State) (c : Nat) (x : CacheRt) : (s.setCache c x).mem = s.mem := rfl
@[simp] theorem State.setCache_poison (s : State) (c : Nat) (x : CacheRt) : (s.setCache c x).poison = s.poison := rfl
@[simp] theorem State.setCache_tlb (s : State) (c : Nat) (x : CacheRt) : (s.setCache c x).tlb = s.tlb := rfl
@[simp] theorem State.setCache_ctxs (s : State) (c : Nat) (x : CacheRt) : (s.setCache c x).ctxs = s.ctxs := rfl
@[simp] theorem State.setCache_jobs (s : State) (c : Nat) (x : CacheRt) : (s.setCache c x).jobs = s.jobs := rfl
@[simp] theorem State.setCache_marks (s : State) (c : Nat) (x : CacheRt) : (s.setCache c x).marks = s.marks := rfl
@[simp] theorem State.setCache_clu (s : State) (c : Nat) (x : CacheRt) : (s.setCache c x).clu = s.clu := rfl
@[simp] theorem State.setCache_dx (s : State) (c : Nat) (x : CacheRt) : (s.setCache c x).dx = s.dx := rfl
@[simp] theorem State.setCache_sets (s : State) (c : Nat) (x : CacheRt) : (s.setCache c x).sets = s.sets := rfl
@[simp] theorem State.setCache_tiers (s : State) (c : Nat) (x : CacheRt) : (s.setCache c x).tiers = s.tiers := rfl
@[simp] theorem State.setCache_hreqs (s : State) (c : Nat) (x : CacheRt) : (s.setCache c x).hreqs = s.hreqs := rfl
@[simp] theorem State.setCache_nbq (s : State) (c : Nat) (x : CacheRt) : (s.setCache c x).nbq = s.nbq := rfl
@[simp] theorem State.setCache_parts (s : State) (c : Nat) (x : CacheRt) : (s.setCache c x).parts = s.parts := rfl
@[simp] theorem State.setCache_lgq (s : State) (c : Nat) (x : CacheRt) : (s.setCache c x).lgq = s.lgq := rfl
@[simp] theorem State.setCache_nbFailed (s : State) (c : Nat) (x : CacheRt) : (s.setCache c x).nbFailed = s.nbFailed := rfl
@[simp] theorem State.setCache_hot (s : State) (c : Nat) (x : CacheRt) : (s.setCache c x).hot = s.hot := rfl
@[simp] theorem State.setCache_tables (s : State) (c : Nat) (x : CacheRt) : (s.setCache c x).tables = s.tables := rfl
@[simp] theorem State.setCache_undo (s : State) (c : Nat) (x : CacheRt) : (s.setCache c x).undo = s.undo := rfl
@[simp] theorem State.setCache_pubq (s : State) (c : Nat) (x : CacheRt) : (s.setCache c x).pubq = s.pubq := rfl
@[simp] theorem State.setCache_holds (s : State) (c : Nat) (x : CacheRt) : (s.setCache c x).holds = s.holds := rfl
@[simp] theorem State.setCache_hdir (s : State) (c : Nat) (x : CacheRt) : (s.setCache c x).hdir = s.hdir := rfl
@[simp] theorem State.setCache_snoops (s : State) (c : Nat) (x : CacheRt) : (s.setCache c x).snoops = s.snoops := rfl
@[simp] theorem State.setCache_out (s : State) (c : Nat) (x : CacheRt) : (s.setCache c x).out = s.out := rfl
@[simp] theorem State.setCache_rings (s : State) (c : Nat) (x : CacheRt) : (s.setCache c x).rings = s.rings := rfl
@[simp] theorem State.setCache_folio (s : State) (c : Nat) (x : CacheRt) : (s.setCache c x).folio = s.folio := rfl
@[simp] theorem State.setCache_sealedImg (s : State) (c : Nat) (x : CacheRt) : (s.setCache c x).sealedImg = s.sealedImg := rfl
@[simp] theorem State.setCache_twin (s : State) (c : Nat) (x : CacheRt) : (s.setCache c x).twin = s.twin := rfl
@[simp] theorem State.setCache_fw (s : State) (c : Nat) (x : CacheRt) : (s.setCache c x).fw = s.fw := rfl
@[simp] theorem State.setCache_ledger (s : State) (c : Nat) (x : CacheRt) : (s.setCache c x).ledger = s.ledger := rfl
@[simp] theorem State.setCache_ledlog (s : State) (c : Nat) (x : CacheRt) : (s.setCache c x).ledlog = s.ledlog := rfl
@[simp] theorem State.setCache_lan (s : State) (c : Nat) (x : CacheRt) : (s.setCache c x).lan = s.lan := rfl
@[simp] theorem State.setCache_swaps (s : State) (c : Nat) (x : CacheRt) : (s.setCache c x).swaps = s.swaps := rfl
@[simp] theorem State.setCache_blot (s : State) (c : Nat) (x : CacheRt) : (s.setCache c x).blot = s.blot := rfl
@[simp] theorem State.setCache_power (s : State) (c : Nat) (x : CacheRt) : (s.setCache c x).power = s.power := rfl
@[simp] theorem State.setCache_mgr (s : State) (c : Nat) (x : CacheRt) : (s.setCache c x).mgr = s.mgr := rfl
@[simp] theorem State.setCache_qps (s : State) (c : Nat) (x : CacheRt) : (s.setCache c x).qps = s.qps := rfl
@[simp] theorem State.setCache_groups (s : State) (c : Nat) (x : CacheRt) : (s.setCache c x).groups = s.groups := rfl
@[simp] theorem State.setCache_ingest (s : State) (c : Nat) (x : CacheRt) : (s.setCache c x).ingest = s.ingest := rfl
@[simp] theorem State.setCache_reports (s : State) (c : Nat) (x : CacheRt) : (s.setCache c x).reports = s.reports := rfl
@[simp] theorem State.setCache_events (s : State) (c : Nat) (x : CacheRt) : (s.setCache c x).events = s.events := rfl

@[simp] theorem State.setCset_pending (s : State) (k : Nat) (x : CSet) : (s.setCset k x).pending = s.pending := rfl
@[simp] theorem State.setCset_free (s : State) (k : Nat) (x : CSet) : (s.setCset k x).free = s.free := rfl
@[simp] theorem State.setCset_time (s : State) (k : Nat) (x : CSet) : (s.setCset k x).time = s.time := rfl
@[simp] theorem State.setCset_cycScribe (s : State) (k : Nat) (x : CSet) : (s.setCset k x).cycScribe = s.cycScribe := rfl
@[simp] theorem State.setCset_cycCopyist (s : State) (k : Nat) (x : CSet) : (s.setCset k x).cycCopyist = s.cycCopyist := rfl
@[simp] theorem State.setCset_regs (s : State) (k : Nat) (x : CSet) : (s.setCset k x).regs = s.regs := rfl
@[simp] theorem State.setCset_mem (s : State) (k : Nat) (x : CSet) : (s.setCset k x).mem = s.mem := rfl
@[simp] theorem State.setCset_poison (s : State) (k : Nat) (x : CSet) : (s.setCset k x).poison = s.poison := rfl
@[simp] theorem State.setCset_tlb (s : State) (k : Nat) (x : CSet) : (s.setCset k x).tlb = s.tlb := rfl
@[simp] theorem State.setCset_ctxs (s : State) (k : Nat) (x : CSet) : (s.setCset k x).ctxs = s.ctxs := rfl
@[simp] theorem State.setCset_jobs (s : State) (k : Nat) (x : CSet) : (s.setCset k x).jobs = s.jobs := rfl
@[simp] theorem State.setCset_marks (s : State) (k : Nat) (x : CSet) : (s.setCset k x).marks = s.marks := rfl
@[simp] theorem State.setCset_clu (s : State) (k : Nat) (x : CSet) : (s.setCset k x).clu = s.clu := rfl
@[simp] theorem State.setCset_dx (s : State) (k : Nat) (x : CSet) : (s.setCset k x).dx = s.dx := rfl
@[simp] theorem State.setCset_caches (s : State) (k : Nat) (x : CSet) : (s.setCset k x).caches = s.caches := rfl
@[simp] theorem State.setCset_tiers (s : State) (k : Nat) (x : CSet) : (s.setCset k x).tiers = s.tiers := rfl
@[simp] theorem State.setCset_hreqs (s : State) (k : Nat) (x : CSet) : (s.setCset k x).hreqs = s.hreqs := rfl
@[simp] theorem State.setCset_nbq (s : State) (k : Nat) (x : CSet) : (s.setCset k x).nbq = s.nbq := rfl
@[simp] theorem State.setCset_parts (s : State) (k : Nat) (x : CSet) : (s.setCset k x).parts = s.parts := rfl
@[simp] theorem State.setCset_lgq (s : State) (k : Nat) (x : CSet) : (s.setCset k x).lgq = s.lgq := rfl
@[simp] theorem State.setCset_nbFailed (s : State) (k : Nat) (x : CSet) : (s.setCset k x).nbFailed = s.nbFailed := rfl
@[simp] theorem State.setCset_hot (s : State) (k : Nat) (x : CSet) : (s.setCset k x).hot = s.hot := rfl
@[simp] theorem State.setCset_tables (s : State) (k : Nat) (x : CSet) : (s.setCset k x).tables = s.tables := rfl
@[simp] theorem State.setCset_undo (s : State) (k : Nat) (x : CSet) : (s.setCset k x).undo = s.undo := rfl
@[simp] theorem State.setCset_pubq (s : State) (k : Nat) (x : CSet) : (s.setCset k x).pubq = s.pubq := rfl
@[simp] theorem State.setCset_holds (s : State) (k : Nat) (x : CSet) : (s.setCset k x).holds = s.holds := rfl
@[simp] theorem State.setCset_hdir (s : State) (k : Nat) (x : CSet) : (s.setCset k x).hdir = s.hdir := rfl
@[simp] theorem State.setCset_snoops (s : State) (k : Nat) (x : CSet) : (s.setCset k x).snoops = s.snoops := rfl
@[simp] theorem State.setCset_out (s : State) (k : Nat) (x : CSet) : (s.setCset k x).out = s.out := rfl
@[simp] theorem State.setCset_rings (s : State) (k : Nat) (x : CSet) : (s.setCset k x).rings = s.rings := rfl
@[simp] theorem State.setCset_folio (s : State) (k : Nat) (x : CSet) : (s.setCset k x).folio = s.folio := rfl
@[simp] theorem State.setCset_sealedImg (s : State) (k : Nat) (x : CSet) : (s.setCset k x).sealedImg = s.sealedImg := rfl
@[simp] theorem State.setCset_twin (s : State) (k : Nat) (x : CSet) : (s.setCset k x).twin = s.twin := rfl
@[simp] theorem State.setCset_fw (s : State) (k : Nat) (x : CSet) : (s.setCset k x).fw = s.fw := rfl
@[simp] theorem State.setCset_ledger (s : State) (k : Nat) (x : CSet) : (s.setCset k x).ledger = s.ledger := rfl
@[simp] theorem State.setCset_ledlog (s : State) (k : Nat) (x : CSet) : (s.setCset k x).ledlog = s.ledlog := rfl
@[simp] theorem State.setCset_lan (s : State) (k : Nat) (x : CSet) : (s.setCset k x).lan = s.lan := rfl
@[simp] theorem State.setCset_swaps (s : State) (k : Nat) (x : CSet) : (s.setCset k x).swaps = s.swaps := rfl
@[simp] theorem State.setCset_blot (s : State) (k : Nat) (x : CSet) : (s.setCset k x).blot = s.blot := rfl
@[simp] theorem State.setCset_power (s : State) (k : Nat) (x : CSet) : (s.setCset k x).power = s.power := rfl
@[simp] theorem State.setCset_mgr (s : State) (k : Nat) (x : CSet) : (s.setCset k x).mgr = s.mgr := rfl
@[simp] theorem State.setCset_qps (s : State) (k : Nat) (x : CSet) : (s.setCset k x).qps = s.qps := rfl
@[simp] theorem State.setCset_groups (s : State) (k : Nat) (x : CSet) : (s.setCset k x).groups = s.groups := rfl
@[simp] theorem State.setCset_ingest (s : State) (k : Nat) (x : CSet) : (s.setCset k x).ingest = s.ingest := rfl
@[simp] theorem State.setCset_reports (s : State) (k : Nat) (x : CSet) : (s.setCset k x).reports = s.reports := rfl
@[simp] theorem State.setCset_events (s : State) (k : Nat) (x : CSet) : (s.setCset k x).events = s.events := rfl

@[simp] theorem State.setDx_pending (s : State) (d : Ductus) : (s.setDx d).pending = s.pending := rfl
@[simp] theorem State.setDx_free (s : State) (d : Ductus) : (s.setDx d).free = s.free := rfl
@[simp] theorem State.setDx_time (s : State) (d : Ductus) : (s.setDx d).time = s.time := rfl
@[simp] theorem State.setDx_cycScribe (s : State) (d : Ductus) : (s.setDx d).cycScribe = s.cycScribe := rfl
@[simp] theorem State.setDx_cycCopyist (s : State) (d : Ductus) : (s.setDx d).cycCopyist = s.cycCopyist := rfl
@[simp] theorem State.setDx_regs (s : State) (d : Ductus) : (s.setDx d).regs = s.regs := rfl
@[simp] theorem State.setDx_mem (s : State) (d : Ductus) : (s.setDx d).mem = s.mem := rfl
@[simp] theorem State.setDx_poison (s : State) (d : Ductus) : (s.setDx d).poison = s.poison := rfl
@[simp] theorem State.setDx_tlb (s : State) (d : Ductus) : (s.setDx d).tlb = s.tlb := rfl
@[simp] theorem State.setDx_ctxs (s : State) (d : Ductus) : (s.setDx d).ctxs = s.ctxs := rfl
@[simp] theorem State.setDx_jobs (s : State) (d : Ductus) : (s.setDx d).jobs = s.jobs := rfl
@[simp] theorem State.setDx_marks (s : State) (d : Ductus) : (s.setDx d).marks = s.marks := rfl
@[simp] theorem State.setDx_clu (s : State) (d : Ductus) : (s.setDx d).clu = s.clu := rfl
@[simp] theorem State.setDx_sets (s : State) (d : Ductus) : (s.setDx d).sets = s.sets := rfl
@[simp] theorem State.setDx_caches (s : State) (d : Ductus) : (s.setDx d).caches = s.caches := rfl
@[simp] theorem State.setDx_tiers (s : State) (d : Ductus) : (s.setDx d).tiers = s.tiers := rfl
@[simp] theorem State.setDx_hreqs (s : State) (d : Ductus) : (s.setDx d).hreqs = s.hreqs := rfl
@[simp] theorem State.setDx_nbq (s : State) (d : Ductus) : (s.setDx d).nbq = s.nbq := rfl
@[simp] theorem State.setDx_parts (s : State) (d : Ductus) : (s.setDx d).parts = s.parts := rfl
@[simp] theorem State.setDx_lgq (s : State) (d : Ductus) : (s.setDx d).lgq = s.lgq := rfl
@[simp] theorem State.setDx_nbFailed (s : State) (d : Ductus) : (s.setDx d).nbFailed = s.nbFailed := rfl
@[simp] theorem State.setDx_hot (s : State) (d : Ductus) : (s.setDx d).hot = s.hot := rfl
@[simp] theorem State.setDx_tables (s : State) (d : Ductus) : (s.setDx d).tables = s.tables := rfl
@[simp] theorem State.setDx_undo (s : State) (d : Ductus) : (s.setDx d).undo = s.undo := rfl
@[simp] theorem State.setDx_pubq (s : State) (d : Ductus) : (s.setDx d).pubq = s.pubq := rfl
@[simp] theorem State.setDx_holds (s : State) (d : Ductus) : (s.setDx d).holds = s.holds := rfl
@[simp] theorem State.setDx_hdir (s : State) (d : Ductus) : (s.setDx d).hdir = s.hdir := rfl
@[simp] theorem State.setDx_snoops (s : State) (d : Ductus) : (s.setDx d).snoops = s.snoops := rfl
@[simp] theorem State.setDx_out (s : State) (d : Ductus) : (s.setDx d).out = s.out := rfl
@[simp] theorem State.setDx_rings (s : State) (d : Ductus) : (s.setDx d).rings = s.rings := rfl
@[simp] theorem State.setDx_folio (s : State) (d : Ductus) : (s.setDx d).folio = s.folio := rfl
@[simp] theorem State.setDx_sealedImg (s : State) (d : Ductus) : (s.setDx d).sealedImg = s.sealedImg := rfl
@[simp] theorem State.setDx_twin (s : State) (d : Ductus) : (s.setDx d).twin = s.twin := rfl
@[simp] theorem State.setDx_fw (s : State) (d : Ductus) : (s.setDx d).fw = s.fw := rfl
@[simp] theorem State.setDx_ledger (s : State) (d : Ductus) : (s.setDx d).ledger = s.ledger := rfl
@[simp] theorem State.setDx_ledlog (s : State) (d : Ductus) : (s.setDx d).ledlog = s.ledlog := rfl
@[simp] theorem State.setDx_lan (s : State) (d : Ductus) : (s.setDx d).lan = s.lan := rfl
@[simp] theorem State.setDx_swaps (s : State) (d : Ductus) : (s.setDx d).swaps = s.swaps := rfl
@[simp] theorem State.setDx_blot (s : State) (d : Ductus) : (s.setDx d).blot = s.blot := rfl
@[simp] theorem State.setDx_power (s : State) (d : Ductus) : (s.setDx d).power = s.power := rfl
@[simp] theorem State.setDx_mgr (s : State) (d : Ductus) : (s.setDx d).mgr = s.mgr := rfl
@[simp] theorem State.setDx_qps (s : State) (d : Ductus) : (s.setDx d).qps = s.qps := rfl
@[simp] theorem State.setDx_groups (s : State) (d : Ductus) : (s.setDx d).groups = s.groups := rfl
@[simp] theorem State.setDx_ingest (s : State) (d : Ductus) : (s.setDx d).ingest = s.ingest := rfl
@[simp] theorem State.setDx_reports (s : State) (d : Ductus) : (s.setDx d).reports = s.reports := rfl
@[simp] theorem State.setDx_events (s : State) (d : Ductus) : (s.setDx d).events = s.events := rfl

@[simp] theorem State.setTable_pending (s : State) (j t : Nat) (x : TableRt) : (s.setTable j t x).pending = s.pending := rfl
@[simp] theorem State.setTable_free (s : State) (j t : Nat) (x : TableRt) : (s.setTable j t x).free = s.free := rfl
@[simp] theorem State.setTable_time (s : State) (j t : Nat) (x : TableRt) : (s.setTable j t x).time = s.time := rfl
@[simp] theorem State.setTable_cycScribe (s : State) (j t : Nat) (x : TableRt) : (s.setTable j t x).cycScribe = s.cycScribe := rfl
@[simp] theorem State.setTable_cycCopyist (s : State) (j t : Nat) (x : TableRt) : (s.setTable j t x).cycCopyist = s.cycCopyist := rfl
@[simp] theorem State.setTable_regs (s : State) (j t : Nat) (x : TableRt) : (s.setTable j t x).regs = s.regs := rfl
@[simp] theorem State.setTable_mem (s : State) (j t : Nat) (x : TableRt) : (s.setTable j t x).mem = s.mem := rfl
@[simp] theorem State.setTable_poison (s : State) (j t : Nat) (x : TableRt) : (s.setTable j t x).poison = s.poison := rfl
@[simp] theorem State.setTable_tlb (s : State) (j t : Nat) (x : TableRt) : (s.setTable j t x).tlb = s.tlb := rfl
@[simp] theorem State.setTable_ctxs (s : State) (j t : Nat) (x : TableRt) : (s.setTable j t x).ctxs = s.ctxs := rfl
@[simp] theorem State.setTable_jobs (s : State) (j t : Nat) (x : TableRt) : (s.setTable j t x).jobs = s.jobs := rfl
@[simp] theorem State.setTable_marks (s : State) (j t : Nat) (x : TableRt) : (s.setTable j t x).marks = s.marks := rfl
@[simp] theorem State.setTable_clu (s : State) (j t : Nat) (x : TableRt) : (s.setTable j t x).clu = s.clu := rfl
@[simp] theorem State.setTable_dx (s : State) (j t : Nat) (x : TableRt) : (s.setTable j t x).dx = s.dx := rfl
@[simp] theorem State.setTable_sets (s : State) (j t : Nat) (x : TableRt) : (s.setTable j t x).sets = s.sets := rfl
@[simp] theorem State.setTable_caches (s : State) (j t : Nat) (x : TableRt) : (s.setTable j t x).caches = s.caches := rfl
@[simp] theorem State.setTable_tiers (s : State) (j t : Nat) (x : TableRt) : (s.setTable j t x).tiers = s.tiers := rfl
@[simp] theorem State.setTable_hreqs (s : State) (j t : Nat) (x : TableRt) : (s.setTable j t x).hreqs = s.hreqs := rfl
@[simp] theorem State.setTable_nbq (s : State) (j t : Nat) (x : TableRt) : (s.setTable j t x).nbq = s.nbq := rfl
@[simp] theorem State.setTable_parts (s : State) (j t : Nat) (x : TableRt) : (s.setTable j t x).parts = s.parts := rfl
@[simp] theorem State.setTable_lgq (s : State) (j t : Nat) (x : TableRt) : (s.setTable j t x).lgq = s.lgq := rfl
@[simp] theorem State.setTable_nbFailed (s : State) (j t : Nat) (x : TableRt) : (s.setTable j t x).nbFailed = s.nbFailed := rfl
@[simp] theorem State.setTable_hot (s : State) (j t : Nat) (x : TableRt) : (s.setTable j t x).hot = s.hot := rfl
@[simp] theorem State.setTable_undo (s : State) (j t : Nat) (x : TableRt) : (s.setTable j t x).undo = s.undo := rfl
@[simp] theorem State.setTable_pubq (s : State) (j t : Nat) (x : TableRt) : (s.setTable j t x).pubq = s.pubq := rfl
@[simp] theorem State.setTable_holds (s : State) (j t : Nat) (x : TableRt) : (s.setTable j t x).holds = s.holds := rfl
@[simp] theorem State.setTable_hdir (s : State) (j t : Nat) (x : TableRt) : (s.setTable j t x).hdir = s.hdir := rfl
@[simp] theorem State.setTable_snoops (s : State) (j t : Nat) (x : TableRt) : (s.setTable j t x).snoops = s.snoops := rfl
@[simp] theorem State.setTable_out (s : State) (j t : Nat) (x : TableRt) : (s.setTable j t x).out = s.out := rfl
@[simp] theorem State.setTable_rings (s : State) (j t : Nat) (x : TableRt) : (s.setTable j t x).rings = s.rings := rfl
@[simp] theorem State.setTable_folio (s : State) (j t : Nat) (x : TableRt) : (s.setTable j t x).folio = s.folio := rfl
@[simp] theorem State.setTable_sealedImg (s : State) (j t : Nat) (x : TableRt) : (s.setTable j t x).sealedImg = s.sealedImg := rfl
@[simp] theorem State.setTable_twin (s : State) (j t : Nat) (x : TableRt) : (s.setTable j t x).twin = s.twin := rfl
@[simp] theorem State.setTable_fw (s : State) (j t : Nat) (x : TableRt) : (s.setTable j t x).fw = s.fw := rfl
@[simp] theorem State.setTable_ledger (s : State) (j t : Nat) (x : TableRt) : (s.setTable j t x).ledger = s.ledger := rfl
@[simp] theorem State.setTable_ledlog (s : State) (j t : Nat) (x : TableRt) : (s.setTable j t x).ledlog = s.ledlog := rfl
@[simp] theorem State.setTable_lan (s : State) (j t : Nat) (x : TableRt) : (s.setTable j t x).lan = s.lan := rfl
@[simp] theorem State.setTable_swaps (s : State) (j t : Nat) (x : TableRt) : (s.setTable j t x).swaps = s.swaps := rfl
@[simp] theorem State.setTable_blot (s : State) (j t : Nat) (x : TableRt) : (s.setTable j t x).blot = s.blot := rfl
@[simp] theorem State.setTable_power (s : State) (j t : Nat) (x : TableRt) : (s.setTable j t x).power = s.power := rfl
@[simp] theorem State.setTable_mgr (s : State) (j t : Nat) (x : TableRt) : (s.setTable j t x).mgr = s.mgr := rfl
@[simp] theorem State.setTable_qps (s : State) (j t : Nat) (x : TableRt) : (s.setTable j t x).qps = s.qps := rfl
@[simp] theorem State.setTable_groups (s : State) (j t : Nat) (x : TableRt) : (s.setTable j t x).groups = s.groups := rfl
@[simp] theorem State.setTable_ingest (s : State) (j t : Nat) (x : TableRt) : (s.setTable j t x).ingest = s.ingest := rfl
@[simp] theorem State.setTable_reports (s : State) (j t : Nat) (x : TableRt) : (s.setTable j t x).reports = s.reports := rfl
@[simp] theorem State.setTable_events (s : State) (j t : Nat) (x : TableRt) : (s.setTable j t x).events = s.events := rfl

@[simp] theorem State.setRing_pending (s : State) (r : Nat) (x : Ring) : (s.setRing r x).pending = s.pending := rfl
@[simp] theorem State.setRing_free (s : State) (r : Nat) (x : Ring) : (s.setRing r x).free = s.free := rfl
@[simp] theorem State.setRing_time (s : State) (r : Nat) (x : Ring) : (s.setRing r x).time = s.time := rfl
@[simp] theorem State.setRing_cycScribe (s : State) (r : Nat) (x : Ring) : (s.setRing r x).cycScribe = s.cycScribe := rfl
@[simp] theorem State.setRing_cycCopyist (s : State) (r : Nat) (x : Ring) : (s.setRing r x).cycCopyist = s.cycCopyist := rfl
@[simp] theorem State.setRing_regs (s : State) (r : Nat) (x : Ring) : (s.setRing r x).regs = s.regs := rfl
@[simp] theorem State.setRing_mem (s : State) (r : Nat) (x : Ring) : (s.setRing r x).mem = s.mem := rfl
@[simp] theorem State.setRing_poison (s : State) (r : Nat) (x : Ring) : (s.setRing r x).poison = s.poison := rfl
@[simp] theorem State.setRing_tlb (s : State) (r : Nat) (x : Ring) : (s.setRing r x).tlb = s.tlb := rfl
@[simp] theorem State.setRing_ctxs (s : State) (r : Nat) (x : Ring) : (s.setRing r x).ctxs = s.ctxs := rfl
@[simp] theorem State.setRing_jobs (s : State) (r : Nat) (x : Ring) : (s.setRing r x).jobs = s.jobs := rfl
@[simp] theorem State.setRing_marks (s : State) (r : Nat) (x : Ring) : (s.setRing r x).marks = s.marks := rfl
@[simp] theorem State.setRing_clu (s : State) (r : Nat) (x : Ring) : (s.setRing r x).clu = s.clu := rfl
@[simp] theorem State.setRing_dx (s : State) (r : Nat) (x : Ring) : (s.setRing r x).dx = s.dx := rfl
@[simp] theorem State.setRing_sets (s : State) (r : Nat) (x : Ring) : (s.setRing r x).sets = s.sets := rfl
@[simp] theorem State.setRing_caches (s : State) (r : Nat) (x : Ring) : (s.setRing r x).caches = s.caches := rfl
@[simp] theorem State.setRing_tiers (s : State) (r : Nat) (x : Ring) : (s.setRing r x).tiers = s.tiers := rfl
@[simp] theorem State.setRing_hreqs (s : State) (r : Nat) (x : Ring) : (s.setRing r x).hreqs = s.hreqs := rfl
@[simp] theorem State.setRing_nbq (s : State) (r : Nat) (x : Ring) : (s.setRing r x).nbq = s.nbq := rfl
@[simp] theorem State.setRing_parts (s : State) (r : Nat) (x : Ring) : (s.setRing r x).parts = s.parts := rfl
@[simp] theorem State.setRing_lgq (s : State) (r : Nat) (x : Ring) : (s.setRing r x).lgq = s.lgq := rfl
@[simp] theorem State.setRing_nbFailed (s : State) (r : Nat) (x : Ring) : (s.setRing r x).nbFailed = s.nbFailed := rfl
@[simp] theorem State.setRing_hot (s : State) (r : Nat) (x : Ring) : (s.setRing r x).hot = s.hot := rfl
@[simp] theorem State.setRing_tables (s : State) (r : Nat) (x : Ring) : (s.setRing r x).tables = s.tables := rfl
@[simp] theorem State.setRing_undo (s : State) (r : Nat) (x : Ring) : (s.setRing r x).undo = s.undo := rfl
@[simp] theorem State.setRing_pubq (s : State) (r : Nat) (x : Ring) : (s.setRing r x).pubq = s.pubq := rfl
@[simp] theorem State.setRing_holds (s : State) (r : Nat) (x : Ring) : (s.setRing r x).holds = s.holds := rfl
@[simp] theorem State.setRing_hdir (s : State) (r : Nat) (x : Ring) : (s.setRing r x).hdir = s.hdir := rfl
@[simp] theorem State.setRing_snoops (s : State) (r : Nat) (x : Ring) : (s.setRing r x).snoops = s.snoops := rfl
@[simp] theorem State.setRing_out (s : State) (r : Nat) (x : Ring) : (s.setRing r x).out = s.out := rfl
@[simp] theorem State.setRing_folio (s : State) (r : Nat) (x : Ring) : (s.setRing r x).folio = s.folio := rfl
@[simp] theorem State.setRing_sealedImg (s : State) (r : Nat) (x : Ring) : (s.setRing r x).sealedImg = s.sealedImg := rfl
@[simp] theorem State.setRing_twin (s : State) (r : Nat) (x : Ring) : (s.setRing r x).twin = s.twin := rfl
@[simp] theorem State.setRing_fw (s : State) (r : Nat) (x : Ring) : (s.setRing r x).fw = s.fw := rfl
@[simp] theorem State.setRing_ledger (s : State) (r : Nat) (x : Ring) : (s.setRing r x).ledger = s.ledger := rfl
@[simp] theorem State.setRing_ledlog (s : State) (r : Nat) (x : Ring) : (s.setRing r x).ledlog = s.ledlog := rfl
@[simp] theorem State.setRing_lan (s : State) (r : Nat) (x : Ring) : (s.setRing r x).lan = s.lan := rfl
@[simp] theorem State.setRing_swaps (s : State) (r : Nat) (x : Ring) : (s.setRing r x).swaps = s.swaps := rfl
@[simp] theorem State.setRing_blot (s : State) (r : Nat) (x : Ring) : (s.setRing r x).blot = s.blot := rfl
@[simp] theorem State.setRing_power (s : State) (r : Nat) (x : Ring) : (s.setRing r x).power = s.power := rfl
@[simp] theorem State.setRing_mgr (s : State) (r : Nat) (x : Ring) : (s.setRing r x).mgr = s.mgr := rfl
@[simp] theorem State.setRing_qps (s : State) (r : Nat) (x : Ring) : (s.setRing r x).qps = s.qps := rfl
@[simp] theorem State.setRing_groups (s : State) (r : Nat) (x : Ring) : (s.setRing r x).groups = s.groups := rfl
@[simp] theorem State.setRing_ingest (s : State) (r : Nat) (x : Ring) : (s.setRing r x).ingest = s.ingest := rfl
@[simp] theorem State.setRing_reports (s : State) (r : Nat) (x : Ring) : (s.setRing r x).reports = s.reports := rfl
@[simp] theorem State.setRing_events (s : State) (r : Nat) (x : Ring) : (s.setRing r x).events = s.events := rfl

@[simp] theorem State.modRing_pending (s : State) (r : Nat) (f : Ring → Ring) : (s.modRing r f).pending = s.pending := rfl
@[simp] theorem State.modRing_free (s : State) (r : Nat) (f : Ring → Ring) : (s.modRing r f).free = s.free := rfl
@[simp] theorem State.modRing_time (s : State) (r : Nat) (f : Ring → Ring) : (s.modRing r f).time = s.time := rfl
@[simp] theorem State.modRing_cycScribe (s : State) (r : Nat) (f : Ring → Ring) : (s.modRing r f).cycScribe = s.cycScribe := rfl
@[simp] theorem State.modRing_cycCopyist (s : State) (r : Nat) (f : Ring → Ring) : (s.modRing r f).cycCopyist = s.cycCopyist := rfl
@[simp] theorem State.modRing_regs (s : State) (r : Nat) (f : Ring → Ring) : (s.modRing r f).regs = s.regs := rfl
@[simp] theorem State.modRing_mem (s : State) (r : Nat) (f : Ring → Ring) : (s.modRing r f).mem = s.mem := rfl
@[simp] theorem State.modRing_poison (s : State) (r : Nat) (f : Ring → Ring) : (s.modRing r f).poison = s.poison := rfl
@[simp] theorem State.modRing_tlb (s : State) (r : Nat) (f : Ring → Ring) : (s.modRing r f).tlb = s.tlb := rfl
@[simp] theorem State.modRing_ctxs (s : State) (r : Nat) (f : Ring → Ring) : (s.modRing r f).ctxs = s.ctxs := rfl
@[simp] theorem State.modRing_jobs (s : State) (r : Nat) (f : Ring → Ring) : (s.modRing r f).jobs = s.jobs := rfl
@[simp] theorem State.modRing_marks (s : State) (r : Nat) (f : Ring → Ring) : (s.modRing r f).marks = s.marks := rfl
@[simp] theorem State.modRing_clu (s : State) (r : Nat) (f : Ring → Ring) : (s.modRing r f).clu = s.clu := rfl
@[simp] theorem State.modRing_dx (s : State) (r : Nat) (f : Ring → Ring) : (s.modRing r f).dx = s.dx := rfl
@[simp] theorem State.modRing_sets (s : State) (r : Nat) (f : Ring → Ring) : (s.modRing r f).sets = s.sets := rfl
@[simp] theorem State.modRing_caches (s : State) (r : Nat) (f : Ring → Ring) : (s.modRing r f).caches = s.caches := rfl
@[simp] theorem State.modRing_tiers (s : State) (r : Nat) (f : Ring → Ring) : (s.modRing r f).tiers = s.tiers := rfl
@[simp] theorem State.modRing_hreqs (s : State) (r : Nat) (f : Ring → Ring) : (s.modRing r f).hreqs = s.hreqs := rfl
@[simp] theorem State.modRing_nbq (s : State) (r : Nat) (f : Ring → Ring) : (s.modRing r f).nbq = s.nbq := rfl
@[simp] theorem State.modRing_parts (s : State) (r : Nat) (f : Ring → Ring) : (s.modRing r f).parts = s.parts := rfl
@[simp] theorem State.modRing_lgq (s : State) (r : Nat) (f : Ring → Ring) : (s.modRing r f).lgq = s.lgq := rfl
@[simp] theorem State.modRing_nbFailed (s : State) (r : Nat) (f : Ring → Ring) : (s.modRing r f).nbFailed = s.nbFailed := rfl
@[simp] theorem State.modRing_hot (s : State) (r : Nat) (f : Ring → Ring) : (s.modRing r f).hot = s.hot := rfl
@[simp] theorem State.modRing_tables (s : State) (r : Nat) (f : Ring → Ring) : (s.modRing r f).tables = s.tables := rfl
@[simp] theorem State.modRing_undo (s : State) (r : Nat) (f : Ring → Ring) : (s.modRing r f).undo = s.undo := rfl
@[simp] theorem State.modRing_pubq (s : State) (r : Nat) (f : Ring → Ring) : (s.modRing r f).pubq = s.pubq := rfl
@[simp] theorem State.modRing_holds (s : State) (r : Nat) (f : Ring → Ring) : (s.modRing r f).holds = s.holds := rfl
@[simp] theorem State.modRing_hdir (s : State) (r : Nat) (f : Ring → Ring) : (s.modRing r f).hdir = s.hdir := rfl
@[simp] theorem State.modRing_snoops (s : State) (r : Nat) (f : Ring → Ring) : (s.modRing r f).snoops = s.snoops := rfl
@[simp] theorem State.modRing_out (s : State) (r : Nat) (f : Ring → Ring) : (s.modRing r f).out = s.out := rfl
@[simp] theorem State.modRing_folio (s : State) (r : Nat) (f : Ring → Ring) : (s.modRing r f).folio = s.folio := rfl
@[simp] theorem State.modRing_sealedImg (s : State) (r : Nat) (f : Ring → Ring) : (s.modRing r f).sealedImg = s.sealedImg := rfl
@[simp] theorem State.modRing_twin (s : State) (r : Nat) (f : Ring → Ring) : (s.modRing r f).twin = s.twin := rfl
@[simp] theorem State.modRing_fw (s : State) (r : Nat) (f : Ring → Ring) : (s.modRing r f).fw = s.fw := rfl
@[simp] theorem State.modRing_ledger (s : State) (r : Nat) (f : Ring → Ring) : (s.modRing r f).ledger = s.ledger := rfl
@[simp] theorem State.modRing_ledlog (s : State) (r : Nat) (f : Ring → Ring) : (s.modRing r f).ledlog = s.ledlog := rfl
@[simp] theorem State.modRing_lan (s : State) (r : Nat) (f : Ring → Ring) : (s.modRing r f).lan = s.lan := rfl
@[simp] theorem State.modRing_swaps (s : State) (r : Nat) (f : Ring → Ring) : (s.modRing r f).swaps = s.swaps := rfl
@[simp] theorem State.modRing_blot (s : State) (r : Nat) (f : Ring → Ring) : (s.modRing r f).blot = s.blot := rfl
@[simp] theorem State.modRing_power (s : State) (r : Nat) (f : Ring → Ring) : (s.modRing r f).power = s.power := rfl
@[simp] theorem State.modRing_mgr (s : State) (r : Nat) (f : Ring → Ring) : (s.modRing r f).mgr = s.mgr := rfl
@[simp] theorem State.modRing_qps (s : State) (r : Nat) (f : Ring → Ring) : (s.modRing r f).qps = s.qps := rfl
@[simp] theorem State.modRing_groups (s : State) (r : Nat) (f : Ring → Ring) : (s.modRing r f).groups = s.groups := rfl
@[simp] theorem State.modRing_ingest (s : State) (r : Nat) (f : Ring → Ring) : (s.modRing r f).ingest = s.ingest := rfl
@[simp] theorem State.modRing_reports (s : State) (r : Nat) (f : Ring → Ring) : (s.modRing r f).reports = s.reports := rfl
@[simp] theorem State.modRing_events (s : State) (r : Nat) (f : Ring → Ring) : (s.modRing r f).events = s.events := rfl

@[simp] theorem State.setQp_pending (s : State) (q : Nat) (x : QpRt) : (s.setQp q x).pending = s.pending := rfl
@[simp] theorem State.setQp_free (s : State) (q : Nat) (x : QpRt) : (s.setQp q x).free = s.free := rfl
@[simp] theorem State.setQp_time (s : State) (q : Nat) (x : QpRt) : (s.setQp q x).time = s.time := rfl
@[simp] theorem State.setQp_cycScribe (s : State) (q : Nat) (x : QpRt) : (s.setQp q x).cycScribe = s.cycScribe := rfl
@[simp] theorem State.setQp_cycCopyist (s : State) (q : Nat) (x : QpRt) : (s.setQp q x).cycCopyist = s.cycCopyist := rfl
@[simp] theorem State.setQp_regs (s : State) (q : Nat) (x : QpRt) : (s.setQp q x).regs = s.regs := rfl
@[simp] theorem State.setQp_mem (s : State) (q : Nat) (x : QpRt) : (s.setQp q x).mem = s.mem := rfl
@[simp] theorem State.setQp_poison (s : State) (q : Nat) (x : QpRt) : (s.setQp q x).poison = s.poison := rfl
@[simp] theorem State.setQp_tlb (s : State) (q : Nat) (x : QpRt) : (s.setQp q x).tlb = s.tlb := rfl
@[simp] theorem State.setQp_ctxs (s : State) (q : Nat) (x : QpRt) : (s.setQp q x).ctxs = s.ctxs := rfl
@[simp] theorem State.setQp_jobs (s : State) (q : Nat) (x : QpRt) : (s.setQp q x).jobs = s.jobs := rfl
@[simp] theorem State.setQp_marks (s : State) (q : Nat) (x : QpRt) : (s.setQp q x).marks = s.marks := rfl
@[simp] theorem State.setQp_clu (s : State) (q : Nat) (x : QpRt) : (s.setQp q x).clu = s.clu := rfl
@[simp] theorem State.setQp_dx (s : State) (q : Nat) (x : QpRt) : (s.setQp q x).dx = s.dx := rfl
@[simp] theorem State.setQp_sets (s : State) (q : Nat) (x : QpRt) : (s.setQp q x).sets = s.sets := rfl
@[simp] theorem State.setQp_caches (s : State) (q : Nat) (x : QpRt) : (s.setQp q x).caches = s.caches := rfl
@[simp] theorem State.setQp_tiers (s : State) (q : Nat) (x : QpRt) : (s.setQp q x).tiers = s.tiers := rfl
@[simp] theorem State.setQp_hreqs (s : State) (q : Nat) (x : QpRt) : (s.setQp q x).hreqs = s.hreqs := rfl
@[simp] theorem State.setQp_nbq (s : State) (q : Nat) (x : QpRt) : (s.setQp q x).nbq = s.nbq := rfl
@[simp] theorem State.setQp_parts (s : State) (q : Nat) (x : QpRt) : (s.setQp q x).parts = s.parts := rfl
@[simp] theorem State.setQp_lgq (s : State) (q : Nat) (x : QpRt) : (s.setQp q x).lgq = s.lgq := rfl
@[simp] theorem State.setQp_nbFailed (s : State) (q : Nat) (x : QpRt) : (s.setQp q x).nbFailed = s.nbFailed := rfl
@[simp] theorem State.setQp_hot (s : State) (q : Nat) (x : QpRt) : (s.setQp q x).hot = s.hot := rfl
@[simp] theorem State.setQp_tables (s : State) (q : Nat) (x : QpRt) : (s.setQp q x).tables = s.tables := rfl
@[simp] theorem State.setQp_undo (s : State) (q : Nat) (x : QpRt) : (s.setQp q x).undo = s.undo := rfl
@[simp] theorem State.setQp_pubq (s : State) (q : Nat) (x : QpRt) : (s.setQp q x).pubq = s.pubq := rfl
@[simp] theorem State.setQp_holds (s : State) (q : Nat) (x : QpRt) : (s.setQp q x).holds = s.holds := rfl
@[simp] theorem State.setQp_hdir (s : State) (q : Nat) (x : QpRt) : (s.setQp q x).hdir = s.hdir := rfl
@[simp] theorem State.setQp_snoops (s : State) (q : Nat) (x : QpRt) : (s.setQp q x).snoops = s.snoops := rfl
@[simp] theorem State.setQp_out (s : State) (q : Nat) (x : QpRt) : (s.setQp q x).out = s.out := rfl
@[simp] theorem State.setQp_rings (s : State) (q : Nat) (x : QpRt) : (s.setQp q x).rings = s.rings := rfl
@[simp] theorem State.setQp_folio (s : State) (q : Nat) (x : QpRt) : (s.setQp q x).folio = s.folio := rfl
@[simp] theorem State.setQp_sealedImg (s : State) (q : Nat) (x : QpRt) : (s.setQp q x).sealedImg = s.sealedImg := rfl
@[simp] theorem State.setQp_twin (s : State) (q : Nat) (x : QpRt) : (s.setQp q x).twin = s.twin := rfl
@[simp] theorem State.setQp_fw (s : State) (q : Nat) (x : QpRt) : (s.setQp q x).fw = s.fw := rfl
@[simp] theorem State.setQp_ledger (s : State) (q : Nat) (x : QpRt) : (s.setQp q x).ledger = s.ledger := rfl
@[simp] theorem State.setQp_ledlog (s : State) (q : Nat) (x : QpRt) : (s.setQp q x).ledlog = s.ledlog := rfl
@[simp] theorem State.setQp_lan (s : State) (q : Nat) (x : QpRt) : (s.setQp q x).lan = s.lan := rfl
@[simp] theorem State.setQp_swaps (s : State) (q : Nat) (x : QpRt) : (s.setQp q x).swaps = s.swaps := rfl
@[simp] theorem State.setQp_blot (s : State) (q : Nat) (x : QpRt) : (s.setQp q x).blot = s.blot := rfl
@[simp] theorem State.setQp_power (s : State) (q : Nat) (x : QpRt) : (s.setQp q x).power = s.power := rfl
@[simp] theorem State.setQp_mgr (s : State) (q : Nat) (x : QpRt) : (s.setQp q x).mgr = s.mgr := rfl
@[simp] theorem State.setQp_groups (s : State) (q : Nat) (x : QpRt) : (s.setQp q x).groups = s.groups := rfl
@[simp] theorem State.setQp_ingest (s : State) (q : Nat) (x : QpRt) : (s.setQp q x).ingest = s.ingest := rfl
@[simp] theorem State.setQp_reports (s : State) (q : Nat) (x : QpRt) : (s.setQp q x).reports = s.reports := rfl
@[simp] theorem State.setQp_events (s : State) (q : Nat) (x : QpRt) : (s.setQp q x).events = s.events := rfl

@[simp] theorem State.setLan_pending (s : State) (l : Lan) : (s.setLan l).pending = s.pending := rfl
@[simp] theorem State.setLan_free (s : State) (l : Lan) : (s.setLan l).free = s.free := rfl
@[simp] theorem State.setLan_time (s : State) (l : Lan) : (s.setLan l).time = s.time := rfl
@[simp] theorem State.setLan_cycScribe (s : State) (l : Lan) : (s.setLan l).cycScribe = s.cycScribe := rfl
@[simp] theorem State.setLan_cycCopyist (s : State) (l : Lan) : (s.setLan l).cycCopyist = s.cycCopyist := rfl
@[simp] theorem State.setLan_regs (s : State) (l : Lan) : (s.setLan l).regs = s.regs := rfl
@[simp] theorem State.setLan_mem (s : State) (l : Lan) : (s.setLan l).mem = s.mem := rfl
@[simp] theorem State.setLan_poison (s : State) (l : Lan) : (s.setLan l).poison = s.poison := rfl
@[simp] theorem State.setLan_tlb (s : State) (l : Lan) : (s.setLan l).tlb = s.tlb := rfl
@[simp] theorem State.setLan_ctxs (s : State) (l : Lan) : (s.setLan l).ctxs = s.ctxs := rfl
@[simp] theorem State.setLan_jobs (s : State) (l : Lan) : (s.setLan l).jobs = s.jobs := rfl
@[simp] theorem State.setLan_marks (s : State) (l : Lan) : (s.setLan l).marks = s.marks := rfl
@[simp] theorem State.setLan_clu (s : State) (l : Lan) : (s.setLan l).clu = s.clu := rfl
@[simp] theorem State.setLan_dx (s : State) (l : Lan) : (s.setLan l).dx = s.dx := rfl
@[simp] theorem State.setLan_sets (s : State) (l : Lan) : (s.setLan l).sets = s.sets := rfl
@[simp] theorem State.setLan_caches (s : State) (l : Lan) : (s.setLan l).caches = s.caches := rfl
@[simp] theorem State.setLan_tiers (s : State) (l : Lan) : (s.setLan l).tiers = s.tiers := rfl
@[simp] theorem State.setLan_hreqs (s : State) (l : Lan) : (s.setLan l).hreqs = s.hreqs := rfl
@[simp] theorem State.setLan_nbq (s : State) (l : Lan) : (s.setLan l).nbq = s.nbq := rfl
@[simp] theorem State.setLan_parts (s : State) (l : Lan) : (s.setLan l).parts = s.parts := rfl
@[simp] theorem State.setLan_lgq (s : State) (l : Lan) : (s.setLan l).lgq = s.lgq := rfl
@[simp] theorem State.setLan_nbFailed (s : State) (l : Lan) : (s.setLan l).nbFailed = s.nbFailed := rfl
@[simp] theorem State.setLan_hot (s : State) (l : Lan) : (s.setLan l).hot = s.hot := rfl
@[simp] theorem State.setLan_tables (s : State) (l : Lan) : (s.setLan l).tables = s.tables := rfl
@[simp] theorem State.setLan_undo (s : State) (l : Lan) : (s.setLan l).undo = s.undo := rfl
@[simp] theorem State.setLan_pubq (s : State) (l : Lan) : (s.setLan l).pubq = s.pubq := rfl
@[simp] theorem State.setLan_holds (s : State) (l : Lan) : (s.setLan l).holds = s.holds := rfl
@[simp] theorem State.setLan_hdir (s : State) (l : Lan) : (s.setLan l).hdir = s.hdir := rfl
@[simp] theorem State.setLan_snoops (s : State) (l : Lan) : (s.setLan l).snoops = s.snoops := rfl
@[simp] theorem State.setLan_out (s : State) (l : Lan) : (s.setLan l).out = s.out := rfl
@[simp] theorem State.setLan_rings (s : State) (l : Lan) : (s.setLan l).rings = s.rings := rfl
@[simp] theorem State.setLan_folio (s : State) (l : Lan) : (s.setLan l).folio = s.folio := rfl
@[simp] theorem State.setLan_sealedImg (s : State) (l : Lan) : (s.setLan l).sealedImg = s.sealedImg := rfl
@[simp] theorem State.setLan_twin (s : State) (l : Lan) : (s.setLan l).twin = s.twin := rfl
@[simp] theorem State.setLan_fw (s : State) (l : Lan) : (s.setLan l).fw = s.fw := rfl
@[simp] theorem State.setLan_ledger (s : State) (l : Lan) : (s.setLan l).ledger = s.ledger := rfl
@[simp] theorem State.setLan_ledlog (s : State) (l : Lan) : (s.setLan l).ledlog = s.ledlog := rfl
@[simp] theorem State.setLan_swaps (s : State) (l : Lan) : (s.setLan l).swaps = s.swaps := rfl
@[simp] theorem State.setLan_blot (s : State) (l : Lan) : (s.setLan l).blot = s.blot := rfl
@[simp] theorem State.setLan_power (s : State) (l : Lan) : (s.setLan l).power = s.power := rfl
@[simp] theorem State.setLan_mgr (s : State) (l : Lan) : (s.setLan l).mgr = s.mgr := rfl
@[simp] theorem State.setLan_qps (s : State) (l : Lan) : (s.setLan l).qps = s.qps := rfl
@[simp] theorem State.setLan_groups (s : State) (l : Lan) : (s.setLan l).groups = s.groups := rfl
@[simp] theorem State.setLan_ingest (s : State) (l : Lan) : (s.setLan l).ingest = s.ingest := rfl
@[simp] theorem State.setLan_reports (s : State) (l : Lan) : (s.setLan l).reports = s.reports := rfl
@[simp] theorem State.setLan_events (s : State) (l : Lan) : (s.setLan l).events = s.events := rfl

@[simp] theorem State.setTwin_pending (s : State) (t : Twin) : (s.setTwin t).pending = s.pending := rfl
@[simp] theorem State.setTwin_free (s : State) (t : Twin) : (s.setTwin t).free = s.free := rfl
@[simp] theorem State.setTwin_time (s : State) (t : Twin) : (s.setTwin t).time = s.time := rfl
@[simp] theorem State.setTwin_cycScribe (s : State) (t : Twin) : (s.setTwin t).cycScribe = s.cycScribe := rfl
@[simp] theorem State.setTwin_cycCopyist (s : State) (t : Twin) : (s.setTwin t).cycCopyist = s.cycCopyist := rfl
@[simp] theorem State.setTwin_regs (s : State) (t : Twin) : (s.setTwin t).regs = s.regs := rfl
@[simp] theorem State.setTwin_mem (s : State) (t : Twin) : (s.setTwin t).mem = s.mem := rfl
@[simp] theorem State.setTwin_poison (s : State) (t : Twin) : (s.setTwin t).poison = s.poison := rfl
@[simp] theorem State.setTwin_tlb (s : State) (t : Twin) : (s.setTwin t).tlb = s.tlb := rfl
@[simp] theorem State.setTwin_ctxs (s : State) (t : Twin) : (s.setTwin t).ctxs = s.ctxs := rfl
@[simp] theorem State.setTwin_jobs (s : State) (t : Twin) : (s.setTwin t).jobs = s.jobs := rfl
@[simp] theorem State.setTwin_marks (s : State) (t : Twin) : (s.setTwin t).marks = s.marks := rfl
@[simp] theorem State.setTwin_clu (s : State) (t : Twin) : (s.setTwin t).clu = s.clu := rfl
@[simp] theorem State.setTwin_dx (s : State) (t : Twin) : (s.setTwin t).dx = s.dx := rfl
@[simp] theorem State.setTwin_sets (s : State) (t : Twin) : (s.setTwin t).sets = s.sets := rfl
@[simp] theorem State.setTwin_caches (s : State) (t : Twin) : (s.setTwin t).caches = s.caches := rfl
@[simp] theorem State.setTwin_tiers (s : State) (t : Twin) : (s.setTwin t).tiers = s.tiers := rfl
@[simp] theorem State.setTwin_hreqs (s : State) (t : Twin) : (s.setTwin t).hreqs = s.hreqs := rfl
@[simp] theorem State.setTwin_nbq (s : State) (t : Twin) : (s.setTwin t).nbq = s.nbq := rfl
@[simp] theorem State.setTwin_parts (s : State) (t : Twin) : (s.setTwin t).parts = s.parts := rfl
@[simp] theorem State.setTwin_lgq (s : State) (t : Twin) : (s.setTwin t).lgq = s.lgq := rfl
@[simp] theorem State.setTwin_nbFailed (s : State) (t : Twin) : (s.setTwin t).nbFailed = s.nbFailed := rfl
@[simp] theorem State.setTwin_hot (s : State) (t : Twin) : (s.setTwin t).hot = s.hot := rfl
@[simp] theorem State.setTwin_tables (s : State) (t : Twin) : (s.setTwin t).tables = s.tables := rfl
@[simp] theorem State.setTwin_undo (s : State) (t : Twin) : (s.setTwin t).undo = s.undo := rfl
@[simp] theorem State.setTwin_pubq (s : State) (t : Twin) : (s.setTwin t).pubq = s.pubq := rfl
@[simp] theorem State.setTwin_holds (s : State) (t : Twin) : (s.setTwin t).holds = s.holds := rfl
@[simp] theorem State.setTwin_hdir (s : State) (t : Twin) : (s.setTwin t).hdir = s.hdir := rfl
@[simp] theorem State.setTwin_snoops (s : State) (t : Twin) : (s.setTwin t).snoops = s.snoops := rfl
@[simp] theorem State.setTwin_out (s : State) (t : Twin) : (s.setTwin t).out = s.out := rfl
@[simp] theorem State.setTwin_rings (s : State) (t : Twin) : (s.setTwin t).rings = s.rings := rfl
@[simp] theorem State.setTwin_folio (s : State) (t : Twin) : (s.setTwin t).folio = s.folio := rfl
@[simp] theorem State.setTwin_sealedImg (s : State) (t : Twin) : (s.setTwin t).sealedImg = s.sealedImg := rfl
@[simp] theorem State.setTwin_fw (s : State) (t : Twin) : (s.setTwin t).fw = s.fw := rfl
@[simp] theorem State.setTwin_ledger (s : State) (t : Twin) : (s.setTwin t).ledger = s.ledger := rfl
@[simp] theorem State.setTwin_ledlog (s : State) (t : Twin) : (s.setTwin t).ledlog = s.ledlog := rfl
@[simp] theorem State.setTwin_lan (s : State) (t : Twin) : (s.setTwin t).lan = s.lan := rfl
@[simp] theorem State.setTwin_swaps (s : State) (t : Twin) : (s.setTwin t).swaps = s.swaps := rfl
@[simp] theorem State.setTwin_blot (s : State) (t : Twin) : (s.setTwin t).blot = s.blot := rfl
@[simp] theorem State.setTwin_power (s : State) (t : Twin) : (s.setTwin t).power = s.power := rfl
@[simp] theorem State.setTwin_mgr (s : State) (t : Twin) : (s.setTwin t).mgr = s.mgr := rfl
@[simp] theorem State.setTwin_qps (s : State) (t : Twin) : (s.setTwin t).qps = s.qps := rfl
@[simp] theorem State.setTwin_groups (s : State) (t : Twin) : (s.setTwin t).groups = s.groups := rfl
@[simp] theorem State.setTwin_ingest (s : State) (t : Twin) : (s.setTwin t).ingest = s.ingest := rfl
@[simp] theorem State.setTwin_reports (s : State) (t : Twin) : (s.setTwin t).reports = s.reports := rfl
@[simp] theorem State.setTwin_events (s : State) (t : Twin) : (s.setTwin t).events = s.events := rfl

@[simp] theorem State.setMgr_pending (s : State) (m : Mgr) : (s.setMgr m).pending = s.pending := rfl
@[simp] theorem State.setMgr_free (s : State) (m : Mgr) : (s.setMgr m).free = s.free := rfl
@[simp] theorem State.setMgr_time (s : State) (m : Mgr) : (s.setMgr m).time = s.time := rfl
@[simp] theorem State.setMgr_cycScribe (s : State) (m : Mgr) : (s.setMgr m).cycScribe = s.cycScribe := rfl
@[simp] theorem State.setMgr_cycCopyist (s : State) (m : Mgr) : (s.setMgr m).cycCopyist = s.cycCopyist := rfl
@[simp] theorem State.setMgr_regs (s : State) (m : Mgr) : (s.setMgr m).regs = s.regs := rfl
@[simp] theorem State.setMgr_mem (s : State) (m : Mgr) : (s.setMgr m).mem = s.mem := rfl
@[simp] theorem State.setMgr_poison (s : State) (m : Mgr) : (s.setMgr m).poison = s.poison := rfl
@[simp] theorem State.setMgr_tlb (s : State) (m : Mgr) : (s.setMgr m).tlb = s.tlb := rfl
@[simp] theorem State.setMgr_ctxs (s : State) (m : Mgr) : (s.setMgr m).ctxs = s.ctxs := rfl
@[simp] theorem State.setMgr_jobs (s : State) (m : Mgr) : (s.setMgr m).jobs = s.jobs := rfl
@[simp] theorem State.setMgr_marks (s : State) (m : Mgr) : (s.setMgr m).marks = s.marks := rfl
@[simp] theorem State.setMgr_clu (s : State) (m : Mgr) : (s.setMgr m).clu = s.clu := rfl
@[simp] theorem State.setMgr_dx (s : State) (m : Mgr) : (s.setMgr m).dx = s.dx := rfl
@[simp] theorem State.setMgr_sets (s : State) (m : Mgr) : (s.setMgr m).sets = s.sets := rfl
@[simp] theorem State.setMgr_caches (s : State) (m : Mgr) : (s.setMgr m).caches = s.caches := rfl
@[simp] theorem State.setMgr_tiers (s : State) (m : Mgr) : (s.setMgr m).tiers = s.tiers := rfl
@[simp] theorem State.setMgr_hreqs (s : State) (m : Mgr) : (s.setMgr m).hreqs = s.hreqs := rfl
@[simp] theorem State.setMgr_nbq (s : State) (m : Mgr) : (s.setMgr m).nbq = s.nbq := rfl
@[simp] theorem State.setMgr_parts (s : State) (m : Mgr) : (s.setMgr m).parts = s.parts := rfl
@[simp] theorem State.setMgr_lgq (s : State) (m : Mgr) : (s.setMgr m).lgq = s.lgq := rfl
@[simp] theorem State.setMgr_nbFailed (s : State) (m : Mgr) : (s.setMgr m).nbFailed = s.nbFailed := rfl
@[simp] theorem State.setMgr_hot (s : State) (m : Mgr) : (s.setMgr m).hot = s.hot := rfl
@[simp] theorem State.setMgr_tables (s : State) (m : Mgr) : (s.setMgr m).tables = s.tables := rfl
@[simp] theorem State.setMgr_undo (s : State) (m : Mgr) : (s.setMgr m).undo = s.undo := rfl
@[simp] theorem State.setMgr_pubq (s : State) (m : Mgr) : (s.setMgr m).pubq = s.pubq := rfl
@[simp] theorem State.setMgr_holds (s : State) (m : Mgr) : (s.setMgr m).holds = s.holds := rfl
@[simp] theorem State.setMgr_hdir (s : State) (m : Mgr) : (s.setMgr m).hdir = s.hdir := rfl
@[simp] theorem State.setMgr_snoops (s : State) (m : Mgr) : (s.setMgr m).snoops = s.snoops := rfl
@[simp] theorem State.setMgr_out (s : State) (m : Mgr) : (s.setMgr m).out = s.out := rfl
@[simp] theorem State.setMgr_rings (s : State) (m : Mgr) : (s.setMgr m).rings = s.rings := rfl
@[simp] theorem State.setMgr_folio (s : State) (m : Mgr) : (s.setMgr m).folio = s.folio := rfl
@[simp] theorem State.setMgr_sealedImg (s : State) (m : Mgr) : (s.setMgr m).sealedImg = s.sealedImg := rfl
@[simp] theorem State.setMgr_twin (s : State) (m : Mgr) : (s.setMgr m).twin = s.twin := rfl
@[simp] theorem State.setMgr_fw (s : State) (m : Mgr) : (s.setMgr m).fw = s.fw := rfl
@[simp] theorem State.setMgr_ledger (s : State) (m : Mgr) : (s.setMgr m).ledger = s.ledger := rfl
@[simp] theorem State.setMgr_ledlog (s : State) (m : Mgr) : (s.setMgr m).ledlog = s.ledlog := rfl
@[simp] theorem State.setMgr_lan (s : State) (m : Mgr) : (s.setMgr m).lan = s.lan := rfl
@[simp] theorem State.setMgr_swaps (s : State) (m : Mgr) : (s.setMgr m).swaps = s.swaps := rfl
@[simp] theorem State.setMgr_blot (s : State) (m : Mgr) : (s.setMgr m).blot = s.blot := rfl
@[simp] theorem State.setMgr_power (s : State) (m : Mgr) : (s.setMgr m).power = s.power := rfl
@[simp] theorem State.setMgr_qps (s : State) (m : Mgr) : (s.setMgr m).qps = s.qps := rfl
@[simp] theorem State.setMgr_groups (s : State) (m : Mgr) : (s.setMgr m).groups = s.groups := rfl
@[simp] theorem State.setMgr_ingest (s : State) (m : Mgr) : (s.setMgr m).ingest = s.ingest := rfl
@[simp] theorem State.setMgr_reports (s : State) (m : Mgr) : (s.setMgr m).reports = s.reports := rfl
@[simp] theorem State.setMgr_events (s : State) (m : Mgr) : (s.setMgr m).events = s.events := rfl

@[simp] theorem State.modPower_pending (s : State) (f : Power → Power) : (s.modPower f).pending = s.pending := rfl
@[simp] theorem State.modPower_free (s : State) (f : Power → Power) : (s.modPower f).free = s.free := rfl
@[simp] theorem State.modPower_time (s : State) (f : Power → Power) : (s.modPower f).time = s.time := rfl
@[simp] theorem State.modPower_cycScribe (s : State) (f : Power → Power) : (s.modPower f).cycScribe = s.cycScribe := rfl
@[simp] theorem State.modPower_cycCopyist (s : State) (f : Power → Power) : (s.modPower f).cycCopyist = s.cycCopyist := rfl
@[simp] theorem State.modPower_regs (s : State) (f : Power → Power) : (s.modPower f).regs = s.regs := rfl
@[simp] theorem State.modPower_mem (s : State) (f : Power → Power) : (s.modPower f).mem = s.mem := rfl
@[simp] theorem State.modPower_poison (s : State) (f : Power → Power) : (s.modPower f).poison = s.poison := rfl
@[simp] theorem State.modPower_tlb (s : State) (f : Power → Power) : (s.modPower f).tlb = s.tlb := rfl
@[simp] theorem State.modPower_ctxs (s : State) (f : Power → Power) : (s.modPower f).ctxs = s.ctxs := rfl
@[simp] theorem State.modPower_jobs (s : State) (f : Power → Power) : (s.modPower f).jobs = s.jobs := rfl
@[simp] theorem State.modPower_marks (s : State) (f : Power → Power) : (s.modPower f).marks = s.marks := rfl
@[simp] theorem State.modPower_clu (s : State) (f : Power → Power) : (s.modPower f).clu = s.clu := rfl
@[simp] theorem State.modPower_dx (s : State) (f : Power → Power) : (s.modPower f).dx = s.dx := rfl
@[simp] theorem State.modPower_sets (s : State) (f : Power → Power) : (s.modPower f).sets = s.sets := rfl
@[simp] theorem State.modPower_caches (s : State) (f : Power → Power) : (s.modPower f).caches = s.caches := rfl
@[simp] theorem State.modPower_tiers (s : State) (f : Power → Power) : (s.modPower f).tiers = s.tiers := rfl
@[simp] theorem State.modPower_hreqs (s : State) (f : Power → Power) : (s.modPower f).hreqs = s.hreqs := rfl
@[simp] theorem State.modPower_nbq (s : State) (f : Power → Power) : (s.modPower f).nbq = s.nbq := rfl
@[simp] theorem State.modPower_parts (s : State) (f : Power → Power) : (s.modPower f).parts = s.parts := rfl
@[simp] theorem State.modPower_lgq (s : State) (f : Power → Power) : (s.modPower f).lgq = s.lgq := rfl
@[simp] theorem State.modPower_nbFailed (s : State) (f : Power → Power) : (s.modPower f).nbFailed = s.nbFailed := rfl
@[simp] theorem State.modPower_hot (s : State) (f : Power → Power) : (s.modPower f).hot = s.hot := rfl
@[simp] theorem State.modPower_tables (s : State) (f : Power → Power) : (s.modPower f).tables = s.tables := rfl
@[simp] theorem State.modPower_undo (s : State) (f : Power → Power) : (s.modPower f).undo = s.undo := rfl
@[simp] theorem State.modPower_pubq (s : State) (f : Power → Power) : (s.modPower f).pubq = s.pubq := rfl
@[simp] theorem State.modPower_holds (s : State) (f : Power → Power) : (s.modPower f).holds = s.holds := rfl
@[simp] theorem State.modPower_hdir (s : State) (f : Power → Power) : (s.modPower f).hdir = s.hdir := rfl
@[simp] theorem State.modPower_snoops (s : State) (f : Power → Power) : (s.modPower f).snoops = s.snoops := rfl
@[simp] theorem State.modPower_out (s : State) (f : Power → Power) : (s.modPower f).out = s.out := rfl
@[simp] theorem State.modPower_rings (s : State) (f : Power → Power) : (s.modPower f).rings = s.rings := rfl
@[simp] theorem State.modPower_folio (s : State) (f : Power → Power) : (s.modPower f).folio = s.folio := rfl
@[simp] theorem State.modPower_sealedImg (s : State) (f : Power → Power) : (s.modPower f).sealedImg = s.sealedImg := rfl
@[simp] theorem State.modPower_twin (s : State) (f : Power → Power) : (s.modPower f).twin = s.twin := rfl
@[simp] theorem State.modPower_fw (s : State) (f : Power → Power) : (s.modPower f).fw = s.fw := rfl
@[simp] theorem State.modPower_ledger (s : State) (f : Power → Power) : (s.modPower f).ledger = s.ledger := rfl
@[simp] theorem State.modPower_ledlog (s : State) (f : Power → Power) : (s.modPower f).ledlog = s.ledlog := rfl
@[simp] theorem State.modPower_lan (s : State) (f : Power → Power) : (s.modPower f).lan = s.lan := rfl
@[simp] theorem State.modPower_swaps (s : State) (f : Power → Power) : (s.modPower f).swaps = s.swaps := rfl
@[simp] theorem State.modPower_blot (s : State) (f : Power → Power) : (s.modPower f).blot = s.blot := rfl
@[simp] theorem State.modPower_mgr (s : State) (f : Power → Power) : (s.modPower f).mgr = s.mgr := rfl
@[simp] theorem State.modPower_qps (s : State) (f : Power → Power) : (s.modPower f).qps = s.qps := rfl
@[simp] theorem State.modPower_groups (s : State) (f : Power → Power) : (s.modPower f).groups = s.groups := rfl
@[simp] theorem State.modPower_ingest (s : State) (f : Power → Power) : (s.modPower f).ingest = s.ingest := rfl
@[simp] theorem State.modPower_reports (s : State) (f : Power → Power) : (s.modPower f).reports = s.reports := rfl
@[simp] theorem State.modPower_events (s : State) (f : Power → Power) : (s.modPower f).events = s.events := rfl

@[simp] theorem State.report_pending (s : State) (r : Report) : (s.report r).pending = s.pending := rfl
@[simp] theorem State.report_free (s : State) (r : Report) : (s.report r).free = s.free := rfl
@[simp] theorem State.report_time (s : State) (r : Report) : (s.report r).time = s.time := rfl
@[simp] theorem State.report_cycScribe (s : State) (r : Report) : (s.report r).cycScribe = s.cycScribe := rfl
@[simp] theorem State.report_cycCopyist (s : State) (r : Report) : (s.report r).cycCopyist = s.cycCopyist := rfl
@[simp] theorem State.report_regs (s : State) (r : Report) : (s.report r).regs = s.regs := rfl
@[simp] theorem State.report_mem (s : State) (r : Report) : (s.report r).mem = s.mem := rfl
@[simp] theorem State.report_poison (s : State) (r : Report) : (s.report r).poison = s.poison := rfl
@[simp] theorem State.report_tlb (s : State) (r : Report) : (s.report r).tlb = s.tlb := rfl
@[simp] theorem State.report_ctxs (s : State) (r : Report) : (s.report r).ctxs = s.ctxs := rfl
@[simp] theorem State.report_jobs (s : State) (r : Report) : (s.report r).jobs = s.jobs := rfl
@[simp] theorem State.report_marks (s : State) (r : Report) : (s.report r).marks = s.marks := rfl
@[simp] theorem State.report_clu (s : State) (r : Report) : (s.report r).clu = s.clu := rfl
@[simp] theorem State.report_dx (s : State) (r : Report) : (s.report r).dx = s.dx := rfl
@[simp] theorem State.report_sets (s : State) (r : Report) : (s.report r).sets = s.sets := rfl
@[simp] theorem State.report_caches (s : State) (r : Report) : (s.report r).caches = s.caches := rfl
@[simp] theorem State.report_tiers (s : State) (r : Report) : (s.report r).tiers = s.tiers := rfl
@[simp] theorem State.report_hreqs (s : State) (r : Report) : (s.report r).hreqs = s.hreqs := rfl
@[simp] theorem State.report_nbq (s : State) (r : Report) : (s.report r).nbq = s.nbq := rfl
@[simp] theorem State.report_parts (s : State) (r : Report) : (s.report r).parts = s.parts := rfl
@[simp] theorem State.report_lgq (s : State) (r : Report) : (s.report r).lgq = s.lgq := rfl
@[simp] theorem State.report_nbFailed (s : State) (r : Report) : (s.report r).nbFailed = s.nbFailed := rfl
@[simp] theorem State.report_hot (s : State) (r : Report) : (s.report r).hot = s.hot := rfl
@[simp] theorem State.report_tables (s : State) (r : Report) : (s.report r).tables = s.tables := rfl
@[simp] theorem State.report_undo (s : State) (r : Report) : (s.report r).undo = s.undo := rfl
@[simp] theorem State.report_pubq (s : State) (r : Report) : (s.report r).pubq = s.pubq := rfl
@[simp] theorem State.report_holds (s : State) (r : Report) : (s.report r).holds = s.holds := rfl
@[simp] theorem State.report_hdir (s : State) (r : Report) : (s.report r).hdir = s.hdir := rfl
@[simp] theorem State.report_snoops (s : State) (r : Report) : (s.report r).snoops = s.snoops := rfl
@[simp] theorem State.report_out (s : State) (r : Report) : (s.report r).out = s.out := rfl
@[simp] theorem State.report_rings (s : State) (r : Report) : (s.report r).rings = s.rings := rfl
@[simp] theorem State.report_folio (s : State) (r : Report) : (s.report r).folio = s.folio := rfl
@[simp] theorem State.report_sealedImg (s : State) (r : Report) : (s.report r).sealedImg = s.sealedImg := rfl
@[simp] theorem State.report_twin (s : State) (r : Report) : (s.report r).twin = s.twin := rfl
@[simp] theorem State.report_fw (s : State) (r : Report) : (s.report r).fw = s.fw := rfl
@[simp] theorem State.report_ledger (s : State) (r : Report) : (s.report r).ledger = s.ledger := rfl
@[simp] theorem State.report_ledlog (s : State) (r : Report) : (s.report r).ledlog = s.ledlog := rfl
@[simp] theorem State.report_lan (s : State) (r : Report) : (s.report r).lan = s.lan := rfl
@[simp] theorem State.report_swaps (s : State) (r : Report) : (s.report r).swaps = s.swaps := rfl
@[simp] theorem State.report_blot (s : State) (r : Report) : (s.report r).blot = s.blot := rfl
@[simp] theorem State.report_power (s : State) (r : Report) : (s.report r).power = s.power := rfl
@[simp] theorem State.report_mgr (s : State) (r : Report) : (s.report r).mgr = s.mgr := rfl
@[simp] theorem State.report_qps (s : State) (r : Report) : (s.report r).qps = s.qps := rfl
@[simp] theorem State.report_groups (s : State) (r : Report) : (s.report r).groups = s.groups := rfl
@[simp] theorem State.report_ingest (s : State) (r : Report) : (s.report r).ingest = s.ingest := rfl
@[simp] theorem State.report_events (s : State) (r : Report) : (s.report r).events = s.events := rfl

@[simp] theorem State.draw_pending (s : State) : s.draw.2.pending = s.pending := rfl
@[simp] theorem State.draw_time (s : State) : s.draw.2.time = s.time := rfl
@[simp] theorem State.draw_cycScribe (s : State) : s.draw.2.cycScribe = s.cycScribe := rfl
@[simp] theorem State.draw_cycCopyist (s : State) : s.draw.2.cycCopyist = s.cycCopyist := rfl
@[simp] theorem State.draw_regs (s : State) : s.draw.2.regs = s.regs := rfl
@[simp] theorem State.draw_mem (s : State) : s.draw.2.mem = s.mem := rfl
@[simp] theorem State.draw_poison (s : State) : s.draw.2.poison = s.poison := rfl
@[simp] theorem State.draw_tlb (s : State) : s.draw.2.tlb = s.tlb := rfl
@[simp] theorem State.draw_ctxs (s : State) : s.draw.2.ctxs = s.ctxs := rfl
@[simp] theorem State.draw_jobs (s : State) : s.draw.2.jobs = s.jobs := rfl
@[simp] theorem State.draw_marks (s : State) : s.draw.2.marks = s.marks := rfl
@[simp] theorem State.draw_clu (s : State) : s.draw.2.clu = s.clu := rfl
@[simp] theorem State.draw_dx (s : State) : s.draw.2.dx = s.dx := rfl
@[simp] theorem State.draw_sets (s : State) : s.draw.2.sets = s.sets := rfl
@[simp] theorem State.draw_caches (s : State) : s.draw.2.caches = s.caches := rfl
@[simp] theorem State.draw_tiers (s : State) : s.draw.2.tiers = s.tiers := rfl
@[simp] theorem State.draw_hreqs (s : State) : s.draw.2.hreqs = s.hreqs := rfl
@[simp] theorem State.draw_nbq (s : State) : s.draw.2.nbq = s.nbq := rfl
@[simp] theorem State.draw_parts (s : State) : s.draw.2.parts = s.parts := rfl
@[simp] theorem State.draw_lgq (s : State) : s.draw.2.lgq = s.lgq := rfl
@[simp] theorem State.draw_nbFailed (s : State) : s.draw.2.nbFailed = s.nbFailed := rfl
@[simp] theorem State.draw_hot (s : State) : s.draw.2.hot = s.hot := rfl
@[simp] theorem State.draw_tables (s : State) : s.draw.2.tables = s.tables := rfl
@[simp] theorem State.draw_undo (s : State) : s.draw.2.undo = s.undo := rfl
@[simp] theorem State.draw_pubq (s : State) : s.draw.2.pubq = s.pubq := rfl
@[simp] theorem State.draw_holds (s : State) : s.draw.2.holds = s.holds := rfl
@[simp] theorem State.draw_hdir (s : State) : s.draw.2.hdir = s.hdir := rfl
@[simp] theorem State.draw_snoops (s : State) : s.draw.2.snoops = s.snoops := rfl
@[simp] theorem State.draw_out (s : State) : s.draw.2.out = s.out := rfl
@[simp] theorem State.draw_rings (s : State) : s.draw.2.rings = s.rings := rfl
@[simp] theorem State.draw_folio (s : State) : s.draw.2.folio = s.folio := rfl
@[simp] theorem State.draw_sealedImg (s : State) : s.draw.2.sealedImg = s.sealedImg := rfl
@[simp] theorem State.draw_twin (s : State) : s.draw.2.twin = s.twin := rfl
@[simp] theorem State.draw_fw (s : State) : s.draw.2.fw = s.fw := rfl
@[simp] theorem State.draw_ledger (s : State) : s.draw.2.ledger = s.ledger := rfl
@[simp] theorem State.draw_ledlog (s : State) : s.draw.2.ledlog = s.ledlog := rfl
@[simp] theorem State.draw_lan (s : State) : s.draw.2.lan = s.lan := rfl
@[simp] theorem State.draw_swaps (s : State) : s.draw.2.swaps = s.swaps := rfl
@[simp] theorem State.draw_blot (s : State) : s.draw.2.blot = s.blot := rfl
@[simp] theorem State.draw_power (s : State) : s.draw.2.power = s.power := rfl
@[simp] theorem State.draw_mgr (s : State) : s.draw.2.mgr = s.mgr := rfl
@[simp] theorem State.draw_qps (s : State) : s.draw.2.qps = s.qps := rfl
@[simp] theorem State.draw_groups (s : State) : s.draw.2.groups = s.groups := rfl
@[simp] theorem State.draw_ingest (s : State) : s.draw.2.ingest = s.ingest := rfl
@[simp] theorem State.draw_reports (s : State) : s.draw.2.reports = s.reports := rfl
@[simp] theorem State.draw_events (s : State) : s.draw.2.events = s.events := rfl

/-! ### What an update leaves, through the reads -/

@[simp] theorem State.setReg_then_rd (s : State) (k : Nat) (v : Word) (q0 : Nat) : (s.setReg k v).rd q0 = s.rd q0 := rfl
@[simp] theorem State.setReg_then_rdN (s : State) (k : Nat) (v : Word) (q0 n' : Nat) : (s.setReg k v).rdN q0 n' = s.rdN q0 n' := rfl
@[simp] theorem State.setReg_then_rdLe (s : State) (k : Nat) (v : Word) (q0 n' : Nat) : (s.setReg k v).rdLe q0 n' = s.rdLe q0 n' := rfl
@[simp] theorem State.setReg_then_ctx (s : State) (k : Nat) (v : Word) (g0 : Hart) : (s.setReg k v).ctx g0 = s.ctx g0 := rfl
@[simp] theorem State.setReg_then_job (s : State) (k : Nat) (v : Word) (q0 : Nat) : (s.setReg k v).job q0 = s.job q0 := rfl
@[simp] theorem State.setReg_then_cl (s : State) (k : Nat) (v : Word) (q0 : Nat) : (s.setReg k v).cl q0 = s.cl q0 := rfl
@[simp] theorem State.setReg_then_markRt (s : State) (k : Nat) (v : Word) (q0 : Nat) : (s.setReg k v).markRt q0 = s.markRt q0 := rfl
@[simp] theorem State.setReg_then_ring (s : State) (k : Nat) (v : Word) (q0 : Nat) : (s.setReg k v).ring q0 = s.ring q0 := rfl
@[simp] theorem State.setReg_then_qpRt (s : State) (k : Nat) (v : Word) (q0 : Nat) : (s.setReg k v).qpRt q0 = s.qpRt q0 := rfl

@[simp] theorem State.setRfld_then_rd (s : State) (k hi lo x : Nat) (q0 : Nat) : (s.setRfld k hi lo x).rd q0 = s.rd q0 := rfl
@[simp] theorem State.setRfld_then_rdN (s : State) (k hi lo x : Nat) (q0 n' : Nat) : (s.setRfld k hi lo x).rdN q0 n' = s.rdN q0 n' := rfl
@[simp] theorem State.setRfld_then_rdLe (s : State) (k hi lo x : Nat) (q0 n' : Nat) : (s.setRfld k hi lo x).rdLe q0 n' = s.rdLe q0 n' := rfl
@[simp] theorem State.setRfld_then_ctx (s : State) (k hi lo x : Nat) (g0 : Hart) : (s.setRfld k hi lo x).ctx g0 = s.ctx g0 := rfl
@[simp] theorem State.setRfld_then_job (s : State) (k hi lo x : Nat) (q0 : Nat) : (s.setRfld k hi lo x).job q0 = s.job q0 := rfl
@[simp] theorem State.setRfld_then_cl (s : State) (k hi lo x : Nat) (q0 : Nat) : (s.setRfld k hi lo x).cl q0 = s.cl q0 := rfl
@[simp] theorem State.setRfld_then_markRt (s : State) (k hi lo x : Nat) (q0 : Nat) : (s.setRfld k hi lo x).markRt q0 = s.markRt q0 := rfl
@[simp] theorem State.setRfld_then_ring (s : State) (k hi lo x : Nat) (q0 : Nat) : (s.setRfld k hi lo x).ring q0 = s.ring q0 := rfl
@[simp] theorem State.setRfld_then_qpRt (s : State) (k hi lo x : Nat) (q0 : Nat) : (s.setRfld k hi lo x).qpRt q0 = s.qpRt q0 := rfl

@[simp] theorem State.setRbit_then_rd (s : State) (k n : Nat) (b : Bool) (q0 : Nat) : (s.setRbit k n b).rd q0 = s.rd q0 := rfl
@[simp] theorem State.setRbit_then_rdN (s : State) (k n : Nat) (b : Bool) (q0 n' : Nat) : (s.setRbit k n b).rdN q0 n' = s.rdN q0 n' := rfl
@[simp] theorem State.setRbit_then_rdLe (s : State) (k n : Nat) (b : Bool) (q0 n' : Nat) : (s.setRbit k n b).rdLe q0 n' = s.rdLe q0 n' := rfl
@[simp] theorem State.setRbit_then_ctx (s : State) (k n : Nat) (b : Bool) (g0 : Hart) : (s.setRbit k n b).ctx g0 = s.ctx g0 := rfl
@[simp] theorem State.setRbit_then_job (s : State) (k n : Nat) (b : Bool) (q0 : Nat) : (s.setRbit k n b).job q0 = s.job q0 := rfl
@[simp] theorem State.setRbit_then_cl (s : State) (k n : Nat) (b : Bool) (q0 : Nat) : (s.setRbit k n b).cl q0 = s.cl q0 := rfl
@[simp] theorem State.setRbit_then_markRt (s : State) (k n : Nat) (b : Bool) (q0 : Nat) : (s.setRbit k n b).markRt q0 = s.markRt q0 := rfl
@[simp] theorem State.setRbit_then_ring (s : State) (k n : Nat) (b : Bool) (q0 : Nat) : (s.setRbit k n b).ring q0 = s.ring q0 := rfl
@[simp] theorem State.setRbit_then_qpRt (s : State) (k n : Nat) (b : Bool) (q0 : Nat) : (s.setRbit k n b).qpRt q0 = s.qpRt q0 := rfl

@[simp] theorem State.bump_then_rd (s : State) (k : Nat) (q0 : Nat) : (s.bump k).rd q0 = s.rd q0 := rfl
@[simp] theorem State.bump_then_rdN (s : State) (k : Nat) (q0 n' : Nat) : (s.bump k).rdN q0 n' = s.rdN q0 n' := rfl
@[simp] theorem State.bump_then_rdLe (s : State) (k : Nat) (q0 n' : Nat) : (s.bump k).rdLe q0 n' = s.rdLe q0 n' := rfl
@[simp] theorem State.bump_then_ctx (s : State) (k : Nat) (g0 : Hart) : (s.bump k).ctx g0 = s.ctx g0 := rfl
@[simp] theorem State.bump_then_job (s : State) (k : Nat) (q0 : Nat) : (s.bump k).job q0 = s.job q0 := rfl
@[simp] theorem State.bump_then_cl (s : State) (k : Nat) (q0 : Nat) : (s.bump k).cl q0 = s.cl q0 := rfl
@[simp] theorem State.bump_then_markRt (s : State) (k : Nat) (q0 : Nat) : (s.bump k).markRt q0 = s.markRt q0 := rfl
@[simp] theorem State.bump_then_ring (s : State) (k : Nat) (q0 : Nat) : (s.bump k).ring q0 = s.ring q0 := rfl
@[simp] theorem State.bump_then_qpRt (s : State) (k : Nat) (q0 : Nat) : (s.bump k).qpRt q0 = s.qpRt q0 := rfl

@[simp] theorem State.wr_then_reg (s : State) (pa : Nat) (b : Byte) (q0 : Nat) : (s.wr pa b).reg q0 = s.reg q0 := rfl
@[simp] theorem State.wr_then_rfld (s : State) (pa : Nat) (b : Byte) (q0 hi' lo' : Nat) : (s.wr pa b).rfld q0 hi' lo' = s.rfld q0 hi' lo' := rfl
@[simp] theorem State.wr_then_rbit (s : State) (pa : Nat) (b : Byte) (q0 m' : Nat) : (s.wr pa b).rbit q0 m' = s.rbit q0 m' := rfl
@[simp] theorem State.wr_then_ctx (s : State) (pa : Nat) (b : Byte) (g0 : Hart) : (s.wr pa b).ctx g0 = s.ctx g0 := rfl
@[simp] theorem State.wr_then_job (s : State) (pa : Nat) (b : Byte) (q0 : Nat) : (s.wr pa b).job q0 = s.job q0 := rfl
@[simp] theorem State.wr_then_cl (s : State) (pa : Nat) (b : Byte) (q0 : Nat) : (s.wr pa b).cl q0 = s.cl q0 := rfl
@[simp] theorem State.wr_then_markRt (s : State) (pa : Nat) (b : Byte) (q0 : Nat) : (s.wr pa b).markRt q0 = s.markRt q0 := rfl
@[simp] theorem State.wr_then_ring (s : State) (pa : Nat) (b : Byte) (q0 : Nat) : (s.wr pa b).ring q0 = s.ring q0 := rfl
@[simp] theorem State.wr_then_qpRt (s : State) (pa : Nat) (b : Byte) (q0 : Nat) : (s.wr pa b).qpRt q0 = s.qpRt q0 := rfl

@[simp] theorem State.setCtx_then_reg (s : State) (h : Hart) (c : Ctx) (q0 : Nat) : (s.setCtx h c).reg q0 = s.reg q0 := rfl
@[simp] theorem State.setCtx_then_rfld (s : State) (h : Hart) (c : Ctx) (q0 hi' lo' : Nat) : (s.setCtx h c).rfld q0 hi' lo' = s.rfld q0 hi' lo' := rfl
@[simp] theorem State.setCtx_then_rbit (s : State) (h : Hart) (c : Ctx) (q0 m' : Nat) : (s.setCtx h c).rbit q0 m' = s.rbit q0 m' := rfl
@[simp] theorem State.setCtx_then_rd (s : State) (h : Hart) (c : Ctx) (q0 : Nat) : (s.setCtx h c).rd q0 = s.rd q0 := rfl
@[simp] theorem State.setCtx_then_rdN (s : State) (h : Hart) (c : Ctx) (q0 n' : Nat) : (s.setCtx h c).rdN q0 n' = s.rdN q0 n' := rfl
@[simp] theorem State.setCtx_then_rdLe (s : State) (h : Hart) (c : Ctx) (q0 n' : Nat) : (s.setCtx h c).rdLe q0 n' = s.rdLe q0 n' := rfl
@[simp] theorem State.setCtx_then_job (s : State) (h : Hart) (c : Ctx) (q0 : Nat) : (s.setCtx h c).job q0 = s.job q0 := rfl
@[simp] theorem State.setCtx_then_cl (s : State) (h : Hart) (c : Ctx) (q0 : Nat) : (s.setCtx h c).cl q0 = s.cl q0 := rfl
@[simp] theorem State.setCtx_then_markRt (s : State) (h : Hart) (c : Ctx) (q0 : Nat) : (s.setCtx h c).markRt q0 = s.markRt q0 := rfl
@[simp] theorem State.setCtx_then_ring (s : State) (h : Hart) (c : Ctx) (q0 : Nat) : (s.setCtx h c).ring q0 = s.ring q0 := rfl
@[simp] theorem State.setCtx_then_qpRt (s : State) (h : Hart) (c : Ctx) (q0 : Nat) : (s.setCtx h c).qpRt q0 = s.qpRt q0 := rfl

@[simp] theorem State.modCtx_then_reg (s : State) (h : Hart) (f : Ctx → Ctx) (q0 : Nat) : (s.modCtx h f).reg q0 = s.reg q0 := rfl
@[simp] theorem State.modCtx_then_rfld (s : State) (h : Hart) (f : Ctx → Ctx) (q0 hi' lo' : Nat) : (s.modCtx h f).rfld q0 hi' lo' = s.rfld q0 hi' lo' := rfl
@[simp] theorem State.modCtx_then_rbit (s : State) (h : Hart) (f : Ctx → Ctx) (q0 m' : Nat) : (s.modCtx h f).rbit q0 m' = s.rbit q0 m' := rfl
@[simp] theorem State.modCtx_then_rd (s : State) (h : Hart) (f : Ctx → Ctx) (q0 : Nat) : (s.modCtx h f).rd q0 = s.rd q0 := rfl
@[simp] theorem State.modCtx_then_rdN (s : State) (h : Hart) (f : Ctx → Ctx) (q0 n' : Nat) : (s.modCtx h f).rdN q0 n' = s.rdN q0 n' := rfl
@[simp] theorem State.modCtx_then_rdLe (s : State) (h : Hart) (f : Ctx → Ctx) (q0 n' : Nat) : (s.modCtx h f).rdLe q0 n' = s.rdLe q0 n' := rfl
@[simp] theorem State.modCtx_then_job (s : State) (h : Hart) (f : Ctx → Ctx) (q0 : Nat) : (s.modCtx h f).job q0 = s.job q0 := rfl
@[simp] theorem State.modCtx_then_cl (s : State) (h : Hart) (f : Ctx → Ctx) (q0 : Nat) : (s.modCtx h f).cl q0 = s.cl q0 := rfl
@[simp] theorem State.modCtx_then_markRt (s : State) (h : Hart) (f : Ctx → Ctx) (q0 : Nat) : (s.modCtx h f).markRt q0 = s.markRt q0 := rfl
@[simp] theorem State.modCtx_then_ring (s : State) (h : Hart) (f : Ctx → Ctx) (q0 : Nat) : (s.modCtx h f).ring q0 = s.ring q0 := rfl
@[simp] theorem State.modCtx_then_qpRt (s : State) (h : Hart) (f : Ctx → Ctx) (q0 : Nat) : (s.modCtx h f).qpRt q0 = s.qpRt q0 := rfl

@[simp] theorem State.setJob_then_reg (s : State) (j : Nat) (x : Job) (q0 : Nat) : (s.setJob j x).reg q0 = s.reg q0 := rfl
@[simp] theorem State.setJob_then_rfld (s : State) (j : Nat) (x : Job) (q0 hi' lo' : Nat) : (s.setJob j x).rfld q0 hi' lo' = s.rfld q0 hi' lo' := rfl
@[simp] theorem State.setJob_then_rbit (s : State) (j : Nat) (x : Job) (q0 m' : Nat) : (s.setJob j x).rbit q0 m' = s.rbit q0 m' := rfl
@[simp] theorem State.setJob_then_rd (s : State) (j : Nat) (x : Job) (q0 : Nat) : (s.setJob j x).rd q0 = s.rd q0 := rfl
@[simp] theorem State.setJob_then_rdN (s : State) (j : Nat) (x : Job) (q0 n' : Nat) : (s.setJob j x).rdN q0 n' = s.rdN q0 n' := rfl
@[simp] theorem State.setJob_then_rdLe (s : State) (j : Nat) (x : Job) (q0 n' : Nat) : (s.setJob j x).rdLe q0 n' = s.rdLe q0 n' := rfl
@[simp] theorem State.setJob_then_ctx (s : State) (j : Nat) (x : Job) (g0 : Hart) : (s.setJob j x).ctx g0 = s.ctx g0 := rfl
@[simp] theorem State.setJob_then_cl (s : State) (j : Nat) (x : Job) (q0 : Nat) : (s.setJob j x).cl q0 = s.cl q0 := rfl
@[simp] theorem State.setJob_then_markRt (s : State) (j : Nat) (x : Job) (q0 : Nat) : (s.setJob j x).markRt q0 = s.markRt q0 := rfl
@[simp] theorem State.setJob_then_ring (s : State) (j : Nat) (x : Job) (q0 : Nat) : (s.setJob j x).ring q0 = s.ring q0 := rfl
@[simp] theorem State.setJob_then_qpRt (s : State) (j : Nat) (x : Job) (q0 : Nat) : (s.setJob j x).qpRt q0 = s.qpRt q0 := rfl

@[simp] theorem State.setCl_then_reg (s : State) (k : Nat) (c : Cluster) (q0 : Nat) : (s.setCl k c).reg q0 = s.reg q0 := rfl
@[simp] theorem State.setCl_then_rfld (s : State) (k : Nat) (c : Cluster) (q0 hi' lo' : Nat) : (s.setCl k c).rfld q0 hi' lo' = s.rfld q0 hi' lo' := rfl
@[simp] theorem State.setCl_then_rbit (s : State) (k : Nat) (c : Cluster) (q0 m' : Nat) : (s.setCl k c).rbit q0 m' = s.rbit q0 m' := rfl
@[simp] theorem State.setCl_then_rd (s : State) (k : Nat) (c : Cluster) (q0 : Nat) : (s.setCl k c).rd q0 = s.rd q0 := rfl
@[simp] theorem State.setCl_then_rdN (s : State) (k : Nat) (c : Cluster) (q0 n' : Nat) : (s.setCl k c).rdN q0 n' = s.rdN q0 n' := rfl
@[simp] theorem State.setCl_then_rdLe (s : State) (k : Nat) (c : Cluster) (q0 n' : Nat) : (s.setCl k c).rdLe q0 n' = s.rdLe q0 n' := rfl
@[simp] theorem State.setCl_then_ctx (s : State) (k : Nat) (c : Cluster) (g0 : Hart) : (s.setCl k c).ctx g0 = s.ctx g0 := rfl
@[simp] theorem State.setCl_then_job (s : State) (k : Nat) (c : Cluster) (q0 : Nat) : (s.setCl k c).job q0 = s.job q0 := rfl
@[simp] theorem State.setCl_then_markRt (s : State) (k : Nat) (c : Cluster) (q0 : Nat) : (s.setCl k c).markRt q0 = s.markRt q0 := rfl
@[simp] theorem State.setCl_then_ring (s : State) (k : Nat) (c : Cluster) (q0 : Nat) : (s.setCl k c).ring q0 = s.ring q0 := rfl
@[simp] theorem State.setCl_then_qpRt (s : State) (k : Nat) (c : Cluster) (q0 : Nat) : (s.setCl k c).qpRt q0 = s.qpRt q0 := rfl

@[simp] theorem State.modCl_then_reg (s : State) (k : Nat) (f : Cluster → Cluster) (q0 : Nat) : (s.modCl k f).reg q0 = s.reg q0 := rfl
@[simp] theorem State.modCl_then_rfld (s : State) (k : Nat) (f : Cluster → Cluster) (q0 hi' lo' : Nat) : (s.modCl k f).rfld q0 hi' lo' = s.rfld q0 hi' lo' := rfl
@[simp] theorem State.modCl_then_rbit (s : State) (k : Nat) (f : Cluster → Cluster) (q0 m' : Nat) : (s.modCl k f).rbit q0 m' = s.rbit q0 m' := rfl
@[simp] theorem State.modCl_then_rd (s : State) (k : Nat) (f : Cluster → Cluster) (q0 : Nat) : (s.modCl k f).rd q0 = s.rd q0 := rfl
@[simp] theorem State.modCl_then_rdN (s : State) (k : Nat) (f : Cluster → Cluster) (q0 n' : Nat) : (s.modCl k f).rdN q0 n' = s.rdN q0 n' := rfl
@[simp] theorem State.modCl_then_rdLe (s : State) (k : Nat) (f : Cluster → Cluster) (q0 n' : Nat) : (s.modCl k f).rdLe q0 n' = s.rdLe q0 n' := rfl
@[simp] theorem State.modCl_then_ctx (s : State) (k : Nat) (f : Cluster → Cluster) (g0 : Hart) : (s.modCl k f).ctx g0 = s.ctx g0 := rfl
@[simp] theorem State.modCl_then_job (s : State) (k : Nat) (f : Cluster → Cluster) (q0 : Nat) : (s.modCl k f).job q0 = s.job q0 := rfl
@[simp] theorem State.modCl_then_markRt (s : State) (k : Nat) (f : Cluster → Cluster) (q0 : Nat) : (s.modCl k f).markRt q0 = s.markRt q0 := rfl
@[simp] theorem State.modCl_then_ring (s : State) (k : Nat) (f : Cluster → Cluster) (q0 : Nat) : (s.modCl k f).ring q0 = s.ring q0 := rfl
@[simp] theorem State.modCl_then_qpRt (s : State) (k : Nat) (f : Cluster → Cluster) (q0 : Nat) : (s.modCl k f).qpRt q0 = s.qpRt q0 := rfl

@[simp] theorem State.setMarkRt_then_reg (s : State) (n : Nat) (m : MarkRt) (q0 : Nat) : (s.setMarkRt n m).reg q0 = s.reg q0 := rfl
@[simp] theorem State.setMarkRt_then_rfld (s : State) (n : Nat) (m : MarkRt) (q0 hi' lo' : Nat) : (s.setMarkRt n m).rfld q0 hi' lo' = s.rfld q0 hi' lo' := rfl
@[simp] theorem State.setMarkRt_then_rbit (s : State) (n : Nat) (m : MarkRt) (q0 m' : Nat) : (s.setMarkRt n m).rbit q0 m' = s.rbit q0 m' := rfl
@[simp] theorem State.setMarkRt_then_rd (s : State) (n : Nat) (m : MarkRt) (q0 : Nat) : (s.setMarkRt n m).rd q0 = s.rd q0 := rfl
@[simp] theorem State.setMarkRt_then_rdN (s : State) (n : Nat) (m : MarkRt) (q0 n' : Nat) : (s.setMarkRt n m).rdN q0 n' = s.rdN q0 n' := rfl
@[simp] theorem State.setMarkRt_then_rdLe (s : State) (n : Nat) (m : MarkRt) (q0 n' : Nat) : (s.setMarkRt n m).rdLe q0 n' = s.rdLe q0 n' := rfl
@[simp] theorem State.setMarkRt_then_ctx (s : State) (n : Nat) (m : MarkRt) (g0 : Hart) : (s.setMarkRt n m).ctx g0 = s.ctx g0 := rfl
@[simp] theorem State.setMarkRt_then_job (s : State) (n : Nat) (m : MarkRt) (q0 : Nat) : (s.setMarkRt n m).job q0 = s.job q0 := rfl
@[simp] theorem State.setMarkRt_then_cl (s : State) (n : Nat) (m : MarkRt) (q0 : Nat) : (s.setMarkRt n m).cl q0 = s.cl q0 := rfl
@[simp] theorem State.setMarkRt_then_ring (s : State) (n : Nat) (m : MarkRt) (q0 : Nat) : (s.setMarkRt n m).ring q0 = s.ring q0 := rfl
@[simp] theorem State.setMarkRt_then_qpRt (s : State) (n : Nat) (m : MarkRt) (q0 : Nat) : (s.setMarkRt n m).qpRt q0 = s.qpRt q0 := rfl

@[simp] theorem State.setCache_then_reg (s : State) (c : Nat) (x : CacheRt) (q0 : Nat) : (s.setCache c x).reg q0 = s.reg q0 := rfl
@[simp] theorem State.setCache_then_rfld (s : State) (c : Nat) (x : CacheRt) (q0 hi' lo' : Nat) : (s.setCache c x).rfld q0 hi' lo' = s.rfld q0 hi' lo' := rfl
@[simp] theorem State.setCache_then_rbit (s : State) (c : Nat) (x : CacheRt) (q0 m' : Nat) : (s.setCache c x).rbit q0 m' = s.rbit q0 m' := rfl
@[simp] theorem State.setCache_then_rd (s : State) (c : Nat) (x : CacheRt) (q0 : Nat) : (s.setCache c x).rd q0 = s.rd q0 := rfl
@[simp] theorem State.setCache_then_rdN (s : State) (c : Nat) (x : CacheRt) (q0 n' : Nat) : (s.setCache c x).rdN q0 n' = s.rdN q0 n' := rfl
@[simp] theorem State.setCache_then_rdLe (s : State) (c : Nat) (x : CacheRt) (q0 n' : Nat) : (s.setCache c x).rdLe q0 n' = s.rdLe q0 n' := rfl
@[simp] theorem State.setCache_then_ctx (s : State) (c : Nat) (x : CacheRt) (g0 : Hart) : (s.setCache c x).ctx g0 = s.ctx g0 := rfl
@[simp] theorem State.setCache_then_job (s : State) (c : Nat) (x : CacheRt) (q0 : Nat) : (s.setCache c x).job q0 = s.job q0 := rfl
@[simp] theorem State.setCache_then_cl (s : State) (c : Nat) (x : CacheRt) (q0 : Nat) : (s.setCache c x).cl q0 = s.cl q0 := rfl
@[simp] theorem State.setCache_then_markRt (s : State) (c : Nat) (x : CacheRt) (q0 : Nat) : (s.setCache c x).markRt q0 = s.markRt q0 := rfl
@[simp] theorem State.setCache_then_ring (s : State) (c : Nat) (x : CacheRt) (q0 : Nat) : (s.setCache c x).ring q0 = s.ring q0 := rfl
@[simp] theorem State.setCache_then_qpRt (s : State) (c : Nat) (x : CacheRt) (q0 : Nat) : (s.setCache c x).qpRt q0 = s.qpRt q0 := rfl

@[simp] theorem State.setCset_then_reg (s : State) (k : Nat) (x : CSet) (q0 : Nat) : (s.setCset k x).reg q0 = s.reg q0 := rfl
@[simp] theorem State.setCset_then_rfld (s : State) (k : Nat) (x : CSet) (q0 hi' lo' : Nat) : (s.setCset k x).rfld q0 hi' lo' = s.rfld q0 hi' lo' := rfl
@[simp] theorem State.setCset_then_rbit (s : State) (k : Nat) (x : CSet) (q0 m' : Nat) : (s.setCset k x).rbit q0 m' = s.rbit q0 m' := rfl
@[simp] theorem State.setCset_then_rd (s : State) (k : Nat) (x : CSet) (q0 : Nat) : (s.setCset k x).rd q0 = s.rd q0 := rfl
@[simp] theorem State.setCset_then_rdN (s : State) (k : Nat) (x : CSet) (q0 n' : Nat) : (s.setCset k x).rdN q0 n' = s.rdN q0 n' := rfl
@[simp] theorem State.setCset_then_rdLe (s : State) (k : Nat) (x : CSet) (q0 n' : Nat) : (s.setCset k x).rdLe q0 n' = s.rdLe q0 n' := rfl
@[simp] theorem State.setCset_then_ctx (s : State) (k : Nat) (x : CSet) (g0 : Hart) : (s.setCset k x).ctx g0 = s.ctx g0 := rfl
@[simp] theorem State.setCset_then_job (s : State) (k : Nat) (x : CSet) (q0 : Nat) : (s.setCset k x).job q0 = s.job q0 := rfl
@[simp] theorem State.setCset_then_cl (s : State) (k : Nat) (x : CSet) (q0 : Nat) : (s.setCset k x).cl q0 = s.cl q0 := rfl
@[simp] theorem State.setCset_then_markRt (s : State) (k : Nat) (x : CSet) (q0 : Nat) : (s.setCset k x).markRt q0 = s.markRt q0 := rfl
@[simp] theorem State.setCset_then_ring (s : State) (k : Nat) (x : CSet) (q0 : Nat) : (s.setCset k x).ring q0 = s.ring q0 := rfl
@[simp] theorem State.setCset_then_qpRt (s : State) (k : Nat) (x : CSet) (q0 : Nat) : (s.setCset k x).qpRt q0 = s.qpRt q0 := rfl

@[simp] theorem State.setDx_then_reg (s : State) (d : Ductus) (q0 : Nat) : (s.setDx d).reg q0 = s.reg q0 := rfl
@[simp] theorem State.setDx_then_rfld (s : State) (d : Ductus) (q0 hi' lo' : Nat) : (s.setDx d).rfld q0 hi' lo' = s.rfld q0 hi' lo' := rfl
@[simp] theorem State.setDx_then_rbit (s : State) (d : Ductus) (q0 m' : Nat) : (s.setDx d).rbit q0 m' = s.rbit q0 m' := rfl
@[simp] theorem State.setDx_then_rd (s : State) (d : Ductus) (q0 : Nat) : (s.setDx d).rd q0 = s.rd q0 := rfl
@[simp] theorem State.setDx_then_rdN (s : State) (d : Ductus) (q0 n' : Nat) : (s.setDx d).rdN q0 n' = s.rdN q0 n' := rfl
@[simp] theorem State.setDx_then_rdLe (s : State) (d : Ductus) (q0 n' : Nat) : (s.setDx d).rdLe q0 n' = s.rdLe q0 n' := rfl
@[simp] theorem State.setDx_then_ctx (s : State) (d : Ductus) (g0 : Hart) : (s.setDx d).ctx g0 = s.ctx g0 := rfl
@[simp] theorem State.setDx_then_job (s : State) (d : Ductus) (q0 : Nat) : (s.setDx d).job q0 = s.job q0 := rfl
@[simp] theorem State.setDx_then_cl (s : State) (d : Ductus) (q0 : Nat) : (s.setDx d).cl q0 = s.cl q0 := rfl
@[simp] theorem State.setDx_then_markRt (s : State) (d : Ductus) (q0 : Nat) : (s.setDx d).markRt q0 = s.markRt q0 := rfl
@[simp] theorem State.setDx_then_ring (s : State) (d : Ductus) (q0 : Nat) : (s.setDx d).ring q0 = s.ring q0 := rfl
@[simp] theorem State.setDx_then_qpRt (s : State) (d : Ductus) (q0 : Nat) : (s.setDx d).qpRt q0 = s.qpRt q0 := rfl

@[simp] theorem State.setTable_then_reg (s : State) (j t : Nat) (x : TableRt) (q0 : Nat) : (s.setTable j t x).reg q0 = s.reg q0 := rfl
@[simp] theorem State.setTable_then_rfld (s : State) (j t : Nat) (x : TableRt) (q0 hi' lo' : Nat) : (s.setTable j t x).rfld q0 hi' lo' = s.rfld q0 hi' lo' := rfl
@[simp] theorem State.setTable_then_rbit (s : State) (j t : Nat) (x : TableRt) (q0 m' : Nat) : (s.setTable j t x).rbit q0 m' = s.rbit q0 m' := rfl
@[simp] theorem State.setTable_then_rd (s : State) (j t : Nat) (x : TableRt) (q0 : Nat) : (s.setTable j t x).rd q0 = s.rd q0 := rfl
@[simp] theorem State.setTable_then_rdN (s : State) (j t : Nat) (x : TableRt) (q0 n' : Nat) : (s.setTable j t x).rdN q0 n' = s.rdN q0 n' := rfl
@[simp] theorem State.setTable_then_rdLe (s : State) (j t : Nat) (x : TableRt) (q0 n' : Nat) : (s.setTable j t x).rdLe q0 n' = s.rdLe q0 n' := rfl
@[simp] theorem State.setTable_then_ctx (s : State) (j t : Nat) (x : TableRt) (g0 : Hart) : (s.setTable j t x).ctx g0 = s.ctx g0 := rfl
@[simp] theorem State.setTable_then_job (s : State) (j t : Nat) (x : TableRt) (q0 : Nat) : (s.setTable j t x).job q0 = s.job q0 := rfl
@[simp] theorem State.setTable_then_cl (s : State) (j t : Nat) (x : TableRt) (q0 : Nat) : (s.setTable j t x).cl q0 = s.cl q0 := rfl
@[simp] theorem State.setTable_then_markRt (s : State) (j t : Nat) (x : TableRt) (q0 : Nat) : (s.setTable j t x).markRt q0 = s.markRt q0 := rfl
@[simp] theorem State.setTable_then_ring (s : State) (j t : Nat) (x : TableRt) (q0 : Nat) : (s.setTable j t x).ring q0 = s.ring q0 := rfl
@[simp] theorem State.setTable_then_qpRt (s : State) (j t : Nat) (x : TableRt) (q0 : Nat) : (s.setTable j t x).qpRt q0 = s.qpRt q0 := rfl

@[simp] theorem State.setRing_then_reg (s : State) (r : Nat) (x : Ring) (q0 : Nat) : (s.setRing r x).reg q0 = s.reg q0 := rfl
@[simp] theorem State.setRing_then_rfld (s : State) (r : Nat) (x : Ring) (q0 hi' lo' : Nat) : (s.setRing r x).rfld q0 hi' lo' = s.rfld q0 hi' lo' := rfl
@[simp] theorem State.setRing_then_rbit (s : State) (r : Nat) (x : Ring) (q0 m' : Nat) : (s.setRing r x).rbit q0 m' = s.rbit q0 m' := rfl
@[simp] theorem State.setRing_then_rd (s : State) (r : Nat) (x : Ring) (q0 : Nat) : (s.setRing r x).rd q0 = s.rd q0 := rfl
@[simp] theorem State.setRing_then_rdN (s : State) (r : Nat) (x : Ring) (q0 n' : Nat) : (s.setRing r x).rdN q0 n' = s.rdN q0 n' := rfl
@[simp] theorem State.setRing_then_rdLe (s : State) (r : Nat) (x : Ring) (q0 n' : Nat) : (s.setRing r x).rdLe q0 n' = s.rdLe q0 n' := rfl
@[simp] theorem State.setRing_then_ctx (s : State) (r : Nat) (x : Ring) (g0 : Hart) : (s.setRing r x).ctx g0 = s.ctx g0 := rfl
@[simp] theorem State.setRing_then_job (s : State) (r : Nat) (x : Ring) (q0 : Nat) : (s.setRing r x).job q0 = s.job q0 := rfl
@[simp] theorem State.setRing_then_cl (s : State) (r : Nat) (x : Ring) (q0 : Nat) : (s.setRing r x).cl q0 = s.cl q0 := rfl
@[simp] theorem State.setRing_then_markRt (s : State) (r : Nat) (x : Ring) (q0 : Nat) : (s.setRing r x).markRt q0 = s.markRt q0 := rfl
@[simp] theorem State.setRing_then_qpRt (s : State) (r : Nat) (x : Ring) (q0 : Nat) : (s.setRing r x).qpRt q0 = s.qpRt q0 := rfl

@[simp] theorem State.modRing_then_reg (s : State) (r : Nat) (f : Ring → Ring) (q0 : Nat) : (s.modRing r f).reg q0 = s.reg q0 := rfl
@[simp] theorem State.modRing_then_rfld (s : State) (r : Nat) (f : Ring → Ring) (q0 hi' lo' : Nat) : (s.modRing r f).rfld q0 hi' lo' = s.rfld q0 hi' lo' := rfl
@[simp] theorem State.modRing_then_rbit (s : State) (r : Nat) (f : Ring → Ring) (q0 m' : Nat) : (s.modRing r f).rbit q0 m' = s.rbit q0 m' := rfl
@[simp] theorem State.modRing_then_rd (s : State) (r : Nat) (f : Ring → Ring) (q0 : Nat) : (s.modRing r f).rd q0 = s.rd q0 := rfl
@[simp] theorem State.modRing_then_rdN (s : State) (r : Nat) (f : Ring → Ring) (q0 n' : Nat) : (s.modRing r f).rdN q0 n' = s.rdN q0 n' := rfl
@[simp] theorem State.modRing_then_rdLe (s : State) (r : Nat) (f : Ring → Ring) (q0 n' : Nat) : (s.modRing r f).rdLe q0 n' = s.rdLe q0 n' := rfl
@[simp] theorem State.modRing_then_ctx (s : State) (r : Nat) (f : Ring → Ring) (g0 : Hart) : (s.modRing r f).ctx g0 = s.ctx g0 := rfl
@[simp] theorem State.modRing_then_job (s : State) (r : Nat) (f : Ring → Ring) (q0 : Nat) : (s.modRing r f).job q0 = s.job q0 := rfl
@[simp] theorem State.modRing_then_cl (s : State) (r : Nat) (f : Ring → Ring) (q0 : Nat) : (s.modRing r f).cl q0 = s.cl q0 := rfl
@[simp] theorem State.modRing_then_markRt (s : State) (r : Nat) (f : Ring → Ring) (q0 : Nat) : (s.modRing r f).markRt q0 = s.markRt q0 := rfl
@[simp] theorem State.modRing_then_qpRt (s : State) (r : Nat) (f : Ring → Ring) (q0 : Nat) : (s.modRing r f).qpRt q0 = s.qpRt q0 := rfl

@[simp] theorem State.setQp_then_reg (s : State) (q : Nat) (x : QpRt) (q0 : Nat) : (s.setQp q x).reg q0 = s.reg q0 := rfl
@[simp] theorem State.setQp_then_rfld (s : State) (q : Nat) (x : QpRt) (q0 hi' lo' : Nat) : (s.setQp q x).rfld q0 hi' lo' = s.rfld q0 hi' lo' := rfl
@[simp] theorem State.setQp_then_rbit (s : State) (q : Nat) (x : QpRt) (q0 m' : Nat) : (s.setQp q x).rbit q0 m' = s.rbit q0 m' := rfl
@[simp] theorem State.setQp_then_rd (s : State) (q : Nat) (x : QpRt) (q0 : Nat) : (s.setQp q x).rd q0 = s.rd q0 := rfl
@[simp] theorem State.setQp_then_rdN (s : State) (q : Nat) (x : QpRt) (q0 n' : Nat) : (s.setQp q x).rdN q0 n' = s.rdN q0 n' := rfl
@[simp] theorem State.setQp_then_rdLe (s : State) (q : Nat) (x : QpRt) (q0 n' : Nat) : (s.setQp q x).rdLe q0 n' = s.rdLe q0 n' := rfl
@[simp] theorem State.setQp_then_ctx (s : State) (q : Nat) (x : QpRt) (g0 : Hart) : (s.setQp q x).ctx g0 = s.ctx g0 := rfl
@[simp] theorem State.setQp_then_job (s : State) (q : Nat) (x : QpRt) (q0 : Nat) : (s.setQp q x).job q0 = s.job q0 := rfl
@[simp] theorem State.setQp_then_cl (s : State) (q : Nat) (x : QpRt) (q0 : Nat) : (s.setQp q x).cl q0 = s.cl q0 := rfl
@[simp] theorem State.setQp_then_markRt (s : State) (q : Nat) (x : QpRt) (q0 : Nat) : (s.setQp q x).markRt q0 = s.markRt q0 := rfl
@[simp] theorem State.setQp_then_ring (s : State) (q : Nat) (x : QpRt) (q0 : Nat) : (s.setQp q x).ring q0 = s.ring q0 := rfl

@[simp] theorem State.setLan_then_reg (s : State) (l : Lan) (q0 : Nat) : (s.setLan l).reg q0 = s.reg q0 := rfl
@[simp] theorem State.setLan_then_rfld (s : State) (l : Lan) (q0 hi' lo' : Nat) : (s.setLan l).rfld q0 hi' lo' = s.rfld q0 hi' lo' := rfl
@[simp] theorem State.setLan_then_rbit (s : State) (l : Lan) (q0 m' : Nat) : (s.setLan l).rbit q0 m' = s.rbit q0 m' := rfl
@[simp] theorem State.setLan_then_rd (s : State) (l : Lan) (q0 : Nat) : (s.setLan l).rd q0 = s.rd q0 := rfl
@[simp] theorem State.setLan_then_rdN (s : State) (l : Lan) (q0 n' : Nat) : (s.setLan l).rdN q0 n' = s.rdN q0 n' := rfl
@[simp] theorem State.setLan_then_rdLe (s : State) (l : Lan) (q0 n' : Nat) : (s.setLan l).rdLe q0 n' = s.rdLe q0 n' := rfl
@[simp] theorem State.setLan_then_ctx (s : State) (l : Lan) (g0 : Hart) : (s.setLan l).ctx g0 = s.ctx g0 := rfl
@[simp] theorem State.setLan_then_job (s : State) (l : Lan) (q0 : Nat) : (s.setLan l).job q0 = s.job q0 := rfl
@[simp] theorem State.setLan_then_cl (s : State) (l : Lan) (q0 : Nat) : (s.setLan l).cl q0 = s.cl q0 := rfl
@[simp] theorem State.setLan_then_markRt (s : State) (l : Lan) (q0 : Nat) : (s.setLan l).markRt q0 = s.markRt q0 := rfl
@[simp] theorem State.setLan_then_ring (s : State) (l : Lan) (q0 : Nat) : (s.setLan l).ring q0 = s.ring q0 := rfl
@[simp] theorem State.setLan_then_qpRt (s : State) (l : Lan) (q0 : Nat) : (s.setLan l).qpRt q0 = s.qpRt q0 := rfl

@[simp] theorem State.setTwin_then_reg (s : State) (t : Twin) (q0 : Nat) : (s.setTwin t).reg q0 = s.reg q0 := rfl
@[simp] theorem State.setTwin_then_rfld (s : State) (t : Twin) (q0 hi' lo' : Nat) : (s.setTwin t).rfld q0 hi' lo' = s.rfld q0 hi' lo' := rfl
@[simp] theorem State.setTwin_then_rbit (s : State) (t : Twin) (q0 m' : Nat) : (s.setTwin t).rbit q0 m' = s.rbit q0 m' := rfl
@[simp] theorem State.setTwin_then_rd (s : State) (t : Twin) (q0 : Nat) : (s.setTwin t).rd q0 = s.rd q0 := rfl
@[simp] theorem State.setTwin_then_rdN (s : State) (t : Twin) (q0 n' : Nat) : (s.setTwin t).rdN q0 n' = s.rdN q0 n' := rfl
@[simp] theorem State.setTwin_then_rdLe (s : State) (t : Twin) (q0 n' : Nat) : (s.setTwin t).rdLe q0 n' = s.rdLe q0 n' := rfl
@[simp] theorem State.setTwin_then_ctx (s : State) (t : Twin) (g0 : Hart) : (s.setTwin t).ctx g0 = s.ctx g0 := rfl
@[simp] theorem State.setTwin_then_job (s : State) (t : Twin) (q0 : Nat) : (s.setTwin t).job q0 = s.job q0 := rfl
@[simp] theorem State.setTwin_then_cl (s : State) (t : Twin) (q0 : Nat) : (s.setTwin t).cl q0 = s.cl q0 := rfl
@[simp] theorem State.setTwin_then_markRt (s : State) (t : Twin) (q0 : Nat) : (s.setTwin t).markRt q0 = s.markRt q0 := rfl
@[simp] theorem State.setTwin_then_ring (s : State) (t : Twin) (q0 : Nat) : (s.setTwin t).ring q0 = s.ring q0 := rfl
@[simp] theorem State.setTwin_then_qpRt (s : State) (t : Twin) (q0 : Nat) : (s.setTwin t).qpRt q0 = s.qpRt q0 := rfl

@[simp] theorem State.setMgr_then_reg (s : State) (m : Mgr) (q0 : Nat) : (s.setMgr m).reg q0 = s.reg q0 := rfl
@[simp] theorem State.setMgr_then_rfld (s : State) (m : Mgr) (q0 hi' lo' : Nat) : (s.setMgr m).rfld q0 hi' lo' = s.rfld q0 hi' lo' := rfl
@[simp] theorem State.setMgr_then_rbit (s : State) (m : Mgr) (q0 m' : Nat) : (s.setMgr m).rbit q0 m' = s.rbit q0 m' := rfl
@[simp] theorem State.setMgr_then_rd (s : State) (m : Mgr) (q0 : Nat) : (s.setMgr m).rd q0 = s.rd q0 := rfl
@[simp] theorem State.setMgr_then_rdN (s : State) (m : Mgr) (q0 n' : Nat) : (s.setMgr m).rdN q0 n' = s.rdN q0 n' := rfl
@[simp] theorem State.setMgr_then_rdLe (s : State) (m : Mgr) (q0 n' : Nat) : (s.setMgr m).rdLe q0 n' = s.rdLe q0 n' := rfl
@[simp] theorem State.setMgr_then_ctx (s : State) (m : Mgr) (g0 : Hart) : (s.setMgr m).ctx g0 = s.ctx g0 := rfl
@[simp] theorem State.setMgr_then_job (s : State) (m : Mgr) (q0 : Nat) : (s.setMgr m).job q0 = s.job q0 := rfl
@[simp] theorem State.setMgr_then_cl (s : State) (m : Mgr) (q0 : Nat) : (s.setMgr m).cl q0 = s.cl q0 := rfl
@[simp] theorem State.setMgr_then_markRt (s : State) (m : Mgr) (q0 : Nat) : (s.setMgr m).markRt q0 = s.markRt q0 := rfl
@[simp] theorem State.setMgr_then_ring (s : State) (m : Mgr) (q0 : Nat) : (s.setMgr m).ring q0 = s.ring q0 := rfl
@[simp] theorem State.setMgr_then_qpRt (s : State) (m : Mgr) (q0 : Nat) : (s.setMgr m).qpRt q0 = s.qpRt q0 := rfl

@[simp] theorem State.modPower_then_reg (s : State) (f : Power → Power) (q0 : Nat) : (s.modPower f).reg q0 = s.reg q0 := rfl
@[simp] theorem State.modPower_then_rfld (s : State) (f : Power → Power) (q0 hi' lo' : Nat) : (s.modPower f).rfld q0 hi' lo' = s.rfld q0 hi' lo' := rfl
@[simp] theorem State.modPower_then_rbit (s : State) (f : Power → Power) (q0 m' : Nat) : (s.modPower f).rbit q0 m' = s.rbit q0 m' := rfl
@[simp] theorem State.modPower_then_rd (s : State) (f : Power → Power) (q0 : Nat) : (s.modPower f).rd q0 = s.rd q0 := rfl
@[simp] theorem State.modPower_then_rdN (s : State) (f : Power → Power) (q0 n' : Nat) : (s.modPower f).rdN q0 n' = s.rdN q0 n' := rfl
@[simp] theorem State.modPower_then_rdLe (s : State) (f : Power → Power) (q0 n' : Nat) : (s.modPower f).rdLe q0 n' = s.rdLe q0 n' := rfl
@[simp] theorem State.modPower_then_ctx (s : State) (f : Power → Power) (g0 : Hart) : (s.modPower f).ctx g0 = s.ctx g0 := rfl
@[simp] theorem State.modPower_then_job (s : State) (f : Power → Power) (q0 : Nat) : (s.modPower f).job q0 = s.job q0 := rfl
@[simp] theorem State.modPower_then_cl (s : State) (f : Power → Power) (q0 : Nat) : (s.modPower f).cl q0 = s.cl q0 := rfl
@[simp] theorem State.modPower_then_markRt (s : State) (f : Power → Power) (q0 : Nat) : (s.modPower f).markRt q0 = s.markRt q0 := rfl
@[simp] theorem State.modPower_then_ring (s : State) (f : Power → Power) (q0 : Nat) : (s.modPower f).ring q0 = s.ring q0 := rfl
@[simp] theorem State.modPower_then_qpRt (s : State) (f : Power → Power) (q0 : Nat) : (s.modPower f).qpRt q0 = s.qpRt q0 := rfl

@[simp] theorem State.report_then_reg (s : State) (r : Report) (q0 : Nat) : (s.report r).reg q0 = s.reg q0 := rfl
@[simp] theorem State.report_then_rfld (s : State) (r : Report) (q0 hi' lo' : Nat) : (s.report r).rfld q0 hi' lo' = s.rfld q0 hi' lo' := rfl
@[simp] theorem State.report_then_rbit (s : State) (r : Report) (q0 m' : Nat) : (s.report r).rbit q0 m' = s.rbit q0 m' := rfl
@[simp] theorem State.report_then_rd (s : State) (r : Report) (q0 : Nat) : (s.report r).rd q0 = s.rd q0 := rfl
@[simp] theorem State.report_then_rdN (s : State) (r : Report) (q0 n' : Nat) : (s.report r).rdN q0 n' = s.rdN q0 n' := rfl
@[simp] theorem State.report_then_rdLe (s : State) (r : Report) (q0 n' : Nat) : (s.report r).rdLe q0 n' = s.rdLe q0 n' := rfl
@[simp] theorem State.report_then_ctx (s : State) (r : Report) (g0 : Hart) : (s.report r).ctx g0 = s.ctx g0 := rfl
@[simp] theorem State.report_then_job (s : State) (r : Report) (q0 : Nat) : (s.report r).job q0 = s.job q0 := rfl
@[simp] theorem State.report_then_cl (s : State) (r : Report) (q0 : Nat) : (s.report r).cl q0 = s.cl q0 := rfl
@[simp] theorem State.report_then_markRt (s : State) (r : Report) (q0 : Nat) : (s.report r).markRt q0 = s.markRt q0 := rfl
@[simp] theorem State.report_then_ring (s : State) (r : Report) (q0 : Nat) : (s.report r).ring q0 = s.ring q0 := rfl
@[simp] theorem State.report_then_qpRt (s : State) (r : Report) (q0 : Nat) : (s.report r).qpRt q0 = s.qpRt q0 := rfl

/-! ### Reading back -/

theorem State.reg_setReg (s : State) (k q : Nat) (v : Word) : (s.setReg k v).reg q = if q = k then v else s.reg q := smapGet_set _ _ _ _ _
@[simp] theorem State.reg_setReg_self (s : State) (k : Nat) (v : Word) : (s.setReg k v).reg k = v := by rw [State.reg_setReg, if_pos rfl]
theorem State.reg_setReg_ne (s : State) {k q : Nat} (v : Word) (h : q ≠ k) : (s.setReg k v).reg q = s.reg q := by
  rw [State.reg_setReg, if_neg h]
theorem State.reg_setRfld_ne (s : State) {k q : Nat} (hi lo x : Nat) (h : q ≠ k) : (s.setRfld k hi lo x).reg q = s.reg q := s.reg_setReg_ne _ h
theorem State.reg_setRbit_ne (s : State) {k q : Nat} (n : Nat) (b : Bool) (h : q ≠ k) : (s.setRbit k n b).reg q = s.reg q := s.reg_setReg_ne _ h
@[simp] theorem State.reg_bump_self (s : State) (k : Nat) : (s.bump k).reg k = s.reg k + 1 := by
  rw [State.bump, State.bumpBy, State.reg_setReg_self]; rfl
theorem State.reg_bump_ne (s : State) {k q : Nat} (h : q ≠ k) : (s.bump k).reg q = s.reg q := s.reg_setReg_ne _ h
theorem State.rbit_setRbit (s : State) (k n m : Nat) (b : Bool) (hm : m < 64) :
    (s.setRbit k n b).rbit k m = if m = n then b else s.rbit k m := by
  rw [State.rbit, State.setRbit, State.reg_setReg_self, bitOf_setBit _ _ _ _ hm]; rfl
theorem State.rfld_setRfld (s : State) (k hi lo x : Nat) (h : lo ≤ hi) (h64 : hi < 64) :
    (s.setRfld k hi lo x).rfld k hi lo = x % 2 ^ (hi - lo + 1) := by
  rw [State.rfld, State.setRfld, State.reg_setReg_self, fld_setFld _ _ _ _ h h64]
theorem State.rfld_setRfld_apart (s : State) (k hi lo hi' lo' x : Nat) (h : lo' ≤ hi') (h64 : hi' < 64) (ha : hi < lo' ∨ hi' < lo) (h' : lo ≤ hi) :
    (s.setRfld k hi lo x).rfld k hi' lo' = s.rfld k hi' lo' := by
  rw [State.rfld, State.setRfld, State.reg_setReg_self, fld_setFld_apart _ _ _ _ _ _ h h64 ha h']; rfl

theorem State.rd_wr (s : State) (a q : Nat) (b : Byte) : (s.wr a b).rd q = if q = a then b else s.rd q := smapGet_set _ _ _ _ _
theorem State.rd_wrRaw (s : State) (a q : Nat) (bs : List Byte) :
    (s.wrRaw a bs).rd q = if a ≤ q ∧ q < a + bs.length then bs.getD (q - a) 0 else s.rd q := by
  induction bs generalizing s a with
  | nil => rw [State.wrRaw, if_neg]; simp
  | cons b r ih =>
    rw [State.wrRaw, ih, State.rd_wr]
    by_cases h : q = a
    · subst h
      rw [if_neg (by omega), if_pos rfl, if_pos (by simp)]
      simp
    · by_cases h' : a + 1 ≤ q ∧ q < a + 1 + r.length
      · rw [if_pos h', if_pos (by simp only [List.length_cons]; omega)]
        rw [show q - a = (q - (a + 1)) + 1 by omega, List.getD_cons_succ]
      · rw [if_neg h', if_neg h, if_neg (by simp only [List.length_cons]; omega)]
/-- A write of bytes writes those bytes and leaves every other. -/
theorem State.rd_wrN (s : State) (a q : Nat) (bs : List Byte) :
    (s.wrN a bs).rd q = if a ≤ q ∧ q < a + bs.length then bs.getD (q - a) 0 else s.rd q := s.rd_wrRaw a q bs
theorem State.rd_wrN_out (s : State) {a q : Nat} {bs : List Byte} (h : q < a ∨ a + bs.length ≤ q) : (s.wrN a bs).rd q = s.rd q := by
  rw [State.rd_wrN, if_neg (by omega)]
/-- What was written reads back. -/
theorem State.rdN_wrN (s : State) (a : Nat) (bs : List Byte) : (s.wrN a bs).rdN a bs.length = bs := by
  apply List.ext_getElem
  · simp [State.rdN, upto]
  · intro i h1 h2
    simp only [State.rdN, upto, List.getElem_map, List.getElem_range]
    rw [State.rd_wrN, if_pos (by omega)]
    simp [List.getD_eq_getElem?_getD, h2]

theorem State.ctx_setCtx (s : State) (h g : Hart) (c : Ctx) : (s.setCtx h c).ctx g = if hartKey g = hartKey h then c else s.ctx g :=
  smapGet_set _ _ _ _ _
@[simp] theorem State.ctx_setCtx_self (s : State) (h : Hart) (c : Ctx) : (s.setCtx h c).ctx h = c := by rw [State.ctx_setCtx, if_pos rfl]
@[simp] theorem State.ctx_modCtx_self (s : State) (h : Hart) (f : Ctx → Ctx) : (s.modCtx h f).ctx h = f (s.ctx h) := s.ctx_setCtx_self h _
theorem State.job_setJob (s : State) (j q : Nat) (x : Job) : (s.setJob j x).job q = if q = j then x else s.job q := smapGet_set _ _ _ _ _
@[simp] theorem State.job_setJob_self (s : State) (j : Nat) (x : Job) : (s.setJob j x).job j = x := by rw [State.job_setJob, if_pos rfl]
theorem State.cl_setCl (s : State) (k q : Nat) (c : Cluster) : (s.setCl k c).cl q = if q = k then c else s.cl q := smapGet_set _ _ _ _ _
@[simp] theorem State.cl_setCl_self (s : State) (k : Nat) (c : Cluster) : (s.setCl k c).cl k = c := by rw [State.cl_setCl, if_pos rfl]
@[simp] theorem State.cl_modCl_self (s : State) (k : Nat) (f : Cluster → Cluster) : (s.modCl k f).cl k = f (s.cl k) := s.cl_setCl_self k _
theorem State.markRt_setMarkRt (s : State) (n q : Nat) (m : MarkRt) : (s.setMarkRt n m).markRt q = if q = n then m else s.markRt q :=
  smapGet_set _ _ _ _ _
@[simp] theorem State.markRt_setMarkRt_self (s : State) (n : Nat) (m : MarkRt) : (s.setMarkRt n m).markRt n = m := by
  rw [State.markRt_setMarkRt, if_pos rfl]
theorem State.ring_setRing (s : State) (r q : Nat) (x : Ring) : (s.setRing r x).ring q = if q = r then x else s.ring q := smapGet_set _ _ _ _ _
@[simp] theorem State.ring_setRing_self (s : State) (r : Nat) (x : Ring) : (s.setRing r x).ring r = x := by rw [State.ring_setRing, if_pos rfl]
@[simp] theorem State.ring_modRing_self (s : State) (r : Nat) (f : Ring → Ring) : (s.modRing r f).ring r = f (s.ring r) := s.ring_setRing_self r _
theorem State.qpRt_setQp (s : State) (p q : Nat) (x : QpRt) : (s.setQp p x).qpRt q = if q = p then x else s.qpRt q := smapGet_set _ _ _ _ _

/-! ### The registers of a context -/

@[simp] theorem Ctx.getA_zero (c : Ctx) : c.getA 0 = 0 := rfl
@[simp] theorem Ctx.setA_zero (c : Ctx) (v : Word) : c.setA 0 v = c := rfl
theorem Ctx.getA_setA (c : Ctx) (r q : Nat) (v : Word) (h : r ≠ 0) : (c.setA r v).getA q = if q = r then v else c.getA q := by
  unfold Ctx.setA Ctx.getA
  rw [if_neg h]
  by_cases hq : q = 0
  · subst hq; rw [if_pos rfl, if_neg (Ne.symm h), if_pos rfl]
  · rw [if_neg hq, if_neg hq]; exact smapGet_set _ _ _ _ _
@[simp] theorem Ctx.getM_zero (c : Ctx) : c.getM 0 = BitVec.allOnes 64 := rfl
@[simp] theorem Ctx.setM_zero (c : Ctx) (v : Word) : c.setM 0 v = c := rfl
theorem Ctx.getM_setM (c : Ctx) (r q : Nat) (v : Word) (h : r ≠ 0) : (c.setM r v).getM q = if q = r then v else c.getM q := by
  unfold Ctx.setM Ctx.getM
  rw [if_neg h]
  by_cases hq : q = 0
  · subst hq; rw [if_pos rfl, if_neg (Ne.symm h), if_pos rfl]
  · rw [if_neg hq, if_neg hq]; exact smapGet_set _ _ _ _ _
theorem Ctx.getV_setV (c : Ctx) (r l q m : Nat) (x : Lane) :
    (c.setV r l x).getV q m = if 64 * q + m = 64 * r + l then x else c.getV q m := smapGet_set _ _ _ _ _
theorem Ctx.getSd_setSd (c : Ctx) (r q : Nat) (b : List Byte) : (c.setSd r b).getSd q = if q = r then b else c.getSd q := smapGet_set _ _ _ _ _
@[simp] theorem Ctx.next_pc (c : Ctx) : c.next.pc = pc48 (c.pc + 8) := rfl
@[simp] theorem Ctx.next_run (c : Ctx) : c.next.run = .ready := rfl
@[simp] theorem Ctx.next_a (c : Ctx) : c.next.a = c.a := rfl
@[simp] theorem Ctx.next_m (c : Ctx) : c.next.m = c.m := rfl
@[simp] theorem Ctx.next_v (c : Ctx) : c.next.v = c.v := rfl
@[simp] theorem Ctx.next_sd (c : Ctx) : c.next.sd = c.sd := rfl
@[simp] theorem Ctx.next_task (c : Ctx) : c.next.task = c.task := rfl

end Sys2Proof.Machine
end

