-- ==== Sys2Proof/WellFormed.lean ====
section
/-! DEFINITION. Which commands name things that the block has: contexts, clusters, regions, jobs, marks, ring pairs, queue pairs,
ports, lines and registers (R10, R19, R70, R298, R326, R374, R438, R491, R500, R545, R548). -/

namespace Sys2Proof

/-- A number below a count. -/
def below (x n : Nat) : Bool := decide (x < n)

/-- A context: 128 control cores and 4 copyists, two contexts each (R70, R491). -/
def hartOk (h : Hart) : Bool := below h.core 132 && below h.ctx 2

/-- The header of a submission entry: a ring pair and a job (R500, R501). -/
def hdrOk (e : EntryHdr) : Bool := below e.ring 64 && below e.job 16

/-- A line address: a multiple of 64 in the 48-bit space (R543). -/
def lineOk (a : Nat) : Bool := decide (a % 64 = 0) && below a 281474976710656

/-- A Ledger entry (R514). -/
def entryOk (e : Nat) : Bool := decide (1 ≤ e) && below e 11

/-- So many bytes. -/
def bytesOk (n : Nat) (d : List Byte) : Bool := decide (d.length = n)

/-- Is the command well formed? -/
def Instr.wf (i : Instr) : Bool :=
  match i with
  | .add h _ => hartOk h
  | .sub h _ => hartOk h
  | .and h _ => hartOk h
  | .or h _ => hartOk h
  | .xor h _ => hartOk h
  | .andn h _ => hartOk h
  | .sll h _ => hartOk h
  | .srl h _ => hartOk h
  | .sra h _ => hartOk h
  | .slt h _ => hartOk h
  | .sltu h _ => hartOk h
  | .min h _ => hartOk h
  | .max h _ => hartOk h
  | .minu h _ => hartOk h
  | .maxu h _ => hartOk h
  | .mul h _ => hartOk h
  | .mulh h _ => hartOk h
  | .mulhu h _ => hartOk h
  | .div h _ => hartOk h
  | .divu h _ => hartOk h
  | .rem h _ => hartOk h
  | .remu h _ => hartOk h
  | .clz h _ => hartOk h
  | .ctz h _ => hartOk h
  | .popc h _ => hartOk h
  | .addi h _ => hartOk h
  | .andi h _ => hartOk h
  | .ori h _ => hartOk h
  | .xori h _ => hartOk h
  | .slli h _ => hartOk h
  | .srli h _ => hartOk h
  | .srai h _ => hartOk h
  | .slti h _ => hartOk h
  | .sltiu h _ => hartOk h
  | .movi h _ => hartOk h
  | .movhi h _ => hartOk h
  | .auipc h _ => hartOk h
  | .fadd h _ => hartOk h
  | .fsub h _ => hartOk h
  | .fmul h _ => hartOk h
  | .fdiv h _ => hartOk h
  | .fsqrt h _ => hartOk h
  | .fma h _ => hartOk h
  | .fmin h _ => hartOk h
  | .fmax h _ => hartOk h
  | .feq h _ => hartOk h
  | .flt h _ => hartOk h
  | .fle h _ => hartOk h
  | .fcvtI h _ => hartOk h
  | .fcvtF h _ => hartOk h
  | .fcvtP h _ => hartOk h
  | .fclass h _ => hartOk h
  | .beq h _ => hartOk h
  | .bne h _ => hartOk h
  | .blt h _ => hartOk h
  | .bge h _ => hartOk h
  | .bltu h _ => hartOk h
  | .bgeu h _ => hartOk h
  | .bmany h _ => hartOk h
  | .bmnone h _ => hartOk h
  | .jal h _ => hartOk h
  | .jalr h _ => hartOk h
  | .ldB h _ => hartOk h
  | .ldH h _ => hartOk h
  | .ldW h _ => hartOk h
  | .ldD h _ => hartOk h
  | .ldBu h _ => hartOk h
  | .ldHu h _ => hartOk h
  | .ldWu h _ => hartOk h
  | .stB h _ => hartOk h
  | .stH h _ => hartOk h
  | .stW h _ => hartOk h
  | .stD h _ => hartOk h
  | .dsLd h _ => hartOk h
  | .dsSt h _ => hartOk h
  | .dsClr h _ => hartOk h
  | .cZero h _ => hartOk h
  | .cClean h _ => hartOk h
  | .cFlush h _ => hartOk h
  | .iSync h _ => hartOk h
  | .fence h _ => hartOk h
  | .amoSwap h _ => hartOk h
  | .amoAdd h _ => hartOk h
  | .amoAnd h _ => hartOk h
  | .amoOr h _ => hartOk h
  | .amoXor h _ => hartOk h
  | .amoMin h _ => hartOk h
  | .amoMax h _ => hartOk h
  | .amoMinu h _ => hartOk h
  | .amoMaxu h _ => hartOk h
  | .amoCas h _ => hartOk h
  | .mAnd h _ => hartOk h
  | .mOr h _ => hartOk h
  | .mXor h _ => hartOk h
  | .mAndn h _ => hartOk h
  | .mNot h _ => hartOk h
  | .mFroma h _ => hartOk h
  | .mToa h _ => hartOk h
  | .mPopc h _ => hartOk h
  | .mFirst h _ => hartOk h
  | .nop h _ => hartOk h
  | .endTask h _ => hartOk h
  | .yield h _ => hartOk h
  | .srr h _ => hartOk h
  | .srw h _ => hartOk h
  | .trap h _ => hartOk h
  | .breakI h _ => hartOk h
  | .retx h _ => hartOk h
  | .waiti h _ => hartOk h
  | .tlbInv h _ => hartOk h
  | .tlbInvj h _ => hartOk h
  | .fwKick h _ => hartOk h
  | .engineException h => hartOk h
  | .pageFaultResolve h _ => hartOk h
  | .skLoad h _ => hartOk h
  | .skStore h _ => hartOk h
  | .skCopy h _ => hartOk h
  | .skSwap h _ => hartOk h
  | .skSwapComplete c => below c 128
  | .skCancel h _ => hartOk h
  | .skCancelComplete h => hartOk h
  | .innerOpStart c _ => below c 128
  | .strokeRequestComplete c _ _ => below c 128
  | .deadlineMiss c _ => below c 128
  | .skResume c _ => below c 128
  | .skAbort c _ => below c 128
  | .skQcfgWrite c q _ => below c 128 && below q 8
  | .qlLdw h _ => hartOk h
  | .qlMma h _ => hartOk h
  | .qlWb h _ => hartOk h
  | .qlSave h _ => hartOk h
  | .qlRestore h _ => hartOk h
  | .qlAccadd h _ => hartOk h
  | .qlFill h _ => hartOk h
  | .qlSwap h _ => hartOk h
  | .qlSig h _ => hartOk h
  | .qlSeed h _ => hartOk h
  | .qlRdfl h _ => hartOk h
  | .qlOpComplete c _ => below c 128
  | .brAdd h _ => hartOk h
  | .brSub h _ => hartOk h
  | .brMul h _ => hartOk h
  | .brFma h _ => hartOk h
  | .brMin h _ => hartOk h
  | .brMax h _ => hartOk h
  | .brAbs h _ => hartOk h
  | .brNeg h _ => hartOk h
  | .brDiv h _ => hartOk h
  | .brSqrt h _ => hartOk h
  | .brExp2 h _ => hartOk h
  | .brLog2 h _ => hartOk h
  | .brAnd h _ => hartOk h
  | .brOr h _ => hartOk h
  | .brXor h _ => hartOk h
  | .brSll h _ => hartOk h
  | .brSrl h _ => hartOk h
  | .brSra h _ => hartOk h
  | .brCeq h _ => hartOk h
  | .brClt h _ => hartOk h
  | .brCle h _ => hartOk h
  | .brSel h _ => hartOk h
  | .brMov h _ => hartOk h
  | .brBcast h _ => hartOk h
  | .brPerm h _ => hartOk h
  | .brToa h _ => hartOk h
  | .brFroma h _ => hartOk h
  | .brCvtn h _ => hartOk h
  | .brCvtw h _ => hartOk h
  | .brItof h _ => hartOk h
  | .brFtoi h _ => hartOk h
  | .brMxs h _ => hartOk h
  | .brMxq h _ => hartOk h
  | .brGath h _ => hartOk h
  | .brScat h _ => hartOk h
  | .brLd h _ => hartOk h
  | .brSt h _ => hartOk h
  | .brAddi h _ => hartOk h
  | .brMuli h _ => hartOk h
  | .brMini h _ => hartOk h
  | .brMaxi h _ => hartOk h
  | .brMovi h _ => hartOk h
  | .brSeed h _ => hartOk h
  | .brRdfl h _ => hartOk h
  | .rsSum h _ => hartOk h
  | .rsMax h _ => hartOk h
  | .rsMin h _ => hartOk h
  | .rsArgmax h _ => hartOk h
  | .rsScan h _ => hartOk h
  | .rsDot h _ => hartOk h
  | .smSoftmax h _ => hartOk h
  | .smLse h _ => hartOk h
  | .brOpComplete c _ => below c 128
  | .spLdb h _ => hartOk h
  | .spMma h _ => hartOk h
  | .spKadd h _ => hartOk h
  | .spDrain h _ => hartOk h
  | .spCmp h _ => hartOk h
  | .spSig h _ => hartOk h
  | .spSeed h _ => hartOk h
  | .spRdfl h _ => hartOk h
  | .spClr h _ => hartOk h
  | .spRepairPass r => below r.cluster 128
  | .spOpComplete c _ => below c 128
  | .nbPool h _ => hartOk h
  | .nbRdfl h _ => hartOk h
  | .nbRequestServe k _ => below k 132
  | .nbPartialReturn c _ => below c 128
  | .lgGather h _ => hartOk h
  | .hmPin h _ => hartOk h
  | .hmUnpin h _ => hartOk h
  | .hmUnpinall h _ => hartOk h
  | .hmLook h _ => hartOk h
  | .hmCopyComplete _ => true
  | .hmRateTick => true
  | .loadWindowEnd => true
  | .nbHotareaWrite k _ => below k 128
  | .hmCfgWrite _ => true
  | .hmPinqWrite j _ => below j 16
  | .tbUpdate h _ => hartOk h
  | .nbUpdateAdmit k => below k 132
  | .nbUpdateAck c _ k => below c 128 && below k 132
  | .tbBuild h _ => hartOk h
  | .nbBuildComplete c _ => below c 128
  | .tbPublish h _ => hartOk h
  | .tbEdaddr h _ => hartOk h
  | .wideHoldExpire j _ => below j 16
  | .nbTbdirWrite j _ => below j 16
  | .dxSpawn h _ => hartOk h
  | .dxSleep h _ => hartOk h
  | .dxStepend h _ => hartOk h
  | .dxRde h _ => hartOk h
  | .stependRequest j => below j 16
  | .devqForward c => below c 128
  | .spillRefill => true
  | .taskDispatch c => below c 128
  | .preempt c => below c 128
  | .ownerSwap c _ => below c 128
  | .delayTick => true
  | .energyUpdate _ => true
  | .foldSwap g => below g 16
  | .dxPolicyWrite _ => true
  | .dxSpillWrite _ => true
  | .dxOwnareaWrite j _ => below j 16
  | .mkSig h _ => hartOk h
  | .mkWait h _ => hartOk h
  | .mkWaitdec h _ => hartOk h
  | .mkTest h _ => hartOk h
  | .mkSet h _ => hartOk h
  | .markUpdate n => below n 4096
  | .waitHang h => hartOk h
  | .mkMarkWrite n _ _ => below n 4096
  | .mkMapWrite j k _ => below j 16 && below k 256
  | .ccDinv c => below c 132
  | .ccIinv c => below c 132
  | .ccClean c => below c 132
  | .ccFlush c => below c 132
  | .ccDen c _ => below c 132
  | .ccIen c _ => below c 132
  | .ccCmdComplete c => below c 132
  | .ccDrainComplete c => below c 132
  | .ccCfgWrite c _ => below c 132
  | .cacheFillComplete r => hartOk r.hart
  | .evbWriteAck c => below c 132
  | .cacheScrub c _ => below c 132
  | .patrolInkwell k _ => below k 128
  | .patrolReservoir i _ _ => below i 4
  | .pprComplete i g b => below i 4 && below g 16 && below b 16
  | .flitReceive f => bytesOk 256 f.bytes
  | .nakTimeout => true
  | .rdShr tag line => below tag 16384 && lineOk line
  | .rdOwn tag line => below tag 16384 && lineOk line
  | .rdCur tag line => below tag 16384 && lineOk line
  | .wrLine tag line d _ => below tag 16384 && lineOk line && bytesOk 64 d
  | .wrPtl tag line _ d _ => below tag 16384 && lineOk line && bytesOk 64 d
  | .wbDirty tag line d _ => below tag 16384 && lineOk line && bytesOk 64 d
  | .evictClean tag line => below tag 16384 && lineOk line
  | .rgRd tag line off _ => below tag 16384 && lineOk line && below off 64
  | .rgWr tag line off _ _ => below tag 16384 && lineOk line && below off 64
  | .snpInv tag line => below tag 16384 && lineOk line
  | .snpShr tag line => below tag 16384 && lineOk line
  | .data tag _ d _ => below tag 16384 && bytesOk 64 d
  | .cmp tag => below tag 16384
  | .srsp tag line _ => below tag 16384 && lineOk line
  | .srspData tag line _ d _ => below tag 16384 && lineOk line && bytesOk 64 d
  | .err tag _ => below tag 16384
  | .doorbell r _ => below r 64
  | .pageDone id _ => below id 65536
  | .snoopTimeout tag => below tag 16384
  | .lanineRequestTimeout tag => below tag 16384
  | .laneErrorWindow _ _ => true
  | .lanineRetrain => true
  | .lanineRetrainEnd _ => true
  | .lanineLinkDown => true
  | .lanineLinkUp _ => true
  | .intrHoldoffExpire r => below r 64
  | .lnPgreqSend _ => true
  | .lnPgresPop => true
  | .pageDoneTimeout id => below id 65536
  | .carbonFrameReceive f => bytesOk 4096 f.bytes
  | .carbonNakTimeout => true
  | .carbonLinkUp => true
  | .carbonLinkDown => true
  | .pair _ => true
  | .commit _ _ => true
  | .commitAck _ => true
  | .delta j _ => below j 16
  | .build j _ _ _ => below j 16
  | .folioData _ _ _ => true
  | .seal _ => true
  | .sealAck _ => true
  | .rollback j _ => below j 16
  | .logFull j => below j 16
  | .depart _ => true
  | .resync pa d => lineOk pa && bytesOk 64 d
  | .transfer _ => true
  | .xferAck _ _ => true
  | .firmware _ => true
  | .leaseHalfExpire => true
  | .leaseExpire => true
  | .takeoverRestoreEnd => true
  | .pairingTimeout => true
  | .resyncCopyEnd => true
  | .folioIntervalExpire => true
  | .folioQuiesceEnd => true
  | .folioCaptureEnd _ _ => true
  | .cbOrderFolio => true
  | .cbOrderTakeover => true
  | .cbOrderDepart => true
  | .cbCfgWrite _ => true
  | .cbFoliocfgWrite _ => true
  | .publicationStart j => below j 16
  | .ethFrameReceive p _ => below p 2
  | .rdmaWrite q _ => below q 1024
  | .rdmaWriteImm q _ _ => below q 1024
  | .rdmaRead q _ => below q 1024
  | .rdmaAck q _ => below q 1024
  | .rdmaAckTimeout q => below q 1024
  | .qpDoorbell q _ => below q 1024
  | .cnpReceive q => below q 1024
  | .ccTimerExpire q => below q 1024
  | .markDropped q _ _ => below q 1024
  | .sliceReq q _ => below q 1024
  | .sliceRsp q _ _ => below q 1024
  | .ethFolioReq j _ => below j 16
  | .folioAt j _ => below j 16
  | .sealed j _ _ _ => below j 16
  | .restart j _ _ => below j 16
  | .restartAck j _ _ => below j 16
  | .ingestDatagram r _ _ _ _ => below r 64
  | .blotterReport _ => true
  | .heartbeatCheck _ => true
  | .fillComplete _ => true
  | .imageRestoreComplete => true
  | .blOrderFence _ => true
  | .blIwhwmWrite _ => true
  | .powerSample _ => true
  | .tempSample _ _ => true
  | .phaseSpareIn ph => below ph 42
  | .iwsaveComplete => true
  | .warmReset => true
  | .pwShedthrWrite _ => true
  | .ferrulePowerOn => true
  | .powerUp => true
  | .selfTestComplete _ => true
  | .bootImageLoaded => true
  | .ringEntryConsume r => below r 64
  | .identify e => hdrOk e
  | .ringCreate e pr _ _ _ => hdrOk e && below pr 64
  | .ringDelete e pr => hdrOk e && below pr 64
  | .jobLoad e _ => hdrOk e
  | .jobUnload e => hdrOk e
  | .jobStop e => hdrOk e
  | .taskSubmit e _ => hdrOk e
  | .publish e _ => hdrOk e
  | .genHold e => hdrOk e
  | .genRelease e _ => hdrOk e
  | .stateRead e _ _ _ _ => hdrOk e
  | .configWrite e off _ => hdrOk e && below off 268435456
  | .ledgerWrite e entry _ _ => hdrOk e && entryOk entry
  | .ledgerRead e entry _ => hdrOk e && entryOk entry
  | .logRead e _ _ => hdrOk e
  | .attest e _ _ => hdrOk e
  | .qpConnect e q _ => hdrOk e && below q 1024
  | .qpReset e q => hdrOk e && below q 1024
  | .ingestCfg e r _ _ => hdrOk e && below r 64
  | .fwStage e slot _ => hdrOk e && below slot 2
  | .fwActivate e slot => hdrOk e && below slot 2
  | .debugAttach e => hdrOk e
  | .debugDetach e => hdrOk e
  | .debugHandSet e _ _ => hdrOk e
  | .folioReq e => hdrOk e
  | .roleOrderDepart e => hdrOk e
  | .roleOrderTakeover e => hdrOk e
  | .fwWatchdogExpire p => below p 4
  | .fwRestartComplete => true
  | .mctpPacket p => below p.tag 16
  | .mctpReassemblyTimeout tag => below tag 16
  | .regRead off => below off 268435456
  | .regWrite off _ => below off 268435456
  | .mgmtLedgerRead entry => entryOk entry
  | .mgmtLedgerWrite entry _ _ => entryOk entry
  | .mgmtLogRead _ => true
  | .blogRead _ _ => true
  | .entdaa addr => below addr 128
  | .setdasa _ addr => below addr 128
  | .rstdaa => true
  | .enec => true
  | .disec => true
  | .getpid => true
  | .getbcr => true
  | .getdcr => true
  | .getmwl => true
  | .getmrl => true
  | .getstatus => true
  | .setEndpointId eid => below eid 256
  | .getEndpointId => true
  | .getEndpointUuid => true
  | .getMctpVersionSupport => true
  | .getMessageTypeSupport => true
  | .getVendorMessageSupport => true
  | .gettid => true
  | .settid tid => below tid 256
  | .getpldmversion _ => true
  | .getpldmtypes => true
  | .getpldmcommands _ => true
  | .getpdrrepositoryinfo => true
  | .getpdr _ => true
  | .getsensorreading _ => true
  | .getstatesensorreadings _ => true
  | .requestupdate _ => true
  | .requestfirmwaredata _ _ => true
  | .activatefirmware => true
  | .cancelupdate => true
  | .updateDataTimeout => true
  | .getVersion => true
  | .getCapabilities => true
  | .negotiateAlgorithms => true
  | .getDigests => true
  | .getCertificate _ => true
  | .getMeasurements _ => true
  | .feOrderWarm => true
  | .feAlertClear _ => true
  | .feAlertenWrite _ => true
  | .resetNAssert => true
  | .resetNRelease => true
  | .throtNChange _ => true
  | .twinHbChange _ => true
  | .chatterDeclare _ => true
  | .chatterClear _ _ => true
  | .refclkLoss => true
  | .registerWrite off size _ => below off 268435456 && (size == 4 || size == 8)
  | .ethPortLinkChange p _ _ => below p 2
  | .refclkReturn => true
  | .carbonRetrainEnd _ => true
  | .standbyBuildComplete j _ => below j 16
  | .lgTileComplete c _ _ => below c 128
  | .carbonFrameSend => true
  | .atomicComplete h => hartOk h
  | .domainSwitchComplete d => below d 176
  | .foldSwapComplete g => below g 16

end Sys2Proof
end

