-- ==== Sys2Proof/Tests/Slice0.lean ====
section
/-! SUPPORT. The model's own tests: the well-formedness checks refuse what they should, single commands on small states against figures
worked out from the spec, and for the statements a state and operands that meet their hypotheses. -/

namespace Sys2Proof.Tests

open Sys2Proof Sys2Proof.Machine

set_option maxRecDepth 10000
set_option Elab.async false

/-! ### Helpers -/

/-- The state that a command leaves where it goes on. -/
def after (i : Instr) (s : State) : Option State :=
  match exec i s with
  | .next t => some t
  | _ => none

/-- Does a check hold of the state that a command leaves? -/
def leaves (i : Instr) (s : State) (p : State → Bool) : Bool :=
  match exec i s with
  | .next t => p t
  | _ => false

/-- Does an instruction run on a state (`State.Runs`)? -/
def runsB (s : State) (i : Instr) : Bool :=
  match issued i with
  | some x => s.canIssue x.h && decide ((s.ctx x.h).pc.toNat % 8 = 0) && (x.legal && !(isCopyist x.h.core && decide (9 ≤ fld x.word 63 59)))
      && s.regsFree x.h x.as (x.mask :: x.ms) && s.predOn x.h x.mask
  | none => false

theorem runs_of_b {s : State} {i : Instr} (h : runsB s i = true) : s.Runs i := by
  cases e : issued i with
  | none => simp only [runsB, e, reduceCtorEq] at h
  | some x =>
    simp only [runsB, e, Bool.and_eq_true, decide_eq_true_eq, Bool.not_eq_true'] at h
    simp only [State.Runs, e]
    exact ⟨⟨h.1.1.1.1, h.1.1.1.2⟩, h.1.1.2, h.1.2, h.2⟩

/-- Every power domain is joined. -/
def allOn : SMap Word :=
  [(regPwDomst 0, 0xAAAAAAAAAAAAAAAA#64), (regPwDomst 1, 0xAAAAAAAAAAAAAAAA#64), (regPwDomst 2, 0xAAAAAAAAAAAAAAAA#64),
    (regPwDomst 3, 0xAAAAAAAAAAAAAAAA#64), (regPwDomst 4, 0xAAAAAAAAAAAAAAAA#64), (regPwDomst 5, 0xAAAAAAAA#64)]

/-- The registers of a small state: every domain joined, and those given. -/
def regsWith (l : List (Nat × Word)) : SMap Word := l.foldl (fun m r => smapSet resetOf m r.1 r.2) allOn

def h0 : Hart := ⟨0, 0⟩
def h1 : Hart := ⟨0, 1⟩

/-- A module that runs alone with the firmware up, one job loaded. -/
def up (l : List (Nat × Word)) : State :=
  { regs := regsWith ([(regFwStatus, 1#64), (regCbStatus, 4#64), (regScJobPtbr 1, 1#64)] ++ l), jobs := [(1, { loaded := true })] }

/-- A task of job 1 on core 0: registers A1, A2, A3 as given. -/
def taskWith (a1 a2 a3 : Word) : Ctx :=
  { task := { job := 1, fair := true }, run := .ready, pc := 0x1000#64
    a := smapSet (fun _ => 0) (smapSet (fun _ => 0) (smapSet (fun _ => 0) [] 1 a1) 2 a2) 3 a3 }

/-- The module with that task. -/
def live (a1 a2 a3 : Word) : State := { up [] with ctxs := [(0, taskWith a1 a2 a3)] }

/-- dst A3, sources A1 and A2. -/
def ft : FormT := ⟨3, 1, 2, 0, 0⟩
/-- dst A3, source A1, a constant. -/
def fk (imm : BitVec 32) : FormK := ⟨3, 1, 0, 0, imm⟩

/-- The value left in A3, and the pc. -/
def a3pc (s : State) : Word × Word := ((s.ctx h0).getA 3, (s.ctx h0).pc)


/-- Every one of these runs on this state. -/
def allRun (s : State) (l : List Instr) : Bool := l.all (runsB s)

theorem run_all {s : State} {l : List Instr} (h : allRun s l = true) : ∀ i ∈ l, s.Runs i :=
  fun i hi => runs_of_b (List.all_eq_true.mp h i hi)

/-- The first copyist's first context. -/
def hc : Hart := ⟨128, 0⟩

/-- The module with the same task on a copyist, whose addresses are physical. -/
def liveC (a1 a2 a3 : Word) : State := { up [] with ctxs := [(256, taskWith a1 a2 a3)] }

/-- A state in which one context is changed. -/
def onCtx (s : State) (h : Hart) (f : Ctx → Ctx) : State := s.modCtx h f

/-- The translation of one 4 KiB page at 0x10000 of job 1 that core 0 holds: readable, writable and executable. -/
def tlbWith (pte : Word) : TlbEntry := ⟨0, 1, 0x10000, 0x1000, 0x8000, pte⟩
/-- The module with a task on core 0 that holds this translation, to 0x20000 of Reservoir. -/
def liveT (a1 a2 a3 : Word) : State := { live a1 a2 a3 with tlb := [tlbWith 0x200FD#64], mem := [(0x20000, 0x81#8)] }
/-- The same with the page in host memory. -/
def liveH (a1 a2 a3 : Word) : State := { live a1 a2 a3 with tlb := [tlbWith 0x800000000200FD#64] }
/-- The module with a task whose job has set a handler. -/
def liveX (a1 a2 a3 : Word) : State := { live a1 a2 a3 with jobs := [(1, { loaded := true, xvec := 0x4000#64 })] }

theorem run_forms {s : State} {α : Type} {h : Hart} {f : α} {l : List (Hart → α → Instr)} (e : l.all (fun i => runsB s (i h f)) = true) :
    ∀ i ∈ l, s.Runs (i h f) := fun i hi => runs_of_b (List.all_eq_true.mp e i hi)

/-- No cache holds a line, so none holds a bad one. -/
theorem intact_of {s : State} (hs : s.sets = []) (hc : s.caches = []) : Intact s := by
  intro core line
  simp [State.lineAt, State.cset, State.cache, hs, hc, smapGet, CSet.find]

theorem smapGet_all {α : Type} {d : Nat → α} {p : α → Bool} {m : SMap α} (h : m.all (fun c => p c.2) = true) (hd : ∀ k, p (d k) = true) (k : Nat) :
    p (smapGet d m k) = true := by
  induction m with
  | nil => exact hd k
  | cons x r ih =>
    simp only [List.all_cons, Bool.and_eq_true] at h
    unfold smapGet
    split
    · exact h.1
    · exact ih h.2

/-- No way of a set and no entry of an eviction buffer holds a bad line. -/
theorem intact_all {s : State} (hs : s.sets.all (fun e => e.2.ways.all (fun w => (w.bind CLine.bad).isNone)) = true)
    (hc : s.caches.all (fun e => e.2.evb.all (fun l => l.bad.isNone)) = true) : Intact s := by
  intro core line
  have h1 : ∀ w ∈ (s.cset (setKey core line)).ways, (w.bind CLine.bad).isNone = true :=
    List.all_eq_true.mp (smapGet_all (p := fun c : CSet => c.ways.all (fun w => (w.bind CLine.bad).isNone)) hs (fun _ => rfl) _)
  have h2 : ∀ l ∈ (s.cache core).evb, l.bad.isNone = true :=
    List.all_eq_true.mp (smapGet_all (p := fun c : CacheRt => c.evb.all (fun l => l.bad.isNone)) hc (fun _ => rfl) _)
  unfold State.lineAt
  split
  next l e =>
    unfold CSet.find at e
    have hw := Option.join_eq_some_iff.mp e
    have := h1 _ (List.mem_of_find?_eq_some hw)
    simpa using this
  next =>
    cases e : (s.cache core).evb.find? (fun l => l.line == line) with
    | none => rfl
    | some l => simpa using h2 l (List.mem_of_find?_eq_some e)

/-! ### Commands, steps, reset -/

theorem witness_StepRunsTheFrontCommand : ({ State.reset with pending := [.ferrulePowerOn, .selfTestComplete ⟨[], []⟩] } : State).pending = .ferrulePowerOn :: [.selfTestComplete ⟨[], []⟩] ∧
    State.reset.pending = [] := by decide +kernel
theorem test_step_takes_the_front : (match step { State.reset with pending := [.ferrulePowerOn, .selfTestComplete ⟨[], []⟩] } with
    | .next t => decide (t.pending = [.selfTestComplete ⟨[], []⟩])
    | _ => false) = true := by decide +kernel
theorem witness_Sound : (live 7 5 0).Sound ∧ ({ live 7 5 0 with pending := [.add h0 ft] } : State).Sound ∧ State.reset.Sound := by
  unfold State.Sound; decide
theorem witness_StepKeepsSound : (match step { live 7 5 0 with pending := [.add h0 ft] } with
    | .next t => decide (t.pending = []) | _ => false) = true := by decide +kernel
theorem witness_OnlyOvervoltageStops : ∀ x q, ({ State.reset with pending := [.powerSample ⟨6500, 0, 0⟩] } : State).pending = .powerSample x :: q →
    x.vin ≤ 6500 := by
  intro x q h
  injection h with h1 h2
  injection h1 with h3
  subst h3
  decide
theorem witness_OvervoltageFaults : (⟨6501, 0, 0⟩ : PowerSample).vin > 6500 := by decide +kernel
theorem test_overvoltage : (match exec (.powerSample ⟨6501, 0, 0⟩) State.reset with
    | .fault f => decide (f = .aboveAbsoluteMaximum) | _ => false) = true := by decide +kernel

/-! ### Issue -/

theorem witness_IssueGate : issued (.add h1 ft) = some (intIss 0 true h1 ft) ∧ (live 7 5 0).canIssue h1 = false ∧
    issued (.add h0 ft) = some (intIss 0 true h0 ft) ∧ (onCtx (live 7 5 0) h0 fun c => { c with pc := 0x1004#64 }).canIssue h0 = true ∧
    ((onCtx (live 7 5 0) h0 fun c => { c with pc := 0x1004#64 }).ctx h0).pc.toNat % 8 ≠ 0 := ⟨rfl, by decide +kernel, rfl, by decide +kernel, by decide +kernel⟩
theorem witness_IllegalWordRaises : issued (.add h0 ⟨3, 1, 2, 0, 1⟩) = some (intIss 0 true h0 ⟨3, 1, 2, 0, 1⟩) ∧
    (live 7 5 0).MayIssue (intIss 0 true h0 ⟨3, 1, 2, 0, 1⟩) ∧ ¬ (intIss 0 true h0 ⟨3, 1, 2, 0, 1⟩).Decodes := by
  unfold State.MayIssue Issued.Decodes; exact ⟨rfl, by decide +kernel, by decide +kernel⟩
theorem witness_PredicateOffSkips : issued (.add h0 ⟨3, 1, 2, 2, 0⟩) = some (intIss 0 true h0 ⟨3, 1, 2, 2, 0⟩) ∧
    (live 7 5 0).MayIssue (intIss 0 true h0 ⟨3, 1, 2, 2, 0⟩) ∧ (intIss 0 true h0 ⟨3, 1, 2, 2, 0⟩).Decodes ∧
    (live 7 5 0).regsFree h0 [3, 1, 2] [2] = true ∧ bitOf (((live 7 5 0).ctx h0).getM 2) 0 = false := by
  unfold State.MayIssue Issued.Decodes; exact ⟨rfl, by decide +kernel, by decide +kernel, by decide +kernel, by decide +kernel⟩
theorem test_illegal_word : leaves (.add h0 { ft with ext := 1 }) (live 7 5 0)
    (fun t => decide ((t.job 1).stopped = true ∧ (t.events.map Event.code) = [2])) = true := by decide +kernel
theorem test_predicate_off : leaves (.add h0 { ft with mask := 2 }) (live 7 5 9) (fun t => a3pc t == (9, 0x1008)) = true := by decide +kernel

/-! ### Scalar instructions -/

theorem witness_ScalarIntegerResults : ∀ i ∈ [Instr.add h0 ft, .sub h0 ft, .and h0 ft, .or h0 ft, .xor h0 ft, .andn h0 ft, .sll h0 ft, .srl h0 ft,
    .sra h0 ft, .slt h0 ft, .sltu h0 ft, .min h0 ft, .max h0 ft, .minu h0 ft, .maxu h0 ft, .mul h0 ft, .mulh h0 ft, .mulhu h0 ft, .div h0 ft,
    .divu h0 ft, .rem h0 ft, .remu h0 ft, .clz h0 { ft with src2 := 0 }, .ctz h0 { ft with src2 := 0 }, .popc h0 { ft with src2 := 0 }],
    (live 7 0 0).Runs i := run_all (by decide +kernel)
theorem test_add_wraps : leaves (.add h0 ft) (live (BitVec.allOnes 64) 6 0) (fun t => a3pc t == (5, 0x1008)) = true := by decide +kernel
theorem test_mulh : leaves (.mulh h0 ft) (live (BitVec.allOnes 64) 2 0) (fun t => a3pc t == (BitVec.allOnes 64, 0x1008)) = true := by decide +kernel
theorem test_div_truncates : leaves (.div h0 ft) (live (BitVec.ofInt 64 (-7)) 2 0) (fun t => a3pc t == (BitVec.ofInt 64 (-3), 0x1008)) = true := by decide +kernel
theorem test_rem_sign : leaves (.rem h0 ft) (live (BitVec.ofInt 64 (-7)) 2 0) (fun t => a3pc t == (BitVec.ofInt 64 (-1), 0x1008)) = true := by decide +kernel
theorem witness_BitCounts : (0x50#64).getLsbD 6 = true ∧ (∀ m, 6 < m → (0x50#64).getLsbD m = false) ∧ (0x50#64).getLsbD 4 = true ∧
    (∀ m, m < 4 → (0x50#64).getLsbD m = false) := by
  refine ⟨by decide +kernel, fun m hm => ?_, by decide +kernel, by decide +kernel⟩
  by_cases h : m < 64
  · have : ∀ k : Fin 64, 6 < k.val → (0x50#64).getLsbD k.val = false := by decide +kernel
    exact this ⟨m, h⟩ hm
  · exact BitVec.getLsbD_of_ge _ _ (by omega)
theorem witness_DivisionCorners : (∀ i ∈ [Instr.div h0 ft, .divu h0 ft, .rem h0 ft, .remu h0 ft], (live 7 0 0).Runs i) ∧
    ((live 7 0 0).ctx h0).getA 1 = 7 ∧ ((live 7 0 0).ctx h0).getA 2 = 0 ∧
    (∀ i ∈ [Instr.div h0 ft, .rem h0 ft], (live 0x8000000000000000#64 (BitVec.allOnes 64) 0).Runs i) ∧
    ((live 0x8000000000000000#64 (BitVec.allOnes 64) 0).ctx h0).getA 1 = 0x8000000000000000#64 ∧
    ((live 0x8000000000000000#64 (BitVec.allOnes 64) 0).ctx h0).getA 2 = BitVec.allOnes 64 :=
  ⟨run_all (by decide +kernel), by decide +kernel, by decide +kernel, run_all (by decide +kernel), by decide +kernel, by decide +kernel⟩
theorem witness_ScalarConstantResults : (∀ i ∈ [Instr.addi h0 (fk 5), .andi h0 (fk 5), .ori h0 (fk 5), .xori h0 (fk 5), .slli h0 (fk 5), .srli h0 (fk 5),
    .srai h0 (fk 5), .slti h0 (fk 5), .sltiu h0 (fk 5), .movhi h0 (fk 5)], (live 7 5 0).Runs i) ∧
    ∀ i ∈ [Instr.movi h0 ⟨3, 0, 0, 0, 5⟩, .auipc h0 ⟨3, 0, 0, 0, 5⟩], (live 7 5 0).Runs i := ⟨run_all (by decide +kernel), run_all (by decide +kernel)⟩
theorem test_movhi : leaves (.movhi h0 (fk 5)) (live 7 5 0) (fun t => a3pc t == (0x500000007#64, 0x1008)) = true := by decide +kernel
theorem witness_TwoInstructionsSetAnyConstant : (live 7 5 0).canIssue h0 = true ∧ ((live 7 5 0).ctx h0).pc = 0x1000#64 ∧
    (live 7 5 0).regsFree h0 [3, 0] [0] = true ∧
    leaves (.movi h0 ⟨3, 0, 0, 0, (0x123456789#64).extractLsb' 0 32⟩) (live 7 5 0) (fun t => a3pc t == (0x23456789#64, 0x1008)) = true := by decide +kernel
theorem witness_ScalarFloatResults : (∀ i ∈ [Instr.fadd h0 ft, .fsub h0 ft, .fmul h0 ft, .fdiv h0 ft, .fma h0 ft, .fmin h0 ft, .fmax h0 ft,
    .feq h0 ft, .flt h0 ft, .fle h0 ft], (live 0x3F800000#64 0x40000000#64 0).Runs i) ∧
    ∀ i ∈ [Instr.fsqrt h0 ⟨3, 1, 0, 0, 0⟩, .fcvtI h0 ⟨3, 1, 0, 0, 0⟩, .fcvtF h0 ⟨3, 1, 0, 0, 0⟩, .fcvtP h0 ⟨3, 1, 0, 0, 0⟩, .fclass h0 ⟨3, 1, 0, 0, 0⟩],
      (live 0x3F800000#64 0x40000000#64 0).Runs i := ⟨run_all (by decide +kernel), run_all (by decide +kernel)⟩
theorem test_fadd : leaves (.fadd h0 ft) (live 0x3F800000#64 0x40000000#64 0) (fun t => a3pc t == (0x40400000#64, 0x1008)) = true := by decide +kernel
theorem test_fdiv_by_zero : leaves (.fdiv h0 ft) (live 0x3F800000#64 0 0)
    (fun t => a3pc t == (0x7F800000#64, 0x1008) && (t.ctx h0).fflags != 0) = true := by decide +kernel
theorem witness_FclassIsOneHot : (live 0xFF800000#64 0 0).Runs (.fclass h0 ⟨3, 1, 0, 0, 0⟩) := runs_of_b (by decide +kernel)
theorem test_fclass : leaves (.fclass h0 ⟨3, 1, 0, 0, 0⟩) (live 0xFF800000#64 0 0) (fun t => a3pc t == (1, 0x1008)) = true := by decide +kernel
theorem witness_FloatNanRules : (fmt32.unpack (fpIn fmt32 0x7FC00000#64)).isNan = true ∧ (fmt64.unpack (fpIn fmt64 0x7FF8000000000000#64)).isNan = true := by
  decide
theorem witness_FlagsAreSticky : (∀ i ∈ [Instr.fadd h0 ft, .fsub h0 ft, .fmul h0 ft, .fdiv h0 ft, .fma h0 ft, .fmin h0 ft, .fmax h0 ft, .feq h0 ft,
    .flt h0 ft, .fle h0 ft], (live 0x3F800000#64 0 0).Runs i) ∧
    ∀ i ∈ [Instr.fsqrt h0 ⟨3, 1, 0, 0, 0⟩, .fcvtI h0 ⟨3, 1, 0, 0, 0⟩, .fcvtF h0 ⟨3, 1, 0, 0, 0⟩, .fcvtP h0 ⟨3, 1, 0, 0, 0⟩, .fclass h0 ⟨3, 1, 0, 0, 0⟩],
      (live 0x3F800000#64 0 0).Runs i := ⟨run_all (by decide +kernel), run_all (by decide +kernel)⟩
theorem witness_Branches : (∀ i ∈ [Instr.beq h0 (fk 16), .bne h0 (fk 16), .blt h0 (fk 16), .bge h0 (fk 16), .bltu h0 (fk 16), .bgeu h0 (fk 16)],
    (live 7 5 7).Runs i) ∧ ∀ i ∈ [Instr.bmany h0 ⟨0, 1, 0, 0, 16⟩, .bmnone h0 ⟨0, 1, 0, 0, 16⟩], (live 7 5 7).Runs i :=
  ⟨run_all (by decide +kernel), run_all (by decide +kernel)⟩
theorem test_beq_taken : leaves (.beq h0 (fk 16)) (live 7 5 7) (fun t => (t.ctx h0).pc == 0x1010) = true := by decide +kernel
theorem test_bne_not_taken : leaves (.bne h0 (fk 16)) (live 7 5 7) (fun t => (t.ctx h0).pc == 0x1008) = true := by decide +kernel
theorem witness_Jumps : (∀ i ∈ [Instr.jal h0 ⟨3, 0, 0, 0, 16⟩, .jalr h0 (fk 8)], (live 0x2000#64 5 0).Runs i) ∧
    (((live 0x2000#64 5 0).ctx h0).getA 1 + (8#32).signExtend 64).toNat % 8 = 0 ∧ (live 0x2001#64 5 0).Runs (.jalr h0 (fk 8)) ∧
    (((live 0x2001#64 5 0).ctx h0).getA 1 + (8#32).signExtend 64).toNat % 8 ≠ 0 :=
  ⟨run_all (by decide +kernel), by decide +kernel, runs_of_b (by decide +kernel), by decide +kernel⟩
theorem test_jalr : leaves (.jalr h0 (fk 8)) (live 0x2000#64 5 0) (fun t => a3pc t == (0x1008, 0x2008)) = true := by decide +kernel
theorem witness_MaskResults : (∀ i ∈ [Instr.mAnd h0 ft, .mOr h0 ft, .mXor h0 ft, .mAndn h0 ft], (live 7 5 0).Runs i) ∧
    ∀ i ∈ [Instr.mNot h0 ⟨3, 1, 0, 0, 0⟩, .mFroma h0 ⟨3, 1, 0, 0, 0⟩, .mToa h0 ⟨3, 1, 0, 0, 0⟩, .mPopc h0 ⟨3, 1, 0, 0, 0⟩,
      .mFirst h0 ⟨3, 1, 0, 0, 0⟩], (live 7 5 0).Runs i := ⟨run_all (by decide +kernel), run_all (by decide +kernel)⟩
theorem test_mfirst_empty : leaves (.mFirst h0 ⟨3, 1, 0, 0, 0⟩) (live 7 5 0) (fun t => a3pc t == (64, 0x1008)) = true := by decide +kernel
theorem witness_ScalarFrame : (live 7 5 0).Runs (.popc h0 { ft with src2 := 0 }) ∧ (live 7 5 0).Runs (.mXor h0 ft) := by
  exact ⟨runs_of_b (by decide +kernel), runs_of_b (by decide +kernel)⟩
theorem witness_HardWiredRegisters : (3 : Nat) ≠ 0 ∧ (4 : Nat) ≠ 3 := by decide +kernel

/-! ### Loads, stores, lines, atomics -/

theorem witness_LoadsDeliver : (∀ i ∈ [Instr.ldB h0 (fk 0), .ldH h0 (fk 0), .ldW h0 (fk 0), .ldD h0 (fk 0), .ldBu h0 (fk 0), .ldHu h0 (fk 0),
    .ldWu h0 (fk 0), .dsLd h0 (fk 0)], (liveT 0x10000#64 0 0).Runs i) ∧ (kAddr ((liveT 0x10000#64 0 0).ctx h0) (fk 0)).toNat % 64 = 0 ∧
    Reaches (liveT 0x10000#64 0 0) h0 (kAddr ((liveT 0x10000#64 0 0).ctx h0) (fk 0)) .load (liveT 0x10000#64 0 0) 0x20000 ∧
    ReadsNow (liveT 0x10000#64 0 0) h0 0x20000 64 := by
  unfold Reaches ReadsNow GoesPast; exact ⟨run_all (by decide +kernel), by decide +kernel, by decide +kernel, intact_of rfl rfl, Or.inr (by decide +kernel)⟩
theorem test_ldB : leaves (.ldB h0 (fk 0)) (liveT 0x10000#64 0 0) (fun t => a3pc t == (0xFFFFFFFFFFFFFF81#64, 0x1008)) = true := by decide +kernel
theorem test_ldBu : leaves (.ldBu h0 (fk 0)) (liveT 0x10000#64 0 0) (fun t => a3pc t == (0x81#64, 0x1008)) = true := by decide +kernel
theorem test_ldD_unmapped : leaves (.ldD h0 (fk 0)) (liveT 0x30000#64 0 0)
    (fun t => decide ((t.ctx h0).run = .suspended 0x30000#64 false)) = true := by decide +kernel
theorem witness_StoresWrite : (∀ i ∈ [Instr.stB h0 (fk 0), .stH h0 (fk 0), .stW h0 (fk 0), .stD h0 (fk 0), .dsSt h0 (fk 0), .cZero h0 ⟨0, 1, 0, 0, 0⟩],
      (liveT 0x10000#64 0 5).Runs i) ∧
    (kAddr ((liveT 0x10000#64 0 5).ctx h0) (fk 0)).toNat % 64 = 0 ∧
    Reaches (liveT 0x10000#64 0 5) h0 (kAddr ((liveT 0x10000#64 0 5).ctx h0) (fk 0)) .store (liveT 0x10000#64 0 5) 0x20000 ∧
    WritesNow (liveT 0x10000#64 0 5) h0 0x20000 64 := by
  unfold Reaches WritesNow GoesPast; exact ⟨run_all (by decide +kernel), by decide +kernel, by decide +kernel, intact_of rfl rfl, by decide +kernel, Or.inr (by decide +kernel)⟩
theorem test_stH : leaves (.stH h0 (fk 0)) (liveT 0x10000#64 0 0x123456#64) (fun t => t.mem == [(0x20000, 0x56#8), (0x20001, 0x34#8)]) = true := by decide +kernel
theorem test_cZero : leaves (.cZero h0 ⟨0, 1, 0, 0, 0⟩) (liveT 0x10000#64 0 0) (fun t => t.mem == []) = true := by decide +kernel
theorem witness_MisalignedAccessesTrap : (∀ i ∈ [Instr.ldH h0 (fk 1), .ldHu h0 (fk 1), .ldW h0 (fk 1), .ldWu h0 (fk 1), .ldD h0 (fk 1), .stH h0 (fk 1),
    .stW h0 (fk 1), .stD h0 (fk 1), .dsLd h0 (fk 1), .dsSt h0 (fk 1), .cZero h0 ⟨0, 1, 0, 0, 1⟩, .cClean h0 ⟨0, 1, 0, 0, 1⟩,
    .cFlush h0 ⟨0, 1, 0, 0, 1⟩, .iSync h0 ⟨0, 1, 0, 0, 1⟩], (liveT 0x10000#64 0 0).Runs i) ∧
    (kAddr ((liveT 0x10000#64 0 0).ctx h0) (fk 1)).toNat % 2 ≠ 0 ∧
    (∀ i ∈ [Instr.amoSwap, .amoAdd, .amoAnd, .amoOr, .amoXor, .amoMin, .amoMax, .amoMinu, .amoMaxu, .amoCas], (liveT 0x10004#64 0 0).Runs (i h0 ft)) ∧
    (((liveT 0x10004#64 0 0).ctx h0).getA 1).toNat % 8 ≠ 0 := by
  refine ⟨run_all (by decide +kernel), by decide +kernel, run_forms (by decide +kernel), by decide +kernel⟩
theorem test_misaligned : leaves (.ldH h0 (fk 1)) { liveX 0x10000#64 0 0 with tlb := [tlbWith 0x200FD#64] }
    (fun t => decide ((t.ctx h0).xcause = 3 ∧ (t.ctx h0).xval = 0x10001#64 ∧ (t.ctx h0).pc = 0x4000#64)) = true := by decide +kernel

/-- The same with the data cache of core 0 on. -/
def liveD : State := let s := liveT 0x10000#64 0 0; s.setReg (s.ccKey 0 0x10) 1#64

theorem witness_MissWaitsForItsLine : liveD.Runs (.ldD h0 (fk 0)) ∧ (kAddr (liveD.ctx h0) (fk 0)).toNat % 8 = 0 ∧
    Reaches liveD h0 (kAddr (liveD.ctx h0) (fk 0)) .load liveD 0x20000 ∧ liveD.dact 0 = true ∧ liveD.draining 0 = false ∧ cacheable 0x20000 = true ∧
    liveD.lineHeld 0 (lineOf 0x20000) = false ∧ liveD.missBusy h0 (lineOf 0x20000) = false := by
  unfold Reaches; exact ⟨runs_of_b (by decide +kernel), by decide +kernel, by decide +kernel, by decide +kernel⟩
theorem test_miss_then_fill : leaves (.ldD h0 (fk 0)) liveD
    (fun t => leaves (.cacheFillComplete ⟨h0, .miss, []⟩) t (fun u => a3pc u == (0x81#64, 0x1008) && u.lineHeld 0 (lineOf 0x20000))) = true := by decide +kernel
theorem witness_LineInstructions : (∀ i ∈ [Instr.dsClr h0 ⟨3, 0, 0, 0, 0⟩, .cClean h0 ⟨0, 1, 0, 0, 0⟩, .cFlush h0 ⟨0, 1, 0, 0, 0⟩, .iSync h0 ⟨0, 1, 0, 0, 0⟩],
    liveD.Runs i) ∧ (kAddr (liveD.ctx h0) ⟨0, 1, 0, 0, 0⟩).toNat % 64 = 0 ∧
    (∀ k ∈ [AccKind.either, .fetch], liveD.coreAddr h0 (kAddr (liveD.ctx h0) ⟨0, 1, 0, 0, 0⟩) k = (.ok 0x20000 false, liveD)) ∧ liveD.dact 0 = true ∧ Intact liveD :=
  ⟨run_all (by decide +kernel), by decide +kernel, by decide +kernel, by decide +kernel, intact_of rfl rfl⟩
theorem witness_AtomicsReadModifyWrite :
    (∀ i ∈ [Instr.amoSwap, .amoAdd, .amoAnd, .amoOr, .amoXor, .amoMin, .amoMax, .amoMinu, .amoMaxu, .amoCas], (liveT 0x10000#64 2 3).Runs (i h0 ft)) ∧
    (8 : Nat) = (if ft.ext.getLsbD 0 then 4 else 8) ∧ (((liveT 0x10000#64 2 3).ctx h0).getA 1).toNat % 8 = 0 ∧
    (liveT 0x10000#64 2 3).coreAddr h0 (((liveT 0x10000#64 2 3).ctx h0).getA 1) .both = (.ok 0x20000 false, liveT 0x10000#64 2 3) ∧ isMem 0x20000 = true ∧
    (liveT 0x10000#64 2 3).firstPoison 0x20000 8 = none ∧ (liveT 0x10000#64 2 3).hostHeld 0x20000 8 false = [] ∧ Intact (liveT 0x10000#64 2 3) :=
  ⟨run_forms (by decide +kernel), by decide +kernel, by decide +kernel, by decide +kernel,
    by decide +kernel, by decide +kernel, by decide +kernel, intact_of rfl rfl⟩
theorem test_amoAdd : leaves (.amoAdd h0 ft) (liveT 0x10000#64 2 3)
    (fun t => t.mem == [(0x20000, 0x83#8)] && leaves (.atomicComplete h0) t (fun u => a3pc u == (0x81#64, 0x1008))) = true := by decide +kernel
theorem witness_AtomicOnHostPageTraps :
    (∀ i ∈ [Instr.amoSwap, .amoAdd, .amoAnd, .amoOr, .amoXor, .amoMin, .amoMax, .amoMinu, .amoMaxu, .amoCas], (liveH 0x10000#64 2 3).Runs (i h0 ft)) ∧
    (liveH 0x10000#64 2 3).coreAddr h0 (((liveH 0x10000#64 2 3).ctx h0).getA 1) .both = (.ok 0x20000 true, liveH 0x10000#64 2 3) :=
  ⟨run_forms (by decide +kernel), by decide +kernel⟩
theorem witness_FenceWaits : (live 0 0 0).Runs (.fence h0 ⟨0, 0, 0, 0, 0⟩) ∧ (live 0 0 0).engBusy h0 = 0 := ⟨runs_of_b (by decide +kernel), by decide +kernel⟩
theorem witness_FenceWaits_busy : ({ live 0 0 0 with clu := [(0, { ql := { queue := [⟨0, 0x0A, ownerOf h0 ((live 0 0 0).ctx h0), 0, .swap, false⟩] } })] } : State).Runs
      (.fence h0 ⟨0, 0, 0, 0, 0⟩) ∧
    ({ live 0 0 0 with clu := [(0, { ql := { queue := [⟨0, 0x0A, ownerOf h0 ((live 0 0 0).ctx h0), 0, .swap, false⟩] } })] } : State).engBusy h0 ≠ 0 :=
  ⟨runs_of_b (by decide +kernel), by decide +kernel⟩
theorem witness_MemoryReadsBack : Memory.wf (liveT 0 0 0).mem := by decide +kernel

/-! ### Exceptions and system instructions -/

/-- A word of Form K with every field 0. -/
def k0 : FormK := ⟨0, 0, 0, 0, 0⟩
/-- An operation of the Quill that the task on core 0 has outstanding. -/
def busyQ (s : State) : State := { s with clu := [(0, { ql := { queue := [⟨0, 0x0A, ownerOf h0 (s.ctx h0), 0, .swap, false⟩] } })] }
/-- The job's debugger is attached. -/
def debugged (s : State) : State := { s with jobs := [(1, { loaded := true, debug := true, xvec := 0x4000#64 })] }

theorem witness_ExceptionEntry : ((liveX 0 0 0).job ((liveX 0 0 0).ctx h0).task.job).xvec ≠ 0 ∧ ((liveX 0 0 0).ctx h0).xactive = false ∧
    (XCode.brk = .brk → ((liveX 0 0 0).job ((liveX 0 0 0).ctx h0).task.job).debug = false) ∧ XCode.brk ≠ .engine := by decide +kernel
theorem witness_ExceptionStopsJob : isCopyist h0.core = false ∧ XCode.illegal ≠ .brk ∧ ((live 0 0 0).job ((live 0 0 0).ctx h0).task.job).xvec = 0 ∧
    (live 0 0 0).events.length < 65536 ∧ ((onCtx (liveX 0 0 0) h0 fun c => { c with xactive := true }).ctx h0).xactive = true := by decide +kernel
theorem witness_TrapAndBreak : (liveX 0 0 0).Runs (.trap h0 { k0 with imm := 9 }) ∧ (liveX 0 0 0).Runs (.breakI h0 k0) ∧
    ((liveX 0 0 0).job ((liveX 0 0 0).ctx h0).task.job).xvec ≠ 0 ∧ ((liveX 0 0 0).ctx h0).xactive = false ∧
    ((liveX 0 0 0).job ((liveX 0 0 0).ctx h0).task.job).debug = false ∧ (debugged (live 0 0 0)).Runs (.breakI h0 k0) ∧
    ((debugged (live 0 0 0)).job ((debugged (live 0 0 0)).ctx h0).task.job).debug = true :=
  ⟨runs_of_b (by decide +kernel), runs_of_b (by decide +kernel), by decide +kernel, by decide +kernel, by decide +kernel, runs_of_b (by decide +kernel), by decide +kernel⟩
theorem test_trap : leaves (.trap h0 { k0 with imm := 9 }) (liveX 0 0 0)
    (fun t => decide ((t.ctx h0).xcause = 0x90007#64 ∧ (t.ctx h0).xpc = 0x1000#64 ∧ (t.ctx h0).pc = 0x4000#64)) = true := by decide +kernel
theorem test_trap_without_handler : leaves (.trap h0 { k0 with imm := 9 }) (live 0 0 0)
    (fun t => decide ((t.ctx h0).run = .idle ∧ (t.job 1).stopped = true)) = true := by decide +kernel
theorem witness_ReturnFromException : (onCtx (liveX 0 0 0) h0 fun c => { c with xactive := true, xpc := 0x1008#64 }).Runs (.retx h0 k0) ∧
    ((onCtx (liveX 0 0 0) h0 fun c => { c with xactive := true, xpc := 0x1008#64 }).ctx h0).xactive = true ∧ (liveX 0 0 0).Runs (.retx h0 k0) ∧
    ((liveX 0 0 0).ctx h0).xactive = false := ⟨runs_of_b (by decide +kernel), by decide +kernel, runs_of_b (by decide +kernel), by decide +kernel⟩
theorem test_retx : leaves (.retx h0 k0) (onCtx (liveX 0 0 0) h0 fun c => { c with xactive := true, xpc := 0x1008#64 })
    (fun t => decide ((t.ctx h0).pc = 0x1008#64 ∧ (t.ctx h0).xactive = false)) = true := by decide +kernel
theorem witness_NopYieldWaiti : ∀ i ∈ [Instr.nop h0 k0, .yield h0 k0, .waiti h0 k0], (live 0 0 0).Runs i := run_all (by decide +kernel)
theorem test_waiti : leaves (.waiti h0 k0) (live 0 0 0) (fun t => decide ((t.ctx h0).run = .waiting .interrupt)) = true := by decide +kernel
theorem witness_SystemRegisterReads : ∀ n ∈ [0x000, 0x001, 0x002, 0x003, 0x010, 0x011, 0x012, 0x013, 0x014, 0x020],
    (live 0 0 0).Runs (.srr h0 ⟨3, 0, 0, 0, n⟩) := by
  intro n hn; exact runs_of_b (List.all_eq_true.mp (show (_ : List (BitVec 32)).all (fun n => runsB (live 0 0 0) (.srr h0 ⟨3, 0, 0, 0, n⟩)) = true by decide +kernel) n hn)
theorem test_srr_taskid : leaves (.srr h0 ⟨3, 0, 0, 0, 0⟩) (live 0 0 0) (fun t => a3pc t == (0x1800000000#64, 0x1008)) = true := by decide +kernel
theorem witness_SystemRegisterWrites : ∀ n ∈ [0x003, 0x010, 0x011, 0x014, 0x000, 0x001, 0x002, 0x012, 0x013, 0x020, 0x100, 0x101],
    (live 7 0 0).Runs (.srw h0 ⟨0, 1, 0, 0, n⟩) := by
  intro n hn; exact runs_of_b (List.all_eq_true.mp (show (_ : List (BitVec 32)).all (fun n => runsB (live 7 0 0) (.srw h0 ⟨0, 1, 0, 0, n⟩)) = true by decide +kernel) n hn)
theorem test_srw_xvec : leaves (.srw h0 ⟨0, 1, 0, 0, 0x010⟩) (live 0x400F#64 0 0) (fun t => (t.job 1).xvec == 0x4008#64) = true := by decide +kernel
theorem test_srw_privileged : leaves (.srw h0 ⟨0, 1, 0, 0, 0x100⟩) (liveX 7 0 0) (fun t => (t.ctx h0).xcause == 6) = true := by decide +kernel
theorem witness_TlbInvalidation : (liveX 0x10000#64 0 0).Runs (.tlbInv h0 ⟨0, 1, 0, 0, 1⟩) ∧ (liveX 0x10000#64 0 0).Runs (.tlbInvj h0 ⟨0, 0, 0, 0, 1⟩) ∧
    (liveC 0x10000#64 0 0).Runs (.tlbInv hc ⟨0, 1, 0, 0, 1⟩) ∧ (liveC 0x10000#64 0 0).Runs (.tlbInvj hc ⟨0, 0, 0, 0, 1⟩) ∧ isCopyist hc.core = true :=
  ⟨runs_of_b (by decide +kernel), runs_of_b (by decide +kernel), runs_of_b (by decide +kernel), runs_of_b (by decide +kernel), by decide +kernel⟩
theorem test_tlbInv : leaves (.tlbInv hc ⟨0, 1, 0, 0, 1⟩) { liveC 0x10000#64 0 0 with tlb := [tlbWith 0x200FD#64, { tlbWith 0x200FD#64 with job := 2 }] }
    (fun t => t.tlb.map TlbEntry.job == [2]) = true := by decide +kernel
theorem witness_EndFreesTheContext : (live 0 0 0).Runs (.endTask h0 k0) ∧ (live 0 0 0).engBusy h0 = 0 ∧ ((live 0 0 0).ctx h0).reports = [] ∧
    (busyQ (live 0 0 0)).Runs (.endTask h0 k0) ∧ (busyQ (live 0 0 0)).engBusy h0 ≠ 0 :=
  ⟨runs_of_b (by decide +kernel), by decide +kernel, by decide +kernel, runs_of_b (by decide +kernel), by decide +kernel⟩
theorem test_end : leaves (.endTask h0 k0) (live 0 0 0) (fun t => decide ((t.ctx h0).run = .idle)) = true := by decide +kernel
theorem witness_CoreEvents : ((onCtx (liveX 0 0 0) h0 fun c => { c with reports := [⟨0x0A, 5⟩] }).ctx h0).reports = ⟨0x0A, 5⟩ :: [] ∧
    (onCtx (liveX 0 0 0) h0 fun c => { c with reports := [⟨0x0A, 5⟩] }).canRun h0 = true ∧
    ((onCtx (live 0 0 0) h0 fun c => { c with run := .suspended 0x10000#64 false }).ctx h0).run = .suspended 0x10000#64 false ∧
    (onCtx (live 0 0 0) h0 fun c => { c with run := .suspended 0x10000#64 false }).fwUp = true ∧
    bitOf 0x800000000200FD#64 55 = true ∧ (live 0 0 0).hostHeld (alignDown 0x8000 8) 8 false = [] ∧
    isCopyist hc.core = true ∧ hc.core < 132 ∧ (liveC 0 0 0).canIssue hc = true := by decide +kernel
theorem test_engine_exception : leaves (.engineException h0) (onCtx (liveX 0 0 0) h0 fun c => { c with reports := [⟨0x0A, 5⟩] })
    (fun t => decide ((t.ctx h0).xcause = 0x8000000A0000000B#64 ∧ (t.ctx h0).xval = 5 ∧ (t.ctx h0).reports = [])) = true := by decide +kernel
theorem test_page_fault_denied : leaves (.pageFaultResolve h0 .denied) (onCtx (liveX 0 0 0) h0 fun c => { c with run := .suspended 0x10000#64 false })
    (fun t => decide ((t.ctx h0).xcause = 5 ∧ (t.ctx h0).xval = 0x10000#64)) = true := by decide +kernel

/-! ### Stroke streams -/

/-- Descriptor words. -/
def words (l : List Nat) : List Byte := l.flatMap (leBytes 8)
/-- Bytes at an address as entries of memory. -/
def cells (pa : Nat) (bs : List Byte) : List Host.Cell :=
  ((upto bs.length).zip bs).filterMap fun x => if x.2 = 0#8 then none else some (pa + x.1, x.2)
/-- One tile of 64 runs of 64 B, from BASE 0x10000 to DEST 0. -/
def dTile : List Byte := words [0x10000, 0, 2 ^ 40 + 2 ^ 37 + 64, 64 * 2 ^ 24 + 64, 0, 0, 0, 0]
/-- The same pattern with an address for its other side. -/
def dFlat : List Byte := words [0x10000, 0x10800, 2 ^ 37 + 64, 2 * 2 ^ 24 + 64, 0, 0, 0, 0]
/-- The task of `liveT` with these descriptors in slots 1 and 2. -/
def liveS : State := onCtx (liveT 0 0 0) h0 fun c => (c.setSd 1 dTile).setSd 2 dFlat
/-- Handle 0 of job 1 names physical mark 5. -/
def marked (s : State) : State := s.setReg (regMkMap 1 0) 0x8005#64
/-- An entry of core 0's engine. -/
def op0 (state : Nat) : SkOp := { n := 0, kind := .load, own := ownerOf h0 (liveS.ctx h0), fair := true, desc := dTile, areg := 0, queue := 4, state := state }
def withOps (l : List SkOp) : State := { liveS with clu := [(0, { sk := l })] }
/-- Form D with a slot. -/
def fd (slot : BitVec 4) : FormD := ⟨slot, 4, 0, 0, 0, 0, 0, 0⟩

def fz : FormD := ⟨0, 0, 0, 0, 0, 0, 0, 0⟩
theorem witness_StreamsEnterTheEngine : (∀ i ∈ [Instr.skLoad h0 (fd 1), .skStore h0 (fd 1), .skCopy h0 (fd 2)], liveS.Runs i) ∧
    (liveS.ctx h0).getSd 1 = dTile ∧ skDescOk (padB 64 dTile) false = true ∧ (liveS.ctx h0).getSd 2 = dFlat ∧ skDescOk (padB 64 dFlat) true = true ∧
    SigMark liveS h0 (fd 1) none ∧ (liveS.cl 0).freeEntry = some 0 ∧ liveS.halfBusy 0 (ownerOf h0 (liveS.ctx h0)) = false ∧ liveS.qInner 0 4 = false :=
  ⟨run_all (by decide +kernel), by decide +kernel, by decide +kernel, by decide +kernel, by decide +kernel, Or.inl ⟨by decide +kernel, by decide +kernel⟩, by decide +kernel, by decide +kernel, by decide +kernel⟩
theorem witness_StreamsEnterTheEngine_signal : SigMark (marked liveS) h0 { fd 1 with sig := 1 } (some 5) :=
  Or.inr ⟨by decide +kernel, ⟨(5, false), by decide +kernel, by decide +kernel⟩⟩
theorem test_skLoad : leaves (.skLoad h0 (fd 1)) liveS (fun t => ((t.cl 0).sk.map (fun o => (o.n, o.state, o.desc == dTile))) == [(0, 3, true)]) = true := by decide +kernel
theorem witness_StreamIssueChecks : (liveS.Runs (.skLoad h0 (fd 3)) ∧ (liveS.ctx h0).getSd 3 = []) ∧
    ((liveS.ctx h0).getSd 1 ≠ [] ∧ liveS.Runs (.skCopy h0 (fd 1)) ∧ skDescOk (padB 64 ((liveS.ctx h0).getSd 1)) true = false) ∧
    (liveS.Runs (.skLoad h0 { fd 1 with sig := 1 }) ∧ liveS.handle (liveS.ctx h0).task.job 0 = none) ∧
    ((withOps ((List.range 32).map fun n => { op0 3 with n := n })).Runs (.skLoad h0 (fd 1)) ∧
      ((withOps ((List.range 32).map fun n => { op0 3 with n := n })).cl 0).freeEntry = none) :=
  ⟨⟨runs_of_b (by decide +kernel), by decide +kernel⟩, ⟨by decide +kernel, runs_of_b (by decide +kernel), by decide +kernel⟩, ⟨runs_of_b (by decide +kernel), by decide +kernel⟩, ⟨runs_of_b (by decide +kernel), by decide +kernel⟩⟩
theorem test_slot_empty : leaves (.skLoad h0 (fd 3)) { liveS with jobs := (liveX 0 0 0).jobs }
    (fun t => decide ((t.ctx h0).xcause = 9 ∧ (t.ctx h0).xval = 3)) = true := by decide +kernel
theorem witness_PatternWalk : (63 : Nat) < skRun (op0 3).desc ∧ 63 < skCount (op0 3).desc 0 ∧ 0 < skCount (op0 3).desc 1 ∧ 0 < skCount (op0 3).desc 2 ∧
    0 < skCount (op0 3).desc 3 := by decide +kernel
theorem test_pattern : ({ op0 3 with desc := dFlat } : SkOp).memVa (3 * 64 + 5) = 0x10000 + 3 * 2 + 5 := by decide +kernel
theorem witness_StrokeRequestMovesData : 1 ≤ skRun (op0 3).desc ∧ 1 ≤ (op0 3).tileLen ∧ (withOps [op0 3]).skOp 0 0 = some (op0 3) ∧
    (withOps [op0 3]).skLive 0 (op0 3) = true ∧ (op0 3).kind = .load ∧ skTile (op0 3).desc ≠ 0 ∧ (op0 3).pos / (op0 3).tileLen < (op0 3).assigned ∧
    (withOps [op0 3]).skBreaks 0 { op0 3 with tag := true } = false ∧ (withOps [op0 3]).tagFree 0 (op0 3).queue = true ∧
    ((withOps [op0 3]).setSk 0 { op0 3 with tag := true }).resolve 0 (op0 3).own.job .load (pieces (op0 3).nextReq.1 (op0 3).nextReq.2) =
      (withOps [{ op0 3 with tag := true }], .ok [⟨0x20000, false, (op0 3).nextReq.2⟩]) ∧ Intact (withOps [{ op0 3 with tag := true }]) ∧
    (withOps [op0 3]).skRoute 0 { op0 3 with tag := true } [⟨0x20000, false, 64⟩] [⟨(withOps [op0 3]).tileSide 0 (op0 3), false, 64⟩] = false ∧
    (withOps [op0 3]).firstPoison 0x20000 64 = none ∧ (withOps [op0 3]).hostHeld 0x20000 64 true = [] ∧
    (withOps [op0 3]).hostHeld ((withOps [op0 3]).tileSide 0 (op0 3)) 64 false = [] :=
  ⟨by decide +kernel, by decide +kernel, by decide +kernel, by decide +kernel, by decide +kernel, by decide +kernel, by decide +kernel, by decide +kernel, by decide +kernel, by decide +kernel, intact_of rfl rfl, by decide +kernel, by decide +kernel, by decide +kernel,
    by decide +kernel⟩
theorem test_stroke_request : leaves (.strokeRequestComplete 0 0 ⟨true, []⟩) (withOps [op0 3])
    (fun t => t.rd (sheetPa 0 1 0) == 0x81#8 && ((t.cl 0).sk.map SkOp.pos) == [64]) = true := by decide +kernel
/-- The half owner's task waits with SK.SWAP. -/
def swapping : State := { onCtx liveS h0 (fun c => { c with run := .waiting .swap }) with
  clu := [(0, { halfOwner := some (ownerOf h0 (liveS.ctx h0)), swap := some h0 })] }
theorem witness_SwapExchangesHalves : liveS.Runs (.skSwap h0 fz) ∧ liveS.halfBusy 0 (ownerOf h0 (liveS.ctx h0)) = false ∧ (liveS.cl 0).swap = none ∧
    ({ liveS with clu := [(0, { halfOwner := some ⟨2, 9, h1⟩ })] } : State).Runs (.skSwap h0 fz) ∧
    ({ liveS with clu := [(0, { halfOwner := some ⟨2, 9, h1⟩ })] } : State).halfBusy 0 (ownerOf h0 (liveS.ctx h0)) = true ∧
    (swapping.cl 0).swap = some h0 ∧ swapping.coreLive 0 = true ∧ (swapping.cl 0).swapReady = true ∧ (swapping.ctx h0).run = .waiting .swap :=
  ⟨runs_of_b (by decide +kernel), by decide +kernel, by decide +kernel, runs_of_b (by decide +kernel), by decide +kernel, by decide +kernel, by decide +kernel, by decide +kernel, by decide +kernel⟩
theorem test_swap : leaves (.skSwapComplete 0) swapping (fun t => decide ((t.cl 0).front = 1 ∧ (t.ctx h0).pc = 0x1008#64)) = true := by decide +kernel
theorem witness_CancelFreesEntries : (withOps [op0 3]).Runs (.skCancel h0 { fz with ctl := 1 }) ∧
    ((onCtx (withOps [op0 6]) h0 fun c => { c with run := .waiting .cancel }).ctx h0).run = .waiting .cancel := ⟨runs_of_b (by decide +kernel), by decide +kernel⟩
theorem test_cancel : leaves (.skCancel h0 { fz with ctl := 1 }) (withOps [op0 3])
    (fun t => leaves (.skCancelComplete h0) t (fun u => decide ((u.cl 0).sk = [] ∧ (u.ctx h0).pc = 0x1008#64))) = true := by decide +kernel
/-- Queue 1 is an inner queue with WEIGHT 8 and TAGRES 512. -/
def innerQ (s : State) : State := s.setReg (regSkQcfg 0 1) 0x82000008#64
/-- A waiting inner operation of rate r. -/
def inner0 (r : Nat) : SkOp := { op0 2 with queue := 1, rateWait := true, desc := words [0x10000, 0, r * 2 ^ 48 + 2 ^ 40 + 2 ^ 37 + 64, 64 * 2 ^ 24 + 64, 0, 0, 0, 0] }
theorem witness_InnerOperationStarts : ∀ s ∈ [innerQ (withOps [inner0 1])], s.skOp 0 0 = some (inner0 1) ∧ (inner0 1).n = 0 ∧ (inner0 1).state = 2 ∧
    (inner0 1).rateWait = true ∧ (inner0 1).kind ≠ .pool ∧ s.coreLive 0 = true ∧ (s.job (inner0 1).own.job).held = false ∧ (inner0 1).held = false ∧
    s.booking 0 (inner0 1) = .fits ∧ s.dx.stopped = false ∧ (inner0 1).park = false := by decide +kernel
theorem witness_InnerOperationStarts_waits : (innerQ (withOps [inner0 40, { inner0 40 with n := 1, state := 3 }])).booking 0 (inner0 40) = .waits := by decide +kernel
theorem witness_DeadlineMissStops : (innerQ (withOps [{ inner0 1 with state := 3 }])).skOp 0 0 = some { inner0 1 with state := 3 } ∧
    (innerQ (withOps [{ inner0 1 with state := 3 }])).skLive 0 { inner0 1 with state := 3 } = true ∧
    (innerQ (withOps [{ inner0 1 with state := 3 }])).qInner 0 1 = true ∧ (inner0 1).tiles < (inner0 1).assigned := by decide +kernel
theorem test_deadline : leaves (.deadlineMiss 0 0) (innerQ (withOps [{ inner0 1 with state := 3 }])) (fun t => decide ((t.cl 0).sk = [])) = true := by decide +kernel
theorem witness_HaltsEnd : (withOps [op0 4]).skOp 0 0 = some (op0 4) ∧ (op0 4).n = 0 ∧ (1#64) = BitVec.ofNat 64 (2 ^ 0) ∧ (op0 4).state = 4 ∧ (withOps [op0 4]).dx.stopped = false ∧
    ({ withOps [op0 4] with dx := { stopped := true } } : State).skOp 0 0 = some (op0 4) ∧
    (withOps [op0 3]).skOp 0 0 = some (op0 3) ∧ (op0 3).state ≠ 4 := by decide +kernel
theorem test_resume : leaves (.skResume 0 1#64) (withOps [op0 4]) (fun t => ((t.cl 0).sk.map SkOp.state) == [3]) = true := by decide +kernel
theorem test_abort : leaves (.skAbort 0 1#64) (withOps [op0 4]) (fun t => decide ((t.cl 0).sk = [] ∧ (t.ctx h0).reports = [⟨0x12, 0x100#64⟩])) = true := by decide +kernel
theorem witness_QueueConfigWrites : (liveS.cl 0).sk.all (fun o => decide (o.queue ≠ 1)) = true ∧
    ((upto 8).map (fun i => if i = 1 then fld 0x80400008#64 6 0 else liveS.rfld (regSkQcfg (liveS.phys 0) i) 6 0)).sum ≤ 64 ∧
    ((upto 8).map (fun i => if i = 1 then fld 0x80400008#64 25 16 else liveS.rfld (regSkQcfg (liveS.phys 0) i) 25 16)).sum ≤ 512 ∧
    (∃ o ∈ ((withOps [inner0 1]).cl 0).sk, o.queue = 1) := by decide +kernel

/-! ### The Quill -/

/-- A task with Quill operand words in A1 (address at `off` with stride) and A2 (count). -/
def liveQ (addr cnt : Word) : State := live addr cnt 0
def own0 : Owner := ownerOf h0 ((live 0 0 0).ctx h0)
/-- The Quill of core 0 with this queue. -/
def withQl (l : List QlKind) : State := { live 0x10000000000#64 1 0 with clu := [(0, { ql := { owner := some own0, queue := l.map fun x => ⟨0, 0x0A, own0, 0, x, false⟩ } })] }
/-- The Quill of core 0 as given. -/
def withQuill (q : Quill) : State := { live 0x10000000000#64 1 0 with clu := [(0, { ql := q })] }
/-- A weight buffer of FP8 zeros. -/
def noW : WBuf := ⟨0, [], []⟩
/-- An operation that a unit of it executes. -/
def qop (x : QlKind) : QlOp := ⟨0, 0x0A, own0, 0, x, false⟩
def fq (ext : BitVec 30) : FormT := ⟨0, 1, 2, 0, ext⟩

theorem witness_QuillIssues : (∀ i ∈ [Instr.qlLdw h0 (fq 0), .qlMma h0 (fq 0), .qlWb h0 (fq 0), .qlSave h0 (fq 0), .qlRestore h0 (fq 0), .qlAccadd h0 (fq 0),
      .qlFill h0 ⟨0, 0, 2, 0, 0⟩, .qlSwap h0 ⟨0, 0, 0, 0, 0⟩], (liveQ 0x10000000000#64 1).Runs i) ∧
    (liveQ 0x10000000000#64 0).Runs (.qlLdw h0 (fq 0)) ∧
    (cntRows 0#64 == 0 && cntOk 0 (isMx 0) && adrOk 0x10000000000#64 (ldwShape 0 false).1 (rowBytes 0 (ldwShape 0 false).2)) = true ∧
    (accOk 1 0 && cntOk 1 (isMx 0) && adrOk 0x10000000000#64 (cntRows 1) (rowBytes 0 (fmtK 0))) = true ∧
    (accOk 1 0 && cntOk 1 false && adrOk 0x10000000000#64 (cntRows 1) (outBytes 0)) = true ∧
    (accOk 1 0 && cntOk 1 false && adrOk 0x10000000000#64 (cntRows 1) 256) = true ∧
    (liveQ 0x10000000000#64 1).qlDead 0 own0 = false ∧ (liveQ 0x10000000000#64 1).qlBusy 0 own0 = false ∧
    ((liveQ 0x10000000000#64 1).cl 0).ql.queue.length < 16 ∧ (marked (liveQ 7 0)).Runs (.qlSig h0 k0) ∧
    (marked (liveQ 7 0)).handle ((marked (liveQ 7 0)).ctx h0).task.job 0 = some (5, false) ∧ (marked (liveQ 7 0)).Runs (.qlSeed h0 ⟨0, 1, 0, 0, 0⟩) :=
  ⟨run_all (by decide +kernel), runs_of_b (by decide +kernel), by decide +kernel, by decide +kernel, by decide +kernel, by decide +kernel, by decide +kernel, by decide +kernel, by decide +kernel, runs_of_b (by decide +kernel),
    by decide +kernel, runs_of_b (by decide +kernel)⟩
theorem test_qlSave_enters : leaves (.qlSave h0 (fq 0)) (liveQ 0x10000000000#64 1)
    (fun t => decide ((t.cl 0).ql.queue = [] ∧ (t.cl 0).ql.drain.map QlOp.kind = some (.save 0x10000000000#64 1 0) ∧ (t.cl 0).ql.owner = some own0)) = true := by decide +kernel
theorem test_qlMma_rows_beyond : leaves (.qlMma h0 (fq 0x7FF)) { liveQ 0x10000000000#64 2 with jobs := (liveX 0 0 0).jobs }
    (fun t => decide ((t.ctx h0).xcause = 1 ∧ (t.cl 0).ql.queue = [])) = true := by decide +kernel
/-- Another task owns the Quill. -/
def foreignQ : State := { live 0 0 0 with clu := [(0, { ql := { owner := some ⟨2, 9, h1⟩ } })] }
theorem witness_QuillRefusals : foreignQ.Runs (.qlSwap h0 ⟨0, 0, 0, 0, 0⟩) ∧ foreignQ.qlDead 0 own0 = false ∧ foreignQ.qlBusy 0 own0 = true ∧
    (∀ g, g.core = h0.core → hartKey g ≠ hartKey h0 → (foreignQ.ctx g).run = .idle ∨ (foreignQ.ctx g).task.num ≠ (foreignQ.ctx h0).task.num) ∧
    (withQl (List.replicate 16 .swap)).Runs (.qlSwap h0 ⟨0, 0, 0, 0, 0⟩) ∧ (withQl (List.replicate 16 .swap)).qlBusy 0 own0 = false ∧
    16 ≤ ((withQl (List.replicate 16 .swap)).cl 0).ql.queue.length := by
  refine ⟨runs_of_b (by decide +kernel), by decide +kernel, by decide +kernel, fun g _ hk => Or.inl ?_, runs_of_b (by decide +kernel), by decide +kernel, by decide +kernel⟩
  have e : foreignQ.ctxs = [(0, taskWith 0 0 0)] := rfl
  have hk' : hartKey g ≠ 0 := hk
  simp [State.ctx, e, smapGet, hk']
theorem test_ql_refused : leaves (.qlSwap h0 ⟨0, 0, 0, 0, 0⟩) foreignQ (fun t => decide ((t.ctx h0).reports = [⟨0x0A, 0x100#64⟩])) = true := by decide +kernel
theorem witness_QuillReadsFlags : (withQl []).Runs (.qlRdfl h0 ⟨3, 0, 0, 1, 0⟩) ∧ (withQl []).qlDead 0 own0 = false ∧ ((withQl []).cl 0).ql.owner = some own0 ∧
    own0.same (ownerOf h0 ((withQl []).ctx h0)) = true ∧ (withQl []).qlDone 0 own0 = true ∧ (withQl [.swap]).Runs (.qlRdfl h0 ⟨3, 0, 0, 1, 0⟩) ∧
    (withQl [.swap]).qlDone 0 own0 = false :=
  ⟨runs_of_b (by decide +kernel), by decide +kernel, by decide +kernel, by decide +kernel, by decide +kernel, runs_of_b (by decide +kernel), by decide +kernel⟩
theorem test_qlRdfl : leaves (.qlRdfl h0 ⟨3, 0, 0, 1, 0⟩) (withQuill { owner := some own0, flags := 5 })
    (fun t => a3pc t == (5, 0x1008) && (t.cl 0).ql.flags == 0) = true := by decide +kernel
theorem witness_QuillCompletes :
    (∀ x ∈ [QlKind.ldw 0x10000000000#64 0 false 0 0], (withQuill { owner := some own0, weight := some (qop x) }).cluLive 0 = true ∧
      ((withQuill { owner := some own0, weight := some (qop x) }).cl 0).ql.failed = false) ∧
    (live 0x10000000000#64 1 0).job own0.job = { loaded := true } ∧
    (∀ x ∈ [QlKind.fill 2 1 1 0, .save 0x10000000000#64 1 0, .restore 0x10000000000#64 1 0, .wb 0x10000000000#64 1 1 false false 0 0,
        .accadd 0x10000000000#64 1 1 true 0 0], (withQuill { owner := some own0, drain := some (qop x) }).cluLive 0 = true) ∧
    (0 : Nat) % 2048 + cntRows 2 ≤ 2048 ∧ adrOk 0x10000000000#64 (cntRows 1) 256 = true ∧ 256 ≤ adrStride 0x10000000000#64 := by decide +kernel
theorem witness_QuillCompletes_mma : (withQl [.mma 0x10000000000#64 1 1 true 0 0 0 0]).cluLive 0 = true ∧
    ((withQl [.mma 0x10000000000#64 1 1 true 0 0 0 0]).cl 0).ql.queue = [qop (.mma 0x10000000000#64 1 1 true 0 0 0 0)] ∧
    ((withQl [.mma 0x10000000000#64 1 1 true 0 0 0 0]).cl 0).ql.w0 = none ∧
    ((withQuill { owner := some own0, w0 := some noW, array := some (qop (.mma 0x10000000000#64 1 1 true 0 0 0 0)) }).cl 0).ql.w0 = some noW := by
  decide
theorem witness_IdleQuillActs : (∀ i ∈ [Instr.qlSwap h0 ⟨0, 0, 0, 0, 0⟩, .qlLdw h0 (fq 0), .qlMma h0 (fq 0), .qlSave h0 (fq 0)],
      (withQuill { owner := some own0, w0 := some noW }).Runs i) ∧
    QlTakes (withQuill { owner := some own0, w0 := some noW }) h0 ∧ ((withQuill { owner := some own0, w0 := some noW }).cl 0).ql.ops = [] ∧
    (withQuill { owner := some own0, w0 := some noW }).dx.stopped = false ∧ fmtMeet 0 noW.fmt = true := by
  unfold QlTakes; exact ⟨run_all (by decide +kernel), by decide +kernel, by decide +kernel, by decide +kernel, by decide +kernel⟩
theorem test_ql_swap_at_once : leaves (.qlSwap h0 ⟨0, 0, 0, 0, 0⟩) (withQuill { owner := some own0 })
    (fun t => decide ((t.cl 0).ql.role = true ∧ (t.cl 0).ql.queue = [])) = true := by decide +kernel
theorem test_ql_seed_zero : leaves (.qlSeed h0 ⟨0, 2, 0, 0, 0⟩) { withQuill { owner := some own0 } with ctxs := (live 1 0 0).ctxs }
    (fun t => (t.cl 0).ql.gen == 1) = true := by decide +kernel
theorem test_ql_fill : leaves (.qlOpComplete 0 ⟨.drain, .ok⟩) (withQuill { owner := some own0, drain := some (qop (.fill 2 1 2 0)) })
    (fun t => (t.cl 0).ql.getAcc 32 == BitVec.ofNat 64 (semiId 2) && (t.cl 0).ql.getAcc 33 == 0 && (t.cl 0).ql.getAcc 64 == 0) = true := by decide +kernel
theorem witness_MmaCombinesColumns : (3 : Nat) < 32 ∧ (0xF#64).getLsbD 3 = true ∧ (3 : Nat) = accKey false 0 0 + 3 ∧
    (∀ c, c < 32 → (0xF#64).getLsbD c = true → (9 : Nat) ≠ accKey false 0 0 + c) := by decide +kernel
theorem witness_CompensatedAddition : isFin32 (add32 (accS 0x3F800000#64) 0x3F800000) = true ∧ isFin32 (add32 (accS 0x3F800000#64) 0x7F800000) = false ∧
    (1 : Nat) ≠ 0 ∧ (5 : Nat) < 2 ^ 32 := by decide +kernel
theorem test_compensated : (accAdd 0x4B800000#64 0x3F800000).1 = accEntry 0x4B800000 0x3F800000 := by decide +kernel
theorem witness_SaveThenRestore : adrOk 0x10000000000#64 (cntRows 2) 256 = true ∧ 256 ≤ adrStride 0x10000000000#64 ∧ 1 ≤ cntRows 2 ∧
    (5 : Nat) % 2048 + cntRows 2 ≤ 2048 := by decide +kernel

/-! ### The Brush -/

/-- The Brush of core 0 with these operations, V1 and V2 of its task with one lane each. -/
def withBr (l : List BrOp) : State := { live 0 0 0 with
  ctxs := [(0, { taskWith 0x40#64 0 0 with v := [(64, 0xFFFFFFFF#32), (128, 2#32), (129, 9#32)] })], clu := [(0, { br := l })] }
/-- An operation of the task. -/
def brop (group op dst ext : Nat) (a1 : Word) (mask : Word) : BrOp :=
  { own := own0, half := 0, group := group, op := op, dst := dst, s1 := 1, s2 := 2, ext := ext, imm := 0, a1 := a1, a2 := 0, masks := [mask] }

theorem witness_BrushIssues : (∀ i ∈ [Instr.brAdd h0 ft, .brSub h0 ft, .brMul h0 ft, .brFma h0 ft, .brMin h0 ft, .brMax h0 ft, .brDiv h0 ft,
      .brAnd h0 { ft with ext := 0x1000 }, .brOr h0 { ft with ext := 0x1000 }, .brXor h0 { ft with ext := 0x1000 }, .brSll h0 { ft with ext := 0x1000 },
      .brSrl h0 { ft with ext := 0x1000 }, .brSra h0 { ft with ext := 0x1000 }, .brCeq h0 ft, .brClt h0 ft, .brCle h0 ft, .brSel h0 ft, .brPerm h0 ft,
      .brMxq h0 { ft with ext := 0x500 }, .brGath h0 ft, .brScat h0 ft, .rsDot h0 ft, .smSoftmax h0 ft, .smLse h0 ft], (withBr []).Runs i) ∧
    (∀ i ∈ [Instr.brAbs h0 ⟨3, 1, 0, 0, 0⟩, .brNeg h0 ⟨3, 1, 0, 0, 0⟩, .brSqrt h0 ⟨3, 1, 0, 0, 0⟩, .brExp2 h0 ⟨3, 1, 0, 0, 0⟩,
      .brLog2 h0 ⟨3, 1, 0, 0, 0⟩, .brMov h0 ⟨3, 1, 0, 0, 0⟩, .brBcast h0 ⟨3, 1, 0, 0, 0⟩, .brToa h0 ⟨3, 1, 0, 0, 0⟩, .brFroma h0 ⟨3, 1, 0, 0, 0⟩,
      .brCvtn h0 ⟨3, 1, 0, 0, 0⟩, .brCvtw h0 ⟨3, 1, 0, 0, 0⟩, .brItof h0 ⟨3, 1, 0, 0, 0x1000⟩, .brFtoi h0 ⟨3, 1, 0, 0, 0x1000⟩,
      .brMxs h0 ⟨3, 1, 0, 0, 0x500⟩, .rsSum h0 ⟨3, 1, 0, 0, 0⟩, .rsMax h0 ⟨3, 1, 0, 0, 0⟩, .rsMin h0 ⟨3, 1, 0, 0, 0⟩, .rsArgmax h0 ⟨3, 1, 0, 0, 0⟩,
      .rsScan h0 ⟨3, 1, 0, 0, 0⟩], (withBr []).Runs i) ∧
    (∀ i ∈ [Instr.brLd h0 (fk 0), .brSt h0 (fk 0), .brAddi h0 (fk 0), .brMuli h0 (fk 0), .brMini h0 (fk 0), .brMaxi h0 (fk 0),
      .brMovi h0 ⟨3, 0, 0, 0, 0⟩, .brSeed h0 ⟨0, 1, 0, 0, 0⟩], (withBr []).Runs i) ∧
    ((withBr []).cl 0).br.length < 16 ∧ (((withBr []).ctx h0).getA 1).toNat % 4 = 0 ∧ offOk (((withBr []).ctx h0).getA 1).toNat = true ∧
    brOff ((withBr []).brOpK h0 0 (fk 0)) % 2 = 0 ∧ inRegion (brOff ((withBr []).brOpK h0 0 (fk 0))) ((brLen (fk 0).ctl.toNat).getD 0) = true :=
  ⟨run_all (by decide +kernel), run_all (by decide +kernel), run_all (by decide +kernel), by decide +kernel, by decide +kernel, by decide +kernel, by decide +kernel, by decide +kernel⟩
theorem test_brAdd_enters : leaves (.brAdd h0 ft) (withBr []) (fun t => ((t.cl 0).br.map fun o => (o.group, o.op, o.dst)) == [(0x0C, 0, 3)]) = true := by decide +kernel
theorem witness_BrushIssueChecks : issued (.brAdd h0 ft) = some (brArithIss 0 [0, 1, 2, 3, 4] true true h0 ft) ∧
    fld (brArithIss 0 [0, 1, 2, 3, 4] true true h0 ft).word 63 59 = 0x0C ∧ (withBr (List.replicate 16 (brop 0x0C 0 3 0 0 0))).Runs (.brAdd h0 { ft with dst := 5 }) ∧
    16 ≤ ((withBr (List.replicate 16 (brop 0x0C 0 3 0 0 0))).cl 0).br.length ∧
    (live 2 0 0).Runs (.brGath h0 ft) ∧ (((live 2 0 0).ctx h0).getA 1).toNat % 4 ≠ 0 ∧ (live 1 0 0).Runs (.brLd h0 (fk 0)) ∧
    brOff ((live 1 0 0).brOpK h0 0 (fk 0)) % 2 ≠ 0 :=
  ⟨rfl, by decide +kernel, runs_of_b (by decide +kernel), by decide +kernel, runs_of_b (by decide +kernel), by decide +kernel, runs_of_b (by decide +kernel), by decide +kernel⟩
theorem witness_BrushReadsFlags : (withBr []).Runs (.brRdfl h0 ⟨3, 0, 0, 1, 0⟩) ∧ (∀ o ∈ ((withBr []).cl 0).br, o.own.hart ≠ h0) ∧
    (withBr [brop 0x0C 0 3 0 0 0]).Runs (.brRdfl h0 ⟨3, 0, 0, 1, 0⟩) ∧ (∃ o ∈ ((withBr [brop 0x0C 0 3 0 0 0]).cl 0).br, o.own.hart = h0) :=
  ⟨runs_of_b (by decide +kernel), by decide +kernel, runs_of_b (by decide +kernel), by decide +kernel⟩
theorem witness_BrushCompletes : ∀ o ∈ [brop 0x0C 0x00 3 0x1000 0 3, brop 0x0C 0x18 3 0x1000 0 3, brop 0x0C 0x1C 3 0 0 1],
    ((withBr [o]).cl 0).br = o :: [] ∧ o.own.hart = h0 ∧ (withBr [o]).coreLive 0 = true ∧ ((withBr [o]).cl 0).brFailed = false ∧
      ((withBr [o]).job o.own.job).held = false ∧ (withBr [o]).dx.stopped = false ∧ o.dst < 64 := by decide +kernel
theorem test_brAdd_int : leaves (.brOpComplete 0 .ok) (withBr [brop 0x0C 0x00 3 0x1000 0 1])
    (fun t => (t.ctx h0).getV 3 0 == 1#32 && (t.ctx h0).getV 3 1 == 0#32 && (t.cl 0).br == []) = true := by decide +kernel
theorem test_brSel : leaves (.brOpComplete 0 .ok) (withBr [brop 0x0C 0x1C 3 0 0 1])
    (fun t => (t.ctx h0).getV 3 0 == 0xFFFFFFFF#32 && (t.ctx h0).getV 3 1 == 9#32) = true := by decide +kernel
theorem test_brClt : leaves (.brOpComplete 0 .ok) (withBr [brop 0x0C 0x19 3 0x1000 0 1])
    (fun t => (t.ctx h0).getM 3 == 1) = true := by decide +kernel
theorem witness_BrushMoves : (∀ o ∈ [brop 0x0D 0x00 3 0 0 1, brop 0x0D 0x01 3 0 7 1, brop 0x0D 0x02 3 0 0 1, brop 0x0D 0x04 3 0 0 1, brop 0x0E 0x10 0 0 0 1,
      brop 0x0E 0x00 3 3 0 1, brop 0x0E 0x01 1 3 0 1, brop 0x0F 0x00 3 0x1000 0 3],
    ((withBr [o]).cl 0).br = o :: [] ∧ o.own.hart = h0 ∧ (withBr [o]).coreLive 0 = true ∧ ((withBr [o]).cl 0).brFailed = false ∧
      ((withBr [o]).job o.own.job).held = false ∧ (withBr [o]).dx.stopped = false ∧ o.dst < 64) ∧ brLen (3 % 16) = some 8 ∧ (brop 0x0D 0x04 3 0 0 1).low = 0 ∧
      ((brop 0x0D 0x04 3 0 0 1).mask 0).getLsbD 0 = true ∧ (brop 0x0F 0x00 3 0x1000 0 3).ty ≠ 0 := by decide +kernel
theorem test_brSt : leaves (.brOpComplete 0 .ok) (withBr [brop 0x0E 0x01 2 3 0 1])
    (fun t => t.mem == [(sheetPa 0 0 0, 2#8), (sheetPa 0 0 4, 9#8)]) = true := by decide +kernel
theorem test_rsSum_signed : leaves (.brOpComplete 0 .ok) (withBr [brop 0x0F 0x00 3 0x1000 0 3])
    (fun t => (t.ctx h0).getA 3 == BitVec.allOnes 64) = true := by decide +kernel
theorem witness_BrushIntegerLanes : (1 : Nat) ∈ [1, 2] := by decide +kernel
theorem witness_BrushMismatch : (∀ o ∈ [brop 0x0C 0 3 0x1000 0 1, brop 0x0F 0 3 0x1000 0 3], ((withBr [o]).cl 0).br = o :: [] ∧ (withBr [o]).coreLive 0 = true ∧
      ((withBr [o]).cl 0).brFailed = false ∧ ((withBr [o]).job own0.job).held = false ∧ (withBr [o]).dx.stopped = false) ∧
    (((withBr []).brRun 0 (brop 0x0C 0 3 0x1000 0 1)).ctx h0).resultAt (brop 0x0C 0 3 0x1000 0 1) 0 = some 1 ∧
    (brop 0x0C 0 3 0x1000 0 1).residues 2 ≠ (brop 0x0C 0 3 0x1000 0 1).residues 1 ∧
    (brop 0x0C 0 3 0x1000 0 1).residues 106 = (brop 0x0C 0 3 0x1000 0 1).residues 1 ∧
    (({ live 0 0 0 with clu := [(0, { brFailed := true })] } : State).cl 0).brFailed = true := by decide +kernel
theorem test_brMismatch : leaves (.brOpComplete 0 .mismatch) (withBr [brop 0x0F 0 3 0x1000 0 3]) (fun t => (t.reports.map Report.code) == [5]) = true := by decide +kernel
theorem witness_SoftmaxCases : (0x3F800000 : Nat) < 2 ^ 32 ∧ (∀ x ∈ [0x7FC00000, 0x3F800000], x < 2 ^ 32) ∧ (∃ x ∈ [0x7FC00000, 0x3F800000], isNan32 x = true) ∧
    (∀ x ∈ [0xFF800000, 0xFF800000], x = 0xFF800000) ∧ (∀ x ∈ [0x7F800000, 0x3F800000], isNan32 x = false) ∧ 0x7F800000 ∈ [0x7F800000, 0x3F800000] := by decide +kernel

/-! ### The Stipple -/

/-- The Stipple of core 0 with these operations. -/
def withSp (l : List SpKind) : State := { live 0 0 0 with clu := [(0, { sp := { owner := some own0, queue := l.map fun x => ⟨0, 0x10, own0, 0, x, 0⟩ } })] }
/-- The Stipple of core 0 as given. -/
def withStip (q : Stipple) : State := { live 0 0 0 with clu := [(0, { sp := q })] }
/-- An operation that a unit of it executes. -/
def spop (x : SpKind) : SpOp := ⟨0, 0x10, own0, 0, x, 0⟩
/-- Bytes and their CRC. -/
def withCrc (b : List Byte) : List Byte := b ++ leBytes 4 (crc32c b).toNat
/-- The header of an empty tile of kind 3 with one row of four places. -/
def tileHead : List Byte := withCrc (leBytes 4 80 ++ [3, 0, 0, 0] ++ leBytes 2 1 ++ leBytes 2 4 ++ leBytes 4 0 ++ leBytes 4 64 ++ leBytes 4 64 ++ leBytes 4 64 ++
  List.replicate 32 0#8)
/-- The header of a record block of no records. -/
def recHd : List Byte := withCrc (leBytes 4 16 ++ leBytes 4 0 ++ [0, 4, 0, 0])
def tiled (s : State) : State := s.wrN (sheetPa 0 0 0) tileHead
def recd (s : State) : State := s.wrN (sheetPa 0 0 0) recHd
def keyed (s : State) (b : Bool) : State := s.modSp 0 fun q => { q with keyed := b }
def withB0 (s : State) : State := s.modSp 0 fun q => { q with b0 := some ⟨0, 1, List.replicate 32 0⟩ }

theorem witness_StippleIssues : (∀ i ∈ [Instr.spLdb h0 (fq 0), .spDrain h0 (fq 0)], (live 0x10000000000#64 1 0).Runs i) ∧
    (live 0 1 0).Runs (.spMma h0 ⟨0, 1, 0, 0, 0⟩) ∧ (live 0 1 0).Runs (.spKadd h0 ⟨0, 1, 0, 0, 0⟩) ∧
    (live 0x10000000000#64 1 0x1000#64).Runs (.spCmp h0 { ft with ext := 0x1000001 }) ∧
    (live 0 1 0).spDead 0 own0 = false ∧ (live 0 1 0).spBusy 0 own0 = false ∧ ((live 0 1 0).cl 0).sp.queue.length < 16 ∧ ((live 0 1 0).cl 0).sp.owner = none ∧
    (spCntOk 1 && decide (cntRows 1 * (4 * elemBits 0) ≤ 65536) && adrOk 0x10000000000#64 (cntRows 1) (4 * elemBits 0)) = true ∧
    (tileOffOk 0 && (!(0#30).getLsbD 23 || predOk 0)) = true ∧
    (spCntOk 1 && decide (exf (0x1000001#30) 25 24 ≠ 2 ∨ cntRows 1 % 4 = 0) && adrOk 0x10000000000#64 (cntRows 1) (4 * 1 * valBytes 0) && tileOffOk 0x1000#64 &&
      inRegion (fld 0x1000#64 20 0) (cmpRoom (cntRows 1) (4 * 1) (valBytes 0))) = true ∧
    (marked (live 7 0 0)).Runs (.spSig h0 k0) ∧ (marked (live 7 0 0)).handle 1 0 = some (5, false) ∧ (live 7 0 0).Runs (.spSig h0 k0) ∧
    (live 7 0 0).handle 1 0 = none ∧ (live 7 0 0).Runs (.spSeed h0 ⟨0, 1, 0, 0, 0⟩) ∧ (live 7 0 0).Runs (.spClr h0 ⟨0, 0, 0, 1, 0⟩) :=
  ⟨run_all (by decide +kernel), runs_of_b (by decide +kernel), runs_of_b (by decide +kernel), runs_of_b (by decide +kernel), by decide +kernel, by decide +kernel, by decide +kernel, by decide +kernel, by decide +kernel, by decide +kernel,
    by decide +kernel, runs_of_b (by decide +kernel), by decide +kernel, runs_of_b (by decide +kernel), by decide +kernel, runs_of_b (by decide +kernel), runs_of_b (by decide +kernel)⟩
theorem test_spLdb_enters : leaves (.spLdb h0 (fq 0)) (live 0x10000000000#64 1 0)
    (fun t => decide ((t.cl 0).sp.queue = [] ∧ (t.cl 0).sp.load.map SpOp.kind = some (.ldb 0x10000000000#64 1 0 0))) = true := by decide +kernel
/-- Another task owns the Stipple. -/
def foreignSp : State := { live 8 0 0 with clu := [(0, { sp := { owner := some ⟨2, 9, h1⟩ } })] }
theorem witness_StippleRefusals : foreignSp.Runs (.spClr h0 ⟨0, 0, 0, 1, 0⟩) ∧ foreignSp.spDead 0 own0 = false ∧ foreignSp.spBusy 0 own0 = true ∧
    (∀ g, g.core = h0.core → hartKey g ≠ hartKey h0 → (foreignSp.ctx g).run = .idle ∨ (foreignSp.ctx g).task.num ≠ (foreignSp.ctx h0).task.num) ∧
    (withSp (List.replicate 16 (.seed 1))).Runs (.spClr h0 ⟨0, 0, 0, 1, 0⟩) ∧ (withSp (List.replicate 16 (.seed 1))).spBusy 0 own0 = false ∧
    16 ≤ ((withSp (List.replicate 16 (.seed 1))).cl 0).sp.queue.length ∧ (live 8 0 0).Runs (.spKadd h0 ⟨0, 1, 0, 0, 0⟩) ∧
    (((live 8 0 0).ctx h0).getA 1).toNat % 16 ≠ 0 := by
  refine ⟨runs_of_b (by decide +kernel), by decide +kernel, by decide +kernel, fun g _ hk => Or.inl ?_, runs_of_b (by decide +kernel), by decide +kernel, by decide +kernel, runs_of_b (by decide +kernel), by decide +kernel⟩
  have e : foreignSp.ctxs = [(0, taskWith 8 0 0)] := rfl
  have hk' : hartKey g ≠ 0 := hk
  simp [State.ctx, e, smapGet, hk']
theorem test_sp_refused : leaves (.spClr h0 ⟨0, 0, 0, 1, 0⟩) foreignSp (fun t => decide ((t.ctx h0).reports = [⟨0x11, 0x100#64⟩])) = true := by decide +kernel
theorem witness_StippleReadsFlags : (withSp []).Runs (.spRdfl h0 ⟨3, 0, 0, 1, 0⟩) ∧ (withSp []).spDead 0 own0 = false ∧ ((withSp []).cl 0).sp.owner = some own0 ∧
    own0.same (ownerOf h0 ((withSp []).ctx h0)) = true ∧ (withSp []).spDone 0 own0 = true ∧ (withSp [.seed 1]).Runs (.spRdfl h0 ⟨3, 0, 0, 1, 0⟩) ∧
    (withSp [.seed 1]).spDone 0 own0 = false :=
  ⟨runs_of_b (by decide +kernel), by decide +kernel, by decide +kernel, by decide +kernel, by decide +kernel, runs_of_b (by decide +kernel), by decide +kernel⟩
theorem witness_StippleCompletes :
    (∀ x ∈ [SpKind.ldb 0x10000000000#64 1 0 0], ((withStip { owner := some own0, load := some (spop x) }).cl 0).sp.load = some (spop x)) ∧
    (∀ x ∈ [SpKind.clr 0 2 3 1, .clr 2 0 0 0, .kadd 0 0 0 1, .drain 0 0x10000000000#64 1 false false false 0 0 0 1],
      ((withStip { owner := some own0, port := some (spop x) }).cl 0).sp.queue = [] ∧
      (withStip { owner := some own0, port := some (spop x) }).cluLive 0 = true ∧
      ((withStip { owner := some own0, port := some (spop x) }).cl 0).sp.failed = false ∧
      ((withStip { owner := some own0, port := some (spop x) }).cl 0).sp.keyed = false) ∧
    (live 0 0 0).job own0.job = { loaded := true } ∧
    ((withStip { owner := some own0, lanes := some (spop (.mma 0 0 false false true 0 0 0 0 1)) }).cl 0).sp.repairing = false ∧
    ((withStip { owner := some own0, comp := some (spop (.cmp 4 0 0x10000000000#64 4 1 0 0 4)) }).cl 0).sp.queue = [] ∧
    (withSp []).tileAt 0 0 (fld 0#64 20 0) = none ∧ (withSp []).recHead 0 0 (fld 0#64 20 0) = none ∧ (3 + 2 ≤ 2048) := by decide +kernel
theorem witness_StippleCompletes_queue : ∀ x ∈ [SpKind.seed 0, .sig 5], ((withSp [x]).cl 0).sp.ops = [spop x] ∧ ((withSp [x]).cl 0).sp.queue = [spop x] ∧
    (withSp [x]).cluLive 0 = true ∧ (withSp [x]).dx.stopped = false := by decide +kernel
theorem witness_IdleStippleActs : (∀ i ∈ [Instr.spLdb h0 (fq 0), .spDrain h0 (fq 0)], (live 0x10000000000#64 1 0).Runs i) ∧
    SpTakes (live 0x10000000000#64 1 0) h0 ∧ ((live 0x10000000000#64 1 0).cl 0).sp.ops = [] ∧ ((live 0x10000000000#64 1 0).cl 0).sp.failed = false ∧
    (live 0x10000000000#64 1 0).dx.stopped = false ∧ ((withStip { owner := some own0 }).cl 0).sp.owner ≠ none ∧
    (withStip { owner := some own0 }).spRefusal 0 (spop (.clr 0 2 3 1)) = none ∧
    (withStip { owner := some own0 }).spRefusal 0 (spop (.kadd 0 0 0 1)) = some 2 := by
  unfold SpTakes; exact ⟨run_all (by decide +kernel), by decide +kernel, by decide +kernel, by decide +kernel, by decide +kernel, by decide +kernel, by decide +kernel, by decide +kernel⟩
theorem test_sp_seed_at_once : leaves (.spSeed h0 ⟨0, 2, 0, 0, 0⟩) (live 0 0 0) (fun t => (t.cl 0).sp.gen == 1 && (t.cl 0).sp.queue == []) = true := by decide +kernel
theorem witness_StippleCompletes_tile : (∃ x, (tiled (withSp [])).tileAt 0 0 0 = some x ∧ (false = false ∨ x.kind = 2)) ∧
    ((keyed (tiled (withSp [])) true).cl 0).sp.keyed = true ∧ (∃ x y, (withB0 (tiled (withSp []))).spMmaCheck 0 0 0 false 0 0 0 = .inr (x, y)) := by
  refine ⟨⟨_, (show _ = some ⟨0x11000000000, 3, 0, 0, 1, 4, 64, 64, 64, 0⟩ by decide +kernel), Or.inl rfl⟩, by decide +kernel,
    ⟨⟨0x11000000000, 3, 0, 0, 1, 4, 64, 64, 64, 0⟩, ⟨0, 1, List.replicate 32 0⟩, by decide +kernel⟩⟩
theorem witness_StippleCompletes_records : (recd (withSp [])).recHead 0 0 0 = some (0, 0) ∧ ((keyed (recd (withSp [])) true).cl 0).sp.keyed = true ∧
    ((keyed (withSp []) true).cl 0).sp.keyed ≠ decide ((0 : Nat) ≠ 0) := by decide +kernel
theorem test_sp_clr : leaves (.spOpComplete 0 ⟨.port, .ok⟩) (withStip { owner := some own0, port := some (spop (.clr 0 2 3 1)) })
    (fun t => smapGet (fun _ => 0) (t.cl 0).sp.buf (32 * 3) == BitVec.ofNat 64 (semiId 1) && smapGet (fun _ => 0) (t.cl 0).sp.buf (32 * 5) == 0) = true := by decide +kernel
theorem test_sp_bad_header : leaves (.spOpComplete 0 ⟨.lanes, .ok⟩) (withStip { owner := some own0, lanes := some (spop (.mma 0 0 false false true 0 0 0 0 1)) })
    (fun t => decide ((t.ctx h0).reports = [⟨0x10, 0x200#64⟩])) = true := by decide +kernel
theorem witness_PruningPatterns : [(0, 0x3F80), (1, 0x4000), (2, 0xC080)].Nodup ∧ 3 ≤ [(0, 0x3F80), (1, 0x4000), (2, 0xC080)].length ∧
    [(0, 0x3F80), (1, 0x4000)].length ≤ 2 := by decide +kernel
theorem test_keepTwo : keepTwo 0 [(0, 0x3F80), (1, 0x4000), (2, 0xC080)] = ([(1, 0x4000), (2, 0xC080)], true) := by decide +kernel
theorem witness_KeyedPlaces : ({ keys := [⟨4 * keySet 1 0, 1, 0⟩] } : Stipple).place 1 0 = .held (4 * keySet 1 0) ∧
    ({} : Stipple).place 1 0 = .fresh (4 * keySet 1 0) false ∧
    ({ keys := (upto 4).map fun w => ⟨4 * keySet 1 0 + w, 1 + 512 * (w + 1) + w + 1, 0⟩ } : Stipple).place 1 0 = .fresh 2048 true := by decide +kernel
/-- The operation in the lanes waits for its repair pass. -/
def repairing : State := (withB0 (tiled (withStip { owner := some own0, lanes := some (spop (.mma 0 0 false false true 0 0 0 0 1)) }))).modSp 0 fun q =>
  { q with repairing := true, repair := [] }
theorem witness_StippleRepairAndFaults : (repairing.cl 0).sp.lanes = some (spop (.mma 0 0 false false true 0 0 0 0 1)) ∧
    repairing.cluLive 0 = true ∧ (repairing.job own0.job).held = false ∧ (repairing.cl 0).sp.failed = false ∧ (repairing.cl 0).sp.queue = [] ∧
    (repairing.cl 0).sp.repairing = true ∧
    repairing.tileAt 0 0 0 = some ⟨0x11000000000, 3, 0, 0, 1, 4, 64, 64, 64, 0⟩ ∧ (repairing.cl 0).sp.b0 = some ⟨0, 1, List.replicate 32 0⟩ ∧
    ((withStip { owner := some own0, lanes := some (spop (.mma 0 0 false false true 0 0 0 0 1)) }).cl 0).sp.repairing = false := by decide +kernel
theorem test_repair_pass : leaves (.spRepairPass ⟨0, .ok⟩) repairing (fun t => decide ((t.cl 0).sp.lanes = none ∧ (t.cl 0).sp.repairing = false)) = true := by
  decide +kernel

/-! ### Gather and the hot-row map -/

/-- The state that a meaning leaves; the one before where it stops. -/
def nextOf (r : Res) (s : State) : State :=
  match r with
  | .next t => t
  | _ => s
/-- Table 0 of job 1: four rows of four binary32 values from `base` of Reservoir, owned by cluster 0. -/
def tab (base : Nat) : List Host.Cell := cells 0x40000 (words [2 ^ 63 + 2 ^ 60 + 10 * 2 ^ 54 + 4, 4 * 2 ^ 54, base, 1, 0, 0x100000, 1, 0])
def withTab (s : State) (base : Nat) : State := { s.setReg (regNbTbdir 1) 0x40001#64 with mem := s.mem ++ tab base }
/-- A pool of one owner, one target and four columns of table 0. -/
def dPool : List Byte := words [10 * 2 ^ 60 + 2 ^ 48 + 2 ^ 32 + 4 * 2 ^ 22, 0x1000, 0x2000, 0, 0, 0, 0, 0]
/-- An adjacency block of one target with row 2 as its neighbour. -/
def adjBlock : List Byte := withCrc (leBytes 4 64 ++ [1, 4] ++ leBytes 2 1 ++ leBytes 4 1 ++ leBytes 4 32 ++ leBytes 4 48 ++ leBytes 8 0) ++
  words [0x100000000, 0, 2, 0]
/-- A gather of one heavy neighbour of table 0. -/
def dGather : List Byte := words [4 * 2 ^ 48 + 2 ^ 32, 2 ^ 40, 0, 0, 0, 0, 0, 0]
def liveG : State := { (onCtx (liveT 0 0x10000#64 0) h0 fun c => ((c.setSd 1 dPool).setSd 2 dGather).setSd 3 (words [0, 0, 0, 0, 0, 0, 0, 1])).setReg
  (regNbTbdir 1) 0x40001#64 with mem := cells 0x20000 adjBlock ++ tab 0x80000 ++ cells 0x80080 (words [0x3F800000]) }
def fg (slot : BitVec 4) : FormD := ⟨slot, 4, 0, 2, 0, 0, 0, 0⟩
/-- The pool has been issued, or the gather. -/
def pooled : State := nextOf (execNbPool h0 (fg 1) liveG) liveG
def gathering : State := nextOf (execLgGather h0 (fg 2) liveG) liveG

theorem witness_GatherIssues : liveG.Runs (.nbPool h0 (fg 1)) ∧ liveG.Runs (.lgGather h0 (fg 2)) ∧ (liveG.ctx h0).getSd 1 ≠ [] ∧
    padB 64 ((liveG.ctx h0).getSd 1) = dPool ∧ SigMark liveG h0 (fg 1) none ∧ (liveG.cl 0).freeEntry = some 0 ∧
    liveG.halfBusy 0 (ownerOf h0 (liveG.ctx h0)) = false ∧ liveG.qInner 0 4 = false ∧ poolDescOk dPool false = true ∧
    fanOk (liveG.rdN (sheetPa 0 0 (plList dPool)) (16 * plFan dPool)) (plFan dPool) = true ∧
    (liveG.readTable 1 (plTable dPool) (plWidth dPool) 0 (plPub dPool)).isSome = true ∧ gatherDescOk dGather = true ∧
    (liveG.readTable 1 (lgTable dGather) (lgWidth dGather) 0 (lgPub dGather)).isSome = true :=
  ⟨runs_of_b (by decide +kernel), runs_of_b (by decide +kernel), by decide +kernel, by decide +kernel, Or.inl ⟨by decide +kernel, by decide +kernel⟩, by decide +kernel, by decide +kernel, by decide +kernel, by decide +kernel,
    by decide +kernel, by decide +kernel, by decide +kernel, by decide +kernel⟩
theorem test_nbPool : pooled.nbq.map (fun q => (q.region, q.c, q.n, q.idx)) = [(0, 0, 0, 0)] := by decide +kernel
theorem witness_GatherIssueChecks : (liveG.ctx h0).getSd 3 ≠ [] ∧ liveG.Runs (.nbPool h0 (fg 3)) ∧ liveG.Runs (.lgGather h0 (fg 3)) ∧
    poolDescOk (padB 64 ((liveG.ctx h0).getSd 3)) (liveG.qInner 0 4) = false ∧ gatherDescOk (padB 64 ((liveG.ctx h0).getSd 3)) = false :=
  ⟨by decide +kernel, runs_of_b (by decide +kernel), runs_of_b (by decide +kernel), by decide +kernel, by decide +kernel⟩
theorem witness_GatherReadsFlags : liveG.Runs (.nbRdfl h0 ⟨0, 0, 0, 3, 0, 0, 1, 0⟩) ∧ pooled.Runs (.nbRdfl h0 ⟨0, 0, 0, 3, 0, 0, 1, 0⟩) ∧
    (∃ o ∈ (pooled.cl 0).sk, o.own.same (ownerOf h0 (pooled.ctx h0)) = true ∧ (o.kind = .pool ∨ o.kind = .gather)) ∧ (liveG.cl 0).sk = [] :=
  ⟨runs_of_b (by decide +kernel), runs_of_b (by decide +kernel), by decide +kernel, by decide +kernel⟩
theorem witness_PoolingIsOrderFree : [(fmt32.unpack 0x3F800000, fmt32.unpack 5), (fmt32.unpack 5, fmt32.unpack 0x3F800000)].Perm
    [(fmt32.unpack 5, fmt32.unpack 0x3F800000), (fmt32.unpack 0x3F800000, fmt32.unpack 5)] := List.Perm.swap _ _ _
theorem witness_EmptyTargets : (7 : Nat) < 8 := by decide +kernel
theorem witness_NibServesRequests : pooled.regionLive 0 = true ∧ (match pooled.nbNext 0 with
    | some (q, o) => decide (q.share = none ∧ pooled.resultUsed 0 + partBytes o.desc ≤ 524288 ∧ (pooled.setReg (regNbTbdir 1) 0).readTable o.own.job (plTable o.desc) (plWidth o.desc)
        o.gen (plPub o.desc) = none) &&
      (match pooled.readTable o.own.job (plTable o.desc) (plWidth o.desc) o.gen (plPub o.desc),
          pooled.resolve 0 o.own.job .load (pieces ((o.areg.toNat + (o.fanList.getD q.idx (0, 0)).1) % 2 ^ 64) 32) with
        | some (tab, slot), (t1, .ok ps) => (match t1.readParts (.stroke q.c o.n) o.hl ps with
          | (t2, .bytes hb) => (match adjHead hb (plTargets o.desc) with
            | some hd => (match t2.resolve 0 o.own.job .load (pieces ((o.areg.toNat + (o.fanList.getD q.idx (0, 0)).1) % 2 ^ 64) hd.bytes) with
              | (t3, .ok ps2) => (match t3.readParts (.stroke q.c o.n) o.hl ps2 with
                | (t4, .bytes b) => !pooled.qInner q.c o.queue && !t4.qInner q.c o.queue && !t2.qInner q.c o.queue &&
                  (match (t4.countParts ps2).readRows (some (q.c, o.seq)) none tab (plPub o.desc) slot none o.bank
                      ((adjLists hd b tab.rows).1.flatMap (fun l => l.map (fun x => x.1))) with
                    | (_, _, .ok vals) => decide (vals = [[0x3F800000, 0, 0, 0]])
                    | _ => false)
                | _ => false)
              | _ => false)
            | none => false)
          | _ => false)
        | _, _ => false)
    | none => false) = true := ⟨by decide +kernel, by decide +kernel⟩
theorem test_nb_serve : leaves (.nbRequestServe 0 ⟨.ok, none, []⟩) pooled (fun t => decide (t.nbq = [] ∧ t.parts.map NbPart.vals = [[0x3F800000, 0, 0, 0]])) = true := by
  decide +kernel
theorem test_pool_returns : leaves (.nbRequestServe 0 ⟨.ok, none, []⟩) pooled (fun t => leaves (.nbPartialReturn 0 ⟨0, true, .ok⟩) t (fun u =>
    decide (u.parts = [] ∧ (u.cl 0).sk = [] ∧ u.rdLe (sheetPa 0 0 0x1000) 4 = 0x3F800000))) = true := by decide +kernel
theorem witness_NibWaits : liveG.nbNext 0 = none ∧ (pooled.skOp 0 0).isSome = true ∧ pooled.parts = [] := by decide +kernel
/-- The owner has served the pool. -/
def served : State := nextOf (execNbRequestServe 0 ⟨.ok, none, []⟩ pooled) pooled
theorem witness_PartialsReturnInOrder : (match served.skOp 0 0, served.parts with
    | some o, [p] => decide (o.n = 0 ∧ o.kind = .pool ∧ served.skLive 0 o = true ∧ o.pos + 1 = plFan o.desc ∧
        served.parts.find? (fun p => p.c == 0 && p.n == 0 && p.idx == o.pos) = some p ∧ o.pos + 1 < plFan (words [2 ^ 49]))
    | _, _ => false) = true := by decide +kernel
theorem witness_LigatureTiles : (match gathering.lgNext (gathering.ligature 0) with
    | some (c, o) => decide (c = 0 ∧ o.n = 0 ∧ gathering.lgTake (gathering.ligature 0) 16 = gathering ∧ gathering.lgNext (gathering.ligature 32) = none ∧
        o.kind = .gather ∧ o.state = 3 ∧ gathering.joined (148 + gathering.ligature 0) = true ∧
        gathering.nbFailed.contains (128 + gathering.ligature 0) = false ∧ gathering.demandErrs [] = gathering ∧
        (gathering.setReg (regNbTbdir 1) 0).readTable o.own.job (lgTable o.desc) (lgWidth o.desc) o.gen (lgPub o.desc) = none ∧
        (gathering.readTable o.own.job (lgTable o.desc) (lgWidth o.desc) o.gen (lgPub o.desc)).isSome = true) &&
      (match gathering.readVa 0 o ((fld (skWord o.desc 2) 47 0 + o.areg.toNat) % 2 ^ 64) 16,
          (gathering.wrN 0x20000 (withCrc (words [0] ++ leBytes 4 0))).readVa 0 o ((fld (skWord o.desc 2) 47 0 + o.areg.toNat) % 2 ^ 64) 16 with
        | (_, .bytes hb), (_, .bytes hc) => decide (leNat (sliceB hb 12 4) ≠ (crc32c (hb.take 12)).toNat ∧
            leNat (sliceB hc 12 4) = (crc32c (hc.take 12)).toNat ∧ leNat (sliceB hc 4 8) = 0 ∧ leNat (hc.take 4) < lgFirst o.desc + lgNh o.desc)
        | _, _ => false)
    | none => false) = true := by decide +kernel
/-- The list that the gather reads names one target of no neighbour. -/
def listed : State := gathering.wrN 0x20000 (withCrc (leBytes 4 1 ++ words [0]) ++ words [0, 0])
theorem witness_LigatureTiles_writes : (match listed.lgNext 0 with
    | some (c, o) => decide (c = 0 ∧ o.n = 0) && (match listed.readTable o.own.job (lgTable o.desc) (lgWidth o.desc) o.gen (lgPub o.desc),
        listed.readVa 0 o ((fld (skWord o.desc 2) 47 0 + o.areg.toNat) % 2 ^ 64) 16 with
      | some (tab, slot), (t, .bytes hb) => decide (leNat (sliceB hb 12 4) = (crc32c (hb.take 12)).toNat ∧ leNat (sliceB hb 4 8) = 0 ∧
          lgFirst o.desc + lgNh o.desc ≤ leNat (hb.take 4)) &&
        (match t.readVa 0 o ((fld (skWord o.desc 2) 47 0 + o.areg.toNat) % 2 ^ 64 + 16 + 16 * lgFirst o.desc) (16 * lgNh o.desc) with
        | (t1, .bytes eb) => (match t1.readHeavy 0 o ((List.range (lgNh o.desc)).map fun i => (fld (wordAt eb (16 * i + 8)) 39 0, fld (wordAt eb (16 * i + 8)) 63 40)) with
          | (t2, some lists) => (match t2.readRows (some (0, o.seq)) none tab (lgPub o.desc) slot none [] [] with
            | (_, _, .ok vals) => decide (lists = [[]] ∧ vals = [])
            | _ => false)
          | _ => false)
        | _ => false)
      | _, _ => false)
    | none => false) = true := by decide +kernel
theorem witness_TilesEndTheGather : (∃ o, gathering.skOp 0 0 = some o ∧ o.n = 0) ∧
    ((mergeHeavy (([[]] : List (List Heavy)).map List.length).sum [[]]).filter (fun p => decide (p.1 < 4))).length = 0 := by
  refine ⟨?_, by decide +kernel⟩
  have h : (gathering.skOp 0 0).isSome = true ∧ (∀ o ∈ gathering.skOp 0 0, o.n = 0) := by decide +kernel
  cases e : gathering.skOp 0 0 with
  | none => rw [e] at h; exact absurd h.1 (by decide +kernel)
  | some o => exact ⟨o, rfl, h.2 o e⟩
theorem test_lg_bad_header : leaves (.lgTileComplete 0 0 ⟨.ok, none, []⟩) gathering (fun t => decide ((t.cl 0).sk = [] ∧ (t.ctx h0).reports = [⟨0x14, 0x700#64⟩])) = true := by
  decide +kernel
theorem witness_ChunkLayout : ([(((3, []), [0]) : Merged × List Nat)] : List (Merged × List Nat))[0]? = some ((3, []), [0]) := rfl
/-- A hot-row map with one entry of the row at 0x20000, a hot area and a quota of one pin. -/
def hotWith (e : HotEnt) (used : Nat) : State :=
  { ((withTab (liveT 0x10000#64 0 0) 0x20000).setReg (regNbHotarea 0) 0x100000000#64).setReg (regHmPinq 1) (BitVec.ofNat 64 (used * 2 ^ 32 + 1)) with hot := { ents := [e] } }
def hent : HotEnt := ⟨0x20000, 1, 0, none, 3, none, none, false, false⟩
theorem witness_PinStatuses : (hotWith hent 0).Runs (.hmPin h0 (fk 0)) ∧
    (hotWith hent 0).translate 0 1 (((hotWith hent 0).ctx h0).getA 1) .load = (.ok 0x20000 false, hotWith hent 0) ∧
    ((hotWith hent 0).setReg (regNbTbdir 1) 0).rowAt 1 0x20000 = none ∧
    (match (hotWith hent 0).rowAt 1 0x20000 with
      | some (d, r) => decide (d.rb = 64 * ((fk 0).imm.toNat + 1) ∧ ((hotWith hent 0).hotArea (d.owner r)).2 ≠ 0)
      | none => false) = true ∧
    (hotWith hent 0).hotEnt 0x20000 = some hent ∧ hent.pin = none ∧ hent.pend = none ∧
    (hotWith hent 0).rfld (regHmPinq 1) 47 32 < (hotWith hent 0).rfld (regHmPinq 1) 15 0 ∧ (hotWith hent 0).pinnedWays 0x20000 < 4 ∧
    (hotWith hent 1).rfld (regHmPinq 1) 15 0 ≤ (hotWith hent 1).rfld (regHmPinq 1) 47 32 ∧
    (hotWith { hent with pin := some 2 } 0).hotEnt 0x20000 = some { hent with pin := some 2 } ∧
    ({ hotWith hent 0 with hot := { ents := hent :: List.replicate 4 { hent with home := 0x20001, pin := some 2 } } } : State).pinnedWays 0x20000 = 4 :=
  ⟨runs_of_b (by decide +kernel), by decide +kernel, by decide +kernel, by decide +kernel, by decide +kernel, by decide +kernel, by decide +kernel, by decide +kernel,
    by decide +kernel, by decide +kernel, by decide +kernel, by decide +kernel⟩
theorem witness_PinStatuses_more : (hotWith { hent with pin := some 1, due := true } 1).hotEnt 0x20000 = some { hent with pin := some 1, due := true } ∧
    (hotWith { hent with pend := some ⟨0x10000000000, none⟩ } 0).hotEnt 0x20000 = some { hent with pend := some ⟨0x10000000000, none⟩ } ∧
    (hotWith { hent with pin := some 1, lost := true } 1).hotEnt 0x20000 = some { hent with pin := some 1, lost := true } := by decide +kernel
theorem test_pin : leaves (.hmPin h0 (fk 0)) (hotWith hent 0) (fun t => a3pc t == (0, 0x1008) && t.hot.ents.map HotEnt.pin == [some 1]) = true := by decide +kernel
theorem test_pin_quota : leaves (.hmPin h0 (fk 0)) (hotWith hent 1) (fun t => a3pc t == (0x10, 0x1008)) = true := by decide +kernel
theorem witness_PinsEnd : (∀ i ∈ [Instr.hmUnpin h0 (fk 0), .hmLook h0 (fk 0), .hmUnpinall h0 ⟨3, 0, 0, 0, 0⟩], (hotWith { hent with pin := some 1 } 1).Runs i) ∧
    (hotWith { hent with pin := some 1 } 1).translate 0 1 (((hotWith { hent with pin := some 1 } 1).ctx h0).getA 1) .load =
      (.ok 0x20000 false, hotWith { hent with pin := some 1 } 1) ∧ (hotWith { hent with pin := some 1 } 1).hotEnt 0x20000 = some { hent with pin := some 1 } ∧
    (hotWith hent 0).hotEnt 0x20000 = some hent ∧ hent.pin ≠ some 1 := ⟨run_all (by decide +kernel), by decide +kernel, by decide +kernel, by decide +kernel, by decide +kernel⟩
theorem test_unpin : leaves (.hmUnpin h0 (fk 0)) (hotWith { hent with pin := some 1 } 1)
    (fun t => a3pc t == (0, 0x1008) && t.hot.ents.map HotEnt.pin == [none]) = true := by decide +kernel
/-- A copy under way to Inkwell. -/
def hpend : HotEnt := { hent with pend := some ⟨0x10000000000, none⟩ }
theorem witness_CopyCompletes : (hotWith hpend 0).hotEnt 0x20000 = some hpend ∧ hpend.home = 0x20000 ∧ hpend.pend = some ⟨0x10000000000, none⟩ ∧
    hpend.lost = false ∧ (hotWith hpend 0).poisoned 0x20000 (64 * hpend.units) = false ∧ Intact (hotWith hpend 0) ∧ 0x20000 + 64 * hpend.units ≤ 0x10000000000 :=
  ⟨by decide +kernel, by decide +kernel, by decide +kernel, by decide +kernel, by decide +kernel, intact_of rfl rfl, by decide +kernel⟩
theorem test_copy : leaves (.hmCopyComplete ⟨0x20000, false⟩) (hotWith hpend 0)
    (fun t => t.rd 0x10000000000 == 0x81#8 && t.hot.ents.map HotEnt.copy == [some 0x10000000000]) = true := by decide +kernel
theorem witness_HotMapRegisters : fld 0x200000001#64 15 0 < 2 ∧ (hotWith hent 1).rfld (regHmPinq 1) 47 32 = 1 ∧ fld 0#64 15 0 < (hotWith hent 1).rfld (regHmPinq 1) 47 32 ∧
    ((hotWith hent 0).setReg regHmCfg 0).hotOn = false ∧ (hotWith hent 0).hotOn = true ∧ fld 0x100000000#64 8 0 + fld 0x100000000#64 40 32 ≤ 384 ∧ 384 < fld 0x1000000181#64 8 0 + fld 0x1000000181#64 40 32 ∧
    (hotWith hent 0).hot.cand = [] ∧ (hotWith hent 0).hot.moves = [] := by decide +kernel

/-! ### Tables, updates, editions -/

/-- A record block of one binary32 record: row 1, columns 0 to 31, values 1. -/
def recOne (row : Nat) : List Byte := withCrc (leBytes 4 160 ++ leBytes 4 1 ++ [10, 4, 0, 0]) ++ leBytes 8 (2 ^ 63 + row) ++
  (List.replicate 4 (leBytes 4 0x3F800000)).flatten
/-- The descriptor of an update at rate 1 of table 0. -/
def dUpd : List Byte := words [7, 0x3F800000, 0, 0, 0, 0, 0, 0]
/-- The task of `liveG`'s job with an update descriptor in slot 1; its record block, or a list with table 0, stands in its Sheet. -/
def liveU (b : List Byte) : State := { (onCtx (live 0 0 0) h0 fun c => c.setSd 1 dUpd).setReg (regNbTbdir 1) 0x40001#64 with
  mem := tab 0x80000 ++ cells (sheetPa 0 0 0) b
  tables := [(4096, { slots := [⟨0, .staging, 7, [], 0, 0, false⟩], lastStep := 7 })] }
def fu (imm : BitVec 20) : FormD := ⟨0, 4, 0, 0, 0, 0, 0, imm⟩
def fu1 : FormD := ⟨1, 4, 0, 0, 0, 0, 0, 0⟩
/-- A publication list of table 0. -/
def pubList : List Byte := words [1, 0, 0]
def updating : State := nextOf (execTbUpdate h0 fu1 (liveU (recOne 1))) State.reset
def building : State := nextOf (execTbBuild h0 (fu 0) (liveU [])) State.reset
def publishing : State := nextOf (execTbPublish h0 (fu 0) (liveU pubList)) State.reset

theorem witness_TableOperationsStart_update : (liveU (recOne 1)).Runs (.tbUpdate h0 fu1) ∧ SigMark (liveU (recOne 1)) h0 fu1 none ∧
    ((liveU (recOne 1)).cl 0).freeEntry = some 0 ∧ (liveU (recOne 1)).qInner 0 4 = false ∧ (liveU (recOne 1)).stepHolds 1 = false ∧
    ((liveU (recOne 1)).ctx h0).getSd 1 = dUpd ∧ updDescOk dUpd = true ∧
    (match (liveU (recOne 1)).desc 1 (upTable dUpd), (liveU (recOne 1)).recHead 0 0 0 with
      | some tab, some (g, x) => decide (tab.kind = 0 ∧ x ≤ 1024) &&
          (keepRecs tab ((liveU (recOne 1)).readRecs (sheetPa 0 0 0 + 16) g x).1).1.any (fun r => decide (tab.owner r.row < 128))
      | _, _ => false) = true :=
  ⟨runs_of_b (by decide +kernel), Or.inl ⟨by decide +kernel, by decide +kernel⟩, by decide +kernel, by decide +kernel, by decide +kernel, by decide +kernel, by decide +kernel,
    by decide +kernel⟩
theorem witness_TableOperationsStart : (liveU pubList).Runs (.tbBuild h0 (fu 0)) ∧ ((liveU pubList).desc 1 0).isSome = true ∧ ((liveU pubList).table 1 0).build = none ∧
    (liveU pubList).Runs (.tbPublish h0 (fu 0)) ∧ ((liveU pubList).ctx h0).task.fair = true ∧ offOk 0 = true ∧ inRegion 0 16 = true ∧
    parseList ((liveU pubList).rdN (sheetPa 0 0 0) 144) = some [0] ∧ inRegion 0 18 = true ∧ (liveU pubList).stageStep 1 [0] = some 7 :=
  ⟨runs_of_b (by decide +kernel), by decide +kernel, by decide +kernel, runs_of_b (by decide +kernel), by decide +kernel, by decide +kernel, by decide +kernel, by decide +kernel,
    by decide +kernel, by decide +kernel⟩
theorem test_tbUpdate : (updating.nbq.map fun q => (q.region, (q.share.map fun x => x.recs.map GradRec.row))) = [(0, some [1])] := by decide +kernel
theorem witness_TableOperationsStop : (liveU []).qInner 0 4 = false ∧ ((liveU []).setReg (regNbTbdir 1) 0).desc 1 0 = none ∧ ((liveU []).desc 1 0).isSome = true ∧
    (liveU []).recHead 0 0 0 = none ∧ (op0 3).fair ≠ false ∧ ({ op0 3 with fair := false } : SkOp).fair = false ∧
    parseList ((liveU (words [1, 0, 5])).rdN (sheetPa 0 0 0) 144) = some [5] ∧ (liveU (words [1, 0, 5])).stageStep 1 [5] = none := by decide +kernel
theorem test_tbPublish_stage : leaves (.tbPublish h0 (fu 0)) (liveU (words [1, 0, 5])) (fun t => decide ((t.cl 0).sk = [] ∧ (t.ctx h0).reports = [⟨0x16, 0xB00#64⟩])) = true := by
  decide +kernel
/-- The same with an edition that is active since generation 0. -/
def liveE : State := { liveU [] with tables := [(4096, { slots := [⟨1, .active, 7, [], 0, 0, false⟩] })] }
theorem witness_EditionAddress : liveE.Runs (.tbEdaddr h0 ⟨0, 0, 0, 3, 0, 0, 0, 0⟩) ∧ (liveE.desc 1 0).isSome = true ∧ ((liveE.table 1 0).editionAt 0).isSome = true ∧
    (liveE.setReg (regNbTbdir 1) 0).desc 1 0 = none := ⟨runs_of_b (by decide +kernel), by decide +kernel, by decide +kernel, by decide +kernel⟩
theorem test_tbEdaddr : leaves (.tbEdaddr h0 ⟨0, 0, 0, 3, 0, 0, 0, 0⟩) liveE (fun t => a3pc t == (0x110000#64, 0x1008)) = true := by decide +kernel
/-- The descriptor of table 0. -/
def d0 : Desc := parseDesc (words [2 ^ 63 + 2 ^ 60 + 10 * 2 ^ 54 + 4, 4 * 2 ^ 54, 0x80000, 1, 0, 0x100000, 1, 0])
theorem test_sgd : updElem 0 0x3F000000 0 0 0 0 0 0x3F800000 0x3F800000 [] = ([], 0x3F000000) := by decide +kernel
theorem witness_RowUpdates : (List.replicate 64 0#8).length = d0.rb ∧ 1 ≤ d0.width ∧ d0.vfmt = 10 ∧ d0.opt ≤ 3 ∧ (∀ g ∈ [(0, 0x3F800000)], g.1 < d0.width) ∧
    (updRow d0 dUpd 1 (List.replicate 64 0#8) [(0, 0x3F800000)]).isSome = true ∧ (2 < d0.width ∧ ∀ g ∈ [(0, 0x3F800000)], g.1 ≠ 2) ∧
    (∃ g ∈ [(0, 0x7F800000)], isFin32 g.2 = false) ∧ (liveU []).firstPoison (d0.homeOf 1) d0.rb = none ∧
    updRow d0 dUpd 1 (((liveU []).memSnoop (d0.homeOf 1) d0.rb).rdN (d0.homeOf 1) d0.rb) (sumGrads d0.width [⟨1, 0, [0x7F800000]⟩]) = none := by decide +kernel
theorem witness_GradientSumsAreOrderFree : [(⟨1, 0, [5]⟩ : GradRec), ⟨1, 0, [6]⟩].Perm [⟨1, 0, [6]⟩, ⟨1, 0, [5]⟩] := List.Perm.swap _ _ _
theorem witness_FirstTouchUndo : (({ liveU [] with undo := [(1, { recs := [⟨0, 0, 1, 0, 80⟩] })] } : State).undoRt 1).has 0 1 = true ∧
    ((liveU []).undoRt 1).has 0 1 = false ∧ (liveU []).undoSize 1 < ((liveU []).undoRt 1).used + 16 + 64 ∧
    (((liveU []).setReg (regNbUndo 1) (BitVec.ofNat 64 (2 ^ 48))).undoRt 1).used + 16 + 64 ≤ ((liveU []).setReg (regNbUndo 1) (BitVec.ofNat 64 (2 ^ 48))).undoSize 1 := by
  decide +kernel
/-- The owner has applied the share of the update. -/
def applied : State := nextOf (execNbUpdateAdmit 0 (updating.setReg (regNbUndo 1) (BitVec.ofNat 64 (2 ^ 48 + 2 ^ 20)))) updating
theorem witness_SharesAreServed : (liveU []).clu = [] ∧ (liveU []).updNext 0 = [] ∧
    (match updating.nbq with
      | [q] => (match q.share with
        | some sh => decide ((updating.desc sh.job sh.table).isSome = true ∧ sh.held = false ∧
            (({ updating with tables := [(4096, { build := some ⟨0, 0, false, none⟩ })] } : State).table sh.job sh.table).build.isSome = true)
        | none => false)
      | _ => false) = true ∧
    (match applied.skOp 0 0, applied.nbq with
      | some o, [q] => decide (o.n = 0 ∧ o.wait = [0] ∧ q.region = 0 ∧ q.c = 0 ∧ q.n = 0) && (match q.share with
        | some sh => sh.applied
        | none => false)
      | _, _ => false) = true ∧ (liveU []).skOp 0 0 = none := by decide +kernel
theorem test_update_row : applied.rdLe (0x80000 + 64) 4 = 0xBF800000 ∧ applied.rdLe (0x80000 + 64 + 16) 8 = 7 := by decide +kernel
theorem test_update_ack : leaves (.nbUpdateAck 0 0 0) applied (fun t => decide (t.nbq = [] ∧ (t.cl 0).sk = [])) = true := by decide +kernel
theorem witness_BuildsComplete : (∀ k x, x ∈ (building.cl k).sk → x.kind = .build → x.state ≠ 1) ∧ (∀ segs, (liveU []).buildPoison d0 segs = none) ∧
    (match building.skOp 0 0, (building.reclaim 1).table 1 0 with
      | some o, t => decide (o.n = 0 ∧ o.kind = .build ∧ building.skLive 0 o = true ∧ (building.reclaim 1).desc 1 0 = some d0 ∧ d0.kind = 0 ∧
          (building.reclaim 1).mirrors = false ∧ t.build = some ⟨0, 0, false, some 0⟩ ∧
          t.slots.find? (fun e => e.slot = 0) = some ⟨0, .staging, 7, [], 0, 0, false⟩)
      | none, _ => false) = true := by
  refine ⟨?_, ?_, by decide +kernel⟩
  · have e : building.clu.all (fun c => c.2.sk.all fun x => decide (x.kind = .build → x.state ≠ 1)) = true := by decide +kernel
    intro k x hx
    exact of_decide_eq_true (List.all_eq_true.mp (smapGet_all (p := fun c : Cluster => c.sk.all fun x => decide (x.kind = .build → x.state ≠ 1)) e (fun _ => rfl) k) x hx)
  · intro segs
    have hp : ∀ pa n, (liveU []).firstPoison pa n = none := fun _ _ => rfl
    simp [State.buildPoison, hp]
/-- The build finds every slot of its table in use, of an active edition and three that a wide job keeps, or but the last. -/
def noSlot (n : Nat) (w : Bool) : State := { building with tables := [(4096, {
  slots := (upto n).map fun i => ⟨i, if i = 0 then .active else .retired, 7, [], 0, 0, true⟩, build := some ⟨0, 0, w, none⟩ })] }
theorem witness_BuildsComplete_waits : (((noSlot 4 false).reclaim 1).table 1 0).slots.all (fun e => decide (e.role ≠ .staging)) = true ∧
    (∀ i, i < 4 → ∃ e ∈ (((noSlot 4 false).reclaim 1).table 1 0).slots, e.slot = i) ∧
    (((noSlot 4 false).reclaim 1).table 1 0).build = some ⟨0, 0, false, none⟩ ∧ (((noSlot 4 true).reclaim 1).table 1 0).build = some ⟨0, 0, true, none⟩ ∧
    (List.range 4).find? (fun i => !(((noSlot 3 true).reclaim 1).table 1 0).slots.any (fun e => e.slot == i)) = some 3 := by decide +kernel
theorem test_build_completes : leaves (.nbBuildComplete 0 0) building (fun t => decide ((t.cl 0).sk = [] ∧ (t.table 1 0).build = none)) = true := by decide +kernel
/-- The share of the update has its place in the owner's buffer. -/
def admitted : State := { updating.setReg (regNbUndo 1) (BitVec.ofNat 64 (2 ^ 48 + 2 ^ 20)) with nbq := updating.nbq.map fun (q : NbReq) => { q with share := q.share.map fun (x : Share) => { x with admitted := true } } }
theorem witness_SharesAreServed_row : (∀ c ∈ admitted.clu, ∀ o ∈ c.2.sk, o.kind = .update → o.state ≠ 1) ∧ admitted.regionLive 0 = true ∧
    (match admitted.updNext 0 with
      | [(q, sh, _)] => decide (q ∈ admitted.nbq ∧ q.share = some sh ∧ q.region = 0 ∧ admitted.desc sh.job sh.table = some d0 ∧
          (admitted.table sh.job sh.table).build = none ∧ sh.admitted = true ∧ sh.held = false) && (match sh.recs with
        | [g] => (match admitted.updateRow sh d0 g.row [g] with
          | .done t _ => decide (t.rdLe (0x80000 + 64) 4 = 0xBF800000)
          | _ => false)
        | _ => false)
      | _ => false) = true := by decide +kernel
theorem witness_TableDirectories : (liveU []).tasksIn 1 = true ∧ State.reset.tasksIn 1 = false := by decide +kernel
theorem witness_RowPlacement : d0.ownerList ≠ [] ∧ d0.home = 1 ∧ ({ d0 with home := 0 } : Desc).owner 0 = ({ d0 with home := 0 } : Desc).owner 1 ∧
    ({ d0 with home := 0 } : Desc).homeOf 0 ≠ ({ d0 with home := 0 } : Desc).homeOf 1 := by decide +kernel
theorem witness_PublicationChecks : (up []).pubq = [] ∧ (match publishing.pubq.find? (fun p => p.job == 1) with
      | some p => decide (p.started = false ∧ p.tables = [0] ∧ p.step = 7 ∧ publishing.folioPhase = 0 ∧ (publishing.job 1).held = false ∧
          publishing.rbit (regMkJobstat 1) 0 = false ∧ publishing.stageStep 1 p.tables = some p.step ∧
          ({ publishing with tables := [] } : State).stageStep 1 p.tables ≠ some p.step)
      | none => false) = true := by decide +kernel
/-- The same with the journal in place, and with the parent step end in it. -/
def journalled : State := publishing.setReg regFwJournal 0xFFC0000001#64
def parented : State := journalled.journal (journalled.mkRec 4 7#64 0 1 1 0 0)
theorem witness_PublicationChecks_gate : (match journalled.pubq.find? (fun p => p.job == 1) with
      | some p => journalled.pubGate p && decide (journalled.pubReady 0 = false ∧ journalled.stepCsn 1 p.step = none ∧
          parented.pubGate p = true ∧ parented.pubReady 0 = false ∧ parented.stepCsn 1 p.step = some 4 ∧ parented.assign.1.isSome = true ∧
          parented.rbit (regMkJobstat 1) 0 = false ∧ parented.stageStep 1 p.tables = some p.step) &&
        ((parented.setReg (regMkJobstat 1) 1#64).rbit (regMkJobstat 1) 0 && (parented.setJr 32 (2 ^ 64 - 2)).assign.1.isNone)
      | none => false) = true := by decide +kernel
theorem witness_WideRetentionEnds : ((({ liveE with tables := [(4096, { slots := [⟨2, .retired, 7, [], 0, 0, true⟩] })] } : State).table 1 0).slots.map EdSlot.wide) = [true] := by
  decide +kernel

/-! ### Ductus -/

/-- A task descriptor: Draft, any cluster no, cluster 0, entry 0x2000. -/
def dTask : List Byte := words [0x2000, 0, 11, 12, 0, 0, 0, 0]
def liveD1 : State := onCtx (live 7 5 0) h0 fun c => (c.setSd 1 dTask).setSd 2 (words [1])
def fs (slot : BitVec 4) (imm : BitVec 20) : FormD := ⟨slot, 0, 0, 1, 0, 0, 0, imm⟩
/-- A queued task of job 1. -/
def tk (fair : Bool) (prio num : Nat) : Task := { job := 1, num := num, fair := fair, prio := prio, entry := 0x3000#64, a1 := 9 }
/-- Every context of core 0 holds a task of job 1. -/
def full (fair : Bool) : State := { live 0 0 0 with
  ctxs := [(0, { taskWith 0 0 0 with task := { job := 1, fair := fair } }), (1, { taskWith 0 0 0 with task := { job := 1, fair := true, num := 1 } })] }

theorem witness_SpawnSubmitsTasks : liveD1.Runs (.dxSpawn h0 (fs 1 0)) ∧ (liveD1.ctx h0).getSd 1 = dTask ∧ taskDescOk (padB 64 dTask) = true ∧
    SigMark liveD1 h0 (fs 1 0) none ∧ liveD1.dx.buf = [] ∧ liveD1.dx.die < 4096 ∧ liveD1.dx.drafts < 3072 ∧
    liveD1.dx.spill = [] ∧ liveD1.Runs (.dxSpawn h0 (fs 2 0)) ∧ taskDescOk (padB 64 ((liveD1.ctx h0).getSd 2)) = false ∧
    8 ≤ (({ liveD1 with dx := { buf := List.replicate 8 (tk false 0 0) } } : State).dx.buf.filter (fun t => t.src == 0)).length :=
  ⟨runs_of_b (by decide +kernel), by decide +kernel, by decide +kernel, Or.inl ⟨by decide +kernel, by decide +kernel⟩, by decide +kernel, by decide +kernel, by decide +kernel, by decide +kernel, runs_of_b (by decide +kernel), by decide +kernel, by decide +kernel⟩
theorem test_spawn : leaves (.dxSpawn h0 (fs 1 0)) liveD1
    (fun t => (t.dx.devq.map fun x => (x.job, x.entry, x.a1, x.a2, x.a3)) == [(1, 0x2000#64, 7#64, 11#64, 12#64)]) = true := by decide +kernel
theorem witness_SleepLeavesTheContext : (live 0 0 0).Runs (.dxSleep h0 ⟨0, 0, 0, 0, 0, 0, 0, 5⟩) ∧ (live 0 0 0).freeRecord 0 = some 0 ∧
    (live 0 0 0).canLeave h0 = true ∧ (live 0 0 0).dx.delayed 0 < 1024 ∧
    ({ live 0 0 0 with dx := { saved := (upto 3).map fun r => (r, some ⟨{}, false⟩) } } : State).freeRecord 0 = none :=
  ⟨runs_of_b (by decide +kernel), by decide +kernel, by decide +kernel, by decide +kernel, by decide +kernel⟩
theorem test_sleep : leaves (.dxSleep h0 ⟨0, 0, 0, 0, 0, 0, 0, 5⟩) (live 0 0 0)
    (fun t => decide (t.dx.delay = [⟨0, 5000, .sleeper 0⟩] ∧ (t.ctx h0).run = .idle)) = true := by decide +kernel
theorem witness_StepEndAndEnergy : (live 7 5 0).Runs (.dxStepend h0 (fs 0 0)) ∧ SigMark (live 7 5 0) h0 (fs 0 0) none ∧ (live 7 5 0).fenceDone h0 = true ∧
    (live 7 5 0).stepRefused 1 7 = false ∧ ({ live 7 5 0 with dx := { prevStep := [(1, (7, 3))] } } : State).stepRefused 1 7 = true ∧
    (busyQ (live 7 5 0)).fenceDone h0 = false ∧ (live 7 5 0).Runs (.dxRde h0 (fs 0 0)) :=
  ⟨runs_of_b (by decide +kernel), Or.inl ⟨by decide +kernel, by decide +kernel⟩, by decide +kernel, by decide +kernel, by decide +kernel, by decide +kernel, runs_of_b (by decide +kernel)⟩
theorem test_stepend_waits : leaves (.dxStepend h0 (fs 0 0)) (live 7 5 0)
    (fun t => decide ((t.ctx h0).run = .waiting .stepEnd ∧ t.dx.steps.map StepReq.step = [7])) = true := by decide +kernel
/-- A journal at its place, and a step end that waits. -/
def stepping (step : Word) : State := { (up []).setReg regFwJournal 0xFFC0000001#64 with
  ctxs := [(0, { taskWith 7 5 0 with run := .waiting .stepEnd })], dx := { steps := [⟨1, h0, 1, step, none, none, none, false⟩], prevStep := [(1, (3, 2))] } }
theorem witness_StepEndsAreRequested : ((stepping 7).dx.steps.find? (fun q => q.job == 1 && q.csn.isNone)).isSome = true ∧ (stepping 7).rowsOut 1 = false ∧
    (stepping 7).stepHolds 1 = false ∧ (stepping 7).stepTurn 1 = true ∧ ((stepping 7).setJr 32 (2 ^ 64 - 2)).assign.1 = none ∧ (stepping 7).mayCommit = true ∧ (stepping 7).dx.stopped = false ∧ ((stepping 7).job 1).held = false ∧
    (stepping 7).stepRefused 1 7 = false ∧ (stepping 3).stepRefused 1 3 = true ∧ (stepping 7).role ≠ 2 ∧ (stepping 7).assign.1 = some 1 ∧
    ((stepping 7).setRfld regCbStatus 2 0 2).role = 2 ∧ ((stepping 7).setRfld regCbStatus 2 0 2).mayCommit = true ∧
    ({ stepping 7 with clu := [(0, { sk := [{ op0 3 with kind := .build }] })] } : State).rowsOut 1 = true ∧ (∀ q ∈ (up []).dx.steps, q.job ≠ 1 ∨ q.csn.isSome = true) := by
  decide +kernel
theorem witness_StepEndsAreRequested_turn : ({ stepping 7 with
    jobs := [(0, { loaded := true }), (1, { loaded := true })]
    dx := { steps := [⟨1, h0, 1, 7, none, none, none, false⟩, ⟨0, ⟨1, 0⟩, 1, 7, none, none, none, false⟩] } } : State).stepTurn 1 = false := by decide +kernel
theorem test_step_recorded : leaves (.stependRequest 1) (stepping 7)
    (fun t => decide (t.recordedCsn = 1 ∧ t.dx.steps = [] ∧ (t.ctx h0).getA 1 = 1 ∧ (t.ctx h0).run = .ready)) = true := by decide +kernel
theorem test_step_refused : leaves (.stependRequest 1) (stepping 3) (fun t => decide (t.recordedCsn = 0 ∧ (t.ctx h0).getA 1 = 0)) = true := by decide +kernel
/-- A queue of the device, or of the die's spill ring. -/
def queued : State := { up [] with dx := { devq := [tk false 0 4] } }
theorem witness_QueuesForwardInOrder : queued.clusterUp 0 = true ∧ queued.dx.stopped = false ∧ queued.dx.expired = [] ∧ queued.dx.buf = [] ∧
    queued.dx.devq = tk false 0 4 :: [] ∧ (tk false 0 4).any = false ∧ (tk false 0 4).target = 0 ∧ (tk false 0 4).delay = none ∧
    queued.dx.level 0 false 0 < 64 ∧ State.reset.clusterUp 0 = false ∧ ({ up [] with dx := { spill := [tk false 0 4] } } : State).dx.spill = tk false 0 4 :: [] ∧
    ({ up [] with dx := { spill := [tk false 0 4] } } : State).dx.die < 4096 ∧ ({ up [] with dx := { spill := [tk false 0 4] } } : State).dx.drafts < 3072 ∧
    ({ tk false 0 4 with delay := some 5 } : Task).delay = some 5 ∧ queued.dx.delayed 0 < 1024 := by decide +kernel
theorem test_forward : leaves (.devqForward 0) queued (fun t => decide (t.dx.devq = [] ∧ t.dx.clq.map Task.num = [4])) = true := by decide +kernel
/-- A queue of cluster 0 with one task. -/
def waitingAt (fair : Bool) : State := { up [] with dx := { clq := [tk fair 0 4] } }
theorem witness_DispatchTakesTheBest : ∀ f ∈ [true, false], (waitingAt f).coreLive 0 = true ∧ (waitingAt f).dx.stopped = false ∧ (waitingAt f).freeSlot 0 = some h0 ∧
    (waitingAt f).dx.restored = [] ∧ (∀ r, r < 3 → smapGet (fun _ => none) (waitingAt f).dx.saved (4 * 0 + r) = none) ∧
    (waitingAt f).dx.clq.filter (fun t => t.target == 0) = [tk f 0 4] ∧ (waitingAt f).mayRun (tk f 0 4) false = true ∧ (waitingAt f).usesOk 0 (tk f 0 4) = true ∧
    ((waitingAt f).ctx ⟨0, 1 - h0.ctx % 2⟩).reports = [] ∧ (waitingAt f).ringBehind 0 = false ∧ (waitingAt f).admits (tk f 0 4) 0 = true := by decide +kernel
theorem witness_DispatchTakesTheBest_behind : ({ waitingAt false with dx := { clq := [tk false 0 4, { tk false 0 5 with target := 1 }], lastAdmit := 127 } } : State).ringBehind 1
    = true := by decide +kernel
theorem witness_DispatchTakesTheBest_refused : ((waitingAt false).setRfld regPwStatus 4 2 2).admits (tk false 0 4) 0 = false ∧
    ((waitingAt false).setRfld regPwStatus 4 2 2).mayRun (tk false 0 4) false = true := by decide +kernel
theorem test_dispatch : leaves (.taskDispatch 0) (waitingAt true)
    (fun t => decide ((t.ctx h0).run = .ready ∧ (t.ctx h0).pc = 0x3000#64 ∧ (t.ctx h0).getA 1 = 9 ∧ t.dx.clq = [])) = true := by decide +kernel
theorem witness_Ranking : (tk true 0 0).fair = true ∧ (tk false 0 0).fair = false ∧ (tk false 1 0).prio < (tk false 2 0).prio ∧
    outranks (tk true 0 0) false (tk false 2 0) false = true ∧ outranks (tk false 2 0) false (tk false 1 0) false = true := by decide +kernel
/-- Two Draft tasks run, a Fair-copy task waits. -/
def pressed : State := { full false with dx := { clq := [tk true 0 4] } }
theorem witness_PreemptionSavesTheContext : pressed.coreLive 0 = true ∧ pressed.dx.stopped = false ∧ pressed.freeSlot 0 = none ∧ (pressed.topCand 0).isSome = true ∧
    pressed.freeRecord 0 = some 0 ∧ (match pressed.topCand 0 with
      | some x => decide (pressed.pickVictim 0 x = some h0)
      | none => false) = true ∧ pressed.canLeave h0 = true ∧ (pressed.ctx h0).reports = [] ∧ (pressed.ctx h0).run = .ready ∧ ((live 0 0 0).freeSlot 0).isSome = true := by decide +kernel
theorem test_preempt : leaves (.preempt 0) pressed (fun t => decide ((t.ctx h0).run = .idle ∧ (t.ctx h1).run = .ready)) = true := by decide +kernel
/-- A saved Draft task owns the Quill, and a Fair-copy task that uses it waits. -/
def swapDue (en : Word) : State := { (up []).setReg (regDxOwnarea 1) en with
  clu := [(0, { ql := { owner := some own0 } })], dx := { clq := [{ tk true 0 4 with ql := true }], saved := [(0, some ⟨{ taskWith 0 0 0 with task := { job := 1 } }, false⟩)] } }
theorem witness_OwnerSwaps : ((swapDue 1).cl 0).ql.owner = some own0 ∧ (swapDue 0).rbit (regDxOwnarea 1) 0 = false ∧ (swapDue 1).rbit (regDxOwnarea 1) 0 = true ∧
    (∀ x ∈ ((swapDue 1).cl 0).ql.ops, x.own.same own0 = false) ∧ (swapDue 1).swapFor 0 .quill own0 = true ∧ (swapDue 1).coreLive 0 = true ∧
    (swapDue 1).dx.stopped = false := by decide +kernel
/-- A task that waits in place, and one whose delay ends. -/
def sleepers : State := { up [] with ctxs := [(0, { taskWith 0 0 0 with run := .waiting (.sleep 1000) })] }
def delayed : State := { up [] with dx := { delay := [⟨0, 1000, .spawn (tk false 0 4)⟩] } }
theorem witness_DelayTicks : sleepers.role ≠ 3 ∧ sleepers.dx.stopped = false ∧ sleepers.dx.delay = [] ∧ (sleepers.ctx h0).run = .waiting (.sleep 1000) ∧
    delayed.dx.expired = [] ∧ delayed.dx.delay = [DelayEnt.mk 0 1000 (.spawn (tk false 0 4))] ∧ (tk false 0 4).target = 0 ∧ delayed.dx.level 0 false 0 < 64 ∧ delayed.clusterUp 0 = true ∧ (∀ i, (delayed.ctx ⟨0, i⟩).reports = []) :=
  ⟨by decide +kernel, by decide +kernel, by decide +kernel, by decide +kernel, by decide +kernel, by decide +kernel, by decide +kernel, by decide +kernel,
    by decide +kernel, fun _ => rfl⟩
theorem test_tick : leaves .delayTick delayed (fun t => decide (t.time = 1000 ∧ t.dx.delay = [] ∧ t.dx.clq.map Task.num = [4])) = true := by decide +kernel
theorem test_tick_wakes : leaves .delayTick sleepers (fun t => decide ((t.ctx h0).run = .ready ∧ (t.ctx h0).pc = 0x1008#64)) = true := by decide +kernel
theorem witness_EnergyCounts : (5 : Nat) < 176 ∧ (State.reset.ctx h0).run = .idle ∧ ((full false).ctx h0).run ≠ .idle ∧ (full false).dx.stopped = false ∧
    ((full false).ctx h0).task.fair = false ∧ ((full false).ctx h0).task.job < 16 := by decide +kernel
theorem test_energy : leaves (.energyUpdate [⟨h0, 1500, 5, 2⟩]) (full false) (fun t => decide ((t.ctx h0).energy = 1500 ∧ t.reg (regPwEdom 5) = 2)) = true := by
  decide +kernel
/-- Cluster 1 is folded with cluster 0. -/
def folded (sw : Bool) : State := { up [] with dx := { folds := [⟨0, 0, 1, 0, sw, 0⟩] } }
theorem witness_FoldSwaps : (up []).foldAt 0 = none ∧ (folded false).foldAt 0 = some ⟨0, 0, 1, 0, false, 0⟩ ∧ (folded false).dx.stopped = false ∧
    ((folded false).ctx ⟨0, 0⟩).run = .idle ∧ ((folded false).ctx ⟨0, 1⟩).run = .idle ∧ (folded true).foldAt 0 = some ⟨0, 0, 1, 0, true, 0⟩ := by decide +kernel
theorem test_fold_swap : leaves (.foldSwap 0) (folded false) (fun t => t.dx.folds.map Fold.swapping == [true]) = true := by decide +kernel
theorem witness_DuctusRegisters : ({ up [] with dx := { spill := [tk false 0 4] } } : State).dx.spill ≠ [] ∧ (up []).dx.spill = [] ∧ (up []).tasksIn 1 = true ∧
    State.reset.tasksIn 1 = false ∧ 356 < fld 0x1650000#64 24 16 ∧ fld 0x1640000#64 24 16 ≤ 356 ∧ 950 * (up []).phases / 40 < fld 0x3FF#64 9 0 ∧
    fld 0x6400000000#64 39 32 = 100 := by decide +kernel

/-! ### Marks -/

/-- Mark 5 is mapped as handle 0 of job 1, with a count; its task has a target in A1. -/
def markAt (count : Nat) (target : Word) : State := (marked (live target 0 0)).setReg (regMkMark 5) (BitVec.ofNat 64 (2 ^ 63 + 2 ^ 58 + count))
def withUpd (s : State) (op : MarkOp) : State := { s with marks := [(5, { inflight := [⟨2, op⟩] })] }

theorem witness_MarkUpdatesAreSent : (markAt 3 7).Runs (.mkSig h0 ⟨0, 0, 0, 0, 0x800⟩) ∧ (markAt 3 7).Runs (.mkSet h0 ⟨0, 1, 0, 0, 0⟩) ∧
    (markAt 3 7).handle 1 0 = some (5, false) ∧ (live 7 0 0).handle 1 0 = none ∧
    (∀ i ∈ [Instr.mkWait h0 (fk 0), .mkWaitdec h0 (fk 0), .mkTest h0 ⟨3, 0, 0, 0, 0⟩, .mkSet h0 ⟨0, 1, 0, 0, 0⟩, .mkSig h0 ⟨0, 0, 0, 0, 0x800⟩], (live 7 0 0).Runs i) :=
  ⟨runs_of_b (by decide +kernel), runs_of_b (by decide +kernel), by decide +kernel, by decide +kernel, run_all (by decide +kernel)⟩
theorem test_mkSig : leaves (.mkSig h0 ⟨0, 0, 0, 0, 0x800⟩) (markAt 3 7)
    (fun t => leaves (.markUpdate 5) t (fun u => u.markCount 5 == 5 && (u.ctx h0).pc == 0x1008#64)) = true := by decide +kernel
theorem witness_MarkWaits : (markAt 3 2).handle 1 0 = some (5, false) ∧ ((markAt 3 2).markRt 5).inflight = [] ∧ ((markAt 3 2).markRt 5).waits = [] ∧
    (∀ i ∈ [Instr.mkTest h0 ⟨3, 0, 0, 0, 0⟩, .mkWait h0 (fk 0), .mkWaitdec h0 (fk 0)], (markAt 3 2).Runs i) ∧
    fld (((markAt 3 2).ctx h0).getA 1) 31 0 ≤ (markAt 3 2).markCount 5 ∧ (markAt 3 4).Runs (.mkWait h0 (fk 0)) ∧ (markAt 3 4).Runs (.mkWaitdec h0 (fk 0)) ∧
    (markAt 3 4).markCount 5 < fld (((markAt 3 4).ctx h0).getA 1) 31 0 :=
  ⟨by decide +kernel, by decide +kernel, by decide +kernel, run_all (by decide +kernel), by decide +kernel, runs_of_b (by decide +kernel), runs_of_b (by decide +kernel), by decide +kernel⟩
theorem test_mkWaitdec : leaves (.mkWaitdec h0 (fk 0)) (markAt 3 2) (fun t => a3pc t == (1, 0x1008) && t.markCount 5 == 1) = true := by decide +kernel
theorem test_mkWait_blocks : leaves (.mkWait h0 (fk 0)) (markAt 3 4)
    (fun t => decide ((t.ctx h0).run = .waiting (.mark 5) ∧ (t.ctx h0).pc = 0x1000#64)) = true := by decide +kernel
theorem witness_HomesApplyUpdates : ((markAt 3 2).markRt 5).inflight = [] ∧ ((withUpd (markAt 3 2) (.signal 4)).markRt 5).inflight = [⟨2, .signal 4⟩] ∧
    ((withUpd (markAt 3 2) (.signal 4)).markRt 5).waits = [] ∧ (withUpd (markAt 3 2) (.signal 4)).markCount 5 + 4 ≤ 0xFFFFFFFF ∧
    0xFFFFFFFF < (withUpd (markAt 0xFFFFFFFE 2) (.signal 4)).markCount 5 + 4 ∧ ((withUpd (markAt 3 2) (.set 9)).markRt 5).inflight = [⟨2, .set 9⟩] ∧
    pickUpd [⟨4, .set 9⟩, ⟨2, .signal 4⟩] = some (⟨2, .signal 4⟩, [⟨4, .set 9⟩]) := by decide +kernel
theorem witness_SignalsSaturate : ((withUpd (markAt 0xFFFFFFFE 2) (.signal 4)).markRt 5).inflight = [⟨2, .signal 4⟩] ∧
    0xFFFFFFFF < (withUpd (markAt 0xFFFFFFFE 2) (.signal 4)).markCount 5 + 4 ∧ ((withUpd (markAt 0xFFFFFFFE 2) (.signal 4)).markRt 5).waits = [] := by decide +kernel
theorem test_saturates : leaves (.markUpdate 5) (withUpd (markAt 0xFFFFFFFE 2) (.signal 4)) (fun t => t.markCount 5 == 0xFFFFFFFF && t.reg regMkOvf == 1) = true := by
  decide +kernel
theorem witness_HungWaits : ((onCtx (markAt 3 2) h0 fun c => { c with run := .waiting (.mark 5) }).ctx h0).run = .waiting (.mark 5) ∧
    ((markAt 3 2).setReg regMkHanglim 0).rfld regMkHanglim 31 0 = 0 ∧ ((markAt 3 2).setReg regMkHanglim 5).rfld regMkHanglim 31 0 ≠ 0 ∧
    (markAt 3 2).waited h0 = 0 ∧ ({ markAt 3 2 with time := 7000 } : State).waited h0 = 7 := by decide +kernel
theorem test_hang : leaves (.waitHang h0) ((onCtx { markAt 3 2 with time := 7000 } h0 fun c => { c with run := .waiting (.mark 5) }).setReg regMkHanglim 5)
    (fun t => t.events.map Event.code == [4] && t.events.map (fun e => (e.result.drop 16).take 8) == [leBytes 8 7] && t.rbit (regMkJobstat 1) 1) = true := by decide +kernel
theorem witness_MarkRegisterWrites : (up []).markMapped 6 = false ∧ fld 0xFF0000000000#64 47 40 = 255 ∧ (up []).markHome 6 ≠ fld 0x30000000000#64 47 40 ∧
    fld 0x30000000000#64 47 40 = 3 ∧ 128 ≤ fld 0x900000000000#64 47 40 ∧ fld 0x900000000000#64 47 40 ≠ 255 ∧
    ((up []).markRt 6).waits = [] ∧ (markAt 3 2).markMapped 5 = true ∧ ((markAt 3 2).job ((markAt 3 2).markJob 5)).loaded = true ∧
    ((markAt 3 2).job ((markAt 3 2).markJob 5)).debug = false ∧ ((debugged (markAt 3 2)).job ((debugged (markAt 3 2)).markJob 5)).debug = true ∧
    ((debugged (markAt 3 2)).job ((debugged (markAt 3 2)).markJob 5)).loaded = true := by decide +kernel
theorem test_hand_set : leaves (.mkMarkWrite 5 .low 9) (debugged (markAt 3 2)) (fun t => t.markCount 5 == 9 && t.rbit (regMkJobstat 1) 0) = true := by decide +kernel
theorem test_hand_set_refused : leaves (.mkMarkWrite 5 .low 9) (markAt 3 2) (fun t => t.markCount 5 == 3) = true := by decide +kernel
theorem witness_MarkMapping : (up []).reg (regMkMap 1 0) = 0 ∧ (up []).markMapped 6 = false ∧ (markAt 3 2).reg (regMkMap 1 1) = 0 ∧ (markAt 3 2).markMapped 5 = true := by
  decide +kernel
theorem test_map : leaves (.mkMapWrite 1 0 0x8006#64) (up []) (fun t => t.markMapped 6 && t.handle 1 0 == some (6, false)) = true := by decide +kernel
theorem witness_WaitsNeverShareCounts : (((markAt 3 2).retest 5 [.waitDec h0 1 2, .waitDec h1 1 2]).1.markCount 5,
    ((markAt 3 2).retest 5 [.waitDec h0 1 2, .waitDec h1 1 2]).2.length) = (1, 1) := by decide +kernel

/-! ### Caches, Inkwell, Reservoir -/

/-- The data cache of core 0 with control `ctl` and status `st`. -/
def cacheAt (ctl st : Word) : State := let s := liveT 0x10000#64 0 0; (s.setReg (s.ccKey 0 0) ctl).setReg (s.ccKey 0 0x10) st
/-- A line of the first page in the data cache. -/
def lineIn (dirty : Bool) : State := { cacheAt 2 1 with
  sets := [(setKey 0 0x20000, { ways := [some ⟨0x20000, dirty, List.replicate 64 7, none⟩] })] }

theorem witness_WholeCacheCommands : (cacheAt 0 0).rbit ((cacheAt 0 0).ccKey 0 0x10) 5 = false ∧ (cacheAt 0 0x20).rbit ((cacheAt 0 0).ccKey 0 0x10) 5 = true ∧
    (cacheAt 0 0).denNow 0 = false ∧ (cacheAt 0 0).dact 0 = false ∧ (cacheAt 0 0).draining 0 = false ∧ (cacheAt 2 1).dact 0 = true ∧
    ((cacheAt 0 0).cache 0).cmd = none ∧ (({ cacheAt 0 0x20 with caches := [(0, { cmd := some 64 })] } : State).cache 0).cmd = some 64 ∧
    (({ cacheAt 0 0x20 with caches := [(0, { cmd := some 128 })] } : State).cache 0).thenOff = false := by decide +kernel
theorem test_dinv : leaves (.ccDinv 0) (cacheAt 0 0) (fun t => leaves (.ccCmdComplete 0) t (fun u => leaves (.ccDen 0 true) u (fun v =>
    v.denNow 0 && v.dact 0))) = true := by decide +kernel
theorem test_den_refused : leaves (.ccDen 0 true) (cacheAt 0 0) (fun t => !t.denNow 0 && t.rbit (t.ccKey 0 0x10) 6) = true := by decide +kernel
theorem witness_CacheEnables : (cacheAt 0 0).denNow 0 = false ∧ (cacheAt 0 0).rbit ((cacheAt 0 0).ccKey 0 0x10) 4 = false ∧
    (cacheAt 0 0x10).rbit ((cacheAt 0 0).ccKey 0 0x10) 4 = true ∧ (cacheAt 0 0x10).draining 0 = false ∧ (cacheAt 0 0).ienNow 0 = false ∧
    (cacheAt 0 0).rbit ((cacheAt 0 0).ccKey 0 0x10) 3 = false ∧ (cacheAt 0 8).rbit ((cacheAt 0 0).ccKey 0 0x10) 3 = true ∧
    (∃ w, w < 4 ∧ (cacheAt (BitVec.ofNat 64 w) 0).ienNow 0 = true) ∧ (∃ w, w < 4 ∧ (cacheAt (BitVec.ofNat 64 w) 1).denNow 0 = true ∧ (cacheAt (BitVec.ofNat 64 w) 1).anyDirty 0 = false) ∧
    (lineIn true).anyDirty 0 = true ∧ (cacheAt 0 4).draining 0 = true := by decide +kernel
theorem witness_CacheConfiguration : (cacheAt 0 0).denNow 0 = false ∧ (cacheAt 0 0).dact 0 = false ∧ (cacheAt 0 0).draining 0 = false ∧ (cacheAt 2 1).dact 0 = true := by
  decide +kernel
theorem test_cfg_clamp : leaves (.ccCfgWrite 0 0x1F3#64) (cacheAt 0 0) (fun t => t.rfld (t.ccKey 0 8) 7 4 == 8 && t.rfld (t.ccKey 0 8) 1 0 == 3) = true := by decide +kernel
/-- A load waits for its line. -/
def missing (dact : Bool) : State := { onCtx (cacheAt 2 (if dact then 1 else 0)) h0 fun c => { c with run := .waiting (.fill 0x20000 (.load 3 8 false)) } with
  caches := [(0, { miss := some ⟨0x20000, false⟩, pf := [0x20040] })] }
/-- The same, its set full of dirty lines and its eviction buffer full. -/
def blocked (full : Bool) : State := { missing true with
  sets := [(setKey 0 0x20000, { ways := (upto 8).map fun i => some ⟨0x20000 + 8192 * (i + 1), true, List.replicate 64 7, none⟩ })]
  caches := [(0, { miss := some ⟨0x20000, full⟩, evb := (upto 8).map fun i => ⟨0x40000 + 64 * i, true, List.replicate 64 7, none⟩ })] }
theorem witness_MissesEnd : (∀ b ∈ [true, false], ((missing b).cache 0).miss = some ⟨0x20000, false⟩ ∧
      (missing b).waiter 0 0x20000 = some (h0, 0x20000, .load 3 8 false) ∧ (missing b).dact 0 = b ∧ (missing b).draining 0 = false) ∧
    ((cacheAt 2 1).cache 0).miss = none ∧ (missing true).fillBlocked 0 0x20000 = false ∧ Intact (missing true) ∧
    ((missing true).demandErrs (errsIn [(0x20000, 64)] [])).firstPoison 0x20000 64 = none ∧ (missing true).hostHeld 0x20000 64 true = [] ∧
    (∀ f ∈ [true, false], (blocked f).fillBlocked 0 0x20000 = true ∧ ((blocked f).cache 0).miss = some ⟨0x20000, f⟩ ∧
      (blocked f).waiter 0 0x20000 = some (h0, 0x20000, .load 3 8 false) ∧ (blocked f).dact 0 = true ∧ (blocked f).draining 0 = false) :=
  ⟨by decide +kernel, by decide +kernel, by decide +kernel, intact_all (by decide +kernel) (by decide +kernel), by decide +kernel, by decide +kernel,
    by decide +kernel⟩
theorem test_fill_once_full : leaves (.cacheFillComplete ⟨h0, .miss, []⟩) (blocked false)
    (fun t => t.reg (t.ccKey 0 0x38) == 1 && leaves (.cacheFillComplete ⟨h0, .miss, []⟩) t (fun u => u.reg (u.ccKey 0 0x38) == 1)) = true := by decide +kernel
theorem witness_OtherFillsEnd : ((missing true).cache 0).pf.contains 0x20040 = true ∧ ((missing true).cache 0).pf.contains 0x20080 = false ∧
    (missing true).dact 0 = true ∧ (missing true).draining 0 = false ∧ Intact (missing true) ∧ (missing true).waiter 0 0x20040 = none ∧
    ((missing true).demandErrs (errsIn [(0x20040, 64)] [])).firstPoison 0x20040 64 = none ∧ (missing true).hostHeld 0x20040 64 true = [] ∧
    (missing true).lineIn 0 0x20040 = false ∧ ((missing true).cset (setKey 0 0x20040)).cleanWay = some 0 ∧
    (cacheAt 0 0).rbit ((cacheAt 0 0).ccKey 0 0x10) 1 = false ∧ (cacheAt 0 2).rbit ((cacheAt 0 0).ccKey 0 0x10) 1 = true ∧ cacheable (lineOf 0x20040) = true :=
  ⟨by decide +kernel, by decide +kernel, by decide +kernel, by decide +kernel, intact_all (by decide +kernel) (by decide +kernel), by decide +kernel,
    by decide +kernel, by decide +kernel, by decide +kernel, by decide +kernel, by decide +kernel, by decide +kernel, by decide +kernel⟩
theorem test_fetch_fills : leaves (.cacheFillComplete ⟨h0, (.fetch 0x20044), []⟩) (cacheAt 0 2)
    (fun t => t.ilineIn 0 0x20040 && t.reg (t.ccKey 0 0x28) == 1) = true := by decide +kernel
theorem witness_EvictionAndScrub : (lineIn false).dact 0 = true ∧ (lineIn false).lineHeld 0 (lineOf 0x20040) = false ∧
    (∀ b ∈ [true, false], ((lineIn b).cset (setKey 0 (lineOf 0x20000))).find (lineOf 0x20000) = some ⟨0x20000, b, List.replicate 64 7, none⟩ ∧
      (lineIn b).lineHeld 0 (lineOf 0x20000) = true) ∧
    ((blocked true).cache 0).evb ≠ [] ∧ (∀ l ∈ ((blocked true).cache 0).evb, (blocked true).hreqs.any (fun r => r.who == .cache 0 && r.op == .wbDirty &&
      hostPa r.line == l.line) = false) ∧ (cacheAt 0 2).rbit ((cacheAt 0 0).ccKey 0 0x10) 1 = true := by decide +kernel
theorem test_scrub_dirty : leaves (.cacheScrub 0 (.dataError 0x20000)) (lineIn true)
    (fun t => decide (t.rdN 0x20000 2 = [7, 7] ∧ t.reports.map Report.code = [0x0C])) = true := by decide +kernel
theorem witness_InkwellPatrol : (up []).joined ((up []).phys 0) = true ∧ (up []).joined 162 = true ∧ (up []).phys 0 < 144 ∧
    State.reset.joined (State.reset.phys 0) = false ∧ (up []).rfld (regIwPatrol ((up []).phys 0)) 18 0 < 393216 ∧
    (up []).poison.contains (inkwellBase 0 + 64 * 0 + 8 * 3) = false ∧ (⟨0, 0, 3, 1, false⟩ : WordErr).word < 8 ∧ (up []).tiers.seen = [] := by decide +kernel
theorem test_patrol_poisons : leaves (.patrolInkwell 0 [⟨0, 0, 3, 3, false⟩]) (up [])
    (fun t => decide (t.poison = [inkwellBase 0 + 24] ∧ t.reports.map Report.code = [0x0A] ∧ t.reg (regIwUe 0) = 1)) = true := by decide +kernel
theorem witness_ReservoirPatrol : (up []).joined 152 = true ∧ State.reset.joined 152 = false ∧ (up []).rbit (regRvStatus 0) 2 = false := by decide +kernel
theorem test_patrol_moves : leaves (.patrolReservoir 0 [] false) (up []) (fun t => t.rfld (regRvPatrol 0) 27 0 == 1) = true := by decide +kernel
theorem witness_PatrolCoversReservoir : (15 : Nat) < 16 ∧ (268435455 : Nat) < 268435456 ∧ 0xFFFFFFFF00 < 2 ^ 40 ∧ 0xFFFFFFFF00 % 256 = 0 := by decide +kernel
/-- A bank of controller 0 is held for repair. -/
def repairHeld : State := { up [] with tiers := { ppr := [⟨0, 1, 2, 77, 3⟩] } }
theorem witness_RowRepairsEnd : (up []).tiers.ppr = [] ∧ repairHeld.tiers.ppr.find? (fun x => x.ctl == 0 && x.group == 1 && x.bank == 2) = some ⟨0, 1, 2, 77, 3⟩ := by
  decide
theorem test_ppr : leaves (.pprComplete 0 1 2) repairHeld (fun t => decide (t.tiers.ppr = [] ∧ t.tiers.pprUsed = [147] ∧ t.reg (regRvPpr 0) = 1)) = true := by decide +kernel

/-! ### Lanine -/

/-- The link is up; pages 256 and 257 are Exchange and Visible, the others Working. -/
def linked (l : List (Nat × Word)) : State := { up ([(regLnStatus, 2#64), (regLnVistab, 0x4000001#64)] ++ l) with mem := [(0x100000, 5#8), (0x4000040, 9#8)] }
/-- A retrain runs. -/
def retraining (l : List (Nat × Word)) : State := linked ([(regLnStatus, 6#64)] ++ l)
/-- A flit of 15 empty slots with a header; its check bytes are taken as good. -/
def flitWith (hdr : Nat) : Flit :=
  let b := leBytes 4 hdr ++ List.replicate 240 0#8
  ⟨b ++ leBytes 4 (crc32c b).toNat ++ List.replicate 8 0#8, 0, true⟩
/-- SEQ 0, ACK 1023. -/
def flit0 : Flit := flitWith (1023 * 2 ^ 12)
/-- A byte of slot 0 differs from what its CRC was taken over. -/
def badFlit : Flit := { flit0 with bytes := flit0.bytes.set 10 1#8 }
/-- The host's least credits (R383). -/
def adv0 : List Nat := [512, 256, 128, 64]
def line0 : List Byte := List.replicate 64 7#8
/-- Shared lines of one set of the directory. -/
def sharers : List DirEnt := (upto 16).map fun i => ⟨0x100000 + 64 * 131072 * (i + 1), false⟩
/-- A core waits for the host. -/
def asking : State := { linked [] with
  ctxs := [(0, { taskWith 0 0 0 with run := .waiting (.host 3 0x200000 0x10000#64 (.load 3 8 false)) })], hreqs := [⟨3, 0x200000, .rdShr, .core h0⟩] }

theorem witness_CanSend : ∀ c ∈ [0x21, 0x31, 0x32, 0x33, 0x36, 0x42, 0x43], CanSend (linked []) c := by unfold CanSend; decide
theorem witness_NothingCrossesAClosedLink : (up []).lanOpen = false ∧ (retraining []).lanOpen = false ∧ (linked []).lanOpen = true := by decide +kernel
theorem test_closed : leaves (.rdShr 1 0x100000) (retraining []) (fun t => t.out == []) = true := by decide +kernel
theorem witness_FailedFlitsAreDiscarded : (linked []).lan.nakOpen = false ∧ (linked []).lan.naksOut < 7 ∧ badFlit.crcOk = false ∧ flit0.crcOk = true ∧ flit0.fecOk = true ∧
    (flitWith (2 * 2 ^ 9)).crcOk = true ∧ (flitWith (2 * 2 ^ 9)).ftype = 2 ∧ (linked []).lan.rxSeq < 1024 ∧ (flitWith (1023 * 2 ^ 22)).crcOk = true ∧
    (flitWith (1023 * 2 ^ 22)).seq.toNat = (linked []).lan.rxSeq ∧
    flit0.seq.toNat = ((linked []).lan.rxSeq + 1) % 1024 ∧ ({ linked [] with lan := { nakOpen := true } } : State).lan.nakOpen = true ∧
    ({ linked [] with lan := { nakOpen := true } } : State).lanOpen = true := by decide +kernel
theorem test_bad_crc : leaves (.flitReceive badFlit) (linked []) (fun t => t.reg regLnCrcErr == 1 && t.lan.rxSeq == 1023 && t.lan.nakOpen) = true := by
  decide +kernel
theorem witness_AcceptedFlits : (linked []).lanOpen = true ∧ flit0.fecOk = true ∧ flit0.crcOk = true ∧ slotsCheck (linked []).lan.rxData flit0.slots = some [] ∧
    flit0.seq.toNat = ((linked []).lan.rxSeq + 1) % 1024 ∧ flit0.ftype = 0 ∧ (linked []).lan.nakOpen = false ∧ (linked []).lan.waiting = [] ∧ (linked []).lan.naks < 7 := by
  decide +kernel
theorem test_flit_accepted : leaves (.flitReceive (flitWith (1023 * 2 ^ 12 + 3 * 2 ^ 7 + 5))) (linked []) (fun t => t.lan.rxSeq == 0 && t.lan.msgCr == 69) = true := by decide +kernel
theorem witness_NaksAreRepeated : (linked []).lan.nakOpen = false ∧ ({ linked [] with lan := { nakOpen := true, naksOut := 7 } } : State).lan.naksOut = 7 ∧
    (linked []).hreqs = [] := by decide +kernel
theorem test_eighth_nak : leaves .nakTimeout { linked [] with lan := { nakOpen := true, naksOut := 7 } } (fun t => t.lanUp && !t.lanOpen) = true := by decide +kernel
theorem witness_Retrains : ((linked []).lan.retrains.filter (fun x => decide (((linked []).time - x).toNat < 1000000000))).length < 3 ∧
    3 ≤ (([0, 0, 0] : List Word).filter (fun x => decide (((linked []).time - x).toNat < 1000000000))).length ∧ (retraining []).lanUp = true ∧
    (retraining []).rbit regLnStatus 2 = true ∧ (retraining []).lan.rxBad = [] ∧ (retraining []).lan.txBad = [] ∧ (retraining []).lan.rxDead = [] ∧
    (retraining []).lan.txDead = [] ∧ (retraining []).lan.waiting = [] ∧ (retraining []).hreqs = [] := by decide +kernel
theorem test_retrain_fails : leaves (.lanineRetrainEnd ⟨true, [], []⟩) (retraining []) (fun t => !t.lanUp && t.reg regLnLinkdown == 1) = true := by decide +kernel
theorem witness_LanesAreSpared : (retraining []).rfld regLnLanemap 5 0 ≠ 4 ∧ (retraining []).rfld regLnLanemap 13 8 ≠ 4 ∧ (retraining []).rfld regLnStatus 11 10 = 0 ∧
    (retraining [(regLnStatus, 0x806#64)]).rfld regLnStatus 11 10 = 2 ∧ (retraining [(regLnStatus, 0x806#64)]).lanUp = true ∧
    (retraining [(regLnStatus, 0x806#64)]).rbit regLnStatus 2 = true ∧ (retraining [(regLnStatus, 0x806#64)]).rfld regLnLanemap 5 0 ≠ 4 ∧
    (retraining [(regLnStatus, 0x806#64)]).rfld regLnLanemap 13 8 ≠ 4 := by decide +kernel
theorem test_lane_spared : leaves (.lanineRetrainEnd ⟨false, [4], []⟩) (retraining []) (fun t => t.lanOpen && t.rfld regLnLanemap 5 0 == 4) = true := by decide +kernel
theorem witness_LaneWindows : (∀ n ∈ [0, 1], n ≤ (linked [(regLnLanecfg, 9#64)]).rfld regLnLanecfg 15 0) ∧ (linked [(regLnLanecfg, 9#64)]).rfld regLnLanecfg 15 0 < 10 ∧
    ({ linked [(regLnLanecfg, 9#64)] with lan := { rxHot := [(4, 2)] } } : State).lan.rxHot = [(4, 2)] ∧
    ({ linked [(regLnLanecfg, 9#64)] with lan := { rxHot := [(4, 2)] } } : State).lan.rxBad = [] ∧
    ({ linked [(regLnLanecfg, 9#64)] with lan := { rxHot := [(4, 2)] } } : State).lan.retrains = [] ∧
    ({ linked [(regLnLanecfg, 9#64)] with lan := { rxHot := [(4, 2)] } } : State).lanOpen = true := by decide +kernel
theorem test_hot_lane : leaves (.laneErrorWindow [0, 0, 0, 0, 10] []) { linked [(regLnLanecfg, 9#64)] with lan := { rxHot := [(4, 2)] } }
    (fun t => decide (t.lan.rxBad = [4]) && !t.lanOpen) = true := by decide +kernel
theorem witness_LinkLoss : (linked []).rfld regLnStatus 1 0 ≠ 0 ∧ State.reset.rfld regLnStatus 1 0 = 0 ∧ (linked []).hreqs = [] ∧ (linked []).sets = [] ∧
    (∀ c, (linked []).dirtyHost c = []) := ⟨by decide +kernel, by decide +kernel, by decide +kernel, by decide +kernel, fun _ => rfl⟩
theorem test_link_down : leaves .lanineLinkDown { linked [] with hdir := [⟨0x100000, true⟩] } (fun t => decide (t.hdir = [] ∧ t.rfld regLnStatus 1 0 = 0)) = true := by
  decide +kernel
theorem witness_LinkUp : (up [(regLnCfg, 0#64)]).rbit regLnCfg 63 = false ∧ ([511, 256, 128, 64] : List Nat).getD 0 0 < 512 := by decide +kernel
theorem witness_LinkUp_comes_up : (up [(regLnCfg, 0x8000000000000000#64)]).rbit regLnCfg 63 = true ∧ (up [(regLnCfg, 0x8000000000000000#64)]).lanUp = false ∧
    (up [(regLnCfg, 0x8000000000000000#64)]).joined 169 = true ∧ (up [(regLnCfg, 0x8000000000000000#64)]).joined 170 = true ∧ (up []).lan.rxBad = [] ∧
    (up []).lan.txBad = [] ∧ (up []).lan.rxDead = [] ∧ (up []).lan.txDead = [] ∧ 512 ≤ adv0.getD 0 0 ∧ 256 ≤ adv0.getD 1 0 ∧ 128 ≤ adv0.getD 2 0 ∧
    64 ≤ adv0.getD 3 0 := by decide +kernel
theorem test_link_up : leaves (.lanineLinkUp ⟨⟨false, [], []⟩, adv0⟩) { up [(regLnCfg, 0x8000000000000000#64)] with lan := { intr := [(3, 2)] } }
    (fun t => t.lanUp && decide (t.out.map Out.args = [[3]])) = true := by decide +kernel
theorem witness_HoldoffEnds : smapGet (fun _ => 0) (linked []).lan.intr 3 = 0 ∧ smapGet (fun _ => 0) ({ linked [] with lan := { intr := [(3, 2)] } } : State).lan.intr 3 ≠ 0 ∧
    CanSend { linked [] with lan := { intr := [(3, 2)] } } 0x42 := by unfold CanSend; decide
theorem witness_HostReads : (∀ q ∈ (linked []).snoops, q.line ≠ 0x100000) ∧ (linked []).vis 0x100000 = 1 ∧ (linked []).vis 0x101000 = 2 ∧ (linked []).vis 0x102000 = 0 ∧
    (2 : Nat) ^ 40 ≤ 2 ^ 40 ∧ (linked []).poisoned 0x100000 64 = false ∧ ({ linked [] with poison := [0x100008] } : State).poisoned 0x100000 64 = true ∧
    ((linked []).hdir.filter (fun e => dirSet e.line == dirSet 0x100000 && e.line != 0x100000)).length < 16 := by decide +kernel
theorem witness_HostReads_data : CanSend (linked []) 0x32 ∧ Intact (linked []) := ⟨by unfold CanSend; decide +kernel, intact_of rfl rfl⟩
theorem test_rdShr : leaves (.rdShr 9 0x100000) (linked []) (fun t => decide (t.hdir = [⟨0x100000, false⟩]) && t.out.map Out.data == [5#8 :: List.replicate 63 0#8]) = true := by
  decide +kernel
theorem test_rdOwn_visible : leaves (.rdOwn 9 0x101000) (linked []) (fun t => decide (t.hdir = [] ∧ t.out.map Out.args = [[9, 2]])) = true := by decide +kernel
theorem witness_DirectoryBackInvalidates : CanSend { linked [] with hdir := sharers } 0x21 ∧
    16 ≤ (sharers.filter (fun e => dirSet e.line == dirSet 0x100000 && e.line != 0x100000)).length ∧
    (sharers.filter (fun e => dirSet e.line == dirSet 0x100000 && e.line != 0x100000)).getLast? = some ⟨0x100000 + 64 * 131072 * 16, false⟩ := by
  unfold CanSend; decide +kernel
theorem test_back_invalidate : leaves (.rdShr 9 0x100000) { linked [] with hdir := sharers } (fun t => t.reg regLnBackinv == 1 && t.hdir.length == 16) = true := by
  decide +kernel
theorem witness_HostWrites : line0.length = 64 ∧ (∀ w ∈ ({ linked [] with poison := [0x100008] } : State).poison, w % 8 = 0) := by decide +kernel
theorem witness_HostWrites_exchange : (linked []).lanOpen = true ∧ (∀ q ∈ (linked []).snoops, q.line ≠ 0x100000) ∧ (linked []).vis 0x100000 = 1 ∧
    CanSend (linked []) 0x31 ∧ Intact (linked []) := ⟨by decide +kernel, by decide +kernel, by decide +kernel, by unfold CanSend; decide +kernel, intact_of rfl rfl⟩
theorem test_wrPtl : leaves (.wrPtl 9 0x100000 2 line0 0) (linked []) (fun t => decide (t.rdN 0x100000 3 = [5, 7, 0] ∧ t.out.map Out.code = [0x31])) = true := by decide +kernel
theorem test_wrLine_working : leaves (.wrLine 9 0x102000 line0 0) (linked []) (fun t => decide (t.mem = (linked []).mem ∧ t.out.map Out.args = [[9, 1]])) = true := by
  decide +kernel
theorem witness_HostGivesLinesUp : (⟨0x100000, true⟩ : DirEnt) ∈ ({ linked [] with hdir := [⟨0x100000, true⟩] } : State).hdir ∧ (⟨0x100000, true⟩ : DirEnt) ∉ (linked []).hdir := by
  decide
theorem witness_HostGivesLinesUp_home : CanSend { linked [] with hdir := [⟨0x100000, true⟩] } 0x31 ∧
    ({ linked [] with hdir := [⟨0x100000, true⟩] } : State).vis 0x100000 = 1 ∧ (linked []).vis 0x102000 ≠ 1 ∧
    Intact { linked [] with hdir := [⟨0x100000, true⟩] } :=
  ⟨by unfold CanSend; decide +kernel, by decide +kernel, by decide +kernel, intact_of rfl rfl⟩
theorem test_wbDirty : leaves (.wbDirty 9 0x100000 line0 0) { linked [] with hdir := [⟨0x100000, true⟩] } (fun t => decide (t.hdir = [] ∧ t.rd 0x100020 = 7)) = true := by
  decide +kernel
/-- A snoop is out. -/
def snooped : State := { linked [] with hdir := [⟨0x100000, true⟩], snoops := [⟨0, 0x100000, true, false⟩] }
theorem witness_SnoopAnswers : snooped.snoops.find? (fun x => x.tag == 0 && x.line == 0x100000) = some ⟨0, 0x100000, true, false⟩ ∧
    (∃ e ∈ snooped.hdir, e.line = 0x100000) := by decide +kernel
theorem witness_SnoopAnswers_data : snooped.lanOpen = true ∧ line0.length = 64 ∧ Intact snooped := ⟨by decide +kernel, by decide +kernel, intact_of rfl rfl⟩
theorem test_srspData : leaves (.srspData 0 0x100000 0 line0 0) snooped (fun t => decide (t.snoops = [] ∧ t.hdir = [] ∧ t.rd 0x100020 = 7)) = true := by decide +kernel
theorem witness_UnansweredSnoops : (∀ q ∈ snooped.snoops, q.tag ≠ 5) ∧ (∃ q ∈ snooped.snoops, q.tag = 0) ∧ snooped.lanUp = true ∧ snooped.hreqs = [] := by decide +kernel
theorem witness_ModuleAnswersSnoops : (∃ r ∈ ({ linked [] with hreqs := [⟨3, 0x200000, .wbDirty, .cache 0⟩] } : State).hreqs, r.line = 0x200000 ∧ r.op = .wbDirty) ∧
    (∀ r ∈ (linked []).hreqs, r.line ≠ 0x200000) ∧ (∀ e ∈ (linked []).sets, e.2.has (hostPa 0x200000) = false) := by decide +kernel
theorem witness_ModuleAnswersSnoops_sends : CanSend (linked []) 0x33 ∧ CanSend { linked [] with hreqs := [⟨3, 0x200000, .wbDirty, .cache 0⟩] } 0x33 ∧
    Intact (linked []) ∧ Intact { linked [] with hreqs := [⟨3, 0x200000, .wbDirty, .cache 0⟩] } :=
  ⟨by unfold CanSend; decide +kernel, by unfold CanSend; decide +kernel, intact_of rfl rfl, intact_of rfl rfl⟩
theorem test_snpInv : leaves (.snpInv 1 0x200000) (linked []) (fun t => decide (t.out.map Out.args = [[1, 0x200000, 0]])) = true := by decide +kernel
theorem witness_HostAnswers : (linked []).hostReq 3 = none ∧ asking.lanOpen = true ∧ asking.hostReq 3 = some ⟨3, 0x200000, .rdShr, .core h0⟩ ∧
    (asking.ctx h0).run = .waiting (.host 3 0x200000 0x10000#64 (.load 3 8 false)) := by decide +kernel
theorem test_host_data : leaves (.data 3 0 line0 0) asking (fun t => a3pc t == (0x0707070707070707#64, 0x1008) && decide (t.hreqs = [])) = true := by decide +kernel
theorem test_host_not_resident : leaves (.err 3 6) asking (fun t => decide ((t.ctx h0).run = .suspended 0x10000#64 false)) = true := by decide +kernel
/-- Ring pair 1 exists, of 4 entries, its control block at 0x8000. -/
def ringed : State := { linked [] with rings := [(1, { created := true, cb := 0x8000 })], mem := [(0x8010, 2#8)] }
theorem witness_Doorbells : ringed.fwUp = true ∧ (ringed.ring 1).created = true ∧ (3 + 2 ^ 32 - ringed.cbf 1 32 4) % 2 ^ 32 ≤ 2 ^ ringed.cbf 1 16 1 ∧
    (ringed.ring 1).tail ≠ 5 ∧ 2 ^ ringed.cbf 1 16 1 < (5 + 2 ^ 32 - ringed.cbf 1 32 4) % 2 ^ 32 := by decide +kernel
theorem test_doorbell : leaves (.doorbell 1 3) ringed (fun t => (t.ring 1).tail == 3 && t.reg regLnDoorbell == 1) = true := by decide +kernel
theorem witness_PageMessages : (linked []).fwUp = true ∧ CanSend (linked []) 0x43 ∧ (linked []).rbit regLnPgreq 11 = false ∧ bitOf 0x7000000001802#64 11 = true ∧
    fld 0x7000000001802#64 1 0 < 3 ∧ (linked []).lan.pgres = [] ∧ 16 ≤ ({ linked [] with lan := { pgres := List.replicate 16 (1, 0) } } : State).lan.pgres.length := by
  unfold CanSend; decide +kernel
theorem test_pageDone : leaves (.pageDone 7 1) (linked []) (fun t => t.rfld regLnPgres 63 48 == 7 && t.rfld regLnPgres 7 4 == 1) = true := by decide +kernel
theorem witness_HostRegisterAccess : (0 : Nat) < 0x1F000000000 ∧ (0x1F000000000 : Nat) ≤ 0x1F000000000 ∧ ((linked []).regReadN (0x1F000000000 - 0x1F000000000 + 0) 8).isSome = true := by
  decide +kernel
theorem test_rgWr : leaves (.rgWr 9 0x1F000000000 0 true 5) (linked []) (fun t => decide (t.out.map Out.args = [[9, 4]])) = true := by decide +kernel

/-! ### The pair -/

/-- A member whose CB_STATUS is `st`, with this side of the link, no job loaded, its journal in place. -/
def member (st : Word) (tw : Twin) : State := { up [(regCbStatus, st), (regFwJournal, 0xFFC0000001#64)] with jobs := [], twin := tw }
/-- An ACTIVE member and a STANDBY whose link is up. -/
def active : State := member 0x402#64 {}
def standby : State := member 0x403#64 {}
/-- A frame with its CRC: SEQ, FTYPE, ROLE, CREDIT and its records. -/
def frameOf (seq ftype role credit : Nat) (body : List Byte) : Frame := ⟨frameBytes seq 0xFFFF ftype role credit 0 false body⟩
def frame0 : Frame := frameOf 0 0 3 1 []
/-- Zeros with a CRC that is not theirs. -/
def badFrame : Frame := ⟨List.replicate 4092 0#8 ++ leBytes 4 (crc32c (List.replicate 4092 0#8) + 1#32).toNat⟩

theorem frame_crc (b : List Byte) (c : BitVec 32) (h : b.length = 4092) :
    (⟨b ++ leBytes 4 c.toNat⟩ : Frame).crcOk = decide (c = crc32c b) := by
  have e : (⟨b ++ leBytes 4 c.toNat⟩ : Frame).le 4092 4 = c.toNat := by
    unfold Frame.le sliceB
    rw [show (b ++ leBytes 4 c.toNat).drop 4092 = leBytes 4 c.toNat by rw [← h]; exact List.drop_left,
      List.take_of_length_le (by simp), leNat_leBytes]
    exact Nat.mod_eq_of_lt c.isLt
  unfold Frame.crcOk
  rw [e, show (b ++ leBytes 4 c.toNat).take 4092 = b by rw [← h]; exact List.take_left]
  simp only [BitVec.toNat_inj]

theorem frameOf_crc (seq ftype role credit : Nat) (body : List Byte) : (frameOf seq ftype role credit body).crcOk = true := by
  unfold frameOf frameBytes crcFrame
  rw [frame_crc _ _ (by simp)]
  exact decide_eq_true rfl

theorem badFrame_crc : badFrame.crcOk = false := by
  unfold badFrame
  rw [frame_crc _ _ List.length_replicate]
  refine decide_eq_false (fun h => ?_)
  have := congrArg (fun x => x - crc32c (List.replicate 4092 0#8)) h
  simp only [BitVec.sub_self] at this
  rw [BitVec.add_comm, BitVec.add_sub_cancel] at this
  exact absurd this (by decide)

/-- A good frame of an open link goes on to its place in the stream. -/
theorem leaves_frame {s : State} {f : Frame} {p : State → Bool} (h : f.crcOk = true) (ho : s.cbOpen = true) :
    leaves (.carbonFrameReceive f) s p = p ((s.keptCheck f.role).frameTake f) := by
  show p (s.frameReceive f) = _
  unfold State.frameReceive
  rw [h, ho]
  rfl

theorem leaves_bad {s : State} {f : Frame} {p : State → Bool} (h : f.crcOk = false) (ho : s.cbOpen = true) :
    leaves (.carbonFrameReceive f) s p = p s.cbFail := by
  show p (s.frameReceive f) = _
  unfold State.frameReceive
  rw [h, ho]
  rfl

theorem noHeld {s : State} (hr : s.rings = []) (hj : s.jobs.all (fun e => !e.2.boundary) = true) : NoHeldCommits s := by
  constructor
  · intro r e he
    simp [State.ring, hr, smapGet] at he
  · intro j
    have := smapGet_all (d := fun _ => ({} : Job)) (p := fun x : Job => !x.boundary) hj (fun _ => rfl) j
    simpa [State.job] using this
def commit9 : CommitRec := ⟨9, 0, 0, 1, 1, 0, 3, 0, 0⟩
def rec0 : CbRec := ⟨3, 0, [9], [], 32, false⟩
def delta0 : DeltaRec := ⟨0, 3, 7, []⟩
def seal5 : SealRec := ⟨5, 0, [], none⟩
/-- A cell of the journal header: ASSIGNED_CSN is 9. -/
def assigned9 : List Host.Cell := [(0xFFC0000020, 9#8)]

theorem witness_CarbonFrames : (member 2#64 {}).cbOpen = false ∧ active.cbOpen = true ∧ badFrame.crcOk = false ∧ active.twin.nakOpen = false ∧
    active.twin.naksOut < 7 ∧ (frameOf 0 3 2 0 []).crcOk = true ∧ (frameOf 0 3 2 0 []).ftype = 3 ∧ active.twin.keep = false :=
  ⟨by decide +kernel, by decide +kernel, badFrame_crc, by decide +kernel, by decide +kernel, frameOf_crc .., by decide +kernel, by decide +kernel⟩
theorem witness_CarbonFrames_bodies : (frameOf 0 0 2 3 []).crcOk = true ∧ (frameOf 0 0 2 3 []).ftype = 0 ∧
    (frameOf 0 0 2 3 []).seq.toNat = (active.twin.rxSeq + 1) % 65536 ∧ (frameOf 0 0 2 3 []).nak = false ∧ active.role = 2 ∧
    (frameOf 0 0 2 3 []).role ≠ 3 ∧ (frameOf 0 0 2 3 []).role ≠ 6 ∧ recsCheck 4096 (active.twin.rxPart ++ (frameOf 0 0 2 3 []).payload) = some [] ∧
    (frameOf 0 0 2 0 [0x10#8]).crcOk = true ∧ recsCheck 4096 (active.twin.rxPart ++ (frameOf 0 0 2 0 [0x10#8]).payload) = none ∧
    active.rbit regCbStatus 12 = false :=
  ⟨frameOf_crc .., by decide +kernel, by decide +kernel, by decide +kernel, by decide +kernel, by decide +kernel, by decide +kernel, by decide +kernel,
    frameOf_crc .., by decide +kernel, by decide +kernel⟩
theorem test_frame_bad_crc : leaves (.carbonFrameReceive badFrame) active (fun t => t.reg regCbCrcErr == 1 && t.twin.nakDue && t.twin.rxSeq == 65535) = true := by
  rw [leaves_bad badFrame_crc (by decide +kernel)]
  decide +kernel
theorem test_frame_good : leaves (.carbonFrameReceive (frameOf 0 0 2 3 [])) active (fun t => t.twin.rxSeq == 0 && t.twin.freed == 1 && t.twin.credit == 131) = true := by
  rw [leaves_frame (frameOf_crc ..) (by decide +kernel)]
  decide +kernel
theorem witness_HoldsEnd : (member 0x405#64 {}).cbOpen = true ∧ (member 0x405#64 {}).role = 5 ∧ frame0.role = 3 ∧ (member 0x406#64 {}).cbOpen = true ∧
    (member 0x406#64 {}).role = 6 ∧ (frameOf 0 0 2 3 []).role = 2 ∧ (member 0x405#64 {}).folio.waits = none ∧ frame0.ftype = 0 ∧ frame0.nak = false ∧
    frame0.seq.toNat = ((member 0x405#64 {}).twin.rxSeq + 1) % 65536 ∧ recsCheck 4096 ((member 0x405#64 {}).twin.rxPart ++ frame0.payload) = some [] ∧
    (member 0x405#64 {}).twin.keep = false ∧ (member 0x405#64 {}).twin.nakOpen = false := by decide +kernel
theorem witness_HoldsEnd_premises : frame0.crcOk = true ∧ NoHeldCommits (member 0x405#64 {}) ∧ NoHeldCommits (member 0x406#64 {}) :=
  ⟨frameOf_crc .., noHeld rfl rfl, noHeld rfl rfl⟩
theorem test_hold_ends : leaves (.carbonFrameReceive frame0) (member 0x405#64 {}) (fun t => t.role == 2) = true := by
  rw [leaves_frame (show frame0.crcOk = true from frameOf_crc ..) (by decide +kernel)]
  decide +kernel
theorem witness_CarbonSends : (member 2#64 {}).cbOpen = false ∧ active.twin.resend = [] ∧ active.twin.sendq = [] ∧ active.twin.txPart = [] ∧
    (member 0x402#64 { credit := 0 }).twin.credit = 0 ∧ 256 ≤ (member 0x402#64 { replay := List.replicate 256 (0, []) }).twin.replay.length ∧
    (member 0x402#64 { sendq := [rec0] }).twin.sendq ≠ [] ∧ (member 0x402#64 { txPart := [1#8] }).twin.txPart ≠ [] ∧
    0 < (member 0x402#64 { sendq := [rec0] }).twin.credit ∧ (member 0x402#64 { resend := [(7, [])] }).twin.resend = (7, []) :: [] := by decide +kernel
theorem test_frame_sent : leaves .carbonFrameSend (member 0x402#64 { sendq := [rec0, rec0] })
    (fun t => decide (t.twin.sendq = [] ∧ t.twin.txPart = [] ∧ t.twin.replay.map (fun x => x.2.getD 16 0#8) = [3] ∧ t.twin.txSeq = 1 ∧ t.twin.credit = 127)) = true := by
  decide +kernel
theorem witness_CarbonTraining : (member 2#64 {}).cbUp = false ∧ (member 0x402#64 { nakOpen := true }).cbOpen = true ∧
    (up [(regCbStatus, 2#64), (regCbCfg, 0x8000000000000000#64)]).rbit regCbCfg 63 = true ∧ (up []).joined 171 = true ∧ active.isPaired = true ∧
    (up [(regCbStatus, 1#64), (regCbFolioarea, 1#64)]).role = 1 ∧ (up [(regCbStatus, 1#64), (regCbFolioarea, 1#64)]).rfld regCbFolioarea 1 0 ≠ 0 ∧ State.reset.role = 0 ∧
    (member 0x402#64 { nakOpen := true }).twin.naksOut < 7 ∧ active.cbUp = true ∧ active.rbit regCbStatus 12 = false ∧
    (member 0x402#64 { retraining := true }).cbUp = true ∧ (member 0x402#64 { retraining := true }).twin.rxBad = [] ∧
    (member 0x402#64 { retraining := true }).twin.txBad = [] ∧ (⟨true, [], []⟩ : TrainResult).failed = true := by decide +kernel
/-- A paired member whose link is down, and a module in PAIRING. -/
def unlinked : State := up [(regCbStatus, 2#64), (regCbCfg, 0x8000000000000000#64)]
def pairing0 : State := up [(regCbStatus, 1#64), (regCbCfg, 0x8000000000000000#64), (regCbFolioarea, 1#64)]
theorem witness_CarbonTraining_up : unlinked.cbUp = false ∧ unlinked.rbit regCbCfg 63 = true ∧ unlinked.joined 171 = true ∧ unlinked.isPaired = true ∧
    pairing0.cbUp = false ∧ pairing0.rbit regCbCfg 63 = true ∧ pairing0.joined 171 = true ∧ pairing0.role = 1 ∧ pairing0.rfld regCbFolioarea 1 0 ≠ 0 := by
  decide +kernel
theorem test_carbon_up : leaves .carbonLinkUp (up [(regCbStatus, 1#64), (regCbCfg, 0x8000000000000000#64), (regCbFolioarea, 1#64)])
    (fun t => t.cbUp && decide (t.twin.sendq.map CbRec.ty = [1])) = true := by decide +kernel
theorem witness_Leases : active.role = 2 ∧ standby.role ≠ 2 ∧ (up [(regCbStatus, 0x403#64), (regFePins, 4#64)]).rbit regFePins 2 = true ∧
    (up [(regCbStatus, 0x403#64), (regFePins, 4#64)]).role = 3 ∧ (up [(regCbStatus, 0x405#64), (regFePins, 4#64)]).role = 5 ∧ standby.twin.lapsed = false := by decide +kernel
theorem test_lease_half : leaves .leaseHalfExpire active (fun t => t.role == 5) = true := by decide +kernel
theorem test_lease : leaves .leaseExpire (up [(regCbStatus, 0x403#64), (regFePins, 4#64)]) (fun t => t.role == 6 && t.reg regCbLinkLoss == 1) = true := by decide +kernel
theorem witness_TakeoverOnLapse : standby.role = 3 ∧ standby.twin.lapsed = false ∧ standby.rbit regFePins 2 = false ∧ standby.twin.pubSeal = none ∧ standby.folio.waits = none ∧
    standby.jbase + 64 ≤ 2 ^ 40 ∧ standby.hdir = [] ∧ standby.sets = [] ∧ standby.takeovers < 2 ^ 64 - 1 ∧ standby.recordedCsn ≤ standby.assignedCsn := by decide +kernel
theorem witness_TakeoverOnLapse_intact : Intact standby ∧ standby.rbit regCbStatus 12 = false := ⟨intact_of rfl rfl, by decide +kernel⟩
theorem test_takeover : leaves .leaseExpire standby (fun t => t.role == 4 && t.takeovers == 1 && t.twin.restoring) = true := by decide +kernel
theorem witness_TakeoverEnds : standby.twin.restoring = false ∧ (member 4#64 { restoring := true }).twin.restoring = true ∧ (member 4#64 { restoring := true }).role = 4 := by decide +kernel
theorem witness_PairingTimesOut : active.role ≠ 1 ∧ (member 1#64 {}).role = 1 ∧ (member 1#64 {}).cbUp = false ∧ (member 1#64 {}).rbit regFePins 2 = false ∧
    (up [(regCbStatus, 1#64), (regFwStatus, 0#64)]).fwUp = false ∧ (up [(regCbStatus, 1#64), (regFwStatus, 0#64)]).openCsns = [] ∧ (member 1#64 {}).folioPhase = 0 := by decide +kernel
theorem witness_PairingTimesOut_solo : (up [(regCbStatus, 1#64), (regFwStatus, 0#64)]).role = 1 ∧ (up [(regCbStatus, 1#64), (regFwStatus, 0#64)]).cbUp = false ∧
    (up [(regCbStatus, 1#64), (regFwStatus, 0#64)]).rbit regFePins 2 = false ∧ (up [(regCbStatus, 1#64), (regFwStatus, 0#64)]).twin.discarded = false ∧
    (up [(regCbStatus, 1#64), (regFwStatus, 0#64)]).folioPhase = 0 ∧ (up [(regCbStatus, 1#64), (regFwStatus, 0#64)]).folio.waits = none ∧
    NoHeldCommits (up [(regCbStatus, 1#64), (regFwStatus, 0#64)]) :=
  ⟨by decide +kernel, by decide +kernel, by decide +kernel, by decide +kernel, by decide +kernel, by decide +kernel, noHeld rfl rfl⟩
theorem test_pairing_ends : leaves .pairingTimeout (up [(regCbStatus, 1#64), (regFwStatus, 0#64)]) (fun t => t.role == 4) = true := by decide +kernel
theorem witness_CarbonOrders : active.joined 171 = true ∧ active.role ≠ 6 ∧ (member 0x406#64 {}).role = 6 ∧ standby.role = 3 ∧ (member 0x407#64 {}).role = 7 ∧ active.fwUp = true ∧
    active.folioPhase = 0 ∧ active.groupJobs = [] ∧ (member 1#64 {}).role = 1 ∧ (∀ j, j < 16 → (active.job j).loading = false) := by decide +kernel
theorem test_depart_order : leaves .cbOrderDepart active (fun t => t.role == 7 && t.rbit regFePins 8) = true := by decide +kernel
theorem witness_CarbonSettings : (up []).joined 171 = true ∧ bitOf 0x8000000100000000#64 63 = true ∧ fld 0x8000000100000000#64 11 0 < 1000 ∧ fld 0x8000000100000000#64 47 32 ≠ 0 ∧
    1000 ≤ fld 0x80000001000007D0#64 11 0 ∧ fld 0x80000001000007D0#64 11 0 ≤ 4000 ∧ 1 ≤ fld 0x80000002000A0001#64 9 0 ∧ fld 0x80000002000A0001#64 25 16 ≤ 600 ∧
    1 ≤ fld 0x80000002000A0001#64 25 16 ∧ 1 ≤ fld 0x80000002000A0001#64 41 32 := by decide +kernel
theorem test_cb_cfg : leaves (.cbCfgWrite 0x8000000000000001#64) (up []) (fun t => t.rfld regCbCfg 11 0 == 1000 && t.rfld regCbCfg 47 32 == 1 && t.reg regCbPolClamp == 2) = true := by
  decide +kernel
theorem witness_CommitsReachTheJournal : active.follows = false ∧ Follower { standby with mem := assigned9 } ∧ standby.twin.heldDelta = none ∧ standby.jplaced = true ∧
    commit9.kind = 1 ∧ { standby with mem := assigned9 }.recordedCsn < commit9.csn.toNat ∧ commit9.csn.toNat ≤ { standby with mem := assigned9 }.assignedCsn ∧
    { standby with mem := assigned9 }.written < 2 ^ 64 - 1 := by unfold Follower; decide +kernel
theorem witness_CommitsReachTheJournal_home : ({ standby with mem := assigned9 } : State).twin.heldDelta = none ∧
    ({ standby with mem := assigned9 } : State).jplaced = true ∧ ({ standby with mem := assigned9 } : State).hdir = [] ∧
    Intact { standby with mem := assigned9 } := ⟨by decide +kernel, by decide +kernel, by decide +kernel, intact_of rfl rfl⟩
theorem test_commit : leaves (.commit commit9 []) { standby with mem := assigned9 } (fun t => t.written == 1 && t.recordedCsn == 9 && t.rd 0xFFC0000040 == 9#8 &&
    decide (t.twin.sendq.map CbRec.args = [[9]])) = true := by decide +kernel
theorem witness_CommitAcks : active.cbOpen = true ∧ active.role = 2 ∧ standby.role ≠ 2 ∧ standby.role ≠ 5 ∧ active.dx.steps = [] ∧ active.rings = [] ∧ active.folio.pub = none := by
  decide
/-- A standby whose pending logs have 1 MiB. -/
def logged (tw : Twin) : State := { up [(regCbStatus, 0x403#64), (regNbUndo 1, 0x1000000000000#64)] with twin := tw }
theorem witness_DeltasArePended : Follower (logged {}) ∧ (logged {}).twin.discarded = false ∧ (logged {}).twin.heldDelta = none ∧
    (logged {}).plogUsed 1 + (logged {}).deltaSize 1 delta0 ≤ (logged {}).undoSize 1 ∧ (standby.undoSize 1 < standby.plogUsed 1 + standby.deltaSize 1 delta0) ∧
    (logged { heldDelta := some (1, delta0) }).twin.heldDelta ≠ none := by unfold Follower; decide +kernel
theorem test_delta : leaves (.delta 1 delta0) (logged {}) (fun t => decide (t.twin.plog = [⟨1, delta0, 24, false⟩])) = true := by decide +kernel
theorem test_log_full : leaves (.delta 1 delta0) standby (fun t => t.reg regCbPlogFull == 1 && decide (t.twin.sendq.map CbRec.ty = [0x0A])) = true := by decide +kernel
theorem witness_RollbacksDiscardDeltas : active.follows = false ∧ Follower standby ∧ standby.twin.heldDelta = none := by unfold Follower; decide
theorem test_rollback : leaves (.rollback 1 6) (logged { plog := [⟨1, delta0, 24, false⟩, ⟨2, delta0, 24, false⟩] }) (fun t => decide (t.twin.plog.map PLogEnt.job = [2])) = true := by
  decide +kernel
theorem witness_StandbyBuilds : Follower standby ∧ standby.twin.heldDelta = none ∧ standby.twin.discarded = false ∧ standby.desc 1 0 = none ∧ standby.twin.ackHeld = none ∧
    (∃ b ∈ (logged { builds := [(1, 0, 0, [])] }).twin.builds, (b.1, b.2.1) ∈ ({ seal5 with ptrs := [(1, 0)] } : SealRec).ptrs) ∧
    (∀ b ∈ standby.twin.builds, ¬ (b.1 = 1 ∧ b.2.1 = 0)) ∧ (∃ b ∈ (logged { builds := [(1, 0, 0, [])] }).twin.builds, b.1 = 1 ∧ b.2.1 = 0) := by unfold Follower; decide
theorem test_seal_waits : leaves (.seal { seal5 with ptrs := [(1, 0)] }) (logged { builds := [(1, 0, 0, [])] }) (fun t => t.reg regCbSealWait == 1 && t.twin.ackHeld.isSome) = true := by
  decide +kernel
theorem witness_StandbySeals : Follower standby ∧ standby.twin.heldDelta = none ∧ (0 : Nat) = 0 ∧ (64 : Nat) ≠ 0 ∧ standby.twin.ackHeld = none ∧ standby.twin.builds = [] ∧
    seal5.ptrs = [] ∧ seal5.pub = none ∧ standby.twin.plog = [] ∧ standby.hdir = [] ∧ standby.sets = [] ∧ seal5.covered.toNat ≤ standby.sealedCsn ∧ seal5.folio < 2 ^ 64 := by
  unfold Follower; decide
theorem test_folioData : leaves (.folioData 5 64 [⟨0x1000, [2]⟩]) (member 0x403#64 { units := [⟨0x1000, [1]⟩, ⟨0x1040, [3]⟩] })
    (fun t => decide (t.twin.units = [⟨0x1000, [2]⟩, ⟨0x1040, [3]⟩])) = true := by decide +kernel
/-- A folio, number 6, awaits its acknowledgement. -/
def sealing6 : State := { member 0x4C2#64 {} with folio := { num := 6, toTwin := true, forced := true, cap := some { num := 6 } }, dx := { stopped := true } }
theorem witness_FolioSealed : sealing6.folioPhase = 3 ∧ active.folioPhase ≠ 3 ∧ sealing6.cbOpen = true ∧ sealing6.folio.toTwin = true ∧ sealing6.folio.num = 6 ∧
    sealing6.folio.sealing = false ∧ sealing6.role = 2 ∧ sealing6.folio.pub = none ∧ sealing6.folio.next = false ∧ sealing6.jobs = [] ∧ sealing6.rings = [] ∧
    sealing6.tables = [] ∧ sealing6.groups = [] ∧ sealing6.clu = [] ∧ sealing6.hdir = [] ∧ sealing6.folio.covered.toNat ≤ sealing6.sealedCsn ∧
    (sealing6.folio.cap.all fun im => im.rings.isEmpty && im.jobs.isEmpty) = true := by decide +kernel
theorem test_folio_sealed : leaves (.sealAck 6) sealing6 (fun t => t.reg regCbSealed == 6 && t.reg regCbFolios == 1 && t.reg regCbFolioForced == 1 && t.folioPhase == 0 &&
    !t.dx.stopped) = true := by decide +kernel
theorem witness_FolioPhases : standby.runs = false ∧ active.runs = true ∧ active.fwUp = true ∧ active.groupJobs = [] ∧ active.folioPhase = 0 ∧ 2 ≤ sealing6.folioPhase ∧
    (member 0x442#64 {}).folioPhase = 1 ∧ (member 0x442#64 {}).reports = [] ∧ (member 0x442#64 {}).clu = [] ∧ (member 0x442#64 {}).twin.sendq = [] ∧
    ({ member 0x482#64 {} with folio := { toTwin := true } } : State).folioPhase = 2 := by decide +kernel
/-- The quiesce of a folio has nothing to wait for, on an ACTIVE and on an UNPAIRED member. -/
def quiet (st : Word) : State := { member st {} with folio := { num := 6, beat := true } }
theorem witness_FolioPhases_quiesce : (quiet 0x442#64).folioPhase = 1 ∧ (quiet 0x442#64).folio.beat = true ∧ (quiet 0x442#64).unitsIdle = true ∧
    (quiet 0x442#64).reports = [] ∧ (quiet 0x442#64).twin.txPart = [] ∧ (quiet 0x442#64).twin.sendq = [] ∧ (quiet 0x442#64).dx.steps = [] ∧
    (quiet 0x442#64).role = 2 ∧ (quiet 0x40#64).role = 0 ∧ (quiet 0x40#64).folioPhase = 1 ∧ (quiet 0x40#64).unitsIdle = true := by decide +kernel
theorem witness_FolioPhases_intact : Intact (quiet 0x442#64) ∧ Intact (quiet 0x40#64) ∧
    ({ member 0x482#64 {} with folio := { toTwin := true } } : State).folio.pub = none := ⟨intact_of rfl rfl, intact_of rfl rfl, rfl⟩
theorem test_interval : leaves .folioIntervalExpire active (fun t => t.folioPhase == 1 && t.folio.num == 1 && t.dx.stopped) = true := by decide +kernel
theorem test_captured : leaves (.folioCaptureEnd 0 0) { member 0x482#64 {} with folio := { num := 6, toTwin := true } }
    (fun t => t.folioPhase == 3 && decide (t.twin.sendq.map CbRec.ty = [6, 7])) = true := by decide +kernel
theorem witness_LogFullForcesAFolio : active.cbOpen = true ∧ active.role = 2 ∧ active.fwUp = true ∧ active.groupJobs = [] ∧ active.folioPhase = 0 ∧ 2 ≤ sealing6.folioPhase ∧
    sealing6.fwUp = true ∧ sealing6.groupJobs = [] ∧ standby.role = 3 := by decide +kernel
theorem witness_PartnerDeparts : (member 2#64 {}).cbOpen = false ∧ standby.role = 3 ∧ active.role = 2 ∧ active.openCsns = [] ∧ active.folioPhase = 0 ∧ active.folio.waits = none := by
  decide +kernel
theorem witness_PartnerDeparts_solo : NoHeldCommits active ∧ active.cbOpen = true ∧ (member 0x1404#64 {}).cbOpen = true ∧ (member 0x1404#64 {}).role = 4 ∧
    (member 0x1404#64 {}).rbit regCbStatus 12 = true := ⟨noHeld rfl rfl, by decide +kernel, by decide +kernel, by decide +kernel, by decide +kernel⟩
theorem test_partner_departs : leaves (.depart 1) active (fun t => t.role == 4) = true := by decide +kernel
/-- A joining member during a resync, and the member that runs. -/
def joining : State := member 0x1401#64 { discarded := true }
theorem witness_ResyncCopies : active.role ≠ 1 ∧ joining.role = 1 ∧ joining.twin.discarded = true ∧ joining.cbOpen = true ∧ 0x1000 < joining.jbase ∧ joining.jbase ≤ 0xFFC0000040 ∧
    0xFFC0000040 < joining.jbase + 64 + 64 * 65536 ∧ joining.jbase + 64 + 64 * 65536 ≤ 0xFFD0000000 ∧ (member 0x1404#64 {}).cbOpen = true ∧ (member 0x1404#64 {}).role = 4 ∧
    (member 0x1404#64 {}).rbit regCbStatus 12 = true ∧ (∀ r ∈ (member 0x1404#64 {}).twin.sendq, r.ty ≠ 0x0C) ∧ (member 0x1404#64 {}).fwUp = true ∧
    (∃ r ∈ (member 0x1404#64 { sendq := [⟨0x0C, 0, [], [], 32, false⟩] }).twin.sendq, r.ty = 0x0C) := by decide +kernel
theorem witness_ResyncCopies_end : (member 0x1404#64 {}).twin.folioAll = false ∧ (member 0x1404#64 {}).groupJobs = [] ∧ (member 0x1404#64 {}).folioPhase = 0 := by
  decide +kernel
theorem test_resync : leaves (.resync 0x1000 [7, 8]) joining (fun t => decide (t.rdN 0xFFF 4 = [0, 7, 8, 0])) = true := by decide +kernel
theorem witness_TransfersAndMessages : active.cbOpen = true ∧ (active.etherStore 1 0 []).2 = true ∧ (active.etherStore 1 0 [1]).2 = false ∧ (∀ x ∈ active.twin.xfers, x.num ≠ 1) ∧
    (member 0x402#64 { xfers := [⟨1, some 5⟩] }).twin.xfers.find? (fun y => y.num == 1) = some ⟨1, some 5⟩ := by decide +kernel
theorem test_xferAck : leaves (.xferAck 1 0) (member 0x402#64 { xfers := [⟨1, some 5⟩] }) (fun t => decide (t.twin.xfers = [] ∧ (t.markRt 5).inflight = [⟨5, .signal 1⟩])) = true := by
  decide +kernel
/-- A member that pairs: its Ledger names partner and letter 1. -/
def pairingB : State := { up [(regCbStatus, 0x401#64), (regCbFolioarea, 1#64), (regFwStatus, 0#64)] with
  jobs := [], twin := { paired := true }, ledger := [(4, ⟨List.replicate 24 7#8 ++ 1#8 :: List.replicate 39 0#8, 1⟩)] }
def pair0 : PairRec := ⟨List.replicate 24 7#8, 0, 1, 0, 0, 0, 0, none, false⟩
theorem witness_Pairing : pairingB.cbOpen = true ∧ pairingB.rfld regCbFolioarea 1 0 ≠ 0 ∧ pairingB.role = 1 ∧ pairingB.twin.paired = true ∧
    pairingB.pairing = some (List.replicate 24 7#8, 1) ∧ pairingB.folioPhase = 0 ∧ pairingB.fwUp = false ∧ ({ pair0 with letter := 1 } : PairRec).letter = 1 ∧
    List.replicate 24 7#8 = padB 24 (pair0.identity.take 24) ∧ pair0.recorded = 0 ∧ pairingB.takeovers < ({ pair0 with takeovers := 1 } : PairRec).takeovers.toNat ∧
    pairingB.sealedCsn < ({ pair0 with sealedCsn := 1 } : PairRec).sealedCsn.toNat ∧ pairingB.openCsns = [] ∧
    pair0.takeovers.toNat < ({ pairingB with regs := smapSet resetOf pairingB.regs regFwJournal 1, mem := [(24, 1#8)] } : State).takeovers := by decide +kernel
theorem witness_Pairing_diverged : ({ pair0 with diverged := true } : PairRec).diverged = true ∧ pair0.diverged = false ∧ pairingB.rings = [] ∧
    pairingB.jobs = [] ∧ pairingB.folio.waits = none := by decide +kernel
theorem test_equal_letters : leaves (.pair { pair0 with letter := 1 }) pairingB (fun t => t.rbit regCbStatus 4 && t.role == 0) = true := by decide +kernel
theorem test_loser : leaves (.pair { pair0 with takeovers := 1 }) pairingB (fun t => t.rbit regCbStatus 12 && t.role == 1 && t.twin.discarded) = true := by decide +kernel

/-! ### Ethernet -/

/-- Port 0 is up, port 1 down; the contexts lie at 0x40000; pair 0 is a ready data pair of job 1, pair 1 a ready control pair of it, with
their send rings of 64 entries at 0x50000; job 1 has page 0x10000. -/
def nicMem : List Host.Cell := [(0x40000, 0x11#8), (0x40001, 1#8), (0x4002A, 5#8), (0x40030, 64#8), (0x40100, 0x13#8), (0x40101, 1#8), (0x4012A, 5#8), (0x40130, 64#8)]
def nic (more : List Host.Cell) : State :=
  { up [(regEnStatus, 2#64), (regEnQptab, 0x40000#64), (regEnCfg 0, 0x8000000000000000#64), (regEnIng 0, 0x8002000000000080#64)] with
    tlb := [⟨200, 1, 0x10000, 0x1000, 0x8000, 0x200FD#64⟩], mem := more ++ nicMem }
def msg8 : RdmaMsg := ⟨0, 0x10000#64, 8, [1, 2, 3, 4, 5, 6, 7, 8], 0, true, false⟩
/-- A READ of 16 bytes, a send entry in the ring. -/
def readEntry : List Host.Cell := cells 0x50000 ([3, 0, 0, 0, 16, 0, 0, 0])
def sent (e : QpEnt) (n : Nat) : State := { nic [] with qps := [(0, { sent := [e], retries := n })] }
def eRead : QpEnt := ⟨3, 0, 1, 0, 8, 0x10000#64, 0x3000#64, none⟩
def eWrite : QpEnt := { eRead with opc := 1 }

theorem witness_EthernetFrames : (nic []).portUp 1 = false ∧ (nic []).portUp 0 = true ∧ (nic []).fwUp = true ∧ (up [(regFwStatus, 0#64), (regEnStatus, 2#64)]).portUp 0 = true ∧
    (up [(regFwStatus, 0#64), (regEnStatus, 2#64)]).fwUp = false ∧ (nic []).joined 172 = true ∧ (nic []).rbit (regEnCfg 0) 63 = true ∧ State.reset.joined 172 = false := by decide +kernel
theorem test_port : leaves (.ethPortLinkChange 0 1 true) (nic []) (fun t => t.rfld regEnStatus 1 0 == 1 && t.rbit regEnStatus 2 && t.rfld regEnStatus 4 3 == 0) = true := by
  decide +kernel
theorem witness_InboundMessagesAreChecked : InPlace (nic []) 0 msg8 ∧ (nic []).qpReady 2 = false ∧ (nic []).qpCtrl 1 = true ∧ { msg8 with icrcOk := false }.icrcOk = false ∧
    { msg8 with rkey := 1 }.rkey.toNat ≠ (nic []).qpf 0 8 4 ∧ (nic []).hdir = [] ∧ (nic []).sets = [] ∧ (nic []).qpf 0 60 4 < 2 ^ 24 ∧
    { msg8 with psn := 1 }.psn.toNat = ((nic []).qpf 0 60 4 + 1) % 2 ^ 24 ∧ (nic []).qpf 0 60 4 = ({ msg8 with psn := 0xFFFFFF }.psn.toNat + 1) % 2 ^ 24 := by
  unfold InPlace; decide +kernel
theorem witness_InboundMessagesAreChecked_intact : Intact (nic []) ∧ Intact (nic readEntry) ∧ Intact (sent eRead 7) ∧ Intact (sent eWrite 0) ∧
    Intact { nic [] with ingest := [(0, [3])] } := ⟨intact_of rfl rfl, intact_of rfl rfl, intact_of rfl rfl, intact_of rfl rfl, intact_of rfl rfl⟩
theorem test_other_key : leaves (.rdmaWrite 0 { msg8 with rkey := 1 }) (nic []) (fun t => t.reg regEnRacc == 1 && t.rd 0x40001 == 2 && t.rd 0x20000 == 0) = true := by decide +kernel
theorem witness_InboundWrites : InPlace (nic []) 0 msg8 ∧ msg8.rkey.toNat = (nic []).qpf 0 8 4 ∧ msg8.bytes.length = msg8.len ∧ 1 ≤ msg8.len ∧ msg8.len ≤ 4096 ∧
    (match (nic []).etherSpan ((nic []).qpJob 0) .store msg8.va.toNat msg8.len with
      | (t, some [p]) => t.hdir.isEmpty && t.sets.isEmpty && decide (p.n = 8 ∧ p.pa + p.n ≤ t.qpBase 0 ∧ t.vis p.pa ≠ 2)
      | _ => false) = true := by unfold InPlace; decide +kernel
theorem witness_InboundWrites_intact : Intact ((nic []).etherSpan 1 .store 0x10000 8).1 ∧ Intact ((nic []).etherRead 1 0x10000 8).1 ∧
    Intact ((nic []).etherRead 1 0x90000 8).1 ∧ Intact (((nic [(0x4000008, 2#8)]).setReg regLnVistab 0x4000001#64).etherSpan 1 .store 0x10000 8).1 :=
  ⟨intact_all (by decide +kernel) (by decide +kernel), intact_all (by decide +kernel) (by decide +kernel),
    intact_all (by decide +kernel) (by decide +kernel), intact_all (by decide +kernel) (by decide +kernel)⟩
theorem witness_InboundWrites_visible : (match ((nic [(0x4000008, 2#8)]).setReg regLnVistab 0x4000001#64).etherSpan 1 .store 0x10000 8 with
    | (t, some [p]) => decide (t.vis p.pa = 2 ∧ p.pa + p.n ≤ t.qpBase 0)
    | _ => false) = true := by decide +kernel
theorem test_rdmaWrite : leaves (.rdmaWrite 0 msg8) (nic []) (fun t => decide (t.rdN 0x20000 8 = msg8.bytes) && t.qpf 0 60 4 == 1) = true := by decide +kernel
theorem witness_InboundImmediates : InPlace (nic []) 0 msg8 ∧ ((nic []).etherStore ((nic []).qpJob 0) msg8.va.toNat (padB msg8.len (msg8.bytes.take msg8.len))).2 = true ∧
    (0x400#32).toNat / 1024 % 65536 ≠ 0 ∧ (0x400#32).toNat / 2 ^ 26 = 0 ∧ (0#32).toNat / 1024 % 65536 = 0 ∧
    ((nic []).setReg (regMkMap 1 0) 0xC005#64).handle ((nic []).qpJob 0) ((0x400#32).toNat % 1024) = some (5, true) := by unfold InPlace; decide +kernel
theorem test_imm_zero : leaves (.rdmaWriteImm 0 msg8 0) (nic []) (fun t => t.reg regMkLinkDrop == 1 && decide (t.rd 0x20003 = 4)) = true := by decide +kernel
theorem witness_InboundReads : InPlace (nic []) 0 msg8 ∧ msg8.rkey.toNat = (nic []).qpf 0 8 4 ∧
    (match (nic []).etherRead ((nic []).qpJob 0) msg8.va.toNat msg8.len with
      | (t, some _) => t.hdir.isEmpty && t.sets.isEmpty
      | _ => false) = true ∧
    (match (nic []).etherRead ((nic []).qpJob 0) 0x90000 8 with
      | (t, none) => t.hdir.isEmpty && t.sets.isEmpty
      | _ => false) = true := by unfold InPlace; decide +kernel
theorem witness_SendRings : (1024 : Nat) ≤ 1024 ∧ (nic readEntry).qpReady 0 = true ∧ (nic readEntry).qpf 0 48 4 = 64 ∧ (0#64).toNat % 2 ^ 32 = ((nic readEntry).qpRt 0).taken ∧
    (1#64).toNat % 2 ^ 32 = (((nic readEntry).qpRt 0).taken + 1) % 2 ^ 32 ∧ Machine.entryOk ((nic []).sendEntry 0 ((nic []).qpRt 0).taken) = false ∧
    Machine.entryOk ((nic readEntry).sendEntry 0 ((nic readEntry).qpRt 0).taken) = true ∧ ((nic readEntry).sendEntry 0 ((nic readEntry).qpRt 0).taken).getD 0 0 = 3 := by decide +kernel
theorem test_read_leaves : leaves (.qpDoorbell 0 1) (nic readEntry) (fun t => decide (t.out.map Out.args = [[0, 0, 0, 0, 16]]) && t.qpf 0 56 4 == 1) = true := by decide +kernel
theorem witness_OutboundAnswers : (nic []).qpReady 2 = false ∧ (sent eRead 7).qpReady 0 = true ∧ (sent eRead 7).hdir = [] ∧ (sent eRead 7).sets = [] ∧
    ((nic []).qpRt 0).sent = [] ∧ 7 ≤ ((sent eRead 7).qpRt 0).retries ∧ ((sent eRead 0).qpRt 0).sent = [eRead] ∧ eRead.opc = 3 ∧ eRead.done = 0 ∧
    ((sent eRead 0).qpRt 0).retries < 7 ∧ ((sent eWrite 0).qpRt 0).sent = [eWrite] ∧ eWrite.opc = 1 ∧ (0#24).toNat = (eWrite.psn + eWrite.packets + 2 ^ 24 - 1) % 2 ^ 24 ∧
    eWrite.sig = none ∧ (sent eRead 0).qpCtrl 0 = false ∧ (9#24).toNat ≠ (eRead.psn + eRead.done) % 2 ^ 24 ∧ eRead.packets = 1 ∧ (0#24).toNat = eRead.psn ∧
    (match (sent eRead 0).etherStore 1 eRead.lva.toNat (msg8.bytes.take eRead.len) with
      | (t, b) => b && decide (t.qps = (sent eRead 0).qps)) = true := by decide +kernel
theorem test_ack : leaves (.rdmaAck 0 (.ack 0)) (sent eWrite 0) (fun t => (t.qpRt 0).sent.isEmpty && t.qpf 0 52 4 == 1) = true := by decide +kernel
theorem test_readData : leaves (.rdmaAck 0 (.readData 0 msg8.bytes)) (sent eRead 0) (fun t => (t.qpRt 0).sent.isEmpty && t.rd 0x20007 == 8) = true := by decide +kernel
theorem witness_CongestionControl : (nic []).qpReady 2 = false ∧ (nic []).qpReady 0 = true ∧ dyVal ((nic []).qpRt 0).alpha ≤ 1 ∧ (nic []).rfld regEnCc 47 32 ≤ 800 :=
  ⟨by decide +kernel, by decide +kernel, by show dyVal ⟨1, 0⟩ ≤ 1; norm_num [dyVal], by decide +kernel⟩
theorem witness_CnpsAreLimited : (nic []).qpReady 0 = true ∧ (nic []).qpCtrl 0 = false ∧ { msg8 with icrcOk := false, ce := true }.ce = true ∧ ((nic []).qpRt 0).cnpAt = none ∧
    (({ nic [] with qps := [(0, { cnpAt := some 0 })] } : State).qpRt 0).cnpAt = some 0 ∧ (({ nic [] with qps := [(0, { cnpAt := some 0 })] } : State).time - 0).toNat < 50000 := by
  decide +kernel
theorem test_cnp : leaves (.rdmaWrite 0 { msg8 with icrcOk := false, ce := true }) (nic []) (fun t => t.reg regEnCnpTx == 1 && decide (t.out.map Out.code = [0x81])) = true := by
  decide +kernel
/-- The control pair of job 1 with a table of it. -/
def grp : State := withTab (nic []) 0x80000
def slice0 : SliceReq := ⟨0, 0, 0, 1, 0x10000#64, 0x10800#64, 0, 0⟩
theorem witness_SliceMessages : (nic []).ctlOk 0 = false ∧ grp.ctlOk 1 = true ∧ (grp.desc (grp.qpJob 1) slice0.table).isSome = true ∧ slice0.edition = 0 ∧
    (grp.table (grp.qpJob 1) 0).editionAt 5 = none ∧ (grp.reg (regNbEdgen (grp.qpJob 1))).toNat < 5 ∧
    5 ≤ ((grp.setReg (regNbEdgen 1) 7).reg (regNbEdgen 1)).toNat ∧ (grp.setReg (regNbEdgen 1) 7).ctlOk 1 = true ∧ grp.rings = [] := by decide +kernel
/-- The group of job 1 with a group folio pending. -/
def grpAt (g : GroupRt) : State := { nic [] with groups := [(1, g)] }
theorem witness_GroupFolios : (up [(regFwStatus, 0#64)]).fwUp = false ∧ (nic []).fwUp = true ∧ (nic []).grouped 1 = true ∧ ((nic []).job 1).loaded = true ∧
    ((grpAt { folioAt := some 4 }).group 1).folioAt ≠ none ∧ (grpAt { folioAt := some 4 }).grouped 1 = true ∧ ((nic []).group 1).folioAt = none ∧
    (4 : Word) ≠ (smapGet (fun _ => (0, 0)) (nic []).dx.prevStep 1).1 ∧ (0 : Word) = (smapGet (fun _ => (0, 0)) (nic []).dx.prevStep 1).1 ∧ (nic []).folioPhase = 0 ∧
    ((nic []).group 1).mine = none := by decide +kernel
theorem test_folioAt : leaves (.folioAt 1 4) (nic []) (fun t => (t.group 1).folioAt == some 4 && t.folioPhase == 0) = true := by decide +kernel
theorem witness_GroupRestarts : (nic []).grouped 2 = false ∧ (nic []).fwUp = true ∧ (nic []).grouped 1 = true ∧ ((nic []).job 1).loaded = true ∧ ((nic []).group 1).acks = none ∧
    ((grpAt { acks := some (3, []) }).group 1).acks = some (3, []) ∧ 2 ∉ ([] : List Nat) ∧ ((grpAt { acks := some (3, []) }).ctrlPairs 1).length ≤ ([2] : List Nat).dedup.length ∧
    (grpAt {}).blot.jobs = [] ∧ ([2] : List Nat).dedup.length < (({ nic [(0x40200, 0x13#8)] with groups := [(1, { acks := some (3, []) })] } : State).ctrlPairs 1).length := by
  decide +kernel
theorem test_restartAck : leaves (.restartAck 1 2 3) (grpAt { acks := some (3, []) }) (fun t => (t.group 1).acks == none) = true := by decide +kernel
theorem witness_IngestDatagrams : (64 : Nat) ≤ 64 ∧ (up []).portUp 0 = false ∧ (up []).portUp 1 = false ∧ (nic []).portUp 0 = true ∧ (nic []).rbit (regEnIng 0) 63 = true ∧
    (nic []).rbit (regEnIng 1) 63 = false ∧ (nic []).ingSlot 0 - 16 < 500 ∧ 4 ≤ (nic []).ingSlot 0 - 16 ∧ (0 : Nat) < (((nic []).setReg (regEnIngrel 0) 1).reg (regEnIngrel 0)).toNat ∧
    ((nic []).reg (regEnIngrel 0)).toNat + 2 ^ (nic []).rfld (regEnIng 0) 51 47 ≤ 16 ∧ 3 < ((nic []).reg (regEnIngrel 0)).toNat + 2 ^ (nic []).rfld (regEnIng 0) 51 47 ∧
    3 ∈ ({ nic [] with ingest := [(0, [3])] } : State).ingHeld 0 ∧ 3 ∉ (nic []).ingHeld 0 ∧ (nic []).hdir = [] ∧ (nic []).sets = [] ∧ 3 ≠ ((nic []).reg (regEnIngprod 0)).toNat ∧
    ((nic []).reg (regEnIngprod 0)).toNat ∉ (nic []).ingHeld 0 ∧ 0 = ((nic []).reg (regEnIngprod 0)).toNat := by decide +kernel
theorem test_ingest : leaves (.ingestDatagram 0 0 4 false [9, 8, 7, 6]) (nic []) (fun t => t.reg (regEnIngprod 0) == 1 && t.rd ((nic []).ingAddr 0 0 + 16) == 9) = true := by
  decide +kernel
theorem test_ingest_full : leaves (.ingestDatagram 0 16 4 false [9, 8, 7, 6]) (nic []) (fun t => t.reg regEnIngFull == 1) = true := by decide +kernel

/-! ### The Blotter -/

/-- A quiet UNPAIRED module, group 0 mapped, its spare left. -/
def calm (l : List (Nat × Word)) : State := { up ([(regCbStatus, 0#64), (regScGroupMap 0, 0x876543210#64)] ++ l) with jobs := [] }
def rep (code kind idx : Nat) : Report := ⟨code, ⟨kind, idx⟩, 0, 0, none, false⟩
def filling : State := { calm [(regBlStatus, 4#64), (regBlFill, 0x8000000000000000#64)] with blot := { fills := [⟨0, [0], false⟩] } }
def restoring : State := { calm [] with blot := { restoring := true } }

theorem witness_ReportsWithoutReaction : State.reset.joined 167 = false ∧ blClass 0x46 = .c ∧ smapGet (fun _ => 0) (calm []).blot.tags (unitWord ⟨0, 3⟩) < 16 := by decide +kernel
theorem witness_ReportsWithoutReaction_classes : (∃ c ∈ upto 256, blClass c = .c) ∧ (∃ c ∈ upto 256, blClass c = .i) ∧ (calm []).joined 167 = true ∧
    (calm []).rbit regBlCfg 1 = false := by decide +kernel
theorem witness_ClassMFaults : (rep 0x20 2 0).code = 0x20 ∧ unitOf (rep 0x20 2 0).unit ≠ .checker ∧ (calm []).joined 167 = true ∧ Quiet (calm []) ∧ (calm []).role = 0 ∧
    Quiet (calm [(regCbStatus, 3#64)]) ∧ (calm [(regCbStatus, 3#64)]).role = 3 ∧ (calm [(regCbStatus, 2#64)]).role = 2 := by unfold Quiet; decide +kernel
theorem test_corrected : leaves (.blotterReport (rep 0x46 0 3)) (calm []) (fun t => t.reg regBlCorrected == 1 && t.reg regBlFaults == 0) = true := by decide +kernel
theorem witness_CheckerDisagreement : (rep 0x21 2 0).code = 0x21 ∧ (calm []).joined 167 = true ∧ Quiet (calm []) ∧ (calm []).role < 7 ∧
    (∃ k ∈ upto 16, ∃ i ∈ upto 16, unitOf ⟨k, i⟩ = .checker) ∧ blClass 0x20 = .m := by unfold Quiet; decide +kernel
theorem test_checker : leaves (.blotterReport (rep 0x21 2 0)) (calm []) (fun t => t.role == 7 && t.rbit regBlStatus 7) = true := by decide +kernel
theorem witness_UnitsWithoutJobEffect : (3 : Nat) < 4 ∧ (calm []).joined 167 = true ∧ Quiet (calm []) ∧ (∀ e ∈ (calm []).hot.ents, e.pin = none) ∧ (calm []).dom (148 + 3) = 2 := by unfold Quiet; decide +kernel
theorem test_domain_not_joined : leaves (.blotterReport (rep 0x07 2 3)) { State.reset with reports := [rep 0x07 2 3] } (fun t => decide (t = State.reset)) = true := by
  decide +kernel
theorem witness_ClusterFaultsFillTheSpare : (rep 0x05 0 3).unit = ⟨0, 3⟩ ∧ (rep 0x05 0 3).sourceLost = false ∧ (calm []).joined 167 = true ∧ Quiet (calm []) ∧ (calm []).role = 0 ∧
    (calm []).logicalsOf 3 = [3] ∧ (calm []).fenced 3 = false ∧ (calm []).dom 3 = 2 ∧ (calm []).rfld (regScGroupMap 0) 35 32 = 8 ∧ (calm []).fenced 8 = false ∧
    (calm []).hot.ents = [] ∧ (calm []).sets = [] ∧ (calm []).caches = [] := by unfold Quiet; decide +kernel
theorem witness_FillsComplete : (calm []).blot.fills = [] ∧ filling.fwUp = true ∧ filling.blot.fills = [⟨0, [8 * 0 + 0], false⟩] ∧ filling.blot.jobs = [] ∧
    filling.rfld (regScGroupMap 0) 35 32 = 8 ∧ filling.sets = [] ∧ filling.caches = [] := by decide +kernel
theorem test_fill_complete : leaves (.fillComplete true) filling (fun t => t.phys 0 == 8 && t.phys 1 == 1 && t.reg regBlSpares == 1) = true := by decide +kernel
theorem witness_RestartsComplete : (calm []).blot.restoring = false ∧ restoring.blot.restoring = true ∧ restoring.fwUp = true ∧ restoring.blot.jobs = [] ∧ restoring.rings = [] := by
  decide +kernel
theorem witness_Heartbeats : (⟨2, 1⟩ : UnitId) ∉ (calm []).blot.units ∧ (calm []).dom (148 + 1) = 2 ∧ (⟨2, 1⟩ : UnitId) ∉ (calm []).blot.missed ∧ (⟨2, 1⟩ : UnitId) ∈ ({ calm [] with blot := { missed := [⟨2, 1⟩] } } : State).blot.missed ∧
    Quiet { calm [] with blot := { missed := [⟨2, 1⟩] } } ∧ (calm []).joined 167 = true := by unfold Quiet; decide +kernel
theorem test_heartbeat : leaves (.heartbeatCheck [⟨2, 1⟩]) (calm []) (fun t => decide (t.blot.missed = [⟨2, 1⟩]) && t.reg regBlHbMiss == 1 && !t.folio.beat) = true := by
  decide +kernel
theorem witness_BlotterOrders : bitOf 0x20010000#64 0 = false ∧ bitOf 0x20010001#64 0 = true ∧ (calm [(regBlOrder, 1#64)]).rbit regBlOrder 0 = true ∧
    (calm []).rbit regBlOrder 0 = false ∧ (calm []).joined 167 = true ∧ Quiet (calm []) ∧ fld 0x20010001#64 31 28 = 2 ∧ fld 0x20010001#64 27 16 = 1 ∧
    (up [(regFwStatus, 0#64)]).fwUp = false ∧ (calm [(regBlStatus, 16#64)]).fwUp = true ∧ (calm [(regBlStatus, 16#64)]).rbit regBlStatus 4 = true ∧ 384 < fld 385#64 9 0 ∧
    fld 384#64 9 0 ≤ 384 ∧ (calm []).rbit regBlStatus 4 = false := by unfold Quiet; decide +kernel
theorem test_order_fence : leaves (.blOrderFence 0x20010001#64) (calm [(regBlOrder, 1#64)]) (fun t => t.rbit regBlStatus 8 && t.rfld regBlOrder 31 16 == 0) = true := by
  decide +kernel

/-! ### Power -/

/-- A sample of 54 V (in units of 0.01 V) at 10 A. -/
def good : PowerSample := { vhu := 5400, vin := 5400, iin := 1000 }
def steady (x : Power) (l : List (Nat × Word)) : State := { calm l with power := x }
/-- The first two temperatures of group 0 at 30 °C but one at `x` sixteenths. -/
def temps (x : BitVec 16) : List (BitVec 16) := x :: List.replicate 63 480#16

theorem witness_SteadySupply : Steady (steady {} []) ∧ good.vin ≤ 6100 ∧ (∀ i < 5, 1 ≤ i → (steady {} []).shedThr i ≤ good.vin) ∧ (steady {} []).shedThr 5 ≤ good.vhu ∧
    2800 ≤ good.vhu ∧ good.vhu < 65536 ∧ good.iin < 65536 := by unfold Steady; decide +kernel
theorem test_steady : leaves (.powerSample good) (steady {} []) (fun t => t.rfld regPwInput 47 32 == 5400 && t.effStep == 0 && t.power.pins == [5400]) = true := by decide +kernel
/-- V_IN is under the first threshold alone. -/
def sag : PowerSample := { good with vin := 4150 }
theorem witness_LadderSteps : Steady (steady {} []) ∧ sag.vin < (steady {} []).shedThr 1 ∧ (∀ i < 5, 2 ≤ i → (steady {} []).shedThr i ≤ sag.vin) ∧
    (steady {} []).shedThr 5 ≤ sag.vhu ∧ 2800 ≤ sag.vhu ∧ sag.vin ≤ 6100 ∧ (steady { low := [(1, 1)] } []).power.low = [(1, 1)] ∧
    (steady { done := 1 } [(regPwStatus, 0x24#64)]).rfld regPwStatus 7 5 = 1 ∧ (steady { done := 1 } [(regPwStatus, 0x24#64)]).pwHeld = false ∧
    (∀ i < 5, 1 ≤ i → (steady { done := 1 } [(regPwStatus, 0x24#64)]).shedThr i + 50 ≤ good.vin) ∧ (steady { done := 1 } [(regPwStatus, 0x24#64)]).power.exitOk < 99 ∧
    99 ≤ (steady { done := 1, exitOk := 99 } [(regPwStatus, 0x24#64)]).power.exitOk := by unfold Steady; decide +kernel
theorem test_l1 : leaves (.powerSample sag) (steady { low := [(1, 1)] } []) (fun t => t.effStep == 1 && t.reg regPwL1 == 1 && t.rfld regPwStatus 4 2 == 1) = true := by decide +kernel
theorem test_l1_left : leaves (.powerSample good) (steady { done := 1, exitOk := 99 } [(regPwStatus, 0x24#64)]) (fun t => t.effStep == 0) = true := by decide +kernel
/-- L2 stands, and V_IN was below the third threshold once. -/
def sinking : State := steady { low := [(1, 2), (2, 2), (3, 1)], done := 2 } [(regPwStatus, 0x48#64)]
def low3 : PowerSample := { good with vin := 3700 }
theorem witness_EnteringL3 : sinking.rfld regPwStatus 7 5 = 2 ∧ sinking.rfld regPwStatus 10 8 = 0 ∧ sinking.rbit regPwStatus 11 = false ∧ sinking.power.done = 2 ∧
    sinking.power.low = [(1, 2), (2, 2), (3, 1)] ∧ sinking.power.ovp = 0 ∧ sinking.pwHeld = false ∧ low3.vin < sinking.shedThr 3 ∧ low3.vin < sinking.shedThr 2 ∧
    low3.vin < sinking.shedThr 1 ∧ sinking.shedThr 4 ≤ low3.vin ∧ sinking.shedThr 5 ≤ low3.vhu ∧ sinking.role = 0 ∧ sinking.fwUp = true ∧ sinking.groupJobs = [] ∧
    sinking.folioPhase = 0 := by decide +kernel
theorem test_l3 : leaves (.powerSample low3) sinking (fun t => t.effStep == 3 && t.folioPhase == 1 && t.rfld regFePins 13 11 == 3) = true := by decide +kernel
theorem witness_BrownOut : smapGet (fun _ => 0) (steady { low := [(6, 1)] } []).power.low 6 = 1 ∧ (2700 : Nat) < 2800 ∧ ({ good with vhu := 2700, vin := 0 } : PowerSample).vin ≤ 6500 := by
  decide +kernel
theorem witness_BrownOut_third : smapGet (fun _ => 0) (steady { low := [(6, 2)] } []).power.low 6 = 2 := by decide +kernel
theorem test_brown_out : leaves (.powerSample { good with vhu := 2700, vin := 0 }) (steady { low := [(6, 1)] } []) (fun t => t.regs.isEmpty && t.power.full) = true := by decide +kernel
def highV : PowerSample := { good with vin := 6101 }
def risen : State := steady { ovp := 1 } [(regFwStatus, 0#64)]
theorem witness_OverVoltage : risen.rbit regPwStatus 11 = false ∧ risen.power.ovp = 1 ∧ 6100 < highV.vin ∧ highV.vin ≤ 6500 ∧ risen.power.low = [] ∧ risen.power.done = 0 ∧
    risen.rfld regPwStatus 7 5 = 0 ∧ risen.rfld regPwStatus 10 8 = 0 ∧ (∀ i < 5, 1 ≤ i → risen.shedThr i ≤ highV.vin) ∧ risen.shedThr 5 ≤ highV.vhu ∧ risen.role = 0 ∧
    risen.fwUp = false ∧ risen.jobs = [] ∧ risen.folioPhase = 0 ∧ risen.hreqs = [] ∧ risen.pwHeld = false := by decide +kernel
theorem test_over_voltage : leaves (.powerSample highV) risen (fun t => t.reg regPwOvp == 1 && t.effStep == 4 && t.pwHeld) = true := by decide +kernel
theorem test_no_module_at_that_voltage : exec (.powerSample { good with vin := 6501 }) risen = .fault .aboveAbsoluteMaximum := by rfl
theorem witness_Temperatures : (temps 480#16).length = 64 ∧ (steady {} []).power.done = 0 ∧ (steady {} []).rfld regPwStatus 7 5 = 0 ∧
    (steady {} []).rfld regPwStatus 10 8 = 0 ∧ (steady { hot3 := 1 } [(regFwStatus, 0#64)]).power.hot3 = 1 ∧ (steady { hot3 := 1 } [(regFwStatus, 0#64)]).pwHeld = false ∧
    (steady { hot3 := 1 } [(regFwStatus, 0#64)]).fwUp = false := by decide +kernel
theorem witness_Temperatures_values : (∀ x ∈ temps 480#16, x.toInt ≤ 1600) ∧ (∃ x ∈ temps 1680#16, 1680 ≤ x.toInt) ∧ ∀ x ∈ temps 1680#16, x.toInt < 1760 := by simp [temps]
theorem witness_Temperatures_cause : (steady {} []).rbit regPwStatus 11 = false ∧ (steady { hot3 := 1 } [(regFwStatus, 0#64)]).rbit regPwStatus 11 = false ∧
    (steady { hot3 := 1 } [(regFwStatus, 0#64)]).folioPhase = 0 ∧ (steady { hot3 := 1 } [(regFwStatus, 0#64)]).rfld regPwStatus 10 8 = 0 := by decide +kernel
theorem test_hot : leaves (.tempSample (temps 1680#16) []) (steady { hot3 := 1 } [(regFwStatus, 0#64)]) (fun t => t.effStep == 3 && t.reg regPwTherm == 1) = true := by decide +kernel
theorem witness_Phases : (42 : Nat) ≤ 42 ∧ (calm [(regPwPhase, 1#64)]).rbit regPwPhase 0 = true ∧ (calm []).rbit regPwPhase 41 = false ∧
    ((upto 42).filter (fun i => (calm []).rbit regPwPhase i)).length < 2 ∧ 2 ≤ ((upto 42).filter (fun i => (calm [(regPwPhase, 3#64)]).rbit regPwPhase i)).length ∧
    8 ≤ ((upto 42).filter (fun i => (calm [(regPwPhase, 255#64)]).rbit regPwPhase i)).length := by decide +kernel
theorem test_eighth_phase : leaves (.phaseSpareIn 41) (calm [(regPwPhase, 255#64)]) (fun t => t.phases == 33 && decide (t.reports.map Report.code = [0x20])) = true := by decide +kernel
theorem witness_DomainsSwitch : (calm []).dom 3 ≠ 3 ∧ (calm [(regPwDomst 0, 0xC0#64)]).dom 3 = 3 ∧ smapGet (fun _ => 0) (calm []).power.target 3 < 3 := by decide +kernel
theorem test_domain : leaves (.domainSwitchComplete 3) (steady { target := [(3, 1)] } [(regPwDomst 0, 0xC0#64)]) (fun t => t.dom 3 == 1 && t.dom 2 == 0) = true := by decide +kernel
theorem witness_InkwellSave : (calm []).power.saving = false ∧ (steady { saving := true } []).power.saving = true ∧ (steady { saving := true } []).rfld regPwIwsave 47 30 < 1021 ∧
    Memory.wf (steady { saving := true } []).mem := by decide +kernel
/-- The island runs and the module is held, its supply good for 100 ms; every domain is in state `v`. -/
def heldAt (v : Word) (x : Power) : State := { calm [(regPwStatus, 0x1000#64), (regPwDomst 0, v), (regPwDomst 1, v), (regPwDomst 2, v), (regPwDomst 3, v), (regPwDomst 4, v),
    (regPwDomst 5, v)] with power := { x with high := 10000 } }
theorem witness_WarmReset : (calm []).pwHeld = false ∧ (heldAt 0 { full := false }).pwHeld = true ∧ (heldAt 0 { full := false }).power.full = false ∧
    (heldAt 0 { full := false }).power.booting = false ∧ (heldAt 0 { full := false }).resetPin = false ∧ (heldAt 0 { full := false }).effStep < 5 ∧
    10000 ≤ (heldAt 0 { full := false }).power.high ∧ (heldAt 0 { full := false }).rfld regPwStatus 10 8 < 4 := by decide +kernel
theorem witness_ShedThresholds : (up [(regFwStatus, 0#64)]).fwUp = false ∧ (calm [(regPwInput, 0x1518000000000000#64)]).fwUp = true ∧
    3050 ≤ (calm [(regPwInput, 0x1518000000000000#64)]).rfld regPwInput 63 48 ∧ shedOk (0#64 &&& 0x0003FFFFFFFFFFFF#64) = false ∧
    shedOk ((calm []).reg regPwShedthr &&& 0x0003FFFFFFFFFFFF#64) = true ∧ ((calm []).led 5).count < 16 ∧
    16 ≤ (({ calm [] with ledger := [(5, ⟨[], 16⟩)] } : State).led 5).count := by decide +kernel
theorem test_bad_thresholds : leaves (.pwShedthrWrite 0) (calm [(regPwInput, 0x1518000000000000#64)]) (fun t => t.rbit regPwStatus 15 && decide (t.ledger = [])) = true := by
  decide +kernel
theorem witness_PowerUps_island : State.reset.power.full = true ∧ State.reset.pwHeld = false ∧ (calm []).pwHeld = false ∧ (∀ e ∈ upto 11, (State.reset.led e).count < 2 ^ 32) := by
  decide +kernel
theorem witness_PowerUps_begin : (heldAt 0 {}).power.full = true ∧ (heldAt 0 {}).pwHeld = true ∧ 10000 ≤ (heldAt 0 {}).power.high ∧ (heldAt 0 {}).rfld regPwStatus 10 8 < 4 ∧
    (heldAt 0 {}).resetPin = false ∧ (heldAt 0 {}).power.refLost = false ∧ (heldAt 0 {}).power.booting = false ∧ (∀ d < 176, (heldAt 0 {}).dom d = 0) := by decide +kernel
theorem witness_PowerUps_end : (heldAt 0x5555555555555555#64 { booting := true }).power.booting = true ∧ (∀ d < 176, (heldAt 0x5555555555555555#64 { booting := true }).dom d = 1) ∧
    (heldAt 0x5555555555555555#64 { booting := true }).effStep = 0 ∧ ((heldAt 0 {}).led 4).value.all (fun b => b == 0#8) = true ∧
    (heldAt 0xFFFFFFFFFFFFFFFF#64 { booting := true }).dom 5 = 3 := by decide +kernel
theorem witness_PowerUps_order : (heldAt 0x5555555555555555#64 { booting := true }).power.switchq = [] ∧ (heldAt 0 {}).power.switchq = [] ∧
    ({ heldAt 0 {} with power := { booting := true, switchq := [(3, 1)] } } : State).power.switchq ≠ [] := by decide +kernel
theorem test_power_up : leaves .powerUp (heldAt 0 {}) (fun t => t.power.booting && t.power.switchq.length == 168 && ((upto 176).filter (fun d => t.dom d == 3)).length == 8) = true := by decide +kernel
theorem witness_Reference : ({ calm [] with power := { refLost := true } } : State).power.refLost = true ∧ (calm []).power.refLost = false := by decide +kernel
theorem test_refclk : leaves .refclkLoss (calm []) (fun t => t.power.refLost && decide (t.reports.map Report.code = [0x20])) = true := by decide +kernel

/-! ### The firmware -/

/-- An image that passes every check. -/
def image : FwImage := ⟨true, 3, 77, 4096, 5, 6, 5, 6, Config.vendorKeyHash, true, 0, true⟩
def withFw (x : Fw) (l : List (Nat × Word)) : State := { up l with fw := x }
/-- The Ledger holds the hash of an owner key. -/
def owned : State := { up [] with ledger := [(3, ⟨leBytes 32 9, 1⟩), (6, ⟨leBytes 4 2, 1⟩)] }

theorem witness_ImageChecks : ({ image with formOk := false } : FwImage).formOk = false ∧ image.formOk = true ∧ (1#32).toNat < owned.ledNum 6 ∧ (up []).ledNum 6 ≤ image.svn.toNat ∧
    owned.ledNum 6 ≤ image.svn.toNat ∧ ({ image with payDigest := 0 } : FwImage).payDigest ≠ image.payHash ∧ image.payDigest = image.payHash ∧ image.runDigest = image.runHash ∧
    ({ image with vendorSigOk := false } : FwImage).vendorSigOk = false ∧ (up []).ledNum 3 = 0 ∧ owned.ledNum 3 ≠ 0 ∧
    leBytes 32 (8#256).toNat ≠ (owned.led 3).value ∧ leBytes 32 (9#256).toNat = (owned.led 3).value ∧ ((up []).led 7).value = [] ∧
    (({ up [] with ledger := [(7, ⟨[1], 1⟩)] } : State).led 7).value = 1 :: [] := by decide +kernel
theorem witness_ImageChecks_keys : image.vendorPkHash = Config.vendorKeyHash ∧ ∃ k : BitVec 256, k ≠ Config.vendorKeyHash :=
  ⟨rfl, ~~~Config.vendorKeyHash, fun h => by have := congrArg (fun x : BitVec 256 => x.getLsbD 0) h; simp at this⟩
theorem test_no_image : (up []).imageFail none = 1 := by rfl
/-- Copyist 0 and flash are joined and nothing runs. -/
def bootable (x : Fw) : State := withFw x [(regFwStatus, 0#64)]
theorem witness_Boot : (up []).bootable = false ∧ (bootable { slotA := some image }).bootable = true ∧ (bootable { slotA := some image }).fw.trying.getD (bootable { slotA := some image }).firstSlot = 0 ∧
    (bootable {}).bootable = true ∧ (bootable {}).imageFail ((bootable {}).slotImage 0) ≠ 0 ∧ (bootable {}).fw.tried.contains (1 - 0) = false ∧
    (bootable { trying := some 1, tried := [0] }).fw.tried.contains (1 - 1) = true ∧ (bootable {}).rings = [] := by decide +kernel
theorem witness_Boot_passes : (bootable { slotA := some image }).slotImage 0 = some image ∧ (bootable { slotA := some image }).imageFail (some image) = 0 := by
  refine ⟨rfl, ?_⟩; simp [State.imageFail, image, bootable, withFw, up, State.ledNum, State.led, smapGet, ledDefault]; decide
theorem test_first_slot_empty : leaves .bootImageLoaded (bootable {}) (fun t => t.rfld regFwBoot 7 0 == 1 && t.fw.trying == some 1) = true := by decide +kernel
theorem test_no_slot : leaves .bootImageLoaded (bootable { trying := some 1, tried := [0] }) (fun t => t.rbit regFwStatus 3 && t.rbit regBlStatus 6) = true := by decide +kernel
/-- Ring pair 0, Fair, of 64 entries, one of which waits; its entry at 0x9000 has this opcode. -/
def serving (opc : BitVec 8) (open0 : List RingEnt) : State := { up [] with
  rings := [(0, { created := true, cb := 0x8000, tail := 1, opened := open0 })]
  mem := [(0x8001, 0x90#8), (0x8009, 0xA0#8), (0x8010, 6#8), (0x8011, 6#8), (0x8012, 1#8), (0x9000, opc)] }
def entryOf (l : List Byte) : RingEnt := { seq := 7, bytes := padB 64 l }
theorem witness_EntriesAreConsumed : (up []).mayConsume 0 = false ∧ (serving 1 []).mayConsume 0 = true ∧ (serving 1 []).ringTurn 0 = true ∧ (serving 1 []).hdir = [] ∧
    (serving 1 []).sets = [] := by decide +kernel
/-- The next entry submits a Draft task of job 1, and the device queue holds all its Draft entries. -/
def submitting : State := { serving 0x13 [] with
  mem := (serving 0x13 []).mem ++ [(0x9002, 1#8)]
  dx := { devq := List.replicate 3072 (tk false 0 0) } }
theorem witness_EntriesAreConsumed_stall : submitting.mayConsume 0 = true ∧ submitting.ringTurn 0 = true ∧ submitting.submitStalls 0 = true ∧
    (serving 1 []).submitStalls 0 = false := by decide +kernel
theorem witness_EntriesAreConsumed_intact : Intact (serving 1 []) ∧ Intact (serving 1 [entryOf [1]]) := ⟨intact_of rfl rfl, intact_of rfl rfl⟩
theorem test_consume : leaves (.ringEntryConsume 0) (serving 1 []) (fun t => t.cbf 0 32 4 == 1 && t.cbf 0 40 8 == 1 && (t.ring 0).opened.length == 1) = true := by decide +kernel
theorem test_unknown_opcode : leaves (.ringEntryConsume 0) (serving 0x7F []) (fun t => (t.ring 0).opened.isEmpty && t.rd 0xA002 == 1) = true := by decide +kernel
theorem witness_EntryAnswers : standby.role = 3 ∧ standbyOpc ((entryOf [0x13]).byte 0) (decide (128 ≤ (entryOf [0x13]).byte 23)) = false ∧ (serving 1 []).role ≠ 3 ∧ (serving 1 []).role ≠ 6 ∧
    opcRule ((entryOf [0x7F]).byte 0) = none ∧ (opcRule ((entryOf [1]).byte 0)).isSome = true ∧ 2 ≤ (entryOf [1, 2]).byte 1 ∧ (entryOf [1, 1]).byte 1 = 1 ∧ (entryOf [1, 1]).byte 3 = 0 ∧
    (up []).ringFair 1 = false ∧ (entryOf [1]).byte 1 = 0 ∧ (serving 1 []).ringFair 0 = true ∧ (serving 1 []).mayConsume 0 = true := by decide +kernel
theorem witness_Completions : (up [(regFwStatus, 0#64)]).fwUp = false ∧ (serving 1 [entryOf [1]]).fwUp = true ∧ (serving 1 [entryOf [1]]).cqRoom 0 = true ∧
    ((serving 1 [entryOf [1]]).ring 0).opened = [entryOf [1]] ∧ (entryOf [1]).seq = 7 ∧ (entryOf [1]).bytes.length = 64 ∧
    ((serving 1 [{ entryOf [1] with seq := 6 }, entryOf [1]]).ring 0).opened = [{ entryOf [1] with seq := 6 }, entryOf [1]] ∧ (serving 1 []).ringFair 0 = true := by decide +kernel
theorem test_completion : ((serving 1 [entryOf [1]]).complete 0 7 (doneWith 2 0 [])).rdN 0xA000 4 = [1, 0, 2, 0] := by decide +kernel
theorem witness_FirmwareCrash : (up []).workers.contains 2 = true ∧ State.reset.workers.contains 2 = false ∧ (up []).rbit regFwStatus 0 = true ∧ (up []).rbit regFwStatus 5 = false := by
  decide +kernel
theorem test_watchdog : leaves (.fwWatchdogExpire 2) (up []) (fun t => !t.fwUp && t.rbit regFeAlert 4 && t.fw.cause == 1) = true := by decide +kernel
theorem witness_FirmwareRestarts : (up []).rbit regFwStatus 5 = false ∧ (withFw { cause := 1 } [(regFwStatus, 0x20#64)]).rbit regFwStatus 5 = true ∧
    (withFw { cause := 1 } [(regFwStatus, 0x20#64)]).pwHeld = false ∧ (withFw { cause := 1 } [(regFwStatus, 0x20#64)]).rings = [] ∧
    (withFw { cause := 1 } [(regFwStatus, 0x20#64)]).folio.waits = none ∧ (withFw { cause := 1 } [(regFwStatus, 0x20#64)]).fw.cause ≠ 5 ∧
    3 ≤ ((withFw { restarts := [0, 0, 0] } []).fw.restarts.filter (fun u => decide (((withFw { restarts := [0, 0, 0] } []).time - u).toNat < 60000000000))).length ∧
    ((withFw {} []).fw.restarts.filter (fun u => decide (((withFw {} []).time - u).toNat < 60000000000))).length < 3 ∧
    (withFw { cause := 5, trying := some 1 } [(regFwStatus, 0x20#64)]).fw.cause = 5 ∧ (withFw { cause := 5, trying := some 1 } [(regFwStatus, 0x20#64)]).fw.prefDone = false ∧
    ((up []).led 7).count < 128 := by decide +kernel
theorem test_restart : leaves .fwRestartComplete (withFw { cause := 1 } [(regFwStatus, 0x20#64)]) (fun t => t.reg regFwRestarts == 1 && t.rbit regFwStatus 0 &&
    decide (t.events.map Event.code = [7])) = true := by decide +kernel

/-! ### Host commands and the Ledger -/

/-- The header of the entries below: ring pair 0, job 1. -/
def hdr (ordered : Bool) : EntryHdr := ⟨0, ordered, 1, 0, true⟩
def entry (opc : BitVec 8) (ordered : Bool) : RingEnt := entryOf [opc, if ordered then 1 else 0, 1]
/-- The consumed entry of a command stands on ring pair 0; the journal is in place, and the supply is good. -/
def hosted (opc : BitVec 8) (ordered : Bool) : State := { serving 0 [entry opc ordered] with
  regs := regsWith [(regFwStatus, 1#64), (regCbStatus, 4#64), (regFwJournal, 0xFFC0000001#64), (regPwInput, 0x1518000000000000#64)] }

theorem stands_of {s : State} {i : Instr} {e : EntryHdr} {x : RingEnt} (opc : Nat) (taints : Bool) (a : hostCmdOf i = some (e, opc, taints))
    (b : s.hostEntry e opc = some x ∧ e.zeroOk = true ∧ e.job < 16 ∧ (taints = true → s.rbit (regMkJobstat e.job) 0 = false)) : Stands s i e x :=
  ⟨opc, taints, a, b⟩
theorem witness_HostCommandsNeedTheirEntry : hostCmdOf (.jobStop (hdr true)) = some (hdr true, 0x12, true) ∧ (up []).hostEntry (hdr true) 0x12 = none ∧
    (hosted 0x12 true).hostEntry (hdr true) 0x12 = some (entry 0x12 true) ∧ (hdr true).zeroOk = true ∧ (hdr true).job < 16 ∧
    ((hosted 0x12 true).setReg (regMkJobstat 1) 1).rbit (regMkJobstat (hdr true).job) 0 = true ∧
    (((hosted 0x12 true).setReg (regMkJobstat 1) 1).hostEntry (hdr true) 0x12).isSome = true := by decide +kernel
theorem witness_HostCommandsNeedTheirEntry_zero : ({ hdr true with zeroOk := false } : EntryHdr).zeroOk = false ∧
    (hosted 0x12 true).hostEntry { hdr true with zeroOk := false } 0x12 = some (entry 0x12 true) := by decide +kernel
theorem witness_OrderedCommands : Stands (hosted 0x12 true) (.jobStop (hdr true)) (hdr true) (entry 0x12 true) ∧ orderedCmdOf (.jobStop (hdr true)) = some (.jobStop 1) ∧
    (hosted 0x12 true).hostCheck (.jobStop 1) = 0 ∧ (hosted 0x12 true).mayCommit = true ∧ (hosted 0x12 true).assignedCsn + 1 < 2 ^ 64 - 1 ∧ (hosted 0x12 true).hdir = [] ∧
    (hosted 0x12 true).sets = [] ∧ (hosted 0x12 true).role ≠ 2 ∧ (hosted 0x12 true).recordedCsn ≤ (hosted 0x12 true).assignedCsn :=
  ⟨stands_of 0x12 true rfl (by decide +kernel), rfl, by decide +kernel⟩
theorem witness_OrderedCommands_refused : Stands (hosted 0x32 true) (.ingestCfg (hdr true) 64 0 0) (hdr true) (entry 0x32 true) ∧ (hosted 0x32 true).hostCheck (.ingestCfg 64 0 0) ≠ 0 ∧
    3050 ≤ (hosted 0x32 true).rfld regPwInput 63 48 := ⟨stands_of 0x32 false rfl (by decide +kernel), by decide +kernel⟩
/-- No commit may begin: the journal has no place. -/
def unplaced : State := (hosted 0x12 true).setReg regFwJournal 0
/-- The commit sequence is at its end. -/
def spent : State := { hosted 0x12 true with mem := (hosted 0x12 true).mem ++ cells 0xFFC0000020 [0xFD, 255, 255, 255, 255, 255, 255, 255] }
/-- A member whose twin takes its records. -/
def twinned : State := (hosted 0x12 true).setReg regCbStatus 0x402#64
theorem witness_OrderedCommands_waits : Stands unplaced (.jobStop (hdr true)) (hdr true) (entry 0x12 true) ∧ unplaced.hostCheck (.jobStop 1) = 0 ∧ unplaced.mayCommit = false :=
  ⟨stands_of 0x12 true rfl (by decide +kernel), by decide +kernel⟩
theorem witness_OrderedCommands_sequence : Stands spent (.jobStop (hdr true)) (hdr true) (entry 0x12 true) ∧ spent.hostCheck (.jobStop 1) = 0 ∧ spent.mayCommit = true ∧
    (entry 0x12 true).byte 0 ≠ 0x10 ∧ 2 ^ 64 - 1 ≤ (({ spent with mem := (hosted 0x12 true).mem ++ cells 0xFFC0000020 (List.replicate 8 255) } : State).assignedCsn + 1) :=
  ⟨stands_of 0x12 true rfl (by decide +kernel), by decide +kernel⟩
theorem witness_OrderedCommands_twin : Stands twinned (.jobStop (hdr true)) (hdr true) (entry 0x12 true) ∧ twinned.hostCheck (.jobStop 1) = 0 ∧ twinned.mayCommit = true ∧
    twinned.role = 2 ∧ twinned.assignedCsn + 1 < 2 ^ 64 - 1 := ⟨stands_of 0x12 true rfl (by decide +kernel), by decide +kernel⟩
theorem witness_OrderedCommands_turn : Intact (hosted 0x12 true) ∧ Intact twinned ∧ (hosted 0x12 true).orderedTurn 1 = true ∧ twinned.orderedTurn 1 = true ∧
    spent.orderedTurn 1 = true ∧ twinned.hdir = [] := ⟨intact_of rfl rfl, intact_of rfl rfl, by decide +kernel, by decide +kernel, by decide +kernel, rfl⟩
theorem test_jobStop : leaves (.jobStop (hdr true)) (hosted 0x12 true) (fun t => (t.job 1).stopped && t.assignedCsn == 1 && t.written == 1 && (t.ring 0).opened.isEmpty) = true := by
  decide +kernel
theorem witness_OrderedCommandChecks : (0x123 : Nat) ∉ configOffsets ∧ (5 : Nat) < 1024 ∧ (List.replicate 256 0#8).length = 256 ∧
    (up [(regEnQptab, 1#64)]).rbit regEnQptab 0 = true ∧ (1 : Nat) < 2 ∧ ((up []).job 1).loaded = true ∧ (marked (up [])).handle 1 0 ≠ none := by decide +kernel
theorem witness_OrderedEffectsOnRingsAndJobs : (5 : Nat) < 64 ∧ (6 : Nat) ≤ 12 ∧ (6 : Nat) ≤ 14 ∧ (up []).rbit regLnVistab 0 = false ∧ (up []).hdir = [] := by decide +kernel
theorem witness_OrderedEffectsOnRingsAndJobs_intact : Intact (up []) := intact_of rfl rfl
theorem test_ringDelete : ((hosted 3 true).hostEffect (.ringDelete 0)).state.rings = [] := by decide +kernel
/-- Mark 5 of job 1, which is debugged, has a home. -/
def handSet : State := { up [(regMkMark 5, 0x8400000000000000#64), (regMkMap 1 0, 0x8005#64)] with jobs := [(1, { loaded := true, debug := true })] }
theorem witness_OrderedEffectsElsewhere : (up []).ledCheck 5 1 (leBytes 8 0x0001A46417C5A12C) [] = .ok ∧ (List.replicate 256 0#8).length = 256 ∧ (up []).hdir = [] ∧ (1 : Nat) < 2 ∧
    (withFw { slotA := some image } []).slotImage 0 = some image ∧ handSet.handle 1 0 = some (5, false) ∧ (handSet.job 1).debug = true ∧ (handSet.job 1).loaded = true ∧
    handSet.markMapped 5 = true ∧ handSet.markJob 5 = 1 := by
  refine ⟨by decide +kernel, by decide +kernel, rfl, by decide +kernel, rfl, by decide +kernel⟩
def handSetHost : State := { (handSet.setReg regFwJournal 0xFFC0000001#64) with rings := (hosted 0x42 true).rings, mem := (hosted 0x42 true).mem }
theorem test_handSet : leaves (.debugHandSet (hdr true) 0 9) handSetHost
    (fun t => t.rfld (regMkMark 5) 31 0 == 9 && t.reg regMkHandset == 1 && t.rbit (regMkJobstat 1) 0) = true := by decide +kernel
theorem witness_ReadingCommands : Stands (hosted 1 false) (.identify (hdr false)) (hdr false) (entry 1 false) ∧
    Stands (hosted 0x22 false) (.ledgerRead (hdr false) 3 0x9800) (hdr false) (entry 0x22 false) ∧ ((up []).led 3).value.length ≤ 32 ∧ (0x9800 : Nat) ≠ 0 ∧
    Stands (hosted 0x23 false) (.logRead (hdr false) [] 0x9800) (hdr false) (entry 0x23 false) ∧
    Stands (hosted 0x24 false) (.attest (hdr false) [] 0x9800) (hdr false) (entry 0x24 false) ∧
    Stands (hosted 0x43 false) (.folioReq (hdr false)) (hdr false) (entry 0x43 false) ∧ (hosted 0x43 false).hdir = [] ∧ (hosted 0x43 false).sets = [] := by
  refine ⟨stands_of 1 false rfl (by decide +kernel), stands_of 0x22 false rfl (by decide +kernel), by decide +kernel, by decide +kernel, stands_of 0x23 false rfl (by decide +kernel),
    stands_of 0x24 false rfl (by decide +kernel), stands_of 0x43 false rfl (by decide +kernel), rfl, rfl⟩
/-- An entry of the Ledger that a result does not hold. -/
theorem witness_ReadingCommands_long : ∃ n, n ≠ 0 ∧ n ≠ 2 ∧ n ≤ 10 ∧ 32 < ((up []).led n).value.length := ⟨4, by decide +kernel⟩
theorem witness_ReadingCommands_buffers : bufOk 0x9800 ((up []).led 4).value.length = true ∧ bufOk 0x9800 (64 * (hosted 0x23 false).logCount + 2420) = true ∧
    bufOk 0x9800 2804 = true ∧ bufOk 0x1F000000000 2804 = false ∧ Intact (hosted 0x22 false) :=
  ⟨by decide +kernel, by decide +kernel, by decide +kernel, by decide +kernel, intact_of rfl rfl⟩
theorem test_seed_is_not_read : leaves (.ledgerRead (hdr false) 2 0x9800) (hosted 0x22 false) (fun t => t.rd 0xA002 == 2) = true := by decide +kernel
def dTask32 : List Byte := words [0x2000, 0, 11, 12]
/-- The device queue is full. -/
def fullQueue : State := { hosted 0x13 false with dx := { devq := List.replicate 3072 (tk false 0 0) } }
theorem witness_TasksAreSubmitted : Stands (hosted 0x13 false) (.taskSubmit (hdr false) dTask32) (hdr false) (entry 0x13 false) ∧ dTask32.length = 32 ∧
    (hosted 0x13 false).jobRuns 1 = true ∧ ((hosted 0x13 false).setJob 1 {}).jobRuns 1 = false ∧ taskDescOk (padB 64 dTask32) = true ∧
    taskDescOk (padB 64 (words [1, 0, 0, 0])) = false ∧ (hosted 0x13 false).dx.room false = true ∧ (wordAt dTask32 8).toNat.testBit 63 = false ∧
    fullQueue.dx.room ((wordAt dTask32 8).toNat.testBit 63) = false ∧ fullQueue.rbit regDxSpill 0 = false := ⟨stands_of 0x13 false rfl (by decide +kernel), by decide +kernel⟩
theorem witness_TasksAreSubmitted_waits : Stands fullQueue (.taskSubmit (hdr false) dTask32) (hdr false) (entry 0x13 false) := stands_of 0x13 false rfl (by decide +kernel)
theorem test_taskSubmit : leaves (.taskSubmit (hdr false) dTask32) (hosted 0x13 false) (fun t => t.dx.devq.map Task.entry == [0x2000#64] && (t.ring 0).opened.isEmpty) = true := by
  decide +kernel
theorem witness_GenerationsAndPublications : Stands (hosted 0x15 false) (.genHold (hdr false)) (hdr false) (entry 0x15 false) ∧ ((hosted 0x15 false).job 1).loaded = true ∧
    ((hosted 0x15 false).holds.filter (fun h => h.ring == 0)).length < 16 ∧ Stands (hosted 0x16 false) (.genRelease (hdr false) 4) (hdr false) (entry 0x16 false) ∧
    (⟨1, 4, 0⟩ : GenHold) ∉ (hosted 0x16 false).holds ∧ (⟨1, 4, 0⟩ : GenHold) ∈ ({ hosted 0x16 false with holds := [⟨1, 4, 0⟩] } : State).holds ∧
    Stands (hosted 0x14 true) (.publish (hdr true) 0x9800) (hdr true) (entry 0x14 true) ∧ (hosted 0x14 true).jobRuns 1 = true ∧
    parseList ((hosted 0x14 true).rdN 0x9800 144) = none := by
  refine ⟨stands_of 0x15 false rfl (by decide +kernel), by decide +kernel, by decide +kernel, stands_of 0x16 false rfl (by decide +kernel), by decide +kernel, by decide +kernel,
    stands_of 0x14 true rfl (by decide +kernel), by decide +kernel, by decide +kernel⟩
/-- Table 0 of job 1 has a staging edition of step 6, and a list that names it lies at 0x9800. -/
def staged : State :=
  let s := hosted 0x14 true
  withTab { s with mem := s.mem ++ cells 0x9800 [1, 0, 0, 0, 0, 0, 0, 0], tables := [(4096, { slots := [⟨0, .staging, 6, [], 0, 0, false⟩] })] } 0x80000
theorem witness_GenerationsAndPublications_lists : Stands staged (.publish (hdr true) 0x9800) (hdr true) (entry 0x14 true) ∧ staged.jobRuns 1 = true ∧
    parseList (staged.rdN 0x9800 144) = some [0] ∧ staged.stageStep 1 [0] = some 6 ∧ ((staged.setTable 1 0 {}).stageStep 1 [0] = none) :=
  ⟨stands_of 0x14 true rfl (by decide +kernel), by decide +kernel⟩
theorem witness_GenerationsAndPublications_buffers : bufOk 0x9800 16 = true ∧ bufOk 0x9800 (16 + 2 * ([0] : List Nat).length) = true ∧
    bufOk 0x1F000000000 16 = false := by decide +kernel
theorem test_genHold : leaves (.genHold (hdr false)) (hosted 0x15 false) (fun t => decide (t.holds = [⟨1, 0, 0⟩])) = true := by decide +kernel
def jobImage0 : JobImage := ⟨0, [], [], [], [], 0, 0, false, List.replicate 64 0#8⟩
theorem witness_WaitingCommands : Stands (hosted 0x10 true) (.jobLoad (hdr true) jobImage0) (hdr true) (entry 0x10 true) ∧ ((hosted 0x10 true).job 1).loaded = true ∧
    Stands (hosted 0x17 true) (.stateRead (hdr true) 0 0 1 0x9800) (hdr true) (entry 0x17 true) ∧
    Stands ((hosted 0x21 true).setReg regPwInput 0) (.ledgerWrite (hdr true) 5 [] []) (hdr true) (entry 0x21 true) ∧ ((hosted 0x21 true).setReg regPwInput 0).rfld regPwInput 63 48 < 3050 := by
  refine ⟨stands_of 0x10 true rfl (by decide +kernel), by decide +kernel, stands_of 0x17 true rfl (by decide +kernel),
    stands_of 0x21 false rfl (by decide +kernel), by decide +kernel⟩
/-- Job 1 is not loaded. -/
def unloaded : State := (hosted 0x10 true).setJob 1 {}
theorem witness_WaitingCommands_load : Stands unloaded (.jobLoad (hdr true) jobImage0) (hdr true) (entry 0x10 true) ∧ unloaded.loadRefused 1 jobImage0 = 0 ∧
    Stands (withTab (hosted 0x17 true) 0x80000) (.stateRead (hdr true) 0 0 1 0x9800) (hdr true) (entry 0x17 true) ∧
    (match (withTab (hosted 0x17 true) 0x80000).desc 1 0 with
      | some d => decide (0 + 1 ≤ d.rows ∧ d.rows < 4 + 1)
      | none => false) = true :=
  ⟨stands_of 0x10 true rfl (by decide +kernel), by decide +kernel, stands_of 0x17 true rfl (by decide +kernel), by decide +kernel⟩
theorem witness_WaitingCommands_buffers : bufOk 0x9800 (1 * 64) = true ∧ bufOk 0x1F000000000 64 = false := by decide +kernel
/-- Ring pair 1 has an entry open. -/
def two : State := { hosted 3 true with rings := (hosted 3 true).rings ++ [(1, { created := true, cb := 0x8100, opened := [entryOf [1]] })] }
theorem witness_WaitingCommands_delete : Stands two (.ringDelete (hdr true) 1) (hdr true) (entry 3 true) ∧ two.hostCheck (.ringDelete 1) = 0 ∧ (two.ring 1).opened ≠ [] :=
  ⟨stands_of 3 false rfl (by decide +kernel), by decide +kernel⟩
theorem witness_LedgerWrites : ledPath 2 1 = false ∧ ledPath 5 1 = true ∧ (leBytes 8 0x0001A46417C5A12C).length = ledSize 5 ∧ shedOk (leWord (leBytes 8 0)) = false ∧
    ledPath 6 1 = true ∧ (leBytes 4 1).length = ledSize 6 ∧ leNat (leBytes 4 1) < owned.ledNum 6 ∧ shedOk (leWord (leBytes 8 0x0001A46417C5A12C)) = true ∧
    (({ up [] with ledger := [(5, ⟨[], 16⟩)] } : State).led 5).count = ledLimit 5 ∧ ((up []).led 5).count < ledLimit 5 ∧ (up []).ledNum 3 = 0 ∧ owned.ledNum 3 ≠ 0 ∧
    (up []).ledCheck 2 1 [] [] ≠ .ok ∧ (up []).ledCheck 5 1 (leBytes 8 0x0001A46417C5A12C) [] = .ok := by decide +kernel

/-! ### The management port -/

/-- The module after its start, with the manager's side of the port. -/
def mgd (m : Mgr) (l : List (Nat × Word)) : State := { up ([(regPwInput, 0x1518000000000000#64)] ++ l) with mgr := m, power := { full := false } }
def pkt : MctpPacket := ⟨true, true, true, 1, 0, 5, [1, 2, 3]⟩
/-- A message of tag 0 is put together. -/
def asm0 : Mgr := { asm := [⟨0, 1, 5, [9]⟩] }
/-- An update of slot 1. -/
def upd1 (im : Option FwImage) : Mgr := { upd := some ⟨1, 0, im⟩ }
/-- The Ledger gives the port a static address of 9 and endpoint 8. -/
def addressed : State := { mgd {} [] with ledger := [(8, ⟨[9, 8, 0, 0, 0, 0, 0, 0], 1⟩)] }

theorem witness_ThePort : isPortRow .getpid = true ∧ State.reset.mgrUp = false ∧ (mgd {} []).mgrUp = true := by decide +kernel
theorem witness_PacketsMakeMessages : (mgd {} []).mgrUp = true ∧ { pkt with pecOk := false }.pecOk = false ∧ 64 < { pkt with bytes := List.replicate 65 0 }.bytes.length ∧
    pkt.pecOk = true ∧ pkt.bytes.length ≤ 64 ∧ { pkt with som := false }.som = false ∧ (mgd asm0 []).asmOf pkt.tag = some ⟨0, 1, 5, [9]⟩ ∧ (1 : Nat) = pkt.seq.toNat ∧
    { pkt with eom := false }.eom = false ∧ (mgd {} []).asmOf pkt.tag = none ∧ pkt.ty ∈ [0x00, 0x01, 0x05, 0x7F] ∧ 9 ∉ [0x00, 0x01, 0x05, 0x7F] ∧ (mgd {} []).mgr.held < 4 ∧
    4 ≤ (mgd { held := 4 } []).mgr.held := by decide +kernel
theorem test_bad_pec : leaves (.mctpPacket { pkt with pecOk := false }) (mgd {} []) (fun t => t.reg regFeMctpErr == 1) = true := by decide +kernel
theorem test_more_of_a_message : leaves (.mctpPacket { pkt with som := false, eom := false }) (mgd asm0 []) (fun t => decide (t.mgr.asm = [⟨0, 2, 5, [9, 1, 2, 3]⟩])) = true := by
  decide +kernel
theorem test_fifth_request : leaves (.mctpPacket pkt) (mgd { held := 4 } []) (fun t => t.mgr.held == 4 && decide (t.out.map Out.args = [[1]])) = true := by decide +kernel
theorem witness_PortRegisters : (mgd {} []).mgrUp = true ∧ (0x3070014 : Nat) % 8 ≠ 0 ∧ (0x3070010 : Nat) % 8 = 0 ∧ (mgd {} []).portReaches 0x3070010 = true ∧
    (({ State.reset with power := { full := false } } : State).portReaches 0x3070010 = false) ∧ 0x3000000 ∉ [0x3070010, 0x3070008, 0x3060040, 0xF020008, 0xF020018] ∧
    (1#64).getLsbD 0 = true := by decide +kernel
theorem test_regWrite_refused : leaves (.regWrite 0x3000000 1) (mgd {} []) (fun t => decide (t.out.map Out.args = [[1, 0]])) = true := by decide +kernel
theorem witness_PortLedger : (mgd {} []).mgrUp = true ∧ (3 : Nat) ≤ 10 ∧ (up []).rfld regPwInput 63 48 < 3050 ∧ 3050 ≤ (mgd {} []).rfld regPwInput 63 48 ∧
    (mgd {} []).ledCheck 2 2 [] [] ≠ .ok ∧ (mgd {} []).ledCheck 7 2 [1] [] = .ok ∧ (mgd {} []).ledCheck 8 2 [9, 8, 0, 0, 0, 0, 0, 0] [] = .ok ∧ State.reset.joined 167 = false ∧
    (mgd {} []).joined 167 = true := by decide +kernel
theorem test_mgmtLedgerRead_seed : leaves (.mgmtLedgerRead 2) (mgd {} []) (fun t => decide (t.out.map Out.args = [[1]])) = true := by decide +kernel
theorem witness_BusCommands : (mgd {} []).mgrUp = true ∧ (5 : Nat) < 128 ∧ addressed.mgmtAddr 0 % 128 ≠ 0 ∧ (mgd {} []).mgmtAddr 0 % 128 = 0 ∧ (mgd {} []).rfld regFeStatus 8 2 = 0 ∧
    addressed.mgmtAddr 0 % 128 = 9 ∧ addressed.mgrUp = true := by decide +kernel
theorem test_setdasa : leaves (.setdasa 9 5) addressed (fun t => t.rfld regFeStatus 8 2 == 5) = true := by decide +kernel
theorem witness_MctpControl : addressed.mgmtAddr 1 ≠ 0 ∧ (mgd {} []).mgmtAddr 1 = 0 ∧ (7 : Nat) ≠ 0 ∧ 7 < 255 ∧ addressed.mgrUp = true := by decide +kernel
theorem test_setEndpointId : leaves (.setEndpointId 7) (mgd {} []) (fun t => t.rfld regFeStatus 23 16 == 7 && decide (t.out.map Out.args = [[0, 0, 7]])) = true := by decide +kernel
theorem witness_PldmAnswers : (mgd {} []).mgrUp = true ∧ (2 : Nat) ∈ [0, 2, 5] ∧ (3 : Nat) ∉ [0, 2, 5] := by decide +kernel
theorem test_getsensorreading : leaves (.getsensorreading 4) (mgd {} []) (fun t => decide (t.out.map Out.args = [[0, 5400]])) = true := by decide +kernel
theorem test_getpdr_last : leaves (.getpdr 72) (mgd {} []) (fun t => decide (t.out.map Out.args = [[0, 0, 103, 1]])) = true := by decide +kernel
theorem witness_Updates : (mgd {} []).mgrUp = true ∧ (mgd (upd1 none) []).mgr.upd ≠ none ∧ (mgd {} []).mgr.upd = none ∧ (mgd {} []).hostStage = false ∧ (mgd {} []).joined 175 = true ∧
    (mgd (upd1 none) []).mgr.upd = some ⟨1, 0, none⟩ ∧ (mgd (upd1 none) []).joined 175 = true ∧ (mgd {} []).rbit regFwStatus 0 = true := by decide +kernel
theorem test_update_data : leaves (.requestfirmwaredata 0 none) (mgd (upd1 none) []) (fun t => decide (t.mgr.upd = some ⟨1, 1024, none⟩ ∧ t.out.map Out.args = [[1024, 1024]])) = true := by
  decide +kernel
theorem witness_ActivatesUpdates : (mgd {} []).mgr.upd = none ∧ (mgd (upd1 (some image)) []).mgrUp = true ∧ (mgd (upd1 (some image)) []).mgr.upd = some ⟨1, 0, some image⟩ ∧
    3050 ≤ (mgd (upd1 (some image)) []).rfld regPwInput 63 48 ∧ ((mgd {} []).led 7).count < 128 ∧ (mgd {} []).ledNum 3 = 0 ∧ (mgd {} []).fwUp = true ∧
    (mgd {} [(regFwStatus, 0#64)]).fwUp = false := by
  refine ⟨rfl, by decide +kernel, rfl, by decide +kernel⟩
theorem witness_ActivatesUpdates_image : (mgd (upd1 (some image)) []).imageFail (some image) = 0 := by
  simp [State.imageFail, image, mgd, up, State.ledNum, State.led, smapGet, ledDefault]; decide
theorem test_nothing_to_activate : leaves .activatefirmware (mgd (upd1 none) []) (fun t => decide (t.out.map Out.args = [[0x81]])) = true := by decide +kernel
theorem witness_Attestation : (mgd {} []).mgrUp = true ∧ (mgd {} []).joined 175 = true ∧
    ({ State.reset with power := { full := false } } : State).joined 175 = false ∧ ({ State.reset with power := { full := false } } : State).mgrUp = true ∧
    (List.replicate 32 0#8).length = 32 := by decide +kernel
theorem test_getVersion : leaves .getVersion (mgd {} []) (fun t => decide (t.out.map Out.args = [[0, 1, 3]])) = true := by decide +kernel
theorem witness_AlertsAndOrders : (mgd { ibi := true } [(regFeAlert, 2#64), (regFeAlerten, 1#64)]).mgr.ibi = true ∧ (mgd { ibi := true } [(regFeAlert, 2#64), (regFeAlerten, 1#64)]).alertOn = false ∧
    (mgd {} []).mgr.ibi = false ∧ (mgd {} [(regFeAlert, 2#64), (regFeAlerten, 2#64)]).alertOn = true ∧ (mgd {} [(regFeStatus, 1#64)]).rbit regFeStatus 0 = true ∧
    (mgd {} []).mgrUp = true ∧ (mgd {} []).rbit regFeStatus 0 = false ∧ (mgd {} []).power.booting = false := by decide +kernel
theorem test_alerten : leaves (.feAlertenWrite 2) (mgd { ibi := true } [(regFeAlert, 2#64), (regFeAlerten, 1#64)]) (fun t => t.rbit regFePins 9 && decide (t.out.map Out.code = [2])) = true := by decide +kernel

/-! ### Side-band pins and register writes -/

theorem witness_InputPins : State.reset.mgrUp = false ∧ (mgd {} [(regFePins, 0x10#64)]).chatters .throtN = true ∧ (mgd {} [(regFePins, 0x10#64)]).mgrUp = true ∧
    (mgd {} []).chatters .throtN = false := by decide +kernel
theorem test_throttle : leaves (.throtNChange true) (mgd {} []) (fun t => t.rbit regFePins 1 && t.dx.gov.ext) = true := by decide +kernel
theorem test_chatter : leaves (.chatterDeclare .throtN) (mgd {} []) (fun t => t.chatters .throtN && t.dx.gov.ext && t.reg regFeChatter == 1) = true := by decide +kernel
theorem witness_ResetPin : (mgd {} [(regFePins, 1#64)]).resetPin = true ∧ (mgd {} []).resetPin = false ∧ (mgd {} []).power.booting = false ∧ (mgd {} []).power.full = false ∧
    (mgd {} [(regFePins, 1#64), (regPwStatus, 0x1000#64)]).pwHeld = true ∧ (mgd {} [(regFePins, 1#64), (regPwStatus, 0x1000#64)]).effStep < 4 ∧
    (mgd {} [(regFePins, 1#64)]).pwHeld = false := by decide +kernel
theorem witness_ThrottleAndHeartbeat : (mgd {} []).dx.gov.ext = false ∧ ((mgd {} []).setRbit regFePins 1 true).wouldAdmit (upto 16) = true ∧
    ({ mgd {} [] with dx := { gov := { ext := true } } } : State).dx.gov.ext = true ∧ (mgd {} []).twin.lapsed = false ∧ (member 0x406#64 { lapsed := true }).twin.lapsed = true ∧
    (member 0x406#64 { lapsed := true }).role = 6 ∧ (member 0x405#64 { lapsed := true }).role = 5 := by decide +kernel
theorem witness_RegisterWritesThatMiss : ¬ ((2 : Nat) = 8 ∧ (0x3010180 : Nat) % 8 = 0) ∧ (up []).regPlace (0xFFF0000 / 8 * 8) = none ∧
    (match State.reset.regPlace (0x3010180 / 8 * 8) with
      | some p => !State.reset.answers p
      | none => false) = true := by decide +kernel
theorem witness_RegisterAccess : (∀ off ∈ [0x3000018, 0x3010180, 0x3040000, 0x3050000, 0x3070008, 0x3100000, 0x3200018, 0x4000020, 0xF000000], (match (up []).regPlace off with
    | some p => (up []).answers p && (regAt p.key).isSome
    | none => false) = true) := by decide +kernel
theorem test_register_half : leaves (.registerWrite 0x4000024 4 0x12345678) (up []) (fun t => t.rfld regEnCc 31 0 == (up []).rfld regEnCc 31 0) = true := by decide +kernel

/-! ### Well-formedness: a term that each check refuses -/

def badHart : Hart := ⟨132, 0⟩
def badHdr : EntryHdr := ⟨64, true, 1, 0, true⟩
def badJob : EntryHdr := ⟨0, true, 16, 0, true⟩

/-- None of these is well formed. -/
def allIll (l : List Instr) : Bool := l.all fun i => !i.wf

theorem test_ill_contexts : allIll [.add badHart ft, .add ⟨0, 2⟩ ft, .engineException badHart, .waitHang badHart, .cacheFillComplete ⟨⟨5, 2⟩, .miss, []⟩, .atomicComplete badHart,
    .skCancelComplete badHart] = true := by decide +kernel
theorem test_ill_clusters : allIll [.skSwapComplete 128, .innerOpStart 128 0, .skResume 128 0, .skQcfgWrite 0 8 0, .spRepairPass ⟨128, .ok⟩, .nbRequestServe 132 ⟨.ok, none, []⟩, .nbHotareaWrite 128 0,
    .nbUpdateAck 0 0 132, .ccDinv 132, .ccCfgWrite 132 0, .evbWriteAck 132, .patrolInkwell 128 [], .taskDispatch 128, .lgTileComplete 128 0 ⟨.ok, none, []⟩] = true := by decide +kernel
theorem test_ill_jobs_and_marks : allIll [.hmPinqWrite 16 0, .nbTbdirWrite 16 0, .stependRequest 16, .mkMarkWrite 4096 .full 0, .markUpdate 4096, .mkMapWrite 16 0 0, .mkMapWrite 0 256 0,
    .dxOwnareaWrite 16 0, .publicationStart 16, .delta 16 delta0, .rollback 16 0, .logFull 16, .folioAt 16 0, .standbyBuildComplete 16 0] = true := by decide +kernel
theorem test_ill_lines : allIll [.rdShr 16384 0, .rdShr 0 32, .rdOwn 0 281474976710656, .wrLine 0 0 [] 0, .wrPtl 0 0 0 [] 0, .rgRd 0 0 64 true, .data 0 0 [] 0, .cmp 16384,
    .err 16384 0, .snpInv 0 1, .srspData 0 0 0 [] 0, .resync 0 [], .pageDone 65536 0, .snoopTimeout 16384] = true := by decide +kernel
theorem test_ill_units : allIll [.foldSwap 16, .pprComplete 4 0 0, .pprComplete 0 16 0, .patrolReservoir 4 [] false, .phaseSpareIn 42, .domainSwitchComplete 176, .fwWatchdogExpire 4,
    .foldSwapComplete 16, .ethFrameReceive 2 .badFcs, .ethPortLinkChange 2 0 false] = true := by decide +kernel
theorem test_ill_rings_and_pairs : allIll [.doorbell 64 0, .intrHoldoffExpire 64, .ringEntryConsume 64, .ingestDatagram 64 0 0 false [], .rdmaWrite 1024 msg8, .qpDoorbell 1024 0,
    .markDropped 1024 0 0, .identify badHdr, .jobStop badJob, .ringCreate (hdr true) 64 0 6 6, .configWrite (hdr true) 268435456 0, .ledgerWrite (hdr true) 0 [] [],
    .ledgerRead (hdr true) 11 0, .qpReset (hdr true) 1024, .ingestCfg (hdr true) 64 0 0, .fwActivate (hdr true) 2] = true := by decide +kernel
theorem test_ill_port : allIll [.mctpPacket { pkt with tag := 16 }, .mctpReassemblyTimeout 16, .regRead 268435456, .regWrite 268435456 0, .mgmtLedgerRead 0, .mgmtLedgerWrite 11 [] [],
    .entdaa 128, .setdasa 0 128, .setEndpointId 256, .settid 256, .registerWrite 268435456 8 0, .registerWrite 0 2 0] = true := by decide +kernel
theorem test_ill_flits_and_frames : allIll [.flitReceive ⟨List.replicate 255 0#8, 0, true⟩, .carbonFrameReceive ⟨[1#8]⟩] = true := by
  decide +kernel
theorem test_well_formed : ([.add h0 ft, .rdShr 5 0x100000, .jobStop (hdr true), .registerWrite 0x3010180 8 1, .powerUp] : List Instr).all (fun i => i.wf) = true := by decide +kernel

end Sys2Proof.Tests
end

section
/-! # Scalar instructions: integer arithmetic (R78 to R80) and FCLASS (R83)

An instruction that `Runs` passes every gate of its issue, so its step is its own effect. That is said once for `State.issue` and once
for each scalar group; what is left of each statement is about result functions alone. -/

namespace Sys2Proof.Machine

/-! ### From issue to effect -/

/-- An instruction that runs has its own effect: no gate of R71 to R76 stops it. -/
theorem State.issue_of_runs {s : State} {i : Instr} {x : Issued} (hx : issued i = some x) (hr : s.Runs i) (body : State → State) :
    s.issue x.h x.word x.legal x.mask x.as x.ms body = body s := by
  simp only [State.Runs, hx] at hr
  obtain ⟨⟨hcan, hpc⟩, ⟨hlegal, hcopyist⟩, hfree, hpred⟩ := hr
  simp [State.issue, hcan, hpc, hlegal, hcopyist, hfree, hpred]

/-- Where it runs, an instruction of group 0x01 sets A[dst] to `g A[src1] A[src2]` and does nothing else (R78). -/
def MeansInt (i : Hart → FormT → Instr) (g : Word → Word → Word) : Prop :=
  ∀ (s : State) (h : Hart) (f : FormT), s.Runs (i h f) → exec (i h f) s = .next (s.intEff h f g)

/-- Where it runs, an instruction of group 0x02 sets A[dst] to `g A[src] imm pc` and does nothing else (R80). -/
def MeansImm (i : Hart → FormK → Instr) (g : Word → BitVec 32 → Word → Word) : Prop :=
  ∀ (s : State) (h : Hart) (f : FormK), s.Runs (i h f) → exec (i h f) s = .next (s.immEff h f fun a pc => g a f.imm pc)

/-- Group 0x01: a command that is `intOp` on issue means its result function. -/
theorem meansInt_of_intOp {i : Hart → FormT → Instr} {op : Nat} {two : Bool} {g : Word → Word → Word}
    (hexec : ∀ s h f, exec (i h f) s = s.intOp op two h f g) (hissued : ∀ h f, issued (i h f) = some (intIss op two h f)) :
    MeansInt i g := by
  intro s h f hr
  rw [hexec]
  exact congrArg Host.Outcome.next (State.issue_of_runs (hissued h f) hr _)

/-- Group 0x02: a command that is `immOp` on issue means its result function. -/
theorem meansImm_of_immOp {i : Hart → FormK → Instr} {op : Nat} {shift noSrc : Bool} {g : Word → BitVec 32 → Word → Word}
    (hexec : ∀ s h f, exec (i h f) s = s.immOp op shift noSrc h f fun a pc => g a f.imm pc)
    (hissued : ∀ h f, issued (i h f) = some (immIss op shift noSrc h f)) : MeansImm i g := by
  intro s h f hr
  rw [hexec]
  exact congrArg Host.Outcome.next (State.issue_of_runs (hissued h f) hr _)

/-- Group 0x03: where the instruction runs, its step is the effect of its result function (R81). -/
theorem State.fpOp_of_runs {s : State} {i : Instr} {op : Nat} {two : Bool} {h : Hart} {f : FormT}
    (g : Fmt → Rnd → Word → Word → Word → Word × FFlags) (hissued : issued i = some (fpIss op two h f)) (hr : s.Runs i) :
    s.fpOp op two h f g = .next (s.fpEff h f g) :=
  congrArg Host.Outcome.next (State.issue_of_runs hissued hr _)

/-- The effect on known operand values. -/
theorem MeansInt.exec_of_operands {i : Hart → FormT → Instr} {g : Word → Word → Word} (hi : MeansInt i g) {s : State} {h : Hart}
    {f : FormT} {a b r : Word} (ha : (s.ctx h).getA f.src1.toNat = a) (hb : (s.ctx h).getA f.src2.toNat = b) (hg : g a b = r)
    (hr : s.Runs (i h f)) : exec (i h f) s = .next (s.modCtx h fun c => (c.setA f.dst.toNat r).next) := by
  subst ha hb hg
  exact hi s h f hr

/-! ### Result functions against the words of R78 and R80 -/

theorem b2w_slt (a b : Word) : b2w (a.slt b) = if a.toInt < b.toInt then 1 else 0 := by
  simp [b2w, BitVec.slt]

theorem b2w_ult (a b : Word) : b2w (a.ult b) = if a.toNat < b.toNat then 1 else 0 := by
  simp [b2w, BitVec.ult]

/-- MOVHI joins the constant to the low half (R80). -/
theorem ofNat_high_low (i : BitVec 32) (a : Word) :
    BitVec.ofNat 64 (i.toNat * 2 ^ 32 + a.toNat % 2 ^ 32) = i ++ a.extractLsb' 0 32 := by
  apply BitVec.eq_of_toNat_eq
  have hlow : a.toNat % 2 ^ 32 < 2 ^ 32 := Nat.mod_lt _ (by decide)
  rw [BitVec.toNat_append, BitVec.extractLsb'_toNat, Nat.shiftRight_zero, ← Nat.shiftLeft_add_eq_or_of_lt hlow, Nat.shiftLeft_eq,
    BitVec.toNat_ofNat, Nat.mod_eq_of_lt (by have := i.isLt; omega)]

/-! ### Division (R78, R79) -/

theorem meansInt_div : MeansInt .div divS := meansInt_of_intOp (fun _ _ _ => rfl) (fun _ _ => rfl)
theorem meansInt_divu : MeansInt .divu divU := meansInt_of_intOp (fun _ _ _ => rfl) (fun _ _ => rfl)
theorem meansInt_rem : MeansInt .rem remS := meansInt_of_intOp (fun _ _ _ => rfl) (fun _ _ => rfl)
theorem meansInt_remu : MeansInt .remu remU := meansInt_of_intOp (fun _ _ _ => rfl) (fun _ _ => rfl)

theorem divS_zero (a : Word) : divS a 0 = BitVec.allOnes 64 := if_pos rfl
theorem divU_zero (a : Word) : divU a 0 = BitVec.allOnes 64 := if_pos rfl
theorem remS_zero (a : Word) : remS a 0 = a := if_pos rfl
theorem remU_zero (a : Word) : remU a 0 = a := if_pos rfl

/-- The one quotient that 64 bits do not hold wraps, with remainder 0. -/
theorem divS_min_negOne : divS 0x8000000000000000#64 (BitVec.allOnes 64) = 0x8000000000000000#64 := by decide
theorem remS_min_negOne : remS 0x8000000000000000#64 (BitVec.allOnes 64) = 0 := by decide

theorem divisionCorners : Says.DivisionCorners := by
  intro s h f a ha
  refine ⟨fun hb => ⟨?_, ?_⟩, ?_⟩
  · simp only [List.forall_mem_cons, List.not_mem_nil, false_imp_iff, implies_true, and_true]
    exact ⟨meansInt_div.exec_of_operands ha hb (divS_zero a), meansInt_divu.exec_of_operands ha hb (divU_zero a)⟩
  · simp only [List.forall_mem_cons, List.not_mem_nil, false_imp_iff, implies_true, and_true]
    exact ⟨meansInt_rem.exec_of_operands ha hb (remS_zero a), meansInt_remu.exec_of_operands ha hb (remU_zero a)⟩
  · rintro rfl hb
    exact ⟨meansInt_div.exec_of_operands ha hb divS_min_negOne, meansInt_rem.exec_of_operands ha hb remS_min_negOne⟩

/-! ### Every operation of groups 0x01 and 0x02 -/

theorem meansInt_slt : MeansInt .slt fun a b => if a.toInt < b.toInt then 1 else 0 := by
  simp only [← b2w_slt]
  exact meansInt_of_intOp (fun _ _ _ => rfl) (fun _ _ => rfl)

theorem meansInt_sltu : MeansInt .sltu fun a b => if a.toNat < b.toNat then 1 else 0 := by
  simp only [← b2w_ult]
  exact meansInt_of_intOp (fun _ _ _ => rfl) (fun _ _ => rfl)

theorem meansImm_slti : MeansImm .slti fun a i _ => if a.toInt < (i.signExtend 64).toInt then 1 else 0 := by
  simp only [← b2w_slt]
  exact meansImm_of_immOp (fun _ _ _ => rfl) (fun _ _ => rfl)

theorem meansImm_sltiu : MeansImm .sltiu fun a i _ => if a.toNat < (i.signExtend 64).toNat then 1 else 0 := by
  simp only [← b2w_ult]
  exact meansImm_of_immOp (fun _ _ _ => rfl) (fun _ _ => rfl)

theorem meansImm_movhi : MeansImm .movhi fun a i _ => i ++ a.extractLsb' 0 32 := by
  simp only [← ofNat_high_low]
  exact meansImm_of_immOp (fun _ _ _ => rfl) (fun _ _ => rfl)

theorem scalarIntegerResults : Says.ScalarIntegerResults := by
  change ∀ e ∈ (_ : List ((Hart → FormT → Instr) × (Word → Word → Word))), MeansInt e.1 e.2
  simp only [List.forall_mem_cons, List.not_mem_nil, false_imp_iff, implies_true, and_true]
  refine ⟨?_, ?_, ?_, ?_, ?_, ?_, ?_, ?_, ?_, meansInt_slt, meansInt_sltu, ?_, ?_, ?_, ?_, ?_, ?_, ?_, meansInt_div, meansInt_divu,
    meansInt_rem, meansInt_remu, ?_, ?_, ?_⟩
  all_goals exact meansInt_of_intOp (fun _ _ _ => rfl) (fun _ _ => rfl)

theorem scalarConstantResults : Says.ScalarConstantResults := by
  change ∀ e ∈ (_ : List ((Hart → FormK → Instr) × (Word → BitVec 32 → Word → Word))), MeansImm e.1 e.2
  simp only [List.forall_mem_cons, List.not_mem_nil, false_imp_iff, implies_true, and_true]
  refine ⟨?_, ?_, ?_, ?_, ?_, ?_, ?_, meansImm_slti, meansImm_sltiu, ?_, meansImm_movhi, ?_⟩
  all_goals exact meansImm_of_immOp (fun _ _ _ => rfl) (fun _ _ => rfl)

/-! ### The counts of CLZ, CTZ and POPC (R78) -/

/-- A highest set bit is the binary logarithm. -/
theorem log2_eq_of_highest_bit {v n : Nat} (hn : v.testBit n = true) (habove : ∀ m, n < m → v.testBit m = false) : v.log2 = n := by
  have hle : 2 ^ n ≤ v := Nat.ge_two_pow_of_testBit hn
  have hlt : v < 2 ^ (n + 1) := Nat.lt_pow_two_of_testBit _ fun m hm => habove m hm
  exact (Nat.log2_eq_iff (by have := Nat.two_pow_pos n; omega)).2 ⟨hle, hlt⟩

theorem clz_toNat_of_highest_bit {a : Word} {n : Nat} (hn64 : n < 64) (hn : a.getLsbD n = true)
    (habove : ∀ m, n < m → a.getLsbD m = false) : (clz a).toNat = 63 - n := by
  have hne : a ≠ 0 := by rintro rfl; simp at hn
  have hlog : a.toNat.log2 = n := log2_eq_of_highest_bit hn habove
  rw [clz, if_neg hne, hlog, BitVec.toNat_ofNat]
  omega

/-- The search upward from `i` ends at the lowest set bit that its fuel reaches. -/
theorem firstSet_eq_of_lowest_bit {v n fuel i : Nat} (hi : i ≤ n) (hfuel : n < i + fuel) (hn : v.testBit n = true)
    (hbelow : ∀ m, m < n → v.testBit m = false) : firstSet v fuel i = n := by
  induction fuel generalizing i with
  | zero => omega
  | succ k ih =>
    rw [firstSet]
    obtain rfl | hlt := hi.eq_or_lt
    · rw [if_pos hn]
    · rw [if_neg (by simp [hbelow i hlt]), ih hlt (by omega)]

theorem ctz_toNat_of_lowest_bit {a : Word} {n : Nat} (hn64 : n < 64) (hn : a.getLsbD n = true)
    (hbelow : ∀ m, m < n → a.getLsbD m = false) : (ctz a).toNat = n := by
  rw [ctz, firstSet_eq_of_lowest_bit (Nat.zero_le n) (by omega) hn hbelow, BitVec.toNat_ofNat]
  omega

theorem popCount_eq_length_filter (v n : Nat) : popCount v n = ((List.range n).filter v.testBit).length := by
  induction n with
  | zero => rfl
  | succ n ih =>
    rw [popCount, ih, List.range_succ, List.filter_append, List.length_append]
    cases hb : v.testBit n <;> simp [b2n, hb]

theorem popc_toNat (a : Word) : (popc a).toNat = ((List.range 64).filter fun n => a.getLsbD n).length := by
  have hle : popCount a.toNat 64 ≤ 64 := by
    rw [popCount_eq_length_filter]
    exact (List.length_filter_le _ _).trans_eq List.length_range
  rw [popc, BitVec.toNat_ofNat, Nat.mod_eq_of_lt (by omega), popCount_eq_length_filter]
  rfl

theorem bitCounts : Says.BitCounts :=
  ⟨fun _ => ⟨by decide, fun _ => clz_toNat_of_highest_bit⟩, fun _ => ⟨by decide, fun _ => ctz_toNat_of_lowest_bit⟩, popc_toNat⟩

/-- Settles O7: each instruction that runs is its effect, with the result that R78 and R80 give; the counts and the corners of
division are facts about the result functions. -/
theorem integerArithmetic : Obligations.IntegerArithmetic :=
  ⟨scalarIntegerResults, scalarConstantResults, bitCounts, divisionCorners⟩

/-! ### FCLASS (R83) -/

/-- The number of the class bit of R83 for a number with this sign, exponent field and fraction field. -/
def Fmt.classBit (p : Fmt) (neg : Bool) (ex fr : Nat) : Nat :=
  if ex = 2 ^ p.ew - 1 then (if fr = 0 then (if neg then 0 else 7) else if fr.testBit (p.mw - 1) then 9 else 8)
  else if ex = 0 then (if fr = 0 then (if neg then 3 else 4) else if neg then 2 else 5)
  else if neg then 1 else 6

theorem Fmt.classBit_lt (p : Fmt) (neg : Bool) (ex fr : Nat) : p.classBit neg ex fr < 10 := by
  unfold Fmt.classBit
  split_ifs <;> decide

/-- In a format with infinities the class is the one bit that the fields name. A subnormal is told from a normal number by its
significand, which has no leading bit at 2^mw. -/
theorem Fmt.classify_eq_two_pow {p : Fmt} (hp : p.kind = .ieee) (x : Nat) :
    p.classify x = 2 ^ p.classBit (x.testBit (p.ew + p.mw)) (x / 2 ^ p.mw % 2 ^ p.ew) (x % 2 ^ p.mw) := by
  have hfr : x % 2 ^ p.mw < 2 ^ p.mw := Nat.mod_lt _ (Nat.two_pow_pos _)
  generalize hs : x.testBit (p.ew + p.mw) = neg
  generalize he : x / 2 ^ p.mw % 2 ^ p.ew = ex
  generalize hf : x % 2 ^ p.mw = fr at hfr
  simp only [Fmt.classify, Fmt.unpack, Fmt.classBit, Nat.shiftRight_eq_div_pow, hp, hs, he, hf, true_and, reduceCtorEq, false_and, if_false]
  by_cases htop : ex = 2 ^ p.ew - 1
  · simp only [if_pos htop]
    by_cases hzero : fr = 0
    · cases neg <;> simp [hzero]
    · cases fr.testBit (p.mw - 1) <;> simp [hzero]
  · simp only [if_neg htop]
    by_cases hsub : ex = 0
    · by_cases hzero : fr = 0
      · cases neg <;> simp [hsub, hzero]
      · cases neg <;> simp [hsub, hzero, hfr]
    · cases neg <;> simp [hsub]

/-- A result with no exception leaves SC_FFLAGS as it is. -/
@[simp] theorem Ctx.flag_none (c : Ctx) : c.flag .none = c := by
  simp [Ctx.flag, FFlags.none, FFlags.bits, b2n]

/-- FCLASS that runs writes the class of A[src1] to A[dst] and sets no flag. -/
theorem exec_fclass_of_runs {s : State} {h : Hart} {f : FormT} (hr : s.Runs (.fclass h f)) :
    exec (.fclass h f) s = .next (s.modCtx h fun c =>
      (c.setA f.dst.toNat (BitVec.ofNat 64 ((precOf f.ext).classify (fpIn (precOf f.ext) (c.getA f.src1.toNat))))).next) := by
  change execFclass h f s = _
  rw [execFclass, State.fpOp_of_runs _ rfl hr]
  simp only [State.fpEff, Ctx.flag_none]

/-- Settles O10: the class is two to the number of its bit, and that number is the place of the class in the list of R83. -/
theorem fclassIsOneHot : Obligations.FclassIsOneHot := by
  refine ⟨fun p hp a => ?_, fun _ _ _ => exec_fclass_of_runs⟩
  have hieee : p.kind = .ieee := by
    simp only [List.mem_cons, List.not_mem_nil, or_false] at hp
    obtain rfl | rfl := hp <;> rfl
  rw [Fmt.classify_eq_two_pow hieee]
  refine ⟨⟨_, Fmt.classBit_lt .., rfl⟩, ?_⟩
  rintro neg ex fr rfl rfl rfl
  simp only [Fmt.classBit, apply_ite (2 ^ · : Nat → Nat)]

end Sys2Proof.Machine
end

section
/-! # Marks: a signal beyond the top of COUNT (R331)

The home takes the update, saturates the mark and then re-tests its waits. The step is written so once; the two halves of the statement
read off the saturated state before the re-test and, where no wait is pending, after it. -/

namespace Sys2Proof.Machine

/-! ### What the mark operations leave unchanged -/

theorem regMkOvf_ne_regMkMark (n : Nat) : regMkOvf ≠ regMkMark n := by
  unfold regMkOvf regMkMark
  omega

@[simp] theorem State.putMark_then_ctx (s : State) (n : Nat) (m : MarkRt) (h : Hart) : (s.putMark n m).ctx h = s.ctx h := rfl
@[simp] theorem State.putMark_reports (s : State) (n : Nat) (m : MarkRt) : (s.putMark n m).reports = s.reports := rfl
@[simp] theorem State.putMark_events (s : State) (n : Nat) (m : MarkRt) : (s.putMark n m).events = s.events := rfl
@[simp] theorem State.putMark_mem (s : State) (n : Nat) (m : MarkRt) : (s.putMark n m).mem = s.mem := rfl
@[simp] theorem State.markRt_putMark_self (s : State) (n : Nat) (m : MarkRt) : (s.putMark n m).markRt n = m := s.markRt_setMarkRt_self n m

theorem State.reg_putMark_ne (s : State) {n q : Nat} (m : MarkRt) (h : q ≠ regMkMark n) : (s.putMark n m).reg q = s.reg q :=
  (s.setMarkRt n m).reg_setRfld_ne _ _ _ h

/-- WAITERS stands apart from COUNT. -/
@[simp] theorem State.markCount_putMark (s : State) (n : Nat) (m : MarkRt) : (s.putMark n m).markCount n = s.markCount n :=
  (s.setMarkRt n m).rfld_setRfld_apart _ _ _ _ _ _ (by decide) (by decide) (by decide) (by decide)

/-- WAITERS stands apart from OVF. -/
@[simp] theorem State.ovf_putMark (s : State) (n : Nat) (m : MarkRt) : (s.putMark n m).rbit (regMkMark n) 62 = s.rbit (regMkMark n) 62 := by
  rw [State.rbit, State.putMark, State.setRfld, State.reg_setReg_self, bitOf_setFld_apart _ _ _ _ _ (by decide) (by decide) (by decide)]
  rfl

/-! ### Saturation -/

/-- COUNT at its top, OVF set, MK_OVF counted: what the home does before it re-tests the waits (R331). -/
def State.saturate (s : State) (n : Nat) : State := ((s.setCount n 0xFFFFFFFF).setRbit (regMkMark n) 62 true).bump regMkOvf

theorem State.applyMark_signal_of_overflow {s : State} {n i : Nat} (h : 0xFFFFFFFF < s.markCount n + i) :
    s.applyMark n (.signal i) = (s.saturate n).retestAll n := if_pos h

@[simp] theorem State.saturate_then_ctx (s : State) (n : Nat) (h : Hart) : (s.saturate n).ctx h = s.ctx h := rfl
@[simp] theorem State.saturate_reports (s : State) (n : Nat) : (s.saturate n).reports = s.reports := rfl
@[simp] theorem State.saturate_events (s : State) (n : Nat) : (s.saturate n).events = s.events := rfl
@[simp] theorem State.saturate_mem (s : State) (n : Nat) : (s.saturate n).mem = s.mem := rfl
@[simp] theorem State.saturate_then_markRt (s : State) (n q : Nat) : (s.saturate n).markRt q = s.markRt q := rfl

/-- Counting in MK_OVF leaves the mark's own register. -/
theorem State.reg_saturate_mark (s : State) (n : Nat) :
    (s.saturate n).reg (regMkMark n) = ((s.setCount n 0xFFFFFFFF).setRbit (regMkMark n) 62 true).reg (regMkMark n) :=
  State.reg_bump_ne _ (regMkOvf_ne_regMkMark n).symm

@[simp] theorem State.markCount_saturate (s : State) (n : Nat) : (s.saturate n).markCount n = 0xFFFFFFFF := by
  rw [State.markCount, State.rfld, State.reg_saturate_mark]
  calc ((s.setCount n 0xFFFFFFFF).setRbit (regMkMark n) 62 true).rfld (regMkMark n) 31 0
      = (s.setCount n 0xFFFFFFFF).rfld (regMkMark n) 31 0 :=
        State.rfld_setRfld_apart _ _ _ _ _ _ _ (by decide) (by decide) (by decide) (by decide)
    _ = 0xFFFFFFFF := State.rfld_setRfld _ _ _ _ _ (by decide) (by decide)

@[simp] theorem State.ovf_saturate (s : State) (n : Nat) : (s.saturate n).rbit (regMkMark n) 62 = true := by
  rw [State.rbit, State.reg_saturate_mark]
  exact (State.rbit_setRbit _ _ _ _ _ (by decide)).trans (if_pos rfl)

@[simp] theorem State.reg_saturate_mkOvf (s : State) (n : Nat) : (s.saturate n).reg regMkOvf = s.reg regMkOvf + 1 := by
  have hne := regMkOvf_ne_regMkMark n
  rw [State.saturate, State.reg_bump_self, State.reg_setRbit_ne _ _ _ hne, State.setCount, State.reg_setRfld_ne _ _ _ _ hne]

/-- Against `s`, mark `n` of `t` is saturated and counted, with no report, no event, no context and no byte of memory changed. -/
def Saturated (s t : State) (n : Nat) : Prop :=
  t.markCount n = 0xFFFFFFFF ∧ t.rbit (regMkMark n) 62 = true ∧ t.reg regMkOvf = s.reg regMkOvf + 1 ∧ (∀ h, t.ctx h = s.ctx h) ∧
    t.reports = s.reports ∧ t.events = s.events ∧ t.mem = s.mem

theorem saturated_saturate_putMark (s : State) (n : Nat) (m : MarkRt) : Saturated s ((s.putMark n m).saturate n) n := by
  simp [Saturated, State.reg_putMark_ne s m (regMkOvf_ne_regMkMark n)]

theorem Saturated.putMark {s t : State} {n : Nat} (h : Saturated s t n) (m : MarkRt) : Saturated s (t.putMark n m) n := by
  simpa [Saturated, State.reg_putMark_ne t m (regMkOvf_ne_regMkMark n)] using h

/-! ### The step of the home -/

/-- With one update under way the home takes it and applies it (R330). -/
theorem exec_markUpdate_of_single {s : State} {n : Nat} {u : MarkUpd} (hn : n < 4096) (hrun : s.dx.stopped = false)
    (hu : (s.markRt n).inflight = [u]) :
    exec (.markUpdate n) s = .next ((s.putMark n { s.markRt n with inflight := [] }).applyMark n u.op) := by
  change execMarkUpdate n s = _
  have hpick : pickUpd [u] = some (u, []) := by simp [pickUpd]
  rw [execMarkUpdate, if_pos ⟨hn, hrun⟩, State.markStep, hu, hpick]

/-- A re-test with no wait pending stores the mark's runtime again. -/
theorem State.retestAll_of_no_waits {s : State} {n : Nat} (h : (s.markRt n).waits = []) : s.retestAll n = s.putMark n (s.markRt n) := by
  rw [State.retestAll, h, State.retest, ← h]

/-- Settles O34: the home saturates the mark and then re-tests its waits; with none pending that re-test keeps what saturation did. -/
theorem signalsSaturate : Obligations.SignalsSaturate := by
  intro s n u i hn hrun hu hop hover
  have hexec : exec (.markUpdate n) s = .next (((s.putMark n { s.markRt n with inflight := [] }).saturate n).retestAll n) := by
    rw [exec_markUpdate_of_single hn hrun hu, hop, State.applyMark_signal_of_overflow (by rwa [State.markCount_putMark])]
  have hsat := saturated_saturate_putMark s n { s.markRt n with inflight := [] }
  refine ⟨⟨_, hexec, hsat⟩, fun hnone => ⟨_, hexec, ?_⟩⟩
  rw [State.retestAll_of_no_waits (by simpa using hnone)]
  exact hsat.putMark _

end Sys2Proof.Machine
end
